-- ==== Sys2Proof/Word.lean ====
section
/-! DEFINITION. The word types of the machine and their plainest arithmetic. -/

-- In every file: one declaration after another. The package is checked as one text, and threads that wait for one another take memory.
set_option Elab.async false

namespace Sys2Proof

/-- A 64-bit scalar register or control register (07_core.md R176). -/
abbrev Word := BitVec 64

/-- One byte, the smallest unit of storage (00_scope.md R4). -/
abbrev Byte := BitVec 8

/-- An instruction word (12_encoding.md R314). -/
abbrev IWord := BitVec 32

/-- A 5-bit register field (12_encoding.md R316). -/
abbrev Reg := BitVec 5

/-- A device identity: a SHA3-512 digest read as a number (01_package.md R21, R25). -/
abbrev DevId := Nat

/-- Bits `lo + len - 1` to `lo` of a word, as a number. -/
abbrev fldN {n : Nat} (w : BitVec n) (lo len : Nat) : Nat := w.toNat / 2 ^ lo % 2 ^ len

/-- Bits `lo + len - 1` to `lo` of a word. -/
abbrev fld {n : Nat} (w : BitVec n) (lo len : Nat) : BitVec len := BitVec.ofNat len (w.toNat / 2 ^ lo)

end Sys2Proof
end

