-- ==== Sys2Proof/Machine/Float.lean ====
section
/-! DEFINITION. Number formats, exact values, rounding and the mix function (11_arithmetic.md). -/

set_option Elab.async false

namespace Sys2Proof.Machine

/-! ## Tags (11_arithmetic.md R290) -/

/-- NONE. -/
def tNone : Nat := 0
/-- MASK. -/
def tMask : Nat := 1
/-- S32. -/
def tS32 : Nat := 4
/-- S64. -/
def tS64 : Nat := 5
/-- N32. -/
def tN32 : Nat := 8
/-- N64. -/
def tN64 : Nat := 9
/-- F16. -/
def tF16 : Nat := 0x0A
/-- BF16. -/
def tBF16 : Nat := 0x0B
/-- F32. -/
def tF32 : Nat := 0x0C
/-- F64. -/
def tF64 : Nat := 0x0D
/-- F8E4. -/
def tF8E4 : Nat := 0x0E
/-- F8E5. -/
def tF8E5 : Nat := 0x0F
/-- F4. -/
def tF4 : Nat := 0x10
/-- SF4. -/
def tSF4 : Nat := 0x11
/-- E3M5. -/
def tE3M5 : Nat := 0x12
/-- Z64. -/
def tZ64 : Nat := 0x13

/-- Codes 0x14 to 0x1F are reserved. -/
def tagReserved (t : Nat) : Bool := decide (0x14 ≤ t)

/-- Signed integer tags. -/
def tagSigned (t : Nat) : Bool := decide (2 ≤ t) && decide (t ≤ 5)

/-- Unsigned integer tags. -/
def tagUnsigned (t : Nat) : Bool := decide (6 ≤ t) && decide (t ≤ 9)

/-- Integer tags. -/
def tagInt (t : Nat) : Bool := decide (2 ≤ t) && decide (t ≤ 9)

/-- Floating-point and scale tags other than SF4. -/
def tagFloat (t : Nat) : Bool := (decide (0x0A ≤ t) && decide (t ≤ 0x10)) || t == 0x12

/-- Width in bits (11_arithmetic.md R290, 07_core.md R178); 0 for NONE and reserved codes. -/
def tagWidth (t : Nat) : Nat :=
  match t with
  | 1 => 1
  | 2 => 8 | 3 => 16 | 4 => 32 | 5 => 64
  | 6 => 8 | 7 => 16 | 8 => 32 | 9 => 64
  | 0x0A => 16 | 0x0B => 16 | 0x0C => 32 | 0x0D => 64
  | 0x0E => 8 | 0x0F => 8 | 0x10 => 4 | 0x11 => 4 | 0x12 => 8 | 0x13 => 64
  | _ => 0

/-! ## Formats (11_arithmetic.md R293) -/

/-- What an all-ones exponent means. -/
inductive TopExp
  | ieee
  | oneNan
  | normal
deriving DecidableEq, Repr

/-- A floating-point format: sign bit present, exponent bits, fraction bits, bias, top exponent. -/
structure Fmt where
  signed : Bool
  eb : Nat
  fb : Nat
  bias : Nat
  top : TopExp
deriving DecidableEq, Repr

/-- The format of a floating tag; SF4 codes have the format of F4. Other tags give F64. -/
def fmtOf (t : Nat) : Fmt :=
  match t with
  | 0x0A => ⟨true, 5, 10, 15, .ieee⟩
  | 0x0B => ⟨true, 8, 7, 127, .ieee⟩
  | 0x0C => ⟨true, 8, 23, 127, .ieee⟩
  | 0x0E => ⟨true, 4, 3, 7, .oneNan⟩
  | 0x0F => ⟨true, 5, 2, 15, .ieee⟩
  | 0x10 => ⟨true, 2, 1, 1, .normal⟩
  | 0x11 => ⟨true, 2, 1, 1, .normal⟩
  | 0x12 => ⟨false, 3, 5, 3, .normal⟩
  | _ => ⟨true, 11, 52, 1023, .ieee⟩

/-- Exponent of the smallest normal value. -/
def Fmt.emin (f : Fmt) : Int := 1 - (f.bias : Int)

/-- Significand and exponent of the largest finite value. -/
def Fmt.maxFinite (f : Fmt) : Nat × Int :=
  match f.top with
  | .ieee => (2 ^ (f.fb + 1) - 1, (2 ^ f.eb - 2 : Int) - f.bias - f.fb)
  | .oneNan => (2 ^ (f.fb + 1) - 2, (2 ^ f.eb - 1 : Int) - f.bias - f.fb)
  | .normal => (2 ^ (f.fb + 1) - 1, (2 ^ f.eb - 1 : Int) - f.bias - f.fb)

/-- Bits of the largest finite magnitude. -/
def Fmt.maxBits (f : Fmt) : Nat :=
  match f.top with
  | .ieee => (2 ^ f.eb - 1) * 2 ^ f.fb - 1
  | .oneNan => 2 ^ (f.eb + f.fb) - 2
  | .normal => 2 ^ (f.eb + f.fb) - 1

/-- The sign bit of a negative result. -/
def Fmt.signBit (f : Fmt) (neg : Bool) : Nat := if f.signed && neg then 2 ^ (f.eb + f.fb) else 0

/-- Bits of infinity's magnitude, where the format has one. -/
def Fmt.infBits (f : Fmt) : Nat := (2 ^ f.eb - 1) * 2 ^ f.fb

/-- Canonical NaN (11_arithmetic.md R293). -/
def Fmt.nanBits (f : Fmt) : Nat :=
  match f.top with
  | .ieee => f.infBits + 2 ^ (f.fb - 1)
  | .oneNan => 2 ^ (f.eb + f.fb) - 1
  | .normal => 0

/-! ## Exact values -/

/-- A value: NaN, an infinity, or `± m × 2^e`. With `more`, the magnitude lies strictly between `m × 2^e` and `(m + 1) × 2^e`. -/
inductive FVal
  | nan
  | inf (neg : Bool)
  | num (neg : Bool) (m : Nat) (e : Int) (more : Bool)
deriving DecidableEq, Repr, Inhabited

/-- Flags: NX 1, UF 2, OF 4, DZ 8, NV 16 (11_arithmetic.md R305). -/
abbrev Flg := BitVec 5

/-- NX. -/
def flNX : Flg := 1
/-- UF. -/
def flUF : Flg := 2
/-- OF. -/
def flOF : Flg := 4
/-- DZ. -/
def flDZ : Flg := 8
/-- NV. -/
def flNV : Flg := 16

/-- Read a floating-point code (11_arithmetic.md R293). -/
def fDecode (t : Nat) (b : Nat) : FVal :=
  let f := fmtOf t
  let fr := b % 2 ^ f.fb
  let ex := b / 2 ^ f.fb % 2 ^ f.eb
  let neg := f.signed && decide (b / 2 ^ (f.eb + f.fb) % 2 = 1)
  let allOnes := decide (ex = 2 ^ f.eb - 1)
  if allOnes && f.top = .ieee then (if fr = 0 then .inf neg else .nan)
  else if allOnes && f.top = .oneNan && fr = 2 ^ f.fb - 1 then .nan
  else if ex = 0 then .num neg fr (f.emin - f.fb) false
  else .num neg (2 ^ f.fb + fr) (f.emin - f.fb + (ex - 1 : Nat)) false

/-- A signalling NaN: leading fraction bit 0 in F64, F32, F16, BF16 and F8E5 (11_arithmetic.md R294). -/
def fSignalling (t : Nat) (b : Nat) : Bool :=
  let f := fmtOf t
  f.top = .ieee && fDecode t b = .nan && decide (b / 2 ^ (f.fb - 1) % 2 = 0)

/-- NV for a signalling operand. -/
def fSnanFlag (t : Nat) (b : Nat) : Flg := if fSignalling t b then flNV else 0

/-- Two's complement value of the low `w` bits. -/
def sextNat (w b : Nat) : Int := if 2 * (b % 2 ^ w) < 2 ^ w then (b % 2 ^ w : Nat) else ((b % 2 ^ w : Nat) : Int) - 2 ^ w

/-- The low `w` bits of an integer. -/
def truncInt (w : Nat) (z : Int) : Nat := (z % 2 ^ w).toNat

/-- The integer an element of an integer tag or MASK holds (11_arithmetic.md R291). -/
def intOf (t b : Nat) : Int := if tagSigned t then sextNat (tagWidth t) b else ((b % 2 ^ tagWidth t : Nat) : Int)

/-- An integer as an exact value; its zero is +0. -/
def FVal.ofInt (z : Int) : FVal := .num (decide (z < 0)) z.natAbs 0 false

/-- The exact value of an element of any tag but SF4 and Z64. -/
def valOf (t b : Nat) : FVal := if tagFloat t then fDecode t b else .ofInt (intOf t b)

/-! ## The mix function (11_arithmetic.md R312) -/

/-- H64. -/
def h64 (x : Word) : Word :=
  let z := x + 0x9E3779B97F4A7C15#64
  let z := (z ^^^ (z >>> 30)) * 0xBF58476D1CE4E5B9#64
  let z := (z ^^^ (z >>> 27)) * 0x94D049BB133111EB#64
  z ^^^ (z >>> 31)

/-- COIN. -/
def coin (seed : Word) (level n : Nat) : Bool := (h64 (seed ^^^ BitVec.ofNat 64 (level * 2 ^ 48) ^^^ BitVec.ofNat 64 n)).getLsbD 63

/-! ## Rounding (11_arithmetic.md R294, R295, R301, R302) -/

/-- A rounding mode with the seed register of stochastic rounding. -/
structure Rnd where
  mode : Nat
  seed : Word
deriving DecidableEq, Repr

/-- Round to nearest, ties to even. -/
def rne : Rnd := ⟨0, 0⟩

/-- D of R302 for index `i`. -/
def srDraw (r : Rnd) (i : Nat) : Nat :=
  fldN (h64 (BitVec.ofNat 64 (fldN r.seed 0 48) ^^^ BitVec.ofNat 64 (fldN r.seed 48 16 * 2 ^ 48) ^^^ BitVec.ofNat 64 i)) 32 32

/-- Whether the magnitude rounds up: integer part `k`, remainder `rem` of `2^sh`, `more` for a tail below the remainder. -/
def roundsUp (r : Rnd) (i : Nat) (neg : Bool) (k rem sh : Nat) (more : Bool) : Bool :=
  let half := 2 ^ sh / 2
  let inexact := decide (rem ≠ 0) || more
  match r.mode with
  | 0 => decide (half < rem) || (decide (rem = half) && decide (sh ≠ 0) && (more || decide (k % 2 = 1)))
  | 1 => false
  | 2 => neg && inexact
  | 3 => !neg && inexact
  | 4 => decide (half ≤ rem) && decide (sh ≠ 0)
  | _ =>
    if !inexact then false
    else if !neg then decide (srDraw r i < rem * 2 ^ 32 / 2 ^ sh)
    else
      let up := if more then 2 ^ sh - rem - 1 else 2 ^ sh - rem
      !decide (srDraw r i < up * 2 ^ 32 / 2 ^ sh)

/-- Bits of a natural number. -/
def bitLen (m : Nat) : Nat := if m = 0 then 0 else Nat.log2 m + 1

/-- Integer part and remainder of `m × 2^e` in units of `2^q`, with the number of remainder bits. -/
def splitAt (m : Nat) (e q : Int) : Nat × Nat × Nat :=
  if q ≤ e then (m * 2 ^ (e - q).toNat, 0, 0)
  else
    let sh := (q - e).toNat
    (m / 2 ^ sh, m % 2 ^ sh, sh)

/-- Result of an overflow (11_arithmetic.md R295). -/
def overflowBits (f : Fmt) (r : Rnd) (neg : Bool) : Nat :=
  match f.top with
  | .ieee =>
    let toMax := r.mode == 1 || (r.mode == 2 && !neg) || (r.mode == 3 && neg)
    f.signBit neg + (if toMax then f.maxBits else f.infBits)
  | _ => f.signBit neg + f.maxBits

/-- Round a nonzero magnitude into a format. -/
def roundNum (f : Fmt) (r : Rnd) (i : Nat) (neg : Bool) (m : Nat) (e : Int) (more : Bool) : Nat × Flg :=
  let top : Int := (bitLen m : Int) - 1 + e
  let qmin : Int := f.emin - f.fb
  let q : Int := max (top - f.fb) qmin
  let (k, rem, sh) := splitAt m e q
  let inexact := decide (rem ≠ 0) || more
  let k' := if roundsUp r i neg k rem sh more then k + 1 else k
  let (mm, me) := f.maxFinite
  let ovf := decide (mm * 2 ^ (me - qmin).toNat < k' * 2 ^ (q - qmin).toNat)
  if ovf then (overflowBits f r neg, flOF ||| flNX)
  else
    let tiny :=
      if f.emin ≤ top then false
      else if top < f.emin - 1 then true
      else
        let (k2, rem2, sh2) := splitAt m e (top - f.fb)
        !(roundsUp r i neg k2 rem2 sh2 more && decide (k2 + 1 = 2 ^ (f.fb + 1)))
    let bits := (q - qmin).toNat * 2 ^ f.fb + k'
    (f.signBit neg + bits, (if inexact then flNX else 0) ||| (if inexact && tiny then flUF else 0))

/-- RoundTo for a floating tag (12_encoding.md R328; 11_arithmetic.md R294, R295): bits and flags. -/
def fRound (t : Nat) (r : Rnd) (i : Nat) (v : FVal) : Nat × Flg :=
  let f := fmtOf t
  match v with
  | .nan => (f.nanBits, if f.top = .normal then flNV else 0)
  | .inf neg =>
    match f.top with
    | .ieee => (f.signBit neg + f.infBits, 0)
    | .oneNan => (f.nanBits, flNV)
    | .normal => (if !f.signed && neg then 0 else f.signBit neg + f.maxBits, flNV)
  | .num neg m e more =>
    if m = 0 && !more then (f.signBit neg, 0)
    else if !f.signed && neg then (0, flNV)
    else roundNum f r i neg m e more

/-- Round a value to an integer of `w` bits, clamping (11_arithmetic.md R292). -/
def fToInt (signed : Bool) (w : Nat) (r : Rnd) (i : Nat) (v : FVal) : Nat × Flg :=
  let hi : Int := if signed then 2 ^ (w - 1) - 1 else 2 ^ w - 1
  let lo : Int := if signed then -(2 ^ (w - 1)) else 0
  match v with
  | .nan => (truncInt w hi, flNV)
  | .inf neg => (truncInt w (if neg then lo else hi), flNV)
  | .num neg m e more =>
    let (k, rem, sh) := splitAt m e 0
    let k' := if roundsUp r i neg k rem sh more then k + 1 else k
    let z : Int := if neg then -(k' : Int) else k'
    if z < lo then (truncInt w lo, flNV)
    else if hi < z then (truncInt w hi, flNV)
    else (truncInt w z, if decide (rem ≠ 0) || more then flNX else 0)

/-! ## Exact operations -/

/-- Negation. -/
def FVal.neg : FVal → FVal
  | .nan => .nan
  | .inf s => .inf (!s)
  | .num s m e t => .num (!s) m e t

/-- An exact sum; the sign of an exact zero follows IEEE 754 under the rounding mode. -/
def FVal.add (mode : Nat) : FVal → FVal → FVal × Flg
  | .nan, _ => (.nan, 0)
  | _, .nan => (.nan, 0)
  | .inf a, .inf b => if a = b then (.inf a, 0) else (.nan, flNV)
  | .inf a, _ => (.inf a, 0)
  | _, .inf b => (.inf b, 0)
  | .num s1 m1 e1 t1, .num s2 m2 e2 t2 =>
    if m1 = 0 && !t1 then
      (if m2 = 0 && !t2 then (.num (if s1 = s2 then s1 else decide (mode = 2)) 0 0 false, 0) else (.num s2 m2 e2 t2, 0))
    else if m2 = 0 && !t2 then (.num s1 m1 e1 t1, 0)
    else
      let e := min e1 e2
      let a : Int := (m1 * 2 ^ (e1 - e).toNat : Nat)
      let b : Int := (m2 * 2 ^ (e2 - e).toNat : Nat)
      let z := (if s1 then -a else a) + (if s2 then -b else b)
      if z = 0 then (.num (decide (mode = 2)) 0 0 false, 0) else (.num (decide (z < 0)) z.natAbs e false, 0)

/-- An exact product. -/
def FVal.mul : FVal → FVal → FVal × Flg
  | .nan, _ => (.nan, 0)
  | _, .nan => (.nan, 0)
  | .inf a, .inf b => (.inf (a != b), 0)
  | .inf a, .num s m _ t => if m = 0 && !t then (.nan, flNV) else (.inf (a != s), 0)
  | .num s m _ t, .inf a => if m = 0 && !t then (.nan, flNV) else (.inf (a != s), 0)
  | .num s1 m1 e1 _, .num s2 m2 e2 _ => (.num (s1 != s2) (m1 * m2) (e1 + e2) false, 0)

/-- A quotient to at least 160 bits, with its tail noted. -/
def FVal.div : FVal → FVal → FVal × Flg
  | .nan, _ => (.nan, 0)
  | _, .nan => (.nan, 0)
  | .inf _, .inf _ => (.nan, flNV)
  | .inf a, .num s _ _ _ => (.inf (a != s), 0)
  | .num s _ _ _, .inf a => (.num (s != a) 0 0 false, 0)
  | .num s1 m1 e1 _, .num s2 m2 e2 _ =>
    if m2 = 0 then (if m1 = 0 then (.nan, flNV) else (.inf (s1 != s2), flDZ))
    else if m1 = 0 then (.num (s1 != s2) 0 0 false, 0)
    else
      let sh := 160 + bitLen m2
      let n := m1 * 2 ^ sh
      (.num (s1 != s2) (n / m2) (e1 - e2 - sh) (decide (n % m2 ≠ 0)), 0)

/-- Integer square root by bits from bit `b` down. -/
def isqrtBits (n : Nat) : Nat → Nat → Nat
  | 0, r => if (r + 1) * (r + 1) ≤ n then r + 1 else r
  | b + 1, r => isqrtBits n b (if (r + 2 ^ (b + 1)) * (r + 2 ^ (b + 1)) ≤ n then r + 2 ^ (b + 1) else r)

/-- Integer square root. -/
def isqrt (n : Nat) : Nat := isqrtBits n (bitLen n / 2 + 1) 0

/-- A square root to at least 120 bits, with its tail noted. -/
def FVal.sqrt : FVal → FVal × Flg
  | .nan => (.nan, 0)
  | .inf neg => if neg then (.nan, flNV) else (.inf false, 0)
  | .num s m e _ =>
    if m = 0 then (.num s 0 0 false, 0)
    else if s then (.nan, flNV)
    else
      let odd := decide (e % 2 ≠ 0)
      let n := (if odd then 2 * m else m) * 2 ^ 240
      let r := isqrt n
      (.num false r ((if odd then e - 1 else e) / 2 - 120) (decide (r * r ≠ n)), 0)

/-- Compare two numbers that are not NaN: -1, 0 or 1, with -0 equal to +0. -/
def FVal.cmp : FVal → FVal → Int
  | .inf a, .inf b => if a = b then 0 else if a then -1 else 1
  | .inf a, _ => if a then -1 else 1
  | _, .inf b => if b then 1 else -1
  | .num s1 m1 e1 _, .num s2 m2 e2 _ =>
    let e := min e1 e2
    let a : Int := (m1 * 2 ^ (e1 - e).toNat : Nat)
    let b : Int := (m2 * 2 ^ (e2 - e).toNat : Nat)
    let x := if s1 then -a else a
    let y := if s2 then -b else b
    if x < y then -1 else if y < x then 1 else 0
  | _, _ => 0

/-- Whether a value is a NaN. -/
def FVal.isNan (v : FVal) : Bool := v == .nan

/-- Sign of a value. -/
def FVal.isNeg : FVal → Bool
  | .nan => false
  | .inf s => s
  | .num s _ _ _ => s

/-- Order with -0 below +0, for minimum and maximum (11_arithmetic.md R294). -/
def FVal.below (a b : FVal) : Bool :=
  let c := a.cmp b
  c == -1 || (c == 0 && a.isNeg && !b.isNeg)

/-- Minimum (or maximum) of two codes of one floating tag (11_arithmetic.md R294). -/
def fMinMax (t : Nat) (wantMax : Bool) (a b : Nat) : Nat × Flg :=
  let x := fDecode t a
  let y := fDecode t b
  let fl := fSnanFlag t a ||| fSnanFlag t b
  if x.isNan then (if y.isNan then ((fmtOf t).nanBits, fl) else (b, fl))
  else if y.isNan then (a, fl)
  else (if (x.below y) != wantMax then a else if (y.below x) != wantMax then b else a, fl)

/-- A binary operation on exact values of two codes, rounded once. -/
def fBin (t : Nat) (r : Rnd) (i : Nat) (op : FVal → FVal → FVal × Flg) (a b : Nat) : Nat × Flg :=
  let (v, f1) := op (fDecode t a) (fDecode t b)
  let (z, f2) := fRound t r i v
  (z, fSnanFlag t a ||| fSnanFlag t b ||| f1 ||| f2)

/-- Addition in a floating tag. -/
def fAdd (t : Nat) (r : Rnd) (i a b : Nat) : Nat × Flg := fBin t r i (FVal.add r.mode) a b

/-- Subtraction in a floating tag. -/
def fSub (t : Nat) (r : Rnd) (i a b : Nat) : Nat × Flg := fBin t r i (fun x y => FVal.add r.mode x y.neg) a b

/-- Multiplication in a floating tag. -/
def fMul (t : Nat) (r : Rnd) (i a b : Nat) : Nat × Flg := fBin t r i FVal.mul a b

/-- Division in a floating tag. -/
def fDiv (t : Nat) (r : Rnd) (i a b : Nat) : Nat × Flg := fBin t r i FVal.div a b

/-- Square root in a floating tag. -/
def fSqrt (t : Nat) (r : Rnd) (i a : Nat) : Nat × Flg :=
  let (v, f1) := (fDecode t a).sqrt
  let (z, f2) := fRound t r i v
  (z, fSnanFlag t a ||| f1 ||| f2)

/-- `c ± a × b` with one rounding (11_arithmetic.md R294, Fusion). An invalid product sets NV even beside a NaN addend. -/
def fFma (t : Nat) (r : Rnd) (i : Nat) (negProd : Bool) (a b c : Nat) : Nat × Flg :=
  let (p, f0) := FVal.mul (fDecode t a) (fDecode t b)
  let (v, f1) := FVal.add r.mode (fDecode t c) (if negProd then p.neg else p)
  let (z, f2) := fRound t r i v
  (z, fSnanFlag t a ||| fSnanFlag t b ||| fSnanFlag t c ||| f0 ||| f1 ||| f2)

/-- Convert a code of any tag but SF4 and Z64 into another tag, rounding (11_arithmetic.md R292, R294). -/
def convTag (src dst : Nat) (r : Rnd) (i b : Nat) : Nat × Flg :=
  if tagFloat dst then
    let (z, f) := fRound dst r i (valOf src b)
    (z, (if tagFloat src then fSnanFlag src b else 0) ||| f)
  else if tagFloat src then
    let (z, f) := fToInt (tagSigned dst) (tagWidth dst) r i (fDecode src b)
    (z, fSnanFlag src b ||| f)
  else (truncInt (tagWidth dst) (intOf src b), 0)

/-! ## Promotion (11_arithmetic.md R306) -/

/-- Position of a tag in the list F4, E3M5, F8E4, F8E5, F16, BF16, F32, F64. -/
def floatOrder : List Nat := [tF4, tE3M5, tF8E4, tF8E5, tF16, tBF16, tF32, tF64]

/-- The floating tags of R306's list that represent every value of a tag. -/
def representers (t : Nat) : List Nat :=
  match t with
  | 2 => [tF16, tBF16, tF32, tF64]
  | 6 => [tF16, tBF16, tF32, tF64]
  | 3 => [tF32, tF64]
  | 7 => [tF32, tF64]
  | 4 => [tF64]
  | 8 => [tF64]
  | 0x0A => [tF16, tF32, tF64]
  | 0x0B => [tBF16, tF32, tF64]
  | 0x0C => [tF32, tF64]
  | 0x0D => [tF64]
  | 0x0E => [tF8E4, tF16, tBF16, tF32, tF64]
  | 0x0F => [tF8E5, tF16, tBF16, tF32, tF64]
  | 0x10 => [tF4, tF8E4, tF8E5, tF16, tBF16, tF32, tF64]
  | 0x12 => [tE3M5, tF16, tBF16, tF32, tF64]
  | _ => []

/-- The promoted tag of two operand tags, or none for TAGMIX; `optag` is VTYPE's tag. -/
def promote (optag a b : Nat) : Option Nat :=
  if a = tNone && b = tNone then some optag
  else if a = b then some a
  else if a = tNone then some b
  else if b = tNone then some a
  else if a = tMask || b = tMask || a = tSF4 || b = tSF4 then none
  else if a = tZ64 || b = tZ64 then (if tagInt (if a = tZ64 then b else a) then some tZ64 else none)
  else if tagSigned a && tagSigned b then some (max a b)
  else if tagUnsigned a && tagUnsigned b then some (max a b)
  else if tagInt a && tagInt b then
    let ws := tagWidth (if tagSigned a then a else b)
    let wn := tagWidth (if tagSigned a then b else a)
    match max ws (2 * wn) with
    | 8 => some 2
    | 16 => some 3
    | 32 => some 4
    | 64 => some 5
    | _ => none
  else if a = tN64 || a = tS64 || b = tN64 || b = tS64 then none
  else floatOrder.find? fun f => (representers a).contains f && (representers b).contains f

/-- An element of one tag in the promoted tag, exactly (11_arithmetic.md R306); `q` is the modulus. -/
def promoteElem (q src dst b : Nat) : Nat :=
  if src = tNone then 0
  else if src = dst then b
  else if dst = tZ64 then (intOf src b % (q : Int)).toNat
  else (convTag src dst rne 0 b).1

/-! ## SF4 (11_arithmetic.md R296, R297) -/

/-- code × micro-scale, exactly. -/
def sf4Val (code micro : Nat) : FVal := (FVal.mul (fDecode tSF4 code) (fDecode tE3M5 micro)).1

/-! ## Order codes (11_arithmetic.md R313) -/

/-- Order code of a 32-bit float. -/
def orderF32 (b : Nat) : Nat := if b < 2 ^ 31 then b + 2 ^ 31 else 2 ^ 32 - 1 - b

/-- Order code of an element of N32, S32, F32 or BF16. -/
def orderCode (t b : Nat) : Nat :=
  if t = tN32 then b % 2 ^ 32
  else if t = tS32 then (b % 2 ^ 32) ^^^ 2 ^ 31
  else if t = tBF16 then orderF32 (b % 2 ^ 16 * 2 ^ 16)
  else orderF32 (b % 2 ^ 32)

end Sys2Proof.Machine
end

