-- ==== Sys2Proof/Config.lean ====
section
/-! DEFINITION. What an implementation fixes and the free values: constants with no known value. A statement that holds of the
model holds whatever they are. -/

set_option Elab.async false

namespace Sys2Proof.Config

/-- The n-th route key that the package draws from its random source (03_routes.md R72). -/
opaque routeKey : Nat → BitVec 256

/-- The n-th start nonce that LOCK_INTERFACE_REQUEST draws (05_host.md R118). -/
opaque startNonce : Nat → BitVec 256

/-- Whether a lookup that finds an old translation beside a changed leaf uses the old one (08_memory.md R226): by core, core cycle and
virtual address. -/
opaque tlbKeeps : Nat → Nat → Nat → Bool

/-- Which of the pointer entries that a core's walk cache holds for an address a walk starts from; a number beyond them starts at the root
(08_memory.md R226): by core, cycle and address. -/
opaque walkFrom : Nat → Nat → Nat → Nat

/-- Byte `i` of the n-th block that is read without a defined content (04_storage.md R100, R109, R111). -/
opaque blockByte : Nat → Nat → Byte

/-- Cache misses of the n-th memory access, 0 for a hit: L1 data and L1 instruction (07_core.md R208). -/
opaque cacheMisses : Nat → Nat

/-- Cycles that requests of the n-th access waited at a bank (07_core.md R208, code 0x0B). -/
opaque bankWaits : Nat → Nat

/-- Application key and IV of the sending direction of a link session: the number of the session and of updates (02_fabric.md R37). -/
opaque linkKey : Nat → Nat → BitVec 256
opaque linkIv : Nat → Nat → BitVec 96

/-- The frame check sequence of an Ethernet frame (02_fabric.md R61). -/
opaque fcs : List Byte → BitVec 32

/-- Weight of a rate class at a fabric port, which the Wellhead sets (02_fabric.md R55). -/
opaque portWeight : Nat → Nat → Nat

/-- SHA3-512 of a string of bytes. The spec names the function; the model leaves it uninterpreted. -/
opaque sha3 : List Byte → BitVec 512

/-- ML-DSA-87 signature under the identity key of what SPDM's rules have signed: here, of the bytes that the answer is about (05_host.md R122). -/
opaque sign : List Byte → List Byte

/-- AES-256-GCM sealing: key, nonce, additional data and plaintext give the ciphertext with the 16-byte tag after it (05_host.md R128, R131). -/
opaque gcmSeal : BitVec 256 → BitVec 96 → List Byte → List Byte → List Byte

/-- Application key and application IV of a session: the number of the session, whether it is the direction from responder to requester, and
the number of updates of that direction (05_host.md R128, R131). -/
opaque sessionKey : Nat → Bool → Nat → BitVec 256
opaque sessionIv : Nat → Bool → Nat → BitVec 96

/-- What a block reads as under one storage key when it was written under another, none standing for plaintext: the AES-256-XTS decryption under the
new key of the encryption under the old one, with the block address as tweak (04_storage.md R100). Old key, new key, block address, data. -/
opaque xtsRead : Option (BitVec 256) → Option (BitVec 256) → Nat → List Byte → List Byte

/-- Maximum Data Transfer Size that the controller of a drive reports, in 4 KiB blocks; 0 is no limit (04_storage.md R97). -/
opaque mdts : Nat → Nat

/-- The identity public key that the identity seed yields (01_package.md R25). -/
opaque identityKey : List Byte

/-- The boot ROM (05_host.md R123). -/
opaque bootRom : List Byte

/-- The certificates from Horvin's root to the one before the identity certificate (05_host.md R122). -/
opaque rootChain : List Byte

/-- How the signed image writes its configuration, and the list of accepted peers, as bytes (05_host.md R123). -/
opaque configBytes : List Nat → List Byte
opaque peerBytes : List (BitVec 512) → Nat → List Byte

/-- Horvin's vendor identifier (01_package.md R19, R21). -/
opaque horvin : BitVec 16

/-- Currents of the rails and power at the n-th reading of them (05_host.md R134). -/
opaque rails : Nat → List Nat

/-- Words of configuration space that the rules do not give: by offset, and whether the recovery identity answers (01_package.md R19). -/
opaque configWord : Nat → Bool → BitVec 64

/-- Namespaces that the controller of a drive reports: NSID, capacity in blocks, and whether it has the LBA format of R97. -/
opaque namespaces : Nat → List (Nat × Nat × Bool)

/-- Whether an address lies in the share of the firmware region of a storage root port (04_storage.md R98). -/
opaque portShare : Nat → Nat → Bool

/-- Identifier that the n-th new enclave would have, before the next free one is taken (05_host.md R118). -/
opaque enclaveId : Nat → Nat

/-- Where the search for free key ids of the n-th new enclave begins (05_host.md R124). -/
opaque firstKey : Nat → Nat

/-- Guard entry `i` that the monitor chooses for the n-th new enclave (08_memory.md R235). -/
opaque grant : Nat → Nat → BitVec 64

/-- The number of the 1 MiB block of the firmware region that the monitor gives to the ASID table (08_memory.md R224). -/
opaque asidTab : BitVec 64

/-- MTVEC as the monitor writes it (10_traps.md R268). -/
opaque monitorVector : BitVec 64

/-- The supervisor vector that the monitor holds for an enclave after its n-th call (06_execution.md R145). -/
opaque supervisorVector : Nat → BitVec 64

/-- Whether the n-th change of configuration space disables MSI-X for the function (05_host.md R118). -/
opaque msixOff : Nat → Bool

end Sys2Proof.Config
end

