-- ==== Sys2Proof/Syntax.lean ====
section
/-! DEFINITION. The operations of the machine: one constructor of `Instr` for each row of the opcode table.
The rows with an instruction word come first and carry the fields of the word; the other rows are steps of the package
that no word encodes, and carry what the world outside chooses in that step. -/

set_option Elab.async false

namespace Sys2Proof

/-- A route value: body words 0 to 2 and the tag, word 3 (03_routes.md R65). -/
structure RouteVal where
  w0 : Word
  w1 : Word
  w2 : Word
  w3 : Word
deriving DecidableEq, Repr, Inhabited

/-- A fabric packet: the route value, the control words 4 to 7 and the payload (02_fabric.md R42). -/
structure Packet where
  route : RouteVal
  c4 : Word
  c5 : Word
  c6 : Word
  c7 : Word
  data : List Byte
deriving DecidableEq, Repr, Inhabited

/-- A link frame: the header fields of 02_fabric.md R38 and the valid payload beats of 16 bytes.
For a control frame the payload is `spdm`: whether it is a valid secured message. -/
structure Frame where
  fseq : Word
  ackseq : Word
  credit : BitVec 16
  kph : Bool
  ctrl : Bool
  nak : Bool
  idle : Bool
  akph : Bool
  lastk : Bool
  foff : BitVec 8
  beats : List (BitVec 128)
  spdm : Bool
deriving DecidableEq, Repr, Inhabited

/-- A link of the package: one of the 16 fabric ports, or one peer entry of an Ethernet port (02_fabric.md R31, R62). -/
inductive LinkRef
  | port (p : BitVec 4)
  | peer (eth : BitVec 2) (idx : BitVec 5)
deriving DecidableEq, Repr, Inhabited

/-- A firmware image in a flash slot (01_package.md R24, R25): whether its ML-DSA-87 signature over the SHA3-512 digest of `body` verifies
against Horvin's root public key, its security version, the parts of the signed configuration that the rules read, and the programs it holds. -/
structure FlashImage where
  sigOk : Bool
  secver : Nat
  totalVfs : Nat
  bskmap : BitVec 128
  hbPeriod : Nat
  minPeerVer : Nat
  ethFrames : Nat
  /-- vendor and device identifier of physical function 0 (01_package.md R19, R25) -/
  vendor : BitVec 16
  device : BitVec 16
  /-- port enables: fabric ports, then Ethernet ports 0 to 2 (01_package.md R25) -/
  ports : BitVec 19
  /-- EtherType of the fabric's Ethernet frames, 0x88B5 unless set, and the MAC address of each Ethernet port (02_fabric.md R61) -/
  etherType : BitVec 16
  macs : List (BitVec 48)
  /-- debug state, 0 when every debug path is disabled (05_host.md R123) -/
  debug : Byte
  /-- accepted peer monitor digests (02_fabric.md R34) -/
  peerDigests : List (BitVec 512)
  /-- the image as it stands in the flash -/
  body : List Byte
  /-- the Abnen monitor's image, and the firmware of Wellhead, Sluice and Siphon (05_host.md R123) -/
  monitor : List Byte
  wellhead : List Byte
  sluice : List Byte
  siphon : List Byte
deriving DecidableEq, Repr, Inhabited

/-- What the patrol scrubber or a failing array touches (01_package.md R26, R28). -/
inductive ScrubTarget
  | spad (core : Nat) (off : Nat)
  | line (pa : Nat)
  | coreState (core : Nat) (kind : BitVec 4) (slot : BitVec 3)
deriving DecidableEq, Repr, Inhabited

/-- What the error correction finds (01_package.md R26, R27). -/
inductive EccOutcome
  | clean
  | corrected
  | uncorrectable
deriving DecidableEq, Repr, Inhabited

/-- An endpoint counter (03_routes.md R75). -/
inductive CounterRef
  | core (n : Nat)
  | stack (s : BitVec 3)
  | wellhead
deriving DecidableEq, Repr, Inhabited

/-- One link of a domain's link map: a port or Ethernet peer entry of one package and the package at the far side (03_routes.md R81).
`hop` is the hop-list value of the port, `peer` the second slot of an Ethernet hop, `rhop` and `rpeer` the same seen from the far side. -/
structure MapLink where
  src : DevId
  hop : Nat
  peer : Option Nat
  dst : DevId
  rhop : Nat
  rpeer : Option Nat
deriving DecidableEq, Repr, Inhabited

/-- The structures of configuration space that a request may name: the standard header, the capability of R21 and the SR-IOV capability
(01_package.md R19, R21; 05_host.md R115). -/
inductive CfgPart
  | header
  | dvsec
  | sriov
  | other
deriving DecidableEq, Repr, Inhabited

/-- A place in configuration space: the structure and the offset in it. -/
structure CfgPlace where
  part : CfgPart
  off : Nat
deriving DecidableEq, Repr, Inhabited

/-- What a peer shows in link authentication beside its device identity (02_fabric.md R33, R34): whether its certificate chains to Horvin's root, whether
it proves possession of the identity key, its firmware security version and its measurement of the Abnen monitor; with the hop-list value of its
own end of the link, and for an Ethernet link the second slot (03_routes.md R81). -/
structure PeerAuth where
  hop : Nat
  second : Option Nat
  chainOk : Bool
  keyOk : Bool
  secver : Nat
  monitor : BitVec 512
deriving DecidableEq, Repr, Inhabited

/-- What a Wellhead reports of itself over its links: its package identifier and its links (03_routes.md R83). -/
structure MapReport where
  pkg : BitVec 16
  links : List MapLink
deriving DecidableEq, Repr, Inhabited

/-- A change of configuration space: the function, and its new BAR0 address if the change is of that. -/
structure SpaceChange where
  fn : BitVec 6
  bar : Option Word
deriving DecidableEq, Repr, Inhabited

/-- A key set of a function: K = 0 or 1, of its selective stream or of the link stream (05_host.md R113). -/
structure StreamSet where
  link : Bool
  k : Bool
deriving DecidableEq, Repr, Inhabited

/-- The operation that a Weir unit turns to: the core and its place in the queue (07_core.md R204). -/
structure WeirPlace where
  core : Nat
  k : Nat
deriving DecidableEq, Repr, Inhabited

/-- A placement that the Sluice chooses (06_execution.md R136 to R140): the clusters in ascending order with the first core index
in each, the first hart slot of the allotment, and the block offset RBASE. -/
structure Placement where
  clusters : List (Nat × Nat)
  firstSlot : BitVec 3
  rbase : Nat
deriving DecidableEq, Repr, Inhabited

/-- A ring entry as fetched: its header fields and the 64-byte launch packet that decryption gives (05_host.md R128). -/
structure RingEntry where
  seq : Word
  fn : BitVec 16
  rsvZero : Bool
  packet : List Word
deriving DecidableEq, Repr, Inhabited

/-- What a boot or training step reports: success or the failure code of 01_package.md R23. -/
abbrev FailCode := Option Byte

/-- The operations: instruction words (12_encoding.md R318) and the steps of the package. -/
inductive Instr
  /-- `ADDI` (R331). -/
  | addi (d : BitVec 5) (a : BitVec 5) (i : BitVec 12)
  /-- `ANDI` (R331). -/
  | andi (d : BitVec 5) (a : BitVec 5) (i : BitVec 12)
  /-- `ORI` (R331). -/
  | ori (d : BitVec 5) (a : BitVec 5) (i : BitVec 12)
  /-- `XORI` (R331). -/
  | xori (d : BitVec 5) (a : BitVec 5) (i : BitVec 12)
  /-- `SLTI` (R331). -/
  | slti (d : BitVec 5) (a : BitVec 5) (i : BitVec 12)
  /-- `SLTIU` (R331). -/
  | sltiu (d : BitVec 5) (a : BitVec 5) (i : BitVec 12)
  /-- `SLLI` (R331). -/
  | slli (d : BitVec 5) (a : BitVec 5) (s : BitVec 6)
  /-- `SRLI` (R331). -/
  | srli (d : BitVec 5) (a : BitVec 5) (s : BitVec 6)
  /-- `SRAI` (R331). -/
  | srai (d : BitVec 5) (a : BitVec 5) (s : BitVec 6)
  /-- `ADD` (R332). -/
  | add (d : BitVec 5) (a : BitVec 5) (b : BitVec 5)
  /-- `SUB` (R332). -/
  | sub (d : BitVec 5) (a : BitVec 5) (b : BitVec 5)
  /-- `AND` (R332). -/
  | and (d : BitVec 5) (a : BitVec 5) (b : BitVec 5)
  /-- `OR` (R332). -/
  | or (d : BitVec 5) (a : BitVec 5) (b : BitVec 5)
  /-- `XOR` (R332). -/
  | xor (d : BitVec 5) (a : BitVec 5) (b : BitVec 5)
  /-- `SLL` (R332). -/
  | sll (d : BitVec 5) (a : BitVec 5) (b : BitVec 5)
  /-- `SRL` (R332). -/
  | srl (d : BitVec 5) (a : BitVec 5) (b : BitVec 5)
  /-- `SRA` (R332). -/
  | sra (d : BitVec 5) (a : BitVec 5) (b : BitVec 5)
  /-- `SLT` (R332). -/
  | slt (d : BitVec 5) (a : BitVec 5) (b : BitVec 5)
  /-- `SLTU` (R332). -/
  | sltu (d : BitVec 5) (a : BitVec 5) (b : BitVec 5)
  /-- `MUL` (R332). -/
  | mul (d : BitVec 5) (a : BitVec 5) (b : BitVec 5)
  /-- `MULH` (R332). -/
  | mulh (d : BitVec 5) (a : BitVec 5) (b : BitVec 5)
  /-- `MULHU` (R332). -/
  | mulhu (d : BitVec 5) (a : BitVec 5) (b : BitVec 5)
  /-- `DIV` (R332). -/
  | div (d : BitVec 5) (a : BitVec 5) (b : BitVec 5)
  /-- `DIVU` (R332). -/
  | divu (d : BitVec 5) (a : BitVec 5) (b : BitVec 5)
  /-- `REM` (R332). -/
  | rem (d : BitVec 5) (a : BitVec 5) (b : BitVec 5)
  /-- `REMU` (R332). -/
  | remu (d : BitVec 5) (a : BitVec 5) (b : BitVec 5)
  /-- `MIN` (R332). -/
  | min (d : BitVec 5) (a : BitVec 5) (b : BitVec 5)
  /-- `MAX` (R332). -/
  | max (d : BitVec 5) (a : BitVec 5) (b : BitVec 5)
  /-- `MINU` (R332). -/
  | minu (d : BitVec 5) (a : BitVec 5) (b : BitVec 5)
  /-- `MAXU` (R332). -/
  | maxu (d : BitVec 5) (a : BitVec 5) (b : BitVec 5)
  /-- `CLZ` (R332). -/
  | clz (d : BitVec 5) (a : BitVec 5)
  /-- `CTZ` (R332). -/
  | ctz (d : BitVec 5) (a : BitVec 5)
  /-- `POPC` (R332). -/
  | popc (d : BitVec 5) (a : BitVec 5)
  /-- `MULMOD` (R332). -/
  | mulmod (d : BitVec 5) (a : BitVec 5) (b : BitVec 5)
  /-- `LUI` (R333). -/
  | lui (d : BitVec 5) (i : BitVec 20)
  /-- `AUIPC` (R333). -/
  | auipc (d : BitVec 5) (i : BitVec 20)
  /-- `LB` (R334). -/
  | lb (d : BitVec 5) (a : BitVec 5) (i : BitVec 12)
  /-- `LH` (R334). -/
  | lh (d : BitVec 5) (a : BitVec 5) (i : BitVec 12)
  /-- `LW` (R334). -/
  | lw (d : BitVec 5) (a : BitVec 5) (i : BitVec 12)
  /-- `LD` (R334). -/
  | ld (d : BitVec 5) (a : BitVec 5) (i : BitVec 12)
  /-- `LBU` (R334). -/
  | lbu (d : BitVec 5) (a : BitVec 5) (i : BitVec 12)
  /-- `LHU` (R334). -/
  | lhu (d : BitVec 5) (a : BitVec 5) (i : BitVec 12)
  /-- `LWU` (R334). -/
  | lwu (d : BitVec 5) (a : BitVec 5) (i : BitVec 12)
  /-- `SB` (R334). -/
  | sb (a : BitVec 5) (b : BitVec 5) (i : BitVec 12)
  /-- `SH` (R334). -/
  | sh (a : BitVec 5) (b : BitVec 5) (i : BitVec 12)
  /-- `SW` (R334). -/
  | sw (a : BitVec 5) (b : BitVec 5) (i : BitVec 12)
  /-- `SD` (R334). -/
  | sd (a : BitVec 5) (b : BitVec 5) (i : BitVec 12)
  /-- `BEQ` (R336). -/
  | beq (a : BitVec 5) (b : BitVec 5) (i : BitVec 12)
  /-- `BNE` (R336). -/
  | bne (a : BitVec 5) (b : BitVec 5) (i : BitVec 12)
  /-- `BLT` (R336). -/
  | blt (a : BitVec 5) (b : BitVec 5) (i : BitVec 12)
  /-- `BGE` (R336). -/
  | bge (a : BitVec 5) (b : BitVec 5) (i : BitVec 12)
  /-- `BLTU` (R336). -/
  | bltu (a : BitVec 5) (b : BitVec 5) (i : BitVec 12)
  /-- `BGEU` (R336). -/
  | bgeu (a : BitVec 5) (b : BitVec 5) (i : BitVec 12)
  /-- `JAL` (R336). -/
  | jal (d : BitVec 5) (o : BitVec 20)
  /-- `JALR` (R336). -/
  | jalr (d : BitVec 5) (a : BitVec 5) (i : BitVec 12)
  /-- `FADD` (R339). -/
  | fadd (d : BitVec 5) (f : BitVec 2) (a : BitVec 5) (b : BitVec 5)
  /-- `FSUB` (R339). -/
  | fsub (d : BitVec 5) (f : BitVec 2) (a : BitVec 5) (b : BitVec 5)
  /-- `FMUL` (R339). -/
  | fmul (d : BitVec 5) (f : BitVec 2) (a : BitVec 5) (b : BitVec 5)
  /-- `FDIV` (R339). -/
  | fdiv (d : BitVec 5) (f : BitVec 2) (a : BitVec 5) (b : BitVec 5)
  /-- `FSQRT` (R339). -/
  | fsqrt (d : BitVec 5) (f : BitVec 2) (a : BitVec 5)
  /-- `FMIN` (R339). -/
  | fmin (d : BitVec 5) (f : BitVec 2) (a : BitVec 5) (b : BitVec 5)
  /-- `FMAX` (R339). -/
  | fmax (d : BitVec 5) (f : BitVec 2) (a : BitVec 5) (b : BitVec 5)
  /-- `FMAC` (R339). -/
  | fmac (d : BitVec 5) (f : BitVec 2) (a : BitVec 5) (b : BitVec 5)
  /-- `FEQ` (R339). -/
  | feq (d : BitVec 5) (f : BitVec 2) (a : BitVec 5) (b : BitVec 5)
  /-- `FLT` (R339). -/
  | flt (d : BitVec 5) (f : BitVec 2) (a : BitVec 5) (b : BitVec 5)
  /-- `FLE` (R339). -/
  | fle (d : BitVec 5) (f : BitVec 2) (a : BitVec 5) (b : BitVec 5)
  /-- `FCLASS` (R341). -/
  | fclass (d : BitVec 5) (f : BitVec 2) (a : BitVec 5)
  /-- `FSGNJ` (R339). -/
  | fsgnj (d : BitVec 5) (f : BitVec 2) (a : BitVec 5) (b : BitVec 5)
  /-- `FSGNJN` (R339). -/
  | fsgnjn (d : BitVec 5) (f : BitVec 2) (a : BitVec 5) (b : BitVec 5)
  /-- `FSGNJX` (R339). -/
  | fsgnjx (d : BitVec 5) (f : BitVec 2) (a : BitVec 5) (b : BitVec 5)
  /-- `FCVTIF` (R340). -/
  | fcvtif (d : BitVec 5) (f : BitVec 2) (a : BitVec 5) (s : BitVec 5)
  /-- `FCVTFI` (R340). -/
  | fcvtfi (d : BitVec 5) (f : BitVec 2) (a : BitVec 5) (s : BitVec 5)
  /-- `FCVTFF` (R340). -/
  | fcvtff (d : BitVec 5) (f : BitVec 2) (a : BitVec 5) (s : BitVec 5)
  /-- `LDFE` (R342). -/
  | ldfe (d : BitVec 5) (a : BitVec 5)
  /-- `LDFF` (R342). -/
  | ldff (d : BitVec 5) (a : BitVec 5)
  /-- `STEF` (R342). -/
  | stef (d : BitVec 5) (a : BitVec 5) (b : BitVec 5)
  /-- `STF` (R342). -/
  | stf (a : BitVec 5) (b : BitVec 5)
  /-- `FECLR` (R342). -/
  | feclr (a : BitVec 5)
  /-- `FEPEEK` (R342). -/
  | fepeek (d : BitVec 5) (a : BitVec 5)
  /-- `AMOADD` (R344). -/
  | amoadd (d : BitVec 5) (w : BitVec 1) (a : BitVec 5) (b : BitVec 5)
  /-- `AMOAND` (R344). -/
  | amoand (d : BitVec 5) (w : BitVec 1) (a : BitVec 5) (b : BitVec 5)
  /-- `AMOOR` (R344). -/
  | amoor (d : BitVec 5) (w : BitVec 1) (a : BitVec 5) (b : BitVec 5)
  /-- `AMOXOR` (R344). -/
  | amoxor (d : BitVec 5) (w : BitVec 1) (a : BitVec 5) (b : BitVec 5)
  /-- `AMOMIN` (R344). -/
  | amomin (d : BitVec 5) (w : BitVec 1) (a : BitVec 5) (b : BitVec 5)
  /-- `AMOMAX` (R344). -/
  | amomax (d : BitVec 5) (w : BitVec 1) (a : BitVec 5) (b : BitVec 5)
  /-- `AMOMINU` (R344). -/
  | amominu (d : BitVec 5) (w : BitVec 1) (a : BitVec 5) (b : BitVec 5)
  /-- `AMOMAXU` (R344). -/
  | amomaxu (d : BitVec 5) (w : BitVec 1) (a : BitVec 5) (b : BitVec 5)
  /-- `AMOSWAP` (R344). -/
  | amoswap (d : BitVec 5) (w : BitVec 1) (a : BitVec 5) (b : BitVec 5)
  /-- `CAS` (R344). -/
  | cas (d : BitVec 5) (w : BitVec 1) (a : BitVec 5) (b : BitVec 5)
  /-- `AMOFADD` (R344). -/
  | amofadd (d : BitVec 5) (w : BitVec 1) (a : BitVec 5) (b : BitVec 5)
  /-- `FENCE` (R259). -/
  | fence (s : BitVec 3) (v : BitVec 1) (e : BitVec 1) (p : BitVec 1)
  /-- `RLX` (R245). -/
  | rlx (n : BitVec 4)
  /-- `PGLOBAL` (R213). -/
  | pglobal (d : BitVec 5) (a : BitVec 5)
  /-- `CSRRW` (R347). -/
  | csrrw (d : BitVec 5) (a : BitVec 5) (c : BitVec 12)
  /-- `CSRRS` (R347). -/
  | csrrs (d : BitVec 5) (a : BitVec 5) (c : BitVec 12)
  /-- `CSRRC` (R347). -/
  | csrrc (d : BitVec 5) (a : BitVec 5) (c : BitVec 12)
  /-- `CSRRWI` (R347). -/
  | csrrwi (d : BitVec 5) (z : BitVec 5) (c : BitVec 12)
  /-- `CSRRSI` (R347). -/
  | csrrsi (d : BitVec 5) (z : BitVec 5) (c : BitVec 12)
  /-- `CSRRCI` (R347). -/
  | csrrci (d : BitVec 5) (z : BitVec 5) (c : BitVec 12)
  /-- `ECALL` (R350). -/
  | ecall
  /-- `EBREAK` (R350). -/
  | ebreak
  /-- `SRET` (R272). -/
  | sret
  /-- `MRET` (R272). -/
  | mret
  /-- `WAITMSG` (R352). -/
  | waitmsg
  /-- `POPMSG` (R353). -/
  | popmsg (d : BitVec 5) (a : BitVec 5)
  /-- `YIELD` (R354). -/
  | yield
  /-- `HDONE` (R355). -/
  | hdone
  /-- `BAR` (R356). -/
  | bar (s : BitVec 5)
  /-- `LAUNCH` (R357). -/
  | launch (d : BitVec 5) (a : BitVec 5)
  /-- `SQPUSH` (R358). -/
  | sqpush (d : BitVec 5) (a : BitVec 5)
  /-- `TLBINV` (R359). -/
  | tlbinv (s : BitVec 5) (a : BitVec 5)
  /-- `ASIDSET` (R360). -/
  | asidset (s : BitVec 5) (a : BitVec 5)
  /-- `SETVLI` (R369). -/
  | setvli (d : BitVec 5) (a : BitVec 5) (t : BitVec 5) (g : BitVec 2)
  /-- `SETVL` (R369). -/
  | setvl (d : BitVec 5) (a : BitVec 5) (b : BitVec 5)
  /-- `LSPLIT` (R372). -/
  | lsplit (d : BitVec 5) (a : BitVec 5) (s : BitVec 5)
  /-- `LMERGE` (R372). -/
  | lmerge
  /-- `VTAG` (R371). -/
  | vtag (d : BitVec 5) (t : BitVec 5)
  /-- `VFMX` (R370). -/
  | vfmx (d : BitVec 5) (b : BitVec 5)
  /-- `PUMP` (R373). -/
  | pump (n : BitVec 4) (m : BitVec 3) (a : BitVec 5) (s : BitVec 2) (w : BitVec 2)
  /-- `PUMPSTOP` (R375). -/
  | pumpstop
  /-- `VADD` (R376). -/
  | vadd (d : BitVec 5) (k : BitVec 3) (a : BitVec 5) (b : BitVec 5) (m : BitVec 1)
  /-- `VSUB` (R376). -/
  | vsub (d : BitVec 5) (k : BitVec 3) (a : BitVec 5) (b : BitVec 5) (m : BitVec 1)
  /-- `VMUL` (R376). -/
  | vmul (d : BitVec 5) (k : BitVec 3) (a : BitVec 5) (b : BitVec 5) (m : BitVec 1)
  /-- `VMULH` (R376). -/
  | vmulh (d : BitVec 5) (k : BitVec 3) (a : BitVec 5) (b : BitVec 5) (m : BitVec 1)
  /-- `VMADD` (R376). -/
  | vmadd (d : BitVec 5) (k : BitVec 3) (a : BitVec 5) (b : BitVec 5) (m : BitVec 1)
  /-- `VNMSUB` (R376). -/
  | vnmsub (d : BitVec 5) (k : BitVec 3) (a : BitVec 5) (b : BitVec 5) (m : BitVec 1)
  /-- `VDIV` (R376). -/
  | vdiv (d : BitVec 5) (k : BitVec 3) (a : BitVec 5) (b : BitVec 5) (m : BitVec 1)
  /-- `VREM` (R376). -/
  | vrem (d : BitVec 5) (k : BitVec 3) (a : BitVec 5) (b : BitVec 5) (m : BitVec 1)
  /-- `VMIN` (R376). -/
  | vmin (d : BitVec 5) (k : BitVec 3) (a : BitVec 5) (b : BitVec 5) (m : BitVec 1)
  /-- `VMAX` (R376). -/
  | vmax (d : BitVec 5) (k : BitVec 3) (a : BitVec 5) (b : BitVec 5) (m : BitVec 1)
  /-- `VABS` (R376). -/
  | vabs (d : BitVec 5) (a : BitVec 5) (m : BitVec 1)
  /-- `VNEG` (R376). -/
  | vneg (d : BitVec 5) (a : BitVec 5) (m : BitVec 1)
  /-- `VSQRT` (R376). -/
  | vsqrt (d : BitVec 5) (a : BitVec 5) (m : BitVec 1)
  /-- `VAND` (R376). -/
  | vand (d : BitVec 5) (k : BitVec 3) (a : BitVec 5) (b : BitVec 5) (m : BitVec 1)
  /-- `VOR` (R376). -/
  | vor (d : BitVec 5) (k : BitVec 3) (a : BitVec 5) (b : BitVec 5) (m : BitVec 1)
  /-- `VXOR` (R376). -/
  | vxor (d : BitVec 5) (k : BitVec 3) (a : BitVec 5) (b : BitVec 5) (m : BitVec 1)
  /-- `VSLL` (R376). -/
  | vsll (d : BitVec 5) (k : BitVec 3) (a : BitVec 5) (b : BitVec 5) (m : BitVec 1)
  /-- `VSRL` (R376). -/
  | vsrl (d : BitVec 5) (k : BitVec 3) (a : BitVec 5) (b : BitVec 5) (m : BitVec 1)
  /-- `VSRA` (R376). -/
  | vsra (d : BitVec 5) (k : BitVec 3) (a : BitVec 5) (b : BitVec 5) (m : BitVec 1)
  /-- `VSADD` (R376). -/
  | vsadd (d : BitVec 5) (k : BitVec 3) (a : BitVec 5) (b : BitVec 5) (m : BitVec 1)
  /-- `VSSUB` (R376). -/
  | vssub (d : BitVec 5) (k : BitVec 3) (a : BitVec 5) (b : BitVec 5) (m : BitVec 1)
  /-- `VCMPEQ` (R377). -/
  | vcmpeq (d : BitVec 5) (k : BitVec 3) (a : BitVec 5) (b : BitVec 5) (m : BitVec 1)
  /-- `VCMPNE` (R377). -/
  | vcmpne (d : BitVec 5) (k : BitVec 3) (a : BitVec 5) (b : BitVec 5) (m : BitVec 1)
  /-- `VCMPLT` (R377). -/
  | vcmplt (d : BitVec 5) (k : BitVec 3) (a : BitVec 5) (b : BitVec 5) (m : BitVec 1)
  /-- `VCMPLE` (R377). -/
  | vcmple (d : BitVec 5) (k : BitVec 3) (a : BitVec 5) (b : BitVec 5) (m : BitVec 1)
  /-- `VCMPGT` (R377). -/
  | vcmpgt (d : BitVec 5) (k : BitVec 3) (a : BitVec 5) (b : BitVec 5) (m : BitVec 1)
  /-- `VCMPGE` (R377). -/
  | vcmpge (d : BitVec 5) (k : BitVec 3) (a : BitVec 5) (b : BitVec 5) (m : BitVec 1)
  /-- `MAND` (R378). -/
  | mand (d : BitVec 5) (a : BitVec 5) (b : BitVec 5) (m : BitVec 1)
  /-- `MOR` (R378). -/
  | mor (d : BitVec 5) (a : BitVec 5) (b : BitVec 5) (m : BitVec 1)
  /-- `MXOR` (R378). -/
  | mxor (d : BitVec 5) (a : BitVec 5) (b : BitVec 5) (m : BitVec 1)
  /-- `MANDN` (R378). -/
  | mandn (d : BitVec 5) (a : BitVec 5) (b : BitVec 5) (m : BitVec 1)
  /-- `MPOPC` (R378). -/
  | mpopc (d : BitVec 5) (a : BitVec 5) (m : BitVec 1)
  /-- `MFIRST` (R378). -/
  | mfirst (d : BitVec 5) (a : BitVec 5) (m : BitVec 1)
  /-- `MIOTA` (R378). -/
  | miota (d : BitVec 5) (a : BitVec 5) (m : BitVec 1)
  /-- `VMV` (R379). -/
  | vmv (d : BitVec 5) (k : BitVec 3) (a : BitVec 5) (b : BitVec 5) (m : BitVec 1)
  /-- `VMVX` (R379). -/
  | vmvx (d : BitVec 5) (k : BitVec 3) (a : BitVec 5) (b : BitVec 5)
  /-- `VMVS` (R379). -/
  | vmvs (d : BitVec 5) (b : BitVec 5)
  /-- `VID` (R379). -/
  | vid (d : BitVec 5) (m : BitVec 1)
  /-- `VSEL` (R379). -/
  | vsel (d : BitVec 5) (k : BitVec 3) (a : BitVec 5) (b : BitVec 5)
  /-- `VCOMPRESS` (R379). -/
  | vcompress (d : BitVec 5) (a : BitVec 5)
  /-- `VSLIDEUP` (R379). -/
  | vslideup (d : BitVec 5) (k : BitVec 3) (a : BitVec 5) (b : BitVec 5) (m : BitVec 1)
  /-- `VSLIDEDN` (R379). -/
  | vslidedn (d : BitVec 5) (k : BitVec 3) (a : BitVec 5) (b : BitVec 5) (m : BitVec 1)
  /-- `VPERM` (R379). -/
  | vperm (d : BitVec 5) (a : BitVec 5) (b : BitVec 5) (m : BitVec 1)
  /-- `VCVT` (R380). -/
  | vcvt (d : BitVec 5) (a : BitVec 5) (t : BitVec 5) (m : BitVec 1)
  /-- `VQSF4` (R381). -/
  | vqsf4 (d : BitVec 5) (a : BitVec 5) (b : BitVec 5) (m : BitVec 1)
  /-- `VREDSUM` (R382). -/
  | vredsum (d : BitVec 5) (a : BitVec 5) (m : BitVec 1)
  /-- `VREDMAX` (R382). -/
  | vredmax (d : BitVec 5) (a : BitVec 5) (m : BitVec 1)
  /-- `VREDMIN` (R382). -/
  | vredmin (d : BitVec 5) (a : BitVec 5) (m : BitVec 1)
  /-- `VREDDOT` (R382). -/
  | vreddot (d : BitVec 5) (a : BitVec 5) (b : BitVec 5) (m : BitVec 1)
  /-- `VEXP2` (R383). -/
  | vexp2 (d : BitVec 5) (a : BitVec 5) (m : BitVec 1)
  /-- `VLOG2` (R383). -/
  | vlog2 (d : BitVec 5) (a : BitVec 5) (m : BitVec 1)
  /-- `VRCP` (R383). -/
  | vrcp (d : BitVec 5) (a : BitVec 5) (m : BitVec 1)
  /-- `VRSQRT` (R383). -/
  | vrsqrt (d : BitVec 5) (a : BitVec 5) (m : BitVec 1)
  /-- `VTANH` (R383). -/
  | vtanh (d : BitVec 5) (a : BitVec 5) (m : BitVec 1)
  /-- `VSIGM` (R383). -/
  | vsigm (d : BitVec 5) (a : BitVec 5) (m : BitVec 1)
  /-- `VMODADD` (R384). -/
  | vmodadd (d : BitVec 5) (k : BitVec 3) (a : BitVec 5) (b : BitVec 5) (m : BitVec 1)
  /-- `VMODSUB` (R384). -/
  | vmodsub (d : BitVec 5) (k : BitVec 3) (a : BitVec 5) (b : BitVec 5) (m : BitVec 1)
  /-- `VMODMUL` (R384). -/
  | vmodmul (d : BitVec 5) (k : BitVec 3) (a : BitVec 5) (b : BitVec 5) (m : BitVec 1)
  /-- `VMODRED` (R384). -/
  | vmodred (d : BitVec 5) (a : BitVec 5) (m : BitVec 1)
  /-- `VBFLYCT` (R384). -/
  | vbflyct (d : BitVec 5) (k : BitVec 3) (a : BitVec 5) (b : BitVec 5) (m : BitVec 1)
  /-- `VBFLYGS` (R384). -/
  | vbflygs (d : BitVec 5) (k : BitVec 3) (a : BitVec 5) (b : BitVec 5) (m : BitVec 1)
  /-- `VLD` (R387). -/
  | vld (d : BitVec 5) (a : BitVec 5) (m : BitVec 1)
  /-- `VLDS` (R387). -/
  | vlds (d : BitVec 5) (a : BitVec 5) (b : BitVec 5) (m : BitVec 1)
  /-- `VLDX` (R387). -/
  | vldx (d : BitVec 5) (a : BitVec 5) (b : BitVec 5) (m : BitVec 1)
  /-- `VFILL` (R390). -/
  | vfill (d : BitVec 5) (a : BitVec 5)
  /-- `VST` (R387). -/
  | vst (d : BitVec 5) (a : BitVec 5) (m : BitVec 1)
  /-- `VSTS` (R387). -/
  | vsts (d : BitVec 5) (a : BitVec 5) (b : BitVec 5) (m : BitVec 1)
  /-- `VSTX` (R387). -/
  | vstx (d : BitVec 5) (a : BitVec 5) (b : BitVec 5) (m : BitVec 1)
  /-- `VSCADD` (R389). -/
  | vscadd (d : BitVec 5) (a : BitVec 5) (b : BitVec 5) (m : BitVec 1)
  /-- `VSPILL` (R390). -/
  | vspill (d : BitVec 5) (a : BitVec 5)
  /-- `STBIND` (R393). -/
  | stbind (d : BitVec 5) (a : BitVec 5)
  /-- `STRBIND` (R395). -/
  | strbind (d : BitVec 5) (a : BitVec 5)
  /-- `STFBIND` (R396). -/
  | stfbind (d : BitVec 5) (a : BitVec 5)
  /-- `STUNBIND` (R397). -/
  | stunbind (d : BitVec 5)
  /-- `CPY` (R400). -/
  | cpy (d : BitVec 5) (a : BitVec 5) (v : BitVec 5)
  /-- `SYNCARM` (R402). -/
  | syncarm (d : BitVec 5) (a : BitVec 5) (b : BitVec 5)
  /-- `SYNCWAIT` (R402). -/
  | syncwait (d : BitVec 5) (a : BitVec 5) (b : BitVec 5)
  /-- `OPA` (R407). -/
  | opa (t : BitVec 2) (k : BitVec 3) (a : BitVec 5) (b : BitVec 5)
  /-- `OPS` (R407). -/
  | ops (t : BitVec 2) (k : BitVec 3) (a : BitVec 5) (b : BitVec 5)
  /-- `OPAM` (R408). -/
  | opam (t : BitVec 2) (k : BitVec 3) (a : BitVec 5) (b : BitVec 5)
  /-- `TZERO` (R410). -/
  | tzero (t : BitVec 2)
  /-- `TLD` (R411). -/
  | tld (t : BitVec 2) (a : BitVec 5) (b : BitVec 5)
  /-- `TST` (R411). -/
  | tst (t : BitVec 2) (a : BitVec 5) (b : BitVec 5)
  /-- `TRDROW` (R412). -/
  | trdrow (t : BitVec 2) (k : BitVec 3) (v : BitVec 5) (i : BitVec 5) (m : BitVec 1)
  /-- `TWRROW` (R412). -/
  | twrrow (t : BitVec 2) (k : BitVec 3) (v : BitVec 5) (i : BitVec 5) (m : BitVec 1)
  /-- `TEPI` (R413). -/
  | tepi (t : BitVec 2) (v : BitVec 5) (b : BitVec 5) (m : BitVec 1)
  /-- `SKINIT_D` (R430). -/
  | skinitD (t : BitVec 5) (a : BitVec 5)
  /-- `SKINIT_H` (R430). -/
  | skinitH (t : BitVec 5) (a : BitVec 5)
  /-- `SKINIT_Q` (R430). -/
  | skinitQ (t : BitVec 5) (a : BitVec 5) (b : BitVec 5)
  /-- `SKQADD` (R431). -/
  | skqadd (m : BitVec 1) (a : BitVec 5) (b : BitVec 5)
  /-- `SKHADD` (R431). -/
  | skhadd (m : BitVec 1) (a : BitVec 5) (b : BitVec 5)
  /-- `SKHADD_W` (R431). -/
  | skhaddW (w : BitVec 5) (m : BitVec 1) (a : BitVec 5) (b : BitVec 5)
  /-- `SKDADD` (R431). -/
  | skdadd (m : BitVec 1) (a : BitVec 5) (b : BitVec 5)
  /-- `SKMERGE` (R432). -/
  | skmerge (a : BitVec 5) (b : BitVec 5)
  /-- `SKQQ` (R433). -/
  | skqq (d : BitVec 5) (a : BitVec 5) (b : BitVec 5)
  /-- `SKHTOP` (R433). -/
  | skhtop (d : BitVec 5) (s : BitVec 2) (a : BitVec 5) (b : BitVec 5)
  /-- `SKDCNT` (R420). -/
  | skdcnt (d : BitVec 5) (a : BitVec 5)
  /-- `VCLIPQ` (R434). -/
  | vclipq (d : BitVec 5) (m : BitVec 1) (a : BitVec 5) (b : BitVec 5)
  /-- `VSCALEQ` (R434). -/
  | vscaleq (d : BitVec 5) (m : BitVec 1) (a : BitVec 5) (b : BitVec 5)
  /-- `RLD` (R437). -/
  | rld (d : BitVec 5) (z : BitVec 1) (a : BitVec 5) (t : BitVec 3) (q : BitVec 2)
  /-- `RST` (R437). -/
  | rst (d : BitVec 5) (a : BitVec 5) (t : BitVec 3) (q : BitVec 2)
  /-- `RSTP` (R437). -/
  | rstp (d : BitVec 5) (a : BitVec 5) (t : BitVec 3) (q : BitVec 2)
  /-- `RAMO` (R438). -/
  | ramo (d : BitVec 5) (o : BitVec 4) (a : BitVec 5) (t : BitVec 3) (w : BitVec 1)
  /-- `RCAS` (R438). -/
  | rcas (d : BitVec 5) (a : BitVec 5) (t : BitVec 3)
  /-- `SEND` (R440). -/
  | send (d : BitVec 5) (k : BitVec 3) (a : BitVec 5) (t : BitVec 3)
  /-- `RNARROW` (R85). -/
  | rnarrow (r : BitVec 4) (x : BitVec 1) (t : BitVec 3) (a : BitVec 5) (s : BitVec 3)
  /-- `RTLD` (R442). -/
  | rtld (a : BitVec 5) (t : BitVec 3)
  /-- `RTST` (R86). -/
  | rtst (a : BitVec 5) (t : BitVec 3)
  /-- `RMOV` (R442). -/
  | rmov (t : BitVec 3) (s : BitVec 3)
  /-- `RREVOKE` (R443). -/
  | rrevoke (d : BitVec 5)
  /-- `RSTM` (R444). -/
  | rstm (d : BitVec 5) (a : BitVec 5) (t : BitVec 3) (q : BitVec 2)
  /-- `VSTXR` (R448). -/
  | vstxr (d : BitVec 5) (a : BitVec 5) (b : BitVec 5) (m : BitVec 1)
  /-- `COLLBEGIN` (R447). -/
  | collbegin (d : BitVec 5) (o : BitVec 2) (a : BitVec 5) (b : BitVec 5)
  /-- `COLLEND` (R449). -/
  | collend (d : BitVec 5) (o : BitVec 2) (a : BitVec 5) (m : BitVec 1)
  /-- `COLLEND_EXCH` (R449). -/
  | collendExch (a : BitVec 5) (m : BitVec 1)
  /-- `COLLABORT` (R450). -/
  | collabort (a : BitVec 5)
  /-- `ILLEGAL_WORD` (R319). -/
  | illegalWord (w : IWord)
  /-- `PWRGOOD_LOW` (R17). -/
  | pwrgoodLow
  /-- `PWRGOOD_RISE` (R18). -/
  | pwrgoodRise
  /-- `PERST_ASSERT` (R17). -/
  | perstAssert
  /-- `PERST_DEASSERT` (R18). -/
  | perstDeassert
  /-- `IDENTITY_PHASE` (R18). -/
  | identityPhase (reconOk : Bool)
  /-- `IMAGE_PHASE` (R24). -/
  | imagePhase (counterOk : Bool)
  /-- `DIES_PHASE` (R18). -/
  | diesPhase (fail : FailCode)
  /-- `FIRMWARE_PHASE` (R18). -/
  | firmwarePhase (fail : FailCode)
  /-- `STORAGE_PHASE` (R20). -/
  | storagePhase (drives : BitVec 4)
  /-- `READY` (R18). -/
  | ready
  /-- `PHASE_TIMEOUT` (R18). -/
  | phaseTimeout
  /-- `MIN_VERSION_RAISE` (R24). -/
  | minVersionRaise
  /-- `CONFIG_REQUEST` (R19). -/
  | configRequest (elapsed100ms : Bool) (place : CfgPlace)
  /-- `CURRENT_GOVERNOR_SAMPLE` (R13). -/
  | currentGovernorSample (die : BitVec 3) (bubbles : Nat)
  /-- `VCORE_DROOP` (R13). -/
  | vcoreDroop (dies : BitVec 8)
  /-- `THERMAL_SAMPLE` (R15). -/
  | thermalSample (die : BitVec 3) (degC : Nat)
  /-- `FIRMWARE_WATCHDOG` (R29). -/
  | firmwareWatchdog
  /-- `PATROL_SCRUB` (R26). -/
  | patrolScrub (target : ScrubTarget) (found : EccOutcome)
  /-- `PLDM_MONITOR` (R134). -/
  | pldmMonitor
  /-- `PLDM_FIRMWARE_UPDATE` (R134). -/
  | pldmFirmwareUpdate (slotB : Bool) (img : FlashImage)
  /-- `LINK_ENABLE` (R35). -/
  | linkEnable (p : BitVec 4) (signal : Bool)
  /-- `LINK_TRAINED` (R35). -/
  | linkTrained (p : BitVec 4)
  /-- `TRAIN_TIMEOUT` (R35). -/
  | trainTimeout (p : BitVec 4)
  /-- `TRAIN_RETRY` (R35). -/
  | trainRetry (p : BitVec 4) (signal : Bool)
  /-- `AUTH_ESTABLISHED` (R34). -/
  | authEstablished (l : LinkRef) (peerId : DevId) (peer : PeerAuth)
  /-- `AUTH_FAIL` (R35). -/
  | authFail (l : LinkRef)
  /-- `AUTH_TIMEOUT` (R35). -/
  | authTimeout (l : LinkRef)
  /-- `LINK_SIGNAL_LOSS` (R35). -/
  | linkSignalLoss (p : BitVec 4)
  /-- `LINK_HEARTBEAT_TIMEOUT` (R35). -/
  | linkHeartbeatTimeout (l : LinkRef)
  /-- `LINK_HEARTBEAT_SEND` (R35). -/
  | linkHeartbeatSend (l : LinkRef)
  /-- `LINK_KEY_UPDATE` (R37). -/
  | linkKeyUpdate (l : LinkRef)
  /-- `LINK_DISABLE` (R35). -/
  | linkDisable (l : LinkRef)
  /-- `LINK_REENABLE` (R35). -/
  | linkReenable (l : LinkRef)
  /-- `FRAME_SEND` (R38). -/
  | frameSend (l : LinkRef)
  /-- `FRAME_RECEIVE` (R40). -/
  | frameReceive (p : BitVec 4) (f : Frame) (tagOk : Bool)
  /-- `SWITCH_REQUEST` (R47). -/
  | switchRequest (k : Nat)
  /-- `SWITCH_REPLY` (R48). -/
  | switchReply (k : Nat)
  /-- `MULTICAST_TIMEOUT` (R60). -/
  | multicastTimeout (k : Nat)
  /-- `REQUEST_TIMEOUT` (R45). -/
  | requestTimeout (core : Nat) (qtag : BitVec 16)
  /-- `FLIT_AGE` (R51). -/
  | flitAge
  /-- `REQUEST_ADMISSION` (R53). -/
  | requestAdmission (k : Nat)
  /-- `RETRY` (R53). -/
  | retry (k : Nat)
  /-- `REINJECT` (R53). -/
  | reinject (k : Nat)
  /-- `BACKNOTE` (R56). -/
  | backnote (k : Nat)
  /-- `GAP_HALVE` (R56). -/
  | gapHalve (core : Nat) (slot rt : BitVec 3)
  /-- `PEER_ENTRY_WRITE` (R62). -/
  | peerEntryWrite (eth : BitVec 2) (idx : BitVec 5) (val : BitVec 128)
  /-- `ETH_FRAME_RECEIVE` (R64). -/
  | ethFrameReceive (eth : BitVec 2) (idx : BitVec 5) (frames : List (Frame × Bool))
  /-- `ETH_REPLAY_TIMEOUT` (R64). -/
  | ethReplayTimeout (eth : BitVec 2) (idx : BitVec 5)
  /-- `ETH_REAUTH` (R64). -/
  | ethReauth (eth : BitVec 2) (idx : BitVec 5)
  /-- `KEY_INSTALL` (R71). -/
  | keyInstall (slot : BitVec 4) (key : BitVec 256)
  /-- `KEY_ACTIVATE` (R71). -/
  | keyActivate (slot : BitVec 4)
  /-- `KEY_RETIRE` (R71). -/
  | keyRetire (slot : BitVec 4)
  /-- `KEY_ROTATION` (R72). -/
  | keyRotation
  /-- `WRAP_NOTICE` (R77). -/
  | wrapNotice (ctr : CounterRef)
  /-- `REVOCATION_COMPLETE` (R78). -/
  | revocationComplete (k : Nat)
  /-- `LINK_MAP` (R81). -/
  | linkMap (src : DevId) (report : MapReport)
  /-- `ID_ASSIGN` (R83). -/
  | idAssign (lead : DevId) (table : List (DevId × BitVec 16))
  /-- `LEAD_DEPART` (R83). -/
  | leadDepart (lead : DevId)
  /-- `DOMAIN_MERGE` (R83). -/
  | domainMerge (otherLead : DevId)
  /-- `MINT` (R80). -/
  | mint (k : Nat)
  /-- `MINTM` (R84). -/
  | mintm (k : Nat)
  /-- `REVOKE` (R80). -/
  | revoke (k : Nat)
  /-- `OPENM` (R84). -/
  | openm (k : Nat)
  /-- `QUERY` (R80). -/
  | query (k : Nat)
  /-- `LEAF_CONFIRM` (R84). -/
  | leafConfirm (asker : DevId) (gkey : Word) (tunit : BitVec 12) (base : BitVec 48)
  /-- `LOAD_REQUEST` (R89). -/
  | loadRequest (k : Nat)
  /-- `STORE_REQUEST` (R454). -/
  | storeRequest (k : Nat)
  /-- `PSTORE_REQUEST` (R89). -/
  | pstoreRequest (k : Nat)
  /-- `ATOMIC_REQUEST` (R438). -/
  | atomicRequest (k : Nat)
  /-- `CAS_REQUEST` (R438). -/
  | casRequest (k : Nat)
  /-- `SEND_REQUEST` (R89). -/
  | sendRequest (k : Nat)
  /-- `PUT_REQUEST` (R89). -/
  | putRequest (k : Nat)
  /-- `GET_REQUEST` (R89). -/
  | getRequest (k : Nat)
  /-- `STRDATA_REQUEST` (R198). -/
  | strdataRequest (k : Nat)
  /-- `MSTORE_REQUEST` (R59). -/
  | mstoreRequest (k : Nat)
  /-- `ATOMIC_RETRANSMIT` (R92). -/
  | atomicRetransmit (core : Nat) (qtag : BitVec 16)
  /-- `DATA_REPLY` (R45). -/
  | dataReply (k : Nat)
  /-- `ACK_REPLY` (R45). -/
  | ackReply (k : Nat)
  /-- `ERROR_REPLY` (R95). -/
  | errorReply (k : Nat)
  /-- `MACK_REPLY` (R444). -/
  | mackReply (k : Nat)
  /-- `FAULT_RECORD` (R103). -/
  | faultRecord (k : Nat)
  /-- `NVME_COMPLETION` (R103). -/
  | nvmeCompletion (cid : Nat) (nvst : BitVec 16) (dnr : Bool)
  /-- `BUSY_RANGE_CLEAR` (R107). -/
  | busyRangeClear (k : Nat)
  /-- `NVME_TIMEOUT` (R111). -/
  | nvmeTimeout (cid : Nat) (d : BitVec 2)
  /-- `CONTROLLER_READY_TIMEOUT` (R111). -/
  | controllerReadyTimeout (drive : BitVec 2)
  /-- `DRIVE_INBOUND_REQUEST` (R98). -/
  | driveInboundRequest (drive : BitVec 2) (pa : Nat) (val : Option Byte)
  /-- `WRITEBACK` (R109). -/
  | writeback (k : Nat)
  /-- `PREFETCH` (R109). -/
  | prefetch (k : Nat)
  /-- `TRIM` (R109). -/
  | trim (k : Nat)
  /-- `FLUSH` (R109). -/
  | flush (k : Nat)
  /-- `SLOTSET` (R109). -/
  | slotset (k : Nat)
  /-- `SLOTCLR` (R109). -/
  | slotclr (k : Nat)
  /-- `RESUME` (R108). -/
  | resume (k : Nat)
  /-- `SIPHON_MESSAGE_DELIVER` (R110). -/
  | siphonMessageDeliver (k : Nat)
  /-- `TAIL_WRITE` (R128). -/
  | tailWrite (fn : BitVec 6) (val : BitVec 32)
  /-- `CPLHEAD_WRITE` (R131). -/
  | cplheadWrite (fn : BitVec 6) (val : BitVec 32)
  /-- `RING_CONFIG_WRITE` (R117). -/
  | ringConfigWrite (fn : BitVec 6) (off : BitVec 14) (wide : Bool) (val : Word)
  /-- `REGISTER_WRITE` (R5). -/
  | registerWrite (fn : BitVec 6) (off : BitVec 14) (wide : Bool) (val : Word)
  /-- `CONFIG_SPACE_CHANGE` (R118). -/
  | configSpaceChange (change : SpaceChange)
  /-- `FUNCTION_LEVEL_RESET` (R118). -/
  | functionLevelReset (fn : BitVec 6)
  /-- `IDE_ERROR` (R118). -/
  | ideError (fn : BitVec 6)
  /-- `RING_ENTRY` (R129). -/
  | ringEntry (fn : BitVec 6) (e : RingEntry) (tagOk : Bool)
  /-- `DMA_ERROR` (R121). -/
  | dmaError (fn : BitVec 6)
  /-- `COMPLETION_WRITE` (R131). -/
  | completionWrite (fn : BitVec 6)
  /-- `SCRUB_COMPLETE` (R119). -/
  | scrubComplete (fn : BitVec 6)
  /-- `LOCK_INTERFACE_REQUEST` (R118). -/
  | lockInterfaceRequest (fn : BitVec 6) (secured : Bool)
  /-- `START_INTERFACE_REQUEST` (R118). -/
  | startInterfaceRequest (fn : BitVec 6) (secured : Bool) (nonce : BitVec 256)
  /-- `STOP_INTERFACE_REQUEST` (R118). -/
  | stopInterfaceRequest (fn : BitVec 6) (secured : Bool)
  /-- `GET_DEVICE_INTERFACE_STATE` (R118). -/
  | getDeviceInterfaceState (fn : BitVec 6) (secured : Bool)
  /-- `GET_DEVICE_INTERFACE_REPORT` (R120). -/
  | getDeviceInterfaceReport (fn : BitVec 6) (secured : Bool)
  /-- `KEY_EXCHANGE` (R122). -/
  | keyExchange (fn : BitVec 6) (ok : Bool)
  /-- `END_SESSION` (R126). -/
  | endSession (fn : BitVec 6)
  /-- `KEY_UPDATE` (R130). -/
  | keyUpdate (fn : BitVec 6) (reqToRsp rspToReq : Bool)
  /-- `HEARTBEAT` (R125). -/
  | heartbeat (fn : BitVec 6) (verified : Bool)
  /-- `SESSION_TIMEOUT` (R125). -/
  | sessionTimeout (fn : BitVec 6)
  /-- `GET_MEASUREMENTS` (R123). -/
  | getMeasurements (fn : BitVec 6) (index : Byte) (signed : Bool)
  /-- `GET_CERTIFICATE` (R122). -/
  | getCertificate (fn : BitVec 6) (certSlot : Byte)
  /-- `CHALLENGE` (R122). -/
  | challenge (fn : BitVec 6) (nonce : BitVec 256)
  /-- `KEY_PROG` (R113). -/
  | keyProg (fn : BitVec 6) (secured : Bool) (keySet : StreamSet) (key : BitVec 256)
  /-- `K_SET_GO` (R113). -/
  | kSetGo (fn : BitVec 6) (secured : Bool) (keySet : StreamSet)
  /-- `K_SET_STOP` (R113). -/
  | kSetStop (fn : BitVec 6) (secured : Bool) (keySet : StreamSet)
  /-- `ENCL_PARAM` (R124). -/
  | enclParam (fn : BitVec 6) (secured : Bool) (count : Nat) (storageKey : BitVec 256) (key0 : Bool)
  /-- `ENCL_QUERY` (R124). -/
  | enclQuery (fn : BitVec 6) (secured : Bool)
  /-- `LAUNCH_VALIDATE` (R133). -/
  | launchValidate (k : Nat)
  /-- `PLACE_LAUNCH` (R136). -/
  | placeLaunch (queue : BitVec 5) (pl : Placement)
  /-- `RESUME_LAUNCH` (R153). -/
  | resumeLaunch (launch : BitVec 32)
  /-- `PRIORITY_PREEMPT` (R154). -/
  | priorityPreempt (queue : BitVec 5) (pl : Placement) (victims : List (BitVec 32))
  /-- `ENCLAVE_SWITCH` (R288). -/
  | enclaveSwitch (core : Nat) (encl : Byte)
  /-- `LAUNCH_COMPLETE` (R170). -/
  | launchComplete (launch : BitVec 32)
  /-- `CHARGE_DECAY` (R151). -/
  | chargeDecay (core : Nat)
  /-- `CHARGE_REPORT` (R153). -/
  | chargeReport (core : Nat)
  /-- `SLUICE_CHARGE_DECAY` (R153). -/
  | sluiceChargeDecay
  /-- `STRIP_END` (R149). -/
  | stripEnd (core : Nat) (group : BitVec 2)
  /-- `PUMP_REPETITION` (R188). -/
  | pumpRepetition (core : Nat) (slot : BitVec 3)
  /-- `STREAM_FETCH` (R196). -/
  | streamFetch (core : Nat) (slot : BitVec 3) (stream : BitVec 3) (n : Nat)
  /-- `COPY_PACKET` (R203). -/
  | copyPacket (core : Nat)
  /-- `WEIR_APPLY` (R204). -/
  | weirApply (place : WeirPlace)
  /-- `COLL_ABORT_SEND` (R450). -/
  | collAbortSend (core : Nat) (slot : BitVec 3) (launch : BitVec 32)
  /-- `TIMECMP_REACHED` (R268). -/
  | timecmpReached (core : Nat) (slot : BitVec 3)
  /-- `INTERRUPT_TAKE` (R273). -/
  | interruptTake (core : Nat) (slot : BitVec 3)
  /-- `DEFERRED_TRAP` (R275). -/
  | deferredTrap (core : Nat) (slot : BitVec 3)
  /-- `SIGNAL_DETECT` (R35). -/
  | signalDetect (p : BitVec 4)
  /-- `ROUTER_CYCLE` (R51). -/
  | routerCycle
  /-- `INJECTION_GAP_PASSED` (R56). -/
  | injectionGapPassed (core : Nat) (slot rt : BitVec 3)
  /-- `CONTROLLER_READY` (R111). -/
  | controllerReady (drive : BitVec 2)
  /-- `INSTALL_ACK` (R72). -/
  | installAck (src : DevId) (slot : BitVec 4)
  /-- `LEAF_CONFIRMATION_RECEIVED` (R84). -/
  | leafConfirmationReceived (k : Nat) (leaf : Nat) (isOpen : Bool) (eg : BitVec 16)
  /-- `CORE_RESET` (R76). -/
  | coreReset (core : Nat)
deriving DecidableEq, Repr

end Sys2Proof
end

