-- ==== Sys2Proof/Machine/State.lean ====
section
/-! DEFINITION. The state of the package as plain data: everything the spec gives the machine. Each field's docstring says
what it is, its width, the rule that names it and its reset value, in that order, separated by bars. -/

set_option Elab.async false

namespace Sys2Proof.Machine

/-- The reasons a step can stop with a fault. None of the spec's conditions stops the machine: every trap is a next state. -/
inductive Fault
  /-- Raised by no meaning of this model; kept so that the type has an element. Safe: nothing reaches it. -/
  | unreachable
deriving DecidableEq, Repr

/-- The reasons a step can refuse. -/
inductive Refusal
  /-- Raised by the dispatcher for a row that has no meaning yet. Safe: nothing is claimed of it. -/
  | notModelled (mnemonic : String)
deriving DecidableEq, Repr

/-- States of a hart (06_execution.md R147). -/
inductive RunState
  | ready
  | memWait
  | parkedFE
  | parkedMbox
  | parkedSync
  | parkedBar
  | swapped
  | retired
deriving DecidableEq, Repr, Inhabited

/-- Privilege levels (10_traps.md R264). -/
inductive Level
  | user
  | supervisor
  | monitor
deriving DecidableEq, Repr, Inhabited

/-- A trap: cause code and cause value (10_traps.md R269). -/
structure Trap where
  code : Byte
  val : Word
deriving DecidableEq, Repr, Inhabited

/-- Tiers and scopes (06_execution.md R135, 09_ordering.md R241). -/
inductive Tier
  | hart
  | core
  | clus
  | stack
  | pkg
  | dom
deriving DecidableEq, Repr, Inhabited

/-- Where an access lands after translation: a scratchpad byte of a core, or a physical address under a key id (08_memory.md R209 to R214). -/
inductive Loc
  | spad (core : Nat) (off : Nat)
  | hbm (pa : Nat) (key : Nat)
deriving DecidableEq, Repr, Inhabited

/-- The address kinds that the checks name: HBM, the cluster window, the window of the hart's own area (08_memory.md R235). -/
inductive Space
  | translated
  | cluster
  | own
deriving DecidableEq, Repr, Inhabited

/-- A vector register: its tag and its bytes as one number, byte 0 lowest (07_core.md R184, R178). -/
structure VReg where
  tag : BitVec 5
  bits : Nat
deriving DecidableEq, Repr, Inhabited

/-- A tile: its tag, its dirty bit and its bytes as one number (16_isa_tile.md R403). -/
structure Tile where
  tag : BitVec 5
  dirty : Bool
  bits : Nat
deriving DecidableEq, Repr, Inhabited

/-- A checked access of a vector memory instruction: its address, where it lands, its bytes (08_memory.md R227). -/
structure Spot where
  va : Word
  loc : Loc
  n : Nat
deriving DecidableEq, Repr, Inhabited

/-- An instruction that waits for the sequencer, in the vector queue or captured by the Pump: the word with VTYPE, VL and the values of
the scalar operands RA and RB at issue (10_traps.md R285, 14_isa_vector.md R374); the accesses of its elements, checked at issue, when it is a vector
memory instruction, whether it stores and the numbers of their tiers; whether it reads or writes a stream, and the number of the tier of the strip
that it sends; its number among the hart's queued instructions. -/
structure VqEntry where
  word : IWord
  vtype : BitVec 7
  vl : BitVec 22
  ra : Word
  rb : Word
  spots : Option (List (Nat × List Spot))
  wr : Bool
  tiers : List Nat
  streams : Bool
  sends : Option Nat
  serial : Nat
deriving DecidableEq, Repr, Inhabited

/-- The Pump of a vector thread (07_core.md R188 to R192). -/
structure Pump where
  /-- captured instructions, oldest first, with VTYPE, VL and scalar operands at capture | 16 x 32 and operands | 07_core.md R188, 14_isa_vector.md R374 | empty -/
  words : List VqEntry
  /-- PUMPST.REM, repetitions still to run | 16 | 07_core.md R192 | 0 -/
  rem : BitVec 16
  /-- PUMPST.LEN, captured instructions minus 1 | 4 | 07_core.md R192 | 0 -/
  len : BitVec 4
  /-- PUMPST.IDX, captured instruction in progress or next | 4 | 07_core.md R192 | 0 -/
  idx : BitVec 4
  /-- PUMPST.SMASK, stepped fields | 3 | 07_core.md R192 | 0 -/
  smask : BitVec 3
  /-- PUMPST.STEP, log2 of the step | 2 | 07_core.md R192 | 0 -/
  step : BitVec 2
  /-- PUMPST.WRAP, log2 of the wrap window minus 2 | 2 | 07_core.md R192 | 0 -/
  wrap : BitVec 2
  /-- PUMPST.STATE: 0 IDLE, 1 CAPTURE, 2 REPLAY, 3 SUSPENDED | 2 | 07_core.md R192 | 0 -/
  state : BitVec 2
  /-- PUMPST.OFF, step offset of the repetition in progress | 5 | 07_core.md R192 | 0 -/
  off : BitVec 5
  /-- PUMPSTOP has asked the replay to end with the repetition in progress | 1 | 07_core.md R190 | false -/
  stopping : Bool
deriving DecidableEq, Repr, Inhabited

/-- A page of a translation: virtual base, size in bytes, physical base, key id (08_memory.md R222, R231). -/
structure PageMap where
  va : Nat
  size : Nat
  pa : Nat
  key : Nat
deriving DecidableEq, Repr, Inhabited

/-- A stream binding of one of v24 to v31 (15_isa_vmem.md R391). `kind` 0 is unbound. -/
structure Binding where
  /-- KIND: 0 unbound, 1 memory, 2 ring, 3 fabric | 8 | 15_isa_vmem.md R391 | 0 -/
  kind : Byte
  /-- OTAG, output tag | 5 | 15_isa_vmem.md R391 | 0 -/
  otag : BitVec 5
  /-- SFMT, source format | 5 | 15_isa_vmem.md R391 | 0 -/
  sfmt : BitVec 5
  /-- RTREG, route register of a fabric stream | 3 | 15_isa_vmem.md R391 | 0 -/
  rtreg : BitVec 3
  /-- BLEN, elements per band | 32 | 15_isa_vmem.md R391 | 0 -/
  blen : BitVec 32
  /-- ADDR | 64 | 15_isa_vmem.md R391 | 0 -/
  addr : Word
  /-- LEN, elements or member rank | 64 | 15_isa_vmem.md R391 | 0 -/
  len : Word
  /-- STRIDE, byte step or strip bytes | 64 | 15_isa_vmem.md R391 | 0 -/
  stride : Word
  /-- BSP, band-scale array | 64 | 15_isa_vmem.md R391 | 0 -/
  bsp : Word
  /-- POS, elements consumed | 64 | 15_isa_vmem.md R391 | 0 -/
  pos : Word
  /-- NSSEQ, next strip sequence number | 32 | 15_isa_vmem.md R391 | 0 -/
  nsseq : BitVec 32
  /-- pinned translations of the range | at most 1,024 pages | 08_memory.md R231 | empty -/
  pins : List PageMap
  /-- source elements fetched ahead and not yet consumed, from POS on: for each, the trap that its fetch met; the codes stand in the cistern's region in the scratchpad | list | 07_core.md R196 | empty -/
  ahead : List (Option Trap)
deriving DecidableEq, Repr, Inhabited

/-- A scalar memory operation, kept while it is outstanding under RLX or waits on a full/empty bit. -/
inductive MemOp
  | load (size : Nat) (signed : Bool)
  | store (size : Nat)
  | amo (op : Nat) (size : Nat)
  | cas (size : Nat) (cmp : Word)
  | ldfe
  | ldff
deriving DecidableEq, Repr, Inhabited

/-- A marked access that has been issued and not yet performed (09_ordering.md R246), and the core cycle of its issue. -/
structure Marked where
  op : MemOp
  loc : Loc
  va : Word
  data : Word
  rd : Reg
  since : Word
deriving DecidableEq, Repr, Inhabited

/-- The open collective of a hart (18_isa_fabric.md R446). -/
structure OpenColl where
  comm : Word
  core : Nat
  off : Nat
  seq : BitVec 32
  op : BitVec 2
  totals : List (Nat × Nat)
  committed : Bool
  aborted : Bool
deriving DecidableEq, Repr, Inhabited

/-- The injection state of one route register (02_fabric.md R56). -/
structure Gap where
  /-- G, the injection gap in core cycles | 17 | 02_fabric.md R56 | 0 -/
  g : BitVec 17
  /-- core cycle at which the quiet count last restarted | 64 | 02_fabric.md R56 | 0 -/
  quietFrom : Word
  /-- core cycle of the last injection on this route register | 64 | 02_fabric.md R56 | none -/
  last : Option Word
  /-- core cycle in which G last changed | 64 | 02_fabric.md R56 | none -/
  changed : Option Word
  /-- G before the changes of that cycle | 17 | 02_fabric.md R56 | 0 -/
  before : BitVec 17
  /-- the last change was a halving | 1 | 02_fabric.md R56 | false -/
  halved : Bool
deriving DecidableEq, Repr, Inhabited

/-- A held refusal status: tier, cause code and STVAL value (10_traps.md R285 PSTAT, MSTAT). -/
structure HeldStatus where
  tier : Tier
  trap : Trap
deriving DecidableEq, Repr, Inhabited

/-- The control registers of a hart that instructions read or write by address (12_encoding.md R320). -/
structure Csrs where
  /-- VL, elements in the current strip | 22 | 12_encoding.md R317 | 0 -/
  vl : BitVec 22
  /-- VTYPE: TAG in 4:0, GMUL in 6:5 | 7 | 12_encoding.md R317 | 0 -/
  vtype : BitVec 7
  /-- VSTART.ELEM | 22 | 10_traps.md R279 | 0 -/
  vstart : BitVec 22
  /-- VLENB, register length in bytes | 64 | 07_core.md R182 | 0 -/
  vlenb : Word
  /-- VDIRTY, bit i for register vi | 32 | 10_traps.md R278 | 0 -/
  vdirty : BitVec 32
  /-- VREGS.NREG | 2 | 07_core.md R182 | 0 -/
  nreg : BitVec 2
  /-- the declared count in effect, coded as NREG | 2 | 07_core.md R181 | 0 -/
  declared : BitVec 2
  /-- VLCAP.CL | 4 | 12_encoding.md R317 | 0 -/
  vlcap : BitVec 4
  /-- MODQ.Q | 64 | 11_arithmetic.md R299 | 0 -/
  modq : Word
  /-- FRM.RM | 3 | 11_arithmetic.md R301 | 0 -/
  frm : BitVec 3
  /-- FFLAGS | 5 | 11_arithmetic.md R305 | 0 -/
  fflags : BitVec 5
  /-- SRSEED | 64 | 11_arithmetic.md R303 | 0 -/
  srseed : Word
  /-- SPLITST: SIDX, SCNT, ORIG | 7 | 06_execution.md R168 | 0 -/
  splitst : BitVec 7
  /-- INSTRET | 64 | 07_core.md R206 | 0 -/
  instret : Word
  /-- SSTATUS: IE, PIE, PP, TH, DEF, VS | 7 | 10_traps.md R266 | 0 -/
  sstatus : BitVec 7
  /-- STVEC | 64 | 10_traps.md R268 | 0 -/
  stvec : Word
  /-- SEPC | 64 | 10_traps.md R268 | 0 -/
  sepc : Word
  /-- SCAUSE | 64 | 10_traps.md R268 | 0 -/
  scause : Word
  /-- STVAL | 64 | 10_traps.md R268 | 0 -/
  stval : Word
  /-- SSCRATCH | 64 | 10_traps.md R268 | 0 -/
  sscratch : Word
  /-- SATP: RCNT, ROOT, ASID | 64 | 08_memory.md R224 | 0 -/
  satp : Word
  /-- SIE, enables of TIMER, PREEMPT, SIPHON, MAILBOX | 5 | 10_traps.md R273 | 0 -/
  sie : BitVec 5
  /-- SIP.PREEMPT, the only stored bit of SIP | 1 | 10_traps.md R273 | false -/
  sipPreempt : Bool
  /-- SFLIST | 64 | 08_memory.md R230 | 0 -/
  sflist : Word
  /-- FRAMEPOOL | 64 | 04_storage.md R108 | 0 -/
  framepool : Word
  /-- TIMECMP | 64 | 10_traps.md R268 | 0xFFFFFFFFFFFFFFFF -/
  timecmp : Word
  /-- MSTATUS: IE, PIE, PP, TH | 5 | 10_traps.md R267 | 0 -/
  mstatus : BitVec 5
  /-- MTVEC | 64 | 10_traps.md R268 | 0 -/
  mtvec : Word
  /-- MEPC | 64 | 10_traps.md R268 | 0 -/
  mepc : Word
  /-- MCAUSE | 64 | 10_traps.md R268 | 0 -/
  mcause : Word
  /-- MTVAL | 64 | 10_traps.md R268 | 0 -/
  mtval : Word
  /-- MSCRATCH | 64 | 10_traps.md R268 | 0 -/
  mscratch : Word
deriving DecidableEq, Repr, Inhabited

/-- How a vector memory instruction runs (08_memory.md R227): at once; its checks alone, before it enters the vector queue; with the accesses that were
checked when it entered. -/
inductive VRun
  | now
  | check
  | checked (els : List (Nat × List Spot))
deriving DecidableEq, Repr, Inhabited

/-- The vector state of a hart. -/
structure VState where
  /-- v0 to v31, tag and bytes each | 32 x (5 + 8 x VLENB) | 07_core.md R181, R184 | tag 0 (NONE), bits 0 (DESIGN CHOICE 0, log entry 2) -/
  v : Vector VReg 32
  /-- t0 to t3, tag, dirty bit and bytes each | 4 x 64 KiB / T | 07_core.md R186, 16_isa_tile.md R403 | tag 0 (NONE), clean, bits 0 (DESIGN CHOICE 0, log entry 2) -/
  t : Vector Tile 4
  /-- the Pump | see Pump | 07_core.md R188 | idle and empty -/
  pump : Pump
  /-- the vector queue: instructions issued behind a replaying Pump | 8 entries | 07_core.md R175, R190 | empty -/
  vq : List VqEntry
  /-- the MODEL's own: number of the next instruction that enters the vector queue, by which a push knows what went before it | counter | none | 0 (DESIGN CHOICE 0, log entry 99) -/
  vqNext : Nat
  /-- stream bindings of v24 to v31 | 8 x 64 bytes | 15_isa_vmem.md R391 | unbound -/
  binds : Vector Binding 8
  /-- FM, the fault mask, element i at bit i | VLENB x 16 | 08_memory.md R229 | 0 -/
  fm : Nat
  /-- FM applies to the next instruction issued (ArmFM) | 1 | 10_traps.md R279 | false -/
  fmArmed : Bool
  /-- the MODEL's own: how the vector memory instruction that is being run runs; between instructions always at once | enumeration | none | now (DESIGN CHOICE now, log entry 5) -/
  mode : VRun
deriving DecidableEq, Repr, Inhabited

/-- A hart context of a placed launch (06_execution.md R137). -/
structure Hart where
  /-- the core that holds the hart: 128 x cluster + core index | 12 | 06_execution.md R146 | 0 -/
  core : Nat
  /-- HARTID.SLOT, the hart slot | 3 | 06_execution.md R146 | 0 -/
  slot : BitVec 3
  /-- HARTID.LSLOT, the launch slot: which core-shared bank | 1 | 06_execution.md R139, R146 | false -/
  lslot : Bool
  /-- LAUNCHID, the launch the hart belongs to; 0 is no launch | 32 | 06_execution.md R146 | 0 -/
  launch : BitVec 32
  /-- LRANK | 48 | 06_execution.md R146 | 0 -/
  rank : BitVec 48
  /-- the hart is a vector thread | 1 | 06_execution.md R143 | false -/
  vthread : Bool
  /-- index among the launch's vector threads of the core, or split index | 2 | 07_core.md R195 | 0 -/
  vindex : Nat
  /-- hart state | enumeration | 06_execution.md R147 | retired -/
  run : RunState
  /-- the launch's harts are seated on the core | 1 | 06_execution.md R139 | false -/
  seated : Bool
  /-- privilege level | enumeration | 10_traps.md R264 | user -/
  level : Level
  /-- program counter: the next instruction to issue | 64 | 12_encoding.md R328 | 0 (DESIGN CHOICE 0, log entry 2) -/
  pc : Word
  /-- the word being issued, named by STVAL for the causes that report it | 32 | 10_traps.md R269 | 0 (DESIGN CHOICE 0, log entry 2) -/
  word : IWord
  /-- p0 to p15; p0 holds 0 | 16 x 64 | 07_core.md R176 | 0 (DESIGN CHOICE 0, log entry 2) -/
  p : Vector Word 16
  /-- rt0 to rt7 | 8 x 256 | 03_routes.md R65 | 0 (DESIGN CHOICE 0, log entry 2) -/
  rt : Vector RouteVal 8
  /-- injection state of rt0 to rt7 | 8 x (17 + counters) | 02_fabric.md R56 | 0 -/
  gap : Vector Gap 8
  /-- control registers | see Csrs | 12_encoding.md R320 | see Csrs -/
  csr : Csrs
  /-- vector state | see VState | 07_core.md R181 | see VState -/
  vec : VState
  /-- atomic sequence counter ASEQ | 8 | 03_routes.md R91 | 0 -/
  aseq : BitVec 8
  /-- remaining RLX count | 5 | 09_ordering.md R245, R246 | 0 -/
  rlx : Nat
  /-- marked local accesses issued and not yet performed, oldest first | at most 16 | 09_ordering.md R246 | empty -/
  marked : List Marked
  /-- PSTAT, held posted or strip status | 64 + tier | 10_traps.md R285 | none -/
  pstat : Option HeldStatus
  /-- MSTAT, held marked-access status | 64 | 10_traps.md R285 | none -/
  mstat : Option HeldStatus
  /-- POSTCNT, unacknowledged posted accesses and strips for each tier | 6 x 32 | 10_traps.md R285 | 0 -/
  post : Vector Nat 6
  /-- the open collective | see OpenColl | 18_isa_fabric.md R446 | none -/
  coll : Option OpenColl
  /-- stage of a COLLEND in progress: 0 none, 1 draining, 2 committing, 3 parked on the header | 2 | 18_isa_fabric.md R449 | 0 -/
  collStage : Nat
  /-- the hart has arrived at its open barrier; the scope it waits at | enumeration | 06_execution.md R160 | none -/
  barWait : Option Tier
  /-- the barrier that the hart had arrived at completed while it was not parked | 1 | 13_isa_scalar.md R356 | false -/
  barDone : Bool
  /-- index 0 waits in LMERGE for the other participants | 1 | 06_execution.md R167 | false -/
  mergeWait : Bool
  /-- a deferred trap to take at the next visit | trap | 10_traps.md R275 | none -/
  deferred : Option Trap
  /-- core cycle before which the hart does not issue | 64 | 07_core.md R174 | 0 -/
  nextIssue : Word
  /-- what the hart waits for until that cycle is the reply of a memory access | 1 | 07_core.md R174 | false -/
  onReply : Bool
  /-- storage-backed pages whose service the hart awaits | list of page addresses | 04_storage.md R103 | empty -/
  svcWait : List Nat
  /-- pages whose service failed, reported as ordinary absent pages at the reissue | list of page addresses | 04_storage.md R106 | empty -/
  svcFailed : List Nat
  /-- REASON of the swap-out in force: 0 none, 1 Sluice, 2 monitor, 3 storage | 8 | 10_traps.md R285 | 0 -/
  reason : Nat
  /-- the run state to return to when a swapped hart is restored is ready; this holds what it was parked on | enumeration | 10_traps.md R285 HSTATE | 0 -/
  hstate : Nat
  /-- the place of the hart's variable records while it is swapped out: VARADDR and VARLEN | 64 + 32 | 10_traps.md R285 | none -/
  saved : Option (Nat × Nat)
  /-- the share of the core's lanes, vector file and tile storage that a vector thread holds | 2 | 07_core.md R177 | 0 -/
  share : BitVec 2
  /-- the hart ended on an unhandled trap with this cause | 8 | 06_execution.md R171 | none -/
  endCause : Option Byte
deriving DecidableEq, Repr, Inhabited

/-- A guard entry (08_memory.md R235) as its 64-bit register value. -/
abbrev Guard := Word

/-- What to do with the reply of an outstanding request (03_routes.md R95). -/
inductive ReqKind
  | load (rd : Reg) (size : Nat) (signed : Bool)
  | store
  | atomic (rd : Reg) (size : Nat)
  | cas (rd : Reg)
  | send (rd : Reg)
  | svc (rd : Reg) (drt : BitVec 3)
  | posted
  | mstore (rd : Reg)
  | strip
  | collPut
  | copyPut (id : BitVec 32) (at_ : Nat) (len : Nat)
  | copyGet (id : BitVec 32) (at_ : Nat) (len : Nat)
  | engSync (id : BitVec 32)
  | collSync
  | collAbort
deriving DecidableEq, Repr, Inhabited

/-- An outstanding request of a core (02_fabric.md R45). -/
structure Req where
  qtag : BitVec 16
  slot : BitVec 3
  launch : BitVec 32
  rtreg : BitVec 3
  tier : Tier
  kind : ReqKind
  marked : Bool
  injected : Word
  retrans : Nat
  pkt : Packet
deriving DecidableEq, Repr, Inhabited

/-- When an engine command was pushed: the cycle of its core, and the number of the next instruction to enter the hart's vector queue. What the push releases
went before it (09_ordering.md R255). -/
structure PushPoint where
  cycle : Word
  vq : Nat
deriving DecidableEq, Repr, Inhabited

/-- A command of the copy engine (15_isa_vmem.md R398 to R400). -/
structure CopyCmd where
  id : BitVec 32
  slot : BitVec 3
  launch : BitVec 32
  encl : Byte
  srem : Bool
  drem : Bool
  src : Nat
  dst : Nat
  srt : BitVec 3
  drt : BitVec 3
  sroute : RouteVal
  droute : RouteVal
  ldst : Bool
  extents : List Nat
  strides : List Int
  total : Nat
  next : Nat
  done : List (Nat × Nat)
  failures : List (Nat × BitVec 4)
  pins : List PageMap
  sync : Option Loc
  syncRemote : Option Nat
  syncSent : Bool
  outst : Nat
  malformed : Bool
  tier : Tier
  pushed : PushPoint
deriving DecidableEq, Repr, Inhabited

/-- Aborts that a core still owes the members of a communicator: its header's place, the sequence number and the next member
(18_isa_fabric.md R450). -/
structure CollAbort where
  slot : BitVec 3
  launch : BitVec 32
  core : Nat
  off : Nat
  seq : BitVec 32
  next : Nat
deriving DecidableEq, Repr, Inhabited

/-- A hart parked on a full/empty word (06_execution.md R156). -/
structure FeWaiter where
  core : Nat
  off : Nat
  hcore : Nat
  slot : BitVec 3
  launch : BitVec 32
  rd : Reg
  empties : Bool
deriving DecidableEq, Repr, Inhabited

/-- A queued operation of the Weir unit (07_core.md R204): the instruction word with the operands captured at issue. -/
structure WeirOp where
  hcore : Nat
  slot : BitVec 3
  launch : BitVec 32
  kind : Nat
  sketch : Nat
  arg : Nat
  elems : List Nat
  weights : List Nat
  tier : Tier
deriving DecidableEq, Repr, Inhabited

/-- A mailbox message of 16 bytes as a number, byte 0 lowest (07_core.md R201). -/
abbrev Msg := BitVec 128

/-- The mailbox of one hart slot of one placed launch (07_core.md R200). -/
structure Mailbox where
  core : Nat
  slot : BitVec 3
  launch : BitVec 32
  msgs : List Msg
deriving DecidableEq, Repr, Inhabited

/-- A local message held until its mailbox has room (07_core.md R200, 04_storage.md R110). -/
structure HeldMsg where
  core : Nat
  slot : BitVec 3
  launch : BitVec 32
  msg : Msg
deriving DecidableEq, Repr, Inhabited

/-- An endpoint counter (03_routes.md R75): NG and the L bits. -/
structure EpCounter where
  ng : BitVec 16
  l : BitVec 16
deriving DecidableEq, Repr, Inhabited

/-- A replay-cache entry (03_routes.md R91). -/
structure ReplayEntry where
  spkg : BitVec 16
  score : BitVec 12
  hslot : BitVec 3
  eng : Bool
  aseq : BitVec 8
  qtag : BitVec 15
  tomb : Bool
  status : BitVec 4
  result : Word
deriving DecidableEq, Repr, Inhabited

/-- An entry of the translation buffers or of the walk cache (08_memory.md R225, R226): the ASID and reuse count it was filled under, the range it covers, and the
leaf, or the pointer to the next table, with its level. -/
structure TlbEntry where
  asid : BitVec 16
  rcnt : Byte
  va : Nat
  size : Nat
  leaf : Word
  level : Nat
deriving DecidableEq, Repr, Inhabited

/-- A write to a core-shared register that takes effect at a later cycle (07_core.md R174, R176). -/
structure CWrite where
  lslot : Bool
  idx : BitVec 4
  val : Word
  due : Word
  slot : BitVec 3
deriving DecidableEq, Repr, Inhabited

/-- A core (07_core.md). -/
structure Core where
  /-- 128 x cluster number + core index | 12 | 06_execution.md R146 | its own number -/
  id : Nat
  /-- CYCLE | 64 | 07_core.md R206 | 0 -/
  cycle : Word
  /-- core-shared bank of launch slot 0 | 16 x 64 | 07_core.md R176 | 0 (DESIGN CHOICE 0, log entry 2) -/
  c0 : Vector Word 16
  /-- core-shared bank of launch slot 1 | 16 x 64 | 07_core.md R176 | 0 (DESIGN CHOICE 0, log entry 2) -/
  c1 : Vector Word 16
  /-- writes to the core-shared banks not yet in effect | list | 07_core.md R174, R176 | empty -/
  cpend : List CWrite
  /-- split T | 1, 2 or 4 | 06_execution.md R140 | 1 (DESIGN CHOICE 1, log entry 2) -/
  split : Nat
  /-- EVC0 to EVC7 | 8 x 64 | 07_core.md R207 | 0 (DESIGN CHOICE 0, log entry 2) -/
  evc : Vector Word 8
  /-- SEVSEL | 64 | 07_core.md R207 | 0 -/
  sevsel : Word
  /-- MEVEN: CEN, UREAD | 9 | 07_core.md R207 | 0 -/
  meven : BitVec 9
  /-- MDELEG | 64 | 10_traps.md R270 | 0 -/
  mdeleg : Word
  /-- MKEYID | 64 | 08_memory.md R235 | 0 -/
  mkeyid : Word
  /-- MENCL | 8 | 08_memory.md R235 | 0 -/
  mencl : Byte
  /-- ASIDTAB | 64 | 08_memory.md R224 | 0 -/
  asidtab : Word
  /-- GUARD0 to GUARD15 | 16 x 64 | 08_memory.md R235 | 0 -/
  guards : Vector Guard 16
  /-- translation buffers and walk cache | 64 + 2,048 + 64 entries | 08_memory.md R226 | empty -/
  tlb : List TlbEntry
  /-- queue charges C_q | 32 counters | 06_execution.md R151 | 0 (DESIGN CHOICE 0, log entry 2) -/
  charge : Vector Nat 32
  /-- element-beats since the last report to the Sluice, by queue | 32 counters | 06_execution.md R153 | 0 (DESIGN CHOICE 0, log entry 2) -/
  unreported : Vector Nat 32
  /-- hart slot that holds each lane group | 4 entries | 06_execution.md R149 | none -/
  lane : Vector (Option (BitVec 3)) 4
  /-- ready vector threads as the sequencer last saw them: hart slot, and core cycle since which the thread waits | list | 06_execution.md R149, R151 | empty -/
  waits : List (BitVec 3 × Word)
  /-- commands of the copy engine, round-robin order | at most 48 | 07_core.md R202 | empty -/
  copies : List CopyCmd
  /-- next copy id to try | 32 | 07_core.md R202 | 1 (DESIGN CHOICE 1, log entry 2) -/
  copyId : BitVec 32
  /-- queued operations of the Weir unit, oldest first | list | 07_core.md R204 | empty -/
  weir : List WeirOp
  /-- aborts that the core owes to members of collectives | list | 18_isa_fabric.md R450 | empty -/
  aborts : List CollAbort
  /-- outstanding requests | list | 02_fabric.md R45 | empty -/
  reqs : List Req
  /-- next request tag | 16 | 02_fabric.md R45 | 0 (DESIGN CHOICE 0, log entry 2) -/
  qtag : BitVec 16
  /-- engine atomic sequence counters, one per hart slot | 8 x 8 | 03_routes.md R93 | 0 (DESIGN CHOICE 0, log entry 2) -/
  engAseq : Vector (BitVec 8) 8
  /-- endpoint counter | 16 + 16 | 03_routes.md R75 | 0 (DESIGN CHOICE 0, log entry 2) -/
  ctr : EpCounter
  /-- replay cache, newest first | 64 entries | 03_routes.md R91 | empty -/
  replay : List ReplayEntry
  /-- bubbles the current governor still inserts | counter | 01_package.md R13 | 0 -/
  bubbles : Nat
deriving DecidableEq, Repr, Inhabited

/-- A hart parked on a sync word: the word, the hart, its destination, and the generation that it has seen (06_execution.md R159). -/
structure SyncWaiter where
  core : Nat
  off : Nat
  hcore : Nat
  slot : BitVec 3
  launch : BitVec 32
  rd : Reg
  gen : Nat
deriving DecidableEq, Repr, Inhabited

/-- The storage of the package. Each list of cells is in canonical form: keys strictly rising, no value equal to the default. -/
structure Mem where
  /-- scratchpad bytes that differ from 0, keyed by core x 0x140000 + offset | 4,096 x 1.25 MiB | 07_core.md R193 | all 0 (DESIGN CHOICE 0, log entry 3) -/
  spad : List Host.Cell
  /-- scratchpad words whose full/empty bit is full, keyed by word address | 1 per 8 bytes | 06_execution.md R156 | all empty (DESIGN CHOICE empty, log entry 3) -/
  full : List Nat
  /-- poisoned scratchpad words, keyed by word address | 1 per 8 bytes | 01_package.md R27 | none (DESIGN CHOICE none, log entry 3) -/
  spoison : List Nat
  /-- HBM bytes (plaintext) that differ from 0, keyed by physical address | 512 GiB | 08_memory.md R214 | all 0 (DESIGN CHOICE 0, log entry 3) -/
  hbm : List Host.Cell
  /-- lines last sealed under a key other than the key of id 0, with the serial number of that key | 1 per line | 08_memory.md R232 | none (DESIGN CHOICE none, log entry 3) -/
  sealed : List (Nat × Nat)
  /-- poisoned HBM lines | 1 per line | 01_package.md R27 | none (DESIGN CHOICE none, log entry 3) -/
  hpoison : List Nat
  /-- bytes of the context pools in the firmware region that differ from 0, keyed by physical address; no hart, engine or route reaches them | 4,096 x 3 MiB | 10_traps.md R283 | all 0 (DESIGN CHOICE 0, log entry 3) -/
  pool : List Host.Cell
  /-- harts parked on full/empty words, in the order they parked | list | 06_execution.md R156 | empty -/
  feWait : List FeWaiter
  /-- harts parked on sync words | list | 06_execution.md R159 | empty -/
  syncWait : List SyncWaiter
deriving DecidableEq, Repr, Inhabited

/-- States of a fabric link (02_fabric.md R35). -/
inductive LinkState
  | down
  | train
  | auth
  | up
  | failed
deriving DecidableEq, Repr, Inhabited

/-- One link: a fabric port or an Ethernet peer (02_fabric.md R35 to R41, R64). -/
structure Link where
  /-- link state | enumeration | 02_fabric.md R35 | down -/
  state : LinkState
  /-- enabled by the Wellhead | 1 | 02_fabric.md R35 | false -/
  enabled : Bool
  /-- training failed and a retry is due | 1 | 02_fabric.md R35 | false -/
  retryDue : Bool
  /-- consecutive failed authentications | 2 | 02_fabric.md R35 | 0 -/
  attempts : Nat
  /-- consecutive failed frames | 3 | 02_fabric.md R40 | 0 -/
  fails : Nat
  /-- sending direction: FSEQ of the next frame | 64 | 02_fabric.md R37 | 0 -/
  txSeq : Nat
  /-- sending direction: key phase | 1 | 02_fabric.md R37 | false -/
  txPh : Bool
  /-- sending direction: the next frame is the last under the old key | 1 | 02_fabric.md R37 | false -/
  txLast : Bool
  /-- sending direction: frames under the old key await acknowledgement | 1 | 02_fabric.md R37 | false -/
  txOld : Bool
  /-- receiving direction: FSEQ expected next | 64 | 02_fabric.md R37 | 0 -/
  rxSeq : Nat
  /-- receiving direction: key phase expected next | 1 | 02_fabric.md R37 | false -/
  rxPh : Bool
  /-- receiving direction: key phase and FSEQ of the last verified frame | 65 | 02_fabric.md R37 | none -/
  rxLast : Option (Bool × Nat)
  /-- NAK to send in the next header | 1 | 02_fabric.md R40 | false -/
  nak : Bool
  /-- receive buffers freed by this side since UP | 16 | 02_fabric.md R38 | 0 -/
  freed : BitVec 16
  /-- last CREDIT received | 16 | 02_fabric.md R38 | 0 -/
  credit : BitVec 16
  /-- frames sent since UP, modulo 65,536 | 16 | 02_fabric.md R39 | 0 -/
  sent : BitVec 16
  /-- replay buffer: frames not yet acknowledged, oldest first | 128 (512 for a peer) | 02_fabric.md R39 | empty -/
  replay : List Frame
  /-- frames of the replay buffer still to send again | counter | 02_fabric.md R40 | 0 -/
  resend : Nat
  /-- egress queues: rate class and packet, oldest first | 16 classes | 02_fabric.md R55 | empty -/
  egress : List (BitVec 4 × Packet)
  /-- rate class that the weighted round robin serves | 4 | 02_fabric.md R55 | 0 (DESIGN CHOICE 0, log entry 2) -/
  rrClass : Nat
  /-- packets that the class may still send in this round | counter | 02_fabric.md R55 | 0 (DESIGN CHOICE 0, log entry 2) -/
  rrLeft : Nat
  /-- number of the link session, which names its keys | counter | 02_fabric.md R37 | 0 (DESIGN CHOICE 0, log entry 2) -/
  sid : Nat
  /-- updates of the sending direction's key | counter | 02_fabric.md R37 | 0 -/
  txKeys : Nat
  /-- receiving direction: FSEQ of the last frame under the key before this one | 64 | 02_fabric.md R37 | none -/
  rxOld : Option Nat
  /-- acknowledged beats of a packet that is not wholly acknowledged | list | 02_fabric.md R41 | empty -/
  ackBeats : List (BitVec 128)
  /-- beats of a packet partly sent | list | 02_fabric.md R38 | empty -/
  txBeats : List (BitVec 128)
  /-- beats of a packet partly received | list | 02_fabric.md R38 | empty -/
  rxBeats : List (BitVec 128)
  /-- a heartbeat is due to be sent in the next control frame | 1 | 02_fabric.md R35 | false -/
  beatDue : Bool
  /-- SLOTOK | 16 | 03_routes.md R82 | 0 -/
  slotok : BitVec 16
  /-- device identity of the last peer | identity | 03_routes.md R82 | none -/
  peer : Option DevId
  /-- the last peer's end of the link: hop-list value, and second slot of an Ethernet link | 5 + 5 | 03_routes.md R81 | 0 (DESIGN CHOICE 0, log entry 2) -/
  far : Nat × Option Nat
deriving DecidableEq, Repr, Inhabited

/-- An Ethernet peer: port, index, table entry and link (02_fabric.md R62). -/
structure EthPeer where
  eth : BitVec 2
  idx : BitVec 5
  entry : BitVec 128
  link : Link
deriving DecidableEq, Repr, Inhabited

/-- A torus endpoint: the endpoint of a core router, or of a shared unit's router (02_fabric.md R50). -/
structure Endpoint where
  x : Nat
  y : Nat
  dep : Bool
deriving DecidableEq, Repr, Inhabited

/-- Where a packet in flight is. -/
inductive NetPos
  | inject
  | torus
  | refusedTorus
  | backoff (due : Nat)
  | waiting
  | arrived
  | atSwitch (pin : Option LinkRef)
deriving DecidableEq, Repr, Inhabited

/-- A packet in flight in the package. -/
structure NetItem where
  pkt : Packet
  pos : NetPos
  src : Endpoint
  dst : Endpoint
  ptag : Nat
  reply : Bool
  sent : Nat
  got : List Nat
  admitted : Bool
  retries : Nat
  home : Nat
  encl : Byte
  ofTag : Nat
deriving DecidableEq, Repr, Inhabited

/-- A flit on the torus (02_fabric.md R49): its sideband and the router it stands at. -/
structure Flit where
  dx : Nat
  dy : Nat
  dep : Bool
  age : Nat
  src : Nat
  ptag : Nat
  fidx : Nat
  last : Bool
  cls : Bool
  x : Nat
  y : Nat
  shared : Bool
  dir : Nat
deriving DecidableEq, Repr, Inhabited

/-- The merge of the replies of a replicated packet (02_fabric.md R60). -/
structure McastMerge where
  pkt : Packet
  from_ : Option LinkRef
  second : Bool
  pending : List Nat
  bitmap : Word
deriving DecidableEq, Repr, Inhabited

/-- States of a route key slot (03_routes.md R71). -/
inductive SlotState
  | empty
  | pending
  | current
  | accept
deriving DecidableEq, Repr, Inhabited

/-- A route key slot. -/
structure KeySlot where
  state : SlotState
  key : BitVec 256
deriving DecidableEq, Repr, Inhabited

/-- A TKIND 1 endpoint: the pair of stack and key id, its generation and owning enclave (03_routes.md R74). -/
structure HbmEp where
  stack : BitVec 3
  key : BitVec 6
  encl : Byte
  eg : BitVec 16
deriving DecidableEq, Repr, Inhabited

/-- A revocation in progress: its counter, the new generation, and the hart that waits for its completion in RREVOKE with the
destination register (03_routes.md R78, 18_isa_fabric.md R443). -/
structure Revocation where
  ctr : CounterRef
  gen : BitVec 16
  waiter : Option (Nat × BitVec 3 × BitVec 32 × Reg)
deriving DecidableEq, Repr, Inhabited

/-- A multicast mint in progress (03_routes.md R84). -/
structure PendingMintm where
  item : NetItem
  leaves : Nat
  answers : List (Nat × Bool × BitVec 16)
deriving DecidableEq, Repr, Inhabited

/-- The fabric side of the package (02_fabric.md, 03_routes.md). -/
structure Fabric where
  /-- fabric ports 0 to 15 | 16 links | 02_fabric.md R31 | see Link -/
  ports : Vector Link 16
  /-- Ethernet peer entries that differ from reset | 3 x 32 entries of 128 bits | 02_fabric.md R62 | 0 -/
  peers : List EthPeer
  /-- packets in flight in the package | list | 02_fabric.md R46 | empty -/
  net : List NetItem
  /-- flits on the torus | list | 02_fabric.md R49 | empty -/
  flits : List Flit
  /-- multicast merges in progress | list | 02_fabric.md R60 | empty -/
  mcast : List McastMerge
  /-- BACKNOTEs sent: source package, SCORE, HSLOT and RTREG, with the router cycle of the last one | list | 02_fabric.md R55 | empty -/
  noted : List (Nat × Nat)
  /-- replies discarded by the arrival check | counter | 02_fabric.md R48 | 0 (DESIGN CHOICE 0, log entry 2) -/
  badReplies : Nat
  /-- route key slots 0 to 15 | 16 x (state, 256) | 03_routes.md R71 | EMPTY -/
  slots : Vector KeySlot 16
  /-- slots in ACCEPT, oldest first | list | 03_routes.md R72 | empty -/
  acceptOrder : List (BitVec 4)
  /-- stack controllers' endpoint counters | 8 x (16 + 16) | 03_routes.md R75 | 0 (DESIGN CHOICE 0, log entry 2) -/
  stackCtr : Vector EpCounter 8
  /-- the Wellhead's endpoint counter | 16 + 16 | 03_routes.md R75 | 0 (DESIGN CHOICE 0, log entry 2) -/
  wellCtr : EpCounter
  /-- stack controllers' replay caches, keyed by stack | 8 x 64 entries | 03_routes.md R91 | empty -/
  stackReplay : List (Nat × ReplayEntry)
  /-- HBM endpoints | list | 03_routes.md R74 | empty -/
  hbmEps : List HbmEp
  /-- the Wellhead's own endpoint generation | 16 | 03_routes.md R74 | 0 (DESIGN CHOICE 0, log entry 2) -/
  wellEg : BitVec 16
  /-- reservations open to a group key: core, launch, group key | list | 03_routes.md R84 | empty -/
  opens : List (Nat × BitVec 32 × Word)
  /-- the slots that have entered PENDING since package reset: the mask of a peer entry that is not listed | 16 | 03_routes.md R82 | 0 -/
  installed : BitVec 16
  /-- revocations not yet complete | list | 03_routes.md R78 | empty -/
  revs : List Revocation
  /-- counters whose wrap notice is pending | list | 03_routes.md R77 | empty -/
  wraps : List CounterRef
  /-- multicast mints waiting for leaf answers | list | 03_routes.md R84 | empty -/
  mintms : List PendingMintm
  /-- device identity of this package | identity | 01_package.md R21 | 0 (DESIGN CHOICE 0, log entry 4) -/
  myId : DevId
  /-- package identifier | 16 | 03_routes.md R83 | 0 -/
  pkgId : BitVec 16
  /-- lead Wellhead's device identity | identity | 03_routes.md R72 | own identity -/
  lead : DevId
  /-- the domain's table of identities and identifiers | at most 1,024 rows | 03_routes.md R83 | empty -/
  table : List (DevId × BitVec 16)
  /-- the joined link map of the domain | list | 03_routes.md R81 | empty -/
  map : List MapLink
  /-- acknowledgements of INSTALL still awaited, by slot and identity | list | 03_routes.md R72 | empty -/
  installWait : List (BitVec 4 × DevId)
  /-- torus router cycles since package reset | counter | 02_fabric.md R51 | 0 -/
  rcycle : Nat
  /-- router cycle at which the flits last aged | counter | 02_fabric.md R51 | 0 -/
  aged : Nat
deriving DecidableEq, Repr, Inhabited

/-- A storage slot (04_storage.md R99). -/
structure StorageSlot where
  drive : BitVec 2
  idx : BitVec 6
  encl : Byte
  nsid : Nat
  base : Nat
  nblk : Nat
  crypt : Bool
deriving DecidableEq, Repr, Inhabited

/-- A namespace of a drive (04_storage.md R97): drive, NSID, capacity in blocks, and whether it uses the LBA format of R97. -/
structure Namespace where
  drive : BitVec 2
  nsid : Nat
  cap : Nat
  fmtOk : Bool
deriving DecidableEq, Repr, Inhabited

/-- One block on a drive: its plaintext and the storage key it was encrypted under, none for plaintext. -/
structure DriveBlock where
  drive : BitVec 2
  nsid : Nat
  lba : Nat
  data : List Byte
  key : Option (BitVec 256)
deriving DecidableEq, Repr, Inhabited

/-- A fault record (04_storage.md R103): the harts that wait for its page, the PREFETCH commands (`cmds`) that do, its number in the order of
receipt, and whether its blocks are marked busy (R107). -/
structure FaultRec where
  asid : BitVec 16
  va : Nat
  leafAddr : Nat
  leaf : Word
  tkey : Nat
  encl : Byte
  waiters : List (Nat × BitVec 3 × BitVec 32)
  cmds : List Nat
  seq : Nat
  marked : Bool
deriving DecidableEq, Repr, Inhabited

/-- A command that SQPUSH pushed (04_storage.md R109), with the guard entries and key ids of its hart's core at the push (08_memory.md R236). -/
structure SqCmd where
  id : Nat
  core : Nat
  slot : BitVec 3
  launch : BitVec 32
  encl : Byte
  asid : BitVec 16
  rec_ : List Byte
  pushed : PushPoint
  guards : Vector Guard 16
  mkeyid : Word
  started : Bool
  pagesLeft : Nat
  installed : Nat
  fail : Option (Byte × BitVec 16 × Word)
deriving DecidableEq, Repr, Inhabited

/-- What a drive command is for. -/
inductive NvmeUse
  | fault (f : FaultRec) (frame : Nat) (pageSize : Nat)
  | write (cmd : Nat) (blocks : List DriveBlock)
  | trim (cmd : Nat) (lba : Nat) (n : Nat) (nsid : Nat)
  | flush (cmd : Nat)
deriving DecidableEq, Repr, Inhabited

/-- A drive command in flight (04_storage.md R97, R111): its own blocks, and the transfer that it is part of, with the transfer's number and
first failure. `since` is the Siphon cycle in which it was issued. -/
structure NvmeCmd where
  cid : Nat
  drive : BitVec 2
  nsid : Nat
  lba : Nat
  n : Nat
  retried : Bool
  use : NvmeUse
  xfer : Nat
  bad : Option (Byte × BitVec 16 × Nat)
  since : Nat
deriving DecidableEq, Repr, Inhabited

/-- A registered free-frame pool (04_storage.md R108). -/
structure Pool where
  encl : Byte
  en : Bool
  key : Nat
  desc : Nat
  hcore : Nat
  hslot : BitVec 3
  hlaunch : BitVec 32
  lowSent : BitVec 4
  emptySent : BitVec 4
  kept : List (Nat × Nat)
deriving DecidableEq, Repr, Inhabited

/-- A busy mark on a range of blocks (04_storage.md R107). -/
structure BusyRange where
  drive : BitVec 2
  nsid : Nat
  lba : Nat
  n : Nat
  owner : Nat
deriving DecidableEq, Repr, Inhabited

/-- The Siphon (04_storage.md). -/
structure Siphon where
  /-- BOOTSTAT.DRIVES, initialised drives | 4 | 01_package.md R22 | 0 -/
  drives : BitVec 4
  /-- drives whose controller is being reset | 4 | 04_storage.md R111 | 0 -/
  resetting : BitVec 4
  /-- Siphon cycle in which the last reset of each drive's controller began | 4 counters | 04_storage.md R111 | 0 (DESIGN CHOICE 0, log entry 2) -/
  resetAt : Vector Nat 4
  /-- timeouts of the last 60 s: drive and Siphon cycle | list | 04_storage.md R111 | empty -/
  timeouts : List (BitVec 2 × Nat)
  /-- cycles of the Siphon's clock since package reset | counter | 04_storage.md R111 | 0 -/
  cycle : Nat
  /-- Maximum Data Transfer Size of each drive, in 4 KiB blocks; 0 is no limit | 4 values | 04_storage.md R97 | 0 (DESIGN CHOICE 0, log entry 2) -/
  mdts : Vector Nat 4
  /-- namespaces attached to the drives | list | 04_storage.md R97 | empty (what is attached is outside the package) -/
  ns : List Namespace
  /-- blocks on the drives that were written | list | 04_storage.md R100 | empty (what the drives hold is outside the package) -/
  blocks : List DriveBlock
  /-- storage slots in use | 256 | 04_storage.md R99 | empty -/
  slots : List StorageSlot
  /-- fault records that wait for the Siphon, oldest first | list | 04_storage.md R103, R105 | empty -/
  faults : List FaultRec
  /-- drive commands in flight | list | 04_storage.md R97 | empty -/
  cmds : List NvmeCmd
  /-- next drive command number | counter | 04_storage.md R97 | 0 (DESIGN CHOICE 0, log entry 2) -/
  nextCid : Nat
  /-- busy ranges | list | 04_storage.md R107 | empty -/
  busy : List BusyRange
  /-- supervisor commands not yet complete | list | 04_storage.md R109 | empty -/
  sq : List SqCmd
  /-- next supervisor command number | counter | 04_storage.md R109 | 0 (DESIGN CHOICE 0, log entry 2) -/
  nextSq : Nat
  /-- free-frame pools | one per enclave | 04_storage.md R108 | empty -/
  pools : List Pool
  /-- storage keys by enclave | 256 each | 04_storage.md R99 | empty -/
  skeys : List (Byte × BitVec 256)
  /-- inbound drive requests refused, by drive | 4 counters | 04_storage.md R98 | 0 (DESIGN CHOICE 0, log entry 2) -/
  inboundRefused : Vector Nat 4
deriving DecidableEq, Repr, Inhabited

/-- Interface states (05_host.md R116, R118). -/
inductive TState
  | unlocked
  | locked
  | run
  | error
deriving DecidableEq, Repr, Inhabited

/-- The body of a completion (05_host.md R131). -/
structure Completion where
  ctag : BitVec 32
  launch : BitVec 32
  lstat : Byte
  cause : Byte
  pseq : Word
deriving DecidableEq, Repr, Inhabited

/-- A key set of an IDE stream (05_host.md R113): programmed key and whether it is in use. -/
structure KeySet where
  key : Option (BitVec 256)
  going : Bool
deriving DecidableEq, Repr, Inhabited

/-- A PCIe function: SPDM session, IDE stream and, for a virtual function, the interface registers (05_host.md). -/
structure Func where
  /-- function number; 0 is the physical function | 6 | 05_host.md R115 | its own number -/
  fn : BitVec 6
  /-- RINGBASE | 64 | 05_host.md R116 | 0 -/
  ringbase : Word
  /-- RINGLOG | 5 | 05_host.md R116 | 0 -/
  ringlog : BitVec 5
  /-- CPLBASE | 64 | 05_host.md R116 | 0 -/
  cplbase : Word
  /-- CPLLOG | 5 | 05_host.md R116 | 0 -/
  cpllog : BitVec 5
  /-- TAIL | 32 | 05_host.md R116 | 0 -/
  tail : BitVec 32
  /-- HEAD | 32 | 05_host.md R116 | 0 -/
  head : BitVec 32
  /-- CPLTAIL | 32 | 05_host.md R116 | 0 -/
  cpltail : BitVec 32
  /-- CPLHEAD | 32 | 05_host.md R116 | 0 -/
  cplhead : BitVec 32
  /-- RSTAT.RST: 0 STOPPED, 1 RUNNING, 2 HALTED | 2 | 05_host.md R116 | 0 -/
  rst : BitVec 2
  /-- RSTAT.HCAUSE | 4 | 05_host.md R116 | 0 -/
  hcause : BitVec 4
  /-- RSTAT.TSTATE | 2 | 05_host.md R116 | CONFIG_UNLOCKED -/
  tstate : TState
  /-- RSTAT.SCRUB | 1 | 05_host.md R116 | false -/
  scrub : Bool
  /-- DUPCNT | 32 | 05_host.md R116 | 0 -/
  dupcnt : BitVec 32
  /-- ESEQ | 64 | 05_host.md R116 | 0 -/
  eseq : Word
  /-- ENCL bound to the interface | 8 | 05_host.md R116 | 0 -/
  encl : Byte
  /-- a session is bound to the function | 1 | 05_host.md R114 | false -/
  session : Bool
  /-- the bound session has seen RUN | 1 | 05_host.md R118 | false -/
  ranBefore : Bool
  /-- a STOP response is owed when SCRUB clears | 1 | 05_host.md R118 | false -/
  stopOwed : Bool
  /-- start nonce of the last LOCK | 256 | 05_host.md R118 | 0 (DESIGN CHOICE 0, log entry 2) -/
  nonce : BitVec 256
  /-- recorded ENCL_PARAM: key id count, storage key, key id 0 flag | 8 + 256 + 1 | 05_host.md R124 | none -/
  param : Option (Nat × BitVec 256 × Bool)
  /-- IDE key sets 0 and 1 of the function's stream | 2 x 256 | 05_host.md R113 | not programmed -/
  ks0 : KeySet
  /-- second key set | 256 | 05_host.md R113 | not programmed -/
  ks1 : KeySet
  /-- phase of the responder-to-requester key | 1 | 05_host.md R131 | 0 (DESIGN CHOICE 0, log entry 2) -/
  kph : Bool
  /-- a KEY_UPDATE of that direction awaits its first completion | 1 | 05_host.md R131 | false -/
  kphFlip : Bool
  /-- CSEQ of the next completion | 64 | 05_host.md R131 | 0 -/
  cseq : Word
  /-- completions held for the ring, oldest first | at most 256 before fetching stops | 05_host.md R131 | empty -/
  held : List Completion
  /-- a ring halted with KEYLIMIT may resume at the next TAIL write | 1 | 05_host.md R130 | false -/
  resumeOk : Bool
  /-- address of BAR0 in configuration space | 64 | 05_host.md R115, R118 | 0 (DESIGN CHOICE 0, log entry 2) -/
  bar : Word
  /-- MSI-X table: address, and data with vector control, of vectors 0 and 1 | 4 x 64 | 05_host.md R115 | 0 (DESIGN CHOICE 0, log entry 2) -/
  msixTab : Vector Word 4
  /-- IDE key sets of the link stream; of function 0 alone | 2 x 256 | 05_host.md R113 | not programmed -/
  ls0 : KeySet
  /-- second key set of the link stream | 256 | 05_host.md R113 | not programmed -/
  ls1 : KeySet
  /-- number of the bound session, which names its keys | counter | 05_host.md R122 | 0 (DESIGN CHOICE 0, log entry 2) -/
  sid : Nat
  /-- updates of the requester-to-responder key in the session | counter | 05_host.md R130 | 0 (DESIGN CHOICE 0, log entry 2) -/
  reqKeys : Nat
  /-- updates of the responder-to-requester key that have taken effect in the session | counter | 05_host.md R131 | 0 (DESIGN CHOICE 0, log entry 2) -/
  rspKeys : Nat
  /-- HeartbeatPeriod of the session in seconds | 1 to 60 | 05_host.md R125 | 0 (DESIGN CHOICE 0, log entry 2) -/
  hb : Nat
  /-- Sluice cycle of the last secured message of the session that verified | counter | 05_host.md R125 | 0 (DESIGN CHOICE 0, log entry 2) -/
  heard : Nat
deriving DecidableEq, Repr, Inhabited

/-- A queue configuration register of the physical function (06_execution.md R152). -/
abbrev QueueReg := BitVec 11

/-- Who receives a launch's completion (05_host.md R132 CPLK, 06_execution.md R170). -/
inductive Origin
  | ring (fn : BitVec 6) (pseq : Word)
  | mailbox (core : Nat) (slot : BitVec 3) (launch : BitVec 32)
deriving DecidableEq, Repr, Inhabited

/-- A launch packet on its way through the Sluice (05_host.md R132, R133). -/
structure Queued where
  words : List Word
  encl : Byte
  origin : Origin
  pushed : PushPoint
  since : Nat
deriving DecidableEq, Repr, Inhabited

/-- A placed launch (06_execution.md R137). While it is not seated, `splitAt` and `cbanks` hold the split and the core-shared bank of each of its
cores at the swap-out (10_traps.md R284); `frames` holds, for each core, the offset in its context pool of the launch's hart contexts (10_traps.md R283). -/
structure Launch where
  id : BitVec 32
  encl : Byte
  words : List Word
  origin : Origin
  queue : BitVec 5
  prio : BitVec 2
  cores : List Nat
  firstSlot : BitVec 3
  allot : Nat
  rbase : Nat
  seated : Bool
  seatedAt : Nat
  preempted : Bool
  splitAt : List (Nat × Nat)
  endStat : Option (Byte × Byte)
  eps : List (Nat × BitVec 16)
  cbanks : List (Nat × List Word)
  frames : List (Nat × Nat)
deriving DecidableEq, Repr, Inhabited

/-- An enclave (05_host.md R118, R124; 08_memory.md R235, R461), with its event counters, SEVSEL and MEVEN on the cores that run another one
(10_traps.md R288). -/
structure Enclave where
  id : Byte
  fn : BitVec 6
  keys : List Nat
  guards : List Guard
  stvec : Word
  counters : List (Nat × List Word × Word × BitVec 9)
deriving DecidableEq, Repr, Inhabited

/-- Host interface, Sluice and enclaves (05_host.md, 06_execution.md). -/
structure HostSide where
  /-- functions that differ from reset | 64 | 05_host.md R115 | see Func -/
  funcs : List Func
  /-- queue registers: WEIGHT, MAXPRIO, EN | 32 x 11 | 06_execution.md R152 | WEIGHT 1, MAXPRIO 3, EN 1 -/
  queues : Vector QueueReg 32
  /-- packets consumed and not yet validated, oldest first | list | 05_host.md R133 | empty -/
  inbox : List Queued
  /-- queued launches by queue, oldest first | 32 lists | 06_execution.md R153 | empty -/
  waiting : Vector (List Queued) 32
  /-- placed launches | list | 06_execution.md R137 | empty -/
  launches : List Launch
  /-- next launch id | 32 | 06_execution.md R145 | 1 (DESIGN CHOICE 1, log entry 2) -/
  nextLaunch : BitVec 32
  /-- queue charges kept by the Sluice | 32 counters | 06_execution.md R153 | 0 (DESIGN CHOICE 0, log entry 2) -/
  charge : Vector Nat 32
  /-- placement counter, for "seated more recently" | counter | 06_execution.md R154 | 0 (DESIGN CHOICE 0, log entry 2) -/
  seatClock : Nat
  /-- enclaves | list | 05_host.md R118 | empty -/
  enclaves : List Enclave
  /-- mailboxes of the placed launches' hart slots that hold messages | list | 07_core.md R200 | empty -/
  mbox : List Mailbox
  /-- local messages held for mailbox room, oldest first | list | 07_core.md R200 | empty -/
  heldMsgs : List HeldMsg
  /-- serial number of the memory key of each key id; 0 means none | 64 | 08_memory.md R232 | 0 -/
  keySerial : Vector Nat 64
  /-- serial number for the next memory key drawn | counter | 08_memory.md R232 | 1 (DESIGN CHOICE 1, log entry 2) -/
  nextSerial : Nat
  /-- Sluice cycles since package reset | counter | 05_host.md R125 | 0 -/
  cycle : Nat
  /-- HBM assignment map: 2 MiB granule and enclave, granules of no enclave left out | 262,144 entries | 08_memory.md R216 | none -/
  assign : List (Nat × Byte)
deriving DecidableEq, Repr, Inhabited

/-- Power, boot and health of the package (01_package.md). -/
structure Pkg where
  /-- PWRGOOD | 1 | 01_package.md R17 | true (package reset keeps the input) -/
  pwrgood : Bool
  /-- PERST# asserted | 1 | 01_package.md R17 | false (package reset keeps the input) -/
  perst : Bool
  /-- BOOTSTAT | 32 | 01_package.md R22 | 0 -/
  bootstat : BitVec 32
  /-- bring-up is running | 1 | 01_package.md R18 | true -/
  booting : Bool
  /-- work of the phase in progress has ended well | 1 | 01_package.md R18 | false -/
  imgLoaded : Bool
  /-- the Image phase has ended | 1 | 01_package.md R19 | false -/
  imgEnded : Bool
  /-- the running image | see FlashImage | 01_package.md R24 | none -/
  image : Option FlashImage
  /-- flash: helper data present | 1 | 01_package.md R24 | true (DESIGN CHOICE true, log entry 4) -/
  helper : Bool
  /-- flash: image slot A | image | 01_package.md R24 | none (DESIGN CHOICE none, log entry 4) -/
  slotA : Option FlashImage
  /-- flash: image slot B | image | 01_package.md R24 | none (DESIGN CHOICE none, log entry 4) -/
  slotB : Option FlashImage
  /-- flash: Horvin's certificate for the identity key | bytes | 01_package.md R24, R25 | empty (DESIGN CHOICE empty, log entry 4) -/
  cert : List Byte
  /-- SRAM and HBM contents are undefined after cold reset, until bring-up initialises them | 1 | 01_package.md R17 | false -/
  undefStore : Bool
  /-- flash: minimum security version in the monotonic counter region | counter | 01_package.md R24 | 0 (DESIGN CHOICE 0, log entry 4) -/
  minVersion : Nat
  /-- corrected soft errors since package reset | 32, saturating | 01_package.md R21 | 0 -/
  corrected : BitVec 32
  /-- uncorrected soft errors since package reset | 32, saturating | 01_package.md R21 | 0 -/
  uncorrected : BitVec 32
  /-- dies whose governor halves the issue rate | 8 | 01_package.md R15 | 0 -/
  halved : BitVec 8
  /-- last temperature read on each die, in degrees Celsius | 8 values | 01_package.md R15 | 0 (DESIGN CHOICE 0, log entry 2) -/
  temp : Vector Nat 8
  /-- the package is in FAULT | 1 | 01_package.md R29 | false -/
  fault : Bool
  /-- PCIe Advanced Error Reporting holds an uncorrectable internal error | 1 | 01_package.md R29 | false -/
  aer : Bool
  /-- the measurement list is closed | 1 | 05_host.md R123 | false -/
  measured : Bool
deriving DecidableEq, Repr, Inhabited

/-- Codes of an SPDM ERROR response that the rules name (05_host.md R114, R130); `other` is every other refusal. -/
inductive SpdmError
  | unexpectedRequest
  | busy
  | other
deriving DecidableEq, Repr, Inhabited

/-- The SPDM capabilities offered (05_host.md R122). -/
inductive SpdmCap
  | cert
  | chal
  | measSig
  | keyEx
  | encrypt
  | mac
  | hbeat
  | keyUpd
deriving DecidableEq, Repr, Inhabited

/-- A message that leaves the package through an interface: what the outside sees. -/
inductive OutMsg
  | cfgRetry
  | cfgRecovery (part : CfgPart) (off : Nat) (val : Word)
  | cfgSigned (part : CfgPart) (off : Nat) (val : Word)
  | pldm (bootstat corrected uncorrected : BitVec 32) (temps rails : List Nat)
  | mctpMeasurement (index : Byte) (raw : List Byte) (sig : Option (List Byte))
  | linkAuth (l : LinkRef) (requester : Bool) (cert : List Byte)
  | readValue (fn : BitVec 6) (off : Nat) (val : Word)
  | doeType (fn : BitVec 6) (index : Nat) (type : Option Nat)
  | spdmOffer (fn : BitVec 6) (version : Nat) (caps : List SpdmCap)
  | frame (l : LinkRef) (f : Frame) (wire : List Byte)
  | linkSpdm (l : LinkRef)
  | spdmHeartbeat (l : LinkRef)
  | wellheadMsg (dst : DevId) (kind : Nat) (a b : Nat)
  | leafAnswer (dst : DevId) (isOpen : Bool) (eg : BitVec 16)
  | announce (src : DevId) (pkg : BitVec 16) (map : List MapLink)
  | linkMap (map : List MapLink)
  | identityTable (table : List (DevId × BitVec 16))
  | msix (fn : BitVec 6) (vec : Nat) (tee : Bool)
  | unsupported (fn : BitVec 6)
  | ringFetch (fn : BitVec 6) (tee : Bool) (addr : Word)
  | completion (fn : BitVec 6) (tee : Bool) (addr : Word) (entry : List Byte)
  | tdispOk (fn : BitVec 6) (kind : Nat)
  | tdispError (fn : BitVec 6)
  | lockOk (fn : BitVec 6) (nonce : BitVec 256)
  | tdispState (fn : BitVec 6) (st : TState)
  | report (fn : BitVec 6) (bytes : List Byte)
  | spdmError (fn : BitVec 6) (code : SpdmError)
  | spdmOk (fn : BitVec 6) (kind : Nat)
  | keyExchangeRsp (fn : BitVec 6) (hb : Nat)
  | measurement (fn : BitVec 6) (index : Byte) (raw : List Byte) (sig : Option (List Byte))
  | certificate (fn : BitVec 6) (chain : List Byte)
  | challengeAuth (fn : BitVec 6) (sig : List Byte)
  | ideAck (fn : BitVec 6) (kind : Nat)
  | enclInfo (fn : BitVec 6) (encl : Byte) (keys : List Nat)
  | pcieError
  | driveUr (drive : BitVec 2)
  | driveRead (drive : BitVec 2) (pa : Nat) (val : Option Byte)
deriving DecidableEq, Repr, Inhabited

/-- A turn of the schedule: the environment's choice of what acts next. -/
inductive Turn
  /-- a visit of the barrel of this core -/
  | visit (core : Nat)
  /-- a step of the package that no word encodes -/
  | event (i : Instr)
  /-- the marked access with this index of the hart in this slot of the focus core is performed (09_ordering.md R247) -/
  | perform (slot : BitVec 3) (k : Nat)
  /-- the host reads 4 or 8 bytes of BAR0 of a function (05_host.md R116, R117) -/
  | hostRead (fn : BitVec 6) (off : BitVec 14) (wide : Bool)
  /-- a DOE discovery request on a function's mailbox (05_host.md R114) -/
  | doeDiscovery (fn : BitVec 6) (index : Nat)
  /-- a requester asks a function for its SPDM version and capabilities (05_host.md R122) -/
  | spdmOffer (fn : BitVec 6)
  /-- GET_MEASUREMENTS over MCTP (05_host.md R134) -/
  | mctpMeasurements (index : Byte) (signed : Bool)
  /-- cycles of the Sluice pass (05_host.md R125) -/
  | sluiceCycles (n : Nat)
  /-- cycles of the Siphon pass (04_storage.md R111) -/
  | siphonCycles (n : Nat)
  /-- a block is altered on a drive (04_storage.md R100): what now stands there, unencrypted -/
  | driveAlters (drive : BitVec 2) (nsid lba : Nat) (data : List Byte)
  /-- no turn of its own: a vector instruction of the visit before it waits in the vector queue (07_core.md R175) -/
  | queued
  /-- no turn of its own: the fetch of the visit before it misses the L1 instruction cache (07_core.md R174) -/
  | fetchMiss
  /-- no turn of its own: the reply of the access of the turn before it, or its result from the vector unit, comes this many cycles late (07_core.md R174) -/
  | late (n : Nat)
  /-- no turn of its own: what runs in the turn before it stops after this many element groups (06_execution.md R163, 10_traps.md R280) -/
  | cut (groups : Nat)
deriving DecidableEq, Repr

/-- The state of the package. The hart whose turn it is stands apart in `h`, its core in `c`; the others are in the lists. -/
structure State where
  /-- the hart in focus | see Hart | 06_execution.md R147 | no launch -/
  h : Hart
  /-- the core in focus | see Core | 07_core.md R173 | core 0 at reset -/
  c : Core
  /-- every other hart context of a placed launch | list | 06_execution.md R137 | empty -/
  harts : List Hart
  /-- every other core that differs from reset | 4,095 | 07_core.md R173 | at reset -/
  cores : List Core
  /-- storage | see Mem | 08_memory.md R214 | see Mem -/
  mem : Mem
  /-- power, boot and health | see Pkg | 01_package.md R10 | see Pkg -/
  pkg : Pkg
  /-- ports, switch, torus and Wellhead | see Fabric | 02_fabric.md R31 | see Fabric -/
  fab : Fabric
  /-- the Siphon | see Siphon | 04_storage.md R97 | see Siphon -/
  sip : Siphon
  /-- host interface, Sluice and enclaves | see HostSide | 05_host.md R112 | see HostSide -/
  hst : HostSide
  /-- the MODEL's own: turns still to come, chosen outside the package; when it is empty the focus core is visited | list | none | empty (DESIGN CHOICE empty, log entry 5) -/
  sched : List Turn
  /-- the MODEL's own: messages that left the package, newest first | list | none | empty (DESIGN CHOICE empty, log entry 5) -/
  out : List OutMsg
  /-- the MODEL's own: number of free values drawn so far | counter | none | 0 (DESIGN CHOICE 0, log entry 6) -/
  draws : Nat
deriving DecidableEq, Repr

/-- A route register or word of zeros. -/
def RouteVal.zero : RouteVal := ⟨0, 0, 0, 0⟩

/-- The Pump at reset (07_core.md R192). -/
def Pump.reset : Pump := ⟨[], 0, 0, 0, 0, 0, 0, 0, 0, false⟩

/-- An unbound stream register (15_isa_vmem.md R391). -/
def Binding.none : Binding := ⟨0, 0, 0, 0, 0, 0, 0, 0, 0, 0, 0, [], []⟩

/-- A vector register tagged NONE (07_core.md R184); code 0 of the tag table is NONE. -/
def VReg.none : VReg := ⟨0, 0⟩

/-- A clean zero tile (10_traps.md R278). -/
def Tile.none : Tile := ⟨0, false, 0⟩

/-- An entry that makes no memory access and has no stream. -/
def VqEntry.plain (word : IWord) (vtype : BitVec 7) (vl : BitVec 22) (ra rb : Word) : VqEntry :=
  ⟨word, vtype, vl, ra, rb, none, false, [], false, none, 0⟩

/-- Vector state VSTATE Initial (06_execution.md R145). -/
def VState.reset : VState :=
  ⟨Vector.replicate 32 VReg.none, Vector.replicate 4 Tile.none, Pump.reset, [], 0, Vector.replicate 8 Binding.none, 0, false, .now⟩

/-- A route register on which nothing was injected (02_fabric.md R56). -/
def Gap.reset : Gap := ⟨0, 0, none, none, 0, false⟩

/-- The control registers at reset: the Reset columns of 12_encoding.md R320's registers. -/
def Csrs.reset : Csrs :=
  { vl := 0, vtype := 0, vstart := 0, vlenb := 0, vdirty := 0, nreg := 0, declared := 0, vlcap := 0, modq := 0, frm := 0,
    fflags := 0, srseed := 0, splitst := 0, instret := 0, sstatus := 0, stvec := 0, sepc := 0, scause := 0, stval := 0,
    sscratch := 0, satp := 0, sie := 0, sipPreempt := false, sflist := 0, framepool := 0, timecmp := 0xFFFFFFFFFFFFFFFF#64,
    mstatus := 0, mtvec := 0, mepc := 0, mcause := 0, mtval := 0, mscratch := 0 }

/-- A hart slot that holds no hart. -/
def Hart.reset : Hart :=
  { core := 0, slot := 0, lslot := false, launch := 0, rank := 0, vthread := false, vindex := 0, run := .retired, seated := false, level := .user,
    pc := 0, word := 0, p := Vector.replicate 16 0, rt := Vector.replicate 8 RouteVal.zero, gap := Vector.replicate 8 Gap.reset,
    csr := Csrs.reset, vec := VState.reset, aseq := 0, rlx := 0, marked := [], pstat := none, mstat := none,
    post := Vector.replicate 6 0, coll := none, collStage := 0, barWait := none, barDone := false, mergeWait := false, deferred := none,
    nextIssue := 0, onReply := false, svcWait := [], svcFailed := [], reason := 0, hstate := 0, saved := none, share := 0, endCause := none }

/-- Core `n` at package reset. -/
def Core.reset (n : Nat) : Core :=
  { id := n, cycle := 0, c0 := Vector.replicate 16 0, c1 := Vector.replicate 16 0, cpend := [], split := 1,
    evc := Vector.replicate 8 0, sevsel := 0, meven := 0, mdeleg := 0, mkeyid := 0, mencl := 0, asidtab := 0,
    guards := Vector.replicate 16 0, tlb := [], charge := Vector.replicate 32 0, unreported := Vector.replicate 32 0,
    lane := Vector.replicate 4 none, waits := [], copies := [], copyId := 1, weir := [], aborts := [], reqs := [], qtag := 0,
    engAseq := Vector.replicate 8 0, ctr := ⟨0, 0⟩, replay := [], bubbles := 0 }

/-- Storage with nothing listed. -/
def Mem.reset : Mem := ⟨[], [], [], [], [], [], [], [], []⟩

/-- A link at reset (02_fabric.md R35). -/
def Link.reset : Link :=
  { state := .down, enabled := false, retryDue := false, attempts := 0, fails := 0, txSeq := 0, txPh := false, txLast := false,
    txOld := false, rxSeq := 0, rxPh := false, rxLast := none, nak := false, freed := 0, credit := 0, sent := 0, replay := [],
    resend := 0, egress := [], rrClass := 0, rrLeft := 0, sid := 0, txKeys := 0, rxOld := none, ackBeats := [], txBeats := [], rxBeats := [], beatDue := false, slotok := 0, peer := none, far := (0, none) }

/-- The fabric side at package reset. -/
def Fabric.reset : Fabric :=
  { ports := Vector.replicate 16 Link.reset, peers := [], net := [], flits := [], mcast := [], noted := [], badReplies := 0,
    slots := Vector.replicate 16 ⟨.empty, 0⟩, acceptOrder := [], stackCtr := Vector.replicate 8 ⟨0, 0⟩, wellCtr := ⟨0, 0⟩,
    stackReplay := [], hbmEps := [], wellEg := 0, opens := [], installed := 0, revs := [], wraps := [], mintms := [], myId := 0, pkgId := 0,
    lead := 0, table := [], map := [], installWait := [], rcycle := 0, aged := 0 }

/-- The Siphon at package reset. -/
def Siphon.reset : Siphon :=
  { drives := 0, resetting := 0, resetAt := Vector.replicate 4 0, timeouts := [], cycle := 0, mdts := Vector.replicate 4 0, ns := [], blocks := [], slots := [], faults := [], cmds := [], nextCid := 0, busy := [], sq := [],
    nextSq := 0, pools := [], skeys := [], inboundRefused := Vector.replicate 4 0 }

/-- A function at reset (05_host.md R116). -/
def Func.reset (fn : BitVec 6) : Func :=
  { fn := fn, ringbase := 0, ringlog := 0, cplbase := 0, cpllog := 0, tail := 0, head := 0, cpltail := 0, cplhead := 0, rst := 0,
    hcause := 0, tstate := .unlocked, scrub := false, dupcnt := 0, eseq := 0, encl := 0, session := false, ranBefore := false,
    stopOwed := false, nonce := 0, param := none, ks0 := ⟨none, false⟩, ks1 := ⟨none, false⟩, kph := false, kphFlip := false,
    cseq := 0, held := [], resumeOk := false, bar := 0, msixTab := Vector.replicate 4 0, ls0 := ⟨none, false⟩, ls1 := ⟨none, false⟩,
    sid := 0, reqKeys := 0, rspKeys := 0, hb := 0, heard := 0 }

/-- Host interface, Sluice and enclaves at package reset. A queue register resets to WEIGHT 1, MAXPRIO 3, EN 1 (06_execution.md R152). -/
def HostSide.reset : HostSide :=
  { funcs := [], queues := Vector.replicate 32 0x701#11, inbox := [], waiting := Vector.replicate 32 [], launches := [],
    nextLaunch := 1, charge := Vector.replicate 32 0, seatClock := 0, enclaves := [], mbox := [], heldMsgs := [],
    keySerial := Vector.replicate 64 0, nextSerial := 1, cycle := 0, assign := [] }

/-- Boot state right after package reset: bring-up starts at its first phase (01_package.md R18, R22). -/
def Pkg.reset : Pkg :=
  { pwrgood := true, perst := false, bootstat := 0, booting := true, imgLoaded := false, imgEnded := false, image := none,
    helper := true, slotA := none, slotB := none, cert := [], undefStore := false, minVersion := 0, corrected := 0, uncorrected := 0, halved := 0,
    temp := Vector.replicate 8 0, fault := false, aer := false, measured := false }

/-- The package right after package reset (01_package.md R17): every register at its reset value, no launch, nothing in memory. -/
def State.reset : State :=
  { h := Hart.reset, c := Core.reset 0, harts := [], cores := [], mem := Mem.reset, pkg := Pkg.reset, fab := Fabric.reset,
    sip := Siphon.reset, hst := HostSide.reset, sched := [], out := [], draws := 0 }

end Sys2Proof.Machine
end

