-- ==== Sys2Proof/Machine/Ops.lean ====
section
/-! DEFINITION. The named operations over the state: focus, registers, storage, retirement, trap entry and trap return. -/

set_option Elab.async false

namespace Sys2Proof.Machine

/-! ## Canonical lists of cells -/

/-- The byte listed at an address, or 0. -/
def cellGet : List Host.Cell → Nat → Byte
  | [], _ => 0
  | (k, v) :: r, a => if k = a then v else cellGet r a

/-- Take the entry of an address out. -/
def cellDel : List Host.Cell → Nat → List Host.Cell
  | [], _ => []
  | (k, v) :: r, a => if k = a then r else if a < k then (k, v) :: r else (k, v) :: cellDel r a

/-- Put a nonzero byte at an address, keeping the list sorted. -/
def cellIns : List Host.Cell → Nat → Byte → List Host.Cell
  | [], a, b => [(a, b)]
  | (k, v) :: r, a, b => if k = a then (a, b) :: r else if a < k then (a, b) :: (k, v) :: r else (k, v) :: cellIns r a b

/-- Write a byte: the byte that an unlisted address reads as removes the entry. -/
def cellSet (m : List Host.Cell) (a : Nat) (b : Byte) : List Host.Cell := if b = 0 then cellDel m a else cellIns m a b

/-- Canonical form: addresses strictly rising, no byte 0 listed. -/
def cellsWf : List Host.Cell → Bool
  | [] => true
  | [(_, v)] => v != 0
  | (k, v) :: (k', v') :: r => v != 0 && decide (k < k') && cellsWf ((k', v') :: r)

/-- Put a number into a rising list of numbers. -/
def setIns : List Nat → Nat → List Nat
  | [], a => [a]
  | k :: r, a => if k = a then k :: r else if a < k then a :: k :: r else k :: setIns r a

/-- Take a number out of a rising list. -/
def setDel : List Nat → Nat → List Nat
  | [], _ => []
  | k :: r, a => if k = a then r else if a < k then k :: r else k :: setDel r a

/-- A strictly rising list. -/
def risingB : List Nat → Bool
  | [] => true
  | [_] => true
  | k :: k' :: r => decide (k < k') && risingB (k' :: r)

/-- The serial number listed for a line, or the default. -/
def sealGet (dflt : Nat) : List (Nat × Nat) → Nat → Nat
  | [], _ => dflt
  | (k, v) :: r, a => if k = a then v else sealGet dflt r a

/-- Take the entry of a line out of a rising list. -/
def sealDel : List (Nat × Nat) → Nat → List (Nat × Nat)
  | [], _ => []
  | (k, v) :: r, a => if k = a then r else if a < k then (k, v) :: r else (k, v) :: sealDel r a

/-- Put the serial number of a line into a rising list. -/
def sealIns : List (Nat × Nat) → Nat → Nat → List (Nat × Nat)
  | [], a, b => [(a, b)]
  | (k, v) :: r, a, b => if k = a then (a, b) :: r else if a < k then (a, b) :: (k, v) :: r else (k, v) :: sealIns r a b

/-- Record the serial number of the key a line is sealed under; the default is not listed. -/
def sealSet (dflt : Nat) (m : List (Nat × Nat)) (a b : Nat) : List (Nat × Nat) := if b = dflt then sealDel m a else sealIns m a b

/-- Keys strictly rising. -/
def keysRisingB (m : List (Nat × Nat)) : Bool := risingB (m.map Prod.fst)

/-- Storage is in canonical form. -/
def Mem.wf (m : Mem) : Bool :=
  cellsWf m.spad && cellsWf m.hbm && cellsWf m.pool && risingB m.full && risingB m.spoison && risingB m.hpoison && keysRisingB m.sealed

/-! ## Focus -/

/-- Bytes of one scratchpad (07_core.md R193). -/
def spadSize : Nat := 0x140000

/-- The hart with this core, slot and launch. -/
def Hart.isHart (h : Hart) (core : Nat) (slot : BitVec 3) (launch : BitVec 32) : Bool :=
  h.core == core && h.slot == slot && h.launch == launch

/-- The seated hart of a slot that has not retired. -/
def Hart.holds (h : Hart) (core : Nat) (slot : BitVec 3) : Bool :=
  h.core == core && h.slot == slot && h.seated && h.launch != 0 && h.run != .retired

/-- Every hart context. -/
def State.allHarts (s : State) : List Hart := if s.h.launch = 0 then s.harts else s.h :: s.harts

/-- A hart context by identity. -/
def State.findHart (s : State) (core : Nat) (slot : BitVec 3) (launch : BitVec 32) : Option Hart :=
  s.allHarts.find? (·.isHart core slot launch)

/-- The hart that holds a slot. -/
def State.holder (s : State) (core : Nat) (slot : BitVec 3) : Option Hart := s.allHarts.find? (·.holds core slot)

/-- Write a hart context back by identity. -/
def State.putHart (s : State) (h : Hart) : State :=
  if s.h.isHart h.core h.slot h.launch then { s with h := h }
  else { s with harts := s.harts.map fun g => if g.isHart h.core h.slot h.launch then h else g }

/-- Change every hart context that satisfies a condition. -/
def State.mapHarts (s : State) (p : Hart → Bool) (f : Hart → Hart) : State :=
  { s with h := if s.h.launch != 0 && p s.h then f s.h else s.h
           harts := s.harts.map fun g => if p g then f g else g }

/-- Bring a hart into focus; the one in focus goes to the others. -/
def State.focusOn (s : State) (h : Hart) : State :=
  if s.h.isHart h.core h.slot h.launch then s
  else
    { s with
      h := h
      harts := (if s.h.launch = 0 then [] else [s.h]) ++ s.harts.filter fun g => !g.isHart h.core h.slot h.launch }

/-- A core by number; one not listed is as package reset left it, with the L bits of the slots installed since (03_routes.md R71). -/
def State.core (s : State) (n : Nat) : Core :=
  if s.c.id = n then s.c else (s.cores.find? (·.id == n)).getD { Core.reset n with ctr := ⟨0, s.fab.installed⟩ }

/-- Write a core back. -/
def State.putCore (s : State) (c : Core) : State :=
  if s.c.id = c.id then { s with c := c } else { s with cores := c :: s.cores.filter (·.id != c.id) }

/-- Bring a core into focus. -/
def State.focusCore (s : State) (n : Nat) : State :=
  if s.c.id = n then s else { s with c := s.core n, cores := s.c :: s.cores.filter (·.id != n) }

/-- Bring the hart that holds a slot, and its core, into focus. -/
def State.focusSlot (s : State) (core : Nat) (slot : BitVec 3) : Option State :=
  (s.holder core slot).map fun h => (s.focusCore core).focusOn h

/-- Change every core that is listed or in focus. -/
def State.mapCores (s : State) (f : Core → Core) : State := { s with c := f s.c, cores := s.cores.map f }

/-- The placed launch with this id. -/
def State.launch? (s : State) (id : BitVec 32) : Option Launch := s.hst.launches.find? (·.id == id)

/-- Change a placed launch. -/
def State.mapLaunch (s : State) (id : BitVec 32) (f : Launch → Launch) : State :=
  { s with hst := { s.hst with launches := s.hst.launches.map fun l => if l.id == id then f l else l } }

/-- An enclave holds the key id of an HBM endpoint; key id 0 is held by every enclave that was created with it (05_host.md R124; 08_memory.md R216). -/
def State.holdsEp (s : State) (e : HbmEp) (encl : Byte) : Bool :=
  if e.key = 0 then s.hst.enclaves.any fun x => x.id == encl && x.keys.contains 0 else e.encl == encl

/-- Draw the number of a free value. -/
def State.draw (s : State) : Nat × State := (s.draws, { s with draws := s.draws + 1 })

/-- Send a message out of the package. -/
def State.emit (s : State) (m : OutMsg) : State := { s with out := m :: s.out }

/-! ## The fields of a launch packet (05_host.md R132) -/

/-- Word `i` of a packet. -/
def pktWord (ws : List Word) (i : Nat) : Word := ws.getD i 0
/-- CPC + 1. -/
def shapeCores (ws : List Word) : Nat := fldN (pktWord ws 6) 5 7 + 1
/-- NCLUS + 1. -/
def shapeClusters (ws : List Word) : Nat := fldN (pktWord ws 6) 0 5 + 1
/-- HPC + 1. -/
def shapeHarts (ws : List Word) : Nat := fldN (pktWord ws 6) 12 3 + 1
/-- Vector threads per core at entry. -/
def shapeVthreads (ws : List Word) : Nat := 2 ^ fldN (pktWord ws 6) 15 2
/-- SPRES in bytes. -/
def shapeSpres (ws : List Word) : Nat := fldN (pktWord ws 6) 23 9 * 4096
/-- CIST. -/
def shapeCist (ws : List Word) : Bool := fldN (pktWord ws 6) 32 1 = 1
/-- PRIVSZ in bytes. -/
def shapeOwn (ws : List Word) : Nat := fldN (pktWord ws 6) 33 7 * 4096
/-- The allotment A of R137. -/
def shapeAllot (ws : List Word) : Nat := if shapeHarts ws ≤ 4 then 4 else 8
/-- Bytes of a launch's block on each core (08_memory.md R210). -/
def shapeBlock (ws : List Word) : Nat := shapeSpres ws + shapeAllot ws * shapeOwn ws

/-! ## Scalar registers -/

/-- The core-shared bank of the issuing hart's launch slot (07_core.md R176). -/
def State.cbank (s : State) : Vector Word 16 := if s.h.lslot then s.c.c1 else s.c.c0

/-- A scalar register as read at issue (12_encoding.md R316): p0 to p15, then c0 to c15. -/
def State.x (s : State) (r : Reg) : Word :=
  let i : Fin 16 := ⟨r.toNat % 16, Nat.mod_lt _ (by decide)⟩
  if r.toNat < 16 then (if r.toNat = 0 then 0 else s.h.p.get i) else s.cbank.get i

/-- Write a scalar register; the result of a write to a core-shared register takes effect `lat` cycles after issue (07_core.md R174). -/
def State.setXLat (s : State) (r : Reg) (v : Word) (lat : Nat) : State :=
  let i : Fin 16 := ⟨r.toNat % 16, Nat.mod_lt _ (by decide)⟩
  if r.toNat = 0 then s
  else if r.toNat < 16 then { s with h := { s.h with p := s.h.p.set i v } }
  else { s with c := { s.c with cpend := s.c.cpend ++ [⟨s.h.lslot, BitVec.ofNat 4 i, v, s.c.cycle + BitVec.ofNat 64 lat, s.h.slot⟩] } }

/-- Write a scalar result at `t + 7` (07_core.md R174). -/
def State.setX (s : State) (r : Reg) (v : Word) : State := s.setXLat r v 7

/-- Whether a write of the batch loses to a write of a lower slot, or to a later write of the same slot (07_core.md R176). -/
def cwriteLoses (w : CWrite) (later all : List CWrite) : Bool :=
  all.any (fun u => u.lslot == w.lslot && u.idx == w.idx && u.due == w.due && decide (u.slot < w.slot)) ||
    later.any (fun u => u.lslot == w.lslot && u.idx == w.idx && decide (w.due ≤ u.due) && (u.slot == w.slot || decide (w.due < u.due)))

/-- Apply the writes that win. -/
def applyCWrites (all : List CWrite) : List CWrite → Core → Core
  | [], c => c
  | w :: r, c =>
    let i : Fin 16 := ⟨w.idx.toNat, w.idx.isLt⟩
    let c' := if cwriteLoses w r all then c
      else if w.lslot then { c with c1 := c.c1.set i w.val } else { c with c0 := c.c0.set i w.val }
    applyCWrites all r c'

/-- Bring the core-shared banks up to the current cycle: every write made in an earlier cycle is seen (07_core.md R176). -/
def Core.settle (c : Core) : Core :=
  let due := c.cpend.filter (·.due < c.cycle)
  applyCWrites due due { c with cpend := c.cpend.filter (fun w => !decide (w.due < c.cycle)) }

/-! ## Counters -/

/-- Event counter increments (07_core.md R207, R208). -/
def Core.count (c : Core) (code n : Nat) : Core :=
  { c with evc := Vector.ofFn fun i : Fin 8 =>
      if c.meven.getLsbD i && decide (fldN c.sevsel (8 * i) 8 = code) then c.evc.get i + BitVec.ofNat 64 n else c.evc.get i }

/-- Event counter increments of the core in focus. -/
def State.count (s : State) (code n : Nat) : State := { s with c := s.c.count code n }

/-- Charge element-beats to the queue of the hart's launch (06_execution.md R151). -/
def State.charge (s : State) (beats : Nat) : State :=
  match s.launch? s.h.launch with
  | none => s
  | some l =>
    let q : Fin 32 := ⟨l.queue.toNat, l.queue.isLt⟩
    { s with c := { (s.c.count 0x05 beats) with
        charge := s.c.charge.set q (s.c.charge.get q + beats)
        unreported := s.c.unreported.set q (s.c.unreported.get q + beats) } }

/-! ## Outcomes of an instruction -/

/-- What an instruction does: it completes with its effects, it traps with the effects that stand, or it does not issue now. -/
inductive Res
  | ok (s : State)
  | trap (t : Trap) (s : State)
  | wait (s : State)

/-- Chain two parts of an instruction. -/
def Res.bind (r : Res) (f : State → Res) : Res :=
  match r with
  | .ok s => f s
  | .trap t s => .trap t s
  | .wait s => .wait s

/-- The cause codes of 10_traps.md R269. -/
def causeIllegal : Byte := 0x01
/-- PRIV. -/
def causePriv : Byte := 0x02
/-- MISALIGN. -/
def causeMisalign : Byte := 0x03
/-- PAGE_ABSENT. -/
def causePageAbsent : Byte := 0x04
/-- PAGE_PERM. -/
def causePagePerm : Byte := 0x05
/-- BSK_MISMATCH. -/
def causeBsk : Byte := 0x06
/-- GUARD. -/
def causeGuard : Byte := 0x07
/-- WINDOW. -/
def causeWindow : Byte := 0x08
/-- ROUTE_TAG. -/
def causeRouteTag : Byte := 0x09
/-- ROUTE_BOUNDS. -/
def causeRouteBounds : Byte := 0x0A
/-- ROUTE_REVOKED. -/
def causeRouteRevoked : Byte := 0x0B
/-- ROUTE_UNREACH. -/
def causeRouteUnreach : Byte := 0x0C
/-- ROUTE_REPLAY. -/
def causeRouteReplay : Byte := 0x0D
/-- VFIRST. -/
def causeVfirst : Byte := 0x0E
/-- TAGMIX. -/
def causeTagmix : Byte := 0x0F
/-- STREAM. -/
def causeStream : Byte := 0x10
/-- POISON. -/
def causePoison : Byte := 0x14
/-- MCHECK. -/
def causeMcheck : Byte := 0x15
/-- FE_ADDR. -/
def causeFeAddr : Byte := 0x16
/-- SKETCH. -/
def causeSketch : Byte := 0x17
/-- COLL_ABORT. -/
def causeCollAbort : Byte := 0x18
/-- ASID_WRAP. -/
def causeAsidWrap : Byte := 0x19

/-- The word being issued, as STVAL holds it (10_traps.md R269). -/
def State.wordVal (s : State) : Word := s.h.word.setWidth 64

/-- A trap that reports the instruction word. -/
def State.trapWord (s : State) (code : Byte) : Trap := ⟨code, s.wordVal⟩

/-- Raise ILLEGAL for the word being issued, with no other effect (12_encoding.md R319). -/
def State.illegal (s : State) : Res := .trap (s.trapWord causeIllegal) s

/-- Raise PRIV for the word being issued (10_traps.md R265). -/
def State.priv (s : State) : Res := .trap (s.trapWord causePriv) s

/-! ## Privilege and status -/

/-- SSTATUS.VS: 0 Off, 1 Initial, 2 Clean, 3 Dirty (10_traps.md R266). -/
def Csrs.vs (c : Csrs) : Nat := fldN c.sstatus 5 2

/-- Write SSTATUS.VS. -/
def Csrs.setVs (c : Csrs) (n : Nat) : Csrs := { c with sstatus := BitVec.ofNat 7 (c.sstatus.toNat % 32 + 32 * (n % 4)) }

/-- An instruction wrote vector state: Initial and Clean become Dirty (10_traps.md R276). -/
def Csrs.vsDirty (c : Csrs) : Csrs := if c.vs = 0 then c else c.setVs 3

/-- The level as a number (10_traps.md R264). -/
def Level.num : Level → Nat
  | .user => 0
  | .supervisor => 1
  | .monitor => 3

/-- The level of a number. -/
def Level.ofNum (n : Nat) : Level := if n = 0 then .user else if n = 1 then .supervisor else .monitor

/-- Whether a cause is taken at supervisor level: its MDELEG bit is set and the hart is not at monitor level (10_traps.md R270). -/
def State.delegated (s : State) (code : Byte) : Bool :=
  s.h.level != .monitor && (if code.toNat < 0x80 then s.c.mdeleg.getLsbD code.toNat else s.c.mdeleg.getLsbD (code.toNat - 0x80 + 32))

/-- EndHart: the hart retires on a trap without a handler, and its launch completes TRAPPED with this cause unless it
already ends otherwise (10_traps.md R271, 06_execution.md R171). -/
def State.endHart (s : State) (code : Byte) : State :=
  let s' := { s with h := { s.h with run := .retired, endCause := some code, deferred := none } }
  s'.mapLaunch s.h.launch fun l => match l.endStat with
    | none => { l with endStat := some (4, code) }
    | some _ => l

/-- Trap entry at supervisor level (10_traps.md R271). -/
def State.enterSupervisor (s : State) (t : Trap) (interrupt deferred : Bool) (epc : Word) : State :=
  let st := s.h.csr.sstatus
  if (!interrupt && st.getLsbD 3) || !s.h.csr.stvec.getLsbD 0 then s.endHart t.code
  else
    let st' : BitVec 7 := BitVec.ofNat 7
      ((if st.getLsbD 0 then 2 else 0) + (if s.h.level = .supervisor then 4 else 0) + 8 + (if deferred then 16 else 0) + 32 * fldN st 5 2)
    { s with h := { s.h with
        level := .supervisor
        pc := BitVec.ofNat 64 (fldN s.h.csr.stvec 2 46 * 4)
        csr := { s.h.csr with sepc := epc &&& 0x0000FFFFFFFFFFFC#64, scause := t.code.setWidth 64, stval := t.val, sstatus := st' } } }

/-- Trap entry at monitor level (10_traps.md R271). -/
def State.enterMonitor (s : State) (t : Trap) (interrupt : Bool) (epc : Word) : State :=
  let st := s.h.csr.mstatus
  if (!interrupt && st.getLsbD 4) || !s.h.csr.mtvec.getLsbD 0 then s.endHart t.code
  else
    let st' : BitVec 5 := BitVec.ofNat 5 ((if st.getLsbD 0 then 2 else 0) + 4 * s.h.level.num + 16)
    { s with h := { s.h with
        level := .monitor
        pc := BitVec.ofNat 64 (fldN s.h.csr.mtvec 2 46 * 4)
        csr := { s.h.csr with mepc := epc &&& 0x0000FFFFFFFFFFFC#64, mcause := t.code.setWidth 64, mtval := t.val, mstatus := st' } } }

/-- Take a trap: at the level that MDELEG chooses (10_traps.md R270, R271). FM is held over the trap and no longer armed (R279). -/
def State.takeTrap (s : State) (t : Trap) (interrupt deferred : Bool) (epc : Word) : State :=
  let s0 := { s with h := { s.h with vec := { s.h.vec with fmArmed := false } } }
  if s.delegated t.code then s0.enterSupervisor t interrupt deferred epc else s0.enterMonitor t interrupt epc

/-- Instructions of this hart wait in the vector queue, or the Pump replays, and no handler runs over a suspended Pump
(07_core.md R190, 10_traps.md R281). -/
def State.vecBusy (s : State) : Bool := s.h.vec.pump.state == 2 || (!s.h.vec.vq.isEmpty && s.h.vec.pump.state != 3)

/-- The turn after this one has the vector instruction of this visit wait in the vector queue. -/
def State.lags (s : State) : Bool :=
  match s.sched with
  | .queued :: _ => true
  | _ => false

/-- Element groups after which what runs now stops, where the schedule says so (10_traps.md R280). -/
def State.cutNow (s : State) : Option Nat :=
  match s.sched with
  | .cut n :: _ => some n
  | _ => none

/-- Cycles by which a reply comes later than the earliest it can (07_core.md R174). -/
def State.lateBy (s : State) : Nat :=
  match s.sched with
  | .late n :: _ => n
  | _ => 0

/-- A vector instruction issued now enters the vector queue: others of the hart wait, or the schedule has it wait (07_core.md R175). -/
def State.vecLater (s : State) : Bool := s.vecBusy || s.lags

/-- The point at which the hart in focus pushes a command now. -/
def State.pushPoint (s : State) : PushPoint := ⟨s.c.cycle, s.h.vec.vqNext⟩

/-- Instructions wait in the vector queue that a trap lets complete first (10_traps.md R274). -/
def State.undrained (s : State) : Bool := !s.h.vec.vq.isEmpty && s.h.vec.pump.state != 2 && s.h.vec.pump.state != 3

/-- Drain at trap entry: a replaying Pump stops at the boundary it stands at, and what is queued behind it stays (10_traps.md R274,
R281; 07_core.md R191). -/
def State.drain (s : State) : State :=
  if s.h.vec.pump.state = 2 then { s with h := { s.h with vec := { s.h.vec with pump := { s.h.vec.pump with state := 3 } } } } else s

/-- A synchronous trap at the instruction at `pc`. -/
def State.raise (s : State) (t : Trap) : State := s.drain.takeTrap t false false s.h.pc

/-- Retire the instruction at `pc`: the next one follows it. -/
def State.retireTo (s : State) (pc : Word) : State :=
  { s with h := { s.h with pc := pc, csr := { s.h.csr with instret := s.h.csr.instret + 1 } } }

/-- Retire an instruction that does not branch. -/
def State.retire (s : State) : State := s.retireTo (s.h.pc + 4)

/-- The outcome of an instruction that does not branch. -/
def finish (r : Res) : Host.Outcome State Fault Refusal :=
  match r with
  | .ok s => .next s.retire
  | .trap t s => .next (s.raise t)
  | .wait s => .next s

/-- The outcome of an instruction that sets the program counter itself. -/
def finishAt (pc : Word) (r : Res) : Host.Outcome State Fault Refusal :=
  match r with
  | .ok s => .next (s.retireTo pc)
  | .trap t s => .next (s.raise t)
  | .wait s => .next s

/-- Keep the hart out of the rotation until `n` cycles after issue (07_core.md R174). -/
def State.busyFor (s : State) (n : Nat) : State := { s with h := { s.h with nextIssue := s.c.cycle + BitVec.ofNat 64 n, onReply := false } }

/-- The hart waits for a reply that comes late: it leaves the rotation until the cycle after the result is written (07_core.md R174). -/
def State.lateReply (s : State) : State :=
  if s.lateBy = 0 then s
  else { s with h := { s.h with nextIssue := s.c.cycle + BitVec.ofNat 64 (8 + s.lateBy), onReply := true } }

/-- Write the result that a reply or the vector unit brings: at `t + 7`, or as late as it comes (07_core.md R174). -/
def State.setXReply (s : State) (r : Reg) (v : Word) : State := (s.setXLat r v (7 + s.lateBy)).lateReply

/-- ArmFM: FM applies to the next instruction issued, if FM is nonzero; otherwise nothing is armed (10_traps.md R279). -/
def State.armFm (s : State) : State := { s with h := { s.h with vec := { s.h.vec with fmArmed := s.h.vec.fm != 0 } } }

/-- A suspended Pump resumes its replay (10_traps.md R272). -/
def State.resumePump (s : State) : State :=
  if s.h.vec.pump.state = 3 then { s with h := { s.h with vec := { s.h.vec with pump := { s.h.vec.pump with state := 2 } } } } else s

/-- Return from a supervisor trap (10_traps.md R272). -/
def State.sret (s : State) : State :=
  let st := s.h.csr.sstatus
  let st' : BitVec 7 := BitVec.ofNat 7 ((if st.getLsbD 1 then 1 else 0) + 2 + (if st.getLsbD 2 then 4 else 0) + 32 * fldN st 5 2)
  let s' := { s with h := { s.h with
      level := if st.getLsbD 2 then .supervisor else .user
      pc := s.h.csr.sepc
      csr := { s.h.csr with sstatus := st', instret := s.h.csr.instret + 1 } } }
  s'.armFm.resumePump

/-- Return from a monitor trap (10_traps.md R272). -/
def State.mret (s : State) : State :=
  let st := s.h.csr.mstatus
  let st' : BitVec 5 := BitVec.ofNat 5 ((if st.getLsbD 1 then 1 else 0) + 2 + 4 * fldN st 2 2)
  let s' := { s with h := { s.h with
      level := Level.ofNum (fldN st 2 2)
      pc := s.h.csr.mepc
      csr := { s.h.csr with mstatus := st', instret := s.h.csr.instret + 1 } } }
  s'.armFm.resumePump

end Sys2Proof.Machine
end

