-- ==== Sys2Proof/Machine/Translate.lean ====
section
/-! DEFINITION. Address spaces, page tables, guards and the check of one element (08_memory.md R209 to R227). -/

set_option Elab.async false

namespace Sys2Proof.Machine

/-- The kinds of access that permissions name. -/
inductive AccKind
  | load
  | store
  | atomic
  | fetch
deriving DecidableEq, Repr

/-- Why an element is not performed: a trap, or an absent page with its entry's address, value and level. -/
inductive Cause
  | trap (t : Trap)
  | absent (entry : Nat) (leaf : Word) (level : Nat)
deriving DecidableEq, Repr

/-- A checked element: where it lands, its page and key id, and the translation to keep. -/
structure Hit where
  loc : Loc
  fill : Option TlbEntry
deriving DecidableEq, Repr

/-! ## The physical map -/

/-- One past the last physical address (08_memory.md R214). -/
def paLimit : Nat := 0x8000000000

/-- The stack and the stack offset SO of a physical address (08_memory.md R214). -/
def stackOf (pa : Nat) : Nat × Nat :=
  if pa < 0x4000000000 then (pa / 2 ^ 35 % 8, pa % 2 ^ 35)
  else (pa / 2 ^ 12 % 8, 0x800000000 + (pa / 2 ^ 15 % 2 ^ 23) * 2 ^ 12 + pa % 2 ^ 12)

/-- The firmware region: stack offsets 0x7_8000_0000 to 0x7_FFFF_FFFF (08_memory.md R215). -/
def inFirmware (pa : Nat) : Bool :=
  let so := (stackOf pa).2
  decide (pa < paLimit) && decide (0x780000000 ≤ so) && decide (so < 0x800000000)

/-- The bank-skew function of an interleave region: BSKMAP of the signed configuration; regions 30 and 31 are linear (08_memory.md R217). -/
def State.regionBsk (s : State) (pa : Nat) : Nat :=
  let j := (stackOf pa).2 / 2 ^ 30
  if j = 30 || j = 31 then 0
  else match s.pkg.image with
    | none => 0
    | some im => fldN im.bskmap (2 * j) 2

/-- Channel and channel slot of a unit under the linear function (08_memory.md R218). -/
def bskLinear (u : Nat) : Nat × Nat := (u % 32, u / 32)

/-- Channel and channel slot of a unit under the XOR-fold function (08_memory.md R218). -/
def bskXor (u : Nat) : Nat × Nat :=
  ((u % 32) ^^^ (u / 2 ^ 5 % 32) ^^^ (u / 2 ^ 10 % 32) ^^^ (u / 2 ^ 15 % 32) ^^^ (u / 2 ^ 20 % 4), u / 32)

/-- Channel and channel slot of a unit under the prime-31 function (08_memory.md R218). -/
def bskPrime (u : Nat) : Nat × Nat :=
  if u < 4194176 then
    let blk := u / 992
    let pos := u % 992
    if pos < 961 then (pos % 31, 31 * blk + pos / 31) else (31, 31 * blk + (pos - 961))
  else (u % 32, 131068 + (u - 4194176) / 32)

/-- Where a byte of HBM is stored: stack, channel and channel address (08_memory.md R218). -/
def State.channelOf (s : State) (pa : Nat) : Nat × Nat × Nat :=
  let (st, so) := stackOf pa
  let j := so / 2 ^ 30
  let u := so / 256 % 2 ^ 22
  let (c, n) := match s.regionBsk pa with
    | 1 => bskXor u
    | 2 => bskPrime u
    | _ => bskLinear u
  (st, c, (j * 2 ^ 17 + n) * 256 + so % 256)

/-! ## Guards -/

/-- Whether a guard entry is valid, of this space, and its region contains an address (08_memory.md R235). -/
def Guard.covers (g : Guard) (space : Nat) (a : Nat) : Bool :=
  let lg := fldN g 21 6
  g.getLsbD 0 && decide (fldN g 5 2 = space) && decide (12 ≤ lg) && decide (lg ≤ 47) &&
    decide (a / 2 ^ lg = fldN g 28 36 * 2 ^ 12 / 2 ^ lg)

/-- The number of a space in SPACE. -/
def Space.code : Space → Nat
  | .translated => 0
  | .cluster => 1
  | .own => 2

/-- The lowest-numbered entry that covers the first byte. -/
def Core.guardFor (c : Core) (space : Nat) (a : Nat) : Option Guard := c.guards.toList.find? (·.covers space a)

/-- The permission bit of an entry for an access. -/
def Guard.permits (g : Guard) : AccKind → Bool
  | .load => g.getLsbD 1
  | .store => g.getLsbD 2
  | .atomic => g.getLsbD 1 && g.getLsbD 2
  | .fetch => g.getLsbD 3

/-- The guard check of R236 for the bytes `a` to `a + n - 1` under a key id, at a level. Monitor-level accesses are not checked;
an address at or above 0x80_0000_0000 is refused to every level (R214). -/
def Core.guardOk (c : Core) (space : Space) (a n key : Nat) (k : AccKind) (lv : Level) : Bool :=
  if space = .translated && decide (paLimit ≤ a + n - 1) then false
  else if lv = .monitor then true
  else if space = .translated && (!c.mkeyid.getLsbD key || inFirmware a) then false
  else match c.guardFor space.code a with
    | none => false
    | some g =>
      let lg := fldN g 21 6
      decide ((a + n - 1) / 2 ^ lg = a / 2 ^ lg) && decide (fldN g 13 8 = c.mencl.toNat) &&
        (space != .translated || decide (fldN g 7 6 = key)) && g.permits k && (lv != .user || g.getLsbD 4)

/-! ## Reading HBM -/

/-- The line of a physical address. -/
def lineOf (pa : Nat) : Nat := pa / 64

/-- Whether a read of a line under a key id gives its plaintext: it was last sealed under that key and is not poisoned
(08_memory.md R216, R233). -/
def State.lineReads (s : State) (line key : Nat) : Bool :=
  let ks := s.hst.keySerial.toList
  let cur := ks.getD key 0
  !s.mem.hpoison.contains line && cur != 0 && cur == sealGet (ks.getD 0 0) s.mem.sealed line

/-- `n` bytes of a list of cells as a little-endian number. -/
def cellsNat (m : List Host.Cell) (a : Nat) : Nat → Nat
  | 0 => 0
  | n + 1 => (cellGet m a).toNat + 256 * cellsNat m (a + 1) n

/-- Write the `n` low bytes of a number, little-endian. -/
def cellsPut (m : List Host.Cell) (a : Nat) : Nat → Nat → List Host.Cell
  | 0, _ => m
  | n + 1, v => cellsPut (cellSet m a (BitVec.ofNat 8 v)) (a + 1) n (v / 256)

/-- Every line that `n` bytes touch reads under a key id. -/
def State.linesRead (s : State) (pa n key : Nat) : Bool :=
  (List.range (lineOf (pa + n - 1) - lineOf pa + 1)).all fun i => s.lineReads (lineOf pa + i) key

/-- Read `n` bytes of HBM under a key id; none is poison. -/
def State.readHbm (s : State) (pa n key : Nat) : Option Nat :=
  if s.linesRead pa n key then some (cellsNat s.mem.hbm pa n) else none

/-! ## The ASID table (08_memory.md R224) -/

/-- Bytes 0 to 7 of an ASID's entry. -/
def State.asidLo (s : State) (asid : Nat) : Word :=
  BitVec.ofNat 64 ((s.readHbm (fldN s.c.asidtab 20 28 * 2 ^ 20 + 16 * asid) 8 0).getD 0)

/-- ENCL of an ASID's entry. -/
def State.asidEncl (s : State) (asid : Nat) : Byte :=
  BitVec.ofNat 8 ((s.readHbm (fldN s.c.asidtab 20 28 * 2 ^ 20 + 16 * asid + 8) 8 0).getD 0)

/-- The entry is in use and belongs to an enclave; no entry is when the table is not in use. -/
def State.asidOwned (s : State) (asid : Nat) (encl : Byte) : Bool :=
  s.c.asidtab.getLsbD 0 && (s.asidLo asid).getLsbD 0 && s.asidEncl asid == encl

/-- TKEY, the key id of an ASID's tables. -/
def State.tkey (s : State) (asid : Nat) : Nat := fldN (s.asidLo asid) 48 6

/-- SATP with ROOT and RCNT loaded from the table. -/
def State.satpOf (s : State) (asid : Nat) : Word :=
  let e := s.asidLo asid
  BitVec.ofNat 64 (fldN e 56 8 + fldN e 12 36 * 2 ^ 12 + asid * 2 ^ 48)

/-! ## The walk -/

/-- Page size of a leaf, by level and SPAN; none for a reserved code (08_memory.md R222). -/
def pageSize (lvl span : Nat) : Option Nat :=
  match lvl, span with
  | 0, n => some (2 ^ (12 + 2 * n))
  | 1, 0 => some (2 ^ 21)
  | 1, 1 => some (2 ^ 25)
  | 1, 2 => some (2 ^ 29)
  | 2, 0 => some (2 ^ 30)
  | _, _ => none

/-- The checks of R223 on a leaf for an access at a level; `true` is PAGE_PERM. -/
def leafPermFails (e : Word) (lvl : Nat) (k : AccKind) (lv : Level) : Bool :=
  let r := e.getLsbD 1
  let w := e.getLsbD 2
  (w && !r) || decide (lvl = 3) || (pageSize lvl (fldN e 10 2)).isNone || decide (fldN e 8 2 = 3) || decide (fldN e 5 2 ≠ 0) ||
    decide (fldN e 54 10 ≠ 0) || (lv = .user && !e.getLsbD 4) ||
    (match k with
      | .load => !r
      | .store => !w
      | .atomic => !(r && w)
      | .fetch => !e.getLsbD 3)

/-- The page a leaf translates to: its leaf with FRAME cleared below the page size (08_memory.md R222). -/
def leafNorm (e : Word) (lvl : Nat) : Word :=
  let p := (pageSize lvl (fldN e 10 2)).getD 4096
  let fr := fldN e 12 36 * 4096
  BitVec.ofNat 64 (e.toNat - fr + fr / p * p)

/-- Walk from a table of level `lvl` down (08_memory.md R220, R221, R223, R236). -/
def State.walk (s : State) (va : Nat) (k : AccKind) (lv : Level) (tkey : Nat) : Nat → Nat → Except Cause (Word × Nat)
  | lvl, table =>
    let entry := table + 8 * (va / 2 ^ (12 + 9 * lvl) % 512)
    if !s.c.guardOk .translated entry 8 tkey .load .supervisor then .error (.trap ⟨causeGuard, BitVec.ofNat 64 va⟩)
    else match s.readHbm entry 8 tkey with
      | none => .error (.trap ⟨causePoison, BitVec.ofNat 64 va⟩)
      | some n =>
        let e : Word := BitVec.ofNat 64 n
        let perm : Except Cause (Word × Nat) := .error (.trap ⟨causePagePerm, BitVec.ofNat 64 va⟩)
        if !e.getLsbD 0 then
          if lvl = 0 && e.getLsbD 7 && leafPermFails e 0 k lv then perm else .error (.absent entry e lvl)
        else if fldN e 1 3 = 0 then
          if fldN e 4 8 ≠ 0 || fldN e 48 16 ≠ 0 then perm
          else match lvl with
            | 0 => perm
            | l + 1 => s.walk va k lv tkey l (fldN e 12 36 * 4096)
        else if leafPermFails e lvl k lv then perm else .ok (e, lvl)

/-- An entry of the walk cache: a pointer to the next table (08_memory.md R221). -/
def TlbEntry.isPointer (e : TlbEntry) : Bool := fldN e.leaf 1 3 == 0

/-- The entry was filled under this ASID and count, and covers an address (08_memory.md R225). -/
def TlbEntry.hits (e : TlbEntry) (asid rcnt va : Nat) : Bool :=
  e.asid.toNat == asid && e.rcnt.toNat == rcnt && decide (e.va ≤ va) && decide (va < e.va + e.size)

/-- The pointer entries that a walk passes, from a table of level `lvl` down. -/
def State.pointers (s : State) (va tkey : Nat) (asid : BitVec 16) (rcnt : Byte) : Nat → Nat → List TlbEntry
  | lvl, table => match s.readHbm (table + 8 * (va / 2 ^ (12 + 9 * lvl) % 512)) 8 tkey with
    | none => []
    | some n =>
      let e : Word := BitVec.ofNat 64 n
      let size := 2 ^ (12 + 9 * lvl)
      if !e.getLsbD 0 || fldN e 1 3 ≠ 0 then []
      else match lvl with
        | 0 => []
        | l + 1 => ⟨asid, rcnt, va / size * size, size, e, l + 1⟩ :: s.pointers va tkey asid rcnt l (fldN e 12 36 * 4096)

/-- Where a walk starts: at the root, or below a pointer entry that the walk cache holds, as the free value chooses (08_memory.md R226). -/
def State.walkStart (s : State) (va : Nat) : Nat × Nat :=
  let asid := fldN s.h.csr.satp 48 16
  let rcnt := fldN s.h.csr.satp 0 8
  match (s.c.tlb.filter fun e => e.isPointer && e.hits asid rcnt va)[Config.walkFrom s.c.id s.c.cycle.toNat va]? with
  | none => (3, fldN s.h.csr.satp 12 36 * 4096)
  | some e => (e.level - 1, fldN e.leaf 12 36 * 4096)

/-- The leaf that translates an address: a walk, or, where the translation buffer still holds a translation that differs,
one of the two as the free value chooses (08_memory.md R225, R226). -/
def State.leafFor (s : State) (va : Nat) (k : AccKind) (lv : Level) : Except Cause (Word × Nat) :=
  let asid := fldN s.h.csr.satp 48 16
  let rcnt := fldN s.h.csr.satp 0 8
  let fresh := s.walk va k lv (s.tkey asid) (s.walkStart va).1 (s.walkStart va).2
  match s.c.tlb.find? (fun e => !e.isPointer && e.hits asid rcnt va) with
  | none => fresh
  | some e =>
    let same := match fresh with
      | .ok (l, lvl) => lvl == e.level && leafNorm l lvl == e.leaf
      | .error _ => false
    if same || !Config.tlbKeeps s.c.id s.c.cycle.toNat va then fresh
    else if leafPermFails e.leaf e.level k lv then .error (.trap ⟨causePagePerm, BitVec.ofNat 64 va⟩)
    else .ok (e.leaf, e.level)

/-- Translate an address of the translated half (08_memory.md R227 steps 4 to 6): physical address, key id, and the entry to keep. -/
def State.translate (s : State) (va n : Nat) (k : AccKind) (lv : Level) : Except Cause Hit :=
  match s.leafFor va k lv with
  | .error c => .error c
  | .ok (e, lvl) =>
    let p := (pageSize lvl (fldN e 10 2)).getD 4096
    let pa := fldN e 12 36 * 4096 / p * p + va % p
    let key := fldN e 48 6
    if decide (pa < paLimit) && fldN e 8 2 ≠ s.regionBsk pa then .error (.trap ⟨causeBsk, BitVec.ofNat 64 va⟩)
    else if !s.c.guardOk .translated pa n key k lv then .error (.trap ⟨causeGuard, BitVec.ofNat 64 va⟩)
    else .ok ⟨.hbm pa key, some ⟨BitVec.ofNat 16 (fldN s.h.csr.satp 48 16), BitVec.ofNat 8 (fldN s.h.csr.satp 0 8), va / p * p, p,
      leafNorm e lvl, lvl⟩⟩

/-! ## Windows -/

/-- First address of the cluster window (08_memory.md R209). -/
def clusterBase : Nat := 0xF00000000000
/-- First address of the window of the hart's own area (08_memory.md R209). -/
def ownBase : Nat := 0xFF0000000000

/-- Every byte lies in a block of one launch of the enclave on the addressed core (08_memory.md R211). -/
def State.inBlock (s : State) (core off n : Nat) : Bool :=
  s.hst.launches.any fun l =>
    l.encl == s.c.mencl && l.cores.contains core && decide (l.rbase ≤ off) && decide (off + n ≤ l.rbase + shapeBlock l.words)

/-- Bytes of the hart's own area, and its offset in the core's scratchpad (08_memory.md R210, R212). -/
def State.ownArea (s : State) : Nat × Nat :=
  match s.launch? s.h.launch with
  | none => (0, 0)
  | some l =>
    let i := s.h.slot.toNat - l.firstSlot.toNat
    (shapeOwn l.words, l.rbase + shapeSpres l.words + i * shapeOwn l.words)

/-- The check of one element after its alignment (08_memory.md R227 steps 2 to 6). -/
def State.checkAt (s : State) (va : Word) (n : Nat) (k : AccKind) (lv : Level) : Except Cause Hit :=
  let a := va.toNat
  let window : Except Cause Hit := .error (.trap ⟨causeWindow, va⟩)
  let guard : Except Cause Hit := .error (.trap ⟨causeGuard, va⟩)
  if a < 0x800000000000 then s.translate a n k lv
  else if k = .fetch then window
  else if clusterBase ≤ a && a < clusterBase + 0xA000000 then
    let core := s.c.id / 128 * 128 + (a - clusterBase) / spadSize
    let off := (a - clusterBase) % spadSize
    if !s.c.guardOk .cluster a n 0 k lv then guard
    else if off + n ≤ spadSize && s.inBlock core off n then .ok ⟨.spad core off, none⟩ else guard
  else if ownBase ≤ a && a + n ≤ ownBase + s.ownArea.1 then
    if !s.c.guardOk .own a n 0 k lv then guard else .ok ⟨.spad s.c.id (s.ownArea.2 + (a - ownBase)), none⟩
  else window

/-- The check of one element, alignment first (08_memory.md R227). -/
def State.check (s : State) (va : Word) (n align : Nat) (k : AccKind) : Except Cause Hit :=
  if va.toNat % align ≠ 0 then .error (.trap ⟨causeMisalign, va⟩) else s.checkAt va n k s.h.level

/-- Put an entry into the translation buffer or the walk cache. -/
def tlbPut (t : TlbEntry) (l : List TlbEntry) : List TlbEntry := t :: l.filter fun u => !(u.asid == t.asid && u.va == t.va && u.size == t.size)

/-- Keep a translation in the translation buffer, and the pointer entries to it in the walk cache (08_memory.md R226); a fill counts a miss
(07_core.md R208). -/
def State.fill (s : State) (e : Option TlbEntry) : State :=
  match e with
  | none => s
  | some t => if s.c.tlb.contains t then s
      else { s with c := { (s.c.count 0x0A 1) with
        tlb := tlbPut t ((s.pointers t.va (s.tkey t.asid.toNat) t.asid t.rcnt 3 (fldN s.h.csr.satp 12 36 * 4096)).foldr tlbPut s.c.tlb) } }

/-- The tier of a location for the hart in focus (09_ordering.md R241). -/
def State.tierOf (s : State) (va : Word) : Loc → Tier
  | .spad core _ => if ownBase ≤ va.toNat then .hart else if core = s.c.id then .core else .clus
  | .hbm pa _ => if pa < 0x4000000000 && pa / 2 ^ 35 % 8 = s.c.id / 512 then .stack else .pkg

/-- Tiers in order (09_ordering.md R241). -/
def Tier.num : Tier → Nat
  | .hart => 0
  | .core => 1
  | .clus => 2
  | .stack => 3
  | .pkg => 4
  | .dom => 5

end Sys2Proof.Machine
end

