-- ==== Sys2Proof/Machine/Context.lean ====
section
/-! DEFINITION. Hart contexts: the frames and records of a swap-out in the context pools, and their restore (10_traps.md R283 to R287;
07_core.md R177). -/

set_option Elab.async false

namespace Sys2Proof.Machine

/-! ## What a frame shows of a hart -/

/-- Whose mailbox it is. -/
def Mailbox.is (m : Mailbox) (core : Nat) (slot : BitVec 3) (launch : BitVec 32) : Bool :=
  m.core == core && m.slot == slot && m.launch == launch

/-- The messages in a mailbox, oldest first. -/
def State.mail (s : State) (core : Nat) (slot : BitVec 3) (launch : BitVec 32) : List Msg :=
  match s.hst.mbox.find? (·.is core slot launch) with
  | none => []
  | some m => m.msgs

/-- The messages of the hart in focus. -/
def State.myMail (s : State) : List Msg := s.mail s.h.core s.h.slot s.h.launch

/-- KIND of a message (07_core.md R201). -/
def Msg.kind (m : Msg) : Nat := fldN m 0 8

/-- PUMPST (07_core.md R192). -/
def Pump.word (p : Pump) : Word :=
  BitVec.ofNat 64 (p.rem.toNat + p.len.toNat * 2 ^ 16 + p.idx.toNat * 2 ^ 20 + p.smask.toNat * 2 ^ 24 + p.step.toNat * 2 ^ 27 +
    p.wrap.toNat * 2 ^ 29 + p.state.toNat * 2 ^ 32 + p.off.toNat * 2 ^ 34)

/-- Whether the hart in focus is its enclave's pool hart (04_storage.md R108). -/
def State.isPoolHart (s : State) : Bool :=
  s.sip.pools.any fun p => p.encl == s.c.mencl && p.hcore == s.h.core && p.hslot == s.h.slot && p.hlaunch == s.h.launch

/-- SIP (10_traps.md R273). -/
def State.sipBits (s : State) : BitVec 5 :=
  let notice := s.isPoolHart && s.myMail.any fun m => decide (2 ≤ Msg.kind m) && decide (Msg.kind m ≤ 4)
  BitVec.ofNat 5 ((if s.h.csr.timecmp ≤ s.c.cycle then 2 else 0) + (if s.h.csr.sipPreempt then 4 else 0) + (if notice then 8 else 0) +
    (if s.myMail.isEmpty then 0 else 16))

/-! ## Records (10_traps.md R286) -/

/-- Bytes up to a multiple of 64. -/
def pad64 (n : Nat) : Nat := (n + 63) / 64 * 64

/-- Bytes of a vector register that its record saves (10_traps.md R286). -/
def savedLen (h : Hart) (tag : BitVec 5) : Nat :=
  let v := (h.vec.vq.map fun q => q.vl.toNat).foldl max h.csr.vl.toNat
  let w := if tag = 0 then 0 else tagWidth tag.toNat
  min h.csr.vlenb.toNat (64 * (((v * w + 7) / 8 + 63) / 64))

/-- Bytes one after the other, each part with its length, the first lowest. -/
def packParts : List (Nat × Nat) → Nat
  | [] => 0
  | (n, v) :: r => v % 2 ^ (8 * n) + 2 ^ (8 * n) * packParts r

/-- Bytes of a list of parts. -/
def partsLen (l : List (Nat × Nat)) : Nat := (l.map Prod.fst).sum

/-- A record of whole lines. -/
def lineRecord (l : List (Nat × Nat)) : Nat × Nat := (pad64 (partsLen l), packParts l)

/-- Put a page into a list in ascending virtual order. -/
def pinIns (p : PageMap) : List PageMap → List PageMap
  | [] => [p]
  | q :: r => if p.va < q.va then p :: q :: r else q :: pinIns p r

/-- Page size code: 0 to 7 for 4 KiB to 1 GiB. -/
def sizeCode (n : Nat) : Nat := ([4096, 16384, 65536, 262144, 2 ^ 21, 2 ^ 25, 2 ^ 29, 2 ^ 30].findIdx? (· == n)).getD 0

/-- One entry of a pin record. -/
def pinEntry (p : PageMap) : Nat := sizeCode p.size + p.pa / 4096 % 2 ^ 36 * 4096 + p.key % 64 * 2 ^ 48

/-- The pin record of a binding of register `r`. -/
def pinRecord (r : Nat) (l : List PageMap) : Nat × Nat :=
  lineRecord ([(4, l.length), (1, r), (59, 0)] ++ (l.foldr pinIns []).map fun p => (8, pinEntry p))

/-- A vector or tile record of `n` data bytes. -/
def dataRecord (h : Hart) (n tag idx bits : Nat) : Nat × Nat := lineRecord [(4, n), (1, tag), (1, idx), (2, 0), (8, h.csr.vlenb.toNat), (n, bits)]

/-- The pin records of a hart. -/
def Hart.pinRecords (h : Hart) : List (Nat × Nat) :=
  ((List.finRange 8).filter fun i => !(h.vec.binds.get i).pins.isEmpty).map fun i => pinRecord (24 + i.val) (h.vec.binds.get i).pins

/-- The vector records of a hart. -/
def Hart.vecRecords (h : Hart) : List (Nat × Nat) :=
  if h.csr.vs = 0 then []
  else ((List.finRange 32).filter fun i => h.csr.vdirty.getLsbD i.val).map fun i =>
    dataRecord h (savedLen h (h.vec.v.get i).tag) (h.vec.v.get i).tag.toNat i.val (h.vec.v.get i).bits

/-- The tile records of a hart under split `t`. -/
def Hart.tileRecords (h : Hart) (t : Nat) : List (Nat × Nat) :=
  if h.csr.vs = 0 then []
  else ((List.finRange 4).filter fun i => (h.vec.t.get i).dirty).map fun i => dataRecord h (65536 / t) (h.vec.t.get i).tag.toNat i.val (h.vec.t.get i).bits

/-- The variable records of a hart: lengths and bytes. -/
def Hart.records (h : Hart) (t : Nat) : List (Nat × Nat) :=
  (if h.vec.fm = 0 then [] else [lineRecord [(2 * h.csr.vlenb.toNat, h.vec.fm)]]) ++ h.pinRecords ++ h.vecRecords ++ h.tileRecords t

/-- Bytes of variable records of a swapped hart under split `t`. -/
def Hart.varBytes (h : Hart) (t : Nat) : Nat := partsLen (h.records t)

/-! ## The fixed part (10_traps.md R285) -/

/-- A held status in the layout of R96, with its tier. -/
def heldWord (o : Option HeldStatus) : Nat :=
  match o with
  | none => 0
  | some st => fldN st.trap.val 0 41 + st.tier.num * 2 ^ 41

/-- The binding record of a register (15_isa_vmem.md R391). -/
def Binding.record (b : Binding) : Nat :=
  packParts [(1, b.kind.toNat), (1, b.otag.toNat), (1, b.sfmt.toNat), (1, b.rtreg.toNat), (4, b.blen.toNat), (8, b.addr.toNat), (8, b.len.toNat),
    (8, b.stride.toNat), (8, b.bsp.toNat), (8, 0), (8, b.pos.toNat), (4, b.nsseq.toNat), (4, 0)]

/-- A queue entry: word, VTYPE, VL and the operands at issue. -/
def VqEntry.record (e : VqEntry) : Nat := packParts [(4, e.word.toNat), (1, e.vtype.toNat), (3, 0), (8, e.vl.toNat), (8, e.ra.toNat), (8, e.rb.toNat)]

/-- `n` parts of `w` bytes from a list, zero beyond it. -/
def slots (n w : Nat) (l : List Nat) : List (Nat × Nat) := (List.range n).map fun i => (w, l.getD i 0)

/-- The control registers of the frame, in its order. -/
def State.frameCsrs (s : State) (h : Hart) : List Nat :=
  let c := h.csr
  [c.instret.toNat, c.vl.toNat, c.vtype.toNat, c.vstart.toNat, c.vdirty.toNat, c.nreg.toNat + 4 * c.declared.toNat, c.modq.toNat, c.frm.toNat,
    c.fflags.toNat, c.srseed.toNat, c.splitst.toNat, h.vec.pump.word.toNat, c.sstatus.toNat, c.stvec.toNat, c.sepc.toNat, c.scause.toNat,
    c.stval.toNat, c.sscratch.toNat, c.satp.toNat, c.vlcap.toNat, c.sie.toNat, ({ s with h := h, c := s.core h.core } : State).sipBits.toNat,
    c.sflist.toNat, c.timecmp.toNat]

/-- The 2,048 bytes of the fixed part, for variable records at an address. -/
def State.frameParts (s : State) (h : Hart) (t varaddr : Nat) : List (Nat × Nat) :=
  let v := h.vec
  let ms := s.mail h.core h.slot h.launch
  let now := (s.core h.core).cycle
  let aborted := h.coll.filter fun k => k.aborted
  [(2, 1), (2, (if v.fm = 0 then 0 else 1) + (if v.pump.state = 0 then 0 else 2) + (if h.pstat.isSome then 4 else 0) +
      (if h.mstat.isSome then 8 else 0) + (if aborted.isSome then 16 else 0)),
    (1, h.hstate), (1, h.reason), (1, v.vq.length), (1, 0), (8, h.csr.vlenb.toNat), (8, varaddr), (4, h.varBytes t), (1, h.pinRecords.length),
    (1, h.vecRecords.length), (1, (h.tileRecords t).length), (33, 0)] ++
  slots 16 8 (h.p.toList.map BitVec.toNat) ++ [(8, h.pc.toNat)] ++ (s.frameCsrs h).map (8, ·) ++
  [(1, h.aseq.toNat), (1, h.rlx), (6, 0), (8, heldWord h.pstat), (8, heldWord h.mstat), (8, (aborted.map fun k => k.seq.toNat).getD 0)] ++
  slots 6 4 h.post.toList ++ slots 32 1 (v.v.toList.map fun r => r.tag.toNat) ++
  [(1, ((List.finRange 4).map fun i => if (v.t.get i).dirty then 2 ^ i.val else 0).sum), (31, 0)] ++
  (h.rt.toList.flatMap fun r => [r.w0, r.w1, r.w2, r.w3]).map (fun w => (8, w.toNat)) ++
  h.gap.toList.map (fun g => (8, g.g.toNat + (now - g.quietFrom).toNat % 4096 * 2 ^ 32)) ++
  slots 16 4 (v.pump.words.map fun e => e.word.toNat) ++ [(8, ms.length), (8, 0)] ++ slots 16 16 (ms.map BitVec.toNat) ++ [(112, 0)] ++
  v.binds.toList.map (fun b => (64, if b.kind = 0 then 0 else b.record)) ++ slots 8 32 (v.vq.map VqEntry.record)

/-! ## The pools (10_traps.md R283, 08_memory.md R215) -/

/-- First byte of a core's context pool: the pools stand one after the other from the start of the firmware region of the die's stack
(DESIGN CHOICE, log entry 101). -/
def poolBase (core : Nat) : Nat := core / 512 % 8 * 2 ^ 35 + 0x780000000 + core % 512 * (3 * 2 ^ 20)

/-- The lowest place among candidates from `lo` on that `n` bytes can take beside what is in use. -/
def freePlace (lo n : Nat) (used : List (Nat × Nat)) : Nat :=
  (((lo :: used.map fun u => u.1 + u.2).filter fun a =>
    decide (lo ≤ a) && used.all fun u => decide (a + n ≤ u.1) || decide (u.1 + u.2 ≤ a)).min?).getD lo

/-- Address of the fixed part of a hart's context: those of a launch in slot order. -/
def State.frameAt (s : State) (h : Hart) : Nat :=
  match s.launch? h.launch with
  | none => poolBase h.core
  | some l => poolBase h.core + ((l.frames.find? (·.1 == h.core)).map Prod.snd).getD 0 + 2048 * (h.slot.toNat - l.firstSlot.toNat)

/-- Where the pool of a core takes the contexts and the record of a new launch of `n` bytes. -/
def State.newFrames (s : State) (core n : Nat) : Nat :=
  freePlace 0 n (s.hst.launches.flatMap fun l => (l.frames.filter (·.1 == core)).map fun f => (f.2, 2048 * l.allot + 256))

/-- Where the pool of a core takes the variable records of a hart: behind the first 128 KiB, which hold the fixed parts (DESIGN CHOICE, log entry
101). -/
def State.newRecords (s : State) (core n : Nat) : Nat :=
  freePlace (poolBase core + 0x20000) n (s.allHarts.filterMap fun h => if h.core == core then h.saved else none)

/-- Write bytes of a pool: whole lines, which are then sound. -/
def State.poolPut (s : State) (a n v : Nat) : State :=
  { s with mem := { s.mem with
      pool := cellsPut s.mem.pool a n v
      hpoison := s.mem.hpoison.filter fun l => !(decide (a / 64 ≤ l) && decide (l < (a + n) / 64)) } }

/-- Write the context of a hart that is swapped out (06_execution.md R163 step 3): its variable records and its fixed part. -/
def State.saveContext (s : State) (h : Hart) : State :=
  let t := (s.core h.core).split
  let a := s.newRecords h.core (h.varBytes t)
  let s1 := (s.poolPut a (h.varBytes t) (packParts (h.records t))).poolPut (s.frameAt h) 2048 (packParts (s.frameParts h t a))
  s1.putHart { h with saved := some (a, h.varBytes t) }

/-- Reserved bytes of a fixed part. -/
def frameReserved : List (Nat × Nat) := [(0x007, 1), (0x01F, 33), (0x18A, 6), (0x1E1, 31), (0x388, 8), (0x490, 112)]

/-- A context cannot be restored: a reserved field is not zero, or a line of it is poisoned (10_traps.md R285; log entry 101). -/
def State.contextBad (s : State) (h : Hart) : Bool :=
  match h.saved with
  | none => false
  | some (a, n) =>
    let f := s.frameAt h
    (frameReserved.any fun x => cellsNat s.mem.pool (f + x.1) x.2 != 0) ||
      s.mem.hpoison.any fun l => (decide (f / 64 ≤ l) && decide (l < f / 64 + 32)) || (decide (a / 64 ≤ l) && decide (l < (a + n) / 64))

/-- The launch ends with machine-check status, which prevails (06_execution.md R171). -/
def Launch.checked (l : Launch) : Launch := { l with endStat := some (3, 0) }

/-- A vector register after its save and restore: the saved bytes, zero beyond; without a record it is NONE. -/
def Hart.restoreReg (h : Hart) (i : Nat) (r : VReg) : VReg :=
  if h.csr.vdirty.getLsbD i then ⟨r.tag, r.bits % 2 ^ (8 * savedLen h r.tag)⟩ else VReg.none

/-- A tile after its save and restore: a clean one is zero. -/
def restoreTile (t : Tile) : Tile := if t.dirty then t else Tile.none

/-- The context of a hart after its save and restore; a mask that is held is armed (10_traps.md R279, R287). -/
def Hart.restored (h : Hart) : Hart :=
  { h with
    vec := { h.vec with
      v := Vector.ofFn fun i : Fin 32 => h.restoreReg i.val (h.vec.v.get i)
      t := h.vec.t.map restoreTile
      fmArmed := h.vec.fm != 0 }
    run := .ready }

/-- Restore the context of a hart that is to be ready: a context that is not sound halts its launch with machine-check status. -/
def State.restoreHart (s : State) (h : Hart) : State :=
  if s.contextBad h then (s.putHart h).mapLaunch h.launch Launch.checked else s.putHart { h.restored with saved := none }

/-! ## Shares (07_core.md R177) -/

/-- The number of a vector thread's share: those of launch slot 0 first, in ascending hart slot. -/
def State.shareOf (s : State) (h : Hart) : Nat :=
  (s.allHarts.filter fun g => g.core == h.core && g.seated && g.vthread && g.run != .retired &&
    (if g.lslot == h.lslot then decide (g.slot < h.slot) else !g.lslot)).length

/-- Number the shares of a core at a seating. -/
def State.numberShares (s : State) (core : Nat) : State :=
  s.mapHarts (fun g => g.core == core && g.seated && g.vthread) fun g => { g with share := BitVec.ofNat 2 (s.shareOf g) }

end Sys2Proof.Machine
end

