-- ==== Sys2Proof/Machine/Storage.lean ====
section
/-! DEFINITION. Reading and writing storage at its coherence point, full/empty words, scalar memory operations, the RLX window,
and page faults (06_execution.md R156, 08_memory.md R228 to R233, 09_ordering.md R245 to R248). -/

set_option Elab.async false

namespace Sys2Proof.Machine

/-! ## Bytes at a location -/

/-- Key of a scratchpad byte. -/
def spadKey (core off : Nat) : Nat := core * spadSize + off

/-- No scratchpad word that `n` bytes touch is poisoned. -/
def Mem.wordsClean (m : Mem) (key n : Nat) : Bool :=
  (List.range ((key + n - 1) / 8 - key / 8 + 1)).all fun i => !m.spoison.contains (key / 8 + i)

/-- Read `n` bytes, little-endian; none when what is read is poison (01_package.md R27). -/
def State.readLoc (s : State) (l : Loc) (n : Nat) : Option Nat :=
  match l with
  | .spad core off => if s.mem.wordsClean (spadKey core off) n then some (cellsNat s.mem.spad (spadKey core off) n) else none
  | .hbm pa key => s.readHbm pa n key

/-- Every poisoned scratchpad word that `n` bytes touch is covered whole (01_package.md R27, 13_isa_scalar.md R335). -/
def Mem.partialClean (m : Mem) (key n : Nat) : Bool :=
  (List.range ((key + n - 1) / 8 - key / 8 + 1)).all fun i =>
    let w := key / 8 + i
    !m.spoison.contains w || (decide (key ≤ 8 * w) && decide (8 * w + 8 ≤ key + n))

/-- The words or lines that `n` bytes from `a` cover whole, in units of `u` bytes. -/
def coveredUnits (u a n : Nat) : List Nat :=
  ((List.range ((a + n - 1) / u - a / u + 1)).map (a / u + ·)).filter fun w => decide (a ≤ u * w) && decide (u * w + u ≤ a + n)

/-- Every line that a store covers only in part reads under its key id (08_memory.md R233). -/
def State.partialLinesRead (s : State) (pa n key : Nat) : Bool :=
  (List.range ((pa + n - 1) / 64 - pa / 64 + 1)).all fun i =>
    let w := pa / 64 + i
    (decide (pa ≤ 64 * w) && decide (64 * w + 64 ≤ pa + n)) || s.lineReads w key

/-- Scratchpad after writing `n` bytes. -/
def Mem.putSpad (m : Mem) (key n v : Nat) : Mem :=
  { m with spad := cellsPut m.spad key n v
           spoison := (coveredUnits 8 key n).foldl setDel m.spoison }

/-- HBM after writing `n` bytes: lines covered whole are sealed under the key with serial number `serial`. -/
def Mem.putHbm (m : Mem) (dflt serial pa n v : Nat) : Mem :=
  { m with hbm := cellsPut m.hbm pa n v
           hpoison := (coveredUnits 64 pa n).foldl setDel m.hpoison
           sealed := (coveredUnits 64 pa n).foldl (fun q w => sealSet dflt q w serial) m.sealed }

/-- The serial number of a key id's memory key; 0 is no key. -/
def State.serialOf (s : State) (key : Nat) : Nat := s.hst.keySerial.toList.getD key 0

/-- Write `n` bytes, little-endian; none when a poisoned word or line would be written only in part (01_package.md R27). -/
def State.writeLoc (s : State) (l : Loc) (n v : Nat) : Option State :=
  match l with
  | .spad core off =>
    let key := spadKey core off
    if s.mem.partialClean key n then some { s with mem := s.mem.putSpad key n v } else none
  | .hbm pa key =>
    if s.serialOf key ≠ 0 && s.partialLinesRead pa n key then
      some { s with mem := s.mem.putHbm (s.serialOf 0) (s.serialOf key) pa n v }
    else none

/-- A location `i` bytes further on. -/
def Loc.plus (l : Loc) (i : Nat) : Loc :=
  match l with
  | .spad core off => .spad core (off + i)
  | .hbm pa key => .hbm (pa + i) key

/-- Whether a location is scratchpad. -/
def Loc.isSpad : Loc → Bool
  | .spad _ _ => true
  | .hbm _ _ => false

/-- Mark what `n` bytes touch as poisoned. -/
def State.poisonLoc (s : State) (l : Loc) (n : Nat) : State :=
  match l with
  | .spad core off =>
    let key := spadKey core off
    { s with mem := { s.mem with
        spoison := ((List.range ((key + n - 1) / 8 - key / 8 + 1)).map (key / 8 + ·)).foldl setIns s.mem.spoison } }
  | .hbm pa _ =>
    { s with mem := { s.mem with
        hpoison := ((List.range ((pa + n - 1) / 64 - pa / 64 + 1)).map (pa / 64 + ·)).foldl setIns s.mem.hpoison } }

/-! ## Completing a waiting instruction of any hart -/

/-- Write a register of a hart when its reply arrives: the write of a core-shared register falls in the current cycle of its core. -/
def State.deliver (s : State) (h : Hart) (rd : Reg) (v : Word) : State :=
  let i : Fin 16 := ⟨rd.toNat % 16, Nat.mod_lt _ (by decide)⟩
  if rd.toNat = 0 then s
  else if rd.toNat < 16 then s.putHart { h with p := h.p.set i v }
  else
    let c := s.core h.core
    s.putCore { c with cpend := c.cpend ++ [⟨h.lslot, BitVec.ofNat 4 i, v, c.cycle, h.slot⟩] }

/-- The waiting instruction of a hart completes: the hart is ready at the next instruction, which counts as issued (07_core.md R208). -/
def State.wake (s : State) (core : Nat) (slot : BitVec 3) (launch : BitVec 32) : State :=
  match s.findHart core slot launch with
  | none => s
  | some h =>
    let s1 := s.putHart { h with run := .ready, pc := h.pc + 4, csr := { h.csr with instret := h.csr.instret + 1 } }
    s1.putCore ((s1.core core).count 0x02 1)

/-- The waiting instruction of a hart completes with a result. -/
def State.wakeWith (s : State) (core : Nat) (slot : BitVec 3) (launch : BitVec 32) (rd : Reg) (v : Word) : State :=
  match s.findHart core slot launch with
  | none => s
  | some h => (s.deliver h rd v).wake core slot launch

/-! ## Full/empty words (06_execution.md R156) -/

/-- Word address of a scratchpad byte. -/
def feWord (core off : Nat) : Nat := spadKey core off / 8

/-- The word is full. -/
def Mem.isFull (m : Mem) (w : Nat) : Bool := m.full.contains w

/-- Serve the harts parked on a word, in the order they parked, while it is full. -/
def State.serveFe (s : State) (w : Nat) : List FeWaiter → State
  | [] => s
  | f :: r =>
    if feWord f.core f.off = w && s.mem.isFull w then
      let v : Word := BitVec.ofNat 64 (cellsNat s.mem.spad (8 * w) 8)
      let m := { s.mem with feWait := s.mem.feWait.filter (· != f), full := if f.empties then setDel s.mem.full w else s.mem.full }
      (({ s with mem := m } : State).wakeWith f.hcore f.slot f.launch f.rd v).serveFe w r
    else s.serveFe w r

/-- Harts parked on the state word of a ring execute their instruction again (07_core.md R199). -/
def State.wakeRings (s : State) : State :=
  s.mapHarts (fun h => h.run == .parkedFE && !(s.mem.feWait.any fun f => f.hcore == h.core && f.slot == h.slot && f.launch == h.launch))
    fun h => { h with run := .ready }

/-- The word becomes full, and its waiters are served. -/
def State.setFull (s : State) (w : Nat) : State :=
  ((({ s with mem := { s.mem with full := setIns s.mem.full w } } : State).serveFe w s.mem.feWait)).wakeRings

/-- A fill: the word takes a value and is full, and its waiters are served. -/
def State.fillWord (s : State) (core off v : Nat) : State :=
  ({ s with mem := s.mem.putSpad (spadKey core off) 8 v } : State).setFull (feWord core off)

/-- A hart leaves every wait list (06_execution.md R147). -/
def State.leaveWaits (s : State) (core : Nat) (slot : BitVec 3) (launch : BitVec 32) : State :=
  { s with mem := { s.mem with
      feWait := s.mem.feWait.filter fun f => !(f.hcore == core && f.slot == slot && f.launch == launch)
      syncWait := s.mem.syncWait.filter fun f => !(f.hcore == core && f.slot == slot && f.launch == launch) } }

/-! ## Scalar memory operations -/

/-- Sign- or zero-extend the low `size` bytes. -/
def extend (signed : Bool) (size v : Nat) : Word :=
  BitVec.ofInt 64 (if signed then sextNat (8 * size) v else ((v % 2 ^ (8 * size) : Nat) : Int))

/-- The new value and flags of an atomic (13_isa_scalar.md R344, 18_isa_fabric.md R438): 0 add, 1 and, 2 or, 3 xor, 4 min, 5 max, 6 minu,
7 maxu, 8 swap, 9 floating add. -/
def amoNew (op size old x : Nat) (r : Rnd) : Nat × Flg :=
  let w := 8 * size
  let s := x % 2 ^ w
  match op with
  | 0 => ((old + s) % 2 ^ w, 0)
  | 1 => (old &&& s, 0)
  | 2 => (old ||| s, 0)
  | 3 => (old ^^^ s, 0)
  | 4 => (if sextNat w s < sextNat w old then s else old, 0)
  | 5 => (if sextNat w old < sextNat w s then s else old, 0)
  | 6 => (min old s, 0)
  | 7 => (max old s, 0)
  | 8 => (s, 0)
  | _ => fAdd (if size = 4 then tF32 else tF64) r 0 old s

/-- The hart's rounding. -/
def State.rnd (s : State) : Rnd := ⟨s.h.csr.frm.toNat, s.h.csr.srseed⟩

/-- Accrue flags (11_arithmetic.md R305). -/
def State.accrue (s : State) (f : Flg) : State := { s with h := { s.h with csr := { s.h.csr with fflags := s.h.csr.fflags ||| f } } }

/-- CNT counts an instruction that executed under SR (11_arithmetic.md R303). -/
def State.countSr (s : State) : State :=
  if s.h.csr.frm.toNat = 5 then { s with h := { s.h with csr := { s.h.csr with srseed := s.h.csr.srseed + BitVec.ofNat 64 (2 ^ 48) } } } else s

/-- Perform a scalar operation at its coherence point: the value for the destination and the state, or none on poison. -/
def State.performOp (s : State) (op : MemOp) (l : Loc) (data : Word) : Option (Word × State) :=
  match op with
  | .load size signed => (s.readLoc l size).map fun v => (extend signed size v, s)
  | .store size => (s.writeLoc l size data.toNat).map fun s' => (0, s')
  | .amo o size =>
    match s.readLoc l size with
    | none => none
    | some old =>
      let (new, fl) := amoNew o size old data.toNat s.rnd
      (s.writeLoc l size new).map fun s' =>
        (extend (o != 9) size old, if o = 9 then (s'.accrue fl).countSr else s')
  | .cas size cmp =>
    match s.readLoc l size with
    | none => none
    | some old =>
      (s.writeLoc l size (if old = cmp.toNat % 2 ^ (8 * size) then data.toNat else old)).map fun s' => (extend true size old, s')
  | .ldfe => (s.readLoc l 8).map fun v => (BitVec.ofNat 64 v, s)
  | .ldff => (s.readLoc l 8).map fun v => (BitVec.ofNat 64 v, s)

/-- Bytes an operation touches. -/
def MemOp.size : MemOp → Nat
  | .load n _ => n
  | .store n => n
  | .amo _ n => n
  | .cas n _ => n
  | .ldfe => 8
  | .ldff => 8

/-- The access kind of an operation (08_memory.md R223). -/
def MemOp.kind : MemOp → AccKind
  | .load _ _ => .load
  | .store _ => .store
  | .amo _ _ => .atomic
  | .cas _ _ => .atomic
  | .ldfe => .load
  | .ldff => .load

/-- Whether an operation writes a destination register. -/
def MemOp.writesRd : MemOp → Bool
  | .store _ => false
  | _ => true

/-! ## The RLX window (09_ordering.md R245 to R248) -/

/-- Close the window. -/
def State.closeWindow (s : State) : State := { s with h := { s.h with rlx := 0 } }

/-- Two locations share a byte. -/
def Loc.overlaps (a : Loc) (n : Nat) (b : Loc) (m : Nat) : Bool :=
  match a, b with
  | .spad c o, .spad c' o' => c == c' && decide (o < o' + m) && decide (o' < o + n)
  | .hbm p _, .hbm p' _ => decide (p < p' + m) && decide (p' < p + n)
  | _, _ => false

/-- The bytes of a location are ones that a vector memory instruction in the hart's queue accesses, and one of the two stores: a scalar access waits for it
(09_ordering.md R249). -/
def State.queueBars (s : State) (l : Loc) (n : Nat) (wr : Bool) : Bool :=
  s.h.vec.vq.any fun e => (wr || e.wr) && (e.spots.getD []).any fun x => x.2.any fun p => p.loc.overlaps p.n l n

/-- The lines of a range that do not read under a key id are poisoned from then on: the check of a line's MAC has failed (08_memory.md R233,
01_package.md R27). Scratchpad words have no MAC. -/
def State.spoil (s : State) (l : Loc) (n : Nat) : State :=
  match l with
  | .spad _ _ => s
  | .hbm pa key =>
    let bad := ((List.range ((pa + n - 1) / 64 - pa / 64 + 1)).map (pa / 64 + ·)).filter fun w => !s.lineReads w key
    { s with mem := { s.mem with hpoison := bad.foldl setIns s.mem.hpoison } }

/-- Perform one marked access. Poison is held as the hart's marked-access status. -/
def State.performOne (s : State) (m : Marked) : State :=
  match s.performOp m.op m.loc m.data with
  | some (v, s') => if m.op.writesRd then s'.setXLat m.rd v 0 else s'
  | none =>
    let s := s.spoil m.loc m.op.size
    { s with h := { s.h with mstat := match s.h.mstat with
        | some st => some st
        | none => some ⟨.hart, causePoison, m.va⟩ } }

/-- Perform every marked local access, in program order. -/
def State.performMarked (s : State) : State :=
  s.h.marked.foldl State.performOne { s with h := { s.h with marked := [] } }

/-- Perform the k-th marked local access when no earlier one shares a byte with it (09_ordering.md R247). -/
def State.performNth (s : State) (k : Nat) : State :=
  match s.h.marked[k]? with
  | none => s
  | some m =>
    if (s.h.marked.take k).any (fun e => e.loc.overlaps e.op.size m.loc m.op.size) then s
    else ({ s with h := { s.h with marked := s.h.marked.eraseIdx k } } : State).performOne m

/-- Outstanding marked requests of the hart through routes. -/
def State.remoteMarked (s : State) : Nat :=
  (s.c.reqs.filter fun r => r.marked && r.slot == s.h.slot && r.launch == s.h.launch).length

/-- An instruction that waits for the outstanding marked accesses (09_ordering.md R247, R248). -/
def State.unmarked (s : State) (k : State → Res) : Res :=
  let s1 := s.performMarked
  if s1.remoteMarked ≠ 0 then .wait s1
  else match s1.h.mstat with
    | some st => .trap st.trap { s1 with h := { s1.h with mstat := none } }
    | none => k s1

/-! ## Page faults (08_memory.md R228 to R230, 04_storage.md R103) -/

/-- An absent element: table entry, its value and level, the address, and whether it stores. -/
structure AbsentElem where
  entry : Nat
  leaf : Word
  level : Nat
  va : Nat
  wr : Bool
deriving DecidableEq, Repr

/-- Page address of an absent storage-backed leaf. -/
def AbsentElem.page (e : AbsentElem) : Nat :=
  let p := (pageSize 0 (fldN e.leaf 10 2)).getD 4096
  e.va / p * p

/-- A leaf that the Siphon services (04_storage.md R102). -/
def AbsentElem.backed (e : AbsentElem) : Bool := e.level == 0 && e.leaf.getLsbD 7

/-- The open collective of a hart is aborted when it is swapped out, unless it has committed or is aborted already. -/
def Hart.abortable (h : Hart) : Option OpenColl := h.coll.filter fun c => !c.committed && !c.aborted

/-- A collective of a swapped hart is aborted unless it has committed (18_isa_fabric.md R449, R450). -/
def Hart.abortColl (h : Hart) : Hart := if h.abortable.isSome then { h with coll := h.coll.map fun c => { c with aborted := true } } else h

/-- The core of a hart owes an abort to every member of a collective. -/
def Core.owe (c : Core) (h : Hart) (k : OpenColl) : Core := { c with aborts := c.aborts ++ [⟨h.slot, h.launch, k.core, k.off, k.seq, 0⟩] }

/-- What the core of a hart owes when the hart is swapped out. -/
def Core.oweSwap (c : Core) (h : Hart) : Core := match h.abortable with
  | none => c
  | some k => c.owe h k

/-- One fault record, joined to a service of the same page that is already known (04_storage.md R103, R104). -/
def Siphon.addFault (p : Siphon) (f : FaultRec) : Siphon :=
  let same (g : FaultRec) : Bool := g.asid == f.asid && g.va == f.va
  let join (g : FaultRec) : FaultRec := { g with waiters := g.waiters ++ f.waiters, cmds := g.cmds ++ f.cmds }
  if p.faults.any same then { p with faults := p.faults.map fun g => if same g then join g else g }
  else if p.cmds.any (fun c => match c.use with
      | .fault g _ _ => same g
      | _ => false) then
    { p with cmds := p.cmds.map fun c => match c.use with
        | .fault g a b => if same g then { c with use := .fault (join g) a b } else c
        | _ => c }
  else { p with faults := p.faults ++ [{ f with seq := p.nextSq }], nextSq := p.nextSq + 1 }

/-- Send fault records for storage-backed pages and swap the hart out, its context into the context pool (04_storage.md R103 steps 1 and 2). -/
def State.storageFault (s : State) (pages : List AbsentElem) : State :=
  let asid := fldN s.h.csr.satp 48 16
  let me := (s.h.core, s.h.slot, s.h.launch)
  let recs := pages.map fun e : AbsentElem =>
    (⟨BitVec.ofNat 16 asid, e.page, e.entry, e.leaf, s.tkey asid, s.c.mencl, [me], [], 0, false⟩ : FaultRec)
  let s1 := (s.count 0x0E recs.length)
  let h := { s1.h.abortColl with run := .swapped, reason := 3, svcWait := pages.map AbsentElem.page }
  ({ s1 with sip := recs.foldl Siphon.addFault s1.sip, c := s1.c.oweSwap s1.h, h := h } : State).saveContext h

/-- Keep the first element of each distinct key. -/
def distinctBy (key : AbsentElem → Nat) : List AbsentElem → List Nat → List AbsentElem
  | [], _ => []
  | e :: r, seen => if seen.contains (key e) then distinctBy key r seen else e :: distinctBy key r (key e :: seen)

/-- The page list of a PAGE_ABSENT trap (08_memory.md R230): one entry for each distinct absent table entry. -/
def pageList (es : List AbsentElem) : List Word :=
  (distinctBy AbsentElem.entry es []).map fun e =>
    let mine := es.filter (·.entry == e.entry)
    let lowest := mine.foldl (fun m x => min m x.va) e.va
    BitVec.ofNat 64 ((if mine.any (·.wr) then 1 else 0) + (if e.backed then 2 else 0) + 4 * (e.level % 4) + lowest / 4096 % 2 ^ 36 * 4096)

/-- Write the page list into the buffer that SFLIST names; none when EN is 0 or the guard check fails (08_memory.md R230, R236). -/
def State.writeList (s : State) (l : List Word) : Option State :=
  let f := s.h.csr.sflist
  let pa := fldN f 12 36 * 4096
  let key := fldN f 6 6
  if f.getLsbD 0 && s.c.guardOk .translated pa (8 * l.length) key .store .supervisor then
    s.writeLoc (.hbm pa key) (8 * l.length) (l.foldr (fun w acc => w.toNat + 2 ^ 64 * acc) 0)
  else none

/-- What absent elements lead to: first the Siphon's service, once the replies of the outstanding marked accesses are in (09_ordering.md R248), then
PAGE_ABSENT (08_memory.md R228, R230). -/
def State.absentFault (s : State) (es : List AbsentElem) : Res :=
  let served := distinctBy AbsentElem.page (es.filter fun e => e.backed && !s.h.svcFailed.contains e.page) []
  if !served.isEmpty then
    let s1 := s.performMarked
    .wait (if s1.remoteMarked ≠ 0 then s1 else s1.storageFault served)
  else
    let l := (pageList es).take 512
    let s0 := { s with h := { s.h with svcFailed := [] } }
    match s0.writeList l with
    | some s1 => .trap ⟨causePageAbsent, BitVec.ofNat 64 l.length⟩ s1
    | none => .trap ⟨causePageAbsent, BitVec.ofNat 64 (l.length + 2 ^ 63)⟩ s0

/-- What a failed check of a single access leads to. -/
def State.oneFault (s : State) (va : Word) (wr : Bool) (c : Cause) : Res :=
  match c with
  | .trap t => .trap t s
  | .absent entry leaf lvl => s.absentFault [⟨entry, leaf, lvl, va.toNat, wr⟩]

/-- The counters of a memory access whose values the spec leaves to the caches and the banks (07_core.md R208). -/
def State.countAccess (s : State) (code : Nat) : State :=
  { (s.count code (Config.cacheMisses s.draws)).count 0x0B (Config.bankWaits s.draws) with draws := s.draws + 1 }

/-- A plain access at a checked location: it is performed before the hart issues again, which it does not while the reply is out
(09_ordering.md R243, 07_core.md R174). -/
def State.plainAt (s : State) (op : MemOp) (l : Loc) (va data : Word) (rd : Reg) : Res :=
  match s.performOp op l data with
  | none => .trap ⟨causePoison, va⟩ (s.spoil l op.size)
  | some (v, s') => .ok (if op.writesRd then s'.setXReply rd v else s'.lateReply)

/-- The oldest outstanding marked access of the hart is one through a route, not this local one (09_ordering.md R246). -/
def State.remoteOldest (s : State) (m : Marked) : Bool :=
  s.c.reqs.any fun r => r.marked && r.slot == s.h.slot && r.launch == s.h.launch && decide (r.injected < m.since)

/-- A marked access: it is issued and the hart goes on (09_ordering.md R246). With 16 outstanding it waits until the oldest is performed: a local one is
performed now, for one through a route the hart waits. -/
def State.markAt (s : State) (op : MemOp) (l : Loc) (va data : Word) (rd : Reg) : Res :=
  let s1 := { s with h := { s.h with rlx := s.h.rlx - 1 } }
  let new : Marked := ⟨op, l, va, data, rd, s.c.cycle⟩
  if s1.h.marked.length + s1.remoteMarked < 16 then .ok { s1 with h := { s1.h with marked := s1.h.marked ++ [new] } }
  else match s1.h.marked with
    | [] => .wait s
    | m :: r =>
      if s.remoteOldest m then .wait s
      else .ok (let s2 := ({ s1 with h := { s1.h with marked := r } } : State).performOne m
        { s2 with h := { s2.h with marked := s2.h.marked ++ [new] } })

/-- A scalar memory instruction: checks, then a plain or a marked access (13_isa_scalar.md R329, R330). -/
def State.scalarAccess (s : State) (op : MemOp) (va data : Word) (rd : Reg) : Res :=
  let go (s : State) (k : State → Loc → Res) : Res :=
    match s.check va op.size op.size op.kind with
    | .error c => s.oneFault va (op.kind != .load) c
    | .ok hit => if s.queueBars hit.loc op.size (op.kind != .load) then .wait s else k ((s.fill hit.fill).countAccess 0x08) hit.loc
  if s.h.rlx = 0 then s.unmarked fun s => go s fun s l => s.plainAt op l va data rd
  else go s fun s l => s.markAt op l va data rd

/-- A read of one record of `n` bytes by an instruction, as one plain load (09_ordering.md R249). -/
def State.readRecord (s : State) (va : Word) (n align : Nat) (k : State → Nat → Res) : Res :=
  match s.check va n align .load with
  | .error c => s.oneFault va false c
  | .ok hit =>
    if s.queueBars hit.loc n false then .wait s
    else match s.readLoc hit.loc n with
    | none => .trap ⟨causePoison, va⟩ (s.spoil hit.loc n)
    | some v => k (s.fill hit.fill) v

end Sys2Proof.Machine
end

