-- ==== Sys2Proof/Machine/Mail.lean ====
section
/-! DEFINITION. Mailboxes: delivery, held messages and what waits on them (07_core.md R200, R201; 06_execution.md R158). -/

set_option Elab.async false

namespace Sys2Proof.Machine

/-- Replace the messages of a mailbox; an empty mailbox is not listed. -/
def State.setMail (s : State) (core : Nat) (slot : BitVec 3) (launch : BitVec 32) (ms : List Msg) : State :=
  let rest := s.hst.mbox.filter fun m => !m.is core slot launch
  { s with hst := { s.hst with mbox := if ms.isEmpty then rest else rest ++ [⟨core, slot, launch, ms⟩] } }

/-- A message arrives: it enters the mailbox, and a hart parked on the mailbox completes its WAITMSG (06_execution.md R158). -/
def State.mailArrive (s : State) (core : Nat) (slot : BitVec 3) (launch : BitVec 32) (m : Msg) : State :=
  let s1 := s.setMail core slot launch (s.mail core slot launch ++ [m])
  match s1.findHart core slot launch with
  | none => s1
  | some h => if h.run = .parkedMbox then s1.wake core slot launch else s1

/-- Messages are held for this mailbox. -/
def State.mailHeld (s : State) (core : Nat) (slot : BitVec 3) (launch : BitVec 32) : Bool :=
  s.hst.heldMsgs.any fun m => m.core == core && m.slot == slot && m.launch == launch

/-- A local message: it enters a mailbox with room, else its engine holds it (07_core.md R200); it does not overtake one that is held. A
message to a launch that has ended is discarded (06_execution.md R172). -/
def State.mailLocal (s : State) (core : Nat) (slot : BitVec 3) (launch : BitVec 32) (m : Msg) : State :=
  if (s.launch? launch).isNone then s
  else if (s.mail core slot launch).length < 16 && !s.mailHeld core slot launch then s.mailArrive core slot launch m
  else { s with hst := { s.hst with heldMsgs := s.hst.heldMsgs ++ [⟨core, slot, launch, m⟩] } }

/-- The first held message for a mailbox enters it (04_storage.md R110, 13_isa_scalar.md R353). -/
def State.mailRoom (s : State) (core : Nat) (slot : BitVec 3) (launch : BitVec 32) : State :=
  match s.hst.heldMsgs.find? (fun m => m.core == core && m.slot == slot && m.launch == launch) with
  | none => s
  | some m =>
    if (s.mail core slot launch).length < 16 then
      ({ s with hst := { s.hst with heldMsgs := s.hst.heldMsgs.erase m } } : State).mailArrive core slot launch m.msg
    else s

end Sys2Proof.Machine
end

