-- ==== Sys2Proof/Machine/Flags.lean ====
section
/-! DEFINITION. Flag computations: how a scalar floating-point result, its flags and the stochastic count reach the state
(11_arithmetic.md R303, R305; 13_isa_scalar.md R338, R341). -/

set_option Elab.async false

namespace Sys2Proof.Machine

/-- The tag of an FPS format code: 0 F32, 1 F64, 2 F16, 3 BF16 (13_isa_scalar.md R338). -/
def fpsTag (f : BitVec 2) : Nat :=
  match f.toNat with
  | 0 => tF32
  | 1 => tF64
  | 2 => tF16
  | _ => tBF16

/-- A floating operand: the low bits of its register. -/
def fpsOperand (f : BitVec 2) (v : Word) : Nat := v.toNat % 2 ^ tagWidth (fpsTag f)

/-- Write a floating result that rounded under FRM: the higher bits are zero, the flags accrue, CNT counts (R303, R305). -/
def State.fpsRounded (s : State) (d : Reg) (lat : Nat) (z : Nat × Flg) : State :=
  ((s.setXLat d (BitVec.ofNat 64 z.1) lat).accrue z.2).countSr

/-- Write a result that does not round. -/
def State.fpsExact (s : State) (d : Reg) (z : Nat × Flg) : State := (s.setX d (BitVec.ofNat 64 z.1)).accrue z.2

/-- Class bit of a code (13_isa_scalar.md R341). -/
def fpsClass (t b : Nat) : Nat :=
  match fDecode t b with
  | .nan => if fSignalling t b then 8 else 9
  | .inf neg => if neg then 0 else 7
  | .num neg m _ _ =>
    let sub := decide (m < 2 ^ (fmtOf t).fb)
    if m = 0 then (if neg then 3 else 4) else if neg then (if sub then 2 else 1) else (if sub then 5 else 6)

/-- Ordered comparison of two codes: the relation's truth and its flags. `quiet` is FEQ's rule (R339, R294). -/
def fpsCompare (t : Nat) (quiet : Bool) (rel : Int → Bool) (a b : Nat) : Nat × Flg :=
  let x := fDecode t a
  let y := fDecode t b
  if x.isNan || y.isNan then (0, if quiet then 0 else flNV)
  else (if rel (x.cmp y) then 1 else 0, 0)

end Sys2Proof.Machine
end

