-- ==== Sys2Proof/Machine/ScalarInt.lean ====
section
/-! DEFINITION. Integer computation (13_isa_scalar.md R331 to R333, R346). -/

set_option Elab.async false

namespace Sys2Proof.Machine

/-- An immediate of the I and S forms (12_encoding.md R315). -/
def imm12 (i : BitVec 12) : Word := i.signExtend 64

/-- An immediate of the U form (12_encoding.md R315). -/
def imm20 (i : BitVec 20) : Word := i.signExtend 64 * 4096

/-- An instruction whose only effect is a scalar result written at `t + 7` (07_core.md R174). -/
def aluResult (d : Reg) (v : Word) (s : State) : Host.Outcome State Fault Refusal := finish (.ok (s.setX d v))

/-- An instruction whose scalar result is written `lat` cycles after issue; its hart rejoins at the next visit (07_core.md R174). -/
def slowResult (d : Reg) (v : Word) (lat : Nat) (s : State) : Host.Outcome State Fault Refusal :=
  finish (.ok ((s.setXLat d v lat).busyFor (lat + 1)))

/-- Signed quotient (11_arithmetic.md R292). -/
def divS (a b : Word) : Word :=
  if b = 0 then BitVec.allOnes 64 else BitVec.ofInt 64 (a.toInt.tdiv b.toInt)

/-- Unsigned quotient (11_arithmetic.md R292). -/
def divU (a b : Word) : Word := if b = 0 then BitVec.allOnes 64 else BitVec.ofNat 64 (a.toNat / b.toNat)

/-- Signed remainder (11_arithmetic.md R292). -/
def remS (a b : Word) : Word := if b = 0 then a else BitVec.ofInt 64 (a.toInt.tmod b.toInt)

/-- Unsigned remainder (11_arithmetic.md R292). -/
def remU (a b : Word) : Word := if b = 0 then a else BitVec.ofNat 64 (a.toNat % b.toNat)

/-- Leading zero bits (13_isa_scalar.md R332). -/
def clz64 (a : Word) : Nat := 64 - bitLen a.toNat

/-- Trailing zero bits of the low `n` bits, 64 when all are zero. -/
def ctzFrom (a : Word) : Nat → Nat → Nat
  | 0, i => i
  | n + 1, i => if a.getLsbD i then i else ctzFrom a n (i + 1)

/-- Bits set (13_isa_scalar.md R332). -/
def popc64 (a : Word) : Nat := ((List.range 64).filter fun i => a.getLsbD i).length

/-- One if a condition holds. -/
def boolWord (b : Bool) : Word := if b then 1 else 0

/-- ADDI (13_isa_scalar.md R331). -/
def execAddi (d a : Reg) (i : BitVec 12) (s : State) : Host.Outcome State Fault Refusal :=
  aluResult d (s.x a + imm12 i) s

/-- ANDI (13_isa_scalar.md R331). -/
def execAndi (d a : Reg) (i : BitVec 12) (s : State) : Host.Outcome State Fault Refusal :=
  aluResult d (s.x a &&& imm12 i) s

/-- ORI (13_isa_scalar.md R331). -/
def execOri (d a : Reg) (i : BitVec 12) (s : State) : Host.Outcome State Fault Refusal :=
  aluResult d (s.x a ||| imm12 i) s

/-- XORI (13_isa_scalar.md R331). -/
def execXori (d a : Reg) (i : BitVec 12) (s : State) : Host.Outcome State Fault Refusal :=
  aluResult d (s.x a ^^^ imm12 i) s

/-- SLTI (13_isa_scalar.md R331). -/
def execSlti (d a : Reg) (i : BitVec 12) (s : State) : Host.Outcome State Fault Refusal :=
  aluResult d (boolWord ((s.x a).slt (imm12 i))) s

/-- SLTIU (13_isa_scalar.md R331). -/
def execSltiu (d a : Reg) (i : BitVec 12) (s : State) : Host.Outcome State Fault Refusal :=
  aluResult d (boolWord ((s.x a).ult (imm12 i))) s

/-- SLLI (13_isa_scalar.md R331). -/
def execSlli (d a : Reg) (sh : BitVec 6) (s : State) : Host.Outcome State Fault Refusal :=
  aluResult d (s.x a <<< sh.toNat) s

/-- SRLI (13_isa_scalar.md R331). -/
def execSrli (d a : Reg) (sh : BitVec 6) (s : State) : Host.Outcome State Fault Refusal :=
  aluResult d (s.x a >>> sh.toNat) s

/-- SRAI (13_isa_scalar.md R331). -/
def execSrai (d a : Reg) (sh : BitVec 6) (s : State) : Host.Outcome State Fault Refusal :=
  aluResult d ((s.x a).sshiftRight sh.toNat) s

/-- ADD (13_isa_scalar.md R332). -/
def execAdd (d a b : Reg) (s : State) : Host.Outcome State Fault Refusal :=
  aluResult d (s.x a + s.x b) s

/-- SUB (13_isa_scalar.md R332). -/
def execSub (d a b : Reg) (s : State) : Host.Outcome State Fault Refusal :=
  aluResult d (s.x a - s.x b) s

/-- AND (13_isa_scalar.md R332). -/
def execAnd (d a b : Reg) (s : State) : Host.Outcome State Fault Refusal :=
  aluResult d (s.x a &&& s.x b) s

/-- OR (13_isa_scalar.md R332). -/
def execOr (d a b : Reg) (s : State) : Host.Outcome State Fault Refusal :=
  aluResult d (s.x a ||| s.x b) s

/-- XOR (13_isa_scalar.md R332). -/
def execXor (d a b : Reg) (s : State) : Host.Outcome State Fault Refusal :=
  aluResult d (s.x a ^^^ s.x b) s

/-- SLL (13_isa_scalar.md R332). -/
def execSll (d a b : Reg) (s : State) : Host.Outcome State Fault Refusal :=
  aluResult d (s.x a <<< ((s.x b).toNat % 64)) s

/-- SRL (13_isa_scalar.md R332). -/
def execSrl (d a b : Reg) (s : State) : Host.Outcome State Fault Refusal :=
  aluResult d (s.x a >>> ((s.x b).toNat % 64)) s

/-- SRA (13_isa_scalar.md R332). -/
def execSra (d a b : Reg) (s : State) : Host.Outcome State Fault Refusal :=
  aluResult d ((s.x a).sshiftRight ((s.x b).toNat % 64)) s

/-- SLT (13_isa_scalar.md R332). -/
def execSlt (d a b : Reg) (s : State) : Host.Outcome State Fault Refusal :=
  aluResult d (boolWord ((s.x a).slt (s.x b))) s

/-- SLTU (13_isa_scalar.md R332). -/
def execSltu (d a b : Reg) (s : State) : Host.Outcome State Fault Refusal :=
  aluResult d (boolWord ((s.x a).ult (s.x b))) s

/-- MUL (13_isa_scalar.md R332). -/
def execMul (d a b : Reg) (s : State) : Host.Outcome State Fault Refusal :=
  aluResult d (s.x a * s.x b) s

/-- MULH (13_isa_scalar.md R332). -/
def execMulh (d a b : Reg) (s : State) : Host.Outcome State Fault Refusal :=
  aluResult d (BitVec.ofInt 64 ((s.x a).toInt * (s.x b).toInt / 2 ^ 64)) s

/-- MULHU (13_isa_scalar.md R332). -/
def execMulhu (d a b : Reg) (s : State) : Host.Outcome State Fault Refusal :=
  aluResult d (BitVec.ofNat 64 ((s.x a).toNat * (s.x b).toNat / 2 ^ 64)) s

/-- MIN (13_isa_scalar.md R332). -/
def execMin (d a b : Reg) (s : State) : Host.Outcome State Fault Refusal :=
  aluResult d (if (s.x b).slt (s.x a) then s.x b else s.x a) s

/-- MAX (13_isa_scalar.md R332). -/
def execMax (d a b : Reg) (s : State) : Host.Outcome State Fault Refusal :=
  aluResult d (if (s.x a).slt (s.x b) then s.x b else s.x a) s

/-- MINU (13_isa_scalar.md R332). -/
def execMinu (d a b : Reg) (s : State) : Host.Outcome State Fault Refusal :=
  aluResult d (if (s.x b).ult (s.x a) then s.x b else s.x a) s

/-- MAXU (13_isa_scalar.md R332). -/
def execMaxu (d a b : Reg) (s : State) : Host.Outcome State Fault Refusal :=
  aluResult d (if (s.x a).ult (s.x b) then s.x b else s.x a) s

/-- DIV, written at t + 31 (13_isa_scalar.md R332, 07_core.md R174). -/
def execDiv (d a b : Reg) (s : State) : Host.Outcome State Fault Refusal :=
  slowResult d (divS (s.x a) (s.x b)) 31 s

/-- DIVU, written at t + 31 (13_isa_scalar.md R332, 07_core.md R174). -/
def execDivu (d a b : Reg) (s : State) : Host.Outcome State Fault Refusal :=
  slowResult d (divU (s.x a) (s.x b)) 31 s

/-- REM, written at t + 31 (13_isa_scalar.md R332, 07_core.md R174). -/
def execRem (d a b : Reg) (s : State) : Host.Outcome State Fault Refusal :=
  slowResult d (remS (s.x a) (s.x b)) 31 s

/-- REMU, written at t + 31 (13_isa_scalar.md R332, 07_core.md R174). -/
def execRemu (d a b : Reg) (s : State) : Host.Outcome State Fault Refusal :=
  slowResult d (remU (s.x a) (s.x b)) 31 s

/-- CLZ (13_isa_scalar.md R332). -/
def execClz (d a : Reg) (s : State) : Host.Outcome State Fault Refusal :=
  aluResult d (BitVec.ofNat 64 (clz64 (s.x a))) s

/-- CTZ (13_isa_scalar.md R332). -/
def execCtz (d a : Reg) (s : State) : Host.Outcome State Fault Refusal :=
  aluResult d (BitVec.ofNat 64 (ctzFrom (s.x a) 64 0)) s

/-- POPC (13_isa_scalar.md R332). -/
def execPopc (d a : Reg) (s : State) : Host.Outcome State Fault Refusal :=
  aluResult d (BitVec.ofNat 64 (popc64 (s.x a))) s

/-- MODQ.Q (11_arithmetic.md R299). -/
def State.modQ (s : State) : Nat := fldN s.h.csr.modq 0 62

/-- The modulus is odd and at least 3 (11_arithmetic.md R299). -/
def State.modOk (s : State) : Bool := decide (s.modQ % 2 = 1) && decide (3 ≤ s.modQ)

/-- MULMOD, written at t + 23; ILLEGAL when the modulus is even or below 3 (13_isa_scalar.md R332). -/
def execMulmod (d a b : Reg) (s : State) : Host.Outcome State Fault Refusal :=
  if s.modOk then slowResult d (BitVec.ofNat 64 ((s.x a).toNat * (s.x b).toNat % s.modQ)) 23 s else finish s.illegal

/-- LUI (13_isa_scalar.md R333). -/
def execLui (d : Reg) (i : BitVec 20) (s : State) : Host.Outcome State Fault Refusal := aluResult d (imm20 i) s

/-- AUIPC (13_isa_scalar.md R333). -/
def execAuipc (d : Reg) (i : BitVec 20) (s : State) : Host.Outcome State Fault Refusal := aluResult d (s.h.pc + imm20 i) s

/-- The result of PGLOBAL, or WINDOW (08_memory.md R213). -/
def State.pglobal (s : State) (a : Word) : Option Word :=
  let n := a.toNat
  if ownBase ≤ n && n ≤ ownBase + s.ownArea.1 then
    some (BitVec.ofNat 64 (clusterBase + s.c.id % 128 * spadSize + s.ownArea.2 + (n - ownBase)))
  else if ownBase ≤ n && n ≤ ownBase + 0x3FFFF then none
  else some a

/-- PGLOBAL (13_isa_scalar.md R346, 08_memory.md R213). -/
def execPglobal (d a : Reg) (s : State) : Host.Outcome State Fault Refusal :=
  match s.pglobal (s.x a) with
  | some v => aluResult d v s
  | none => finish (.trap ⟨causeWindow, s.x a⟩ s)

end Sys2Proof.Machine
end

