-- ==== Sys2Proof/Machine/Sync.lean ====
section
/-! DEFINITION. Full/empty words, atomics, FENCE and RLX (13_isa_scalar.md R342 to R346, 09_ordering.md R245, R259). -/

set_option Elab.async false

namespace Sys2Proof.Machine

/-- The common part of a full/empty instruction: it closes the window, waits for marked accesses, checks its address, and reaches a
scratchpad word (13_isa_scalar.md R342, R343). -/
def State.feAccess (s : State) (va : Word) (k : AccKind) (f : State → Nat → Nat → Res) : Res :=
  s.closeWindow.unmarked fun s =>
    match s.check va 8 8 k with
    | .error c => s.oneFault va (k != .load) c
    | .ok hit =>
      match hit.loc with
      | .hbm _ _ => .trap ⟨causeFeAddr, va⟩ s
      | .spad core off => if s.queueBars hit.loc 8 true then .wait s else f (s.fill hit.fill) core off

/-- LDFE and LDFF: park while the word is empty; when it is full the value is read, and LDFE empties the word. -/
def State.feLoad (s : State) (d a : Reg) (empties : Bool) : Res :=
  s.feAccess (s.x a) .load fun s core off =>
    let w := feWord core off
    match s.readLoc (.spad core off) 8 with
    | none => .trap ⟨causePoison, s.x a⟩ s
    | some v =>
      if s.mem.isFull w then
        .ok (({ s with mem := { s.mem with full := if empties then setDel s.mem.full w else s.mem.full } } : State).setXReply d (BitVec.ofNat 64 v))
      else
        .wait { s with
          mem := { s.mem with feWait := s.mem.feWait ++ [⟨core, off, s.h.core, s.h.slot, s.h.launch, d, empties⟩] }
          h := { s.h with run := .parkedFE } }

/-- LDFE (13_isa_scalar.md R342). -/
def execLdfe (d a : Reg) (s : State) : Host.Outcome State Fault Refusal := finish (s.feLoad d a true)

/-- LDFF (13_isa_scalar.md R342). -/
def execLdff (d a : Reg) (s : State) : Host.Outcome State Fault Refusal := finish (s.feLoad d a false)

/-- The permissions of STEF and STF: as a load, and write permission too (13_isa_scalar.md R343). -/
def feStoreKind : AccKind := .atomic

/-- STEF (13_isa_scalar.md R342). -/
def execStef (d a b : Reg) (s : State) : Host.Outcome State Fault Refusal :=
  finish (s.feAccess (s.x a) feStoreKind fun s core off =>
    if s.mem.isFull (feWord core off) then .ok (s.setXReply d 0) else .ok ((s.fillWord core off (s.x b).toNat).setXReply d 1))

/-- STF (13_isa_scalar.md R342). -/
def execStf (a b : Reg) (s : State) : Host.Outcome State Fault Refusal :=
  finish (s.feAccess (s.x a) feStoreKind fun s core off => .ok (s.fillWord core off (s.x b).toNat).lateReply)

/-- FECLR (13_isa_scalar.md R342). -/
def execFeclr (a : Reg) (s : State) : Host.Outcome State Fault Refusal :=
  finish (s.feAccess (s.x a) .load fun s core off =>
    .ok ({ s with mem := { s.mem with full := setDel s.mem.full (feWord core off) } } : State).lateReply)

/-- FEPEEK (13_isa_scalar.md R342). -/
def execFepeek (d a : Reg) (s : State) : Host.Outcome State Fault Refusal :=
  finish (s.feAccess (s.x a) .load fun s core off => .ok (s.setXReply d (boolWord (s.mem.isFull (feWord core off)))))

/-- Width of an atomic's `.w` or `.d` suffix (13_isa_scalar.md R344). -/
def amoSize (w : BitVec 1) : Nat := if w = 1 then 8 else 4

/-- An atomic of one of the operations of `amoNew`. -/
def amoExec (op : Nat) (d : Reg) (w : BitVec 1) (a b : Reg) (s : State) : Host.Outcome State Fault Refusal :=
  finish (s.scalarAccess (.amo op (amoSize w)) (s.x a) (s.x b) d)

/-- AMOADD (13_isa_scalar.md R344). -/
def execAmoadd (d : Reg) (w : BitVec 1) (a b : Reg) (s : State) : Host.Outcome State Fault Refusal := amoExec 0 d w a b s
/-- AMOAND (13_isa_scalar.md R344). -/
def execAmoand (d : Reg) (w : BitVec 1) (a b : Reg) (s : State) : Host.Outcome State Fault Refusal := amoExec 1 d w a b s
/-- AMOOR (13_isa_scalar.md R344). -/
def execAmoor (d : Reg) (w : BitVec 1) (a b : Reg) (s : State) : Host.Outcome State Fault Refusal := amoExec 2 d w a b s
/-- AMOXOR (13_isa_scalar.md R344). -/
def execAmoxor (d : Reg) (w : BitVec 1) (a b : Reg) (s : State) : Host.Outcome State Fault Refusal := amoExec 3 d w a b s
/-- AMOMIN (13_isa_scalar.md R344). -/
def execAmomin (d : Reg) (w : BitVec 1) (a b : Reg) (s : State) : Host.Outcome State Fault Refusal := amoExec 4 d w a b s
/-- AMOMAX (13_isa_scalar.md R344). -/
def execAmomax (d : Reg) (w : BitVec 1) (a b : Reg) (s : State) : Host.Outcome State Fault Refusal := amoExec 5 d w a b s
/-- AMOMINU (13_isa_scalar.md R344). -/
def execAmominu (d : Reg) (w : BitVec 1) (a b : Reg) (s : State) : Host.Outcome State Fault Refusal := amoExec 6 d w a b s
/-- AMOMAXU (13_isa_scalar.md R344). -/
def execAmomaxu (d : Reg) (w : BitVec 1) (a b : Reg) (s : State) : Host.Outcome State Fault Refusal := amoExec 7 d w a b s
/-- AMOSWAP (13_isa_scalar.md R344). -/
def execAmoswap (d : Reg) (w : BitVec 1) (a b : Reg) (s : State) : Host.Outcome State Fault Refusal := amoExec 8 d w a b s
/-- CAS (13_isa_scalar.md R344). -/
def execCas (d : Reg) (w : BitVec 1) (a b : Reg) (s : State) : Host.Outcome State Fault Refusal :=
  finish (s.scalarAccess (.cas (amoSize w) (s.x d)) (s.x a) (s.x b) d)
/-- AMOFADD: the format bit is 0 for F32 and 1 for F64 (13_isa_scalar.md R344). -/
def execAmofadd (d : Reg) (w : BitVec 1) (a b : Reg) (s : State) : Host.Outcome State Fault Refusal := amoExec 9 d w a b s

/-! ## Engine commands of a hart -/

/-- Every core that is listed or in focus. -/
def State.allCores (s : State) : List Core := s.c :: s.cores

/-- The hart's copy commands whose tier is at most a scope and that have not drained (09_ordering.md R257). -/
def State.copiesOpen (s : State) (scope : Nat) : Bool :=
  s.c.copies.any fun k => k.slot == s.h.slot && k.launch == s.h.launch && decide (k.tier.num ≤ scope)

/-- The hart's LAUNCH pushes that have not drained. -/
def State.launchesOpen (s : State) : Nat :=
  (s.hst.inbox.filter fun q => q.origin == .mailbox s.h.core s.h.slot s.h.launch).length

/-- The hart's Siphon commands that have not completed. -/
def State.sqOpen (s : State) : Nat :=
  (s.sip.sq.filter fun q => q.core == s.h.core && q.slot == s.h.slot && q.launch == s.h.launch).length

/-- The hart's sketch operations that have not been applied. -/
def State.weirOpen (s : State) (scope : Nat) : Bool :=
  s.allCores.any fun c => c.weir.any fun w =>
    w.hcore == s.h.core && w.slot == s.h.slot && w.launch == s.h.launch && decide (w.tier.num ≤ scope)

/-- The Pump of the hart replays, and the hart has a binding of one of these kinds: repetitions to come may use it. -/
def Hart.replayUses (h : Hart) (kinds : List Byte) : Bool := h.vec.pump.state = 2 && h.vec.binds.toList.any fun b => kinds.contains b.kind

/-- The hart's strips and collective packets of tier at most a scope that have not been acknowledged, or that queued vector instructions have yet to
send. -/
def State.stripsOpen (s : State) (scope : Nat) : Bool :=
  (s.c.reqs.any fun r => r.slot == s.h.slot && r.launch == s.h.launch && decide (r.tier.num ≤ scope) &&
    (r.kind == .strip || r.kind == .collPut || r.kind == .collSync)) ||
  s.h.vec.vq.any (fun e => e.sends.any fun t => decide (t ≤ scope)) || (decide (4 ≤ scope) && s.h.replayUses [3])

/-- Some vector memory access of tier at most a scope waits in the hart's vector queue, or behind its Pump. -/
def State.vectorOpen (s : State) (scope : Nat) : Bool :=
  s.h.vec.vq.any (fun e => e.streams || e.tiers.any fun t => decide (t ≤ scope)) || s.h.replayUses [1, 2, 3]

/-- Some engine command of tier at most a scope has not drained (09_ordering.md R257, R259). -/
def State.enginesOpen (s : State) (scope : Nat) : Bool :=
  s.copiesOpen scope || s.weirOpen scope || (decide (4 ≤ scope) && (s.launchesOpen != 0 || s.sqOpen != 0)) ||
    s.stripsOpen scope

/-- Some posted access of tier at most a scope has not been acknowledged. -/
def State.postedOpen (s : State) (scope : Nat) : Bool := (s.h.post.toList.take (scope + 1)).any (· != 0)

/-- FENCE over the chosen kinds at a scope (09_ordering.md R259). -/
def State.fence (s : State) (scope : Nat) (v e p : Bool) : Res :=
  s.unmarked fun s =>
    if v && s.vectorOpen scope then .wait s
    else if e && s.enginesOpen scope then .wait s
    else if p && s.postedOpen scope then .wait s
    else if p then
      match s.h.pstat with
      | some st => if st.tier.num ≤ scope then .trap st.trap { s with h := { s.h with pstat := none } } else .ok s
      | none => .ok s
    else .ok s

/-- FENCE; a scope code of 6 or 7 raises ILLEGAL (09_ordering.md R259). -/
def execFence (sc : BitVec 3) (v e p : BitVec 1) (s : State) : Host.Outcome State Fault Refusal :=
  if 6 ≤ sc.toNat then finish s.illegal else finish (s.fence sc.toNat (v = 1) (e = 1) (p = 1))

/-- RLX opens a window of `n + 1` accesses (09_ordering.md R245). -/
def execRlx (n : BitVec 4) (s : State) : Host.Outcome State Fault Refusal :=
  finish (.ok { s with h := { s.h with rlx := n.toNat + 1 } })

end Sys2Proof.Machine
end

