-- ==== Sys2Proof/Machine/Group.lean ====
section
/-! DEFINITION. Barriers, retirement of a hart, and what waits for either (06_execution.md R147, R160, R167). -/

set_option Elab.async false

namespace Sys2Proof.Machine

/-- The hart takes part in barriers: an entry hart that has not retired (06_execution.md R160). -/
def Hart.inBarriers (h : Hart) : Bool := h.run != .retired && fldN h.csr.splitst 0 2 == 0

/-- Two harts of one launch belong to one group at a barrier scope. -/
def sameGroup (scope : Tier) (a b : Hart) : Bool :=
  a.launch == b.launch && (if scope = .core then a.core == b.core else a.core / 128 == b.core / 128)

/-- Every participant of the group of `h` has arrived. -/
def State.allArrived (s : State) (h : Hart) (scope : Tier) : Bool :=
  s.allHarts.all fun g => !(sameGroup scope g h && g.inBarriers) || g.barWait == some scope

/-- A participant leaves the barrier: a parked one completes its BAR, another one finds the barrier complete when it executes
the BAR again (13_isa_scalar.md R356). -/
def Hart.leaveBarrier (h : Hart) : Hart :=
  if h.run = .parkedBar then
    { h with barWait := none, run := .ready, pc := h.pc + 4, csr := { h.csr with instret := h.csr.instret + 1 } }
  else { h with barWait := none, barDone := true }

/-- The barrier of the group of `h` completes: every participant leaves it. -/
def State.openBarrier (s : State) (h : Hart) (scope : Tier) : State :=
  s.mapHarts (fun g => sameGroup scope g h && g.inBarriers && g.barWait == some scope) Hart.leaveBarrier

/-- Complete the barriers at which only retired harts were missing. -/
def State.recheckBarriers (s : State) (h : Hart) : State :=
  [Tier.core, Tier.clus].foldl (fun s scope =>
    if (s.allHarts.any fun g => sameGroup scope g h && g.inBarriers && g.barWait == some scope) && s.allArrived h scope then
      s.openBarrier h scope else s) s

/-- Whether two harts belong to one split (06_execution.md R168). -/
def sameSplit (a b : Hart) : Bool :=
  a.core == b.core && a.launch == b.launch && fldN a.csr.splitst 2 2 != 0 && fldN b.csr.splitst 2 2 != 0 &&
    fldN a.csr.splitst 4 3 == fldN b.csr.splitst 4 3

/-- The other participants of the split of `h` have merged or retired. -/
def State.splitDone (s : State) (h : Hart) : Bool :=
  s.allHarts.all fun g => g.run == .retired || g.slot == h.slot || !sameSplit g h

/-- Vector threads of the seated harts of a core, of one launch or of every launch. -/
def State.vthreads (s : State) (core : Nat) (p : Hart → Bool) : Nat :=
  (s.allHarts.filter fun h => h.core == core && h.seated && h.vthread && h.run != .retired && p h).length

/-- The vector state of a participant of a split is discarded: tags NONE, VL 0, VDIRTY 0, bindings ended, tiles clean and zero
(06_execution.md R166, R167; 15_isa_vmem.md R397; 10_traps.md R276). -/
def Hart.discardVector (h : Hart) : Hart :=
  { h with vec := VState.reset
           csr := (if h.csr.vs = 0 then h.csr else h.csr.setVs 1) |> fun c => { c with vdirty := 0, vl := 0 } }

/-- The smallest of 1, 2 and 4 at or above a count. -/
def splitFor (n : Nat) : Nat := if n ≤ 1 then 1 else if n ≤ 2 then 2 else 4

/-- Split index 0 after LMERGE. -/
def Hart.merged (h : Hart) : Hart := { h.discardVector with mergeWait := false, csr := { h.discardVector.csr with splitst := 0 } }

/-- The split T of the core of a hart once a merge is complete: the launch's remaining vector threads when it is seated alone (06_execution.md R167). -/
def State.mergedT (s : State) (h : Hart) : State :=
  if s.allHarts.any fun g => g.core == h.core && g.seated && g.launch != h.launch then s
  else s.putCore { s.core h.core with split := splitFor (s.vthreads h.core fun g => g.launch == h.launch) }

/-- Split index 0, parked in LMERGE: the instruction completes once every other participant is done (06_execution.md R147, R167). -/
def State.recheckMerge (s : State) (h : Hart) : State :=
  match s.allHarts.find? fun g => g.mergeWait && sameSplit g h && s.splitDone g with
  | none => s
  | some g =>
    let m := g.merged
    let s1 := (s.putHart { m with run := .ready, pc := m.pc + 4, csr := { m.csr with instret := m.csr.instret + 1 } }).mergedT g
    s1.putCore ((s1.core g.core).count 0x02 1)

/-- The hart in focus retires: it leaves its wait lists, counts as arrived at every barrier, and counts as merged. -/
def State.retireHart (s : State) : State :=
  let h := { s.h with run := .retired, rlx := 0, barWait := none, mergeWait := false, deferred := none }
  let s1 := ({ s with h := h } : State).leaveWaits h.core h.slot h.launch
  (s1.recheckBarriers h).recheckMerge h

/-- Wait for the outstanding marked accesses, raising nothing. -/
def State.quiet (s : State) (k : State → Res) : Res :=
  let s1 := s.performMarked
  if s1.remoteMarked ≠ 0 then .wait s1 else k s1

/-- PUMPSTOP's end of a suspended replay (07_core.md R190, 10_traps.md R281). -/
def State.dropPump (s : State) : State :=
  if s.h.vec.pump.state = 3 then { s with h := { s.h with vec := { s.h.vec with pump := Pump.reset } } } else s

/-- BAR at `.core` or `.clus` (06_execution.md R160, 13_isa_scalar.md R356). -/
def State.barrier (s : State) (scope : Tier) : Res :=
  if fldN s.h.csr.splitst 0 2 ≠ 0 then s.illegal
  else if s.h.barDone then .ok { s with h := { s.h with barDone := false } }
  else if s.vecBusy then .wait s
  else s.quiet fun s =>
    let s1 := { s with h := { s.h with barWait := some scope } }
    if s1.allArrived s1.h scope then
      let s2 := s1.openBarrier s1.h scope
      .ok { s2 with h := { s2.h with barWait := none, barDone := false } }
    else .wait { s1 with h := { s1.h with run := .parkedBar } }

end Sys2Proof.Machine
end

