-- ==== Sys2Proof/Machine/Cmac.lean ====
section
/-! DEFINITION. AES-256-CMAC, the tag of a route value (03_routes.md R69). -/

set_option Elab.async false

namespace Sys2Proof.Machine

/-- Multiply by x in the field of AES. -/
def gfDouble (a : Nat) : Nat := (2 * a % 256) ^^^ (if 128 ≤ a then 0x1B else 0)

/-- Product in the field of AES, over `n` bits of the second factor. -/
def gfMul (a b : Nat) : Nat → Nat
  | 0 => 0
  | n + 1 => (if b % 2 = 1 then a else 0) ^^^ gfMul (gfDouble a) (b / 2) n

/-- Product of two bytes. -/
def gfProd (a b : Nat) : Nat := gfMul a b 8

/-- Inverse of a byte, 0 for 0: the power 254. -/
def gfInv (a : Nat) : Nat :=
  let a2 := gfProd a a
  let a3 := gfProd a2 a
  let a12 := gfProd (gfProd a3 a3) (gfProd a3 a3)
  let a15 := gfProd a12 a3
  let a30 := gfProd a15 a15
  let a60 := gfProd a30 a30
  let a120 := gfProd a60 a60
  let a240 := gfProd a120 a120
  gfProd a240 (gfProd a12 a2)

/-- Rotate a byte left. -/
def rotByte (a n : Nat) : Nat := (a * 2 ^ n % 256) ||| (a / 2 ^ (8 - n))

/-- The S-box of AES. -/
def aesSub (a : Nat) : Nat :=
  let b := gfInv a
  b ^^^ rotByte b 1 ^^^ rotByte b 2 ^^^ rotByte b 3 ^^^ rotByte b 4 ^^^ 0x63

/-- Exclusive or of two byte strings. -/
def xorBytes (a b : List Nat) : List Nat := List.zipWith (· ^^^ ·) a b

/-- The next word of the AES-256 key schedule. -/
def aesNextWord (i : Nat) (rcon : Nat) (prev back : List Nat) : List Nat :=
  if i % 8 = 0 then
    let r := (prev.drop 1 ++ prev.take 1).map aesSub
    xorBytes back (xorBytes r [rcon, 0, 0, 0])
  else if i % 8 = 4 then xorBytes back (prev.map aesSub)
  else xorBytes back prev

/-- Extend the key schedule by `n` words; `ws` holds the words newest first. -/
def aesExpand : Nat → Nat → Nat → List (List Nat) → List (List Nat)
  | 0, _, _, ws => ws
  | n + 1, i, rcon, ws =>
    let w := aesNextWord i rcon (ws.getD 0 []) (ws.getD 7 [])
    aesExpand n (i + 1) (if i % 8 = 0 then gfDouble rcon else rcon) (w :: ws)

/-- Cut a list into pieces of 4. -/
def quads : List Nat → List (List Nat)
  | a :: b :: c :: d :: r => [a, b, c, d] :: quads r
  | _ => []

/-- Cut a list into pieces of 16 made of pieces of 4. -/
def roundKeys : List (List Nat) → List (List Nat)
  | a :: b :: c :: d :: r => (a ++ b ++ c ++ d) :: roundKeys r
  | _ => []

/-- The fifteen round keys of a 32-byte key. -/
def aesKeys (key : List Nat) : List (List Nat) := roundKeys (aesExpand 52 8 1 (quads key).reverse).reverse

/-- Shift the rows of a block, byte `r + 4 c` being row `r` of column `c`. -/
def shiftRows (b : List Nat) : List Nat := (List.range 16).map fun i => b.getD ((i + 4 * (i % 4)) % 16) 0

/-- Mix one column. -/
def mixColumn : List Nat → List Nat
  | [a, b, c, d] =>
    let t (w x y z : Nat) : Nat := gfDouble w ^^^ (gfDouble x ^^^ x) ^^^ y ^^^ z
    [t a b c d, t b c d a, t c d a b, t d a b c]
  | _ => []

/-- The rounds after the first key addition. -/
def aesRounds : List (List Nat) → List Nat → List Nat
  | [], b => b
  | [k], b => xorBytes (shiftRows (b.map aesSub)) k
  | k :: r, b => aesRounds r (xorBytes ((quads (shiftRows (b.map aesSub))).flatMap mixColumn) k)

/-- Encrypt one block under round keys. -/
def aesBlock (ks : List (List Nat)) (b : List Nat) : List Nat :=
  match ks with
  | [] => b
  | k :: r => aesRounds r (xorBytes b k)

/-- A 16-byte string as a number, first byte highest. -/
def beNat (b : List Nat) : Nat := b.foldl (fun a x => 256 * a + x) 0

/-- The 16 bytes of a number, first byte highest. -/
def beBytes (n : Nat) : List Nat := (List.range 16).map fun i => n / 256 ^ (15 - i) % 256

/-- Double a subkey of CMAC. -/
def cmacDouble (n : Nat) : Nat := (2 * n % 2 ^ 128) ^^^ (if 2 ^ 127 ≤ n then 0x87 else 0)

/-- The blocks of a message, the last one as it stands. -/
def blocks16 : Nat → List Nat → List (List Nat)
  | 0, b => [b]
  | n + 1, b => if b.length ≤ 16 then [b] else b.take 16 :: blocks16 n (b.drop 16)

/-- Chain the blocks of CMAC. -/
def cmacChain (ks : List (List Nat)) (k1 k2 : List Nat) (acc : List Nat) : List (List Nat) → List Nat
  | [] => acc
  | [b] =>
    let full := if b.length = 16 then xorBytes b k1 else xorBytes (b ++ [0x80] ++ List.replicate (15 - b.length) 0) k2
    aesBlock ks (xorBytes acc full)
  | b :: r => cmacChain ks k1 k2 (aesBlock ks (xorBytes acc b)) r

/-- AES-256-CMAC of a message of bytes. -/
def cmac (key msg : List Nat) : List Nat :=
  let ks := aesKeys key
  let k1 := cmacDouble (beNat (aesBlock ks (List.replicate 16 0)))
  cmacChain ks (beBytes k1) (beBytes (cmacDouble k1)) (List.replicate 16 0) (blocks16 msg.length msg)

/-- Bytes of a number, byte 0 lowest. -/
def leBytes (n k : Nat) : List Nat := (List.range k).map fun i => n / 256 ^ i % 256

/-- A number from bytes, byte 0 lowest. -/
def leNat (b : List Nat) : Nat := b.foldr (fun x a => x + 256 * a) 0

end Sys2Proof.Machine
end

