-- ==== Sys2Proof/Machine/Packets.lean ====
section
/-! DEFINITION. Route values, fabric packets, the source's checks and the injection of requests (02_fabric.md R42 to R46, R49, R56;
03_routes.md R65 to R70, R85 to R88, R95, R96). -/

set_option Elab.async false

namespace Sys2Proof

open Machine

/-! ## Route values (03_routes.md R66 to R68) -/

/-- HC of a unicast route, P of a multicast route. -/
def RouteVal.hc (r : RouteVal) : Nat := fldN r.w0 0 4

/-- Hop-list slot `i`. -/
def RouteVal.hop (r : RouteVal) (i : Nat) : Nat := fldN r.w0 (5 * i + 4) 5

/-- KIND. -/
def RouteVal.kind (r : RouteVal) : Nat := fldN r.w0 54 2

/-- BASE. -/
def RouteVal.base (r : RouteVal) : Nat := fldN r.w1 0 48

/-- TUNIT. -/
def RouteVal.tunit (r : RouteVal) : Nat := fldN r.w1 48 12

/-- TKIND. -/
def RouteVal.tkind (r : RouteVal) : Nat := fldN r.w1 60 4

/-- Window length: WLEN with 0 read as 2^32. -/
def RouteVal.len (r : RouteVal) : Nat := if fldN r.w2 0 32 = 0 then 2 ^ 32 else fldN r.w2 0 32

/-- The four rights: RD 1, WR 2, AT 4, SN 8. -/
def RouteVal.rights (r : RouteVal) : Nat := fldN r.w2 32 4

/-- GEN. -/
def RouteVal.gen (r : RouteVal) : BitVec 16 := fld r.w2 36 16

/-- KSLOT. -/
def RouteVal.kslot (r : RouteVal) : BitVec 4 := fld r.w2 52 4

/-- RCLS. -/
def RouteVal.rcls (r : RouteVal) : BitVec 4 := fld r.w2 56 4

/-- DLG. -/
def RouteVal.dlg (r : RouteVal) : Bool := r.w2.getLsbD 60

/-- First-level port mask of a multicast route (02_fabric.md R57). -/
def RouteVal.m1 (r : RouteVal) : Nat := fldN r.w0 19 16

/-- Second-level port mask of a multicast route. -/
def RouteVal.m2 (r : RouteVal) : Nat := fldN r.w0 35 16

/-- Bits set in a port mask, as port numbers from the lowest up. -/
def ports (m : Nat) : List Nat := (List.range 16).filter fun i => m / 2 ^ i % 2 = 1

/-- The number of leaves of a multicast route (02_fabric.md R58). -/
def RouteVal.leaves (r : RouteVal) : Nat := (ports r.m1).length * max (ports r.m2).length 1

/-- The hop list from slot `i`, read as ports and peer indices, holds a reserved port or ends with an Ethernet port. -/
def hopsBad (r : RouteVal) : Nat → Nat → Bool
  | 0, _ => false
  | n + 1, i =>
    if r.hc ≤ i then false
    else if 19 ≤ r.hop i then true
    else if 16 ≤ r.hop i then (match n with
      | 0 => true
      | m + 1 => decide (r.hc ≤ i + 1) || hopsBad r m (i + 2))
    else hopsBad r n (i + 1)

/-- The slots of the hop list from `i` that hold Ethernet ports. -/
def hopsEth (r : RouteVal) : Nat → Nat → Bool
  | 0, _ => false
  | n + 1, i => if r.hc ≤ i then false else if 16 ≤ r.hop i then true else hopsEth r n (i + 1)

/-- The route has an Ethernet hop. -/
def RouteVal.eth (r : RouteVal) : Bool := r.kind != 1 && hopsEth r 10 0

/-- BASE and TUNIT break the table of R67, or TKIND is reserved. -/
def RouteVal.targetBad (r : RouteVal) : Bool :=
  match r.tkind with
  | 0 => decide (spadSize ≤ r.base)
  | 1 => decide (0x8000000000 ≤ r.base) || decide (fldN r.w1 58 2 ≠ 0) || decide (fldN r.w1 54 1 ≠ 0)
  | 2 => decide (8 ≤ r.base) || decide (r.len % 16 ≠ 0) || decide (8 < r.base + r.len / 16)
  | 3 => decide (r.base ≠ 0) || decide (r.tunit ≠ 0)
  | 4 => decide (spadSize ≤ r.base)
  | _ => true

/-- A malformed route (03_routes.md R70; 02_fabric.md R57). A prefix-hop slot of a multicast route at or above P that is not zero makes it malformed: the
rules do not say, the model's choice (DESIGN CHOICE, log entry 100). -/
def RouteVal.malformed (r : RouteVal) : Bool :=
  decide (fldN r.w0 56 8 ≠ 0) || decide (fldN r.w2 61 3 ≠ 0) || r.targetBad || (r.kind == 2) != (r.tkind == 3) ||
    (match r.kind with
      | 1 => decide (3 < r.hc) || decide (r.m1 = 0) || decide (64 < r.leaves) || decide (fldN r.w0 51 3 ≠ 0) ||
          (List.range 3).any fun i => decide (if i < r.hc then 16 ≤ r.hop i else r.hop i ≠ 0)
      | 3 => true
      | _ => decide (10 < r.hc) || ((List.range 10).any fun i => decide (r.hc ≤ i ∧ r.hop i ≠ 0)) || hopsBad r 10 0)

/-- A route as one number, word 0 lowest. -/
def RouteVal.toNat (r : RouteVal) : Nat := r.w0.toNat + 2 ^ 64 * r.w1.toNat + 2 ^ 128 * r.w2.toNat + 2 ^ 192 * r.w3.toNat

/-- A route from one number. -/
def RouteVal.ofNat (n : Nat) : RouteVal :=
  ⟨BitVec.ofNat 64 n, BitVec.ofNat 64 (n / 2 ^ 64), BitVec.ofNat 64 (n / 2 ^ 128), BitVec.ofNat 64 (n / 2 ^ 192)⟩

/-! ## Packets (02_fabric.md R42 to R44) -/

/-- Replace a bit field of a word. -/
def putFld (w : Word) (lo len v : Nat) : Word := BitVec.ofNat 64 (w.toNat - fldN w lo len * 2 ^ lo + v % 2 ^ len * 2 ^ lo)

/-- OP. -/
def Packet.op (p : Packet) : Nat := fldN p.c4 0 6

/-- HOPIDX. -/
def Packet.hopidx (p : Packet) : Nat := fldN p.c4 6 4

/-- LEN. -/
def Packet.len (p : Packet) : Nat := fldN p.c4 10 9

/-- ASEQ. -/
def Packet.aseq (p : Packet) : Nat := fldN p.c4 19 8

/-- HSLOT. -/
def Packet.hslot (p : Packet) : Nat := fldN p.c4 27 3

/-- SCORE: 128 × cluster + core index. -/
def Packet.score (p : Packet) : Nat := fldN p.c4 30 12

/-- SPKG. -/
def Packet.spkg (p : Packet) : Nat := fldN p.c4 42 16

/-- STATUS. -/
def Packet.status (p : Packet) : Nat := fldN p.c4 58 4

/-- ENG. -/
def Packet.eng (p : Packet) : Bool := p.c4.getLsbD 62

/-- OFFSET. -/
def Packet.offset (p : Packet) : Nat := fldN p.c5 0 32

/-- QTAG. -/
def Packet.qtag (p : Packet) : Nat := fldN p.c5 32 16

/-- RTREG. -/
def Packet.rtreg (p : Packet) : Nat := fldN p.c5 48 3

/-- BRI. -/
def Packet.bri (p : Packet) : Nat := fldN p.c5 52 4

/-- Entry `i` of REVPATH. -/
def Packet.rev (p : Packet) (i : Nat) : Nat := fldN p.c6 (5 * i) 5

/-- SSEQ. -/
def Packet.sseq (p : Packet) : Nat := fldN p.c7 0 32

/-- Write HOPIDX. -/
def Packet.setHopidx (p : Packet) (n : Nat) : Packet := { p with c4 := putFld p.c4 6 4 n }

/-- Write an entry of REVPATH. -/
def Packet.setRev (p : Packet) (i v : Nat) : Packet := { p with c6 := putFld p.c6 (5 * i) 5 v }

/-- Write BRI. -/
def Packet.setBri (p : Packet) (n : Nat) : Packet := { p with c5 := putFld p.c5 52 4 n }

/-- OP is a request. -/
def opRequest (op : Nat) : Bool := (decide (1 ≤ op) && decide (op ≤ 0x0A)) || op == 0x10

/-- OP is a reply or a notice. -/
def opReply (op : Nat) : Bool := (decide (0x20 ≤ op) && decide (op ≤ 0x23)) || op == 0x30 || op == 0x31

/-- A malformed packet: a nonzero reserved field or another OP (02_fabric.md R42, R43). -/
def Packet.malformed (p : Packet) : Bool :=
  p.c4.getLsbD 63 || p.c5.getLsbD 51 || decide (fldN p.c5 56 8 ≠ 0) || decide (fldN p.c6 50 14 ≠ 0) || decide (fldN p.c7 32 32 ≠ 0) ||
    decide (256 < p.len) || !(opRequest p.op || opReply p.op)

/-- A reply of a request: OP, STATUS, LEN and payload replaced, HOPIDX set (02_fabric.md R48). -/
def Packet.reply (p : Packet) (op status hopidx : Nat) (data : List Byte) : Packet :=
  { p with c4 := putFld (putFld (putFld (putFld p.c4 0 6 op) 58 4 status) 10 9 data.length) 6 4 hopidx, data := data }

/-- A request without payload, whose LEN counts what it reads (02_fabric.md R43). -/
def opBare (op : Nat) : Bool := op == 1 || op == 8

/-- Number of beats of a packet: 4 and the payload padded to whole beats. -/
def Packet.beats (p : Packet) : Nat := if opBare p.op then 4 else 4 + (p.len + 15) / 16

/-- Number of flits of a packet (02_fabric.md R49). -/
def Packet.flits (p : Packet) : Nat := (p.beats + 1) / 2

end Sys2Proof

namespace Sys2Proof.Machine

/-- A key slot. -/
def State.keySlot (s : State) (k : BitVec 4) : KeySlot := s.fab.slots.get ⟨k.toNat, k.isLt⟩

/-- The tag of the body of a route under a key (03_routes.md R69). -/
def sealTag (key : BitVec 256) (r : RouteVal) : Word :=
  BitVec.ofNat 64 (leNat ((cmac (leBytes key.toNat 32) (leBytes r.w0.toNat 8 ++ leBytes r.w1.toNat 8 ++ leBytes r.w2.toNat 8)).take 8))

/-- The tag check: PENDING, CURRENT and ACCEPT slots hold a key (03_routes.md R71). -/
def State.tagOk (s : State) (r : RouteVal) : Bool :=
  let k := s.keySlot r.kslot
  k.state != .empty && sealTag k.key r == r.w3

/-- A route register of the hart in focus. -/
def State.rt (s : State) (t : BitVec 3) : RouteVal := s.h.rt.get ⟨t.toNat, t.isLt⟩

/-- Write a route register of the hart in focus. -/
def State.setRt (s : State) (t : BitVec 3) (r : RouteVal) : State :=
  let i : Fin 8 := ⟨t.toNat, t.isLt⟩
  { s with h := { s.h with rt := s.h.rt.set i r } }

/-! ## Where units stand (01_package.md R10; 02_fabric.md R50) -/

/-- The router of a core. -/
def coreEndpoint (core : Nat) : Endpoint :=
  let cl := core / 128
  let ix := core % 128
  ⟨32 * (cl / 16) + 8 * (cl % 4) + ix % 8, 16 * (cl % 16 / 4) + ix / 8, false⟩

/-- Switch endpoint `k`. -/
def switchEndpoint (k : Nat) : Endpoint := ⟨7 + 16 * (k / 16), 16 + k % 16, true⟩

/-- The switch endpoint that a core's requests go to. -/
def Endpoint.switchOf (e : Endpoint) : Endpoint := switchEndpoint (e.y % 16 + 16 * (e.x / 32))

/-- The Wellhead's endpoint. -/
def wellEndpoint : Endpoint := ⟨15, 24, true⟩

/-- The endpoint of the target unit of a route. A stack controller has none of its own in R50: the first core router of its die stands for it. -/
def routeEndpoint (r : RouteVal) : Endpoint :=
  match r.tkind with
  | 1 => ⟨32 * (r.tunit / 128 % 8 / 4), 16 * (r.tunit / 128 % 4), false⟩
  | 3 => wellEndpoint
  | _ => coreEndpoint r.tunit

/-! ## Refusals (03_routes.md R95, R96) -/

/-- STATUS TAG. -/
def stTag : Nat := 1

/-- STATUS BOUNDS. -/
def stBounds : Nat := 2

/-- STATUS REVOKED. -/
def stRevoked : Nat := 3

/-- STATUS UNREACH. -/
def stUnreach : Nat := 4

/-- STATUS REPLAY. -/
def stReplay : Nat := 5

/-- STATUS POISON. -/
def stPoison : Nat := 6

/-- STATUS FULL. -/
def stFull : Nat := 7

/-- STATUS RIGHTS. -/
def stRights : Nat := 8

/-- STATUS MALFORMED. -/
def stMalformed : Nat := 9

/-- The cause of a STATUS. -/
def statusCause (st : Nat) : Byte :=
  match st with
  | 2 => causeRouteBounds
  | 7 => causeRouteBounds
  | 8 => causeRouteBounds
  | 3 => causeRouteRevoked
  | 4 => causeRouteUnreach
  | 5 => causeRouteReplay
  | 6 => causePoison
  | _ => causeRouteTag

/-- STVAL of a route cause. -/
def routeVal (off st : Nat) (rtreg : BitVec 3) (srcdet : Bool) : Word :=
  BitVec.ofNat 64 (off % 2 ^ 33 + st * 2 ^ 33 + rtreg.toNat * 2 ^ 37 + if srcdet then 2 ^ 40 else 0)

/-- The trap of a failure that the source found. -/
def srcTrap (off st : Nat) (rtreg : BitVec 3) : Trap := ⟨statusCause st, routeVal off st rtreg true⟩

/-- The trap of a refusal: a bounds failure names the first offset outside the window, other failures the access's offset. -/
def refusalTrap (p : Packet) (st : Nat) : Trap :=
  let off := if st = stBounds then max p.offset p.route.len else p.offset
  ⟨statusCause st, routeVal off st (BitVec.ofNat 3 p.rtreg) false⟩

/-! ## The source's checks (03_routes.md R87) -/

/-- Right of an operation: RD 1, WR 2, AT 4, SN 8 (03_routes.md R88). -/
def opRight (op : Nat) : Nat :=
  match op with
  | 1 => 1
  | 8 => 1
  | 4 => 4
  | 5 => 4
  | 6 => 8
  | 0x10 => 8
  | _ => 2

/-- Operations that an Ethernet hop carries (02_fabric.md R63). -/
def opEth (op : Nat) : Bool := op == 3 || op == 4 || op == 5 || op == 6 || op == 7

/-- The check of R87 of an access of `len` bytes at offset `off`; none when it passes. -/
def State.sourceCheck (s : State) (rt : RouteVal) (t : BitVec 3) (op off len : Nat) : Option Trap :=
  if rt.malformed then some (srcTrap off stMalformed t)
  else if rt.kind = 2 && s.h.level = .user then some (s.trapWord causePriv)
  else if (rt.kind = 1) ≠ (op = 0x0A) then some (srcTrap off stRights t)
  else if rt.len < off + len then some (srcTrap (max off rt.len) stBounds t)
  else if rt.rights / opRight op % 2 = 0 then some (srcTrap off stRights t)
  else if rt.eth && !opEth op then some (srcTrap off stUnreach t)
  else none

/-! ## Injection -/

/-- The tier of a route (09_ordering.md R241). -/
def routeTier (r : RouteVal) : Tier := if r.kind != 1 && r.hc = 0 then .pkg else .dom

/-- A tag that no outstanding request of the core carries in its low 15 bits, from a first candidate on. -/
def freeTag (rs : List Req) : Nat → BitVec 16 → BitVec 16
  | 0, q => q
  | n + 1, q => if rs.any fun r => r.qtag.toNat % 2 ^ 15 == q.toNat % 2 ^ 15 then freeTag rs n (BitVec.ofNat 16 ((q.toNat + 1) % 2 ^ 15)) else q

/-- The injection gap of a route register of a hart. -/
def Hart.gapOf (h : Hart) (t : BitVec 3) : Gap := h.gap.get ⟨t.toNat, t.isLt⟩

/-- Write the injection state of a route register. -/
def Hart.setGap (h : Hart) (t : BitVec 3) (g : Gap) : Hart :=
  let i : Fin 8 := ⟨t.toNat, t.isLt⟩
  { h with gap := h.gap.set i g }

/-- The gap that an injection in a cycle sees: in the cycle in which G changes, the old one (02_fabric.md R56). -/
def Gap.at_ (g : Gap) (cycle : Word) : BitVec 17 := if g.changed = some cycle then g.before else g.g

/-- An injection in a cycle comes no sooner than G cycles after the one before it (02_fabric.md R56). -/
def Gap.passed (g : Gap) (cycle : Word) : Bool :=
  match g.last with
  | none => true
  | some l => decide ((g.at_ cycle).toNat ≤ (cycle - l).toNat)

/-- Requests of a core that are injected and not answered: what is outstanding less what still waits at the source. -/
def State.injectedReqs (s : State) (core : Nat) : Nat :=
  (s.core core).reqs.length - (s.fab.net.filter fun i => i.pos == .waiting && !i.reply && i.home == core).length

/-- The core's reply store has room for 10 more flits beside those reserved for the requests that it has injected (02_fabric.md R53). -/
def State.replyRoom (s : State) (core : Nat) : Bool := decide (10 * s.injectedReqs core + 10 ≤ 512)

/-- A request may be injected on the route register now (02_fabric.md R53, R56). -/
def State.mayInject (s : State) (t : BitVec 3) : Bool := (s.h.gapOf t).passed s.c.cycle && s.replyRoom s.c.id

/-- Note an injection: the next one is due G cycles later. -/
def State.noteInject (s : State) (t : BitVec 3) : State := { s with h := s.h.setGap t { s.h.gapOf t with last := some s.c.cycle } }

/-- A request in words: who sends it, through which route, and what it carries. -/
structure Send where
  slot : BitVec 3
  launch : BitVec 32
  t : BitVec 3
  rt : RouteVal
  op : Nat
  off : Nat
  len : Nat
  data : List Byte
  aseq : BitVec 8
  eng : Bool
  sseq : BitVec 32
  kind : ReqKind
  marked : Bool
  hold : Bool

/-- The packet of a request of the core in focus (02_fabric.md R42). -/
def State.packetOf (s : State) (r : Send) (q : BitVec 16) : Packet :=
  { route := r.rt
    c4 := BitVec.ofNat 64 (r.op + r.len * 2 ^ 10 + r.aseq.toNat * 2 ^ 19 + r.slot.toNat * 2 ^ 27 + s.c.id * 2 ^ 30 +
      s.fab.pkgId.toNat * 2 ^ 42 + if r.eng then 2 ^ 62 else 0)
    c5 := BitVec.ofNat 64 (r.off % 2 ^ 32 + q.toNat * 2 ^ 32 + r.t.toNat * 2 ^ 48)
    c6 := 0
    c7 := r.sseq.setWidth 64
    data := r.data }

/-- The first packet tag from a candidate on that no packet of a source endpoint in flight carries (02_fabric.md R49). When 256 packets of the
endpoint are in flight it is 256, which is no tag: the packet waits at its source for one. -/
def freePtag (net : List NetItem) (src : Endpoint) : Nat → Nat → Nat
  | 0, t => t
  | n + 1, t => if net.any fun i => i.src == src && i.ptag == t then freePtag net src n (t + 1) else t

/-- Send a request from the core in focus: it becomes outstanding, and its packet enters the torus, or is held at the source
(`hold`) until INJECTION_GAP_PASSED releases it. -/
def State.send (s : State) (r : Send) : State :=
  let q := freeTag s.c.reqs (s.c.reqs.length + 1) s.c.qtag
  let p := s.packetOf r q
  let req : Req := ⟨q, r.slot, r.launch, r.t, routeTier r.rt, r.kind, r.marked, s.c.cycle, 0, p⟩
  let src := coreEndpoint s.c.id
  let dst := if routeTier r.rt = .pkg then routeEndpoint r.rt else src.switchOf
  let item : NetItem :=
    { pkt := p, pos := if r.hold then .waiting else .inject, src := src, dst := dst, ptag := freePtag s.fab.net src 256 0, reply := false, sent := 0, got := [],
      admitted := false, retries := 0, home := s.c.id, encl := s.c.mencl, ofTag := 0 }
  { s with
    c := { s.c with reqs := s.c.reqs ++ [req], qtag := BitVec.ofNat 16 ((q.toNat + 1) % 2 ^ 15) }
    fab := { s.fab with net := s.fab.net ++ [item] } }

/-- One more unacknowledged posted access or strip of a tier (10_traps.md R285). -/
def Hart.postMore (h : Hart) (t : Tier) : Hart :=
  let i : Fin 6 := ⟨t.num, by cases t <;> decide⟩
  { h with post := h.post.set i (h.post.get i + 1) }

/-- One fewer. -/
def Hart.postLess (h : Hart) (t : Tier) : Hart :=
  let i : Fin 6 := ⟨t.num, by cases t <;> decide⟩
  { h with post := h.post.set i (h.post.get i - 1) }

/-- A plain request of the hart in focus. -/
def State.mine (s : State) (t : BitVec 3) (op off len : Nat) (data : List Byte) (kind : ReqKind) : Send :=
  ⟨s.h.slot, s.h.launch, t, s.rt t, op, off, len, data, 0, false, 0, kind, false, false⟩

/-- Hold a refused posted access or strip: the first failing status stays (03_routes.md R95). -/
def Hart.holdStatus (h : Hart) (t : Tier) (tr : Trap) : Hart :=
  { h with pstat := match h.pstat with
      | some p => some p
      | none => some ⟨t, tr⟩ }

/-- A list of bytes as a number, the first lowest. -/
def dataNat (d : List Byte) : Nat := d.foldr (fun x a => x.toNat + 256 * a) 0

/-! ## Strips of fabric streams (15_isa_vmem.md R396) -/

/-- Cut bytes into pieces. -/
def cutEvery (n : Nat) : Nat → List Byte → List (List Byte)
  | 0, _ => []
  | k + 1, b => if b.isEmpty then [] else b.take n :: cutEvery n k (b.drop n)

/-- Send pieces of a strip from an offset on. -/
def State.sendPieces (s : State) (t : BitVec 3) (sseq : BitVec 32) : Nat → List (List Byte) → State
  | _, [] => s
  | off, b :: r =>
    let s1 := s.send ⟨s.h.slot, s.h.launch, t, s.rt t, 9, off, b.length, b, 0, false, sseq, .strip, false, true⟩
    (({ s1 with h := s1.h.postMore (routeTier (s.rt t)) } : State).sendPieces t sseq (off + b.length) r)

/-! ## Atomic payloads (18_isa_fabric.md R438) and access widths (03_routes.md R89) -/

/-- OPC of an atomic's payload. -/
def atomicOpc (d : List Byte) : Nat := dataNat d % 256

/-- WID. -/
def atomicWid (d : List Byte) : Nat := dataNat d / 2 ^ 8 % 256

/-- RM. -/
def atomicRm (d : List Byte) : Nat := dataNat d / 2 ^ 16 % 256

/-- OPERAND. -/
def atomicOperand (d : List Byte) : Nat := dataNat d / 2 ^ 64 % 2 ^ 64

/-- Access width of an atomic (03_routes.md R89). -/
def atomicWidth (opc wid : Nat) : Nat := if opc < 10 then wid else if opc = 10 then 16 else 64

/-- Access width AW. -/
def accessWidth (p : Packet) : Nat :=
  if p.op = 5 then 8 else if p.op = 4 then atomicWidth (atomicOpc p.data) (atomicWid p.data) else p.len

end Sys2Proof.Machine
end

