-- ==== Sys2Proof/Machine/CsrOps.lean ====
section
/-! DEFINITION. Control registers by address, and the CSR instructions (12_encoding.md R317, R320; 13_isa_scalar.md R347, R348). -/

set_option Elab.async false

namespace Sys2Proof.Machine

/-- A 64-bit value with only the bits of a mask. -/
def masked (v : Word) (m : Word) : Word := v &&& m

/-- Declared count of registers of an NREG code (07_core.md R182). -/
def nregCount (n : BitVec 2) : Nat := 32 / 2 ^ n.toNat

/-- The VDIRTY bits that exist: those below the declared count (10_traps.md R278). -/
def Csrs.dirtyMask (c : Csrs) : BitVec 32 := BitVec.ofNat 32 (2 ^ nregCount c.declared - 1)

/-- HARTID (06_execution.md R146). -/
def State.hartid (s : State) : Word :=
  BitVec.ofNat 64 (s.h.slot.toNat + (if s.h.lslot then 8 else 0) + s.h.core % 128 * 2 ^ 4 + s.h.core / 128 * 2 ^ 11 +
    s.fab.pkgId.toNat * 2 ^ 16)

/-- The event counter of an address 0x018 to 0x01F. -/
def evcIdx (a : Nat) : Fin 8 := ⟨a % 8, Nat.mod_lt _ (by decide)⟩

/-- The guard entry of an address 0x310 to 0x31F. -/
def guardIdx (a : Nat) : Fin 16 := ⟨a % 16, Nat.mod_lt _ (by decide)⟩

/-- The value a CSR reads; none for an address that the map does not assign (12_encoding.md R320). -/
def State.csrRead (s : State) (a : Nat) : Option Word :=
  let c := s.h.csr
  match a with
  | 0x000 => some (c.vl.setWidth 64)
  | 0x001 => some (c.vtype.setWidth 64)
  | 0x002 => some (c.vstart.setWidth 64)
  | 0x003 => some c.vlenb
  | 0x004 => some ((c.vdirty &&& c.dirtyMask).setWidth 64)
  | 0x005 => some (c.nreg.setWidth 64)
  | 0x006 => some 0x0000080810202040#64
  | 0x007 => some c.modq
  | 0x008 => some (c.frm.setWidth 64)
  | 0x009 => some (c.fflags.setWidth 64)
  | 0x00A => some s.h.vec.pump.word
  | 0x00B => some c.srseed
  | 0x00C => some s.hartid
  | 0x00D => some (s.h.rank.setWidth 64)
  | 0x00E => some (s.h.launch.setWidth 64)
  | 0x00F => some (c.splitst.setWidth 64)
  | 0x010 => some s.c.cycle
  | 0x011 => some c.instret
  | 0x100 => some (c.sstatus.setWidth 64)
  | 0x101 => some c.stvec
  | 0x102 => some c.sepc
  | 0x103 => some c.scause
  | 0x104 => some c.stval
  | 0x105 => some c.sscratch
  | 0x106 => some c.satp
  | 0x107 => some (c.vlcap.setWidth 64)
  | 0x108 => some s.c.sevsel
  | 0x109 => some (c.sie.setWidth 64)
  | 0x10A => some (s.sipBits.setWidth 64)
  | 0x10B => some c.sflist
  | 0x10C => some c.framepool
  | 0x10D => some c.timecmp
  | 0x300 => some (c.mstatus.setWidth 64)
  | 0x301 => some c.mtvec
  | 0x302 => some c.mepc
  | 0x303 => some c.mcause
  | 0x304 => some c.mtval
  | 0x305 => some c.mscratch
  | 0x306 => some s.c.mdeleg
  | 0x307 => some s.c.mkeyid
  | 0x308 => some (s.c.mencl.setWidth 64)
  | 0x309 => some (s.c.meven.setWidth 64)
  | 0x30A => some s.c.asidtab
  | _ =>
    if 0x018 ≤ a ∧ a ≤ 0x01F then some (s.c.evc.get (evcIdx a))
    else if 0x310 ≤ a ∧ a ≤ 0x31F then some (s.c.guards.get (guardIdx a))
    else none

/-- The level an address needs (10_traps.md R265). -/
def csrLevel (a : Nat) : Nat := a / 256 % 4

/-- CSR instructions that wait for the vector instructions in progress (07_core.md R190, 11_arithmetic.md R304). -/
def csrWaits (a : Nat) : Bool := decide (a ≤ 0x009) || a == 0x00B

/-- Discard the vector state that SSTATUS.VS = 0 discards (10_traps.md R276). -/
def Hart.vsOff (h : Hart) : Hart :=
  { h with
    csr := { h.csr with vdirty := 0 }
    vec := { h.vec with v := h.vec.v.map fun r => { r with tag := 0 }, t := Vector.replicate 4 Tile.none, fm := 0, fmArmed := false } }

/-- Change the control registers of the hart in focus. -/
def State.setCsr (s : State) (c : Csrs) : State := { s with h := { s.h with csr := c } }

/-- Register the pool that a write to FRAMEPOOL names (04_storage.md R108). The new registration has sent no notice yet and keeps the frames that the
old one held: the model's choice (log entry 98). -/
def State.setPool (s : State) (v : Word) : State :=
  let mine (p : Pool) : Bool := p.encl == s.c.mencl
  let kept := match s.sip.pools.find? mine with
    | none => []
    | some p => p.kept
  let p : Pool := ⟨s.c.mencl, v.getLsbD 0, fldN v 6 6, fldN v 12 36 * 4096, s.h.core, s.h.slot, s.h.launch, 0, 0, kept⟩
  if v.getLsbD 0 then { s with sip := { s.sip with pools := p :: s.sip.pools.filter fun q => !mine q } }
  else { s with sip := { s.sip with pools := s.sip.pools.map fun q => if mine q then { q with en := false } else q } }

/-- The VS that a write leaves: R276 lists 2 for Dirty, 1 to 3 for Off, and 0 for every state; another write leaves VS as it is. -/
def nextVs (old new : Nat) : Nat := if new = 0 || old = 0 || (old = 3 && new = 2) then new else old

/-- SEVSEL with every reserved code taken as 0x00 (07_core.md R207, R208). -/
def codesOf (v : Word) : Word :=
  BitVec.ofNat 64 ((List.range 8).foldl (fun n i => n + (if 0x12 < fldN v (8 * i) 8 then 0 else fldN v (8 * i) 8) * 2 ^ (8 * i)) 0)

/-- A write to a CSR, field by field (13_isa_scalar.md R348). The level has been checked. -/
def State.csrWrite (s : State) (a : Nat) (v : Word) : Res :=
  let c := s.h.csr
  match a with
  | 0x002 => .ok (s.setCsr { c with vstart := v.setWidth 22 })
  | 0x004 => .ok (s.setCsr { c with vdirty := v.setWidth 32 &&& c.dirtyMask })
  | 0x005 => .ok (if fldN v 0 2 = 3 then s else s.setCsr { c with nreg := v.setWidth 2 })
  | 0x007 => .ok (s.setCsr { c with modq := masked v 0x3FFFFFFFFFFFFFFF#64 })
  | 0x008 => .ok (if 6 ≤ fldN v 0 3 then s else s.setCsr { c with frm := v.setWidth 3 })
  | 0x009 => .ok (s.setCsr { c with fflags := v.setWidth 5 })
  | 0x00B => .ok (s.setCsr { c with srseed := v })
  | 0x100 =>
    if fldN v 5 2 = 0 then
      if s.h.vec.pump.state ≠ 0 || !s.h.vec.vq.isEmpty then .wait s
      else .ok { s with h := { s.h.vsOff with csr := { s.h.vsOff.csr with sstatus := v.setWidth 7 } } }
    else .ok (s.setCsr ({ c with sstatus := v.setWidth 7 }.setVs (nextVs c.vs (fldN v 5 2))))
  | 0x101 => .ok (s.setCsr { c with stvec := masked v 0x0000FFFFFFFFFFFD#64 })
  | 0x102 => .ok (s.setCsr { c with sepc := masked v 0x0000FFFFFFFFFFFC#64 })
  | 0x103 => .ok (s.setCsr { c with scause := masked v 0xFF#64 })
  | 0x104 => .ok (s.setCsr { c with stval := v })
  | 0x105 => .ok (s.setCsr { c with sscratch := v })
  | 0x106 =>
    let asid := fldN v 48 16
    if s.asidOwned asid s.c.mencl then .ok (s.setCsr { c with satp := s.satpOf asid }) else s.priv
  | 0x107 => .ok (if 10 ≤ fldN v 0 4 then s else s.setCsr { c with vlcap := v.setWidth 4 })
  | 0x108 => .ok { s with c := { s.c with sevsel := codesOf v } }
  | 0x109 => .ok (s.setCsr { c with sie := v.setWidth 5 &&& 0x1E#5 })
  | 0x10A => .ok (s.setCsr { c with sipPreempt := c.sipPreempt && !v.getLsbD 2 })
  | 0x10B => .ok (s.setCsr { c with sflist := masked v 0x0000FFFFFFFFFFC1#64 })
  | 0x10C =>
    if v.getLsbD 0 && !s.c.mkeyid.getLsbD (fldN v 6 6) then s.priv
    else .ok ((s.setPool v).setCsr { c with framepool := masked v 0x0000FFFFFFFFFFC1#64 })
  | 0x10D => .ok (s.setCsr { c with timecmp := v })
  | 0x300 =>
    let pp := if fldN v 2 2 = 2 then fldN c.mstatus 2 2 else fldN v 2 2
    .ok (s.setCsr { c with mstatus := BitVec.ofNat 5 (fldN v 0 2 + 4 * pp + 16 * fldN v 4 1) })
  | 0x301 => .ok (s.setCsr { c with mtvec := masked v 0x0000FFFFFFFFFFFD#64 })
  | 0x302 => .ok (s.setCsr { c with mepc := masked v 0x0000FFFFFFFFFFFC#64 })
  | 0x303 => .ok (s.setCsr { c with mcause := masked v 0xFF#64 })
  | 0x304 => .ok (s.setCsr { c with mtval := v })
  | 0x305 => .ok (s.setCsr { c with mscratch := v })
  | 0x306 => .ok { s with c := { s.c with mdeleg := masked v 0x0000001E03DFFFFE#64 } }
  | 0x307 => .ok { s with c := { s.c with mkeyid := v } }
  | 0x308 => .ok { s with c := { s.c with mencl := v.setWidth 8 } }
  | 0x309 => .ok { s with c := { s.c with meven := v.setWidth 9 } }
  | 0x30A => .ok { s with c := { s.c with asidtab := masked v 0x0000FFFFFFF00001#64 } }
  | _ =>
    if 0x018 ≤ a ∧ a ≤ 0x01F then .ok { s with c := { s.c with evc := s.c.evc.set (evcIdx a) v } }
    else if 0x310 ≤ a ∧ a ≤ 0x31F then .ok { s with c := { s.c with guards := s.c.guards.set (guardIdx a) (masked v 0xFFFFFFFFF7FFFFFF#64) } }
    else .ok s

/-- The level allows the access, with a write or without (10_traps.md R265, 07_core.md R207). -/
def State.csrAllowed (s : State) (a : Nat) (writes : Bool) : Bool :=
  if 0x018 ≤ a ∧ a ≤ 0x01F then s.h.level != .user || (!writes && s.c.meven.getLsbD 8)
  else decide (csrLevel a ≤ s.h.level.num)

/-- A CSR instruction: read, write if it makes one, then the old value to the destination (13_isa_scalar.md R347). -/
def State.csrInstr (s : State) (d : Reg) (a : Nat) (writes : Bool) (new : Word → Word) : Res :=
  match s.csrRead a with
  | none => s.illegal
  | some old =>
    if !s.csrAllowed a writes then s.priv
    else if csrWaits a && s.vecBusy then .wait s
    else
      let s1 := s.closeWindow
      if writes then (s1.csrWrite a (new old)).bind fun s2 => .ok (s2.setX d old) else .ok (s1.setX d old)

/-- The immediate of the immediate forms. -/
def zimm (a : Reg) : Word := a.setWidth 64

/-- CSRRW (13_isa_scalar.md R347). -/
def execCsrrw (d a : Reg) (i : BitVec 12) (s : State) : Host.Outcome State Fault Refusal :=
  finish (s.csrInstr d i.toNat true fun _ => s.x a)

/-- CSRRS (13_isa_scalar.md R347). -/
def execCsrrs (d a : Reg) (i : BitVec 12) (s : State) : Host.Outcome State Fault Refusal :=
  finish (s.csrInstr d i.toNat (a != 0) fun old => old ||| s.x a)

/-- CSRRC (13_isa_scalar.md R347). -/
def execCsrrc (d a : Reg) (i : BitVec 12) (s : State) : Host.Outcome State Fault Refusal :=
  finish (s.csrInstr d i.toNat (a != 0) fun old => old &&& ~~~(s.x a))

/-- CSRRWI (13_isa_scalar.md R347). -/
def execCsrrwi (d a : Reg) (i : BitVec 12) (s : State) : Host.Outcome State Fault Refusal :=
  finish (s.csrInstr d i.toNat true fun _ => zimm a)

/-- CSRRSI (13_isa_scalar.md R347). -/
def execCsrrsi (d a : Reg) (i : BitVec 12) (s : State) : Host.Outcome State Fault Refusal :=
  finish (s.csrInstr d i.toNat (a != 0) fun old => old ||| zimm a)

/-- CSRRCI (13_isa_scalar.md R347). -/
def execCsrrci (d a : Reg) (i : BitVec 12) (s : State) : Host.Outcome State Fault Refusal :=
  finish (s.csrInstr d i.toNat (a != 0) fun old => old &&& ~~~(zimm a))

end Sys2Proof.Machine
end

