-- ==== Sys2Proof/Machine/System.lean ====
section
/-! DEFINITION. System instructions (13_isa_scalar.md R349 to R360). -/

set_option Elab.async false

namespace Sys2Proof.Machine

/-- A call to the monitor: what it asks is the monitor's own affair, and afterwards the supervisor vector that the monitor holds for the
enclave is a free value (06_execution.md R145, 10_traps.md R270). -/
def State.monitorCalled (s : State) : State :=
  let v := Config.supervisorVector s.draws &&& 0x0000FFFFFFFFFFFD#64
  { s with
    draws := s.draws + 1
    hst := { s.hst with enclaves := s.hst.enclaves.map fun e => if e.id == s.c.mencl then { e with stvec := v } else e } }

/-- ECALL (13_isa_scalar.md R350). -/
def execEcall (s : State) : Host.Outcome State Fault Refusal :=
  let s := s.closeWindow
  finish (match s.h.level with
    | .user => .trap ⟨0x11, 0⟩ s
    | .supervisor => .trap ⟨0x12, 0⟩ s.monitorCalled
    | .monitor => s.illegal)

/-- EBREAK (13_isa_scalar.md R350). -/
def execEbreak (s : State) : Host.Outcome State Fault Refusal := finish (.trap ⟨0x13, 0⟩ s.closeWindow)

/-- SRET (10_traps.md R272). -/
def execSret (s : State) : Host.Outcome State Fault Refusal :=
  if s.h.level = .user then finish s.priv else .next s.closeWindow.sret

/-- MRET (10_traps.md R272). -/
def execMret (s : State) : Host.Outcome State Fault Refusal :=
  if s.h.level = .monitor then .next s.closeWindow.mret else finish s.priv

/-- WAITMSG (13_isa_scalar.md R352). -/
def execWaitmsg (s : State) : Host.Outcome State Fault Refusal :=
  let s := s.closeWindow
  finish (if s.myMail.isEmpty then .wait { s with h := { s.h with run := .parkedMbox } } else .ok s)

/-- POPMSG (13_isa_scalar.md R353). -/
def State.popmsg (s : State) (d a : Reg) : Res :=
  s.closeWindow.unmarked fun s =>
    let va := s.x a
    match s.check va 16 16 .store with
    | .error c => s.oneFault va true c
    | .ok hit =>
      let s := s.fill hit.fill
      match s.myMail with
      | [] => .ok (s.setXReply d 0)
      | m :: r =>
        if s.queueBars hit.loc 16 true then .wait s
        else match (s.writeLoc hit.loc 8 (m.toNat % 2 ^ 64)).bind fun s => s.writeLoc (hit.loc.plus 8) 8 (m.toNat / 2 ^ 64) with
        | none => .trap ⟨causePoison, va⟩ s
        | some s => .ok ((s.setMail s.h.core s.h.slot s.h.launch r).setXReply d 1)

/-- POPMSG (13_isa_scalar.md R353). -/
def execPopmsg (d a : Reg) (s : State) : Host.Outcome State Fault Refusal := finish (s.popmsg d a)

/-- YIELD: the hart's next visit is a bubble (13_isa_scalar.md R354). -/
def execYield (s : State) : Host.Outcome State Fault Refusal := finish (.ok (s.closeWindow.busyFor 16))

/-- HDONE (13_isa_scalar.md R355). -/
def execHdone (s : State) : Host.Outcome State Fault Refusal :=
  match s.closeWindow.dropPump.fence 5 true true true with
  | .ok s =>
    if s.vecBusy then .next s
    else .next { s.retireHart with h := { s.retireHart.h with csr := { s.retireHart.h.csr with instret := s.h.csr.instret + 1 } } }
  | .trap t s => .next (s.raise t)
  | .wait s => .next s

/-- BAR by scope code; codes 3 to 7 are ILLEGAL (13_isa_scalar.md R356). -/
def execBar (sc : BitVec 5) (s : State) : Host.Outcome State Fault Refusal :=
  let s := s.closeWindow
  finish (match sc.toNat with
    | 0 => .ok s
    | 1 => s.barrier .core
    | 2 => s.barrier .clus
    | _ => s.illegal)

/-- The eight words of a 64-byte record. -/
def words8 (n : Nat) : List Word := (List.range 8).map fun i => BitVec.ofNat 64 (n / 2 ^ (64 * i))

/-- The low `k` bytes of a number, little-endian. -/
def bytesOf (n k : Nat) : List Byte := (List.range k).map fun i => BitVec.ofNat 8 (n / 2 ^ (8 * i))

/-- LAUNCH: at most 4 pushes that have not drained (13_isa_scalar.md R357). -/
def State.launchPush (s : State) (d a : Reg) : Res :=
  s.closeWindow.unmarked fun s => s.readRecord (s.x a) 64 64 fun s n =>
    if 4 ≤ s.launchesOpen then .ok (s.setXReply d 0)
    else
      let q : Queued := ⟨words8 n, s.c.mencl, .mailbox s.h.core s.h.slot s.h.launch, s.pushPoint, s.hst.cycle⟩
      .ok (({ s with hst := { s.hst with inbox := s.hst.inbox ++ [q] } } : State).setXReply d 1)

/-- LAUNCH (13_isa_scalar.md R357). -/
def execLaunch (d a : Reg) (s : State) : Host.Outcome State Fault Refusal := finish (s.launchPush d a)

/-- An address of one of the two windows (08_memory.md R209). -/
def inWindows (a : Nat) : Bool := (decide (clusterBase ≤ a) && decide (a < clusterBase + 0xA000000)) || decide (ownBase ≤ a)

/-- Siphon commands of the hart's slot whose COMPLETE is not in its mailbox yet (13_isa_scalar.md R358). -/
def State.sqPending (s : State) : Nat :=
  s.sqOpen + (s.hst.heldMsgs.filter fun m => m.core == s.h.core && m.slot == s.h.slot && m.launch == s.h.launch && Msg.kind m.msg == 1).length

/-- SQPUSH (13_isa_scalar.md R358). -/
def State.sqPush (s : State) (d a : Reg) : Res :=
  if s.h.level = .user then s.priv
  else s.closeWindow.unmarked fun s =>
    let va := s.x a
    if va.toNat % 64 ≠ 0 then .trap ⟨causeMisalign, va⟩ s
    else if !inWindows va.toNat then .trap ⟨causeGuard, va⟩ s
    else s.readRecord va 64 64 fun s n =>
      if 16 ≤ s.sqPending then .ok (s.setXReply d 0)
      else
        let q : SqCmd := ⟨s.sip.nextSq, s.h.core, s.h.slot, s.h.launch, s.c.mencl, BitVec.ofNat 16 (fldN s.h.csr.satp 48 16),
          bytesOf n 64, s.pushPoint, s.c.guards, s.c.mkeyid, false, 0, 0, none⟩
        .ok (({ s with sip := { s.sip with sq := s.sip.sq ++ [q], nextSq := s.sip.nextSq + 1 } } : State).setXReply d 1)

/-- SQPUSH (13_isa_scalar.md R358). -/
def execSqpush (d a : Reg) (s : State) : Host.Outcome State Fault Refusal := finish (s.sqPush d a)

/-- Physical address of an ASID's table entry (08_memory.md R224). -/
def State.asidEntry (s : State) (asid : Nat) : Nat := fldN s.c.asidtab 20 28 * 2 ^ 20 + 16 * asid

/-- Write bytes 0 to 7 of an ASID's table entry. -/
def State.setAsidLo (s : State) (asid : Nat) (w : Word) : State := (s.writeLoc (.hbm (s.asidEntry asid) 0) 8 w.toNat).getD s

/-- Set FI in the entries of a list of ASIDs (08_memory.md R224). -/
def State.setFi (s : State) : List Nat → State
  | [] => s
  | a :: r => (s.setAsidLo a (s.asidLo a ||| 2)).setFi r

/-- Every core drops the translations of some ASIDs. -/
def State.dropTlb (s : State) (p : TlbEntry → Bool) : State := s.mapCores fun c => { c with tlb := c.tlb.filter fun e => !p e }

/-- TLBINV (13_isa_scalar.md R359). -/
def State.tlbinv (s : State) (sel va : Word) : Res :=
  if s.h.level = .user then s.priv
  else
    let asid := fldN sel 0 16
    let all := sel.getLsbD 16
    if !all && !s.asidOwned asid s.c.mencl then s.priv
    else
      let chosen (a : Nat) : Bool := if all then s.c.asidtab.getLsbD 0 && s.asidEncl a == s.c.mencl else a == asid
      let s1 := s.dropTlb fun e =>
        chosen e.asid.toNat && (sel.getLsbD 17 || (decide (e.va ≤ va.toNat) && decide (va.toNat < e.va + e.size)))
      .ok (if sel.getLsbD 17 then s1.setFi ((if all then List.range 65536 else [asid]).filter chosen) else s1)

/-- TLBINV (13_isa_scalar.md R359). -/
def execTlbinv (r a : Reg) (s : State) : Host.Outcome State Fault Refusal :=
  let s := s.closeWindow
  finish (s.tlbinv (s.x r) (s.x a))

/-- Every hart of the package whose SATP names an ASID reloads it (08_memory.md R225). -/
def State.reloadSatp (s : State) (asid : Nat) : State :=
  s.mapHarts (fun h => fldN h.csr.satp 48 16 == asid) fun h => { h with csr := { h.csr with satp := s.satpOf asid } }

/-- ASIDSET (08_memory.md R225, 13_isa_scalar.md R360). -/
def State.asidset (s : State) (sel root : Word) : Res :=
  if s.h.level = .user then s.priv
  else
    let asid := fldN sel 0 16
    let key := fldN root 48 6
    if !s.asidOwned asid s.c.mencl then s.priv
    else if !s.c.mkeyid.getLsbD key then s.priv
    else
      let e := s.asidLo asid
      let rc := fldN e 56 8
      let fi := e.getLsbD 1
      if rc = 255 && !fi then .trap ⟨causeAsidWrap, BitVec.ofNat 64 asid⟩ s
      else
        let e' := 1 + (if fi && rc ≠ 255 then 2 else 0) + fldN root 12 36 * 2 ^ 12 + key * 2 ^ 48 + (rc + 1) % 256 * 2 ^ 56 +
          fldN e 2 10 * 2 ^ 2 + fldN e 54 2 * 2 ^ 54
        .ok ((s.setAsidLo asid (BitVec.ofNat 64 e')).reloadSatp asid)

/-- ASIDSET (13_isa_scalar.md R360). -/
def execAsidset (r a : Reg) (s : State) : Host.Outcome State Fault Refusal :=
  let s := s.closeWindow
  finish (s.asidset (s.x r) (s.x a))

end Sys2Proof.Machine
end

