-- ==== Sys2Proof/Machine/Strip.lean ====
section
/-! DEFINITION. Stream bindings: fetching a memory stream, reading a ring, consuming a strip, sending a strip
(07_core.md R195 to R199, 08_memory.md R231, 15_isa_vmem.md R391 to R397). -/

set_option Elab.async false

namespace Sys2Proof.Machine

/-- Elements of a vector source: raw codes at the tag's width, element 0 lowest; for SF4 the micro-scales and the band scale;
and the first element whose use raises a deferred trap. -/
structure Src where
  tag : Nat
  bits : Nat
  scales : Nat
  band : Nat
  bad : Option (Nat × Trap)

/-- BF16 1.0, the band scale of an operand that brings none (14_isa_vector.md R382). -/
def bandOne : Nat := 0x3F80

/-- Element `i` of a source. -/
def Src.get (x : Src) (i : Nat) : Nat := x.bits / 2 ^ (i * tagWidth x.tag) % 2 ^ tagWidth x.tag

/-- Micro-scale of element `i`. -/
def Src.micro (x : Src) (i : Nat) : Nat := x.scales / 2 ^ (8 * (i / 8)) % 256

/-- A source of zeros. -/
def Src.zero : Src := ⟨tNone, 0, 0, bandOne, none⟩

/-- Pack codes of one width, the first lowest. -/
def packCodes (w : Nat) (l : List Nat) : Nat := l.foldr (fun x a => x % 2 ^ w + 2 ^ w * a) 0

/-- What reading a source gives: its elements, or an outcome of the instruction. -/
inductive Got
  | src (x : Src)
  | stop (r : Res)

/-! ## Bindings -/

/-- The binding of one of v24 to v31; other registers are unbound. -/
def Hart.binding (h : Hart) (r : Nat) : Binding := if r < 24 then Binding.none else h.vec.binds.get ⟨(r - 24) % 8, Nat.mod_lt _ (by decide)⟩

/-- Write the binding of one of v24 to v31. -/
def Hart.setBinding (h : Hart) (r : Nat) (b : Binding) : Hart :=
  let i : Fin 8 := ⟨(r - 24) % 8, Nat.mod_lt _ (by decide)⟩
  if r < 24 then h else { h with vec := { h.vec with binds := h.vec.binds.set i b } }

/-- The trap STREAM of the word being issued. -/
def State.stream (s : State) : Res := .trap (s.trapWord causeStream) s

/-! ## Memory streams -/

/-- Where a stream's access lands, checked against the guard entries of this moment: through a pinned page, or in a window. -/
def State.pinnedLoc (s : State) (pins : List PageMap) (va n : Nat) : Except Trap Loc :=
  let w : Word := BitVec.ofNat 64 va
  if va < 0x800000000000 then
    match pins.find? fun p => decide (p.va ≤ va) && decide (va < p.va + p.size) with
    | none => .error ⟨causeGuard, w⟩
    | some p =>
      let pa := p.pa + (va - p.va)
      if s.c.guardOk .translated pa n p.key .load s.h.level then .ok (.hbm pa p.key) else .error ⟨causeGuard, w⟩
  else match s.checkAt w n .load s.h.level with
    | .ok h => .ok h.loc
    | .error _ => .error ⟨causeGuard, w⟩

/-- Read `n` bytes for a stream. -/
def State.streamRead (s : State) (pins : List PageMap) (va n : Nat) : Except Trap Nat :=
  match s.pinnedLoc pins va n with
  | .error t => .error t
  | .ok l => match s.readLoc l n with
    | none => .error ⟨causePoison, BitVec.ofNat 64 va⟩
    | some v => .ok v

/-- Address of stream element `e` (15_isa_vmem.md R393); for SF4 the address of its code byte. -/
def Binding.elemAddr (b : Binding) (e : Nat) : Nat :=
  let w := tagWidth b.sfmt.toNat
  let a := b.addr.toNat
  if b.sfmt.toNat = tSF4 then a + 80 * (e / 128) + e % 128 / 2
  else if w < 8 then a + e / 2
  else if b.stride = 0 then a + e * (w / 8)
  else ((a : Int) + (e : Int) * b.stride.toInt).toNat % 2 ^ 64

/-- Fetch element `e` in the source format: for SF4 the code and, above it, the micro-scale. -/
def State.fetchElem (s : State) (b : Binding) (e : Nat) : Nat × Option Trap :=
  let w := tagWidth b.sfmt.toNat
  let a := b.elemAddr e
  match s.streamRead b.pins a (if w < 8 then 1 else w / 8) with
  | .error t => (0, some t)
  | .ok v =>
    let code := if w < 8 then (if e % 2 = 0 then v % 16 else v / 16) else v
    if b.sfmt.toNat = tSF4 then
      match s.streamRead b.pins (b.addr.toNat + 80 * (e / 128) + 64 + e % 128 / 8) 1 with
      | .error t => (0, some t)
      | .ok m => (code + 16 * m, none)
    else (code, none)

/-- Elements that the 2 KiB region of a stream holds. -/
def Binding.room (b : Binding) : Nat :=
  if b.sfmt.toNat = tSF4 then 2048 / 80 * 128 else 2048 * 8 / max 1 (tagWidth b.sfmt.toNat)

/-- Scratchpad offset of the region of register v(24 + j) in the launch's cistern (07_core.md R195). -/
def State.region (s : State) (j : Nat) : Nat :=
  match s.launch? s.h.launch with
  | none => 0
  | some l => l.rbase + shapeSpres l.words - 65536 + 2048 * (8 * s.h.vindex + j)

/-- Place of element `e` in the region, in the source format and in stream order, going round: offset and bytes (07_core.md R196). -/
def Binding.place (b : Binding) (e : Nat) : Nat × Nat :=
  let w := tagWidth b.sfmt.toNat
  if b.sfmt.toNat = tSF4 then (80 * (e % b.room / 128) + e % 128 / 2, 1)
  else if w < 8 then (e % b.room / 2, 1)
  else (e % b.room * (w / 8), w / 8)

/-- Place of the micro-scale of element `e` of an SF4 stream. -/
def Binding.scalePlace (b : Binding) (e : Nat) : Nat := 80 * (e % b.room / 128) + 64 + e % 128 / 8

/-- Read bytes of the own core's scratchpad for a stream. -/
def State.regionRead (s : State) (off n : Nat) : Nat × Option Trap :=
  match s.readLoc (.spad s.h.core off) n with
  | none => (0, some ⟨causePoison, BitVec.ofNat 64 (clusterBase + s.h.core % 128 * spadSize + off)⟩)
  | some v => (v, none)

/-- The code of element `e` as it stands in the region. -/
def State.regionElem (s : State) (j : Nat) (b : Binding) (e : Nat) : Nat × Option Trap :=
  let base := s.region j
  let (v, t) := s.regionRead (base + (b.place e).1) (b.place e).2
  let code := if tagWidth b.sfmt.toNat < 8 then (if e % 2 = 0 then v % 16 else v / 16) else v
  if b.sfmt.toNat = tSF4 then
    let (m, u) := s.regionRead (base + b.scalePlace e) 1
    (code + 16 * m, t.orElse fun _ => u)
  else (code, t)

/-- Write bytes of the own core's scratchpad for a stream. -/
def State.regionWrite (s : State) (off n v : Nat) : State := (s.writeLoc (.spad s.h.core off) n v).getD s

/-- The code of element `e` enters the region. -/
def State.regionPut (s : State) (j : Nat) (b : Binding) (e code : Nat) : State :=
  let base := s.region j
  let at_ := base + (b.place e).1
  if tagWidth b.sfmt.toNat < 8 then
    let old := (s.regionRead at_ 1).1
    let s1 := s.regionWrite at_ 1 (if e % 2 = 0 then code % 16 + 16 * (old / 16) else old % 16 + 16 * (code % 16))
    if b.sfmt.toNat = tSF4 then s1.regionWrite (base + b.scalePlace e) 1 (code / 16) else s1
  else s.regionWrite at_ (b.place e).2 code

/-- Fetch elements of a stream into its region: what each fetch met. -/
def State.fetchMany (s : State) (j : Nat) (b : Binding) : List Nat → State × List (Option Trap)
  | [] => (s, [])
  | e :: r =>
    let (code, t) := s.fetchElem b e
    let (s1, ts) := (match t with
      | none => s.regionPut j b e code
      | some _ => s).fetchMany j b r
    (s1, t :: ts)

/-- Element `k` of the next strip: from the region where it was fetched ahead, or fetched now; zero at and above LEN. -/
def State.streamElem (s : State) (j : Nat) (b : Binding) (k : Nat) : Nat × Option Trap :=
  if b.len.toNat ≤ b.pos.toNat + k then (0, none)
  else match b.ahead[k]? with
    | some (some t) => (0, some t)
    | some none => s.regionElem j b (b.pos.toNat + k)
    | none => s.fetchElem b (b.pos.toNat + k)

/-- A source code decoded into the output tag (15_isa_vmem.md R394). -/
def decodeInto (sfmt otag raw : Nat) : Nat :=
  if sfmt = tSF4 then
    (if otag = tSF4 then raw % 16 else (fRound otag rne 0 (sf4Val (raw % 16) (raw / 16))).1)
  else if sfmt = otag then raw else (convTag sfmt otag rne 0 raw).1

/-- The first failed element of a strip. -/
def firstBad : Nat → List (Nat × Option Trap) → Option (Nat × Trap)
  | _, [] => none
  | k, (_, some t) :: _ => some (k, t)
  | k, (_, none) :: r => firstBad (k + 1) r

/-- Band of the next strip; none when it reaches into a second band. -/
def Binding.band (b : Binding) (vl : Nat) : Option Nat :=
  let n := b.blen.toNat
  if n = 0 then some 0
  else if vl = 0 || (b.pos.toNat + vl - 1) / n = b.pos.toNat / n then some (b.pos.toNat / n)
  else Option.none

/-- The next strip of the memory stream of register v(24 + j) (15_isa_vmem.md R394). -/
def State.memStrip (s : State) (j : Nat) (b : Binding) (vl : Nat) : Got :=
  let isSf4 := b.sfmt.toNat = tSF4
  let pair := isSf4 && b.otag.toNat = tSF4
  if isSf4 && (b.band vl).isNone then .stop s.stream
  else if pair && b.pos.toNat % 8 ≠ 0 then .stop s.stream
  else
    let raw := (List.range vl).map (s.streamElem j b)
    let w := tagWidth b.otag.toNat
    let codes := raw.map fun x => decodeInto b.sfmt.toNat b.otag.toNat x.1
    let scales := if pair then packCodes 8 ((List.range ((vl + 7) / 8)).map fun k => (raw.getD (8 * k) (0, none)).1 / 16) else 0
    let bandRead := if isSf4 && b.bsp ≠ 0 then s.streamRead b.pins (b.bsp.toNat + 2 * (b.band vl).getD 0) 2 else .ok bandOne
    match bandRead with
    | .error t => .src ⟨b.otag.toNat, 0, 0, bandOne, some (0, t)⟩
    | .ok band => .src ⟨b.otag.toNat, packCodes w codes, scales, band, firstBad 0 raw⟩

/-! ## Rings (07_core.md R197 to R199) -/

/-- A ring descriptor as its 64 bytes, byte 0 lowest. -/
abbrev RingDesc := Nat

/-- DATA. -/
def ringData (d : RingDesc) : Nat := d % 2 ^ 32
/-- NENT. -/
def ringNent (d : RingDesc) : Nat := d / 2 ^ 32 % 2 ^ 16
/-- ESZ. -/
def ringEsz (d : RingDesc) : Nat := d / 2 ^ 64 % 2 ^ 32
/-- HEAD. -/
def ringHead (d : RingDesc) : Nat := d / 2 ^ 128 % 2 ^ 32

/-- A malformed descriptor, for a reservation of `res` bytes (07_core.md R197). A DATA that is not 64-byte aligned counts as malformed: R197 does not name it, the
model's choice (DESIGN CHOICE, log entry 100). -/
def ringMalformed (d : RingDesc) (res : Nat) : Bool :=
  let n := ringNent d
  let e := ringEsz d
  decide (d / 2 ^ 48 % 2 ^ 16 ≠ 0) || decide (d / 2 ^ 96 % 2 ^ 32 ≠ 0) || decide (d / 2 ^ 160 ≠ 0) || decide (n < 2) || decide (256 < n) ||
    decide (2 ^ Nat.log2 n ≠ n) || decide (e % 64 ≠ 0) || decide (e < 64) || decide (32768 < e) || decide (ringData d % 64 ≠ 0) ||
    decide (res < ringData d + n * e + 8 * n)

/-- Scratchpad offset of entry `k` of a ring in a reservation at `rb`. -/
def ringEntry (rb : Nat) (d : RingDesc) (k : Nat) : Nat := rb + ringData d + k * ringEsz d

/-- Scratchpad offset of state word `k`. -/
def ringState (rb : Nat) (d : RingDesc) (k : Nat) : Nat := rb + ringData d + ringNent d * ringEsz d + 8 * k

/-- Scratchpad offset on the hart's own core of a window address in its launch's reservation, for `n` bytes. -/
def State.reservationOff (s : State) (a n : Nat) : Option (Nat × Launch) :=
  match s.launch? s.h.launch with
  | none => none
  | some l =>
    let base := clusterBase + s.c.id % 128 * spadSize
    let off : Option Nat := if base ≤ a && a < base + spadSize then some (a - base) else none
    match off with
    | none => none
    | some o => if l.rbase ≤ o && o + n ≤ l.rbase + shapeSpres l.words then some (o, l) else none

/-- The first 8-byte word of an entry that is poisoned. -/
def firstPoison (m : Mem) (key : Nat) : Nat → Nat → Option Nat
  | 0, _ => none
  | n + 1, i => if m.spoison.contains (key / 8 + i) then some i else firstPoison m key n (i + 1)

/-- The hart parks on the state word of its ring; a fill of a word makes it execute the instruction again (07_core.md R199). -/
def State.parkRing (s : State) : Res := .wait { s with h := { s.h with run := .parkedFE } }

/-- The next strip of a ring. -/
def State.ringStrip (s : State) (b : Binding) : Got :=
  match s.reservationOff b.addr.toNat 64 with
  | none => .stop s.stream
  | some (o, l) =>
    match s.readLoc (.spad s.c.id o) 64 with
    | none => .stop (.trap ⟨causePoison, b.addr⟩ s)
    | some d =>
      if ringMalformed d (shapeSpres l.words) then .stop s.stream
      else
        let k := ringHead d % ringNent d
        let sw := spadKey s.c.id (ringState l.rbase d k)
        match s.readLoc (.spad s.c.id (ringState l.rbase d k)) 8 with
        | none => .stop (.trap ⟨causePoison, BitVec.ofNat 64 (clusterBase + s.c.id % 128 * spadSize + ringState l.rbase d k)⟩ s)
        | some state =>
        if !s.mem.isFull (sw / 8) || state / 2 ^ 32 ≠ ringHead d then .stop s.parkRing
        else
          let key := spadKey s.c.id (ringEntry l.rbase d k)
          let w := tagWidth b.otag.toNat
          let bad := (firstPoison s.mem key (ringEsz d / 8) 0).map fun i =>
            (i * 64 / w, (⟨causePoison, BitVec.ofNat 64 (clusterBase + s.c.id % 128 * spadSize + ringEntry l.rbase d k + 8 * i)⟩ : Trap))
          .src ⟨b.otag.toNat, cellsNat s.mem.spad key (ringEsz d), 0, bandOne, bad⟩

/-- Pop a ring: the state word becomes zero and empty, and HEAD increments. -/
def State.popRing (s : State) (b : Binding) : State :=
  match s.reservationOff b.addr.toNat 64 with
  | none => s
  | some (o, l) =>
    let d := cellsNat s.mem.spad (spadKey s.c.id o) 64
    let sw := spadKey s.c.id (ringState l.rbase d (ringHead d % ringNent d))
    let m := s.mem.putSpad sw 8 0
    { s with mem := ({ m with full := setDel m.full (sw / 8) } : Mem).putSpad (spadKey s.c.id (o + 16)) 4 ((ringHead d + 1) % 2 ^ 32) }

/-! ## Consuming and sending -/

/-- The instruction that read a strip has completed (15_isa_vmem.md R394, R395). -/
def State.consume (s : State) (r : Nat) : State :=
  let b := s.h.binding r
  let vl := s.h.csr.vl.toNat
  match b.kind.toNat with
  | 1 =>
    let n := min vl (b.len.toNat - b.pos.toNat) - b.ahead.length
    let s1 := (s.fetchMany (r - 24) b ((List.range n).map (b.pos.toNat + b.ahead.length + ·))).1
    { s1 with h := s1.h.setBinding r { b with pos := b.pos + BitVec.ofNat 64 vl, ahead := b.ahead.drop vl } }
  | 2 => s.popRing b
  | _ => s

/-- Bytes of one element group of the hart: 2,048 bits over its share of the lanes (07_core.md R178). -/
def State.groupBytes (s : State) : Nat := 256 / s.c.split

/-- What forbids a strip of `w`-bit results: the size of R396 step 4, then the checks of R87 on its packets. -/
def State.strip? (s : State) (b : Binding) (w : Nat) : Option Res :=
  let esz := b.stride.toNat % 2 ^ 32
  let rt := s.rt b.rtreg
  if s.h.csr.vl.toNat * w ≠ 8 * esz then some s.stream
  else
    let n := s.groupBytes
    let bad := ((List.range ((esz + n - 1) / n)).filterMap fun k => s.sourceCheck rt b.rtreg 9 (k * n) (min n (esz - k * n))).head?
    bad.map fun t => .trap t s

/-- Send the element groups from byte `lo` to byte `hi` of a strip whose data are `bits` (15_isa_vmem.md R396). -/
def State.sendStrip (s : State) (b : Binding) (bits lo hi : Nat) : State :=
  let n := s.groupBytes
  let first := lo / n * n
  s.sendPieces b.rtreg b.nsseq first (cutEvery n (hi / n + 1) (bytesOf (bits / 2 ^ (8 * first)) (hi - first)))

end Sys2Proof.Machine
end

