-- ==== Sys2Proof/WellFormed.lean ====
section
/-! DEFINITION. Which fields of an instruction word the instruction accepts. A word whose fields break one of these checks raises
ILLEGAL (12_encoding.md R319); the checks that depend on vector state or on the kind of hart stand with the meanings. -/

set_option Elab.async false

namespace Sys2Proof

/-- Operand kinds vv, vs and vi (14_isa_vector.md R365, R376). -/
def kindAny (k : BitVec 3) : Bool := decide (k.toNat ≤ 2)

/-- Operand kinds vv and vs. -/
def kindVvVs (k : BitVec 3) : Bool := decide (k.toNat ≤ 1)

/-- Operand kinds vs and vi. -/
def kindVsVi (k : BitVec 3) : Bool := k == 1 || k == 2

/-- VMV: VB is zero under vv, VA under vs and vi (14_isa_vector.md R379). -/
def vmvFields (k : BitVec 3) (a b : BitVec 5) : Bool := (k == 0 && b == 0) || ((k == 1 || k == 2) && a == 0)

/-- A reserved tag code (11_arithmetic.md R290). -/
def tagCodeReserved (t : BitVec 5) : Bool := decide (0x14 ≤ t.toNat)

/-- The target tags of VCVT: not NONE, SF4 or a reserved code (14_isa_vector.md R380). -/
def cvtTarget (t : BitVec 5) : Bool := t != 0 && t != 0x11 && !tagCodeReserved t

/-- The second format or integer type of a scalar conversion (13_isa_scalar.md R340). -/
def cvtSource (s : BitVec 5) : Bool := decide (s.toNat < 4)

/-- The scope codes of FENCE (09_ordering.md R259). -/
def fenceScope (s : BitVec 3) : Bool := decide (s.toNat ≤ 5)

/-- The split codes of LSPLIT (14_isa_vector.md R372). -/
def splitCode (s : BitVec 5) : Bool := s == 1 || s == 2

/-- The scope codes of BAR (13_isa_scalar.md R356). -/
def barScope (s : BitVec 5) : Bool := decide (s.toNat ≤ 2)

/-- The registers that a stream binds to (15_isa_vmem.md R392). -/
def streamReg (d : BitVec 5) : Bool := decide (24 ≤ d.toNat)

/-- The operand kinds of the outer products (16_isa_tile.md R405). -/
def outerKind (k : BitVec 3) : Bool := k == 0 || k == 3 || k == 4 || k == 5

/-- The operand kinds of TRDROW and TWRROW (16_isa_tile.md R405). -/
def rowKind (k : BitVec 3) : Bool := decide (1 ≤ k.toNat) && decide (k.toNat ≤ 4)

/-- The tags of D- and H-sketches (17_isa_summaries.md R418). -/
def sketchTag (t : BitVec 5) : Bool := (decide (2 ≤ t.toNat) && decide (t.toNat ≤ 0x0F)) || t == 0x12 || t == 0x13

/-- The tags of Q-sketches (17_isa_summaries.md R418). -/
def quantTag (t : BitVec 5) : Bool := t == 0x04 || t == 0x08 || t == 0x0B || t == 0x0C

/-- What SKHTOP selects (17_isa_summaries.md R429). -/
def topSelect (s : BitVec 2) : Bool := decide (s.toNat ≤ 2)

/-- RLD has no zero-extending 8-byte form (18_isa_fabric.md R435). -/
def loadSize (z : BitVec 1) (q : BitVec 2) : Bool := !(z == 1 && q == 3)

/-- The operations of RAMO; `syncadd` needs `.d` (18_isa_fabric.md R438). -/
def ramoOp (o : BitVec 4) (w : BitVec 1) : Bool := decide (o.toNat ≤ 10) && (o != 10 || w == 1)

/-- RCAS names an even register (18_isa_fabric.md R438). -/
def casPair (d : BitVec 5) : Bool := !d.getLsbD 0

/-- The operations of a folding COLLEND (18_isa_fabric.md R446). -/
def foldOp (o : BitVec 2) : Bool := o != 0

/-- The fields of an operation are ones it accepts (12_encoding.md R319). -/
def Instr.wellFormed : Instr → Bool
  | .addi _ _ _ => true
  | .andi _ _ _ => true
  | .ori _ _ _ => true
  | .xori _ _ _ => true
  | .slti _ _ _ => true
  | .sltiu _ _ _ => true
  | .slli _ _ _ => true
  | .srli _ _ _ => true
  | .srai _ _ _ => true
  | .add _ _ _ => true
  | .sub _ _ _ => true
  | .and _ _ _ => true
  | .or _ _ _ => true
  | .xor _ _ _ => true
  | .sll _ _ _ => true
  | .srl _ _ _ => true
  | .sra _ _ _ => true
  | .slt _ _ _ => true
  | .sltu _ _ _ => true
  | .mul _ _ _ => true
  | .mulh _ _ _ => true
  | .mulhu _ _ _ => true
  | .div _ _ _ => true
  | .divu _ _ _ => true
  | .rem _ _ _ => true
  | .remu _ _ _ => true
  | .min _ _ _ => true
  | .max _ _ _ => true
  | .minu _ _ _ => true
  | .maxu _ _ _ => true
  | .clz _ _ => true
  | .ctz _ _ => true
  | .popc _ _ => true
  | .mulmod _ _ _ => true
  | .lui _ _ => true
  | .auipc _ _ => true
  | .lb _ _ _ => true
  | .lh _ _ _ => true
  | .lw _ _ _ => true
  | .ld _ _ _ => true
  | .lbu _ _ _ => true
  | .lhu _ _ _ => true
  | .lwu _ _ _ => true
  | .sb _ _ _ => true
  | .sh _ _ _ => true
  | .sw _ _ _ => true
  | .sd _ _ _ => true
  | .beq _ _ _ => true
  | .bne _ _ _ => true
  | .blt _ _ _ => true
  | .bge _ _ _ => true
  | .bltu _ _ _ => true
  | .bgeu _ _ _ => true
  | .jal _ _ => true
  | .jalr _ _ _ => true
  | .fadd _ _ _ _ => true
  | .fsub _ _ _ _ => true
  | .fmul _ _ _ _ => true
  | .fdiv _ _ _ _ => true
  | .fsqrt _ _ _ => true
  | .fmin _ _ _ _ => true
  | .fmax _ _ _ _ => true
  | .fmac _ _ _ _ => true
  | .feq _ _ _ _ => true
  | .flt _ _ _ _ => true
  | .fle _ _ _ _ => true
  | .fclass _ _ _ => true
  | .fsgnj _ _ _ _ => true
  | .fsgnjn _ _ _ _ => true
  | .fsgnjx _ _ _ _ => true
  | .fcvtif _ _ _ s => cvtSource s
  | .fcvtfi _ _ _ s => cvtSource s
  | .fcvtff _ f _ s => cvtSource s && s.toNat != f.toNat
  | .ldfe _ _ => true
  | .ldff _ _ => true
  | .stef _ _ _ => true
  | .stf _ _ => true
  | .feclr _ => true
  | .fepeek _ _ => true
  | .amoadd _ _ _ _ => true
  | .amoand _ _ _ _ => true
  | .amoor _ _ _ _ => true
  | .amoxor _ _ _ _ => true
  | .amomin _ _ _ _ => true
  | .amomax _ _ _ _ => true
  | .amominu _ _ _ _ => true
  | .amomaxu _ _ _ _ => true
  | .amoswap _ _ _ _ => true
  | .cas _ _ _ _ => true
  | .amofadd _ _ _ _ => true
  | .fence s _ _ _ => fenceScope s
  | .rlx _ => true
  | .pglobal _ _ => true
  | .csrrw _ _ _ => true
  | .csrrs _ _ _ => true
  | .csrrc _ _ _ => true
  | .csrrwi _ _ _ => true
  | .csrrsi _ _ _ => true
  | .csrrci _ _ _ => true
  | .ecall => true
  | .ebreak => true
  | .sret => true
  | .mret => true
  | .waitmsg => true
  | .popmsg _ _ => true
  | .yield => true
  | .hdone => true
  | .bar s => barScope s
  | .launch _ _ => true
  | .sqpush _ _ => true
  | .tlbinv _ _ => true
  | .asidset _ _ => true
  | .setvli _ _ _ _ => true
  | .setvl _ _ _ => true
  | .lsplit _ _ s => splitCode s
  | .lmerge => true
  | .vtag _ t => !tagCodeReserved t
  | .vfmx _ _ => true
  | .pump _ _ _ _ _ => true
  | .pumpstop => true
  | .vadd _ k _ _ _ => kindAny k
  | .vsub _ k _ _ _ => kindAny k
  | .vmul _ k _ _ _ => kindAny k
  | .vmulh _ k _ _ _ => kindAny k
  | .vmadd _ k _ _ _ => kindVvVs k
  | .vnmsub _ k _ _ _ => kindVvVs k
  | .vdiv _ k _ _ _ => kindAny k
  | .vrem _ k _ _ _ => kindAny k
  | .vmin _ k _ _ _ => kindAny k
  | .vmax _ k _ _ _ => kindAny k
  | .vabs _ _ _ => true
  | .vneg _ _ _ => true
  | .vsqrt _ _ _ => true
  | .vand _ k _ _ _ => kindAny k
  | .vor _ k _ _ _ => kindAny k
  | .vxor _ k _ _ _ => kindAny k
  | .vsll _ k _ _ _ => kindAny k
  | .vsrl _ k _ _ _ => kindAny k
  | .vsra _ k _ _ _ => kindAny k
  | .vsadd _ k _ _ _ => kindAny k
  | .vssub _ k _ _ _ => kindAny k
  | .vcmpeq _ k _ _ _ => kindAny k
  | .vcmpne _ k _ _ _ => kindAny k
  | .vcmplt _ k _ _ _ => kindAny k
  | .vcmple _ k _ _ _ => kindAny k
  | .vcmpgt _ k _ _ _ => kindAny k
  | .vcmpge _ k _ _ _ => kindAny k
  | .mand _ _ _ _ => true
  | .mor _ _ _ _ => true
  | .mxor _ _ _ _ => true
  | .mandn _ _ _ _ => true
  | .mpopc _ _ _ => true
  | .mfirst _ _ _ => true
  | .miota _ _ _ => true
  | .vmv _ k a b _ => vmvFields k a b
  | .vmvx _ k _ _ => kindVsVi k
  | .vmvs _ _ => true
  | .vid _ _ => true
  | .vsel _ k _ _ => kindAny k
  | .vcompress _ _ => true
  | .vslideup _ k _ _ _ => kindVsVi k
  | .vslidedn _ k _ _ _ => kindVsVi k
  | .vperm _ _ _ _ => true
  | .vcvt _ _ t _ => cvtTarget t
  | .vqsf4 _ _ _ _ => true
  | .vredsum _ _ _ => true
  | .vredmax _ _ _ => true
  | .vredmin _ _ _ => true
  | .vreddot _ _ _ _ => true
  | .vexp2 _ _ _ => true
  | .vlog2 _ _ _ => true
  | .vrcp _ _ _ => true
  | .vrsqrt _ _ _ => true
  | .vtanh _ _ _ => true
  | .vsigm _ _ _ => true
  | .vmodadd _ k _ _ _ => kindAny k
  | .vmodsub _ k _ _ _ => kindAny k
  | .vmodmul _ k _ _ _ => kindAny k
  | .vmodred _ _ _ => true
  | .vbflyct _ k _ _ _ => kindVvVs k
  | .vbflygs _ k _ _ _ => kindVvVs k
  | .vld _ _ _ => true
  | .vlds _ _ _ _ => true
  | .vldx _ _ _ _ => true
  | .vfill _ _ => true
  | .vst _ _ _ => true
  | .vsts _ _ _ _ => true
  | .vstx _ _ _ _ => true
  | .vscadd _ _ _ _ => true
  | .vspill _ _ => true
  | .stbind d _ => streamReg d
  | .strbind d _ => streamReg d
  | .stfbind d _ => streamReg d
  | .stunbind d => streamReg d
  | .cpy _ _ _ => true
  | .syncarm _ _ _ => true
  | .syncwait _ _ _ => true
  | .opa _ k _ _ => outerKind k
  | .ops _ k _ _ => outerKind k
  | .opam _ k _ _ => outerKind k
  | .tzero _ => true
  | .tld _ _ _ => true
  | .tst _ _ _ => true
  | .trdrow _ k _ _ _ => rowKind k
  | .twrrow _ k _ _ _ => rowKind k
  | .tepi _ _ _ _ => true
  | .skinitD t _ => sketchTag t
  | .skinitH t _ => sketchTag t
  | .skinitQ t _ _ => quantTag t
  | .skqadd _ _ _ => true
  | .skhadd _ _ _ => true
  | .skhaddW _ _ _ _ => true
  | .skdadd _ _ _ => true
  | .skmerge _ _ => true
  | .skqq _ _ _ => true
  | .skhtop _ s _ _ => topSelect s
  | .skdcnt _ _ => true
  | .vclipq _ _ _ _ => true
  | .vscaleq _ _ _ _ => true
  | .rld _ z _ _ q => loadSize z q
  | .rst _ _ _ _ => true
  | .rstp _ _ _ _ => true
  | .ramo _ o _ _ w => ramoOp o w
  | .rcas d _ _ => casPair d
  | .send _ _ _ _ => true
  | .rnarrow _ _ _ _ _ => true
  | .rtld _ _ => true
  | .rtst _ _ => true
  | .rmov _ _ => true
  | .rrevoke _ => true
  | .rstm _ _ _ _ => true
  | .vstxr _ _ _ _ => true
  | .collbegin _ _ _ _ => true
  | .collend _ o _ _ => foldOp o
  | .collendExch _ _ => true
  | .collabort _ => true
  | .pwrgoodLow => true
  | .pwrgoodRise => true
  | .perstAssert => true
  | .perstDeassert => true
  | .identityPhase _ => true
  | .imagePhase _ => true
  | .diesPhase _ => true
  | .firmwarePhase _ => true
  | .storagePhase _ => true
  | .ready => true
  | .phaseTimeout => true
  | .minVersionRaise => true
  | .configRequest _ _ => true
  | .currentGovernorSample _ _ => true
  | .vcoreDroop _ => true
  | .thermalSample _ _ => true
  | .firmwareWatchdog => true
  | .patrolScrub _ _ => true
  | .pldmMonitor => true
  | .pldmFirmwareUpdate _ _ => true
  | .linkEnable _ _ => true
  | .linkTrained _ => true
  | .trainTimeout _ => true
  | .trainRetry _ _ => true
  | .authEstablished _ _ _ => true
  | .authFail _ => true
  | .authTimeout _ => true
  | .linkSignalLoss _ => true
  | .linkHeartbeatTimeout _ => true
  | .linkHeartbeatSend _ => true
  | .linkKeyUpdate _ => true
  | .linkDisable _ => true
  | .linkReenable _ => true
  | .frameSend _ => true
  | .frameReceive _ _ _ => true
  | .switchRequest _ => true
  | .switchReply _ => true
  | .multicastTimeout _ => true
  | .requestTimeout _ _ => true
  | .flitAge => true
  | .requestAdmission _ => true
  | .retry _ => true
  | .reinject _ => true
  | .backnote _ => true
  | .gapHalve _ _ _ => true
  | .peerEntryWrite _ _ _ => true
  | .ethFrameReceive _ _ _ => true
  | .ethReplayTimeout _ _ => true
  | .ethReauth _ _ => true
  | .keyInstall _ _ => true
  | .keyActivate _ => true
  | .keyRetire _ => true
  | .keyRotation => true
  | .wrapNotice _ => true
  | .revocationComplete _ => true
  | .linkMap _ _ => true
  | .idAssign _ _ => true
  | .leadDepart _ => true
  | .domainMerge _ => true
  | .mint _ => true
  | .mintm _ => true
  | .revoke _ => true
  | .openm _ => true
  | .query _ => true
  | .leafConfirm _ _ _ _ => true
  | .loadRequest _ => true
  | .storeRequest _ => true
  | .pstoreRequest _ => true
  | .atomicRequest _ => true
  | .casRequest _ => true
  | .sendRequest _ => true
  | .putRequest _ => true
  | .getRequest _ => true
  | .strdataRequest _ => true
  | .mstoreRequest _ => true
  | .atomicRetransmit _ _ => true
  | .dataReply _ => true
  | .ackReply _ => true
  | .errorReply _ => true
  | .mackReply _ => true
  | .faultRecord _ => true
  | .nvmeCompletion _ _ _ => true
  | .busyRangeClear _ => true
  | .nvmeTimeout _ _ => true
  | .controllerReadyTimeout _ => true
  | .driveInboundRequest _ _ _ => true
  | .writeback _ => true
  | .prefetch _ => true
  | .trim _ => true
  | .flush _ => true
  | .slotset _ => true
  | .slotclr _ => true
  | .resume _ => true
  | .siphonMessageDeliver _ => true
  | .tailWrite _ _ => true
  | .cplheadWrite _ _ => true
  | .ringConfigWrite _ _ _ _ => true
  | .registerWrite _ _ _ _ => true
  | .configSpaceChange _ => true
  | .functionLevelReset _ => true
  | .ideError _ => true
  | .ringEntry _ _ _ => true
  | .dmaError _ => true
  | .completionWrite _ => true
  | .scrubComplete _ => true
  | .lockInterfaceRequest _ _ => true
  | .startInterfaceRequest _ _ _ => true
  | .stopInterfaceRequest _ _ => true
  | .getDeviceInterfaceState _ _ => true
  | .getDeviceInterfaceReport _ _ => true
  | .keyExchange _ _ => true
  | .endSession _ => true
  | .keyUpdate _ _ _ => true
  | .heartbeat _ _ => true
  | .sessionTimeout _ => true
  | .getMeasurements _ _ _ => true
  | .getCertificate _ _ => true
  | .challenge _ _ => true
  | .keyProg _ _ _ _ => true
  | .kSetGo _ _ _ => true
  | .kSetStop _ _ _ => true
  | .enclParam _ _ _ _ _ => true
  | .enclQuery _ _ => true
  | .launchValidate _ => true
  | .placeLaunch _ _ => true
  | .resumeLaunch _ => true
  | .priorityPreempt _ _ _ => true
  | .enclaveSwitch _ _ => true
  | .launchComplete _ => true
  | .chargeDecay _ => true
  | .chargeReport _ => true
  | .sluiceChargeDecay => true
  | .stripEnd _ _ => true
  | .pumpRepetition _ _ => true
  | .streamFetch _ _ _ _ => true
  | .copyPacket _ => true
  | .weirApply _ => true
  | .collAbortSend _ _ _ => true
  | .timecmpReached _ _ => true
  | .interruptTake _ _ => true
  | .deferredTrap _ _ => true
  | .signalDetect _ => true
  | .routerCycle => true
  | .injectionGapPassed _ _ _ => true
  | .controllerReady _ => true
  | .installAck _ _ => true
  | .leafConfirmationReceived _ _ _ _ => true
  | .coreReset _ => true
  | .illegalWord _ => true

end Sys2Proof
end

