-- ==== Sys2Proof/Machine/Operands.lean ====
section
/-! DEFINITION. Operand forms of the vector instructions: register groups, operand kinds, the mask, the checks common to all of them, and
the writing of results (14_isa_vector.md R361 to R368, 12_encoding.md R316, R328). -/

set_option Elab.async false

namespace Sys2Proof.Machine

/-! ## Strip state -/

/-- VL. -/
def State.vl (s : State) : Nat := s.h.csr.vl.toNat
/-- VSTART. -/
def State.vstart (s : State) : Nat := s.h.csr.vstart.toNat
/-- VLENB. -/
def State.vlenb (s : State) : Nat := s.h.csr.vlenb.toNat
/-- VTYPE.TAG. -/
def State.vtag (s : State) : Nat := fldN s.h.csr.vtype 0 5
/-- The group multiplier m. -/
def State.gmul (s : State) : Nat := 2 ^ fldN s.h.csr.vtype 5 2
/-- VTYPE.TAG names no format: the next instruction that creates under it raises ILLEGAL (12_encoding.md R317). -/
def State.vtagBad (s : State) : Bool := s.vtag == tNone || tagReserved s.vtag
/-- The declared count (07_core.md R181). -/
def State.declared (s : State) : Nat := nregCount s.h.csr.declared
/-- q = MODQ.Q. -/
def State.q (s : State) : Nat := fldN s.h.csr.modq 0 62
/-- Q is even or below 3 (11_arithmetic.md R299). -/
def State.qBad (s : State) : Bool := decide (s.q % 2 = 0) || decide (s.q < 3)

/-- A vector register. -/
def State.vreg (s : State) (n : Nat) : VReg := s.h.vec.v.toList.getD n VReg.none

/-- The least power of two at or above a number, 16 above 8. -/
def powCeil (n : Nat) : Nat := if n ≤ 1 then 1 else if n ≤ 2 then 2 else if n ≤ 4 then 4 else if n ≤ 8 then 8 else 16

/-- G of R363 for elements of `w` bits; a MASK group is one register. -/
def State.group (s : State) (w : Nat) : Nat :=
  if w = 1 then 1 else max s.gmul (powCeil ((s.vl * w + (8 * s.vlenb - 1)) / (8 * s.vlenb)))

/-- The strip does not fit a mask register. -/
def State.maskTooLong (s : State) : Bool := decide (8 * s.vlenb < s.vl)

/-- A group of `w`-bit elements at register `n` breaks R363. -/
def State.groupBad (s : State) (n w : Nat) : Bool :=
  let g := s.group w
  if w = 1 then decide (s.declared ≤ n) || s.maskTooLong
  else decide (8 < g) || decide (n % g ≠ 0) || decide (s.declared < n + g)

/-! ## Operands -/

/-- A vector operand: its register, its tag, and 1 or 2 when it is bound to a memory stream or a ring. -/
structure Oper where
  reg : Nat
  tag : Nat
  kind : Nat
deriving DecidableEq, Repr

/-- The operand that a vector field names. -/
def State.oper (s : State) (r : Reg) : Oper :=
  let b := s.h.binding r.toNat
  if b.kind = 1 || b.kind = 2 then ⟨r.toNat, b.otag.toNat, b.kind.toNat⟩ else ⟨r.toNat, (s.vreg r.toNat).tag.toNat, 0⟩

/-- Width of an operand that reads as tag `p` where it is NONE. -/
def Oper.width (o : Oper) (p : Nat) : Nat := tagWidth (if o.tag = tNone then p else o.tag)

/-- Registers that an operand occupies; an SF4 operand has its scale group behind its codes. -/
def State.span (s : State) (o : Oper) (p : Nat) : Nat :=
  let g := s.group (o.width p)
  if o.tag = tSF4 then 2 * g else g

/-- The group checks of R363 and R298 for an operand. -/
def State.operBad (s : State) (o : Oper) (p : Nat) : Bool :=
  s.groupBad o.reg (o.width p) || (o.tag == tSF4 && decide (s.declared < o.reg + s.span o p))

/-- The registers of a group carry one tag (14_isa_vector.md R364). -/
def State.uniform (s : State) (o : Oper) (p : Nat) : Bool :=
  o.kind != 0 || (List.range (s.group (o.width p))).all fun j => (s.vreg (o.reg + j)).tag.toNat == o.tag

/-- The bytes of `g` registers from `n` on; a register tagged NONE holds zero (07_core.md R184). -/
def State.regBits (s : State) (n : Nat) : Nat → Nat
  | 0 => 0
  | g + 1 =>
    let v := s.vreg n
    (if v.tag = 0 then 0 else v.bits) + 2 ^ (8 * s.vlenb) * s.regBits (n + 1) g

/-- Elements of an operand: its strip, or its registers. -/
def State.load (s : State) (o : Oper) (p : Nat) : Got :=
  if o.kind = 1 then s.memStrip (o.reg - 24) (s.h.binding o.reg) s.vl
  else if o.kind = 2 then s.ringStrip (s.h.binding o.reg)
  else if o.tag = tNone then .src Src.zero
  else
    let g := s.group (o.width p)
    .src ⟨o.tag, s.regBits o.reg g, if o.tag = tSF4 then s.regBits (o.reg + g) g else 0, bandOne, none⟩

/-- The scale group of an SF4 operand carries another tag than E3M5 or NONE (11_arithmetic.md R298). -/
def State.scalesBad (s : State) (o : Oper) (p : Nat) : Bool :=
  o.kind == 0 && o.tag == tSF4 &&
    let g := s.group (o.width p)
    !(List.range g).all fun j =>
      let t := (s.vreg (o.reg + g + j)).tag.toNat
      t == tE3M5 || t == tNone

/-- Load a list of operands. -/
def State.loadAll (s : State) (p : Nat) : List Oper → (List Src → Res) → Res
  | [], k => k []
  | o :: r, k => match s.load o p with
    | .stop z => z
    | .src x => s.loadAll p r fun xs => k (x :: xs)

/-- The tag a scalar or immediate operand is read in (14_isa_vector.md R365). -/
def State.scalarTag (s : State) (a : Oper) : Nat := if a.tag = tNone then s.vtag else a.tag

/-- An exact value has a code in a floating tag. -/
def exactCode (t : Nat) (v : FVal) : Option Nat :=
  let z := fRound t rne 0 v
  if z.2 = 0 then some z.1 else none

/-- The immediate of `.vi` in a tag; none when the tag cannot hold it exactly (14_isa_vector.md R365). -/
def viCode (q t : Nat) (imm : Reg) : Option Nat :=
  let z := sextNat 5 imm.toNat
  if t = tZ64 then some (z % (q : Int)).toNat
  else if tagFloat t then exactCode t (.ofInt z)
  else if tagSigned t then some (truncInt (tagWidth t) z)
  else if tagUnsigned t || t = tMask then (if 0 ≤ z && z < 2 ^ tagWidth t then some z.toNat else none)
  else none

/-- The second operand. -/
inductive Second
  | none
  | vec (o : Oper)
  | code (t c : Nat)
  | bad
deriving DecidableEq, Repr

/-- The second operand that the operand kind supplies (14_isa_vector.md R365); `xb` is the scalar register's value. -/
def State.second (s : State) (k : BitVec 3) (a : Oper) (b : Reg) (xb : Word) : Second :=
  let t := s.scalarTag a
  match k.toNat with
  | 0 => .vec (s.oper b)
  | 1 => .code t (xb.toNat % 2 ^ tagWidth t)
  | _ => match viCode s.q t b with
    | some c => .code t c
    | Option.none => .bad

/-- Promoted tag of operand tags, NONE operands aside (11_arithmetic.md R306). -/
def promoteAll (optag : Nat) (ts : List Nat) : Option Nat :=
  match ts.filter (· != tNone) with
  | [] => some optag
  | t :: r => r.foldl (fun acc u => acc.bind fun a => promote optag a u) (some t)

/-! ## Activity -/

/-- Bit `i` of v0 read as MASK. -/
def State.maskBit (s : State) (i : Nat) : Bool :=
  let v := s.vreg 0
  v.tag != 0 && v.bits.testBit i

/-- Active(i) of R328 for an instruction that does not run under FM. -/
def State.active (s : State) (m : Bool) (i : Nat) : Bool := decide (s.vstart ≤ i) && decide (i < s.vl) && (!m || s.maskBit i)

/-! ## Checks -/

/-- Two register ranges meet. -/
def meets (a n b m : Nat) : Bool := decide (a < b + m) && decide (b < a + n)

/-- The checks on vector state of an instruction with a destination (12_encoding.md R316; 14_isa_vector.md R363, R366): `dw` is the result
width, `dspan` the destination's registers, `whole` an instruction that may not start inside nor overlap. -/
def State.groupsIllegal (s : State) (m : Bool) (d dw : Nat) (pair : Bool) (srcs : List Oper) (p : Nat) (whole : Bool) : Bool :=
  let g := s.group dw
  let span := if pair then 2 * g else g
  (m && s.maskTooLong) || srcs.any (s.operBad · p) || s.groupBad d dw || (pair && decide (s.declared < d + span)) ||
    (m && decide (d = 0) && decide (dw ≠ 1)) ||
    srcs.any (fun o => o.kind == 0 && meets d span o.reg (s.span o p) && (whole || decide (d ≠ o.reg) || decide (o.width p ≠ dw))) ||
    (whole && decide (s.vstart ≠ 0))

/-- The destination is bound to a memory stream or a ring (15_isa_vmem.md R397). -/
def State.boundDest (s : State) (d : Nat) : Bool :=
  let k := (s.h.binding d).kind
  k == 1 || k == 2

/-- What a bound destination forbids for results of `w` bits: a memory or ring binding, or a strip of another size (R396, R397). -/
def State.destStop (s : State) (d w : Nat) : Option Res :=
  let b := s.h.binding d
  if s.boundDest d then some s.stream else if b.kind = 3 then s.strip? b w else Option.none

/-! ## Results -/

/-- Raise a deferred trap: VSTART names the element, and the trap is taken at the hart's next visit (10_traps.md R275). -/
def State.defer (s : State) (i : Nat) (t : Trap) : State :=
  { s with h := { s.h with deferred := some t, csr := { s.h.csr with vstart := BitVec.ofNat 22 i } } }

/-- Write the registers of a group: tag, bytes, VDIRTY, VS (14_isa_vector.md R364, 10_traps.md R276, R278). -/
def State.setGroup (s : State) (n g t bits : Nat) : State :=
  let b := 8 * s.vlenb
  let v := Vector.ofFn fun i : Fin 32 =>
    if n ≤ i.val ∧ i.val < n + g then (⟨BitVec.ofNat 5 t, bits / 2 ^ (b * (i.val - n)) % 2 ^ b⟩ : VReg) else s.h.vec.v.get i
  let dirty : BitVec 32 := s.h.csr.vdirty ||| BitVec.ofNat 32 ((2 ^ g - 1) * 2 ^ n)
  { s with h := { s.h with vec := { s.h.vec with v := v }, csr := { s.h.csr with vdirty := dirty }.vsDirty } }

/-- Elements `i` to `i + n - 1` of a result of `w` bits: the new code where active, the old one elsewhere; with the flags, and whether
any element was performed. -/
def buildElems (w : Nat) (act : Nat → Bool) (old : Nat) (f : Nat → Nat × Flg) : Nat → Nat → Nat × Flg × Bool
  | 0, _ => (0, 0, false)
  | n + 1, i =>
    let (r, fl, any) := buildElems w act old f n (i + 1)
    if act i then
      let (z, g) := f i
      (z % 2 ^ w + 2 ^ w * r, g ||| fl, true)
    else (old / 2 ^ (w * i) % 2 ^ w + 2 ^ w * r, fl, any)

/-- Replace elements `lo` to `hi - 1`. -/
def spliceElems (w lo hi old mid : Nat) : Nat :=
  old % 2 ^ (w * lo) + 2 ^ (w * lo) * (mid + 2 ^ (w * (hi - lo)) * (old / 2 ^ (w * hi)))

/-- Elements of `w` bits in an element group of the hart (07_core.md R178). -/
def State.perGroup (s : State) (w : Nat) : Nat := 32 / s.c.split * 64 / max 1 w

/-- The charge of elements `lo` to `hi - 1` of a strip: the element groups of the wider side that they reach, each for its cycles, on the lanes of the
hart's share (06_execution.md R151, 07_core.md R178, R179). -/
def State.chargeRange (s : State) (w cycles lo hi : Nat) : State :=
  let e := s.perGroup w
  s.charge (((hi + e - 1) / e - lo / e) * cycles * (32 / s.c.split))

/-- The charge of the first `n` elements of a strip. -/
def State.chargeStrip (s : State) (w cycles n : Nat) : State := s.chargeRange w cycles 0 n

/-- The charge of single elements: the element groups that hold them. -/
def State.chargeEls (s : State) (w : Nat) (els : List Nat) : State :=
  s.charge ((els.map (· / s.perGroup w)).dedup.length * (32 / s.c.split))

/-- Where a strip that runs from VSTART stops before its end: at the boundary of an element group that the schedule chooses (10_traps.md R280). -/
def State.cutPoint (s : State) (w n : Nat) : Option Nat :=
  match s.cutNow with
  | none => none
  | some k =>
    let p := (s.vstart / s.perGroup w + max 1 k) * s.perGroup w
    if p < n then some p else none

/-- An instruction has completed: VSTART is 0, its strips are consumed, CNT counts it when it rounded under SR. -/
def State.vdone (s : State) (srcs : List Oper) (rounds : Bool) : State :=
  let s1 := (srcs.map Oper.reg).dedup.foldl State.consume s
  let s2 := { s1 with h := { s1.h with csr := { s1.h.csr with vstart := 0 } } }
  if rounds then s2.countSr else s2

/-- The lowest failed element of the sources. -/
def earliest (xs : List (Option (Nat × Trap))) : Option (Nat × Trap) :=
  xs.foldl (fun acc x => match acc, x with
    | some a, some b => if b.1 < a.1 then some b else some a
    | Option.none, y => y
    | y, Option.none => y) Option.none

/-- An element-wise instruction writes its result (14_isa_vector.md R364, R367): `f` gives element `i` and its flags. A strip that fails
at an element stops the instruction there (10_traps.md R275). -/
def State.writeElems (s : State) (m : Bool) (d t : Nat) (srcs : List Oper) (bad : Option (Nat × Trap)) (rounds : Bool) (cycles wide : Nat)
    (f : Nat → Nat × Flg) : Res :=
  if s.vl ≤ s.vstart then .ok { s with h := { s.h with csr := { s.h.csr with vstart := 0 } } }
  else
    let w := tagWidth t
    let g := s.group w
    let lo := s.vstart
    let stop := bad.filter fun b => decide (lo ≤ b.1) && decide (b.1 < s.vl)
    let hi := match stop with
      | some b => b.1
      | Option.none => s.vl
    let old := s.regBits d g
    let (mid, fl, any) := buildElems w (s.active m) old f (hi - lo) lo
    let bits := spliceElems w lo hi old mid
    let s1 := ((if any then s.setGroup d g t bits else s).accrue fl).chargeRange wide cycles lo hi
    let b := s.h.binding d
    let s2 := if b.kind = 3 then s1.sendStrip b bits (lo * w / 8) (hi * w / 8) else s1
    match stop with
    | some x => .ok (s2.defer x.1 x.2)
    | Option.none =>
      let s3 := if b.kind = 3 then { s2 with h := s2.h.setBinding d { b with nsseq := b.nsseq + 1 } } else s2
      .ok (s3.vdone srcs rounds)

/-- `writeElems` for an instruction that may stop between element groups (10_traps.md R280): where it does, the elements before that are performed, VSTART
names the next one, and the instruction has not completed. -/
def State.writeCut (s : State) (m : Bool) (d t : Nat) (srcs : List Oper) (bad : Option (Nat × Trap)) (rounds : Bool) (cycles wide : Nat)
    (f : Nat → Nat × Flg) : Res :=
  match s.cutPoint wide s.vl with
  | none => s.writeElems m d t srcs bad rounds cycles wide f
  | some p =>
    if bad.any fun b => decide (b.1 < p) then s.writeElems m d t srcs bad rounds cycles wide f
    else match ({ s with h := { s.h with csr := { s.h.csr with vl := BitVec.ofNat 22 p } } } : State).writeElems m d t [] Option.none false cycles wide f with
      | .ok u =>
        let h := u.h.setBinding d (s.h.binding d)
        .wait { u with h := { h with csr := { h.csr with vl := s.h.csr.vl, vstart := BitVec.ofNat 22 p } } }
      | r => r

/-! ## Element-wise instructions -/

/-- Operands in the promoted tag `p`: element `i` of each source, exactly. -/
def promoted (q p : Nat) (xs : List Src) (i : Nat) : List Nat := xs.map fun x => promoteElem q x.tag p (x.get i)

/-- An element-wise instruction on promoted operands. `allowed` are the promoted tags it accepts, `result` its result tag,
`f` an element in the promoted tag. -/
structure Elementwise where
  allowed : Nat → Bool
  result : Nat → Nat
  rounds : Nat → Bool
  cycles : Nat
  f : Nat → Rnd → Nat → Nat → List Nat → Nat × Flg

/-- A source of one code for every element. -/
def Src.const (t c n : Nat) : Src := ⟨t, packCodes (tagWidth t) (List.replicate n c), 0, bandOne, none⟩

/-- Run an element-wise instruction with vector sources `a`, the second operand, and `d` as a third source when `third`
(14_isa_vector.md R365 to R367, R376). -/
def State.elementwise (s : State) (e : Elementwise) (m : Bool) (d : Reg) (third : Bool) (a : Oper) (snd : Second) : Res :=
  let dop := s.oper d
  let vecs := [a] ++ (match snd with
    | .vec o => [o]
    | _ => [])
  let srcs := vecs ++ (if third then [dop] else [])
  let ts := srcs.map Oper.tag ++ (match snd with
    | .code t _ => [t]
    | .bad => [s.scalarTag a]
    | _ => [])
  let p := promoteAll s.vtag ts
  let pw := p.getD s.vtag
  let rt := e.result pw
  if srcs.any (s.operBad · pw) then s.illegal
  else match p with
    | Option.none => .trap (s.trapWord causeTagmix) s
    | some p =>
      if p = tNone || tagReserved p then s.illegal
      else if s.groupsIllegal m d.toNat (tagWidth rt) false vecs p false then s.illegal
      else if !srcs.all (s.uniform · p) || !e.allowed p || snd == .bad then .trap (s.trapWord causeTagmix) s
      else if p = tZ64 && s.qBad then s.illegal
      else match s.destStop d.toNat (tagWidth rt) with
        | some r => r
        | Option.none => s.loadAll p srcs fun xs =>
          let ys := match snd, xs with
            | .code t c, x :: r => x :: Src.const t c s.vl :: r
            | _, _ => xs
          s.writeCut m d.toNat rt srcs (earliest (xs.map Src.bad)) (e.rounds p) e.cycles (max (tagWidth rt) (max (tagWidth p) ((srcs.map (Oper.width · p)).foldl max 0)))
            fun i => e.f p s.rnd s.q i (promoted s.q p ys i)

/-! ## Issue of vector instructions -/

/-- The checks before any vector state: the word, the kind of hart, and VFIRST (14_isa_vector.md R361, 10_traps.md R277). -/
def State.vecGate (s : State) (legal : Bool) (k : Res) : Res :=
  if !legal || !s.h.vthread then s.illegal
  else if s.h.csr.vs = 0 then .trap (s.trapWord causeVfirst) s
  else k

/-- Registers that a queued or captured word may write or read: windows around its fields, and the mask. -/
def touched (w : IWord) : List (Nat × Nat) := [(fldN w 7 5, 16), (fldN w 15 5, 16), (fldN w 20 5, 16), (0, 1)]

/-- Registers that a waiting instruction may write: its VD and VA groups, over the whole wrap window while the Pump steps them. -/
def pendingWrites (p : Pump) (e : VqEntry) (pumped : Bool) : List (Nat × Nat) :=
  let win := if pumped then 2 ^ (p.wrap.toNat + 2) else 1
  let f (lo : Nat) (bit : Nat) : Nat × Nat :=
    let n := fldN e.word lo 5
    if pumped && p.smask.getLsbD bit then (n / win * win, win + 16) else (n, 16)
  [f 7 0, f 15 1]

/-- The instruction depends on a register that a waiting instruction may write: its checks cannot be made yet. -/
def State.vecHazard (s : State) : Bool :=
  let v := s.h.vec
  let ws := v.pump.words.flatMap (pendingWrites v.pump · true) ++ v.vq.flatMap (pendingWrites v.pump · false)
  ws.any fun a => (touched s.h.word).any fun b => meets a.1 a.2 b.1 b.2

/-- The kinds of binding that the vector fields of the word being issued name. -/
def State.boundKinds (s : State) : List Nat :=
  ([fldN s.h.word 7 5, fldN s.h.word 15 5, fldN s.h.word 20 5].map fun r => (s.h.binding r).kind.toNat).filter (· ≠ 0)

/-- The number of the tier of a strip that the word being issued sends: `.pkg` through a route with HC 0, else `.dom` (09_ordering.md R241). -/
def State.stripTier (s : State) : Option Nat :=
  let b := s.h.binding (fldN s.h.word 7 5)
  if b.kind = 3 then some (if (s.rt b.rtreg).hc = 0 then 4 else 5) else none

/-- The entry of the word being issued, with the accesses that were checked. -/
def State.entryNow (s : State) (xa xb : Word) (spots : Option (List (Nat × List Spot))) (wr : Bool) : VqEntry :=
  let tiers := (spots.getD []).flatMap fun e => e.2.map fun p => (s.tierOf p.va p.loc).num
  ⟨s.h.word, s.h.csr.vtype, s.h.csr.vl, xa, xb, spots, wr, tiers.dedup, !s.boundKinds.isEmpty, s.stripTier, s.h.vec.vqNext⟩

/-- Put an entry into the vector queue. -/
def State.enqueueVec (s : State) (e : VqEntry) : State := { s with h := { s.h with vec := { s.h.vec with vq := s.h.vec.vq ++ [e], vqNext := s.h.vec.vqNext + 1 } } }

/-- The state in which the checks of an instruction that will wait are made: VSTART belongs to what waits before it (10_traps.md R285). -/
def State.asQueued (s : State) : State := if s.vecBusy then { s with h := { s.h with csr := { s.h.csr with vstart := 0 } } } else s

/-- An instruction that reads or writes a stream waits for the outstanding marked accesses, as vector accesses do (09_ordering.md R249, R252). -/
def State.streamWaits (s : State) (k : State → Res) : Res := if s.boundKinds.isEmpty then k s else s.unmarked k

/-- Issue a vector instruction that may wait in the vector queue: where others wait, the Pump replays, or the schedule has it wait, it enters the queue once
its checks have passed; one whose checks depend on a waiting instruction, or that finds the queue full, does not issue yet
(07_core.md R175, R190). -/
def State.vecIssue (s : State) (legal : Bool) (xa xb : Word) (run : State → Res) : Res :=
  s.vecGate legal (s.streamWaits fun s =>
    if !s.vecLater then run s
    else if 8 ≤ s.h.vec.vq.length || s.vecHazard then .wait s
    else match run s.asQueued with
      | .trap t _ => .trap t s
      | .wait _ => .wait s
      | .ok _ => .ok (s.enqueueVec (s.entryNow xa xb none false)))

/-- Issue a vector instruction that starts only when no vector instruction of the hart waits. -/
def State.vecHold (s : State) (legal : Bool) (run : State → Res) : Res := s.vecGate legal (if s.vecBusy then .wait s else run s)

end Sys2Proof.Machine
end

