-- ==== Sys2Proof/Machine/Launch.lean ====
section
/-! DEFINITION. The state in which a hart begins (06_execution.md R142 to R146; 03_routes.md R79). -/

set_option Elab.async false

namespace Sys2Proof.Machine

/-- Harts of a launch: H of R142. -/
def launchHarts (ws : List Word) : Nat := shapeClusters ws * shapeCores ws * shapeHarts ws

/-- First element and element count of rank `k` (06_execution.md R144). -/
def elementRange (n h k : Nat) : Nat × Nat :=
  let b := (n + 63) / 64
  let q := b / h
  let e := b % h
  let blocks := if k < e then q + 1 else q
  let first := 64 * (k * q + min k e)
  (min first n, min (64 * blocks) (n - first))

/-- The number of the slot in state CURRENT (03_routes.md R71). -/
def State.currentSlot (s : State) : Option (Fin 16) := (List.finRange 16).find? fun i => (s.fab.slots.get i).state == .current

/-- Seal a route under a key slot. -/
def State.sealUnder (s : State) (i : Fin 16) (r : RouteVal) : RouteVal :=
  let r' := { r with w2 := putFld r.w2 52 4 i.val }
  { r' with w3 := sealTag (s.fab.slots.get i).key r' }

/-- The service route of an enclave: KIND 10, TKIND 3, right SN, a window of one request (03_routes.md R79). With no CURRENT slot it stays unsealed. -/
def State.serviceRoute (s : State) : RouteVal :=
  let r : RouteVal := ⟨BitVec.ofNat 64 (2 * 2 ^ 54), BitVec.ofNat 64 (3 * 2 ^ 60), BitVec.ofNat 64 (64 + 8 * 2 ^ 32 + s.fab.wellEg.toNat * 2 ^ 36), 0⟩
  match s.currentSlot with
  | none => r
  | some i => s.sealUnder i r

/-- Index of a core among the launch's cores of its cluster (06_execution.md R142). -/
def coreIndexIn (cores : List Nat) (core : Nat) : Nat := (cores.filter fun c => c / 128 == core / 128 && decide (c < core)).length

/-- Index of a core's cluster among the launch's clusters. -/
def clusterIndexIn (cores : List Nat) (core : Nat) : Nat :=
  ((cores.filter fun c => decide (c / 128 < core / 128)).map (· / 128)).dedup.length

/-- A table of the first 16 private registers at entry. -/
def entryRegs (ws : List Word) (id : BitVec 32) (rank : Nat) : Vector Word 16 :=
  let (p1, p2) := elementRange (fldN (pktWord ws 5) 0 48) (launchHarts ws) rank
  let top := BitVec.ofNat 64 (ownBase + shapeOwn ws)
  Vector.ofFn fun i : Fin 16 => match i.val with
    | 1 => BitVec.ofNat 64 p1
    | 2 => BitVec.ofNat 64 p2
    | 3 => pktWord ws 0
    | 4 => pktWord ws 1
    | 5 => pktWord ws 2
    | 6 => pktWord ws 3
    | 7 => id.setWidth 64
    | 8 => BitVec.ofNat 64 rank
    | 14 => top
    | _ => 0

/-- The control registers at entry (06_execution.md R145); SATP as the ASID table gives it. -/
def entryCsrs (ws : List Word) (stvec satp : Word) : Csrs :=
  { Csrs.reset with
    nreg := BitVec.ofNat 2 (fldN (pktWord ws 6) 17 2), declared := BitVec.ofNat 2 (fldN (pktWord ws 6) 17 2)
    vlcap := BitVec.ofNat 4 (fldN (pktWord ws 6) 19 4), sstatus := BitVec.ofNat 7 (1 * 2 ^ 5), stvec := stvec, satp := satp }

/-- The launch slot that an allotment takes (06_execution.md R139). -/
def launchSlot (first : BitVec 3) (allot : Nat) : Bool := first == 4 && allot == 4

/-- MTVEC of a new hart: the monitor's vector, a free value, once the monitor is loaded (01_package.md R18); before that its reset value. -/
def State.entryMtvec (s : State) : Word := if s.pkg.measured then Config.monitorVector &&& 0x0000FFFFFFFFFFFD#64 else 0

/-- A hart at launch entry (06_execution.md R145): in-core rank `h` on `core`. -/
def State.entryHart (s : State) (l : Launch) (core h : Nat) (stvec : Word) : Hart :=
  let ws := l.words
  let rank := (clusterIndexIn l.cores core * shapeCores ws + coreIndexIn l.cores core) * shapeHarts ws + h
  { Hart.reset with
    core := core, slot := l.firstSlot + BitVec.ofNat 3 h, lslot := launchSlot l.firstSlot l.allot, launch := l.id, rank := BitVec.ofNat 48 rank
    vthread := decide (h < shapeVthreads ws), vindex := h, run := .ready, seated := true, level := .user
    pc := BitVec.ofNat 64 (fldN (pktWord ws 4) 0 48), p := entryRegs ws l.id rank
    rt := (Vector.replicate 8 RouteVal.zero).set 7 s.serviceRoute
    csr := { entryCsrs ws stvec (s.satpOf (fldN (pktWord ws 4) 48 16)) with mtvec := s.entryMtvec } }

/-- The core-shared bank at entry: harts of the core group, index of the core in its cluster group, zeros. -/
def entryBank (l : Launch) (core : Nat) : Vector Word 16 :=
  Vector.ofFn fun i : Fin 16 => if i.val = 0 then BitVec.ofNat 64 (shapeHarts l.words) else if i.val = 1 then BitVec.ofNat 64 (coreIndexIn l.cores core) else 0

end Sys2Proof.Machine
end

