-- ==== Sys2Proof/Machine/VecCfg.lean ====
section
/-! DEFINITION. Vector configuration and the Pump instructions (14_isa_vector.md R369 to R375; 06_execution.md R166, R167). -/

set_option Elab.async false

namespace Sys2Proof.Machine

/-- The register length that a SETVL issued now fixes (06_execution.md R140): VLCAP and the share of the vector file. -/
def State.newVlenb (s : State) : Nat := min (2 ^ (s.h.csr.vlcap.toNat + 6)) (262144 / (s.c.split * nregCount s.h.csr.nreg))

/-- Width that fixes VLMAX: 64 for NONE or a reserved code (14_isa_vector.md R369). -/
def maxWidth (t : Nat) : Nat := if tagWidth t = 0 then 64 else tagWidth t

/-- VLMAX of a VTYPE value at a register length (14_isa_vector.md R369). -/
def vlmax (vlenb vt : Nat) : Nat := vlenb * 8 * 2 ^ (vt / 32 % 4) / maxWidth (vt % 32)

/-- Every vector register is discarded: tags NONE, VDIRTY 0 (07_core.md R183), and VS becomes Initial (10_traps.md R276). -/
def Hart.discardVregs (h : Hart) : Hart :=
  { h with vec := { h.vec with v := h.vec.v.map fun r => { r with tag := 0 } }
           csr := (if h.csr.vs = 0 then h.csr else h.csr.setVs 1) |> fun c => { c with vdirty := 0 } }

/-- Registers at and above a reduced declared count become NONE. -/
def Hart.dropAbove (h : Hart) (n : Nat) : Hart :=
  { h with vec := { h.vec with v := Vector.ofFn fun i : Fin 32 => if n ≤ i.val then { h.vec.v.get i with tag := 0 } else h.vec.v.get i }
           csr := { h.csr with vdirty := h.csr.vdirty &&& BitVec.ofNat 32 (2 ^ n - 1) } }

/-- SETVL and SETVLI (14_isa_vector.md R369): `avl` is none for VLMAX. -/
def State.setvl (s : State) (d : Reg) (avl : Option Nat) (vt : BitVec 7) : Res :=
  let nl := s.newVlenb
  let change := decide (nl ≠ s.vlenb)
  if change && s.h.vec.pump.state = 3 then s.illegal
  else
    let h1 := if change then s.h.discardVregs else s.h.dropAbove (nregCount s.h.csr.nreg)
    let vm := vlmax nl vt.toNat
    let vl := min (avl.getD vm) vm
    let csr := { h1.csr with vlenb := BitVec.ofNat 64 nl, declared := h1.csr.nreg, vtype := vt, vl := BitVec.ofNat 22 vl, vstart := 0 }
    .ok (({ s with h := { h1 with csr := csr } } : State).setX d (BitVec.ofNat 64 vl))

/-- The element count asked for: none for VLMAX, when the RA field is 0. -/
def State.avl (s : State) (a : Reg) : Option Nat := if a = 0 then none else some (s.x a).toNat

/-- SETVLI (14_isa_vector.md R369). -/
def execSetvli (d a t : Reg) (g : BitVec 2) (s : State) : Host.Outcome State Fault Refusal :=
  finish (s.vecHold true fun s => s.setvl d (s.avl a) (g ++ t))

/-- SETVL (14_isa_vector.md R369). -/
def execSetvl (d a b : Reg) (s : State) : Host.Outcome State Fault Refusal :=
  finish (s.vecHold true fun s => s.setvl d (s.avl a) ((s.x b).setWidth 7))

/-- VFMX (14_isa_vector.md R370). -/
def execVfmx (d b : Reg) (s : State) : Host.Outcome State Fault Refusal :=
  let vt := fldN (s.x b) 0 7
  finish (s.vecGate true (.ok (s.setX d (if tagReserved (vt % 32) then 0 else BitVec.ofNat 64 (vlmax s.newVlenb vt)))))

/-- Registers of a group made NONE, with their VDIRTY bits cleared. -/
def State.killGroup (s : State) (n g : Nat) : State :=
  { s with h := { s.h with
      vec := { s.h.vec with v := Vector.ofFn fun i : Fin 32 => if n ≤ i.val ∧ i.val < n + g then { s.h.vec.v.get i with tag := 0 } else s.h.vec.v.get i }
      csr := { s.h.csr with vdirty := s.h.csr.vdirty &&& ~~~(BitVec.ofNat 32 ((2 ^ g - 1) * 2 ^ n)) }.vsDirty } }

/-- VTAG on its operands (14_isa_vector.md R371). -/
def vtagRun (d t : Reg) (s : State) : Res :=
  let w := maxWidth t.toNat
  let g := s.group w
  if s.groupBad d.toNat w then s.illegal
  else if s.boundDest d.toNat then s.stream
  else if t = 0 then .ok ((s.killGroup d.toNat g).vdone [] false)
  else .ok ((s.setGroup d.toNat g t.toNat (s.regBits d.toNat g)).vdone [] false)

/-- VTAG (14_isa_vector.md R371). -/
def execVtag (d t : Reg) (s : State) : Host.Outcome State Fault Refusal :=
  finish (s.vecIssue (!tagCodeReserved t) 0 0 (vtagRun d t))

/-! ## Splits -/

/-- Hart slots of the allotment that hold no hart, lowest first. -/
def State.freeSlots (s : State) (l : Launch) : List (BitVec 3) :=
  ((List.range l.allot).map fun i => l.firstSlot + BitVec.ofNat 3 i).filter fun k =>
    !(s.allHarts.any fun h => h.core == s.c.id && h.slot == k && h.launch == l.id && h.run != .retired)

/-- A hart that LSPLIT starts (06_execution.md R166). Its MTVEC is the splitter's and its injection gaps are zero: the model's choice (log entry 65). -/
def splitHart (h : Hart) (own : Nat) (slot : BitVec 3) (entry : Word) (idx cnt : Nat) : Hart :=
  { Hart.reset with
    core := h.core, slot := slot, lslot := h.lslot, launch := h.launch, rank := h.rank, vthread := true, vindex := idx, run := .ready, seated := true
    level := .user, pc := entry
    p := Vector.ofFn fun i : Fin 16 => if i.val = 14 then BitVec.ofNat 64 (ownBase + own) else if i.val = 15 then 0 else h.p.get i
    rt := h.rt
    csr := { Csrs.reset with
      nreg := h.csr.nreg, declared := h.csr.declared, vlcap := h.csr.vlcap, sstatus := BitVec.ofNat 7 (1 * 2 ^ 5), stvec := h.csr.stvec
      satp := h.csr.satp, mtvec := h.csr.mtvec, splitst := BitVec.ofNat 7 (idx + cnt * 4 + h.slot.toNat * 16) } }

/-- Start the harts of a split in a list of slots. What is in a slot's mailbox stays there (07_core.md R200). -/
def State.startSplit (s : State) (own : Nat) (entry : Word) (cnt : Nat) : Nat → List (BitVec 3) → State
  | _, [] => s
  | i, k :: r =>
    let old := s.harts.filter fun g => !(g.isHart s.h.core k s.h.launch)
    ({ s with harts := old ++ [splitHart s.h own k entry i cnt] } : State).startSplit own entry cnt (i + 1) r

/-- LSPLIT's conditions hold (06_execution.md R166). -/
def State.maySplit (s : State) (l : Launch) (n : Nat) : Bool :=
  let others := s.vthreads s.c.id fun h => h.launch != l.id
  let alone := !(s.allHarts.any fun h => h.core == s.c.id && h.seated && h.launch != l.id)
  s.h.vthread && decide (fldN s.h.csr.splitst 2 2 = 0) && decide (s.vthreads s.c.id (fun h => h.launch == l.id) = 1) &&
    decide (n ≤ (s.freeSlots l).length + 1) && (alone || decide (n + others ≤ s.c.split))

/-- LSPLIT (14_isa_vector.md R372, 06_execution.md R166). -/
def State.lsplit (s : State) (d : Reg) (entry : Word) (n : Nat) : Res :=
  if s.h.vec.pump.state = 3 then s.illegal
  else if s.vecBusy then .wait s
  else if entry.toNat % 4 ≠ 0 then .trap ⟨causeMisalign, entry⟩ s
  else s.quiet fun s =>
    match s.launch? s.h.launch with
    | none => .ok (s.setX d 0)
    | some l =>
      if !s.maySplit l n then .ok (s.setX d 0)
      else
        let alone := !(s.allHarts.any fun h => h.core == s.c.id && h.seated && h.launch != l.id)
        let cnt := if n = 2 then 1 else 2
        let slots := (s.freeSlots l).take (n - 1)
        let s1 := s.startSplit (shapeOwn l.words) entry cnt 1 slots
        let h1 := { s1.h.discardVector with vindex := 0 }
        let h2 := { h1 with csr := { h1.csr with splitst := BitVec.ofNat 7 (cnt * 4 + h1.slot.toNat * 16) } }
        .ok (({ s1 with h := h2, c := { s1.c with split := if alone then splitFor n else s1.c.split } } : State).setX d (BitVec.ofNat 64 n) |>.numberShares s1.c.id)

/-- LSPLIT (14_isa_vector.md R372). -/
def execLsplit (d a n : Reg) (s : State) : Host.Outcome State Fault Refusal :=
  let s := s.closeWindow
  finish (if splitCode n then s.lsplit d (s.x a) (2 ^ n.toNat) else s.illegal)

/-- LMERGE (14_isa_vector.md R372, 06_execution.md R167): it waits for the hart's engine commands to drain; a participant other than index 0 retires once its
posted accesses are acknowledged too (09_ordering.md R257). -/
def State.lmerge (s : State) : Res :=
  if fldN s.h.csr.splitst 2 2 = 0 then s.illegal
  else
    let s := s.dropPump
    if s.vecBusy then .wait s
    else s.unmarked fun s =>
      if s.enginesOpen 5 then .wait s
      else if fldN s.h.csr.splitst 0 2 ≠ 0 then
        if s.postedOpen 5 then .wait s
        else .ok { s with h := { s.h.discardVector with run := .retired } }.retireHart
      else if s.splitDone s.h then .ok ({ s with h := s.h.merged }.mergedT s.h)
      else .wait { s with h := { s.h with run := .parkedBar, mergeWait := true } }

/-- LMERGE (14_isa_vector.md R372). -/
def execLmerge (s : State) : Host.Outcome State Fault Refusal := finish s.closeWindow.lmerge

/-! ## The Pump -/

/-- PUMP (14_isa_vector.md R373). -/
def State.pumpStart (s : State) (n : BitVec 4) (m : BitVec 3) (count : Word) (st w : BitVec 2) : Res :=
  if s.h.vec.pump.state = 3 || decide (65535 < count.toNat) then s.illegal
  else .ok { s with h := { s.h with vec := { s.h.vec with
      pump := { Pump.reset with state := 1, len := n, smask := m, step := st, wrap := w, rem := count.setWidth 16 } } } }

/-- PUMP (14_isa_vector.md R373). -/
def execPump (n : BitVec 4) (m : BitVec 3) (a : Reg) (st w : BitVec 2) (s : State) : Host.Outcome State Fault Refusal :=
  finish (s.vecHold true fun s => s.pumpStart n m (s.x a) st w)

/-- PUMPSTOP (14_isa_vector.md R375). -/
def State.pumpstop (s : State) : State :=
  let p := s.h.vec.pump
  if p.state = 2 then { s with h := { s.h with vec := { s.h.vec with pump := { p with rem := 1, stopping := true } } } }
  else if p.state = 3 then
    { s with h := { s.h with vec := { s.h.vec with pump := Pump.reset }, csr := { s.h.csr with vstart := 0 } } }
  else s

/-- PUMPSTOP (14_isa_vector.md R375). -/
def execPumpstop (s : State) : Host.Outcome State Fault Refusal := finish (s.vecGate true (.ok s.pumpstop))

end Sys2Proof.Machine
end

