-- ==== Sys2Proof/Machine/VecArith.lean ====
section
/-! DEFINITION. Element-wise vector arithmetic and compares (14_isa_vector.md R376, R377). -/

set_option Elab.async false

namespace Sys2Proof.Machine

/-! ## Elements -/

/-- An integer result wraps (11_arithmetic.md R291). -/
def intRes (p : Nat) (z : Int) : Nat × Flg := (truncInt (tagWidth p) z, 0)

/-- A residue (11_arithmetic.md R300). -/
def zRes (q : Nat) (z : Int) : Nat × Flg := ((z % (q : Int)).toNat, 0)

/-- First operand. -/
def arg0 (xs : List Nat) : Nat := xs.getD 0 0
/-- Second operand. -/
def arg1 (xs : List Nat) : Nat := xs.getD 1 0
/-- Third operand. -/
def arg2 (xs : List Nat) : Nat := xs.getD 2 0

/-- Integer, floating and Z64 tags. -/
def okArith (p : Nat) : Bool := tagInt p || tagFloat p || p == tZ64
/-- Integer and floating tags. -/
def okIntFp (p : Nat) : Bool := tagInt p || tagFloat p

/-- An element of an operation given on integers, on floating codes, and on integers taken modulo q. -/
def byKind (p q : Nat) (int : Int → Int → Int) (fp : Nat → Nat → Nat × Flg) (a b : Nat) : Nat × Flg :=
  if tagInt p then intRes p (int (intOf p a) (intOf p b)) else if p = tZ64 then zRes q (int a b) else fp a b

/-- Quotient of integer elements (11_arithmetic.md R292). -/
def intDiv (a b : Int) : Int := if b = 0 then -1 else a.tdiv b
/-- Remainder of integer elements (11_arithmetic.md R292). -/
def intRem (a b : Int) : Int := if b = 0 then a else a.tmod b

/-- Clamp into the range of an integer tag. -/
def clampInt (p : Nat) (z : Int) : Nat × Flg :=
  let w := tagWidth p
  let lo : Int := if tagSigned p then -(2 ^ (w - 1)) else 0
  let hi : Int := if tagSigned p then 2 ^ (w - 1) - 1 else 2 ^ w - 1
  intRes p (if z < lo then lo else if hi < z then hi else z)

/-- The smaller or larger of two elements (11_arithmetic.md R294). -/
def minMaxElem (p : Nat) (wantMax : Bool) (a b : Nat) : Nat × Flg :=
  if tagInt p then (if (decide (intOf p b < intOf p a)) != wantMax then (b, 0) else (a, 0)) else fMinMax p wantMax a b

/-- A floating code with another sign bit; formats without one are unchanged. -/
def withSign (p a : Nat) (neg : Nat → Bool) : Nat :=
  let h := 2 ^ (tagWidth p - 1)
  if (fmtOf p).signed then a % h + (if neg (a / h) then h else 0) else a

/-- |a| (14_isa_vector.md R376). -/
def absElem (p a : Nat) : Nat × Flg :=
  if tagInt p then intRes p (intOf p a).natAbs else (withSign p a fun _ => false, 0)

/-- The negated element (14_isa_vector.md R376). -/
def negElem (p q a : Nat) : Nat × Flg :=
  if tagInt p then intRes p (-intOf p a)
  else if p = tZ64 then zRes q (-(a : Int))
  else if (fmtOf p).signed then (withSign p a fun s => s == 0, 0)
  else fRound p rne 0 (fDecode p a).neg

/-- A relation of two elements: their order as -1, 0 or 1 decides; a NaN makes only NE true (14_isa_vector.md R377). -/
def cmpElem (p q : Nat) (eqLike ne : Bool) (rel : Int → Bool) (a b : Nat) : Nat × Flg :=
  let bit (c : Bool) : Nat := if c then 1 else 0
  let ord (x y : Int) : Int := if x < y then -1 else if y < x then 1 else 0
  if tagInt p then (bit (rel (ord (intOf p a) (intOf p b))), 0)
  else if p = tZ64 then (bit (rel (ord ((a % q : Nat) : Int) ((b % q : Nat) : Int))), 0)
  else
    let x := fDecode p a
    let y := fDecode p b
    if x.isNan || y.isNan then (bit ne, if eqLike then fSnanFlag p a ||| fSnanFlag p b else flNV) else (bit (rel (x.cmp y)), 0)

/-- A result tag equal to the promoted tag, rounding on floating tags. -/
def plainOp (allowed : Nat → Bool) (cycles : Nat) (f : Nat → Rnd → Nat → Nat → List Nat → Nat × Flg) : Elementwise :=
  ⟨allowed, id, tagFloat, cycles, f⟩

/-- A result that never rounds. -/
def exactOp (allowed : Nat → Bool) (f : Nat → Rnd → Nat → Nat → List Nat → Nat × Flg) : Elementwise :=
  ⟨allowed, id, fun _ => false, 1, f⟩

/-- A compare. -/
def cmpOp (eqLike ne : Bool) (rel : Int → Bool) : Elementwise :=
  ⟨if eqLike then okArith else okIntFp, fun _ => tMask, fun _ => false, 1, fun p _ q _ xs => cmpElem p q eqLike ne rel (arg0 xs) (arg1 xs)⟩

/-- A binary instruction of the V form, on given scalar operand values. -/
def State.vBinary (s : State) (e : Elementwise) (third : Bool) (d : Reg) (k : BitVec 3) (a b : Reg) (m : BitVec 1) (xb : Word) : Res :=
  let o := s.oper a
  s.elementwise e (m = 1) d third o (s.second k o b xb)

/-- A unary instruction of the V form. -/
def State.vUnary (s : State) (e : Elementwise) (d a : Reg) (m : BitVec 1) : Res := s.elementwise e (m = 1) d false (s.oper a) .none

/-- The shifts: P is the tag of VA; the count is read as unsigned from an integer or NONE operand, a scalar, or an immediate
(14_isa_vector.md R376). `f` gets the width, the code and the count modulo the width. -/
def State.vShift (s : State) (f : Nat → Nat → Nat → Nat) (d : Reg) (k : BitVec 3) (a b : Reg) (m : BitVec 1) (xb : Word) : Res :=
  let o := s.oper a
  let p := s.scalarTag o
  let cnt := s.oper b
  let srcs := if k = 0 then [o, cnt] else [o]
  if (o.tag = tNone && s.vtagBad) || s.groupsIllegal (m = 1) d.toNat (tagWidth p) false srcs p false then s.illegal
  else if !srcs.all (s.uniform · p) || !tagInt p || (k = 0 && cnt.tag ≠ tNone && !tagInt cnt.tag) then .trap (s.trapWord causeTagmix) s
  else match s.destStop d.toNat (tagWidth p) with
    | some r => r
    | Option.none => s.loadAll p srcs fun xs =>
      let x := xs.getD 0 Src.zero
      let w := tagWidth p
      let n (i : Nat) : Nat :=
        (if k = 0 then (xs.getD 1 Src.zero).get i else if k = 1 then xb.toNat % 2 ^ w else b.toNat) % w
      s.writeCut (m = 1) d.toNat p srcs (earliest (xs.map Src.bad)) false 1 (max w (if k = 0 then cnt.width p else 0))
        fun i => (f w (if o.tag = tNone then 0 else x.get i) (n i), 0)

/-! ## VARITH -/

/-- An element of VADD: a + b. -/
def opVadd : Elementwise := plainOp okArith 1 fun p r q i xs => byKind p q (· + ·) (fAdd p r i) (arg0 xs) (arg1 xs)

/-- VADD on given operand values (14_isa_vector.md R376). -/
def vaddRun (d : Reg) (k : BitVec 3) (a b : Reg) (m : BitVec 1) (xb : Word) (s : State) : Res := s.vBinary opVadd false d k a b m xb

/-- VADD (14_isa_vector.md R376). -/
def execVadd (d : Reg) (k : BitVec 3) (a b : Reg) (m : BitVec 1) (s : State) : Host.Outcome State Fault Refusal :=
  finish (s.vecIssue (kindAny k) 0 (s.x b) (vaddRun d k a b m (s.x b)))

/-- An element of VSUB: a - b. -/
def opVsub : Elementwise := plainOp okArith 1 fun p r q i xs => byKind p q (· - ·) (fSub p r i) (arg0 xs) (arg1 xs)

/-- VSUB on given operand values (14_isa_vector.md R376). -/
def vsubRun (d : Reg) (k : BitVec 3) (a b : Reg) (m : BitVec 1) (xb : Word) (s : State) : Res := s.vBinary opVsub false d k a b m xb

/-- VSUB (14_isa_vector.md R376). -/
def execVsub (d : Reg) (k : BitVec 3) (a b : Reg) (m : BitVec 1) (s : State) : Host.Outcome State Fault Refusal :=
  finish (s.vecIssue (kindAny k) 0 (s.x b) (vsubRun d k a b m (s.x b)))

/-- An element of VMUL: a x b. -/
def opVmul : Elementwise := plainOp okArith 1 fun p r q i xs => byKind p q (· * ·) (fMul p r i) (arg0 xs) (arg1 xs)

/-- VMUL on given operand values (14_isa_vector.md R376). -/
def vmulRun (d : Reg) (k : BitVec 3) (a b : Reg) (m : BitVec 1) (xb : Word) (s : State) : Res := s.vBinary opVmul false d k a b m xb

/-- VMUL (14_isa_vector.md R376). -/
def execVmul (d : Reg) (k : BitVec 3) (a b : Reg) (m : BitVec 1) (s : State) : Host.Outcome State Fault Refusal :=
  finish (s.vecIssue (kindAny k) 0 (s.x b) (vmulRun d k a b m (s.x b)))

/-- An element of VMULH: the high half of the product. -/
def opVmulh : Elementwise := exactOp tagInt fun p _ _ _ xs => intRes p (intOf p (arg0 xs) * intOf p (arg1 xs) / 2 ^ tagWidth p)

/-- VMULH on given operand values (14_isa_vector.md R376). -/
def vmulhRun (d : Reg) (k : BitVec 3) (a b : Reg) (m : BitVec 1) (xb : Word) (s : State) : Res := s.vBinary opVmulh false d k a b m xb

/-- VMULH (14_isa_vector.md R376). -/
def execVmulh (d : Reg) (k : BitVec 3) (a b : Reg) (m : BitVec 1) (s : State) : Host.Outcome State Fault Refusal :=
  finish (s.vecIssue (kindAny k) 0 (s.x b) (vmulhRun d k a b m (s.x b)))

/-- An element of VMADD: a x b + d, fused. -/
def opVmadd : Elementwise := plainOp okArith 1 fun p r q i xs =>
  if tagInt p then intRes p (intOf p (arg0 xs) * intOf p (arg1 xs) + intOf p (arg2 xs))
  else if p = tZ64 then zRes q (arg0 xs * arg1 xs + arg2 xs : Nat)
  else fFma p r i false (arg0 xs) (arg1 xs) (arg2 xs)

/-- VMADD on given operand values (14_isa_vector.md R376). -/
def vmaddRun (d : Reg) (k : BitVec 3) (a b : Reg) (m : BitVec 1) (xb : Word) (s : State) : Res := s.vBinary opVmadd true d k a b m xb

/-- VMADD (14_isa_vector.md R376). -/
def execVmadd (d : Reg) (k : BitVec 3) (a b : Reg) (m : BitVec 1) (s : State) : Host.Outcome State Fault Refusal :=
  finish (s.vecIssue (kindVvVs k) 0 (s.x b) (vmaddRun d k a b m (s.x b)))

/-- An element of VNMSUB: d - a x b, fused. -/
def opVnmsub : Elementwise := plainOp okArith 1 fun p r q i xs =>
  if tagInt p then intRes p (intOf p (arg2 xs) - intOf p (arg0 xs) * intOf p (arg1 xs))
  else if p = tZ64 then zRes q ((arg2 xs : Int) - (arg0 xs * arg1 xs : Nat))
  else fFma p r i true (arg0 xs) (arg1 xs) (arg2 xs)

/-- VNMSUB on given operand values (14_isa_vector.md R376). -/
def vnmsubRun (d : Reg) (k : BitVec 3) (a b : Reg) (m : BitVec 1) (xb : Word) (s : State) : Res := s.vBinary opVnmsub true d k a b m xb

/-- VNMSUB (14_isa_vector.md R376). -/
def execVnmsub (d : Reg) (k : BitVec 3) (a b : Reg) (m : BitVec 1) (s : State) : Host.Outcome State Fault Refusal :=
  finish (s.vecIssue (kindVvVs k) 0 (s.x b) (vnmsubRun d k a b m (s.x b)))

/-- An element of VDIV: a / b. -/
def opVdiv : Elementwise := plainOp okIntFp 16 fun p r q i xs => byKind p q intDiv (fDiv p r i) (arg0 xs) (arg1 xs)

/-- VDIV on given operand values (14_isa_vector.md R376). -/
def vdivRun (d : Reg) (k : BitVec 3) (a b : Reg) (m : BitVec 1) (xb : Word) (s : State) : Res := s.vBinary opVdiv false d k a b m xb

/-- VDIV (14_isa_vector.md R376). -/
def execVdiv (d : Reg) (k : BitVec 3) (a b : Reg) (m : BitVec 1) (s : State) : Host.Outcome State Fault Refusal :=
  finish (s.vecIssue (kindAny k) 0 (s.x b) (vdivRun d k a b m (s.x b)))

/-- An element of VREM: the remainder. -/
def opVrem : Elementwise := ⟨tagInt, id, fun _ => false, 16, fun p _ _ _ xs => intRes p (intRem (intOf p (arg0 xs)) (intOf p (arg1 xs)))⟩

/-- VREM on given operand values (14_isa_vector.md R376). -/
def vremRun (d : Reg) (k : BitVec 3) (a b : Reg) (m : BitVec 1) (xb : Word) (s : State) : Res := s.vBinary opVrem false d k a b m xb

/-- VREM (14_isa_vector.md R376). -/
def execVrem (d : Reg) (k : BitVec 3) (a b : Reg) (m : BitVec 1) (s : State) : Host.Outcome State Fault Refusal :=
  finish (s.vecIssue (kindAny k) 0 (s.x b) (vremRun d k a b m (s.x b)))

/-- An element of VMIN: the smaller element. -/
def opVmin : Elementwise := exactOp okIntFp fun p _ _ _ xs => minMaxElem p false (arg0 xs) (arg1 xs)

/-- VMIN on given operand values (14_isa_vector.md R376). -/
def vminRun (d : Reg) (k : BitVec 3) (a b : Reg) (m : BitVec 1) (xb : Word) (s : State) : Res := s.vBinary opVmin false d k a b m xb

/-- VMIN (14_isa_vector.md R376). -/
def execVmin (d : Reg) (k : BitVec 3) (a b : Reg) (m : BitVec 1) (s : State) : Host.Outcome State Fault Refusal :=
  finish (s.vecIssue (kindAny k) 0 (s.x b) (vminRun d k a b m (s.x b)))

/-- An element of VMAX: the larger element. -/
def opVmax : Elementwise := exactOp okIntFp fun p _ _ _ xs => minMaxElem p true (arg0 xs) (arg1 xs)

/-- VMAX on given operand values (14_isa_vector.md R376). -/
def vmaxRun (d : Reg) (k : BitVec 3) (a b : Reg) (m : BitVec 1) (xb : Word) (s : State) : Res := s.vBinary opVmax false d k a b m xb

/-- VMAX (14_isa_vector.md R376). -/
def execVmax (d : Reg) (k : BitVec 3) (a b : Reg) (m : BitVec 1) (s : State) : Host.Outcome State Fault Refusal :=
  finish (s.vecIssue (kindAny k) 0 (s.x b) (vmaxRun d k a b m (s.x b)))

/-- An element of VABS: |a|. -/
def opVabs : Elementwise := exactOp okIntFp fun p _ _ _ xs => absElem p (arg0 xs)

/-- VABS on its register operands (14_isa_vector.md R376). -/
def vabsRun (d a : Reg) (m : BitVec 1) (s : State) : Res := s.vUnary opVabs d a m

/-- VABS (14_isa_vector.md R376). -/
def execVabs (d a : Reg) (m : BitVec 1) (s : State) : Host.Outcome State Fault Refusal :=
  finish (s.vecIssue true 0 0 (vabsRun d a m))

/-- An element of VNEG: -a. -/
def opVneg : Elementwise := exactOp okArith fun p _ q _ xs => negElem p q (arg0 xs)

/-- VNEG on its register operands (14_isa_vector.md R376). -/
def vnegRun (d a : Reg) (m : BitVec 1) (s : State) : Res := s.vUnary opVneg d a m

/-- VNEG (14_isa_vector.md R376). -/
def execVneg (d a : Reg) (m : BitVec 1) (s : State) : Host.Outcome State Fault Refusal :=
  finish (s.vecIssue true 0 0 (vnegRun d a m))

/-- An element of VSQRT: the square root. -/
def opVsqrt : Elementwise := plainOp tagFloat 16 fun p r _ i xs => fSqrt p r i (arg0 xs)

/-- VSQRT on its register operands (14_isa_vector.md R376). -/
def vsqrtRun (d a : Reg) (m : BitVec 1) (s : State) : Res := s.vUnary opVsqrt d a m

/-- VSQRT (14_isa_vector.md R376). -/
def execVsqrt (d a : Reg) (m : BitVec 1) (s : State) : Host.Outcome State Fault Refusal :=
  finish (s.vecIssue true 0 0 (vsqrtRun d a m))

/-- An element of VAND: bitwise AND. -/
def opVand : Elementwise := exactOp tagInt fun _ _ _ _ xs => (arg0 xs &&& arg1 xs, 0)

/-- VAND on given operand values (14_isa_vector.md R376). -/
def vandRun (d : Reg) (k : BitVec 3) (a b : Reg) (m : BitVec 1) (xb : Word) (s : State) : Res := s.vBinary opVand false d k a b m xb

/-- VAND (14_isa_vector.md R376). -/
def execVand (d : Reg) (k : BitVec 3) (a b : Reg) (m : BitVec 1) (s : State) : Host.Outcome State Fault Refusal :=
  finish (s.vecIssue (kindAny k) 0 (s.x b) (vandRun d k a b m (s.x b)))

/-- An element of VOR: bitwise OR. -/
def opVor : Elementwise := exactOp tagInt fun _ _ _ _ xs => (arg0 xs ||| arg1 xs, 0)

/-- VOR on given operand values (14_isa_vector.md R376). -/
def vorRun (d : Reg) (k : BitVec 3) (a b : Reg) (m : BitVec 1) (xb : Word) (s : State) : Res := s.vBinary opVor false d k a b m xb

/-- VOR (14_isa_vector.md R376). -/
def execVor (d : Reg) (k : BitVec 3) (a b : Reg) (m : BitVec 1) (s : State) : Host.Outcome State Fault Refusal :=
  finish (s.vecIssue (kindAny k) 0 (s.x b) (vorRun d k a b m (s.x b)))

/-- An element of VXOR: bitwise XOR. -/
def opVxor : Elementwise := exactOp tagInt fun _ _ _ _ xs => (arg0 xs ^^^ arg1 xs, 0)

/-- VXOR on given operand values (14_isa_vector.md R376). -/
def vxorRun (d : Reg) (k : BitVec 3) (a b : Reg) (m : BitVec 1) (xb : Word) (s : State) : Res := s.vBinary opVxor false d k a b m xb

/-- VXOR (14_isa_vector.md R376). -/
def execVxor (d : Reg) (k : BitVec 3) (a b : Reg) (m : BitVec 1) (s : State) : Host.Outcome State Fault Refusal :=
  finish (s.vecIssue (kindAny k) 0 (s.x b) (vxorRun d k a b m (s.x b)))

/-- An element of VSADD: the clamped sum. -/
def opVsadd : Elementwise := exactOp tagInt fun p _ _ _ xs => clampInt p (intOf p (arg0 xs) + intOf p (arg1 xs))

/-- VSADD on given operand values (14_isa_vector.md R376). -/
def vsaddRun (d : Reg) (k : BitVec 3) (a b : Reg) (m : BitVec 1) (xb : Word) (s : State) : Res := s.vBinary opVsadd false d k a b m xb

/-- VSADD (14_isa_vector.md R376). -/
def execVsadd (d : Reg) (k : BitVec 3) (a b : Reg) (m : BitVec 1) (s : State) : Host.Outcome State Fault Refusal :=
  finish (s.vecIssue (kindAny k) 0 (s.x b) (vsaddRun d k a b m (s.x b)))

/-- An element of VSSUB: the clamped difference. -/
def opVssub : Elementwise := exactOp tagInt fun p _ _ _ xs => clampInt p (intOf p (arg0 xs) - intOf p (arg1 xs))

/-- VSSUB on given operand values (14_isa_vector.md R376). -/
def vssubRun (d : Reg) (k : BitVec 3) (a b : Reg) (m : BitVec 1) (xb : Word) (s : State) : Res := s.vBinary opVssub false d k a b m xb

/-- VSSUB (14_isa_vector.md R376). -/
def execVssub (d : Reg) (k : BitVec 3) (a b : Reg) (m : BitVec 1) (s : State) : Host.Outcome State Fault Refusal :=
  finish (s.vecIssue (kindAny k) 0 (s.x b) (vssubRun d k a b m (s.x b)))

/-- VSLL on given operand values (14_isa_vector.md R376). -/
def vsllRun (d : Reg) (k : BitVec 3) (a b : Reg) (m : BitVec 1) (xb : Word) (s : State) : Res :=
  s.vShift (fun w a n => a * 2 ^ n % 2 ^ w) d k a b m xb

/-- VSLL (14_isa_vector.md R376). -/
def execVsll (d : Reg) (k : BitVec 3) (a b : Reg) (m : BitVec 1) (s : State) : Host.Outcome State Fault Refusal :=
  finish (s.vecIssue (kindAny k) 0 (s.x b) (vsllRun d k a b m (s.x b)))

/-- VSRL on given operand values (14_isa_vector.md R376). -/
def vsrlRun (d : Reg) (k : BitVec 3) (a b : Reg) (m : BitVec 1) (xb : Word) (s : State) : Res :=
  s.vShift (fun _ a n => a / 2 ^ n) d k a b m xb

/-- VSRL (14_isa_vector.md R376). -/
def execVsrl (d : Reg) (k : BitVec 3) (a b : Reg) (m : BitVec 1) (s : State) : Host.Outcome State Fault Refusal :=
  finish (s.vecIssue (kindAny k) 0 (s.x b) (vsrlRun d k a b m (s.x b)))

/-- VSRA on given operand values (14_isa_vector.md R376). -/
def vsraRun (d : Reg) (k : BitVec 3) (a b : Reg) (m : BitVec 1) (xb : Word) (s : State) : Res :=
  s.vShift (fun w a n => truncInt w (sextNat w a / 2 ^ n)) d k a b m xb

/-- VSRA (14_isa_vector.md R376). -/
def execVsra (d : Reg) (k : BitVec 3) (a b : Reg) (m : BitVec 1) (s : State) : Host.Outcome State Fault Refusal :=
  finish (s.vecIssue (kindAny k) 0 (s.x b) (vsraRun d k a b m (s.x b)))

/-! ## Compares -/

/-- The relation of VCMPEQ. -/
def opVcmpeq : Elementwise := cmpOp true false (· == 0)

/-- VCMPEQ on given operand values (14_isa_vector.md R377). -/
def vcmpeqRun (d : Reg) (k : BitVec 3) (a b : Reg) (m : BitVec 1) (xb : Word) (s : State) : Res := s.vBinary opVcmpeq false d k a b m xb

/-- VCMPEQ (14_isa_vector.md R377). -/
def execVcmpeq (d : Reg) (k : BitVec 3) (a b : Reg) (m : BitVec 1) (s : State) : Host.Outcome State Fault Refusal :=
  finish (s.vecIssue (kindAny k) 0 (s.x b) (vcmpeqRun d k a b m (s.x b)))

/-- The relation of VCMPNE. -/
def opVcmpne : Elementwise := cmpOp true true (· != 0)

/-- VCMPNE on given operand values (14_isa_vector.md R377). -/
def vcmpneRun (d : Reg) (k : BitVec 3) (a b : Reg) (m : BitVec 1) (xb : Word) (s : State) : Res := s.vBinary opVcmpne false d k a b m xb

/-- VCMPNE (14_isa_vector.md R377). -/
def execVcmpne (d : Reg) (k : BitVec 3) (a b : Reg) (m : BitVec 1) (s : State) : Host.Outcome State Fault Refusal :=
  finish (s.vecIssue (kindAny k) 0 (s.x b) (vcmpneRun d k a b m (s.x b)))

/-- The relation of VCMPLT. -/
def opVcmplt : Elementwise := cmpOp false false (· == -1)

/-- VCMPLT on given operand values (14_isa_vector.md R377). -/
def vcmpltRun (d : Reg) (k : BitVec 3) (a b : Reg) (m : BitVec 1) (xb : Word) (s : State) : Res := s.vBinary opVcmplt false d k a b m xb

/-- VCMPLT (14_isa_vector.md R377). -/
def execVcmplt (d : Reg) (k : BitVec 3) (a b : Reg) (m : BitVec 1) (s : State) : Host.Outcome State Fault Refusal :=
  finish (s.vecIssue (kindAny k) 0 (s.x b) (vcmpltRun d k a b m (s.x b)))

/-- The relation of VCMPLE. -/
def opVcmple : Elementwise := cmpOp false false (· != 1)

/-- VCMPLE on given operand values (14_isa_vector.md R377). -/
def vcmpleRun (d : Reg) (k : BitVec 3) (a b : Reg) (m : BitVec 1) (xb : Word) (s : State) : Res := s.vBinary opVcmple false d k a b m xb

/-- VCMPLE (14_isa_vector.md R377). -/
def execVcmple (d : Reg) (k : BitVec 3) (a b : Reg) (m : BitVec 1) (s : State) : Host.Outcome State Fault Refusal :=
  finish (s.vecIssue (kindAny k) 0 (s.x b) (vcmpleRun d k a b m (s.x b)))

/-- The relation of VCMPGT. -/
def opVcmpgt : Elementwise := cmpOp false false (· == 1)

/-- VCMPGT on given operand values (14_isa_vector.md R377). -/
def vcmpgtRun (d : Reg) (k : BitVec 3) (a b : Reg) (m : BitVec 1) (xb : Word) (s : State) : Res := s.vBinary opVcmpgt false d k a b m xb

/-- VCMPGT (14_isa_vector.md R377). -/
def execVcmpgt (d : Reg) (k : BitVec 3) (a b : Reg) (m : BitVec 1) (s : State) : Host.Outcome State Fault Refusal :=
  finish (s.vecIssue (kindAny k) 0 (s.x b) (vcmpgtRun d k a b m (s.x b)))

/-- The relation of VCMPGE. -/
def opVcmpge : Elementwise := cmpOp false false (· != -1)

/-- VCMPGE on given operand values (14_isa_vector.md R377). -/
def vcmpgeRun (d : Reg) (k : BitVec 3) (a b : Reg) (m : BitVec 1) (xb : Word) (s : State) : Res := s.vBinary opVcmpge false d k a b m xb

/-- VCMPGE (14_isa_vector.md R377). -/
def execVcmpge (d : Reg) (k : BitVec 3) (a b : Reg) (m : BitVec 1) (s : State) : Host.Outcome State Fault Refusal :=
  finish (s.vecIssue (kindAny k) 0 (s.x b) (vcmpgeRun d k a b m (s.x b)))

end Sys2Proof.Machine
end

