-- ==== Sys2Proof/Machine/VecMove.lean ====
section
/-! DEFINITION. Moves, permutes, conversion and SF4 quantisation (14_isa_vector.md R379 to R381). -/

set_option Elab.async false

namespace Sys2Proof.Machine

/-! ## Writing an SF4 pair (11_arithmetic.md R298) -/

/-- Some element of the block of 8 with number `k` is active between `lo` and `hi`. -/
def State.blockActive (s : State) (m : Bool) (lo hi k : Nat) : Bool :=
  (List.range 8).any fun j => decide (lo ≤ 8 * k + j) && decide (8 * k + j < hi) && s.active m (8 * k + j)

/-- Write the codes of an SF4 group and, for each block that holds an active element, its micro-scale. -/
def State.writePair (s : State) (m : Bool) (d : Nat) (srcs : List Oper) (bad : Option (Nat × Trap)) (rounds : Bool) (wide : Nat)
    (code scale : Nat → Nat × Flg) : Res :=
  if s.vl ≤ s.vstart then .ok { s with h := { s.h with csr := { s.h.csr with vstart := 0 } } }
  else
    let g := s.group 4
    let lo := s.vstart
    let stop := bad.filter fun b => decide (lo ≤ b.1) && decide (b.1 < s.vl)
    let hi := match stop with
      | some b => b.1
      | Option.none => s.vl
    let (mid, fl, any) := buildElems 4 (s.active m) (s.regBits d g) code (hi - lo) lo
    let bits := spliceElems 4 lo hi (s.regBits d g) mid
    let kl := lo / 8
    let kh := (hi + 7) / 8
    let old := s.regBits (d + g) g
    let (smid, sfl, _) := buildElems 8 (s.blockActive m lo hi) old scale (kh - kl) kl
    let sbits := spliceElems 8 kl kh old smid
    let s1 := ((if any then (s.setGroup d g tSF4 bits).setGroup (d + g) g tE3M5 sbits else s).accrue (fl ||| sfl)).chargeStrip wide 1 (hi - lo)
    let b := s.h.binding d
    let s2 := if b.kind = 3 then s1.sendStrip b bits (lo * 4 / 8) (hi * 4 / 8) else s1
    match stop with
    | some x => .ok (s2.defer x.1 x.2)
    | Option.none =>
      let s3 := if b.kind = 3 then { s2 with h := s2.h.setBinding d { b with nsseq := b.nsseq + 1 } } else s2
      .ok (s3.vdone srcs rounds)

/-! ## Moves -/

/-- VMV.vv (14_isa_vector.md R379). -/
def State.vmvVec (s : State) (d a : Reg) (m : Bool) : Res :=
  let o := s.oper a
  let t := s.scalarTag o
  let pair := decide (t = tSF4)
  if o.tag = tNone && s.vtagBad then s.illegal
  else if s.groupsIllegal m d.toNat (tagWidth t) pair [o] t false then s.illegal
  else if !s.uniform o t || s.scalesBad o t then .trap (s.trapWord causeTagmix) s
  else match s.destStop d.toNat (tagWidth t) with
    | some r => r
    | Option.none => s.loadAll t [o] fun xs =>
      let x := xs.getD 0 Src.zero
      let code (i : Nat) : Nat × Flg := (if o.tag = tNone then 0 else x.get i, 0)
      if pair then s.writePair m d.toNat [o] x.bad false 4 code fun k => (if o.tag = tNone then 0 else x.micro (8 * k), 0)
      else s.writeCut m d.toNat t [o] x.bad false 1 (tagWidth t) code

/-- VMV.vs and VMV.vi: the value is read in VTYPE.TAG (14_isa_vector.md R379). -/
def State.vmvScalar (s : State) (d : Reg) (m : Bool) (code : Option Nat) : Res :=
  let t := s.vtag
  if s.vtagBad || s.groupsIllegal m d.toNat (tagWidth t) false [] t false then s.illegal
  else if t = tSF4 || code.isNone then .trap (s.trapWord causeTagmix) s
  else if t = tZ64 && s.qBad then s.illegal
  else match s.destStop d.toNat (tagWidth t) with
    | some r => r
    | Option.none => s.writeCut m d.toNat t [] Option.none false 1 (tagWidth t) fun _ => (code.getD 0, 0)

/-- VMV on given operand values (14_isa_vector.md R379). -/
def vmvRun (d : Reg) (k : BitVec 3) (a b : Reg) (m : BitVec 1) (xb : Word) (s : State) : Res :=
  match k.toNat with
  | 0 => s.vmvVec d a (m = 1)
  | 1 => s.vmvScalar d (m = 1) (some (xb.toNat % 2 ^ tagWidth s.vtag))
  | _ => s.vmvScalar d (m = 1) (viCode s.q s.vtag b)

/-- VMV (14_isa_vector.md R379). -/
def execVmv (d : Reg) (k : BitVec 3) (a b : Reg) (m : BitVec 1) (s : State) : Host.Outcome State Fault Refusal :=
  finish (s.vecIssue (vmvFields k a b) 0 (s.x b) (vmvRun d k a b m (s.x b)))

/-- VMVX: element `j` of a group to a scalar register (14_isa_vector.md R379). -/
def State.vmvxRun (s : State) (d a : Reg) (j : Nat) : Res :=
  let o := s.oper a
  let t := s.scalarTag o
  if s.operBad o t then s.illegal
  else if o.tag = tSF4 || !s.uniform o t then .trap (s.trapWord causeTagmix) s
  else s.loadAll t [o] fun xs =>
    let x := xs.getD 0 Src.zero
    let v : Nat := if o.tag = tNone || s.vl ≤ j then 0 else x.get j
    let w : Word := if tagSigned o.tag then BitVec.ofInt 64 (sextNat (tagWidth o.tag) v) else BitVec.ofNat 64 v
    match x.bad.filter (fun b => b.1 == j && decide (j < s.vl)) with
    | some b => .ok (s.defer b.1 b.2)
    | Option.none => .ok (((s.setXReply d w).chargeStrip (max 1 (tagWidth t)) 1 1).vdone [o] false)

/-- VMVX (14_isa_vector.md R379). -/
def execVmvx (d : Reg) (k : BitVec 3) (a b : Reg) (s : State) : Host.Outcome State Fault Refusal :=
  finish (s.vecHold (kindVsVi k) fun s => s.vmvxRun d a (if k = 1 then (s.x b).toNat else b.toNat))

/-- VMVS: element 0 of one register (14_isa_vector.md R379). -/
def vmvsRun (d : Reg) (xb : Word) (s : State) : Res :=
  let t0 := (s.vreg d.toNat).tag.toNat
  let t := if t0 = tNone then s.vtag else t0
  if (t0 = tNone && s.vtagBad) || decide (s.declared ≤ d.toNat) then s.illegal
  else if t = tSF4 then .trap (s.trapWord causeTagmix) s
  else match s.destStop d.toNat (tagWidth t) with
    | some r => r
    | Option.none =>
      let w := tagWidth t
      let bits := spliceElems w 0 1 (s.regBits d.toNat 1) (xb.toNat % 2 ^ w)
      let s1 := (s.setGroup d.toNat 1 t bits).chargeStrip w 1 1
      let b := s.h.binding d.toNat
      let s2 := if b.kind = 3 then
          let s2 := s1.sendStrip b bits 0 (s.vl * w / 8)
          { s2 with h := s2.h.setBinding d.toNat { b with nsseq := b.nsseq + 1 } }
        else s1
      .ok (s2.vdone [] false)

/-- VMVS (14_isa_vector.md R379). -/
def execVmvs (d b : Reg) (s : State) : Host.Outcome State Fault Refusal :=
  finish (s.vecIssue true 0 (s.x b) (vmvsRun d (s.x b)))

/-- VID on its operands (14_isa_vector.md R379). -/
def vidRun (d : Reg) (m : BitVec 1) (s : State) : Res :=
  let t := s.vtag
  if s.vtagBad || s.groupsIllegal (m = 1) d.toNat (tagWidth t) false [] t false then s.illegal
  else if !(tagInt t || t == tZ64) then .trap (s.trapWord causeTagmix) s
  else if t = tZ64 && s.qBad then s.illegal
  else match s.destStop d.toNat (tagWidth t) with
    | some r => r
    | Option.none => s.writeCut (m = 1) d.toNat t [] Option.none false 1 (tagWidth t) fun i => (if t = tZ64 then i % s.q else i, 0)

/-- VID (14_isa_vector.md R379). -/
def execVid (d : Reg) (m : BitVec 1) (s : State) : Host.Outcome State Fault Refusal := finish (s.vecIssue true 0 0 (vidRun d m))

/-- Whether VSEL takes the first operand: bit `i` of v0. -/
def selOp (bit : Nat → Bool) : Elementwise :=
  ⟨fun p => p != tSF4, id, fun _ => false, 1, fun _ _ _ i xs => (if bit i then arg0 xs else arg1 xs, 0)⟩

/-- VSEL on given operand values: every element from VSTART on is written (14_isa_vector.md R379). -/
def vselRun (d : Reg) (k : BitVec 3) (a b : Reg) (xb : Word) (s : State) : Res :=
  let o := s.oper a
  let snd := s.second k o b xb
  let p := (promoteAll s.vtag (o.tag :: (match snd with
    | .vec y => [y.tag]
    | _ => []))).getD s.vtag
  if s.maskTooLong || (d = 0 && p ≠ tMask) then s.illegal else s.elementwise (selOp s.maskBit) false d false o snd

/-- VSEL (14_isa_vector.md R379). -/
def execVsel (d : Reg) (k : BitVec 3) (a b : Reg) (s : State) : Host.Outcome State Fault Refusal :=
  finish (s.vecIssue (kindAny k) 0 (s.x b) (vselRun d k a b (s.x b)))

/-! ## Permutes -/

/-- A permute: `src` gives the source position of element `i`, none where the element keeps its bytes (14_isa_vector.md R379). -/
def State.permute (s : State) (d a : Reg) (m : Bool) (idx : Option Oper) (src : (Nat → Nat) → Nat → Option Nat) : Res :=
  let o := s.oper a
  let t := s.scalarTag o
  let srcs := o :: idx.toList
  if (o.tag = tNone && s.vtagBad) || s.groupsIllegal m d.toNat (tagWidth t) false srcs t true then s.illegal
  else if o.tag = tSF4 || t = tSF4 || !srcs.all (s.uniform · t) || idx.any (fun y => y.tag != tNone && !tagInt y.tag) then
    .trap (s.trapWord causeTagmix) s
  else match s.destStop d.toNat (tagWidth t) with
    | some r => r
    | Option.none => s.loadAll t srcs fun xs =>
      let x := xs.getD 0 Src.zero
      let pos := src (xs.getD 1 Src.zero).get
      let w := tagWidth t
      let old := s.regBits d.toNat (s.group w)
      s.writeElems m d.toNat t srcs (earliest (xs.map Src.bad)) false 1 w fun i => match pos i with
        | Option.none => (old / 2 ^ (w * i) % 2 ^ w, 0)
        | some j => (if o.tag = tNone || s.vl ≤ j then 0 else x.get j, 0)

/-- VSLIDEUP on given operand values (14_isa_vector.md R379). -/
def vslideupRun (d : Reg) (k : BitVec 3) (a b : Reg) (m : BitVec 1) (xb : Word) (s : State) : Res :=
  let n := if k = 1 then xb.toNat else b.toNat
  s.permute d a (m = 1) Option.none fun _ i => if n ≤ i then some (i - n) else Option.none

/-- VSLIDEUP (14_isa_vector.md R379). -/
def execVslideup (d : Reg) (k : BitVec 3) (a b : Reg) (m : BitVec 1) (s : State) : Host.Outcome State Fault Refusal :=
  finish (s.vecIssue (kindVsVi k) 0 (s.x b) (vslideupRun d k a b m (s.x b)))

/-- VSLIDEDN on given operand values (14_isa_vector.md R379). -/
def vslidednRun (d : Reg) (k : BitVec 3) (a b : Reg) (m : BitVec 1) (xb : Word) (s : State) : Res :=
  let n := if k = 1 then xb.toNat else b.toNat
  s.permute d a (m = 1) Option.none fun _ i => some (i + n)

/-- VSLIDEDN (14_isa_vector.md R379). -/
def execVslidedn (d : Reg) (k : BitVec 3) (a b : Reg) (m : BitVec 1) (s : State) : Host.Outcome State Fault Refusal :=
  finish (s.vecIssue (kindVsVi k) 0 (s.x b) (vslidednRun d k a b m (s.x b)))

/-- VPERM on its operands (14_isa_vector.md R379). -/
def vpermRun (d a b : Reg) (m : BitVec 1) (s : State) : Res :=
  let y := s.oper b
  s.permute d a (m = 1) (some y) fun idx i => some (if y.tag = tNone then 0 else idx i)

/-- VPERM (14_isa_vector.md R379). -/
def execVperm (d a b : Reg) (m : BitVec 1) (s : State) : Host.Outcome State Fault Refusal :=
  finish (s.vecIssue true 0 0 (vpermRun d a b m))

/-- VCOMPRESS on its operands: the active elements, in ascending order, are written from element 0 up (14_isa_vector.md R379). -/
def vcompressRun (d a : Reg) (s : State) : Res :=
  let o := s.oper a
  let t := s.scalarTag o
  let w := tagWidth t
  if (o.tag = tNone && s.vtagBad) || s.groupsIllegal true d.toNat w false [o] t true then s.illegal
  else if t = tSF4 || !s.uniform o t then .trap (s.trapWord causeTagmix) s
  else match s.destStop d.toNat w with
    | some r => r
    | Option.none => s.loadAll t [o] fun xs =>
      let x := xs.getD 0 Src.zero
      match x.bad.filter (fun b => decide (b.1 < s.vl)) with
      | some b => .ok (s.defer 0 b.2)
      | Option.none =>
        let js := (List.range s.vl).filter (s.active true)
        let g := s.group w
        let new := packCodes w (js.map fun j => if o.tag = tNone then 0 else x.get j)
        let bits := spliceElems w 0 js.length (s.regBits d.toNat g) new
        let s1 := (if js.isEmpty then s else s.setGroup d.toNat g t bits).chargeStrip w 1 s.vl
        let b := s.h.binding d.toNat
        let s2 := if b.kind = 3 && s.vl ≠ 0 then
            let s2 := s1.sendStrip b bits 0 (s.vl * w / 8)
            { s2 with h := s2.h.setBinding d.toNat { b with nsseq := b.nsseq + 1 } }
          else s1
        .ok (s2.vdone [o] false)

/-- VCOMPRESS (14_isa_vector.md R379). -/
def execVcompress (d a : Reg) (s : State) : Host.Outcome State Fault Refusal :=
  finish (s.vecIssue true 0 0 (vcompressRun d a))

/-! ## Conversion -/

/-- A floating value rounded to an integer without bound, then taken modulo q (14_isa_vector.md R380). -/
def fpToZ (r : Rnd) (q i : Nat) (v : FVal) : Nat × Flg :=
  match v with
  | .nan => (0, flNV)
  | .inf _ => (0, flNV)
  | .num neg m e more =>
    let (k, rem, sh) := splitAt m e 0
    let k' := if roundsUp r i neg k rem sh more then k + 1 else k
    let z : Int := if neg then -(k' : Int) else k'
    ((z % (q : Int)).toNat, if decide (rem ≠ 0) || more then flNX else 0)

/-- A nonzero value; a NaN counts as nonzero. -/
def FVal.nonzero : FVal → Bool
  | .num _ m _ more => decide (m ≠ 0) || more
  | _ => true

/-- A value converted to a tag, with the flag of a signalling source (14_isa_vector.md R380). -/
def cvtVal (r : Rnd) (q t i : Nat) (v : FVal) (snan : Flg) : Nat × Flg :=
  if t = tMask then (if v.nonzero then 1 else 0, 0)
  else if tagFloat t then
    let (z, f) := fRound t r i v
    (z, f ||| snan)
  else if t = tZ64 then fpToZ r q i v
  else
    let (z, f) := fToInt (tagSigned t) (tagWidth t) r i v
    (z, f ||| snan)

/-- An integer converted to a tag: integer targets take it modulo their range. -/
def cvtInt (r : Rnd) (q t i : Nat) (z : Int) : Nat × Flg :=
  if t = tMask then (if z = 0 then 0 else 1, 0)
  else if tagFloat t then fRound t r i (.ofInt z)
  else if t = tZ64 then zRes q z
  else (truncInt (tagWidth t) z, 0)

/-- One element of VCVT (14_isa_vector.md R380). -/
def cvtElem (r : Rnd) (q src t i c micro : Nat) : Nat × Flg :=
  if src = tSF4 then cvtVal r q t i (sf4Val c micro) 0
  else if tagFloat src then cvtVal r q t i (fDecode src c) (fSnanFlag src c)
  else if src = tZ64 then cvtInt r q t i (c % q : Nat)
  else cvtInt r q t i (intOf src c)

/-- VCVT on its operands; VB holds the target tag (14_isa_vector.md R380). -/
def vcvtRun (d a tg : Reg) (m : BitVec 1) (s : State) : Res :=
  let o := s.oper a
  let t := tg.toNat
  if s.groupsIllegal (m = 1) d.toNat (tagWidth t) false [o] t false then s.illegal
  else if !s.uniform o t || s.scalesBad o t then .trap (s.trapWord causeTagmix) s
  else if (o.tag = tZ64 || t = tZ64) && s.qBad then s.illegal
  else match s.destStop d.toNat (tagWidth t) with
    | some r => r
    | Option.none => s.loadAll t [o] fun xs =>
      let x := xs.getD 0 Src.zero
      s.writeCut (m = 1) d.toNat t [o] x.bad (t ≠ tMask && (tagFloat t || tagFloat o.tag || o.tag = tSF4)) 1 (max (tagWidth t) (o.width t))
        fun i => if o.tag = tNone then (0, 0) else cvtElem s.rnd s.q o.tag t i (x.get i) (x.micro i)

/-- VCVT (14_isa_vector.md R380). -/
def execVcvt (d a t : Reg) (m : BitVec 1) (s : State) : Host.Outcome State Fault Refusal :=
  finish (s.vecIssue (cvtTarget t) 0 0 (vcvtRun d a t m))

/-! ## Quantisation (14_isa_vector.md R381) -/

/-- The magnitude of a value. -/
def FVal.abs : FVal → FVal
  | .nan => .nan
  | .inf _ => .inf false
  | .num _ m e t => .num false m e t

/-- The larger of two magnitudes; a NaN wins, then an infinity. -/
def FVal.maxMag (a b : FVal) : FVal := if a.isNan then a else if b.isNan then b else if a.cmp b = -1 then b else a

/-- A band scale that makes R295 apply. -/
def bandBad (v : FVal) : Bool :=
  match v with
  | .num neg m _ _ => neg || decide (m = 0)
  | _ => true

/-- The micro-scale of the block of 8 with number `k`, over the elements that are active. -/
def quantScale (band : FVal) (act : Nat → Bool) (a : Nat → FVal) (k : Nat) : Nat × Flg :=
  let six : FVal := .num false 6 0 false
  let quots := ((List.range 8).map (8 * k + ·)).filter act |>.map fun i => (FVal.div (a i) (FVal.mul band six).1).1.abs
  fRound tE3M5 ⟨3, 0⟩ k (quots.foldl FVal.maxMag (.num false 0 0 false))

/-- The code of element `i` under a micro-scale. -/
def quantCode (r : Rnd) (band : FVal) (a : Nat → FVal) (mu i : Nat) : Nat × Flg :=
  if mu = 0 then (0, 0) else fRound tF4 r i (FVal.div (a i) (FVal.mul band (fDecode tE3M5 mu)).1).1

/-- VQSF4 on given operand values (14_isa_vector.md R381). -/
def vqsf4Run (d a : Reg) (m : BitVec 1) (xb : Word) (s : State) : Res :=
  let o := s.oper a
  if s.groupsIllegal (m = 1) d.toNat 4 true [o] tF32 false || decide (s.vstart % 8 ≠ 0) then s.illegal
  else if !s.uniform o tF32 || !(o.tag = tF16 || o.tag = tBF16 || o.tag = tF32 || o.tag = tF64) then .trap (s.trapWord causeTagmix) s
  else match s.destStop d.toNat 4 with
    | some r => r
    | Option.none => s.loadAll tF32 [o] fun xs =>
      let x := xs.getD 0 Src.zero
      let band := fDecode tBF16 (xb.toNat % 2 ^ 16)
      let val (i : Nat) : FVal := fDecode o.tag (x.get i)
      let nv (i : Nat) : Flg := if bandBad band || val i == .nan || val i == .inf false || val i == .inf true then flNV else 0
      let mu (k : Nat) : Nat × Flg := quantScale band (s.active (m = 1)) val k
      s.writePair (m = 1) d.toNat [o] x.bad true (tagWidth o.tag)
        (fun i =>
          let (c, f) := quantCode s.rnd band val (mu (i / 8)).1 i
          (c, f ||| nv i)) mu

/-- VQSF4 (14_isa_vector.md R381). -/
def execVqsf4 (d a b : Reg) (m : BitVec 1) (s : State) : Host.Outcome State Fault Refusal :=
  finish (s.vecIssue true 0 (s.x b) (vqsf4Run d a m (s.x b)))

end Sys2Proof.Machine
end

