-- ==== Sys2Proof/Machine/VecRed.lean ====
section
/-! DEFINITION. Vector reductions (14_isa_vector.md R382; 11_arithmetic.md R307 to R309). -/

set_option Elab.async false

namespace Sys2Proof.Machine

/-! ## The tree of R307 -/

/-- One level of the tree: neighbouring nodes are combined, a single one passes up. `f` gets the index (l << 32) + k. -/
def treeLevel {α : Type} (f : Nat → α → α → α × Flg) (l : Nat) : Nat → List (Option α) → List (Option α) × Flg
  | k, some a :: some b :: r =>
    let (z, fl) := f (l * 2 ^ 32 + k) a b
    let (zs, fs) := treeLevel f l (k + 1) r
    (some z :: zs, fl ||| fs)
  | k, a :: b :: r =>
    let (zs, fs) := treeLevel f l (k + 1) r
    ((match a with
      | some x => some x
      | Option.none => b) :: zs, fs)
  | _, r => (r, 0)

/-- The root of the tree over `n` more levels, from level `l` on. -/
def treeRoot {α : Type} (f : Nat → α → α → α × Flg) : Nat → Nat → List (Option α) → Option α × Flg
  | 0, _, ls => (ls.headD Option.none, 0)
  | n + 1, l, ls =>
    let (up, fl) := treeLevel f l 0 ls
    let (z, fs) := treeRoot f n (l + 1) up
    (z, fl ||| fs)

/-- L = ⌈log2 VL⌉. -/
def treeDepth (vl : Nat) : Nat := if vl ≤ 1 then 0 else Nat.log2 (vl - 1) + 1

/-- Reduce leaves: the root and the flags. -/
def treeReduce {α : Type} (f : Nat → α → α → α × Flg) (leaves : List (Option α)) : Option α × Flg :=
  treeRoot f (treeDepth leaves.length) 1 leaves

/-! ## Leaves and identities -/

/-- The least (or greatest) value of a tag: an infinity where the tag has one (11_arithmetic.md R307). -/
def extremeCode (t : Nat) (least : Bool) : Nat :=
  let w := tagWidth t
  if tagInt t then (if tagSigned t then (if least then 2 ^ (w - 1) else 2 ^ (w - 1) - 1) else (if least then 0 else 2 ^ w - 1))
  else
    let f := fmtOf t
    if least && !f.signed then 0
    else f.signBit least + (if f.top = .ieee then f.infBits else f.maxBits)

/-- Accumulator tag of R308, else the tag itself. -/
def accTag (t : Nat) : Nat :=
  if t = tSF4 || t = tF4 || t = tF8E4 || t = tF8E5 || t = tF16 || t = tBF16 then tF32 else if t = 2 then tS32 else t

/-- One sum of two codes of a tag. -/
def sumCodes (t q : Nat) (r : Rnd) (i a b : Nat) : Nat × Flg :=
  if tagInt t then intRes t (intOf t a + intOf t b) else if t = tZ64 then zRes q (a + b : Nat) else fAdd t r i a b

/-- A node of VREDDOT: an exact value, with its code once it has been rounded. -/
structure DotNode where
  val : FVal
  code : Option Nat

/-- An exact product leaf with its flags. -/
def dotLeaf (t a b : Nat) : DotNode × Flg :=
  let (v, f) := FVal.mul (fDecode t a) (fDecode t b)
  (⟨v, Option.none⟩, fSnanFlag t a ||| fSnanFlag t b ||| f)

/-- The rounded combination of two nodes. -/
def dotJoin (t : Nat) (r : Rnd) (i : Nat) (x y : DotNode) : DotNode × Flg :=
  let (v, f1) := FVal.add r.mode x.val y.val
  let (z, f2) := fRound t r i v
  (⟨fDecode t z, some z⟩, f1 ||| f2)

/-- The sum of exact products by the tree, rounded once when the root is not rounded yet (11_arithmetic.md R309). -/
def dotFloat (p acc : Nat) (r : Rnd) (leaves : List (Option (Nat × Nat))) : Nat × Flg :=
  let ls := leaves.map fun x => x.map fun ab => dotLeaf p ab.1 ab.2
  let f0 := ls.foldl (fun fl x => match x with
    | some y => fl ||| y.2
    | Option.none => fl) 0
  let (root, f1) := treeReduce (dotJoin acc r) (ls.map fun x => x.map Prod.fst)
  match root with
  | Option.none => (0, f0)
  | some ⟨_, some c⟩ => (c, f0 ||| f1)
  | some ⟨v, Option.none⟩ =>
    let (z, f2) := fRound acc r (treeDepth leaves.length * 2 ^ 32) v
    (z, f0 ||| f1 ||| f2)

/-- The exact sum of the products of one block of 128 SF4 elements. -/
def sf4Block (act : Nat → Bool) (x y : Nat → FVal) (vl b : Nat) : FVal :=
  ((List.range 128).map (128 * b + ·)).foldl (fun acc i =>
    if decide (i < vl) && act i then (FVal.add 0 acc (FVal.mul (x i) (y i)).1).1 else acc) (.num false 0 0 false)

/-- VREDDOT on SF4 (11_arithmetic.md R309), from block `b` on. -/
def sf4Dot (r : Rnd) (act : Nat → Bool) (x y : Nat → FVal) (sa sb vl : Nat) : Nat → Nat → Nat → Flg → Nat × Flg
  | 0, _, sum, fl => (sum, fl)
  | n + 1, b, sum, fl =>
    let any := (List.range 128).any fun j => decide (128 * b + j < vl) && act (128 * b + j)
    let (v1, f1) := FVal.mul (sf4Block act x y vl b) (fDecode tBF16 sa)
    let (v2, f2) := FVal.mul v1 (fDecode tBF16 sb)
    let (t, f3) := if any then (let (t, f) := fRound tF32 r b v2; (t, f ||| f1 ||| f2 ||| fSnanFlag tBF16 sa ||| fSnanFlag tBF16 sb)) else (0, 0)
    let (sum', f4) := fAdd tF32 r (2 ^ 32 + b) sum t
    sf4Dot r act x y sa sb vl n (b + 1) sum' (fl ||| f3 ||| f4)

/-! ## The instructions -/

/-- The checks on vector state of a reduction: the result is one register (14_isa_vector.md R366, R382). -/
def State.redIllegal (s : State) (m : Bool) (d : Nat) (srcs : List Oper) (p : Nat) : Bool :=
  (m && s.maskTooLong) || srcs.any (s.operBad · p) || decide (s.declared ≤ d) || (m && decide (d = 0)) ||
    srcs.any (fun o => o.kind == 0 && meets d 1 o.reg (s.span o p)) || decide (s.vstart ≠ 0)

/-- A reduction. `allowed` are the tags it accepts, `acc` its result tag, `f` the result from the active elements of the sources. -/
def State.reduce (s : State) (allowed : Nat → Bool) (acc : Nat → Nat) (f : Nat → List Src → Nat × Flg) (rounds : Nat → Bool) (d : Reg)
    (srcs : List Oper) (m : Bool) : Res :=
  let p? := promoteAll s.vtag (srcs.map Oper.tag)
  let p := p?.getD s.vtag
  let t := acc p
  if p?.isSome && (p = tNone || tagReserved p) then s.illegal
  else if s.redIllegal m d.toNat srcs p then s.illegal
  else if p?.isNone || !srcs.all (s.uniform · p) || srcs.any (s.scalesBad · p) || !allowed p then .trap (s.trapWord causeTagmix) s
  else if p = tZ64 && s.qBad then s.illegal
  else match s.destStop d.toNat (tagWidth t) with
    | some r => r
    | Option.none => s.loadAll p srcs fun xs =>
      match (earliest (xs.map Src.bad)).filter (fun b => decide (b.1 < s.vl)) with
      | some b => .ok (s.defer 0 b.2)
      | Option.none =>
        let (z, fl) := f p xs
        let w := tagWidth t
        let bits := spliceElems w 0 1 (s.regBits d.toNat 1) (z % 2 ^ w)
        let s1 := ((s.setGroup d.toNat 1 t bits).accrue fl).chargeStrip ((srcs.map (Oper.width · p)).foldl max w) 1 s.vl
        let b := s.h.binding d.toNat
        let s2 := if b.kind = 3 then
            let s2 := s1.sendStrip b bits 0 (s.vl * w / 8)
            { s2 with h := s2.h.setBinding d.toNat { b with nsseq := b.nsseq + 1 } }
          else s1
        .ok (s2.vdone srcs (rounds p))

/-- The active elements of one source in the tag `p`, absent where inactive. -/
def State.leaves (s : State) (m : Bool) (p : Nat) (x : Src) : List (Option Nat) :=
  (List.range s.vl).map fun i => if s.active m i then some (promoteElem s.q x.tag p (x.get i)) else Option.none

/-- VREDSUM on its operands (14_isa_vector.md R382). -/
def vredsumRun (d a : Reg) (m : BitVec 1) (s : State) : Res :=
  s.reduce okArith id (fun p xs =>
    let (z, fl) := treeReduce (sumCodes p s.q s.rnd) (s.leaves (m = 1) p (xs.getD 0 Src.zero))
    let c := z.getD 0
    (if p = tZ64 then c % s.q else c, fl)) tagFloat d [s.oper a] (m = 1)

/-- A maximum or minimum by the tree (14_isa_vector.md R382). -/
def State.redExtreme (s : State) (wantMax : Bool) (d a : Reg) (m : BitVec 1) : Res :=
  s.reduce okIntFp id (fun p xs =>
    let (z, fl) := treeReduce (fun _ => minMaxElem p wantMax) (s.leaves (m = 1) p (xs.getD 0 Src.zero))
    (z.getD (extremeCode p wantMax), fl)) (fun _ => false) d [s.oper a] (m = 1)

/-- VREDMAX on its operands. -/
def vredmaxRun (d a : Reg) (m : BitVec 1) (s : State) : Res := s.redExtreme true d a m

/-- VREDMIN on its operands. -/
def vredminRun (d a : Reg) (m : BitVec 1) (s : State) : Res := s.redExtreme false d a m

/-- The result of VREDDOT (11_arithmetic.md R309). -/
def State.dotResult (s : State) (m : Bool) (p : Nat) (x y : Src) : Nat × Flg :=
  let val (z : Src) (i : Nat) : FVal := if z.tag = tNone then .num false 0 0 false else sf4Val (z.get i) (z.micro i)
  if p = tSF4 then sf4Dot s.rnd (s.active m) (val x) (val y) x.band y.band s.vl ((s.vl + 127) / 128) 0 0 0
  else
    let pairs := (s.leaves m p x).zip (s.leaves m p y) |>.map fun ab => match ab.1, ab.2 with
      | some a, some b => some (a, b)
      | _, _ => Option.none
    if tagFloat p then dotFloat p (accTag p) s.rnd pairs
    else
      let total : Int := pairs.foldl (fun acc ab => match ab with
        | some (a, b) => acc + (if p = tZ64 then ((a * b : Nat) : Int) else intOf p a * intOf p b)
        | Option.none => acc) 0
      if p = tZ64 then zRes s.q total else intRes (accTag p) total

/-- VREDDOT on its operands (14_isa_vector.md R382). -/
def vreddotRun (d a b : Reg) (m : BitVec 1) (s : State) : Res :=
  s.reduce (fun p => okArith p || p == tSF4) accTag (fun p xs => s.dotResult (m = 1) p (xs.getD 0 Src.zero) (xs.getD 1 Src.zero))
    (fun p => tagFloat p || p == tSF4) d [s.oper a, s.oper b] (m = 1)

/-- VREDSUM (14_isa_vector.md R382). -/
def execVredsum (d a : Reg) (m : BitVec 1) (s : State) : Host.Outcome State Fault Refusal :=
  finish (s.vecIssue true 0 0 (vredsumRun d a m))

/-- VREDMAX (14_isa_vector.md R382). -/
def execVredmax (d a : Reg) (m : BitVec 1) (s : State) : Host.Outcome State Fault Refusal :=
  finish (s.vecIssue true 0 0 (vredmaxRun d a m))

/-- VREDMIN (14_isa_vector.md R382). -/
def execVredmin (d a : Reg) (m : BitVec 1) (s : State) : Host.Outcome State Fault Refusal :=
  finish (s.vecIssue true 0 0 (vredminRun d a m))

/-- VREDDOT (14_isa_vector.md R382). -/
def execVreddot (d a b : Reg) (m : BitVec 1) (s : State) : Host.Outcome State Fault Refusal :=
  finish (s.vecIssue true 0 0 (vreddotRun d a b m))

end Sys2Proof.Machine
end

