-- ==== Sys2Proof/Machine/VMem.lean ====
section
/-! DEFINITION. Vector memory instructions: element addresses, the run-ahead checks, batch faults, loads, stores, scatter-add, spill and
fill (08_memory.md R227 to R229; 15_isa_vmem.md R385 to R390). -/

set_option Elab.async false

namespace Sys2Proof.Machine

/-! ## Elements and their checks -/

/-- One access of an element: address, bytes, and the address to report when the element is misaligned. -/
structure VAccess where
  va : Word
  n : Nat
  mis : Option Word
deriving DecidableEq, Repr

/-- The check of the accesses of one element (08_memory.md R227). -/
def State.checkElem (s : State) (k : AccKind) : List VAccess → Except Cause (List Spot × List (Option TlbEntry))
  | [] => .ok ([], [])
  | a :: r =>
    match a.mis with
    | some w => .error (.trap ⟨causeMisalign, w⟩)
    | none => match s.checkAt a.va a.n k s.h.level with
      | .error c => .error c
      | .ok h => match s.checkElem k r with
        | .error c => .error c
        | .ok (l, f) => .ok (⟨a.va, h.loc, a.n⟩ :: l, h.fill :: f)

/-- What the run-ahead pass finds: the elements that may be performed, the absent ones, and the translations to keep. -/
structure Ahead where
  ready : List (Nat × List Spot)
  absent : List (Nat × AbsentElem)
  fills : List (Option TlbEntry)

/-- The absent entry of an element: the access that reaches it decides the address reported. -/
def State.absentOf (s : State) (k : AccKind) (accs : List VAccess) (entry : Nat) (leaf : Word) (lvl : Nat) : AbsentElem :=
  let hit := accs.find? fun a => match s.checkAt a.va a.n k s.h.level with
    | .error (.absent e _ _) => e == entry
    | _ => false
  ⟨entry, leaf, lvl, ((hit.map VAccess.va).getD 0).toNat, k != .load⟩

/-- The run-ahead pass: the lowest element whose cause is no absent page decides (08_memory.md R228). -/
def State.runAhead (s : State) (k : AccKind) (accs : Nat → List VAccess) : List Nat → Except Trap Ahead
  | [] => .ok ⟨[], [], []⟩
  | i :: r =>
    match s.checkElem k (accs i) with
    | .error (.trap t) => .error t
    | .error (.absent entry leaf lvl) => (s.runAhead k accs r).map fun a => { a with absent := (i, s.absentOf k (accs i) entry leaf lvl) :: a.absent }
    | .ok (l, f) => (s.runAhead k accs r).map fun a => { a with ready := (i, l) :: a.ready, fills := f ++ a.fills }

/-- The elements that are performed: by the run-ahead pass, or those that were checked when the instruction entered the vector queue. -/
def State.ahead (s : State) (k : AccKind) (accs : Nat → List VAccess) (idx : List Nat) : Except Trap Ahead :=
  match s.h.vec.mode with
  | .checked els => .ok ⟨els.filter fun e => idx.contains e.1, [], []⟩
  | _ => s.runAhead k accs idx

/-- Elements whose FM bit is set. -/
def fmElems (fm n : Nat) : List Nat := (List.range n).filter fm.testBit

/-- FM as a number. -/
def fmOf (l : List Nat) : Nat := l.foldl (fun m i => m ||| 2 ^ i) 0

/-- Write FM. -/
def State.setFm (s : State) (fm : Nat) : State := { s with h := { s.h with vec := { s.h.vec with fm := fm, fmArmed := false } } }

/-- The instruction has performed every element: FM is 0 when it was run under FM; a mask that is held over a trap stays (08_memory.md R229,
10_traps.md R279). -/
def State.doneFm (s : State) (armed : Bool) : State := if armed then s.setFm 0 else s

/-- The elements that were checked wait in the vector queue. -/
def State.checkedEls (s : State) (els : List (Nat × List Spot)) : State := { s with h := { s.h with vec := { s.h.vec with mode := .checked els } } }

/-- The lines of an element that consumed poison are poisoned from then on (08_memory.md R233). -/
def State.spoilElem (s : State) (els : List (Nat × List Spot)) (poison : Option (Nat × Trap)) : State :=
  match poison with
  | none => s
  | some p => ((els.filter fun e => decide (e.1 = p.1)).flatMap Prod.snd).foldl (fun s x => s.spoil x.loc x.n) s

/-- Run a vector memory instruction of `w`-bit elements: `count` elements, `act` the elements active beside VSTART, `accs` the accesses of an element, `bad`
an element whose strip fails, `perform` the effect on the ready elements with the first that consumes poison, `last` what completion adds
(08_memory.md R228, R229; 10_traps.md R275, R279, R280). Before it waits in the queue only its checks are made; one that would not pass them does not enter.
In the queue it performs the accesses that were checked. -/
def State.vmem (s : State) (w : Nat) (k : AccKind) (count : Nat) (act : Nat → Bool) (accs : Nat → List VAccess) (bad : Option (Nat × Trap))
    (perform : State → List (Nat × List Spot) → State × Option (Nat × Trap)) (last : State → State) : Res :=
  let armed := s.h.vec.fmArmed
  if !armed && decide (count ≤ s.vstart) then
    let s := if s.h.vec.mode = .check then s.checkedEls [] else s
    .ok { s with h := { s.h with csr := { s.h.csr with vstart := 0 } } }
  else
    let all := if armed then fmElems s.h.vec.fm (16 * s.vlenb) else (List.range count).filter fun i => decide (s.vstart ≤ i) && act i
    let stop := bad.filter fun b => all.any fun i => decide (b.1 ≤ i)
    let idx := match stop with
      | some b => all.filter fun i => decide (i < b.1)
      | none => all
    match s.ahead k accs idx with
    | .error t => .trap t s
    | .ok a =>
      let s0 := (a.fills.foldl State.fill s).countAccess 0x08
      if s.h.vec.mode = .check then (if armed || stop.isSome || !a.absent.isEmpty then .wait s else .ok (s0.checkedEls a.ready))
      else
        let cut := if armed || stop.isSome || !a.absent.isEmpty then none else s.cutPoint w count
        let (s1, poison) := perform s0 (match cut with
          | some p => a.ready.filter fun e => decide (e.1 < p)
          | none => a.ready)
        let s1 := s1.spoilElem a.ready poison
        let s1 := if armed then s1.chargeEls w (a.ready.map Prod.fst) else s1.chargeRange w 1 s.vstart (cut.getD ((stop.map Prod.fst).getD count))
        let fail := match poison with
          | some p => some p
          | none => stop
        match fail, a.absent, cut with
        | none, [], none => .ok (last (s1.doneFm armed)).lateReply
        | none, [], some p => .wait { s1 with h := { s1.h with csr := { s1.h.csr with vstart := BitVec.ofNat 22 p } } }
        | some b, [], _ => .ok ((s1.doneFm armed).defer b.1 b.2)
        | none, gone, _ => (s1.setFm (fmOf (gone.map Prod.fst))).absentFault (gone.map Prod.snd)
        | some b, gone, _ => .wait ((s1.setFm (fmOf (gone.map Prod.fst))).defer b.1 b.2)

/-! ## Loading -/

/-- The bytes of the accesses of one element, or the address that is poison. -/
def State.readSpots (s : State) : List Spot → Except Word (List Nat)
  | [] => .ok []
  | p :: r => match s.readLoc p.loc p.n with
    | none => .error p.va
    | some v => (s.readSpots r).map (v :: ·)

/-- Put a code into an element of a group. -/
def putElem (w i c bits : Nat) : Nat := spliceElems w i (i + 1) bits (c % 2 ^ w)

/-- Load the ready elements into a group, and its scales for SF4: `place` puts the values read for an element. -/
def State.loadElems (s : State) (place : Nat → List Nat → Nat × Nat → Nat × Nat) :
    List (Nat × List Spot) → Nat × Nat → (Nat × Nat) × Option (Nat × Trap)
  | [], b => (b, none)
  | (i, ps) :: r, b => match s.readSpots ps with
    | .error va => (b, some (i, ⟨causePoison, va⟩))
    | .ok vs => s.loadElems place r (place i vs b)

/-! ## Storing -/

/-- Every element that shares a byte with element `i` of `w` bits is among them. -/
def wholeByte (w : Nat) (els : List (Nat × List Spot)) (i : Nat) : Bool :=
  decide (8 ≤ w) || (List.range (8 / w)).all fun j => els.any fun e => e.1 == i / (8 / w) * (8 / w) + j

/-- The HBM bytes that elements of `w` bits store whole, with their key ids; a byte that elements share is whole when all of them are stored, and an SF4
element's micro-scale, its second access, is a byte of its own (15_isa_vmem.md R388). -/
def hbmBytes (w : Nat) (els : List (Nat × List Spot)) : List (Nat × Nat) :=
  els.flatMap fun e => (if wholeByte w els e.1 then e.2 else e.2.drop 1).flatMap fun p => match p.loc with
    | .spad _ _ => []
    | .hbm pa key => (List.range p.n).map fun j => (pa + j, key)

/-- Lines that one element group covers whole under one key id (08_memory.md R233). -/
def wholeLines (w : Nat) (els : List (Nat × List Spot)) : List (Nat × Nat) :=
  let bs := hbmBytes w els
  ((bs.map fun b => (lineOf b.1, b.2)).dedup).filter fun l => (List.range 64).all fun j => bs.contains (64 * l.1 + j, l.2)

/-- A whole line is allocated without reading it. -/
def State.freshLine (s : State) (l : Nat × Nat) : State := (s.writeLoc (.hbm (64 * l.1) l.2) 64 0).getD s

/-- One element can be stored: each byte's line or word accepts the write, given the lines allocated whole. -/
def State.canStore (s : State) (lines : List (Nat × Nat)) (e : Nat × List Spot) : Option Word :=
  (e.2.find? fun p => match p.loc with
    | .spad _ _ => (s.writeLoc p.loc p.n 0).isNone
    | .hbm pa key => !(lines.contains (lineOf pa, key)) && (s.writeLoc p.loc p.n 0).isNone).map Spot.va

/-- The leading elements of a group that can be stored, and the first that cannot. -/
def State.storable (s : State) (w : Nat) : Nat → List (Nat × List Spot) → List (Nat × List Spot) × Option (Nat × Trap)
  | 0, _ => ([], none)
  | fuel + 1, els =>
    let lines := wholeLines w els
    match els.findIdx? (fun e => (s.canStore lines e).isSome) with
    | none => (els, none)
    | some j =>
      let va := ((els[j]?).bind (s.canStore lines)).getD 0
      let (good, bad) := s.storable w fuel (els.take j)
      (good, match bad with
        | some b => some b
        | none => (els[j]?).map fun e => (e.1, ⟨causePoison, va⟩))

/-- Store one element: `value` gives the bytes of its `j`-th access, from what stands there. -/
def State.storeSpots (s : State) (value : Nat → Nat → Nat) : Nat → List Spot → State
  | _, [] => s
  | j, p :: r =>
    let old := (s.readLoc p.loc p.n).getD 0
    ((s.writeLoc p.loc p.n (value j old)).getD s).storeSpots value (j + 1) r

/-- Store one element group: the lines it covers whole are allocated, then the elements are written in order, so that the higher index
wins (09_ordering.md R250). -/
def State.storeGroup (s : State) (w : Nat) (value : Nat → Nat → Nat → Nat) (els : List (Nat × List Spot)) : State × Option (Nat × Trap) :=
  let (good, bad) := s.storable w (els.length + 1) els
  let s1 := (wholeLines w good).foldl State.freshLine s
  (good.foldl (fun s e => s.storeSpots (value e.1) 0 e.2) s1, bad)

/-- Store element groups of `e` elements of `w` bits, in order, until one fails. -/
def State.storeElems (s : State) (w : Nat) (value : Nat → Nat → Nat → Nat) (e : Nat) : Nat → List (Nat × List Spot) → State × Option (Nat × Trap)
  | 0, _ => (s, none)
  | _, [] => (s, none)
  | fuel + 1, x :: r =>
    let g := x.1 / e
    let (s1, bad) := s.storeGroup w value (x :: r.takeWhile fun y => y.1 / e == g)
    match bad with
    | some b => (s1, some b)
    | none => s1.storeElems w value e fuel (r.dropWhile fun y => y.1 / e == g)

/-- Elements of `w` bits in an element group of the hart (07_core.md R178). -/
def State.groupElems (s : State) (w : Nat) : Nat := 8 * s.groupBytes / w

/-! ## Addresses (15_isa_vmem.md R387, R388) -/

/-- A misaligned address for elements of `n` bytes. -/
def misalign (va : Word) (n : Nat) : Option Word := if va.toNat % n = 0 then none else some va

/-- Accesses of element `i` of VLD and VST. -/
def unitAccess (base : Word) (t i : Nat) : List VAccess :=
  let w := tagWidth t
  if t = tSF4 then
    let b := base + BitVec.ofNat 64 (80 * (i / 128))
    let mis := if base.toNat % 16 = 0 then none else some base
    [⟨b + BitVec.ofNat 64 (i % 128 / 2), 1, mis⟩, ⟨b + BitVec.ofNat 64 (64 + i % 128 / 8), 1, mis⟩]
  else if w < 8 then [⟨base + BitVec.ofNat 64 (i * w / 8), 1, none⟩]
  else
    let a := base + BitVec.ofNat 64 (i * (w / 8))
    [⟨a, w / 8, misalign a (w / 8)⟩]

/-- The access of an element of whole bytes at an address. -/
def wideAccess (t : Nat) (a : Word) : List VAccess := [⟨a, tagWidth t / 8, misalign a (tagWidth t / 8)⟩]

/-- Offset of element `i` of an index group. -/
def indexOff (x : Src) (i : Nat) : Word :=
  if x.tag = tNone then 0
  else if tagSigned x.tag then BitVec.ofInt 64 (sextNat (tagWidth x.tag) (x.get i))
  else BitVec.ofNat 64 (x.get i)

/-- A tag that an index group may carry. -/
def indexTag (t : Nat) : Bool := t == tNone || tagInt t

/-- Code of element `i` from the bytes read for it (15_isa_vmem.md R388). -/
def codeFrom (t i v : Nat) : Nat :=
  if t = tMask then v / 2 ^ (i % 8) % 2 else if tagWidth t = 4 then v / 2 ^ (4 * (i % 2)) % 16 else v

/-- Byte or element to store for element `i` with code `c` over `old`. -/
def codeInto (t i c old : Nat) : Nat :=
  if t = tMask then spliceElems 1 (i % 8) (i % 8 + 1) old (c % 2)
  else if tagWidth t = 4 then spliceElems 4 (i % 2) (i % 2 + 1) old (c % 16)
  else c

/-! ## Loads and stores -/

/-- An instruction that closes the RLX window, waits for marked accesses, and starts only when no vector instruction of the hart waits
(09_ordering.md R246, R247). -/
def State.vecAlone (s : State) (legal : Bool) (k : State → Res) : Res :=
  s.vecHold legal fun s => s.closeWindow.unmarked k

/-- A vector memory instruction closes the RLX window and waits for marked accesses (09_ordering.md R246, R247, R249). Where it waits in the vector queue, its
elements are checked now, and it performs the accesses that passed (08_memory.md R227, R237); one that would fault waits until nothing is before it. -/
def State.vecMem (s : State) (wr : Bool) (xa xb : Word) (run : State → Res) : Res :=
  s.vecGate true (s.closeWindow.unmarked fun s =>
    if !s.vecLater then run s
    else if 8 ≤ s.h.vec.vq.length || s.vecHazard then .wait s
    else match run { s.asQueued with h := { s.asQueued.h with vec := { s.h.vec with mode := .check } } } with
      | .trap t _ => .trap t s
      | .wait _ => .wait s
      | .ok u => match u.h.vec.mode with
        | .checked els => .ok ({ s with c := u.c, draws := u.draws }.enqueueVec (s.entryNow xa xb (some els) wr))
        | _ => .wait s)

/-- Where a load or store takes its elements: the packed base, or an address for each element with an index group's strip; `wide` is the width of an index
element. -/
structure Place where
  accs : Nat → List VAccess
  srcs : List Oper
  bad : Option (Nat × Trap)
  wide : Nat

/-- Registers that a loaded group takes: those of R363, and those that elements in FM reach (08_memory.md R229). -/
def State.loadSpan (s : State) (w : Nat) : Nat :=
  if s.h.vec.fmArmed then
    let n := fmElems s.h.vec.fm (16 * s.vlenb) |>.foldl (fun m i => max m (i + 1)) 0
    max (s.group w) ((n * w + (8 * s.vlenb - 1)) / (8 * s.vlenb))
  else s.group w

/-- Load into a group under the operating tag (15_isa_vmem.md R386). -/
def State.vload (s : State) (m : Bool) (d : Reg) (p : Place) : Res :=
  let t := s.vtag
  let w := tagWidth t
  let g := s.loadSpan w
  let pair := decide (t = tSF4)
  let place (i : Nat) (vs : List Nat) (b : Nat × Nat) : Nat × Nat :=
    (putElem w i (codeFrom t i (vs.getD 0 0)) b.1, if pair then putElem 8 (i / 8) (vs.getD 1 0) b.2 else 0)
  match s.destStop d.toNat w with
  | some r => r
  | none =>
    s.vmem (max w p.wide) .load s.vl (fun i => !m || s.maskBit i) p.accs p.bad
      (fun s els =>
        let (bits, bad) := s.loadElems place els (s.regBits d.toNat g, if pair then s.regBits (d.toNat + g) g else 0)
        let n := match bad with
          | some b => (els.filter fun e => decide (e.1 < b.1)).length
          | none => els.length
        let s1 := if n = 0 then s else
          let s1 := s.setGroup d.toNat g t bits.1
          if pair then s1.setGroup (d.toNat + g) g tE3M5 bits.2 else s1
        (s1, bad))
      fun s2 =>
        let b := s2.h.binding d.toNat
        let s3 := if b.kind = 3 then
            let s3 := s2.sendStrip b (s2.regBits d.toNat g) (s2.vstart * w / 8) (s2.vl * w / 8)
            { s3 with h := s3.h.setBinding d.toNat { b with nsseq := b.nsseq + 1 } }
          else s2
        s3.vdone p.srcs false

/-- Store a data group (15_isa_vmem.md R386). -/
def State.vstore (s : State) (m : Bool) (t : Nat) (x : Src) (p : Place) : Res :=
  let code (i : Nat) : Nat := if x.tag = tNone then 0 else x.get i
  let value (i j old : Nat) : Nat := if j = 0 then codeInto t i (code i) old else if x.tag = tNone then 0 else x.micro i
  s.vmem (max (tagWidth t) p.wide) .store s.vl (fun i => !m || s.maskBit i) p.accs p.bad
    (fun s els => s.storeElems (tagWidth t) value (s.groupElems (tagWidth t)) (els.length + 1) els)
    fun s2 => s2.vdone p.srcs false

/-- The checks of a load that depend on vector state. -/
def State.loadIllegal (s : State) (m : Bool) (d : Reg) : Bool :=
  let t := s.vtag
  s.vtagBad || s.groupsIllegal m d.toNat (tagWidth t) (decide (t = tSF4)) [] t false

/-- VLD on given operand values (15_isa_vmem.md R387, R388). -/
def vldRun (d : Reg) (m : BitVec 1) (xa : Word) (s : State) : Res :=
  if s.loadIllegal (m = 1) d then s.illegal
  else s.vload (m = 1) d ⟨unitAccess xa s.vtag, [], none, 0⟩

/-- VLD (15_isa_vmem.md R387, R388). -/
def execVld (d a : Reg) (m : BitVec 1) (s : State) : Host.Outcome State Fault Refusal :=
  finish (s.vecMem false (s.x a) 0 (vldRun d m (s.x a)))

/-- VLDS on given operand values (15_isa_vmem.md R387). -/
def vldsRun (d : Reg) (m : BitVec 1) (xa xb : Word) (s : State) : Res :=
  if s.loadIllegal (m = 1) d || decide (tagWidth s.vtag < 8) then s.illegal
  else s.vload (m = 1) d ⟨fun i => wideAccess s.vtag (xa + BitVec.ofNat 64 i * xb), [], none, 0⟩

/-- VLDS (15_isa_vmem.md R387). -/
def execVlds (d a b : Reg) (m : BitVec 1) (s : State) : Host.Outcome State Fault Refusal :=
  finish (s.vecMem false (s.x a) (s.x b) (vldsRun d m (s.x a) (s.x b)))

/-- Read an index group and go on with the addresses that it gives. -/
def State.indexed (s : State) (base : Word) (t : Nat) (ix : Oper) (k : Place → Res) : Res :=
  s.loadAll t [ix] fun xs =>
    let x := xs.getD 0 Src.zero
    k ⟨fun i => wideAccess t (base + indexOff x i), [ix], x.bad.filter fun b => decide (b.1 < s.vl), ix.width t⟩

/-- VLDX on given operand values (15_isa_vmem.md R387). -/
def vldxRun (d b : Reg) (m : BitVec 1) (xa : Word) (s : State) : Res :=
  let t := s.vtag
  let ix := s.oper b
  if s.loadIllegal (m = 1) d || decide (tagWidth t < 8) || s.operBad ix t ||
      (ix.kind == 0 && meets d.toNat (s.group (tagWidth t)) ix.reg (s.span ix t)) then s.illegal
  else if !s.uniform ix t || !indexTag ix.tag then .trap (s.trapWord causeTagmix) s
  else match s.destStop d.toNat (tagWidth t) with
    | some r => r
    | none => s.indexed (xa) t ix fun p => s.vload (m = 1) d p

/-- VLDX (15_isa_vmem.md R387). -/
def execVldx (d a b : Reg) (m : BitVec 1) (s : State) : Host.Outcome State Fault Refusal :=
  finish (s.vecMem false (s.x a) 0 (vldxRun d b m (s.x a)))

/-- The checks of a store that depend on vector state; `wide` where the tag must have whole bytes. -/
def State.storeIllegal (s : State) (m wide : Bool) (o : Oper) : Bool :=
  let t := s.scalarTag o
  (o.tag == tNone && s.vtagBad) || (m && s.maskTooLong) || s.operBad o t || (wide && decide (tagWidth t < 8))

/-- VST on given operand values (15_isa_vmem.md R387, R388). -/
def vstRun (d : Reg) (m : BitVec 1) (xa : Word) (s : State) : Res :=
  let o := s.oper d
  let t := s.scalarTag o
  if s.storeIllegal (m = 1) false o then s.illegal
  else if !s.uniform o t || s.scalesBad o t then .trap (s.trapWord causeTagmix) s
  else s.loadAll t [o] fun xs =>
    let x := xs.getD 0 Src.zero
    s.vstore (m = 1) t x ⟨unitAccess (xa) t, [o], x.bad.filter fun b => decide (b.1 < s.vl), 0⟩

/-- VST (15_isa_vmem.md R387, R388). -/
def execVst (d a : Reg) (m : BitVec 1) (s : State) : Host.Outcome State Fault Refusal :=
  finish (s.vecMem true (s.x a) 0 (vstRun d m (s.x a)))

/-- VSTS on given operand values (15_isa_vmem.md R387). -/
def vstsRun (d : Reg) (m : BitVec 1) (xa xb : Word) (s : State) : Res :=
  let o := s.oper d
  let t := s.scalarTag o
  if s.storeIllegal (m = 1) true o then s.illegal
  else if !s.uniform o t then .trap (s.trapWord causeTagmix) s
  else s.loadAll t [o] fun xs =>
    let x := xs.getD 0 Src.zero
    s.vstore (m = 1) t x ⟨fun i => wideAccess t (xa + BitVec.ofNat 64 i * xb), [o], x.bad.filter fun b => decide (b.1 < s.vl), 0⟩

/-- VSTS (15_isa_vmem.md R387). -/
def execVsts (d a b : Reg) (m : BitVec 1) (s : State) : Host.Outcome State Fault Refusal :=
  finish (s.vecMem true (s.x a) (s.x b) (vstsRun d m (s.x a) (s.x b)))

/-- VSTX on given operand values (15_isa_vmem.md R387). -/
def vstxRun (d b : Reg) (m : BitVec 1) (xa : Word) (s : State) : Res :=
  let o := s.oper d
  let ix := s.oper b
  let t := s.scalarTag o
  if s.storeIllegal (m = 1) true o || s.operBad ix t then s.illegal
  else if !s.uniform o t || !s.uniform ix t || !indexTag ix.tag then .trap (s.trapWord causeTagmix) s
  else s.loadAll t [o] fun xs =>
    let x := xs.getD 0 Src.zero
    s.indexed (xa) t ix fun p =>
      s.vstore (m = 1) t x { p with srcs := [o, ix], bad := earliest [x.bad.filter fun b => decide (b.1 < s.vl), p.bad] }

/-- VSTX (15_isa_vmem.md R387). -/
def execVstx (d a b : Reg) (m : BitVec 1) (s : State) : Host.Outcome State Fault Refusal :=
  finish (s.vecMem true (s.x a) 0 (vstxRun d b m (s.x a)))

/-! ## Scatter-add (15_isa_vmem.md R389; 11_arithmetic.md R310) -/

/-- Tags that VSCADD adds in. -/
def scaddTag (t : Nat) : Bool := tagInt t || t == tF16 || t == tBF16 || t == tF32 || t == tF64 || t == tZ64

/-- Merge elements by address, in element order: address, lowest element, sum and flags. -/
def mergeElems (t q : Nat) (r : Rnd) (addr : Nat → Word) (code : Nat → Nat) : List Nat → List (Word × Nat × Nat × Flg) → List (Word × Nat × Nat × Flg)
  | [], acc => acc
  | i :: l, acc =>
    let a := addr i
    if acc.any (·.1 == a) then
      mergeElems t q r addr code l (acc.map fun e =>
        if e.1 == a then (let (z, f) := sumCodes t q r i e.2.2.1 (code i); (e.1, e.2.1, z, e.2.2.2 ||| f)) else e)
    else mergeElems t q r addr code l (acc ++ [(a, i, code i, 0)])

/-- The one update of a distinct address. -/
def State.scaddOne (s : State) (t : Nat) (u : Word × Nat × Nat × Flg) (e : Nat × List Spot) : Option State :=
  match e.2 with
  | [] => some s
  | p :: _ => match s.readLoc p.loc p.n with
    | none => none
    | some old =>
      let (z, f) := sumCodes t s.q s.rnd (2 ^ 32 + u.2.1) (if t = tZ64 then old % s.q else old) u.2.2.1
      (s.writeLoc p.loc p.n z).map fun s1 => s1.accrue (f ||| u.2.2.2)

/-- The updates of the ready elements that are the lowest of their address. -/
def State.scaddAll (s : State) (t : Nat) (merged : List (Word × Nat × Nat × Flg)) : List (Nat × List Spot) → State × Option (Nat × Trap)
  | [] => (s, none)
  | e :: r => match merged.find? (·.2.1 == e.1) with
    | none => s.scaddAll t merged r
    | some u => match s.scaddOne t u e with
      | none => (s, some (e.1, ⟨causePoison, u.1⟩))
      | some s1 => s1.scaddAll t merged r

/-- VSCADD on given operand values (15_isa_vmem.md R389). -/
def vscaddRun (d b : Reg) (m : BitVec 1) (xa : Word) (s : State) : Res :=
  let o := s.oper d
  let ix := s.oper b
  let t := s.scalarTag o
  if s.storeIllegal (m = 1) true o || s.operBad ix t then s.illegal
  else if !s.uniform o t || !s.uniform ix t || !indexTag ix.tag || !scaddTag t then .trap (s.trapWord causeTagmix) s
  else if t = tZ64 && s.qBad then s.illegal
  else s.loadAll t [o] fun xs =>
    let x := xs.getD 0 Src.zero
    s.loadAll t [ix] fun ys =>
      let y := ys.getD 0 Src.zero
      let addr (i : Nat) : Word := xa + indexOff y i
      let code (i : Nat) : Nat := if x.tag = tNone then 0 else if t = tZ64 then x.get i % s.q else x.get i
      let bad := earliest [x.bad.filter fun b => decide (b.1 < s.vl), y.bad.filter fun b => decide (b.1 < s.vl)]
      let mine := (List.range s.vl).filter fun i => (m ≠ 1 || s.maskBit i) && (match bad with
        | some b => decide (i < b.1)
        | none => true)
      let merged := mergeElems t s.q s.rnd addr code mine []
      s.vmem (max (tagWidth t) (ix.width t)) .atomic s.vl (fun i => m ≠ 1 || s.maskBit i) (fun i => wideAccess t (addr i)) bad
        (fun s els => s.scaddAll t merged els)
        fun s2 => s2.vdone [o, ix] (tagFloat t)

/-- VSCADD (15_isa_vmem.md R389). -/
def execVscadd (d a b : Reg) (m : BitVec 1) (s : State) : Host.Outcome State Fault Refusal :=
  finish (s.vecMem true (s.x a) 0 (vscaddRun d b m (s.x a)))

/-! ## Spill and fill (15_isa_vmem.md R390, 10_traps.md R286) -/

/-- LEN of a vector record: `v` elements of a tag. -/
def recordLen (vlenb v t : Nat) : Nat :=
  if t = tNone then 0 else min vlenb (64 * (((v * tagWidth t + 7) / 8 + 63) / 64))

/-- The 16-byte header of a vector or tile record as two words. -/
def recordHeader (len tag num vlenb : Nat) : Nat × Nat := (len + tag * 2 ^ 32 + num * 2 ^ 40, vlenb)

/-- Accesses of data word `i` of a record; the header goes with word 0. -/
def spillAccess (base : Word) (len i : Nat) : List VAccess :=
  (if i = 0 then [⟨base, 8, none⟩, ⟨base + 8, 8, none⟩] else []) ++
    (if 8 * i < len then [⟨base + BitVec.ofNat 64 (16 + 8 * i), 8, none⟩] else [])

/-- VSPILL on given operand values (15_isa_vmem.md R390). -/
def vspillRun (d : Reg) (xa : Word) (s : State) : Res :=
  let base := xa
  let v := s.vreg d.toNat
  let t := v.tag.toNat
  let len := recordLen s.vlenb s.vl t
  let hd := recordHeader len t d.toNat s.vlenb
  let value (i j _old : Nat) : Nat :=
    if i = 0 && j = 0 then hd.1 else if i = 0 && j = 1 then hd.2 else v.bits / 2 ^ (64 * i) % 2 ^ 64
  if s.declared ≤ d.toNat then s.illegal
  else if base.toNat % 64 ≠ 0 then .trap ⟨causeMisalign, base⟩ s
  else if s.boundDest d.toNat then s.stream
  else s.vmem 64 .store (max 1 (len / 8)) (fun _ => true) (spillAccess base len) none
    (fun s els => s.storeElems 64 value (s.groupElems 64) (els.length + 1) els)
    fun s2 => s2.vdone [] false

/-- VSPILL (15_isa_vmem.md R390). -/
def execVspill (d a : Reg) (s : State) : Host.Outcome State Fault Refusal :=
  finish (s.vecMem true (s.x a) 0 (vspillRun d (s.x a)))

/-- A header that VFILL accepts: LEN and tag. -/
def fillHeader (vlenb h0 : Nat) : Option (Nat × Nat) :=
  let len := h0 % 2 ^ 32
  let t := h0 / 2 ^ 32 % 256
  if vlenb < len || len % 64 ≠ 0 || tagReserved t || (t = tNone && len ≠ 0) || h0 / 2 ^ 48 ≠ 0 then none else some (len, t)

/-- VFILL (15_isa_vmem.md R390). The header is read whole before the data words. -/
def execVfill (d a : Reg) (s : State) : Host.Outcome State Fault Refusal :=
  finish (s.vecAlone true fun s =>
    let base := s.x a
    if s.declared ≤ d.toNat then s.illegal
    else if base.toNat % 64 ≠ 0 then .trap ⟨causeMisalign, base⟩ s
    else if s.boundDest d.toNat then s.stream
    else match s.checkAt base 16 .load s.h.level with
      | .error c => s.oneFault base false c
      | .ok hit => match s.readLoc hit.loc 16 with
        | none => .ok (s.defer s.vstart ⟨causePoison, base⟩)
        | some hd => match fillHeader s.vlenb (hd % 2 ^ 64) with
          | none => s.illegal
          | some (len, t) =>
            let s0 := s.fill hit.fill
            let sent (s : State) : State :=
              let b := s.h.binding d.toNat
              if b.kind = 3 then
                let s1 := s.sendStrip b (s.regBits d.toNat 1) 0 (s.vl * tagWidth t / 8)
                { s1 with h := s1.h.setBinding d.toNat { b with nsseq := b.nsseq + 1 } }
              else s
            match s0.destStop d.toNat (tagWidth t) with
            | some r => r
            | none =>
              if len = 0 then .ok ((sent ((if t = tNone then s0.killGroup d.toNat 1 else s0.setGroup d.toNat 1 t 0).doneFm s0.h.vec.fmArmed)).vdone [] false)
              else s0.vmem 64 .load (len / 8) (fun _ => true) (fun i => [⟨base + BitVec.ofNat 64 (16 + 8 * i), 8, none⟩]) none
                (fun s els =>
                  let (bits, bad) := s.loadElems (fun i vs b => (putElem 64 i (vs.getD 0 0) b.1, 0)) els (s.regBits d.toNat 1 % 2 ^ (8 * len), 0)
                  let any := match bad with
                    | some b => els.any fun e => decide (e.1 < b.1)
                    | none => !els.isEmpty
                  (if any then s.setGroup d.toNat 1 t bits.1 else s, bad))
                fun s2 => (sent s2).vdone [] false)

end Sys2Proof.Machine
end

