-- ==== Sys2Proof/Machine/Stream.lean ====
section
/-! DEFINITION. Stream bindings: STBIND, STRBIND, STFBIND and STUNBIND (15_isa_vmem.md R391 to R397; 08_memory.md R231). -/

set_option Elab.async false

namespace Sys2Proof.Machine

/-! ## Records (15_isa_vmem.md R391) -/

/-- `n` bytes at offset `o` of a record, little-endian. -/
def recField (r o n : Nat) : Nat := r / 2 ^ (8 * o) % 2 ^ (8 * n)

/-- A binding from its record. -/
def Binding.ofRecord (r : Nat) : Binding :=
  { kind := BitVec.ofNat 8 (recField r 0 1), otag := BitVec.ofNat 5 (recField r 1 1), sfmt := BitVec.ofNat 5 (recField r 2 1)
    rtreg := BitVec.ofNat 3 (recField r 3 1), blen := BitVec.ofNat 32 (recField r 4 4), addr := BitVec.ofNat 64 (recField r 8 8)
    len := BitVec.ofNat 64 (recField r 16 8), stride := BitVec.ofNat 64 (recField r 24 8), bsp := BitVec.ofNat 64 (recField r 32 8)
    pos := BitVec.ofNat 64 (recField r 48 8), nsseq := BitVec.ofNat 32 (recField r 56 4), pins := [], ahead := [] }

/-- A reserved field of a record of this KIND is nonzero (15_isa_vmem.md R391, R392). -/
def recordReserved (kind r : Nat) : Bool :=
  let nz (o n : Nat) : Bool := recField r o n != 0
  nz 40 8 || nz 60 4 ||
    (match kind with
      | 1 => decide (32 ≤ recField r 1 1) || decide (32 ≤ recField r 2 1) || nz 3 1 || nz 56 4
      | 2 => decide (32 ≤ recField r 1 1) || nz 2 1 || nz 3 1 || nz 4 4 || nz 16 8 || nz 24 8 || nz 32 8 || nz 48 8 || nz 56 4
      | _ => nz 1 1 || nz 2 1 || decide (8 ≤ recField r 3 1) || nz 4 4 || nz 18 6 || nz 28 4 || nz 32 8 || nz 48 8)

/-- The common part of the bind instructions: the register, the record, and its common checks. -/
def State.bind (s : State) (kind : Nat) (d a : Reg) (k : State → Nat → Res) : Res :=
  s.vecAlone (streamReg d) fun s =>
    if s.declared ≤ d.toNat then s.illegal
    else s.readRecord (s.x a) 64 64 fun s r =>
      if (s.h.binding d.toNat).kind ≠ 0 || recField r 0 1 ≠ kind || recordReserved kind r then s.stream else k s r

/-- Install a binding: the register's tag becomes `tag` where one is given, its VDIRTY bit clears, and VS becomes Dirty. -/
def State.install (s : State) (d : Reg) (b : Binding) (tag : Option (BitVec 5)) : State :=
  let h := s.h.setBinding d.toNat b
  let i : Fin 32 := ⟨d.toNat, d.isLt⟩
  { s with h := { h with
      vec := match tag with
        | none => h.vec
        | some t => { h.vec with v := h.vec.v.set i { h.vec.v.get i with tag := t } }
      csr := { h.csr with vdirty := h.csr.vdirty &&& ~~~(BitVec.ofNat 32 (2 ^ d.toNat)) }.vsDirty } }

/-! ## Memory streams (15_isa_vmem.md R393) -/

/-- Signed integer tags by width, unsigned by width. -/
def intHolds (src dst : Nat) : Bool :=
  (tagSigned src && tagSigned dst && decide (src ≤ dst)) || (tagUnsigned src && tagUnsigned dst && decide (src ≤ dst)) ||
    (tagUnsigned src && tagSigned dst && decide (tagWidth src < tagWidth dst))

/-- A tag that holds every value of a source format exactly. -/
def streamTag (src dst : Nat) : Bool :=
  if src = tSF4 then dst == tSF4 || dst == tF16 || dst == tBF16 || dst == tF32 || dst == tF64
  else src == dst || intHolds src dst || (representers src).contains dst

/-- A byte address is misaligned for a source format. -/
def streamMisaligned (sfmt a : Nat) : Bool :=
  if sfmt = tSF4 then decide (a % 16 ≠ 0) else if sfmt = tF4 then false else decide (a % (tagWidth sfmt / 8) ≠ 0)

/-- The record of a memory stream fails R393. -/
def State.memBindBad (s : State) (b : Binding) : Bool :=
  let f := b.sfmt.toNat
  let cist := match s.launch? s.h.launch with
    | none => false
    | some l => shapeCist l.words
  !cist || f == tNone || f == tMask || tagReserved f || tagReserved b.otag.toNat || !streamTag f b.otag.toNat ||
    (decide (tagWidth f < 8) && b.stride != 0) || (decide (8 ≤ tagWidth f) && decide (b.stride.toInt % ((tagWidth f / 8 : Nat) : Int) ≠ 0)) ||
    streamMisaligned f b.addr.toNat || (if f = tSF4 then decide (b.blen.toNat % 128 ≠ 0) else b.blen != 0 || b.bsp != 0) ||
    decide (2 ^ 40 ≤ b.pos.toNat) || b.len == 0 || decide (2 ^ 40 < b.len.toNat)

/-- What translating a range finds so far: pages in use, absent elements, the first failure. -/
structure Pinning where
  pins : List PageMap
  absent : List AbsentElem
  fail : Option Trap

/-- Translate one more access of a range (08_memory.md R227, R231). -/
def State.pinOne (s : State) (k : AccKind) (p : Pinning) (va : Word) (n : Nat) : Pinning :=
  if p.fail.isSome then p
  else match s.checkAt va n k s.h.level with
    | .error (.trap t) => { p with fail := some t }
    | .error (.absent entry leaf lvl) => { p with absent := p.absent ++ [⟨entry, leaf, lvl, va.toNat, k != .load⟩] }
    | .ok h => match h.fill, h.loc with
      | some f, .hbm pa key =>
        let m : PageMap := ⟨f.va, f.size, pa - (va.toNat - f.va), key⟩
        if p.pins.contains m then p else { p with pins := p.pins ++ [m] }
      | _, _ => p

/-- Accesses of element `e` of a stream: address and bytes. -/
def Binding.touches (b : Binding) (e : Nat) : List (Word × Nat) :=
  let w := tagWidth b.sfmt.toNat
  (BitVec.ofNat 64 (b.elemAddr e), if w < 8 then 1 else w / 8) ::
    (if b.sfmt.toNat = tSF4 then
      (BitVec.ofNat 64 (b.addr.toNat + 80 * (e / 128) + 64 + e % 128 / 8), 1) ::
        (if b.bsp ≠ 0 then [(BitVec.ofNat 64 (b.bsp.toNat + 2 * (if b.blen = 0 then 0 else e / b.blen.toNat)), 2)] else [])
    else [])

/-- Translate the elements of a stream from `e` on. -/
def State.pinStream (s : State) (b : Binding) : Nat → Nat → Pinning → Pinning
  | 0, _, p => p
  | n + 1, e, p => s.pinStream b n (e + 1) ((b.touches e).foldl (fun p a => s.pinOne .load p a.1 a.2) p)

/-- STBIND (15_isa_vmem.md R392, R393). Every earlier access of the hart is performed before the stream's first read, posted ones too: the hart waits for
them here (09_ordering.md R251, log entry 99). -/
def execStbind (d a : Reg) (s : State) : Host.Outcome State Fault Refusal :=
  finish (s.bind 1 d a fun s r => if s.postedOpen 5 then .wait s else
    let b := Binding.ofRecord r
    if s.memBindBad b then s.stream
    else
      let p := s.pinStream b b.len.toNat 0 ⟨[], [], none⟩
      match p.fail with
      | some t => .trap t s
      | none =>
        if 1024 < p.pins.length then s.stream
        else if !p.absent.isEmpty then s.absentFault p.absent
        else .ok (s.install d { b with pins := p.pins } (some b.otag)))

/-! ## Rings (15_isa_vmem.md R395) -/

/-- STRBIND (15_isa_vmem.md R392, R395). -/
def execStrbind (d a : Reg) (s : State) : Host.Outcome State Fault Refusal :=
  finish (s.bind 2 d a fun s r =>
    let b := Binding.ofRecord r
    let t := b.otag.toNat
    if b.addr.toNat % 64 ≠ 0 || t = tNone || t = tMask || t = tSF4 || tagReserved t then s.stream
    else match s.reservationOff b.addr.toNat 64 with
      | none => s.stream
      | some (o, l) => match s.readLoc (.spad s.c.id o) 64 with
        | none => .trap ⟨causePoison, b.addr⟩ s
        | some desc => if ringMalformed desc (shapeSpres l.words) then s.stream else .ok (s.install d b (some b.otag)))

/-! ## Fabric streams (15_isa_vmem.md R396; 18_isa_fabric.md R445) -/

/-- Read `n` bytes of scratchpad through a window; none where the address is no window of the enclave. -/
def State.windowRead (s : State) (va : Word) (n : Nat) : Option (Except Trap Nat) :=
  match s.checkAt va n .load s.h.level with
  | .error _ => none
  | .ok h => match h.loc with
    | .hbm _ _ => none
    | .spad _ _ => some (match s.readLoc h.loc n with
      | none => .error ⟨causePoison, va⟩
      | some v => .ok v)

/-- STFBIND (15_isa_vmem.md R392, R396). -/
def execStfbind (d a : Reg) (s : State) : Host.Outcome State Fault Refusal :=
  finish (s.bind 3 d a fun s r =>
    let b := Binding.ofRecord r
    let esz := b.stride.toNat
    if b.addr.toNat % 64 ≠ 0 || esz % 64 ≠ 0 || esz < 64 || 32768 < esz then s.stream
    else match s.windowRead b.addr 64 with
      | none => s.stream
      | some (.error t) => .trap t s
      | some (.ok hd) =>
        if recField hd 0 2 ≤ b.len.toNat then s.stream
        else match s.windowRead (b.addr + BitVec.ofNat 64 (64 + 32 * b.len.toNat)) 32 with
          | none => s.stream
          | some (.error t) => .trap t s
          | some (.ok v) =>
            let rt := RouteVal.ofNat v
            if rt.rights / 2 % 2 = 0 || rt.tkind ≠ 4 then s.stream else .ok ((s.setRt b.rtreg rt).install d b none))

/-- STUNBIND: the register becomes NONE (15_isa_vmem.md R397). -/
def execStunbind (d : Reg) (s : State) : Host.Outcome State Fault Refusal :=
  finish (s.vecAlone (streamReg d) fun s =>
    if s.declared ≤ d.toNat then s.illegal
    else if (s.h.binding d.toNat).kind = 0 then .ok s
    else .ok (s.install d Binding.none (some 0)))

end Sys2Proof.Machine
end

