-- ==== Sys2Proof/Machine/Engine.lean ====
section
/-! DEFINITION. Copy commands and sync words as instructions push and use them (15_isa_vmem.md R398 to R402; 07_core.md R202). -/

set_option Elab.async false

namespace Sys2Proof.Machine

/-! ## Sync words (15_isa_vmem.md R401, R402) -/

/-- Harts parked on a communicator header check it again. -/
def State.wakeSync (s : State) : State :=
  s.mapHarts (fun h => h.run == .parkedSync && !(s.mem.syncWait.any fun f => f.hcore == h.core && f.slot == h.slot && f.launch == h.launch))
    fun h => { h with run := .ready }

/-- The generation of a sync word has advanced to `gen`: the SYNCWAIT of every hart parked on the word completes, unless its operand is that
generation (06_execution.md R147, R159). -/
def State.serveSync (s : State) (core off gen : Nat) : List SyncWaiter → State
  | [] => s
  | f :: r =>
    if f.core = core && f.off = off && f.gen ≠ gen then
      (({ s with mem := { s.mem with syncWait := s.mem.syncWait.filter (· != f) } } : State).wakeWith f.hcore f.slot f.launch f.rd
        (BitVec.ofNat 64 gen)).serveSync core off gen r
    else s.serveSync core off gen r

/-- The four fields of a sync word: TARGET, COUNT, GEN, FLAGS. -/
structure SyncWord where
  target : Nat
  count : Nat
  gen : Nat
  flags : Nat

/-- A sync word from its 16 bytes. -/
def SyncWord.ofNat (n : Nat) : SyncWord := ⟨n % 2 ^ 32, n / 2 ^ 32 % 2 ^ 32, n / 2 ^ 64 % 2 ^ 32, n / 2 ^ 96 % 2 ^ 32⟩

/-- The 16 bytes of a sync word. -/
def SyncWord.toNat (w : SyncWord) : Nat := w.target % 2 ^ 32 + 2 ^ 32 * (w.count % 2 ^ 32) + 2 ^ 64 * (w.gen % 2 ^ 32) + 2 ^ 96 * (w.flags % 2 ^ 32)

/-- The counted arrival of `n` bytes (15_isa_vmem.md R401). -/
def SyncWord.add (w : SyncWord) (n : Nat) : SyncWord :=
  let c := min (w.count + n) (2 ^ 32 - 1)
  if w.flags % 2 = 0 then { w with count := c }
  else if w.target = 0 then { w with count := c, gen := (w.gen + 1) % 2 ^ 32 }
  else { w with count := c % w.target, gen := (w.gen + c / w.target) % 2 ^ 32 }

/-- SYNCARM with operand `t`. -/
def SyncWord.arm (w : SyncWord) (t : Nat) : SyncWord :=
  if t = 0 then { w with target := 0, flags := 0 } else ({ w with target := t, flags := 1 } : SyncWord).add 0

/-- A bank event on a sync word: the old GEN and the state; none on poison. -/
def State.syncEvent (s : State) (core off : Nat) (f : SyncWord → SyncWord) : Option (Nat × State) :=
  match s.readLoc (.spad core off) 16 with
  | none => none
  | some v =>
    let w := SyncWord.ofNat v
    let w' := f w
    (s.writeLoc (.spad core off) 16 w'.toNat).map fun s1 => (w.gen, if w'.gen ≠ w.gen then s1.serveSync core off w'.gen s1.mem.syncWait else s1)

/-- The common part of SYNCARM and SYNCWAIT: a plain scalar access to a scratchpad word with read and write permission. -/
def State.syncAccess (s : State) (va : Word) (f : State → Nat → Nat → Res) : Res :=
  s.unmarked fun s =>
    match s.check va 16 16 .atomic with
    | .error c => s.oneFault va true c
    | .ok hit => match hit.loc with
      | .hbm _ _ => .trap ⟨causeFeAddr, va⟩ s
      | .spad core off => if s.queueBars hit.loc 16 true then .wait s else f (s.fill hit.fill) core off

/-- SYNCARM (15_isa_vmem.md R402). -/
def execSyncarm (d a b : Reg) (s : State) : Host.Outcome State Fault Refusal :=
  finish (s.syncAccess (s.x a) fun s core off =>
    match s.syncEvent core off fun w => w.arm (fldN (s.x b) 0 32) with
    | none => .trap ⟨causePoison, s.x a⟩ s
    | some (gen, s1) => .ok (s1.setXReply d (BitVec.ofNat 64 gen)))

/-- SYNCWAIT (15_isa_vmem.md R402, 06_execution.md R159). -/
def execSyncwait (d a b : Reg) (s : State) : Host.Outcome State Fault Refusal :=
  finish (s.syncAccess (s.x a) fun s core off =>
    match s.readLoc (.spad core off) 16 with
    | none => .trap ⟨causePoison, s.x a⟩ s
    | some v =>
      let gen := (SyncWord.ofNat v).gen
      if gen = fldN (s.x b) 0 32 then
        .wait { s with
          mem := { s.mem with syncWait := s.mem.syncWait ++ [⟨core, off, s.h.core, s.h.slot, s.h.launch, d, gen⟩] }
          h := { s.h with run := .parkedSync } }
      else .ok (s.setXReply d (BitVec.ofNat 64 gen)))

/-! ## Copy records (15_isa_vmem.md R398, R399) -/

/-- A copy command as its record and layout give it. -/
structure CopyShape where
  extents : List Nat
  strides : List Int
  total : Nat

/-- The layout: extents and strides of the layout register, or the flat length. -/
def copyShape (flat : Bool) (flen : Nat) (elems : List Nat) : CopyShape :=
  if flat then ⟨[if flen = 0 then 2 ^ 32 else flen], [0], if flen = 0 then 2 ^ 32 else flen⟩
  else
    let es := elems.map (· % 2 ^ 32)
    ⟨es, elems.map fun e => sextNat 32 (e / 2 ^ 32), es.foldl (· * ·) 1⟩

/-- Laid-out offset of row `r`: the indices of the outer extents, innermost first. -/
def rowOffset : List Nat → List Int → Nat → Int
  | e :: es, t :: ts, r => (if e = 0 then 0 else ((r % e : Nat) : Int) * t) + rowOffset es ts (if e = 0 then 0 else r / e)
  | _, _, _ => 0

/-- Laid-out offset of packed byte `k`. -/
def laidOffset (c : CopyShape) (k : Nat) : Int :=
  match c.extents, c.strides with
  | e0 :: es, _ :: ts => if e0 = 0 then 0 else ((k % e0 : Nat) : Int) + rowOffset es ts (k / e0)
  | _, _ => k

/-- Bytes from packed byte `k` to the end of its row. -/
def rowRest (c : CopyShape) (k : Nat) : Nat :=
  match c.extents with
  | e0 :: _ => if e0 = 0 then 1 else e0 - k % e0
  | [] => 1

/-- Address or window offset of packed byte `k` on one side. -/
def sideAddr (base : Nat) (laid : Bool) (c : CopyShape) (k : Nat) : Nat :=
  if laid then (((base : Int) + laidOffset c k) % 2 ^ 64).toNat else (base + k) % 2 ^ 64

/-- The pieces of one side that stay in a row and in a 64-byte line, from packed byte `k` on: address and length. -/
def sidePieces (base : Nat) (laid : Bool) (c : CopyShape) : Nat → Nat → List (Nat × Nat)
  | 0, _ => []
  | fuel + 1, k =>
    if c.total ≤ k then []
    else
      let a := sideAddr base laid c k
      let n := max 1 (min (min (rowRest c k) (64 - a % 64)) (c.total - k))
      (a, n) :: sidePieces base laid c fuel (k + n)

/-- The fields of a copy record that R398 reserves are zero, and the sides and the layout are allowed (15_isa_vmem.md R400 step 2). -/
def copyMalformed (r : Nat) (flat : Bool) (c : CopyShape) (droute : RouteVal) : Bool :=
  let srem := recField r 16 1 / 8 % 2 = 1
  let drem := recField r 17 1 / 8 % 2 = 1
  let synca := recField r 24 8
  decide (16 ≤ recField r 16 1) || decide (16 ≤ recField r 17 1) || decide (8 ≤ recField r 18 1) || decide (recField r 19 1 ≠ 0) ||
    decide (r / 2 ^ 256 ≠ 0) || (srem && drem) || (!flat && (decide (c.strides.headD 0 ≠ 0) || c.extents.any (· == 0))) ||
    decide (2 ^ 32 < c.total) ||
    (decide (recField r 18 1 / 2 % 2 = 1) && decide ((if drem then droute.base + synca else synca) % 16 ≠ 0))

/-- Translate the pieces of a local side (15_isa_vmem.md R400 step 3). -/
def State.pinSide (s : State) (k : AccKind) (l : List (Nat × Nat)) (p : Pinning) : Pinning :=
  l.foldl (fun p a => s.pinOne k p (BitVec.ofNat 64 a.1) a.2) p

/-- The source's checks on the pieces of a remote side: the lowest that fails. -/
def State.remoteSide (s : State) (rt : RouteVal) (t : BitVec 3) (op : Nat) (l : List (Nat × Nat)) : Option Trap :=
  (l.filterMap fun a => s.sourceCheck rt t op a.1 a.2).head?

/-- Widest tier of two. -/
def Tier.max (a b : Tier) : Tier := if a.num ≤ b.num then b else a

/-- The widest tier of the pieces of a local side. -/
def State.sideTier (s : State) (l : List (Nat × Nat)) : Tier :=
  l.foldl (fun t a => match s.checkAt (BitVec.ofNat 64 a.1) a.2 .load .monitor with
    | .ok h => t.max (s.tierOf (BitVec.ofNat 64 a.1) h.loc)
    | .error _ => t) .hart

/-- Commands that hold a place of the hart slot: in flight, or with a COPYDONE that waits for room (07_core.md R202). -/
def State.copyPlaces (s : State) (slot : BitVec 3) : Nat :=
  (s.c.copies.filter fun k => k.slot == slot).length +
    (s.hst.heldMsgs.filter fun m => m.core == s.c.id && m.slot == slot && Msg.kind m.msg == 0x30).length

/-- The copy ids whose COPYDONE the engine of the core still holds. -/
def State.heldCopyIds (s : State) : List (BitVec 32) :=
  (s.hst.heldMsgs.filter fun m => m.core == s.c.id && Msg.kind m.msg == 0x30).map fun m => BitVec.ofNat 32 (fldN m.msg 32 32)

/-- A copy id that no command of the core in flight has, from a candidate on. -/
def freeCopyId (l : List (BitVec 32)) : Nat → BitVec 32 → BitVec 32
  | 0, i => i
  | n + 1, i => if i = 0 || l.contains i then freeCopyId l n (i + 1) else i

/-- Push a copy command that has passed its checks, or refuse it for capacity (15_isa_vmem.md R400 steps 5 and 6). -/
def State.pushCopy (s : State) (d : Reg) (mk : BitVec 32 → CopyCmd) : Res :=
  let used := s.c.copies.map CopyCmd.id ++ s.heldCopyIds
  if 48 ≤ used.length || 16 ≤ s.copyPlaces s.h.slot then .ok (s.setX d 0)
  else
    let id := freeCopyId used (used.length + 2) s.c.copyId
    .ok (({ s with c := { s.c with copies := s.c.copies ++ [mk id], copyId := id + 1 } } : State).setX d (id.setWidth 64))

/-- CPY after its layout has been read: `r` is the record (15_isa_vmem.md R400). -/
def State.copyRecord (s : State) (d : Reg) (r : Nat) (flat : Bool) (elems : List Nat) : Res :=
  let c := copyShape flat (recField r 20 4) elems
  let srt : BitVec 3 := BitVec.ofNat 3 (recField r 16 1)
  let drt : BitVec 3 := BitVec.ofNat 3 (recField r 17 1)
  let srem := decide (recField r 16 1 / 8 % 2 = 1)
  let drem := decide (recField r 17 1 / 8 % 2 = 1)
  let flg := recField r 18 1
  let ldst := decide (flg % 2 = 1)
  let sync := decide (flg / 2 % 2 = 1)
  let synca := recField r 24 8
  let src := recField r 0 8
  let dst := recField r 8 8
  let cmd (bad : Bool) (tier : Tier) (pins : List PageMap) (sl : Option Loc) (id : BitVec 32) : CopyCmd :=
    { id := id, slot := s.h.slot, launch := s.h.launch, encl := s.c.mencl, srem := srem, drem := drem, src := src, dst := dst, srt := srt, drt := drt
      sroute := s.rt srt, droute := s.rt drt, ldst := ldst, extents := c.extents, strides := c.strides, total := c.total, next := 0, done := []
      failures := [], pins := pins, sync := sl, syncRemote := if sync && drem then some synca else none, syncSent := false, outst := 0
      malformed := bad, tier := tier, pushed := s.pushPoint }
  if copyMalformed r flat c (s.rt drt) then s.pushCopy d (cmd true .hart [] none)
  else
    let sp := sidePieces src (!ldst) c (c.total + 1) 0
    let dp := sidePieces dst ldst c (c.total + 1) 0
    let p0 : Pinning := ⟨[], [], none⟩
    let p1 := if srem then p0 else s.pinSide .load sp p0
    let p2 := if drem then p1 else s.pinSide .store dp p1
    let p3 := if sync && !drem then s.pinOne .atomic p2 (BitVec.ofNat 64 synca) 16 else p2
    match p3.fail with
    | some t => .trap t s
    | none =>
      if 1024 < p3.pins.length then s.pushCopy d (cmd true .hart [] none)
      else if !p3.absent.isEmpty then s.absentFault p3.absent
      else
        let sl : Option Loc := if sync && !drem then
            (match s.checkAt (BitVec.ofNat 64 synca) 16 .atomic s.h.level with
              | .ok h => some h.loc
              | .error _ => none) else none
        match sl with
        | some (.hbm _ _) => .trap ⟨causeFeAddr, BitVec.ofNat 64 synca⟩ s
        | _ =>
          let remote := if srem then s.remoteSide (s.rt srt) srt 8 sp
            else if drem then
              (match s.remoteSide (s.rt drt) drt 7 dp with
                | some t => some t
                | none => if sync then s.sourceCheck (s.rt drt) drt 4 synca 16 else none)
            else none
          match remote with
          | some t => .trap t s
          | none =>
            let t1 := if srem then routeTier (s.rt srt) else s.sideTier sp
            let t2 := if drem then routeTier (s.rt drt) else s.sideTier dp
            let t3 := match sl with
              | some l => s.tierOf (BitVec.ofNat 64 synca) l
              | none => .hart
            s.pushCopy d (cmd false ((t1.max t2).max t3) p3.pins sl)

/-- CPY (15_isa_vmem.md R398 to R400). -/
def execCpy (d a v : Reg) (s : State) : Host.Outcome State Fault Refusal :=
  finish (s.vecHold true fun s =>
    if v.toNat % s.gmul ≠ 0 || s.declared < v.toNat + s.gmul then s.illegal
    else if s.boundDest v.toNat then s.stream
    else s.unmarked fun s => s.readRecord (s.x a) 64 64 fun s r =>
      let flat := decide (recField r 18 1 / 4 % 2 = 1)
      let o := s.oper v
      if !flat && !(o.tag = tS64 || o.tag = tN64) then .trap (s.trapWord causeTagmix) s
      else if !flat && (s.vl = 0 || 8 < s.vl) then s.illegal
      else
        let bits := s.regBits v.toNat s.gmul
        s.copyRecord d r flat ((List.range s.vl).map fun i => bits / 2 ^ (64 * i) % 2 ^ 64))

end Sys2Proof.Machine
end

