-- ==== Sys2Proof/Machine/Route.lean ====
section
/-! DEFINITION. Instructions of major 0x1C: remote accesses, messages, route registers (18_isa_fabric.md R435 to R444). -/

set_option Elab.async false

namespace Sys2Proof.Machine

/-! ## Remote accesses (18_isa_fabric.md R437) -/

/-- The hart waits for the reply of a request it has just sent. -/
def State.awaitReply (s : State) : State := { s with h := { s.h with run := .memWait } }

/-- The next atomic sequence number of the hart (03_routes.md R91). -/
def State.takeAseq (s : State) : BitVec 8 × State := (s.h.aseq, { s with h := { s.h with aseq := s.h.aseq + 1 } })

/-- A request of a hart that takes no sequence number, or, for an atomic, takes one. -/
def State.sendMine (s : State) (t : BitVec 3) (op off len : Nat) (data : List Byte) (kind : ReqKind) (marked : Bool) : State :=
  let q := if op = 4 || op = 5 then s.takeAseq else (0, s)
  ((q.2.send { q.2.mine t op off len data kind with aseq := q.1, marked := marked }).noteInject t)

/-- The payload size of a request's packet: LEN. -/
def opLen (op n : Nat) : Nat := if op = 4 || op = 5 then 16 else n

/-- An outstanding marked request on the same route register overlaps these offsets (09_ordering.md R247). -/
def State.markedOverlap (s : State) (t : BitVec 3) (off n : Nat) : Bool :=
  s.c.reqs.any fun r => r.marked && r.slot == s.h.slot && r.launch == s.h.launch && r.rtreg == t &&
    decide (r.pkt.offset < off + n) && decide (off < r.pkt.offset + accessWidth r.pkt)

/-- Send a marked request that accesses `n` bytes, `aw` of them as the check takes them: it consumes a count of the window, and the hart goes on. With 16
outstanding it waits until the oldest is performed, which a local one is now (09_ordering.md R246, R247). -/
def State.sendMarked (s : State) (t : BitVec 3) (op off n aw : Nat) (data : List Byte) (kind : ReqKind) : Res :=
  if s.markedOverlap t off aw || !s.mayInject t then .wait s
  else
    let go (s : State) : Res :=
      let s1 := s.sendMine t op off (opLen op n) data kind true
      .ok { s1 with h := { s1.h with rlx := s1.h.rlx - 1 } }
    if s.h.marked.length + s.remoteMarked < 16 then go s
    else match s.h.marked with
      | [] => .wait s
      | m :: r => if s.remoteOldest m then .wait s else go (({ s with h := { s.h with marked := r } } : State).performOne m)

/-- Send a request and wait for its reply. -/
def State.sendWait (s : State) (t : BitVec 3) (op off n : Nat) (data : List Byte) (kind : ReqKind) : Res :=
  if s.mayInject t then .wait (s.sendMine t op off (opLen op n) data kind false).awaitReply else .wait s

/-- The common part of the remote accesses: alignment to `n`, then the checks of R87 for `aw` bytes. -/
def State.remoteChecks (s : State) (t : BitVec 3) (op : Nat) (off : Word) (n aw : Nat) (k : Res) : Res :=
  if ((s.rt t).base + off.toNat) % n ≠ 0 then .trap ⟨causeMisalign, off⟩ s
  else match s.sourceCheck (s.rt t) t op off.toNat aw with
    | some tr => .trap tr s
    | none => k

/-- A remote load, store, atomic or CAS: marked inside an RLX window, else plain (18_isa_fabric.md R439). -/
def State.remoteAccess (s : State) (t : BitVec 3) (op : Nat) (off : Word) (n aw : Nat) (data : List Byte) (kind : ReqKind) : Res :=
  if s.h.rlx = 0 then
    s.unmarked fun s => s.remoteChecks t op off n aw (s.sendWait t op off.toNat n data kind)
  else s.remoteChecks t op off n aw (s.sendMarked t op off.toNat n aw data kind)

/-- RLD (18_isa_fabric.md R437). -/
def execRld (d : Reg) (z : BitVec 1) (a : Reg) (t : BitVec 3) (q : BitVec 2) (s : State) : Host.Outcome State Fault Refusal :=
  let n := 2 ^ q.toNat
  if loadSize z q then finish (s.remoteAccess t 1 (s.x a) n n [] (.load d n (z = 0))) else finish s.illegal

/-- RST (18_isa_fabric.md R437). -/
def execRst (d a : Reg) (t : BitVec 3) (q : BitVec 2) (s : State) : Host.Outcome State Fault Refusal :=
  let n := 2 ^ q.toNat
  finish (s.remoteAccess t 2 (s.x a) n n (bytesOf (s.x d).toNat n) .store)

/-- RSTP: posted; it completes at injection (18_isa_fabric.md R437, 09_ordering.md R253). -/
def State.remotePosted (s : State) (t : BitVec 3) (off : Word) (n : Nat) (data : List Byte) : Res :=
  s.closeWindow.unmarked fun s => s.remoteChecks t 3 off n n
    (if s.mayInject t then
      let s1 := s.sendMine t 3 off.toNat n data .posted false
      .ok { s1 with h := s1.h.postMore (routeTier (s.rt t)) }
    else .wait s)

/-- RSTP (18_isa_fabric.md R437). -/
def execRstp (d a : Reg) (t : BitVec 3) (q : BitVec 2) (s : State) : Host.Outcome State Fault Refusal :=
  let n := 2 ^ q.toNat
  finish (s.remotePosted t (s.x a) n (bytesOf (s.x d).toNat n))

/-- The 16-byte payload of an ATOMIC (18_isa_fabric.md R438). -/
def atomicPayload (opc wid rm operand : Nat) : List Byte := bytesOf (opc + 256 * wid + 65536 * rm + 2 ^ 64 * operand) 16

/-- Rounding mode of a remote floating add: SR is sent as RNE. -/
def State.sentMode (s : State) : Nat := if s.h.csr.frm.toNat = 5 then 0 else s.h.csr.frm.toNat

/-- RAMO (18_isa_fabric.md R437, R438). `fadd.w` returns a zero-extended value, the other forms a sign-extended one. -/
def State.ramo (s : State) (d : Reg) (opc : Nat) (a : Reg) (t : BitVec 3) (wid : Nat) : Res :=
  let off := s.x a
  let v := s.x d
  if opc = 10 && fldN v 32 32 ≠ 0 then s.illegal
  else if opc = 10 && off.toNat % 16 ≠ 0 then .trap ⟨causeMisalign, off⟩ s
  else
    let operand := if wid = 4 then fldN v 0 32 else v.toNat
    let kind : ReqKind := if opc = 9 then .load d wid false else .atomic d wid
    s.remoteAccess t 4 off wid (atomicWidth opc wid) (atomicPayload opc wid (if opc = 9 then s.sentMode else 0) operand) kind

/-- RAMO (18_isa_fabric.md R438). -/
def execRamo (d : Reg) (o : BitVec 4) (a : Reg) (t : BitVec 3) (w : BitVec 1) (s : State) : Host.Outcome State Fault Refusal :=
  if ramoOp o w then finish (s.ramo d o.toNat a t (if w = 1 then 8 else 4)) else finish s.illegal

/-- RCAS (18_isa_fabric.md R438). -/
def execRcas (d a : Reg) (t : BitVec 3) (s : State) : Host.Outcome State Fault Refusal :=
  if casPair d then
    finish (s.remoteAccess t 5 (s.x a) 8 8 (bytesOf ((s.x d).toNat + 2 ^ 64 * (s.x (d + 1)).toNat) 16) (.cas d))
  else finish s.illegal

/-- RSTM: an unmarked plain access that waits for the MACK (18_isa_fabric.md R439, R444). -/
def execRstm (d a : Reg) (t : BitVec 3) (q : BitVec 2) (s : State) : Host.Outcome State Fault Refusal :=
  let n := 2 ^ q.toNat
  let off := s.x a
  let data := bytesOf (s.x d).toNat n
  finish (s.unmarked fun s => s.remoteChecks t 0x0A off n n (s.sendWait t 0x0A off.toNat n data (.mstore d)))

/-! ## Messages and service requests (18_isa_fabric.md R440, R441) -/

/-- SEND through a route of another KIND than 10. -/
def State.sendMessage (s : State) (d : Reg) (k : Nat) (va : Word) (t : BitVec 3) : Res :=
  s.readRecord va 16 16 fun s v =>
    match s.sourceCheck (s.rt t) t 6 (16 * k) 16 with
    | some tr => .trap tr s
    | none => s.sendWait t 6 (16 * k) 16 (bytesOf v 16) (.send d)

/-- SEND through a KIND 10 route: a Wellhead service request. -/
def State.sendService (s : State) (d : Reg) (k : Nat) (va : Word) (t : BitVec 3) : Res :=
  if (s.rt t).malformed then .trap (srcTrap 0 stMalformed t) s
  else if s.h.level = .user then s.priv
  else if k ≠ 0 then .trap (srcTrap (16 * k) stBounds t) s
  else s.readRecord va 64 64 fun s v =>
    match s.sourceCheck (s.rt t) t 0x10 0 64 with
    | some tr => .trap tr s
    | none => s.sendWait t 0x10 0 64 (bytesOf v 64) (.svc d (BitVec.ofNat 3 (v / 256)))

/-- SEND (18_isa_fabric.md R440, R441). -/
def execSend (d : Reg) (k : BitVec 3) (a : Reg) (t : BitVec 3) (s : State) : Host.Outcome State Fault Refusal :=
  finish (s.closeWindow.unmarked fun s =>
    if (s.rt t).kind = 2 then s.sendService d k.toNat (s.x a) t else s.sendMessage d k.toNat (s.x a) t)

/-! ## Route registers (18_isa_fabric.md R442) -/

/-- RNARROW's derivation: the new route, or the trap (03_routes.md R85). -/
def State.narrow (s : State) (old : RouteVal) (t : BitVec 3) (o n rights : Nat) (d : Bool) : Except Trap RouteVal :=
  if old.malformed then .error (srcTrap 0 stMalformed t)
  else if !s.tagOk old then .error (srcTrap 0 stTag t)
  else if (s.keySlot old.kslot).state ≠ .current then .error (srcTrap 0 stRevoked t)
  else if old.kind = 1 || old.kind = 2 then .error (srcTrap 0 stRights t)
  else if old.len < o + n then .error (srcTrap old.len stBounds t)
  else if rights &&& old.rights ≠ rights then .error (srcTrap 0 stRights t)
  else if old.tkind = 2 && (o % 16 ≠ 0 || n % 16 ≠ 0) then .error (srcTrap o stBounds t)
  else
    let new : RouteVal :=
      { old with
        w1 := putFld old.w1 0 48 (old.base + o)
        w2 := putFld (putFld (putFld old.w2 0 32 n) 32 4 rights) 60 1 (if old.dlg && d then 1 else 0) }
    .ok { new with w3 := sealTag (s.keySlot old.kslot).key new }

/-- RNARROW (18_isa_fabric.md R442). -/
def execRnarrow (r : BitVec 4) (x : BitVec 1) (t : BitVec 3) (a : Reg) (sr : BitVec 3) (s : State) : Host.Outcome State Fault Refusal :=
  let v := s.x a
  let n := if fldN v 32 32 = 0 then 2 ^ 32 else fldN v 32 32
  finish (match s.narrow (s.rt sr) sr (fldN v 0 32) n r.toNat (x = 1) with
    | .error tr => .trap tr s
    | .ok new => .ok (s.setRt t new))

/-- RTLD: four plain 8-byte loads (18_isa_fabric.md R442). -/
def execRtld (a : Reg) (t : BitVec 3) (s : State) : Host.Outcome State Fault Refusal :=
  finish (s.unmarked fun s => s.readRecord (s.x a) 32 32 fun s v => .ok (s.setRt t (RouteVal.ofNat v)).lateReply)

/-- RTST: four plain 8-byte stores, of a route with DLG 1 (03_routes.md R86, 18_isa_fabric.md R442). -/
def State.storeRoute (s : State) (va : Word) (t : BitVec 3) : Res :=
  if !(s.rt t).dlg then .trap (srcTrap 0 stRights t) s
  else match s.check va 32 32 .store with
    | .error c => s.oneFault va true c
    | .ok hit =>
      if s.queueBars hit.loc 32 true then .wait s
      else match s.writeLoc hit.loc 32 (s.rt t).toNat with
        | none => .trap ⟨causePoison, va⟩ (s.spoil hit.loc 32)
        | some s1 => .ok (s1.fill hit.fill).lateReply

/-- RTST (18_isa_fabric.md R442). -/
def execRtst (a : Reg) (t : BitVec 3) (s : State) : Host.Outcome State Fault Refusal :=
  finish (s.unmarked fun s => s.storeRoute (s.x a) t)

/-- RMOV (18_isa_fabric.md R442). -/
def execRmov (t sr : BitVec 3) (s : State) : Host.Outcome State Fault Refusal := finish (.ok (s.setRt t (s.rt sr)))

/-! ## Revocation (03_routes.md R75 to R78) -/

/-- The L bits that stand for no live slot stay; those of slots that are not EMPTY clear (03_routes.md R75). -/
def State.wrapL (s : State) (l : BitVec 16) : BitVec 16 :=
  BitVec.ofNat 16 ((List.finRange 16).foldl (fun n i =>
    if l.getLsbD i.val && (s.fab.slots.get i).state == .empty then n + 2 ^ i.val else n) 0)

/-- A counter issues a generation: the generation, the counter after it, and whether it wrapped. -/
def State.issueGen (s : State) (c : EpCounter) : BitVec 16 × EpCounter × Bool :=
  if c.ng = 0xFFFF then (c.ng, ⟨0, s.wrapL c.l⟩, true) else (c.ng, ⟨c.ng + 1, c.l⟩, false)

/-- Note that a counter has wrapped (03_routes.md R77). -/
def State.noteWrap (s : State) (r : CounterRef) (wrapped : Bool) : State :=
  if wrapped then { s with fab := { s.fab with wraps := s.fab.wraps ++ [r] } } else s

/-- A revocation is in progress until REVOCATION_COMPLETE. A check and the access it admits are one step of this model, so no request
that was checked before is left to perform (03_routes.md R78). -/
def State.revoking (s : State) (r : Revocation) : State := { s with fab := { s.fab with revs := s.fab.revs ++ [r] } }

/-- Revoke the endpoint of a launch on a core: the new generation. The reservation is open to no group key any more (03_routes.md R84). -/
def State.revokeCore (s : State) (core : Nat) (launch : BitVec 32) : BitVec 16 × State :=
  let c := s.core core
  let (g, ctr, w) := s.issueGen c.ctr
  let s1 := (s.putCore { c with ctr := ctr }).noteWrap (.core core) w
  let s2 : State := { s1 with fab := { s1.fab with opens := s1.fab.opens.filter fun o => !(o.1 == core && o.2.1 == launch) } }
  (g, s2.mapLaunch launch fun l => { l with eps := l.eps.map fun e => if e.1 = core then (core, g) else e })

/-- RREVOKE: the hart waits until the revocation completes (18_isa_fabric.md R443). -/
def execRrevoke (d : Reg) (s : State) : Host.Outcome State Fault Refusal :=
  if s.h.level = .user then finish s.priv
  else
    let (g, s1) := s.revokeCore s.h.core s.h.launch
    finish (.wait (s1.revoking ⟨.core s.h.core, g, some (s.h.core, s.h.slot, s.h.launch, d)⟩).awaitReply)

/-- The hart of a revocation goes on with the new generation. -/
def State.revoked (s : State) (k : Nat) : State :=
  match s.fab.revs[k]? with
  | none => s
  | some r =>
    let s1 := { s with fab := { s.fab with revs := s.fab.revs.eraseIdx k } }
    match r.waiter with
    | none => s1
    | some (core, slot, launch, d) => s1.wakeWith core slot launch d (r.gen.setWidth 64)

/-- REVOCATION_COMPLETE (03_routes.md R78). -/
def execRevocationComplete (k : Nat) (s : State) : Host.Outcome State Fault Refusal := .next (s.revoked k)

end Sys2Proof.Machine
end

