-- ==== Sys2Proof/Machine/Coll.lean ====
section
/-! DEFINITION. Collectives over a communicator: the header, its bank events, VSTXR, COLLBEGIN, COLLEND, COLLABORT and the abort of a
swapped hart (18_isa_fabric.md R445 to R451; 11_arithmetic.md R311; 03_routes.md R93). -/

set_option Elab.async false

namespace Sys2Proof.Machine

/-! ## The communicator (18_isa_fabric.md R445) -/

/-- Field of `n` bytes at byte `lo` of a header's 64 bytes. -/
def hdr (h lo n : Nat) : Nat := h / 2 ^ (8 * lo) % 2 ^ (8 * n)

/-- NMEM. -/
def hdrNmem (h : Nat) : Nat := hdr h 0 2
/-- RANK. -/
def hdrRank (h : Nat) : Nat := hdr h 2 2
/-- SEQ. -/
def hdrSeq (h : Nat) : Nat := hdr h 4 4
/-- STATE. -/
def hdrState (h : Nat) : Nat := hdr h 8 1
/-- ABSEQ. -/
def hdrAbseq (h : Nat) : Nat := hdr h 12 4
/-- TARGET. -/
def hdrTarget (h : Nat) : Nat := hdr h 16 4
/-- COUNT. -/
def hdrCount (h : Nat) : Nat := hdr h 20 4
/-- ESEQ. -/
def hdrEseq (h : Nat) : Nat := hdr h 24 4
/-- EARLY. -/
def hdrEarly (h : Nat) : Nat := hdr h 28 4
/-- STAGE. -/
def hdrStage (h : Nat) : Nat := hdr h 32 8
/-- SLOT. -/
def hdrSlot (h : Nat) : Nat := hdr h 40 4
/-- HOFF. -/
def hdrHoff (h : Nat) : Nat := hdr h 48 8

/-- A header that makes COLLBEGIN raise ILLEGAL. -/
def hdrBad (h : Nat) : Bool :=
  decide (hdrNmem h = 0) || decide (hdrNmem h ≤ hdrRank h) || decide (hdr h 9 3 ≠ 0) || decide (hdr h 44 4 ≠ 0) || decide (hdr h 56 8 ≠ 0) ||
    decide (hdrSlot h % 64 ≠ 0) || decide (hdrSlot h < 64) || decide (32768 < hdrSlot h)

/-- The fields that the bank writes: bytes 4 to 8 and 12 to 31. -/
structure BankWords where
  seq : Nat
  state : Nat
  abseq : Nat
  target : Nat
  count : Nat
  eseq : Nat
  early : Nat
deriving DecidableEq, Repr

/-- The bank's fields of a header. -/
def BankWords.of (h : Nat) : BankWords := ⟨hdrSeq h, hdrState h, hdrAbseq h, hdrTarget h, hdrCount h, hdrEseq h, hdrEarly h⟩

/-- A header with new bank fields. -/
def BankWords.put (b : BankWords) (h : Nat) : Nat :=
  h % 2 ^ 32 + b.seq % 2 ^ 32 * 2 ^ 32 + b.state % 256 * 2 ^ 64 + hdr h 9 3 * 2 ^ 72 + b.abseq % 2 ^ 32 * 2 ^ 96 + b.target % 2 ^ 32 * 2 ^ 128 +
    b.count % 2 ^ 32 * 2 ^ 160 + b.eseq % 2 ^ 32 * 2 ^ 192 + b.early % 2 ^ 32 * 2 ^ 224 + h / 2 ^ 256 * 2 ^ 256

/-! ## Bank events (18_isa_fabric.md R447) -/

/-- d(x): the signed distance of a sequence number from SEQ. -/
def BankWords.dist (b : BankWords) (x : Nat) : Int := sextNat 32 (x + 2 ^ 32 - b.seq)

/-- ABSEQ counts. -/
def BankWords.abCounts (b : BankWords) : Bool := decide (0 < b.dist b.abseq)

/-- ESEQ counts. -/
def BankWords.eCounts (b : BankWords) : Bool := decide (0 < b.dist b.eseq) && decide (b.early ≠ 0)

/-- COLLBEGIN with a target; none when a collective is open. -/
def BankWords.openColl (b : BankWords) (target : Nat) : Option BankWords :=
  if b.state = 1 then none
  else
    let s := (b.seq + 1) % 2 ^ 32
    let early := b.eCounts && b.eseq == s
    some { b with
      seq := s, target := target
      state := if b.abCounts then 2 else 1
      count := if early then b.early else 0
      early := if early then 0 else b.early }

/-- CSYNCADD(s, n). -/
def BankWords.syncAdd (b : BankWords) (s n : Nat) : BankWords :=
  let d := b.dist s
  if d = 0 then (if b.state = 1 then { b with count := min (b.count + n) (2 ^ 32 - 1) } else b)
  else if 0 < d && !(b.abCounts && decide (d ≤ b.dist b.abseq)) then
    (if b.eCounts && b.eseq == s then { b with early := (b.early + n) % 2 ^ 32 }
    else if !b.eCounts || decide (b.dist b.eseq < d) then { b with eseq := s, early := n }
    else b)
  else b

/-- CABORT(s). -/
def BankWords.abort (b : BankWords) (s : Nat) : BankWords :=
  let d := b.dist s
  if d = 0 then (if b.state = 1 then { b with state := 2, count := 0 } else b)
  else if 0 < d then
    { b with
      abseq := if b.abCounts && decide (d ≤ b.dist b.abseq) then b.abseq else s
      early := if b.eCounts && decide (b.dist b.eseq ≤ d) then 0 else b.early }
  else b

/-- Apply an event to a header; none on poison. Parked COLLENDs check again. -/
def State.headerEvent (s : State) (core off : Nat) (f : BankWords → BankWords) : Option State :=
  match s.readLoc (.spad core off) 64 with
  | none => none
  | some h => (s.writeLoc (.spad core off) 64 ((f (BankWords.of h)).put h)).map State.wakeSync

/-! ## Common checks -/

/-- The address check of a collective instruction (18_isa_fabric.md R445). -/
def State.commCheck (s : State) (va : Word) (k : AccKind) (f : State → Nat → Nat → Nat → Res) : Res :=
  if va.toNat % 64 ≠ 0 then .trap ⟨causeMisalign, va⟩ s
  else if va.toNat < 0x800000000000 then .trap ⟨causeFeAddr, va⟩ s
  else match s.check va 64 64 k with
    | .error c => s.oneFault va (k != .load) c
    | .ok hit => match hit.loc with
      | .hbm _ _ => .trap ⟨causeFeAddr, va⟩ s
      | .spad core off => match s.readLoc hit.loc 64 with
        | none => .trap ⟨causePoison, va⟩ s
        | some h => f s core off h

/-- Close the open collective. -/
def State.closeColl (s : State) : State := { s with h := { s.h with coll := none, collStage := 0 } }

/-- An open collective that a swap-out has aborted raises COLL_ABORT and closes (18_isa_fabric.md R446). -/
def State.collGate (s : State) (k : State → Res) : Res :=
  match s.h.coll with
  | some c => if c.aborted then .trap ⟨causeCollAbort, c.seq.setWidth 64⟩ s.closeColl else k s
  | none => k s

/-- The open collective must name this communicator. -/
def State.collOpen (s : State) (va : Word) (k : OpenColl → Res) : Res :=
  match s.h.coll with
  | some c => if c.comm = va then k c else s.illegal
  | none => s.illegal

/-- Collective packets of the hart in focus that have not been acknowledged: data and commits. -/
def State.collPackets (s : State) (slot : BitVec 3) (launch : BitVec 32) : Bool :=
  s.c.reqs.any fun r => r.slot == slot && r.launch == launch && (r.kind == .collPut || r.kind == .collSync)

/-- Engine atomics of a hart slot in flight (03_routes.md R93). -/
def State.engAtomics (s : State) (slot : BitVec 3) : Nat :=
  (s.c.reqs.filter fun r => r.slot == slot && r.pkt.eng).length

/-- The core owes every member the abort of a collective. -/
def State.oweAbort (s : State) (k : OpenColl) : State := { s with c := s.c.owe s.h k }

/-- Send an engine atomic of a hart slot through a member route at HOFF. -/
def State.sendEngine (s : State) (slot : BitVec 3) (launch : BitVec 32) (rt : RouteVal) (off opc operand : Nat) (kind : ReqKind) : State :=
  let i : Fin 8 := ⟨slot.toNat, slot.isLt⟩
  let q := s.c.engAseq.get i
  let s1 := { s with c := { s.c with engAseq := s.c.engAseq.set i (q + 1) } }
  s1.send ⟨slot, launch, 0, rt, 4, off, 16, atomicPayload opc 8 0 operand, q, true, 0, kind, false, false⟩

/-- Route of member `r` of the communicator at a scratchpad place. -/
def State.memberRoute (s : State) (core off r : Nat) : Option RouteVal := (s.readLoc (.spad core (off + 64 + 32 * r)) 32).map RouteVal.ofNat

/-! ## VSTXR (18_isa_fabric.md R448) -/

/-- One element on its way: member, offset, route and code. -/
structure Scatter where
  member : Nat
  off : Nat
  rt : RouteVal
  code : Nat

/-- Check the active elements in ascending order; the first failure, or what they send. -/
def State.scatterChecks (s : State) (va : Word) (c : OpenColl) (h w : Nat) (ix data : Nat → Nat) : List Nat → Except Cause (List Scatter)
  | [] => .ok []
  | i :: l =>
    let x := ix i
    let r := x / 2 ^ 48
    let o := x % 2 ^ 48
    let rva := va + BitVec.ofNat 64 (64 + 32 * r)
    if hdrState h = 2 then .error (.trap ⟨causeCollAbort, c.seq.setWidth 64⟩)
    else if hdrNmem h ≤ r then .error (.trap (srcTrap o stBounds 0))
    else if o % (w / 8) ≠ 0 then .error (.trap ⟨causeMisalign, BitVec.ofNat 64 o⟩)
    else match s.check rva 32 32 .load with
      | .error e => .error e
      | .ok hit => match s.readLoc hit.loc 32 with
        | none => .error (.trap ⟨causePoison, rva⟩)
        | some v =>
          let rt := RouteVal.ofNat v
          match s.sourceCheck rt 0 7 o (w / 8) with
          | some t => .error (.trap t)
          | none => (s.scatterChecks va c h w ix data l).map (⟨r, o, rt, data i⟩ :: ·)

/-- Add bytes to a member's total. -/
def addTotal (r n : Nat) : List (Nat × Nat) → List (Nat × Nat)
  | [] => [(r, n)]
  | (k, v) :: l => if k = r then (k, v + n) :: l else (k, v) :: addTotal r n l

/-- Send one element as a posted PUT and count it. -/
def State.sendScatter (s : State) (w : Nat) (seq : BitVec 32) (e : Scatter) : State :=
  let s1 := s.send ⟨s.h.slot, s.h.launch, 0, e.rt, 7, e.off, w / 8, bytesOf e.code (w / 8), 0, false, seq, .collPut, false, true⟩
  let h := s1.h.postMore (routeTier e.rt)
  { s1 with h := { h with coll := h.coll.map fun c => { c with totals := addTotal e.member (w / 8) c.totals } } }

/-- VSTXR. -/
def State.vstxr (s : State) (m : Bool) (d a b : Reg) : Res :=
  s.vecAlone true fun s => s.collGate fun s =>
    let va := s.x a
    s.collOpen va fun c =>
      let o := s.oper d
      let ix := s.oper b
      let t := s.scalarTag o
      let w := tagWidth t
      if s.vstart ≠ 0 || (o.tag = tNone && s.vtagBad) || (m && s.maskTooLong) || s.operBad o t || s.operBad ix tS64 then s.illegal
      else if !s.uniform o t || !s.uniform ix tS64 || w < 8 || t = tSF4 || !(ix.tag = tS64 || ix.tag = tN64 || ix.tag = tNone) then
        .trap (s.trapWord causeTagmix) s
      else s.commCheck va .load fun s _ _ h => s.loadAll t [o] fun xs => s.loadAll tS64 [ix] fun ys =>
        let x := xs.getD 0 Src.zero
        let y := ys.getD 0 Src.zero
        let act := (List.range s.vl).filter fun i => !m || s.maskBit i
        match (earliest [x.bad, y.bad]).filter fun z => decide (z.1 < s.vl) with
        | some z => .ok (s.defer 0 z.2)
        | none =>
          match s.scatterChecks va c h w (fun i => if y.tag = tNone then 0 else y.get i) (fun i => if x.tag = tNone then 0 else x.get i) act with
          | .error e => s.oneFault va false e
          | .ok l => .ok (((l.foldl (fun s e => s.sendScatter w c.seq e) s).chargeStrip 64 1 s.vl).vdone [o, ix] false)

/-- VSTXR (18_isa_fabric.md R448). -/
def execVstxr (d a b : Reg) (m : BitVec 1) (s : State) : Host.Outcome State Fault Refusal := finish (s.vstxr (m = 1) d a b)

/-! ## COLLBEGIN (18_isa_fabric.md R446, R447) -/

/-- COLLBEGIN. It is a push at `.dom`: its event waits for the hart's earlier posted accesses (09_ordering.md R255). -/
def State.collBegin (s : State) (d : Reg) (op : BitVec 2) (a b : Reg) : Res :=
  s.vecHold true fun s => s.collGate fun s =>
    let va := s.x a
    if s.h.coll.isSome then s.illegal
    else s.unmarked fun s => s.commCheck va .atomic fun s core off h =>
      if hdrBad h then s.illegal
      else if s.postedOpen 5 then .wait s
      else match (BankWords.of h).openColl (fldN (s.x b) 0 32) with
        | none => s.illegal
        | some w => match s.writeLoc (.spad core off) 64 (w.put h) with
          | none => .trap ⟨causePoison, va⟩ s
          | some s1 =>
            let q : BitVec 32 := BitVec.ofNat 32 w.seq
            .ok (({ s1 with h := { s1.h with coll := some ⟨va, core, off, q, op, [], false, false⟩, collStage := 0 } } : State).setX d (q.setWidth 64))

/-- COLLBEGIN (18_isa_fabric.md R447). -/
def execCollbegin (d : Reg) (o : BitVec 2) (a b : Reg) (s : State) : Host.Outcome State Fault Refusal := finish (s.collBegin d o a b)

/-! ## COLLEND (18_isa_fabric.md R449, R451) -/

/-- Tags that a fold accepts. -/
def foldTag (sum : Bool) (t : Nat) : Bool :=
  tagInt t || t == tF8E4 || t == tF8E5 || t == tF16 || t == tBF16 || t == tF32 || t == tF64 || (sum && t == tZ64)

/-- The fold of the contributions to one element, in rank order (11_arithmetic.md R311): 1 sum, 2 max, 3 min. -/
def foldRanks (op t q : Nat) (xs : List Nat) : Nat × Flg :=
  match xs with
  | [] => (0, 0)
  | x :: l =>
    if t = tZ64 then ((x :: l).foldl (fun a b => (a + b) % q) 0, 0)
    else if op = 1 && tagFloat t && ((x :: l).any (fun b => fDecode t b == .nan) ||
        ((x :: l).any (fun b => fDecode t b == .inf false) && (x :: l).any fun b => fDecode t b == .inf true)) then
      ((fRound t rne 0 .nan).1, flNV)
    else l.foldl (fun a b =>
      let z := if op = 1 then (if tagFloat t then fAdd t rne 0 a.1 b else intRes t (intOf t a.1 + intOf t b)) else minMaxElem t (op = 2) a.1 b
      (z.1, a.2 ||| z.2)) (x, 0)

/-- Read the contributions of ranks 0 to `n - 1` to one element. -/
def State.readRanks (s : State) (base : Word) (slot n wb : Nat) : Nat → Except Cause (List Nat)
  | 0 => .ok []
  | k + 1 =>
    let va := base + BitVec.ofNat 64 ((n - (k + 1)) * slot)
    match s.check va wb wb .load with
    | .error e => .error e
    | .ok hit => match s.readLoc hit.loc wb with
      | none => .error (.trap ⟨causePoison, va⟩)
      | some v => (s.readRanks base slot n wb k).map (v :: ·)

/-- Fold the elements of a list: element and result, or the first failure. -/
def State.foldAll (s : State) (op t : Nat) (base : Word) (slot n : Nat) : List Nat → Except Cause (List (Nat × Nat × Flg))
  | [] => .ok []
  | i :: l => match s.readRanks (base + BitVec.ofNat 64 (i * (tagWidth t / 8))) slot n (tagWidth t / 8) n with
    | .error e => .error e
    | .ok xs => (s.foldAll op t base slot n l).map ((i, foldRanks op t s.q xs) :: ·)

/-- The reductions of COLLEND: vd takes the folds (18_isa_fabric.md R451). -/
def State.collFold (s : State) (m : Bool) (vd : Nat) (c : OpenColl) (h : Nat) : Res :=
  let t := s.vtag
  let n := hdrNmem h
  let base := c.comm - BitVec.ofNat 64 (hdrHoff h) + BitVec.ofNat 64 (hdrStage h) + BitVec.ofNat 64 (c.seq.toNat % 2 * n * hdrSlot h)
  match s.foldAll c.op.toNat t base (hdrSlot h) n ((List.range s.vl).filter (s.active m)) with
  | .error e => s.oneFault base false e
  | .ok l => s.closeColl.writeElems m vd t [] none false 1 (tagWidth t) fun i => ((l.find? (·.1 == i)).map Prod.snd).getD (0, 0)

/-- Steps 4 to 6 of COLLEND: park on the header, or end. -/
def State.collWait (s : State) (m : Bool) (vd : Nat) (c : OpenColl) (core off h : Nat) : Res :=
  let b := BankWords.of h
  if b.state = 2 then .trap ⟨causeCollAbort, c.seq.setWidth 64⟩ s.closeColl
  else if b.count < b.target then .wait { s with h := { s.h with run := .parkedSync, collStage := 3 } }
  else match s.writeLoc (.spad core off) 64 (({ b with state := 0 } : BankWords).put h) with
    | none => .trap ⟨causePoison, c.comm⟩ s
    | some s1 => if c.op = 0 then .ok s1.closeColl else s1.collFold m vd c h

/-- Commit to the members whose totals are left, as long as the slot has room for engine atomics. A member whose route fails the source's
checks is a refusal. -/
def State.commitAll (s : State) (c : OpenColl) (hoff : Nat) : List (Nat × Nat) → State
  | [] => { s with h := { s.h with coll := some { c with totals := [], committed := true } } }
  | (r, n) :: l =>
    if 16 ≤ s.engAtomics s.h.slot then { s with h := { s.h with coll := some { c with totals := (r, n) :: l, committed := true } } }
    else match s.memberRoute c.core c.off r with
      | none => ({ s with h := s.h.holdStatus .dom ⟨causePoison, c.comm + BitVec.ofNat 64 (64 + 32 * r)⟩ } : State).commitAll c hoff l
      | some rt => match s.sourceCheck rt 0 4 hoff 64 with
        | some t => ({ s with h := s.h.holdStatus (routeTier rt) t } : State).commitAll c hoff l
        | none => (s.sendEngine s.h.slot s.h.launch rt hoff 11 (n % 2 ^ 32 + 2 ^ 32 * c.seq.toNat) .collSync).commitAll c hoff l

/-- Steps 1 to 3 of COLLEND, then the wait. The stage stands in the state, so that the instruction goes on where it was. -/
def State.collSteps (s : State) (m : Bool) (vd : Nat) (c : OpenColl) (core off h : Nat) : Res :=
  if s.collPackets s.h.slot s.h.launch then .wait { s with h := { s.h with collStage := if c.committed then 2 else 1 } }
  else match s.h.pstat with
    | some st =>
      let s1 := { s with h := { s.h with pstat := none } }
      .trap st.trap (if c.committed then s1.closeColl else (s1.oweAbort c).closeColl)
    | none =>
      if c.committed && c.totals.isEmpty then s.collWait m vd c core off h
      else
        let s1 := s.commitAll c (hdrHoff h) (c.totals.filter fun t => t.2 ≠ 0)
        .wait { s1 with h := { s1.h with collStage := 2 } }

/-- The checks of a folding COLLEND on vector state (18_isa_fabric.md R451). -/
def State.foldCheck (s : State) (m : Bool) (vd : Nat) (op : Nat) (k : Res) : Res :=
  let t := s.vtag
  if tagReserved t || (t ≠ tNone && s.groupsIllegal m vd (tagWidth t) false [] t true) then s.illegal
  else if !foldTag (op = 1) t then .trap (s.trapWord causeTagmix) s
  else if t = tZ64 && s.qBad then s.illegal
  else match s.destStop vd (tagWidth t) with
    | some r => r
    | none => k

/-- COLLEND with op 1 to 3, or `.exch` with op 0. The checks at its start are made once; a COLLEND that goes on skips them. -/
def State.collEnd (s : State) (m : Bool) (vd : Nat) (op : BitVec 2) (a : Reg) : Res :=
  s.vecHold true fun s => s.collGate fun s =>
    let va := s.x a
    s.collOpen va fun c =>
      if c.op ≠ op || s.vstart ≠ 0 then s.illegal
      else
        let go (first : Bool) (s : State) : Res := s.unmarked fun s => s.commCheck va .atomic fun s core off h =>
          if first && op ≠ 0 && hdrSlot h < s.vl * tagWidth s.vtag / 8 then s.illegal else s.collSteps m vd c core off h
        if s.h.collStage = 0 && op ≠ 0 then s.foldCheck m vd op.toNat (go true s) else go false s

/-- COLLEND of a reduction (18_isa_fabric.md R449). -/
def execCollend (d : Reg) (o : BitVec 2) (a : Reg) (m : BitVec 1) (s : State) : Host.Outcome State Fault Refusal :=
  if Sys2Proof.foldOp o then finish (s.collEnd (m = 1) d.toNat o a) else finish s.illegal

/-- COLLEND of an exchange (18_isa_fabric.md R449). -/
def execCollendExch (a : Reg) (m : BitVec 1) (s : State) : Host.Outcome State Fault Refusal := finish (s.collEnd (m = 1) 0 0 a)

/-! ## Aborts (18_isa_fabric.md R450) -/

/-- COLLABORT. -/
def State.collAbort (s : State) (a : Reg) : Res :=
  s.vecHold true fun s => s.collGate fun s =>
    let va := s.x a
    match s.h.coll with
    | none => .ok s
    | some c => if c.comm ≠ va then s.illegal
      else s.unmarked fun s => s.commCheck va .load fun s _ _ _ => .ok (s.oweAbort c).closeColl

/-- COLLABORT (18_isa_fabric.md R450). -/
def execCollabort (a : Reg) (s : State) : Host.Outcome State Fault Refusal := finish (s.collAbort a)

/-- Send the abort to member after member, as long as the slot has room; what is left stays owed. -/
def State.sendAborts (s : State) (k : CollAbort) (hoff : Nat) : Nat → Nat → State
  | 0, _ => s
  | n + 1, r =>
    if 16 ≤ s.engAtomics k.slot then { s with c := { s.c with aborts := { k with next := r } :: s.c.aborts } }
    else
      let s1 := match s.memberRoute k.core k.off r with
        | none => s
        | some rt => if (s.sourceCheck rt 0 4 hoff 64).isSome then s
          else s.sendEngine k.slot k.launch rt hoff 12 k.seq.toNat .collAbort
      s1.sendAborts k hoff n (r + 1)

/-- The core of a hart sends the oldest abort it owes for the hart, once the hart's collective packets have been acknowledged. -/
def State.collAbortSend (s : State) (core : Nat) (slot : BitVec 3) (launch : BitVec 32) : State :=
  let s := s.focusCore core
  match s.c.aborts.find? fun k => k.slot == slot && k.launch == launch with
  | none => s
  | some k =>
    if s.collPackets slot launch then s
    else
      let s1 := { s with c := { s.c with aborts := s.c.aborts.erase k } }
      match s1.readLoc (.spad k.core k.off) 64 with
      | none => s1
      | some h => s1.sendAborts k (hdrHoff h) (hdrNmem h - k.next) k.next

/-- COLL_ABORT_SEND (18_isa_fabric.md R450). -/
def execCollAbortSend (core : Nat) (slot : BitVec 3) (launch : BitVec 32) (s : State) : Host.Outcome State Fault Refusal :=
  .next (s.collAbortSend core slot launch)

end Sys2Proof.Machine
end

