-- ==== Sys2Proof/Machine/Torus.lean ====
section
/-! DEFINITION. The torus: routers, ranking, deflection, injection, admission, RETRY and reinjection (02_fabric.md R49 to R54). -/

set_option Elab.async false

namespace Sys2Proof.Machine

/-! ## Packets on the torus -/

/-- A packet handed to the torus by an endpoint. -/
def newItem (net : List NetItem) (p : Packet) (reply : Bool) (src dst : Endpoint) (home : Nat) (encl : Byte) : NetItem :=
  { pkt := p, pos := .inject, src := src, dst := dst, ptag := freePtag net src 256 0, reply := reply, sent := 0, got := [], admitted := false,
    retries := 0, home := home, encl := encl, ofTag := 0 }

/-- Hand a packet to the torus. -/
def State.putNet (s : State) (p : Packet) (reply : Bool) (src dst : Endpoint) (home : Nat) (encl : Byte) : State :=
  { s with fab := { s.fab with net := s.fab.net ++ [newItem s.fab.net p reply src dst home encl] } }

/-- Take the k-th packet out of the network. -/
def State.dropNet (s : State) (k : Nat) : State := { s with fab := { s.fab with net := s.fab.net.eraseIdx k } }

/-- Change the k-th packet. -/
def State.setNet (s : State) (k : Nat) (i : NetItem) : State := { s with fab := { s.fab with net := s.fab.net.set k i } }

/-- Endpoint of the package switch (02_fabric.md R50). -/
def Endpoint.isSwitch (e : Endpoint) : Bool := e.dep && decide (e.y < 32) && decide (16 ≤ e.y) && decide (e.x % 16 = 7) && decide (e.x < 32)

/-! ## Routers (02_fabric.md R49, R50) -/

/-- A shared-unit router follows the core router at (x, y). -/
def spliced (x y : Nat) : Bool :=
  (Endpoint.isSwitch ⟨x, y, true⟩) || (x == 15 && y == 24) || (y == 40 && (x == 39 || x == 47 || x == 55))

/-- A place on the torus: a core router, or the shared-unit router behind it. -/
structure Router where
  x : Nat
  y : Nat
  shared : Bool
deriving DecidableEq, Repr

/-- The router at the far end of an output: 0 east, 1 south, 2 west, 3 north. -/
def Router.next (r : Router) (out : Nat) : Router :=
  let e := (r.x + 1) % 64
  let w := (r.x + 63) % 64
  match out with
  | 0 => if !r.shared && spliced r.x r.y then ⟨r.x, r.y, true⟩ else ⟨e, r.y, false⟩
  | 1 => ⟨r.x, (r.y + 1) % 64, false⟩
  | 2 => if r.shared then ⟨r.x, r.y, false⟩ else if spliced w r.y then ⟨w, r.y, true⟩ else ⟨w, r.y, false⟩
  | _ => ⟨r.x, (r.y + 63) % 64, false⟩

/-- The outputs that shorten a distance on a ring of 64: `up` when the target lies ahead, `down` when behind, both when opposite. -/
def ringOuts (frm dest up down : Nat) : List Nat :=
  let d := (dest + 64 - frm) % 64
  if d = 0 then [] else if d < 32 then [up] else if d = 32 then [up, down] else [down]

/-- The outputs that bring a flit nearer, the column direction first. -/
def Router.nearer (r : Router) (f : Flit) : List Nat :=
  if r.shared then
    (if f.dx = r.x then [2] else ringOuts r.x f.dx 0 2)
  else
    ringOuts r.y f.dy 1 3 ++ (if f.dx = r.x then (if f.dy = r.y && f.dep then [0] else []) else ringOuts r.x f.dx 0 2)

/-- The router where a flit stands. -/
def Flit.at_ (f : Flit) : Router := ⟨f.x, f.y, f.shared⟩

/-- A flit stands at its destination. -/
def Flit.home (f : Flit) : Bool := f.x == f.dx && f.y == f.dy && f.shared == f.dep

/-- The outputs and ejection ports (4 and 5) that a flit tries, in order. A flit that passes a shared-unit router keeps its direction. -/
def Flit.wants (f : Flit) : List Nat :=
  (if f.home then [4, 5] else []) ++
    (if f.shared then (if f.dir = 0 || f.dir = 2 then [f.dir] else []) ++ f.at_.nearer f ++ [0, 2] else f.at_.nearer f ++ [0, 1, 2, 3])

/-- The rank of a flit as a number, the first in rank the smallest: age, source, packet tag, flit index (02_fabric.md R51). -/
def Flit.rank (f : Flit) : Nat := ((255 - f.age) * 2 ^ 13 + f.src) * 2 ^ 12 + f.ptag * 16 + f.fidx

/-- Put a flit into a list in rank order. -/
def rankIns (f : Flit) : List Flit → List Flit
  | [] => [f]
  | g :: r => if f.rank < g.rank then f :: g :: r else g :: rankIns f r

/-- A list of flits in rank order. -/
def ranked (l : List Flit) : List Flit := l.foldr rankIns []

/-- In rank order each flit takes its first free output: what moved, and what was ejected. -/
def routeAll : List Flit → List (Router × Nat) → List Flit × List Flit
  | [], _ => ([], [])
  | f :: r, taken =>
    match f.wants.find? fun o => !taken.contains (f.at_, o) with
    | none => let (m, e) := routeAll r taken; (f :: m, e)
    | some o =>
      let (m, e) := routeAll r ((f.at_, o) :: taken)
      if 4 ≤ o then (m, f :: e)
      else
        let n := f.at_.next o
        ({ f with x := n.x, y := n.y, shared := n.shared, dir := o } :: m, e)

/-! ## Injection and ejection -/

/-- Source field of the sideband. -/
def Endpoint.src (e : Endpoint) : Nat := e.x + 64 * e.y + if e.dep then 4096 else 0

/-- The next flit of a packet. -/
def NetItem.flit (i : NetItem) : Flit :=
  { dx := i.dst.x, dy := i.dst.y, dep := i.dst.dep, age := 0, src := i.src.src, ptag := i.ptag, fidx := i.sent,
    last := decide (i.sent + 1 = i.pkt.flits), cls := i.reply, x := i.src.x, y := i.src.y, shared := i.src.dep, dir := 4 }

/-- Inject: each endpoint adds one flit of its first waiting packet when few enough flits stand at its router (three at a core router; one at
a shared-unit router, which has two outputs). -/
def injectAll (present : List Flit) : List NetItem → List Endpoint → List NetItem × List Flit
  | [], _ => ([], [])
  | i :: r, done =>
    let here := (present.filter fun f => f.at_ == ⟨i.src.x, i.src.y, i.src.dep⟩).length
    if i.pos == .inject && decide (i.ptag < 256) && !done.contains i.src && decide (here ≤ if i.src.dep then 1 else 3) then
      let (n, f) := injectAll present r (i.src :: done)
      ({ i with sent := i.sent + 1, pos := if i.sent + 1 < i.pkt.flits then .inject else .torus } :: n, i.flit :: f)
    else
      let (n, f) := injectAll present r done
      (i :: n, f)

/-- A packet has arrived whole, and, for a request, was admitted. -/
def NetItem.whole (i : NetItem) : Bool := (i.reply || i.admitted) && decide (i.got.length = i.pkt.flits)

/-- A packet that has arrived whole passes to its consumer, which frees the flits of an admitted request when it takes it (02_fabric.md R53). -/
def NetItem.settle (i : NetItem) : NetItem :=
  if (i.pos == .torus || i.pos == .inject) && i.whole then
    { i with got := [], pos := if i.dst.isSwitch then .atSwitch none else .arrived }
  else i

/-- The endpoint takes an ejected flit; one of a refused or unknown packet is discarded. -/
def takeFlit (f : Flit) (net : List NetItem) : List NetItem :=
  net.map fun i =>
    if i.src.src == f.src && i.ptag == f.ptag && i.reply == f.cls && (i.pos == .torus || i.pos == .inject) then { i with got := f.fidx :: i.got } else i

/-- A packet that waits for a packet tag takes one that has come free (02_fabric.md R49). -/
def retag (net : List NetItem) : List NetItem :=
  match net.findIdx? fun i => i.pos == .inject && decide (256 ≤ i.ptag) && decide (freePtag net i.src 256 0 < 256) with
  | none => net
  | some k => net.modify k fun i => { i with ptag := freePtag net i.src 256 0 }

/-- Every flit in flight ages by one, to at most 255. -/
def Flit.older (f : Flit) : Flit := { f with age := min 255 (f.age + 1) }

/-- Ageing is due: it comes once in 8 router cycles (02_fabric.md R51). -/
def State.ageDue (s : State) : Bool := decide (s.fab.aged + 8 ≤ s.fab.rcycle)

/-- The flits in flight age, once in 8 router cycles. -/
def State.age (s : State) : State :=
  if s.ageDue then { s with fab := { s.fab with flits := s.fab.flits.map Flit.older, aged := s.fab.aged + 8 } } else s

/-- One router cycle (02_fabric.md R51). -/
def State.routerCycle (s : State) : State :=
  let s := s.age
  let (net, fresh) := injectAll s.fab.flits (retag s.fab.net) []
  let (moved, out) := routeAll (ranked (s.fab.flits ++ fresh)) []
  { s with fab := { s.fab with
      flits := moved, net := (out.foldl (fun n f => takeFlit f n) net).map NetItem.settle, rcycle := s.fab.rcycle + 1 } }

/-- ROUTER_CYCLE (02_fabric.md R51). -/
def execRouterCycle (s : State) : Host.Outcome State Fault Refusal := .next s.routerCycle

/-- FLIT_AGE: when 8 router cycles have passed since the last, every flit in flight ages by one, to at most 255 (02_fabric.md R51). -/
def execFlitAge (s : State) : Host.Outcome State Fault Refusal := .next s.age

/-! ## Admission and RETRY (02_fabric.md R53) -/

/-- Request flits reserved at an endpoint: 10 for each admitted packet. -/
def State.reserved (s : State) (e : Endpoint) : Nat := 10 * (s.fab.net.filter fun i => i.admitted && i.dst == e).length

/-- REQUEST_ADMISSION of the k-th packet, whose first flit stands at its endpoint: it is admitted, or refused with a RETRY notice. -/
def State.admission (s : State) (k : Nat) : State :=
  match s.fab.net[k]? with
  | none => s
  | some i =>
    if i.reply || i.admitted || i.got.isEmpty || !(i.pos == .torus || i.pos == .inject) then s
    else if s.reserved i.dst + 10 ≤ 512 then s.setNet k ({ i with admitted := true } : NetItem).settle
    else
      let s1 := s.setNet k { i with pos := .refusedTorus, got := [] }
      let note := newItem s1.fab.net (i.pkt.reply 0x31 0 i.pkt.hopidx []) true i.dst i.src i.home i.encl
      { s1 with fab := { s1.fab with net := s1.fab.net ++ [{ note with ofTag := i.ptag }] } }

/-- REQUEST_ADMISSION (02_fabric.md R53). -/
def execRequestAdmission (k : Nat) (s : State) : Host.Outcome State Fault Refusal := .next (s.admission k)

/-- The clock of a packet's source: its core's cycles, or router cycles for a shared unit. -/
def State.clockOf (s : State) (i : NetItem) : Nat := if i.src.dep then s.fab.rcycle else (s.core i.home).cycle.toNat

/-- RETRY: the notice at position k has reached the source, and the request waits before it is injected again. The n-th notice delays it
by 64 x 2^min(n - 1, 8) cycles. -/
def State.retry (s : State) (k : Nat) : State :=
  match s.fab.net[k]? with
  | none => s
  | some n =>
    if n.pos != .arrived && n.pos != .atSwitch none || n.pkt.op ≠ 0x31 then s
    else
      let back (i : NetItem) : NetItem :=
        if i.pos == .refusedTorus && i.src == n.dst && i.ptag == n.ofTag then
          { i with pos := .backoff (s.clockOf i + 64 * 2 ^ min i.retries 8), retries := i.retries + 1 }
        else i
      let s1 := { s with fab := { s.fab with net := (s.fab.net.map back).eraseIdx k } }
      if n.dst.dep then s1 else s1.putCore ((s1.core n.home).count 0x0C 1)

/-- RETRY (02_fabric.md R53). -/
def execRetry (k : Nat) (s : State) : Host.Outcome State Fault Refusal := .next (s.retry k)

/-- REINJECT: the back-off of the k-th packet has passed; it is the same transmission under a new packet tag. -/
def State.reinject (s : State) (k : Nat) : State :=
  match s.fab.net[k]? with
  | none => s
  | some i => match i.pos with
    | .backoff due =>
      if s.clockOf i < due then s
      else s.setNet k { i with pos := .inject, sent := 0, got := [], admitted := false, ptag := freePtag s.fab.net i.src 256 0 }
    | _ => s

/-- REINJECT (02_fabric.md R53). -/
def execReinject (k : Nat) (s : State) : Host.Outcome State Fault Refusal := .next (s.reinject k)

end Sys2Proof.Machine
end

