-- ==== Sys2Proof/Machine/Switch.lean ====
section
/-! DEFINITION. The package switch: requests, replies, multicast and what happens when a link leaves UP
(02_fabric.md R41, R46 to R48, R55, R57 to R60, R63). -/

set_option Elab.async false

namespace Sys2Proof.Machine

/-! ## Links by name -/

/-- The peer entry of an Ethernet port; one not listed is absent (02_fabric.md R62). -/
def State.peer? (s : State) (eth : BitVec 2) (idx : BitVec 5) : Option EthPeer := s.fab.peers.find? fun p => p.eth == eth && p.idx == idx

/-- A link. -/
def State.link (s : State) (l : LinkRef) : Link :=
  match l with
  | .port p => s.fab.ports.get ⟨p.toNat, p.isLt⟩
  | .peer e i => match s.peer? e i with
    | none => Link.reset
    | some p => p.link

/-- Write a link. -/
def State.setLink (s : State) (l : LinkRef) (k : Link) : State :=
  match l with
  | .port p =>
    let i : Fin 16 := ⟨p.toNat, p.isLt⟩
    { s with fab := { s.fab with ports := s.fab.ports.set i k } }
  | .peer e i => { s with fab := { s.fab with peers := s.fab.peers.map fun p => if p.eth == e && p.idx == i then { p with link := k } else p } }

/-- A request under a route may leave through a link: it is UP, and its SLOTOK has the bit of the route's key slot (02_fabric.md R47,
03_routes.md R82). -/
def State.mayLeave (s : State) (l : LinkRef) (r : RouteVal) : Bool := (s.link l).state == .up && (s.link l).slotok.getLsbD r.kslot.toNat

/-- Put a packet into the egress queue of a link. -/
def State.enqueue (s : State) (l : LinkRef) (p : Packet) : State :=
  s.setLink l { s.link l with egress := (s.link l).egress ++ [(p.route.rcls, p)] }

/-! ## Replies (02_fabric.md R48) -/

/-- The hop that ends at list position `j`: whether it is an Ethernet hop, reading the list from position `i`. -/
def endsEth (r : RouteVal) (j : Nat) : Nat → Nat → Bool
  | 0, _ => false
  | n + 1, i =>
    if j ≤ i then false
    else if r.kind = 1 then false
    else if 16 ≤ r.hop i then (if i + 2 = j then true else endsEth r j n (i + 2))
    else endsEth r j n (i + 1)

/-- The step of a reply at a switch: on to the source core, to a port, to a peer entry, or nowhere. A reply for a link that is not UP
is lost, and its source times out (R45). -/
def State.replyStep (s : State) (p : Packet) : State :=
  let j := p.hopidx
  if j = 0 then
    (if p.spkg = s.fab.pkgId.toNat then
      let dst := coreEndpoint p.score
      s.putNet p true dst.switchOf dst p.score 0
    else s)
  else
    let (l, q) : LinkRef × Packet :=
      if endsEth p.route j 10 0 then (.peer (BitVec.ofNat 2 (p.rev (j - 2) - 16)) (BitVec.ofNat 5 (p.rev (j - 1))), p.setHopidx (j - 2))
      else (.port (BitVec.ofNat 4 (p.rev (j - 1))), p.setHopidx (j - 1))
    if (s.link l).state = .up then s.enqueue l q else s

/-- A switch refuses a request: it is gone, and an ERROR goes back (02_fabric.md R47). -/
def State.refuse (s : State) (p : Packet) (st : Nat) : State := s.replyStep (p.reply 0x22 st p.hopidx [])

/-! ## Multicast (02_fabric.md R57 to R60) -/

/-- Two packets belong to one request. -/
def sameRequest (a b : Packet) : Bool :=
  a.route == b.route && a.spkg == b.spkg && a.score == b.score && a.hslot == b.hslot && a.qtag == b.qtag && a.offset == b.offset

/-- Rank of a port among the ports of a mask. -/
def portRank (m p : Nat) : Nat := ((ports m).filter (· < p)).length

/-- The bits of the leaves behind a port: of one leaf at the second level, of a branch at the first. -/
def leafBits (k : McastMerge) (port : Nat) : Nat :=
  let r := k.pkt.route
  let n2 := max (ports r.m2).length 1
  if k.second then 2 ^ (k.pkt.bri * n2 + portRank r.m2 port) else (2 ^ n2 - 1) * 2 ^ (portRank r.m1 port * n2)

/-- A merge without a port, whose copy failed or was answered. -/
def McastMerge.answer (k : McastMerge) (port bits : Nat) : McastMerge :=
  { k with pending := k.pending.filter (· != port), bitmap := k.bitmap ||| BitVec.ofNat 64 bits }

/-- A merge whose copies have all been answered sends its MACK back; another one is kept (02_fabric.md R60). -/
def State.putMerge (s : State) (k : McastMerge) : State :=
  if k.pending.isEmpty then s.replyStep (k.pkt.reply 0x23 0 k.pkt.hopidx (bytesOf k.bitmap.toNat 8))
  else { s with fab := { s.fab with mcast := s.fab.mcast ++ [k] } }

/-- Mark a packet that is queued in a congested class: a BACKNOTE to its source, at most one each microsecond for a source and route
register (02_fabric.md R55). A class's share of the 256 frame buffers of 29 beats is a sixteenth; a microsecond is 2,000 router cycles. -/
def State.mark (s : State) (l : LinkRef) (p : Packet) : State :=
  let full := (((s.link l).egress.filter fun e => e.1 == p.route.rcls).map fun e => e.2.beats).sum
  let key := p.spkg + 2 ^ 16 * p.score + 2 ^ 28 * p.hslot + 2 ^ 31 * p.rtreg
  let recent := s.fab.noted.any fun n => n.1 == key && decide (s.fab.rcycle < n.2 + 2000)
  if full ≤ 8 * 29 || recent then s
  else ({ s with fab := { s.fab with noted := (key, s.fab.rcycle) :: s.fab.noted.filter fun n => n.1 != key } } : State).replyStep
    (p.reply 0x30 0 p.hopidx [])

/-- Send copies on the ports of a mask: those whose link is UP are queued, the others fail. -/
def State.replicate (s : State) (p : Packet) (pin : Option LinkRef) (second : Bool) (mask : Nat) (copy : Nat → Packet) : State :=
  let ps := ports mask
  let up (q : Nat) : Bool := s.mayLeave (.port (BitVec.ofNat 4 q)) p.route
  let k0 : McastMerge := ⟨p, pin, second, ps, 0⟩
  let k := (ps.filter fun q => !up q).foldl (fun k q => k.answer q (leafBits k q)) k0
  ((ps.filter up).foldl (fun s q => (s.enqueue (.port (BitVec.ofNat 4 q)) (copy q)).mark (.port (BitVec.ofNat 4 q)) p) s).putMerge k

/-- Answer the copy on a port of the merge that a packet belongs to. -/
def State.answerCopy (s : State) (p : Packet) (second : Bool) (port : Nat) (bits : McastMerge → Nat) : State :=
  match s.fab.mcast.findIdx? fun k => sameRequest k.pkt p && k.second == second && (!second || k.pkt.bri == p.bri) && k.pending.contains port with
  | none => s
  | some i => match s.fab.mcast[i]? with
    | none => s
    | some k => ({ s with fab := { s.fab with mcast := s.fab.mcast.eraseIdx i } } : State).putMerge (k.answer port (bits k))

/-- The reply of a copy reaches the switch that replicated it. -/
def State.mergeReply (s : State) (p : Packet) (second : Bool) (port : Nat) : State :=
  s.answerCopy p second port fun k =>
    if p.status ≠ 0 then leafBits k port
    else if p.op = 0x23 then dataNat (p.data.take 8)
    else 0

/-! ## Requests (02_fabric.md R47) -/

/-- Deliver a request on the torus to its target unit. -/
def State.deliverTorus (s : State) (p : Packet) (encl : Byte) : State :=
  let dst := routeEndpoint p.route
  s.putNet p false dst.switchOf dst 0 encl

/-- Record the arrival port in REVPATH. -/
def arrivedFrom (p : Packet) (pin : Option LinkRef) : Packet :=
  match pin with
  | none => p
  | some (.port q) => p.setRev (p.hopidx - 1) q.toNat
  | some (.peer e i) => (p.setRev (p.hopidx - 2) (16 + e.toNat)).setRev (p.hopidx - 1) i.toNat

/-- MulticastStep. -/
def State.multicastStep (s : State) (p : Packet) (pin : Option LinkRef) (encl : Byte) : State :=
  let r := p.route
  let j := p.hopidx
  if j < r.hc then
    (let l : LinkRef := .port (BitVec.ofNat 4 (r.hop j))
     if !s.mayLeave l r then s.refuse p stUnreach else (s.enqueue l (p.setHopidx (j + 1))).mark l p)
  else if j = r.hc then s.replicate p pin false r.m1 fun q => (p.setBri (portRank r.m1 q)).setHopidx (j + 1)
  else if j = r.hc + 1 && r.m2 ≠ 0 then s.replicate p pin true r.m2 fun _ => p.setHopidx (j + 1)
  else s.deliverTorus p encl

/-- The switch's step for a request. -/
def State.requestStep (s : State) (p0 : Packet) (pin : Option LinkRef) (encl : Byte) : State :=
  let p := arrivedFrom p0 pin
  let r := p.route
  let j := p.hopidx
  if !s.tagOk r then s.refuse p stTag
  else if p.malformed || r.malformed || !opRequest p.op then s.refuse p stMalformed
  else if r.kind = 1 then s.multicastStep p pin encl
  else if j = r.hc then s.deliverTorus p encl
  else
    let h := r.hop j
    if 19 ≤ h then s.refuse p stMalformed
    else if 16 ≤ h then
      (let l : LinkRef := .peer (BitVec.ofNat 2 (h - 16)) (BitVec.ofNat 5 (r.hop (j + 1)))
       if r.hc ≤ j + 1 then s.refuse p stMalformed
       else if !opEth p.op then s.refuse p stUnreach
       else if !s.mayLeave l r then s.refuse p stUnreach
       else s.enqueue l (p.setHopidx (j + 2)))
    else
      let l : LinkRef := .port (BitVec.ofNat 4 h)
      if !s.mayLeave l r then s.refuse p stUnreach else (s.enqueue l (p.setHopidx (j + 1))).mark l p

/-- SWITCH_REQUEST: the k-th packet, a request at the switch. -/
def State.switchRequest (s : State) (k : Nat) : State :=
  match s.fab.net[k]? with
  | none => s
  | some i => match i.pos with
    | .atSwitch pin => if i.reply then s else (s.dropNet k).requestStep i.pkt pin i.encl
    | _ => s

/-- SWITCH_REQUEST (02_fabric.md R47). -/
def execSwitchRequest (k : Nat) (s : State) : Host.Outcome State Fault Refusal := .next (s.switchRequest k)

/-- The arrival check of a reply: the port that its hop list names, or a port of the branch mask (02_fabric.md R48). -/
def replyFrom (p : Packet) (l : LinkRef) : Bool :=
  let r := p.route
  let j := p.hopidx
  match l with
  | .port q =>
    if r.kind = 1 && r.hc ≤ j then (if j = r.hc then r.m1.testBit q.toNat else j = r.hc + 1 && r.m2.testBit q.toNat)
    else decide (j < r.hc) && decide (r.hop j = q.toNat)
  | .peer e i => r.kind != 1 && decide (j + 1 < r.hc) && decide (r.hop j = 16 + e.toNat) && decide (r.hop (j + 1) = i.toNat)

/-- SWITCH_REPLY: the k-th packet, a reply or notice at the switch. One that fails the arrival check is discarded and counted. RETRY is for the torus
only: the switch's own waits for RETRY, and one from a port is discarded (02_fabric.md R43). -/
def State.switchReply (s : State) (k : Nat) : State :=
  match s.fab.net[k]? with
  | none => s
  | some i => match i.pos with
    | .atSwitch pin =>
      if !i.reply then s
      else if i.pkt.op = 0x31 then (if pin.isNone then s else s.dropNet k)
      else
        let s1 := s.dropNet k
        let bad : State := { s1 with fab := { s1.fab with badReplies := s1.fab.badReplies + 1 } }
        match pin with
        | none => s1.replyStep i.pkt
        | some l =>
          if !replyFrom i.pkt l then bad
          else match l with
            | .port q =>
              if i.pkt.route.kind = 1 && i.pkt.route.hc ≤ i.pkt.hopidx && i.pkt.op ≠ 0x30 then
                s1.mergeReply i.pkt (decide (i.pkt.hopidx ≠ i.pkt.route.hc)) q.toNat
              else s1.replyStep i.pkt
            | .peer _ _ => s1.replyStep i.pkt
    | _ => s

/-- SWITCH_REPLY (02_fabric.md R48). -/
def execSwitchReply (k : Nat) (s : State) : Host.Outcome State Fault Refusal := .next (s.switchReply k)

/-- MULTICAST_TIMEOUT: the copies that the k-th merge still waits for count as failed (02_fabric.md R60). -/
def State.multicastTimeout (s : State) (k : Nat) : State :=
  match s.fab.mcast[k]? with
  | none => s
  | some m =>
    ({ s with fab := { s.fab with mcast := s.fab.mcast.eraseIdx k } } : State).putMerge (m.pending.foldl (fun m q => m.answer q (leafBits m q)) m)

/-- MULTICAST_TIMEOUT (02_fabric.md R60). -/
def execMulticastTimeout (k : Nat) (s : State) : Host.Outcome State Fault Refusal := .next (s.multicastTimeout k)

/-! ## Beats (02_fabric.md R38, R42) -/

/-- Two words as a beat, the first in the low half. -/
def beat (a b : Nat) : BitVec 128 := BitVec.ofNat 128 (a + 2 ^ 64 * b)

/-- Payload beats, padded with zero bytes. -/
def dataBeats : Nat → List Byte → List (BitVec 128)
  | 0, _ => []
  | n + 1, d => if d.isEmpty then [] else BitVec.ofNat 128 (dataNat (d.take 16)) :: dataBeats n (d.drop 16)

/-- The beats of a packet. -/
def packetBeats (p : Packet) : List (BitVec 128) :=
  [beat p.route.w0.toNat p.route.w1.toNat, beat p.route.w2.toNat p.route.w3.toNat, beat p.c4.toNat p.c5.toNat, beat p.c6.toNat p.c7.toNat] ++
    dataBeats 32 p.data

/-- Number of payload beats of a packet by its control word 4. -/
def payloadBeats (c4 : Nat) : Nat := if opBare (c4 % 64) then 0 else (c4 / 2 ^ 10 % 2 ^ 9 + 15) / 16

/-- The first packet of a list of beats, when it is whole, and the rest. -/
def takePacket (b : List (BitVec 128)) : Option (Packet × List (BitVec 128)) :=
  match b with
  | b0 :: b1 :: b2 :: b3 :: r =>
    let w (x : BitVec 128) (i : Nat) : Word := BitVec.ofNat 64 (x.toNat / 2 ^ (64 * i))
    let c4 := (w b2 0).toNat
    let n := payloadBeats c4
    if r.length < n then none
    else
      let len := if opBare (c4 % 64) then 0 else c4 / 2 ^ 10 % 2 ^ 9
      let data := ((r.take n).flatMap fun x => bytesOf x.toNat 16).take len
      some (⟨⟨w b0 0, w b0 1, w b1 0, w b1 1⟩, w b2 0, w b2 1, w b3 0, w b3 1, data⟩, r.drop n)
  | _ => none

/-- The whole packets of a list of beats, and what is left. -/
def takePackets : Nat → List (BitVec 128) → List Packet × List (BitVec 128)
  | 0, b => ([], b)
  | n + 1, b => match takePacket b with
    | none => ([], b)
    | some (p, r) => let (ps, z) := takePackets n r; (p :: ps, z)

/-! ## A link leaves UP (02_fabric.md R41) -/

/-- The packets that are not wholly acknowledged: beats acknowledged of the first of them, beats of the unacknowledged frames, and those of the
packet still being sent. -/
def Link.unacked (k : Link) : List Packet :=
  let b := k.ackBeats ++ k.replay.flatMap Frame.beats ++ k.txBeats
  (takePackets (b.length + 1) b).1

/-- Answer a packet that was queued for a link with UNREACH: the reply starts here, before the hop. -/
def State.unreachQueued (s : State) (l : LinkRef) (p : Packet) : State :=
  if opReply p.op then s
  else
    let j := p.hopidx - (match l with
      | .port _ => 1
      | .peer _ _ => 2)
    match l with
    | .port q =>
      if p.route.kind = 1 && p.route.hc ≤ j then s.answerCopy p (decide (j ≠ p.route.hc)) q.toNat fun k => leafBits k q.toNat
      else s.refuse (p.setHopidx j) stUnreach
    | .peer _ _ => s.refuse (p.setHopidx j) stUnreach

/-- A link after its session has ended. -/
def Link.ended (k : Link) (st : LinkState) : Link :=
  { Link.reset with state := st, enabled := k.enabled, attempts := k.attempts, slotok := k.slotok, peer := k.peer, far := k.far }

/-- A link leaves UP: its session ends, and what was queued or unacknowledged is answered with UNREACH. -/
def State.linkDown (s : State) (l : LinkRef) (st : LinkState) : State :=
  let k := s.link l
  let s1 := s.setLink l (k.ended st)
  if k.state ≠ .up then s1
  else (k.unacked ++ k.egress.map Prod.snd).foldl (fun s p => s.unreachQueued l p) s1

end Sys2Proof.Machine
end

