-- ==== Sys2Proof/Machine/Target.lean ====
section
/-! DEFINITION. Target endpoints: the checks of an arriving request, its effect and its reply
(03_routes.md R74, R75, R88 to R94; 18_isa_fabric.md R438, R440, R447; 19_programs_fabric.md R454; 07_core.md R198, R200). -/

set_option Elab.async false

namespace Sys2Proof.Machine

/-! ## Checks (03_routes.md R88, R89) -/

/-- Where a request that passes the checks acts. -/
inductive Target
  | at_ (l : Loc)
  | ring (core off : Nat) (l : Launch)
  | box (core : Nat) (slot : BitVec 3) (launch : BitVec 32)
deriving DecidableEq, Repr

/-- A payload that R438 does not describe. -/
def atomicBad (d : List Byte) : Bool :=
  decide (d.length ≠ 16) || decide (12 < atomicOpc d) || !(atomicWid d == 4 || atomicWid d == 8) || decide (dataNat d / 2 ^ 24 % 2 ^ 40 ≠ 0) ||
    (decide (atomicOpc d ≠ 9) && decide (atomicRm d ≠ 0)) || decide (4 < atomicRm d) || (atomicWid d == 4 && decide (2 ^ 32 ≤ atomicOperand d))

/-- The operation is allowed for the target kind. A sync-add and the collective atomics need scratchpad. -/
def opAllowed (p : Packet) : Bool :=
  let k := p.route.tkind
  match p.op with
  | 6 => k == 2
  | 9 => k == 4
  | 0x0A => k == 0
  | 0x10 => k == 3
  | 4 => k == 0 || (k == 1 && decide (atomicOpc p.data < 10))
  | _ => k == 0 || k == 1

/-- The generation check at a counter. -/
def genOk (c : EpCounter) (eg : BitVec 16) (r : RouteVal) : Bool := c.l.getLsbD r.kslot.toNat && r.gen == eg

/-- Generation of a launch's endpoint on a core. -/
def Launch.eg? (l : Launch) (core : Nat) : Option (BitVec 16) := (l.eps.find? (·.1 == core)).map Prod.snd

/-- The launch whose reservation on a core holds a scratchpad byte. -/
def State.reservationAt (s : State) (core off : Nat) : Option Launch :=
  s.hst.launches.find? fun l => l.cores.contains core && decide (l.rbase ≤ off) && decide (off < l.rbase + shapeSpres l.words)

/-- The placed launches of a core whose allotment has a hart slot. -/
def State.slotHolders (s : State) (core slot : Nat) : List Launch :=
  s.hst.launches.filter fun l => l.cores.contains core && decide (l.firstSlot.toNat ≤ slot) && decide (slot < l.firstSlot.toNat + l.allot)

/-- Owner of the 2 MiB granule of a physical address. -/
def State.ownerOf (s : State) (pa : Nat) : Option Byte := (s.hst.assign.find? (·.1 == pa / 0x200000)).map Prod.snd

/-- Every line of an access lies in a stack, outside the firmware region, in memory of an enclave that holds the endpoint's key id
(08_memory.md R215, R216). -/
def State.stackAccess (s : State) (stack : Nat) (e : HbmEp) (pa n : Nat) : Bool :=
  (List.range ((pa + n - 1) / 64 - pa / 64 + 1)).all fun i =>
    let a := 64 * (pa / 64 + i)
    decide (a < paLimit) && decide ((stackOf a).1 = stack) && !inFirmware a && (s.ownerOf a).any (s.holdsEp e)

/-- The endpoint checks of a mailbox route. -/
def State.boxTarget (s : State) (p : Packet) : Except Nat Target :=
  let r := p.route
  if p.offset % 16 ≠ 0 then .error stBounds
  else
    let slot := r.base % 8 + p.offset / 16
    match (s.slotHolders r.tunit slot).find? fun l => match l.eg? r.tunit with
      | none => false
      | some eg => genOk (s.core r.tunit).ctr eg r with
    | none => .error stRevoked
    | some l => .ok (.box r.tunit (BitVec.ofNat 3 slot) l.id)

/-- The endpoint checks of a scratchpad or ring route. The bytes of a ring's strip are checked against its descriptor instead. -/
def State.spadTarget (s : State) (p : Packet) : Except Nat Target :=
  let r := p.route
  match s.reservationAt r.tunit r.base with
  | none => .error stRevoked
  | some l => match l.eg? r.tunit with
    | none => .error stRevoked
    | some eg =>
      if !genOk (s.core r.tunit).ctr eg r then .error stRevoked
      else if r.tkind = 4 then .ok (.ring r.tunit r.base l)
      else if l.rbase + shapeSpres l.words < r.base + p.offset + accessWidth p then .error stBounds
      else .ok (.at_ (.spad r.tunit (r.base + p.offset)))

/-- The endpoint checks of an HBM route. -/
def State.hbmTarget (s : State) (p : Packet) : Except Nat Target :=
  let r := p.route
  let stack := r.tunit / 128 % 8
  let key := r.tunit % 64
  match s.fab.hbmEps.find? fun e => decide (e.stack.toNat = stack) && decide (e.key.toNat = key) with
  | none => .error stRevoked
  | some e =>
    let i : Fin 8 := ⟨stack, Nat.mod_lt _ (by decide)⟩
    if !genOk (s.fab.stackCtr.get i) e.eg r then .error stRevoked
    else if !s.stackAccess stack e (r.base + p.offset) (accessWidth p) then .error stBounds
    else .ok (.at_ (.hbm (r.base + p.offset) key))

/-- The checks that every request meets before its endpoint is selected. -/
def State.arrivalCheck (s : State) (p : Packet) : Option Nat :=
  let r := p.route
  if r.malformed || p.malformed then some stMalformed
  else if !s.tagOk r then some stTag
  else if p.op = 4 && atomicBad p.data then some stMalformed
  else if !opAllowed p || r.rights / opRight p.op % 2 = 0 then some stRights
  else if r.len < p.offset + accessWidth p then some stBounds
  else none

/-- The target endpoint's checks: where the request acts, or the status of its refusal. -/
def State.targetCheck (s : State) (p : Packet) : Except Nat Target :=
  match s.arrivalCheck p with
  | some st => .error st
  | none => match p.route.tkind with
    | 1 => s.hbmTarget p
    | 2 => s.boxTarget p
    | _ => s.spadTarget p

/-! ## Replies -/

/-- A reply: OP, STATUS and payload. -/
structure Answer where
  op : Nat
  status : Nat
  data : List Byte
deriving DecidableEq, Repr

/-- A refusal. -/
def Answer.error (st : Nat) : Answer := ⟨0x22, st, []⟩

/-- An acknowledgement. -/
def Answer.ack : Answer := ⟨0x21, 0, []⟩

/-- The k-th packet has been served; its reply, if any, goes back. -/
def State.answer (s : State) (k : Nat) (i : NetItem) (a : Option Answer) : State :=
  let s1 := s.dropNet k
  match a with
  | none => s1
  | some a =>
    let hop := if i.pkt.route.kind = 1 then i.pkt.hopidx else i.pkt.route.hc
    s1.putNet (i.pkt.reply a.op a.status hop a.data) true i.dst i.src i.home i.encl

/-- A request of one operation stands at its target; `f` gives the effect and the reply of one that passes the checks. -/
def State.serve (s : State) (op k : Nat) (f : State → Packet → Target → State × Option Answer) : State :=
  match s.fab.net[k]? with
  | none => s
  | some i =>
    if i.pos != .arrived || i.reply || i.pkt.op ≠ op then s
    else match s.targetCheck i.pkt with
      | .error st => s.answer k i (some (.error st))
      | .ok t => let r := f s i.pkt t; r.1.answer k i r.2

/-! ## Reads and writes -/

/-- A read of `LEN` bytes. -/
def State.serveRead (s : State) (p : Packet) (t : Target) : State × Option Answer :=
  match t with
  | .at_ l => match s.readLoc l p.len with
    | none => (s.spoil l p.len, some (.error stPoison))
    | some v => (s, some ⟨0x20, 0, bytesOf v p.len⟩)
  | _ => (s, some (.error stRights))

/-- A write of the payload; `f` says what else it does at its place. -/
def State.serveWrite (s : State) (p : Packet) (t : Target) (f : State → Loc → State) : State × Option Answer :=
  match t with
  | .at_ l => match s.writeLoc l p.len (dataNat p.data) with
    | none => (s.spoil l p.len, some (.error stPoison))
    | some s1 => (f s1 l, some .ack)
  | _ => (s, some (.error stRights))

/-- A remote STORE fills each whole scratchpad word that it writes (19_programs_fabric.md R454). -/
def State.fillStored (s : State) (n : Nat) (l : Loc) : State :=
  match l with
  | .hbm _ _ => s
  | .spad core off => (coveredUnits 8 (spadKey core off) n).foldl State.setFull s

/-- LOAD_REQUEST (03_routes.md R89). -/
def execLoadRequest (k : Nat) (s : State) : Host.Outcome State Fault Refusal := .next (s.serve 1 k State.serveRead)

/-- GET_REQUEST (03_routes.md R89). -/
def execGetRequest (k : Nat) (s : State) : Host.Outcome State Fault Refusal := .next (s.serve 8 k State.serveRead)

/-- STORE_REQUEST (03_routes.md R89, 19_programs_fabric.md R454). -/
def execStoreRequest (k : Nat) (s : State) : Host.Outcome State Fault Refusal :=
  .next (s.serve 2 k fun s p t => s.serveWrite p t fun s l => s.fillStored p.len l)

/-- PSTORE_REQUEST (03_routes.md R89). -/
def execPstoreRequest (k : Nat) (s : State) : Host.Outcome State Fault Refusal := .next (s.serve 3 k fun s p t => s.serveWrite p t fun s _ => s)

/-- PUT_REQUEST (03_routes.md R89). -/
def execPutRequest (k : Nat) (s : State) : Host.Outcome State Fault Refusal := .next (s.serve 7 k fun s p t => s.serveWrite p t fun s _ => s)

/-- MSTORE_REQUEST (03_routes.md R89, 02_fabric.md R59). -/
def execMstoreRequest (k : Nat) (s : State) : Host.Outcome State Fault Refusal :=
  .next (s.serve 0x0A k fun s p t => s.serveWrite p t fun s _ => s)

/-! ## Strips (07_core.md R198) -/

/-- A strip's packet reaches a ring. -/
def State.serveStrip (s : State) (p : Packet) (core off : Nat) (l : Launch) : State × Option Answer :=
  match s.readLoc (.spad core off) 64 with
  | none => (s, some (.error stPoison))
  | some d =>
    if ringMalformed d (shapeSpres l.words) then (s, some (.error stBounds))
    else
      let j := p.sseq % ringNent d
      let so := ringState l.rbase d j
      let w := spadKey core so / 8
      match s.readLoc (.spad core so) 8 with
      | none => (s, some (.error stPoison))
      | some sw =>
        let arr := sw % 2 ^ 32
        if s.mem.isFull w || (arr ≠ 0 && sw / 2 ^ 32 ≠ p.sseq) || ringEsz d < p.offset + p.len then (s, some (.error stBounds))
        else match s.writeLoc (.spad core (ringEntry l.rbase d j + p.offset)) p.len (dataNat p.data) with
          | none => (s, some (.error stPoison))
          | some s1 => match s1.writeLoc (.spad core so) 8 ((arr + p.len) % 2 ^ 32 + 2 ^ 32 * p.sseq) with
            | none => (s1, some (.error stPoison))
            | some s2 => (if arr + p.len = ringEsz d then s2.setFull w else s2, some .ack)

/-- STRDATA_REQUEST (07_core.md R198). -/
def execStrdataRequest (k : Nat) (s : State) : Host.Outcome State Fault Refusal :=
  .next (s.serve 9 k fun s p t => match t with
    | .ring core off l => s.serveStrip p core off l
    | _ => (s, some (.error stRights)))

/-! ## Messages (07_core.md R200, R201) -/

/-- A message as delivered: KIND USER over byte 0 of the payload. -/
def userMessage (d : List Byte) : Msg := BitVec.ofNat 128 (0x40 + dataNat d / 256 * 256)

/-- A SEND reaches a mailbox: it is refused with FULL when 12 or more messages are there, which the core counts. -/
def State.serveSend (s : State) (p : Packet) (core : Nat) (slot : BitVec 3) (launch : BitVec 32) : State × Option Answer :=
  if 12 ≤ (s.mail core slot launch).length then (s.putCore ((s.core core).count 0x11 1), some (.error stFull))
  else (s.mailArrive core slot launch (userMessage p.data), some .ack)

/-- SEND_REQUEST (18_isa_fabric.md R440). -/
def execSendRequest (k : Nat) (s : State) : Host.Outcome State Fault Refusal :=
  .next (s.serve 6 k fun s p t => match t with
    | .box core slot launch => s.serveSend p core slot launch
    | _ => (s, some (.error stRights)))

/-! ## Atomics (03_routes.md R91; 18_isa_fabric.md R438, R447) -/

/-- The replay cache of a target unit. -/
def State.replayOf (s : State) (r : RouteVal) : List ReplayEntry :=
  if r.tkind = 1 then (s.fab.stackReplay.filter fun e => e.1 == r.tunit / 128 % 8).map Prod.snd else (s.core r.tunit).replay

/-- Write the replay cache of a target unit. -/
def State.setReplay (s : State) (r : RouteVal) (l : List ReplayEntry) : State :=
  if r.tkind = 1 then
    let st := r.tunit / 128 % 8
    { s with fab := { s.fab with stackReplay := l.map (fun e => (st, e)) ++ s.fab.stackReplay.filter fun e => e.1 != st } }
  else s.putCore { s.core r.tunit with replay := l }

/-- An entry has the key of a packet. -/
def ReplayEntry.keyOf (e : ReplayEntry) (p : Packet) : Bool :=
  decide (e.spkg.toNat = p.spkg) && decide (e.score.toNat = p.score) && decide (e.hslot.toNat = p.hslot) && e.eng == p.eng && decide (e.aseq.toNat = p.aseq)

/-- Record a reply: it replaces the entry with its key, or the oldest of 64. -/
def State.record (s : State) (p : Packet) (tomb : Bool) (status : Nat) (result : Word) : State :=
  let e : ReplayEntry := ⟨BitVec.ofNat 16 p.spkg, BitVec.ofNat 12 p.score, BitVec.ofNat 3 p.hslot, p.eng, BitVec.ofNat 8 p.aseq,
    BitVec.ofNat 15 p.qtag, tomb, BitVec.ofNat 4 status, result⟩
  s.setReplay p.route ((e :: (s.replayOf p.route).filter fun e => !e.keyOf p).take 64)

/-- The DATA reply of an atomic, or the refusal it was answered with. -/
def atomicAnswer (status : Nat) (result : Word) : Answer := if status = 0 then ⟨0x20, 0, bytesOf result.toNat 8⟩ else .error status

/-- An atomic performed at its location: the old value and the state, or a status. -/
def State.performAtomic (s : State) (p : Packet) (l : Loc) : Except Nat (Word × State) :=
  let d := p.data
  let x := atomicOperand d
  if p.op = 5 then
    (match s.performOp (.cas 8 (BitVec.ofNat 64 (dataNat d))) l (BitVec.ofNat 64 x) with
      | none => .error stPoison
      | some r => .ok r)
  else
    let opc := atomicOpc d
    let wid := atomicWid d
    if opc < 10 then
      (match s.readLoc l wid with
        | none => .error stPoison
        | some old => match s.writeLoc l wid (amoNew opc wid old x ⟨atomicRm d, 0⟩).1 with
          | none => .error stPoison
          | some s1 => .ok (BitVec.ofNat 64 old, s1))
    else match l with
      | .hbm _ _ => .error stRights
      | .spad core off =>
        if opc = 10 then
          (match s.syncEvent core off fun w => w.add (x % 2 ^ 32) with
            | none => .error stPoison
            | some (gen, s1) => .ok (BitVec.ofNat 64 gen, s1))
        else match s.headerEvent core off fun b => if opc = 11 then b.syncAdd (x / 2 ^ 32) (x % 2 ^ 32) else b.abort (x % 2 ^ 32) with
          | none => .error stPoison
          | some s1 => .ok (0, s1)

/-- The replay rule and the effect of an atomic. -/
def State.serveAtomic (s : State) (p : Packet) (l : Loc) : State × Option Answer :=
  let hit := (s.replayOf p.route).find? fun e => e.keyOf p && decide (e.qtag.toNat = p.qtag % 2 ^ 15)
  if p.qtag / 2 ^ 15 % 2 = 1 then
    (match hit with
      | some e => (s, some (atomicAnswer e.status.toNat e.result))
      | none => (s.record p true stReplay 0, some (.error stReplay)))
  else if hit.any (·.tomb) then (s, none)
  else match s.performAtomic p l with
    | .error st => ((s.spoil l (accessWidth p)).record p false st 0, some (.error st))
    | .ok (v, s1) => (s1.record p false 0 v, some (atomicAnswer 0 v))

/-- ATOMIC_REQUEST (18_isa_fabric.md R438, 03_routes.md R91). -/
def execAtomicRequest (k : Nat) (s : State) : Host.Outcome State Fault Refusal :=
  .next (s.serve 4 k fun s p t => match t with
    | .at_ l => s.serveAtomic p l
    | _ => (s, some (.error stRights)))

/-- CAS_REQUEST (18_isa_fabric.md R438, 03_routes.md R91). -/
def execCasRequest (k : Nat) (s : State) : Host.Outcome State Fault Refusal :=
  .next (s.serve 5 k fun s p t => match t with
    | .at_ l => s.serveAtomic p l
    | _ => (s, some (.error stRights)))

end Sys2Proof.Machine
end

