-- ==== Sys2Proof/Machine/Wellhead.lean ====
section
/-! DEFINITION. The Wellhead: route keys, domains, paths and service requests (03_routes.md R71 to R84). -/

set_option Elab.async false

namespace Sys2Proof.Machine

/-! ## Route key slots (03_routes.md R71, R72, R77, R82) -/

/-- Write a key slot. -/
def State.setSlot (s : State) (k : BitVec 4) (v : KeySlot) : State :=
  let i : Fin 16 := ⟨k.toNat, k.isLt⟩
  { s with fab := { s.fab with slots := s.fab.slots.set i v } }

/-- Set the L bit of a slot at a counter. -/
def EpCounter.withL (b : BitVec 16) (c : EpCounter) : EpCounter := { c with l := c.l ||| b }

/-- Set the SLOTOK bit of a slot at a link. -/
def Link.withSlot (b : BitVec 16) (k : Link) : Link := { k with slotok := k.slotok ||| b }

/-- The bit of a slot in a mask. -/
def slotBit (k : BitVec 4) : BitVec 16 := BitVec.ofNat 16 (2 ^ k.toNat)

/-- INSTALL: an EMPTY slot takes a key and is PENDING; its L bit is set at every counter and its SLOTOK bit at every port and peer entry. -/
def State.installKey (s : State) (k : BitVec 4) (key : BitVec 256) : State :=
  if (s.keySlot k).state ≠ .empty then s
  else
    let b := slotBit k
    let s1 := (s.setSlot k ⟨.pending, key⟩).mapCores fun c => { c with ctr := c.ctr.withL b }
    { s1 with fab := { s1.fab with
        stackCtr := s1.fab.stackCtr.map (EpCounter.withL b), wellCtr := s1.fab.wellCtr.withL b, installed := s1.fab.installed ||| b
        ports := s1.fab.ports.map (Link.withSlot b), peers := s1.fab.peers.map fun (p : EthPeer) => { p with link := p.link.withSlot b } } }

/-- ACTIVATE: a PENDING slot becomes CURRENT, and the slot that was goes to ACCEPT. -/
def State.activateKey (s : State) (k : BitVec 4) : State :=
  if (s.keySlot k).state ≠ .pending then s
  else
    let s1 : State := match s.currentSlot with
      | none => s
      | some i =>
        let c : BitVec 4 := BitVec.ofNat 4 i.val
        let t := s.setSlot c { s.keySlot c with state := .accept }
        { t with fab := { t.fab with acceptOrder := t.fab.acceptOrder ++ [c] } }
    s1.setSlot k { s1.keySlot k with state := .current }

/-- RETIRE: an ACCEPT slot becomes EMPTY, its key zeroised. -/
def State.retireKey (s : State) (k : BitVec 4) : State :=
  if (s.keySlot k).state ≠ .accept then s
  else
    let s1 := s.setSlot k ⟨.empty, 0⟩
    { s1 with fab := { s1.fab with acceptOrder := s1.fab.acceptOrder.filter (· != k) } }

/-- A package takes keys from the lead once it has its identifier (03_routes.md R83). -/
def State.takesKeys (s : State) : Bool := s.fab.pkgId != 0 && s.fab.lead != s.fab.myId

/-- Kinds of messages between Wellheads: INSTALL 1, ACTIVATE 2, RETIRE 3, acknowledgement 4, wrap notice 5, question to a leaf 6. -/
def State.tell (s : State) (dst : DevId) (kind a b : Nat) : State := s.emit (.wellheadMsg dst kind a b)

/-- KEY_INSTALL: an EMPTY slot takes the key and the INSTALL is acknowledged. A slot that holds this very key already acknowledges it again
(DESIGN CHOICE, log entry 93); one that holds another key has no event for it (03_routes.md R71). -/
def execKeyInstall (k : BitVec 4) (key : BitVec 256) (s : State) : Host.Outcome State Fault Refusal :=
  .next (if s.takesKeys && ((s.keySlot k).state == .empty || (s.keySlot k).key == key) then (s.installKey k key).tell s.fab.lead 4 k.toNat 0 else s)

/-- KEY_ACTIVATE (03_routes.md R71). -/
def execKeyActivate (k : BitVec 4) (s : State) : Host.Outcome State Fault Refusal := .next (if s.takesKeys then s.activateKey k else s)

/-- KEY_RETIRE (03_routes.md R71). -/
def execKeyRetire (k : BitVec 4) (s : State) : Host.Outcome State Fault Refusal := .next (if s.takesKeys then s.retireKey k else s)

/-- The devices that a map connects, with this one. -/
def State.members (s : State) : List DevId := ((s.fab.map.flatMap fun l => [l.src, l.dst]) ++ [s.fab.myId]).dedup

/-- The other members of the domain: those of the table that the map connects. -/
def State.others (s : State) : List DevId := (s.fab.table.map Prod.fst).filter fun d => d != s.fab.myId && s.members.contains d

/-- Tell every other member. -/
def State.tellAll (s : State) (kind a b : Nat) : State := s.others.foldl (fun s d => s.tell d kind a b) s

/-- A slot in a given state, the lowest. -/
def State.slotIn (s : State) (st : SlotState) : Option (BitVec 4) :=
  ((List.finRange 16).find? fun i => (s.fab.slots.get i).state == st).map fun i => BitVec.ofNat 4 i.val

/-- The lead activates a slot everywhere once every member has acknowledged its INSTALL. -/
def State.activateAll (s : State) (k : BitVec 4) : State :=
  if s.fab.installWait.any (·.1 == k) then s else (s.activateKey k).tellAll 2 k.toNat 0

/-- INSTALL of a slot goes to a member, whose acknowledgement is awaited. -/
def State.sendKey (d : DevId) (s : State) (k : BitVec 4) : State :=
  let s1 := s.tell d 1 k.toNat (s.keySlot k).key.toNat
  if s1.fab.installWait.contains (k, d) then s1 else { s1 with fab := { s1.fab with installWait := s1.fab.installWait ++ [(k, d)] } }

/-- The slots whose keys are in force, in the order in which they came into use: ACCEPT, CURRENT, PENDING. -/
def State.liveSlots (s : State) : List (BitVec 4) :=
  s.fab.acceptOrder ++ (s.slotIn .current).toList ++ ((List.finRange 16).filter fun i => (s.fab.slots.get i).state == .pending).map fun i => BitVec.ofNat 4 i.val

/-- A member that has just come gets every key in force, so that it holds the same key in each slot (03_routes.md R71). -/
def State.sendKeys (s : State) (d : DevId) : State := s.liveSlots.foldl (State.sendKey d) s

/-- The lead draws a key and installs it everywhere; with no EMPTY slot it retires the oldest ACCEPT slot first. -/
def State.rotateNow (s : State) : State :=
  let s1 : State := match s.slotIn .empty with
    | some _ => s
    | none => match s.fab.acceptOrder with
      | [] => s
      | o :: _ => (s.retireKey o).tellAll 3 o.toNat 0
  match s1.slotIn .empty with
  | none => s1
  | some k =>
    let (n, s2) := s1.draw
    (s2.others.foldl (fun (s : State) d => s.sendKey d k) (s2.installKey k (Config.routeKey n))).activateAll k

/-- The lead rotates the keys. While a slot is PENDING a rotation is under way. -/
def State.rotateKeys (s : State) : State :=
  if s.fab.lead ≠ s.fab.myId || (s.slotIn .pending).isSome then s else s.rotateNow

/-- KEY_ROTATION (03_routes.md R72). -/
def execKeyRotation (s : State) : Host.Outcome State Fault Refusal := .next s.rotateKeys

/-- INSTALL_ACK (03_routes.md R72). -/
def execInstallAck (src : DevId) (k : BitVec 4) (s : State) : Host.Outcome State Fault Refusal :=
  .next (if s.fab.installWait.contains (k, src) then
    ({ s with fab := { s.fab with installWait := s.fab.installWait.filter (· != (k, src)) } } : State).activateAll k
  else s)

/-- WRAP_NOTICE: a counter that has wrapped notifies the lead, which rotates the keys (03_routes.md R77). -/
def execWrapNotice (ctr : CounterRef) (s : State) : Host.Outcome State Fault Refusal :=
  .next (if !s.fab.wraps.contains ctr then s
    else
      let s1 : State := { s with fab := { s.fab with wraps := s.fab.wraps.filter (· != ctr) } }
      if s.fab.lead ≠ s.fab.myId then s1.tell s.fab.lead 5 0 0
      else if (s.slotIn .pending).isSome then s
      else s1.rotateKeys)

/-! ## Domains (03_routes.md R81, R83) -/

/-- The identifier of a device; 0 when it has none. -/
def idOf (t : List (DevId × BitVec 16)) (d : DevId) : BitVec 16 := ((t.find? (·.1 == d)).map Prod.snd).getD 0

/-- The lowest of a list of devices. -/
def lowestDev (l : List DevId) (d : DevId) : DevId := l.foldl (fun a b => if b < a then b else a) d

/-- The lowest identifier from `n` on that no row holds. -/
def freeId (t : List (DevId × BitVec 16)) : Nat → BitVec 16 → BitVec 16
  | 0, n => n
  | k + 1, n => if t.any (·.2 == n) then freeId t k (n + 1) else n

/-- Insert a device into a rising list. -/
def devIns (d : DevId) : List DevId → List DevId
  | [] => [d]
  | e :: r => if d < e then d :: e :: r else e :: devIns d r

/-- Rows for the devices that have none, in ascending order, up to 1,024 rows. -/
def assignIds (t : List (DevId × BitVec 16)) : List DevId → List (DevId × BitVec 16)
  | [] => t
  | d :: r => if t.any (·.1 == d) || 1024 ≤ t.length then assignIds t r else assignIds (t ++ [(d, freeId t (t.length + 1) 1)]) r

/-- The lead assigns identifiers and distributes the map and the table. A package alone forms no domain. -/
def State.formDomain (s : State) : State :=
  if s.fab.lead ≠ s.fab.myId || s.members.length < 2 then s
  else
    let t := assignIds s.fab.table (s.members.foldr devIns [])
    let s1 := (({ s with fab := { s.fab with table := t, pkgId := idOf t s.fab.myId } } : State).emit (.identityTable t)).emit (.linkMap s.fab.map)
    (s1.others.filter fun d => !s.fab.table.any (·.1 == d)).foldl State.sendKeys s1

/-- The links of this package: for each port and peer entry that is UP, the peer and its end of the link (03_routes.md R81). -/
def State.ownMap (s : State) : List MapLink :=
  let row (k : Link) (hop : Nat) (second : Option Nat) : List MapLink :=
    match k.state, k.peer with
    | .up, some d => [⟨s.fab.myId, hop, second, d, k.far.1, k.far.2⟩]
    | _, _ => []
  ((List.finRange 16).flatMap fun i => row (s.fab.ports.get i) i.val none) ++
    s.fab.peers.flatMap fun p => row p.link (16 + p.eth.toNat) (some p.idx.toNat)

/-- LINK_MAP: the links that a Wellhead reports join the map, and are forwarded. A package of no domain follows the lowest device of those
connected; a domain keeps its lead until it departs or the domain merges (DESIGN CHOICE, log entry 93). The lead gives identifiers to those that
came, and the keys in force to one that reports no identifier. -/
def State.takeMap (s : State) (src : DevId) (pkg : BitVec 16) (m : List MapLink) : State :=
  let s1 := ({ s with fab := { s.fab with map := (s.fab.map.filter fun l => l.src != src) ++ m.filter fun l => l.src == src } } : State).emit (.announce src pkg m)
  let s2 : State := if s.fab.pkgId = 0 then { s1 with fab := { s1.fab with lead := lowestDev s1.members s.fab.myId } } else s1
  if s2.fab.lead ≠ s.fab.myId then s2
  else
    let s3 := s2.formDomain
    if pkg = 0 && src != s.fab.myId && s.fab.table.any (·.1 == src) then s3.sendKeys src else s3

/-- LINK_MAP (03_routes.md R81, R83). -/
def execLinkMap (src : DevId) (m : MapReport) (s : State) : Host.Outcome State Fault Refusal := .next (s.takeMap src m.pkg m.links)

/-- A link or peer entry has reached UP: this package's identity and link map go out over every link, and join its own map (03_routes.md R83). -/
def State.reportMap (s : State) : State := s.takeMap s.fab.myId s.fab.pkgId s.ownMap

/-- Every key slot is retired and the identifier is 0. -/
def State.dissolve (s : State) : State :=
  { s with fab := { s.fab with
      slots := Vector.replicate 16 ⟨.empty, 0⟩, acceptOrder := [], installWait := [], pkgId := 0, table := [] } }

/-- ID_ASSIGN: the lead's table. A package that follows another lead from now on holds no key of its own any more. A lead with a higher identity than
the present one is not followed: its domain dissolves (03_routes.md R71, R83). -/
def execIdAssign (lead : DevId) (table : List (DevId × BitVec 16)) (s : State) : Host.Outcome State Fault Refusal :=
  .next (if s.fab.lead < lead then s
    else
      let s1 := if s.fab.pkgId = 0 || lead < s.fab.lead then s.dissolve else s
      { s1 with fab := { s1.fab with lead := lead, table := table, pkgId := idOf table s.fab.myId } })

/-- LEAD_DEPART: the remaining package with the lowest device identity leads and keeps the table; as lead it rotates the keys at once, and sees the
rotation of the one before it through. -/
def State.leadDepart (s : State) (lead : DevId) : State :=
  if s.fab.lead ≠ lead || lead = s.fab.myId then s
  else
    let s1 : State := { s with fab := { s.fab with
        map := s.fab.map.filter fun l => l.src != lead && l.dst != lead, installWait := s.fab.installWait.filter (·.2 != lead) } }
    let next := lowestDev s1.members s.fab.myId
    let s2 : State := { s1 with fab := { s1.fab with lead := next } }
    if next = s.fab.myId then
      (match s2.slotIn .pending with
        | none => s2
        | some k => (s2.others.foldl (fun (s : State) d => s.sendKey d k) s2).activateAll k).rotateNow
    else s2

/-- LEAD_DEPART (03_routes.md R83). -/
def execLeadDepart (lead : DevId) (s : State) : Host.Outcome State Fault Refusal := .next (s.leadDepart lead)

/-- DOMAIN_MERGE: a link joins this domain to that of another lead; the domain whose lead has the higher identity dissolves (03_routes.md R83). -/
def execDomainMerge (otherLead : DevId) (s : State) : Host.Outcome State Fault Refusal :=
  .next (if otherLead < s.fab.lead then { s.dissolve with fab := { s.dissolve.fab with lead := otherLead } } else s)

/-! ## Paths (03_routes.md R80, R81) -/

/-- Hop-list values of a link. -/
def MapLink.hops (l : MapLink) : List Nat := l.hop :: l.peer.toList

/-- Two map links are the two directions of one link, or the same. -/
def sameLink (a b : MapLink) : Bool :=
  (a.src == b.src && a.hop == b.hop && a.peer == b.peer) || (a.src == b.dst && a.hop == b.rhop && a.peer == b.rpeer)

/-- Paths without loops from a device to another, of at most `n` links. -/
def loopFree (m : List MapLink) (dst : DevId) : Nat → DevId → List DevId → List (List MapLink)
  | 0, d, _ => if d = dst then [[]] else []
  | n + 1, d, seen =>
    if d = dst then [[]]
    else (m.filter fun l => l.src == d && !(d :: seen).contains l.dst).flatMap fun l => (loopFree m dst n l.dst (d :: seen)).map (l :: ·)

/-- Hop-list values of a path. -/
def pathHops (p : List MapLink) : List Nat := p.flatMap MapLink.hops

/-- Lexicographic order of hop lists of one length. -/
def hopsBefore : List Nat → List Nat → Bool
  | [], _ => true
  | _ :: _, [] => false
  | a :: r, b :: t => decide (a < b) || (a == b && hopsBefore r t)

/-- Shorter paths first, then by hop-list values. -/
def pathBefore (a b : List MapLink) : Bool :=
  decide ((pathHops a).length < (pathHops b).length) || ((pathHops a).length == (pathHops b).length && hopsBefore (pathHops a) (pathHops b))

/-- Insert a path in order. -/
def pathIns (p : List MapLink) : List (List MapLink) → List (List MapLink)
  | [] => [p]
  | q :: r => if pathBefore p q then p :: q :: r else q :: pathIns p r

/-- Take paths that share no link with those taken, four at most. -/
def takeDisjoint : List (List MapLink) → List (List MapLink) → List (List MapLink)
  | [], taken => taken
  | p :: r, taken =>
    if 4 ≤ taken.length then taken
    else if taken.any fun q => q.any fun a => p.any fun b => sameLink a b then takeDisjoint r taken
    else takeDisjoint r (taken ++ [p])

/-- The hop list of path number `sel` from a package to this one; none where there is no such path of at most 10 slots. -/
def State.pathFrom (s : State) (srcPkg : BitVec 16) (sel : Nat) (eth : Bool) : Option (List Nat) :=
  if srcPkg = s.fab.pkgId then (if sel = 0 then some [] else none)
  else if s.fab.pkgId = 0 || srcPkg = 0 then none
  else match s.fab.table.find? (·.2 == srcPkg) with
    | none => none
    | some row =>
      let m := s.fab.map.filter fun l => eth || l.peer.isNone
      let ps := takeDisjoint ((loopFree m s.fab.myId 10 row.1 []).foldr pathIns []) []
      (ps[sel]?).bind fun p => if 10 < (pathHops p).length then none else some (pathHops p)

/-- Word 0 of a unicast route with a hop list. -/
def hopWord (l : List Nat) : Word := BitVec.ofNat 64 (l.length + 16 * l.foldr (fun h a => h + 32 * a) 0)

/-! ## Service requests (03_routes.md R79, R80) -/

/-- The 64 bytes of a service request as a number. -/
abbrev SvcReq := Nat

/-- SOP. -/
def svcSop (q : SvcReq) : Nat := recField q 0 1

/-- The requested rights. -/
def svcRights (q : SvcReq) : Nat := recField q 2 1 % 16

/-- DLG. -/
def svcDlg (q : SvcReq) : Nat := recField q 2 1 / 16 % 2

/-- PATHSEL. -/
def svcPath (q : SvcReq) : Nat := recField q 2 1 / 32 % 4

/-- ETH. -/
def svcEth (q : SvcReq) : Bool := decide (recField q 2 1 / 128 = 1)

/-- The requested window: words 1 and 2 of a route. -/
def svcWindow (q : SvcReq) : RouteVal := ⟨0, BitVec.ofNat 64 (recField q 8 8), BitVec.ofNat 64 (recField q 16 4), 0⟩

/-- A reserved field is nonzero. -/
def svcReserved (q : SvcReq) : Bool :=
  let sop := svcSop q
  decide (8 ≤ recField q 1 1) || decide (16 ≤ recField q 3 1) || decide (recField q 6 2 ≠ 0) || decide (recField q 20 4 ≠ 0) ||
    decide (recField q 40 24 ≠ 0) || (sop != 2 && decide (recField q 24 8 ≠ 0)) || (sop != 2 && sop != 4 && decide (recField q 32 8 ≠ 0)) ||
    !(decide (1 ≤ sop) && decide (sop ≤ 5))

/-- The endpoint that an enclave owns and a window lies in: its counter and its generation. -/
inductive Owned
  | launch (core : Nat) (l : Launch) (eg : BitVec 16)
  | hbm (e : HbmEp)

/-- Every byte of a window lies in one stack. -/
def windowInStack (stack base len : Nat) : Bool :=
  decide (base + len ≤ paLimit) && decide ((stackOf base).1 = stack) &&
    (if base < 0x4000000000 then decide (base + len ≤ 0x4000000000) && decide (base / 2 ^ 35 = (base + len - 1) / 2 ^ 35)
     else decide (base / 2 ^ 12 = (base + len - 1) / 2 ^ 12))

/-- Ownership (03_routes.md R80 step 1). -/
def State.owned (s : State) (encl : Byte) (r : RouteVal) : Option Owned :=
  let core := r.tunit
  match r.tkind with
  | 1 => (s.fab.hbmEps.find? fun e => decide (e.stack.toNat = r.tunit / 128 % 8) && decide (e.key.toNat = r.tunit % 64) &&
      s.holdsEp e encl).bind fun e =>
      if windowInStack (r.tunit / 128 % 8) r.base r.len then some (.hbm e) else none
  | 3 => none
  | 2 =>
    let lo := r.base % 8
    let hi := lo + r.len / 16
    (match s.hst.launches.filter fun l => l.encl == encl && l.cores.contains core && decide (l.firstSlot.toNat < hi) &&
        decide (lo < l.firstSlot.toNat + l.allot) with
      | [l] => if l.firstSlot.toNat ≤ lo && hi ≤ l.firstSlot.toNat + l.allot then (l.eg? core).map (.launch core l) else none
      | _ => none)
  | _ => (s.reservationAt core r.base).bind fun l =>
      if l.encl = encl && r.base + r.len ≤ l.rbase + shapeSpres l.words then (l.eg? core).map (.launch core l) else none

/-- The counter of an owned endpoint. -/
def State.counterOf (s : State) (o : Owned) : EpCounter :=
  match o with
  | .launch core _ _ => (s.core core).ctr
  | .hbm e => s.fab.stackCtr.get ⟨e.stack.toNat, e.stack.isLt⟩

/-- Generation of an owned endpoint. -/
def Owned.gen (o : Owned) : BitVec 16 :=
  match o with
  | .launch _ _ eg => eg
  | .hbm e => e.eg

/-- The answer to a service request: SVCSTAT and the route field. -/
def svcAnswer (stat route : Nat) : Answer := ⟨0x20, 0, bytesOf (stat + 2 ^ 128 * route) 48⟩

/-- Word 2 of a minted route without its key slot. -/
def mintWord2 (q : SvcReq) (rights dlg : Nat) (eg : BitVec 16) : Word :=
  BitVec.ofNat 64 (recField q 16 4 + rights * 2 ^ 32 + eg.toNat * 2 ^ 36 + recField q 3 1 * 2 ^ 56 + dlg * 2 ^ 60)

/-- The Wellhead's endpoint check of a service request (03_routes.md R74, R89). -/
def State.wellCheck (s : State) (p : Packet) : Option Nat :=
  match s.arrivalCheck p with
  | some st => some st
  | none => if genOk s.fab.wellCtr s.fab.wellEg p.route then none else some stRevoked

/-- The k-th packet, a service request with one of these SOPs, is answered; `f` gives the state and the answer. -/
def State.service (s : State) (k : Nat) (sop : Nat → Bool) (f : State → NetItem → SvcReq → State × Option Answer) : State :=
  match s.fab.net[k]? with
  | none => s
  | some i =>
    let q := dataNat i.pkt.data
    if i.pos != .arrived || i.reply || i.pkt.op ≠ 0x10 || !sop (svcSop q) then s
    else match s.wellCheck i.pkt with
      | some st => s.answer k i (some (.error st))
      | none =>
        if i.pkt.data.length ≠ 64 || svcReserved q then s.answer k i (some (svcAnswer 3 0))
        else let r := f s i q; r.1.answer k i r.2

/-- MINT (03_routes.md R80). -/
def State.mint (s : State) (i : NetItem) (q : SvcReq) : State × Option Answer :=
  let w := svcWindow q
  if w.targetBad || (svcEth q && (svcRights q % 2 = 1 || w.tkind = 3 || w.tkind = 4)) then (s, some (svcAnswer 3 0))
  else match s.owned i.encl w with
    | none => (s, some (svcAnswer 1 0))
    | some o => match s.pathFrom (BitVec.ofNat 16 (recField q 4 2)) (svcPath q) (svcEth q) with
      | none => (s, some (svcAnswer 2 0))
      | some hops => match s.currentSlot with
        | none => (s, some (svcAnswer 5 0))
        | some c =>
          if !(s.counterOf o).l.getLsbD c.val then (s, some (svcAnswer 5 0))
          else
            let r : RouteVal := ⟨hopWord hops, w.w1, mintWord2 q (svcRights q) (svcDlg q) o.gen, 0⟩
            (s, some (svcAnswer 0 (s.sealUnder c r).toNat))

/-- MINT; it also answers a reserved SOP with BADREQ (03_routes.md R79, R80). -/
def execMint (k : Nat) (s : State) : Host.Outcome State Fault Refusal :=
  .next (s.service k (fun p => !(decide (2 ≤ p) && decide (p ≤ 5))) State.mint)

/-- A stack controller's endpoint is revoked (03_routes.md R75). -/
def State.revokeHbm (s : State) (e : HbmEp) : BitVec 16 × State :=
  let i : Fin 8 := ⟨e.stack.toNat, e.stack.isLt⟩
  let (g, ctr, w) := s.issueGen (s.fab.stackCtr.get i)
  let up (x : HbmEp) : HbmEp := if x.stack == e.stack && x.key == e.key then { x with eg := g } else x
  (g, ({ s with fab := { s.fab with stackCtr := s.fab.stackCtr.set i ctr, hbmEps := s.fab.hbmEps.map up } } : State).noteWrap (.stack e.stack) w)

/-- REVOKE (03_routes.md R80). -/
def State.svcRevoke (s : State) (i : NetItem) (q : SvcReq) : State × Option Answer :=
  let w := svcWindow q
  if w.targetBad then (s, some (svcAnswer 3 0))
  else match s.owned i.encl w with
    | none => (s, some (svcAnswer 1 0))
    | some (.launch core l _) =>
      let (g, s1) := s.revokeCore core l.id
      (s1.revoking ⟨.core core, g, none⟩, some (svcAnswer 0 0))
    | some (.hbm e) =>
      let (g, s1) := s.revokeHbm e
      (s1.revoking ⟨.stack e.stack, g, none⟩, some (svcAnswer 0 0))

/-- REVOKE (03_routes.md R80). -/
def execRevoke (k : Nat) (s : State) : Host.Outcome State Fault Refusal := .next (s.service k (· == 3) State.svcRevoke)

/-- OPENM: the requester's reservation is open to a group key (03_routes.md R84). -/
def State.svcOpen (s : State) (i : NetItem) (q : SvcReq) : State × Option Answer :=
  let w := svcWindow q
  if w.targetBad then (s, some (svcAnswer 3 0))
  else if w.tkind ≠ 0 then (s, some (svcAnswer 1 0))
  else match s.owned i.encl w with
    | some (.launch core l _) =>
      let o := (core, l.id, BitVec.ofNat 64 (recField q 32 8))
      (if s.fab.opens.contains o then s else { s with fab := { s.fab with opens := o :: s.fab.opens } }, some (svcAnswer 0 0))
    | _ => (s, some (svcAnswer 1 0))

/-- OPENM (03_routes.md R84). -/
def execOpenm (k : Nat) (s : State) : Host.Outcome State Fault Refusal := .next (s.service k (· == 4) State.svcOpen)

/-- QUERY: the package identifier and the CURRENT slot (03_routes.md R80). -/
def State.svcQuery (s : State) (_i : NetItem) (_q : SvcReq) : State × Option Answer :=
  match s.currentSlot with
  | none => (s, some (svcAnswer 5 0))
  | some c => (s, some (svcAnswer 0 (s.fab.pkgId.toNat + 2 ^ 16 * c.val)))

/-- QUERY (03_routes.md R80). -/
def execQuery (k : Nat) (s : State) : Host.Outcome State Fault Refusal := .next (s.service k (· == 5) State.svcQuery)

/-! ## Multicast routes (03_routes.md R84) -/

/-- The package behind a port. -/
def State.behind (s : State) (d : Option DevId) (port : Nat) : Option DevId :=
  d.bind fun d => (s.fab.map.find? fun l => l.src == d && l.hop == port && l.peer.isNone).map (·.dst)

/-- Follow prefix hops. -/
def State.prefixEnd (s : State) (r : RouteVal) : Nat → Nat → Option DevId → Option DevId
  | 0, _, d => d
  | n + 1, i, d => if r.hc ≤ i then d else s.prefixEnd r n (i + 1) (s.behind d (r.hop i))

/-- The packages of the leaves of a shape, in leaf order. -/
def State.leafPackages (s : State) (r : RouteVal) : List (Option DevId) :=
  let d := s.prefixEnd r 3 0 (some s.fab.myId)
  (ports r.m1).flatMap fun p =>
    let e := s.behind d p
    if r.m2 = 0 then [e] else (ports r.m2).map fun q => s.behind e q

/-- The shape of a request as a route. -/
def svcShape (q : SvcReq) : RouteVal :=
  { svcWindow q with w0 := BitVec.ofNat 64 (recField q 24 8), w2 := mintWord2 q 2 0 0 }

/-- Ask the Wellheads of the leaves; a leaf that the topology does not reach does not confirm. -/
def State.askLeaves (s : State) (q : SvcReq) : List (Option DevId) → Nat → State × List (Nat × Bool × BitVec 16)
  | [], _ => (s, [])
  | none :: r, n => let (s1, a) := s.askLeaves q r (n + 1); (s1, (n, false, 0) :: a)
  | some d :: r, n => (s.tell d 6 (recField q 32 8) (recField q 8 8)).askLeaves q r (n + 1)

/-- Every leaf has answered: the route is minted, or GENDIFF. -/
def State.endMintm (s : State) (m : PendingMintm) : Answer :=
  let q := dataNat m.item.pkt.data
  match m.answers with
  | [] => svcAnswer 4 0
  | (_, _, eg) :: _ =>
    if m.answers.any fun a => !a.2.1 || a.2.2 != eg then svcAnswer 4 0
    else match s.currentSlot with
      | none => svcAnswer 5 0
      | some c => svcAnswer 0 (s.sealUnder c { svcShape q with w2 := mintWord2 q 2 0 eg }).toNat

/-- The answer to a request that was taken from the network before goes back. -/
def State.answerLater (s : State) (i : NetItem) (a : Answer) : State :=
  s.putNet (i.pkt.reply a.op a.status i.pkt.route.hc a.data) true i.dst i.src i.home i.encl

/-- Keep a multicast mint that still waits for leaves, or answer it. -/
def State.putMintm (s : State) (m : PendingMintm) : State :=
  if m.answers.length < m.leaves then { s with fab := { s.fab with mintms := s.fab.mintms ++ [m] } } else s.answerLater m.item (s.endMintm m)

/-- MINTM: the leaves are asked, and the request waits for their answers. -/
def State.svcMintm (s : State) (i : NetItem) (q : SvcReq) : State × Option Answer :=
  let r := svcShape q
  if (svcWindow q).targetBad || r.kind ≠ 1 || r.malformed then (s, some (svcAnswer 3 0))
  else if r.tkind ≠ 0 then (s, some (svcAnswer 1 0))
  else if s.currentSlot.isNone then (s, some (svcAnswer 5 0))
  else
    let leaves := s.leafPackages r
    let (s1, a) := s.askLeaves q leaves 0
    (s1.putMintm ⟨i, leaves.length, a⟩, none)

/-- MINTM (03_routes.md R84). -/
def execMintm (k : Nat) (s : State) : Host.Outcome State Fault Refusal := .next (s.service k (· == 2) State.svcMintm)

/-- LEAF_CONFIRM: whether the reservation at a place is open to a group key, and its generation (03_routes.md R84). -/
def execLeafConfirm (asker : DevId) (gkey : Word) (tunit : BitVec 12) (base : BitVec 48) (s : State) : Host.Outcome State Fault Refusal :=
  .next (match s.reservationAt tunit.toNat base.toNat with
    | none => s.emit (.leafAnswer asker false 0)
    | some l => s.emit (.leafAnswer asker (s.fab.opens.contains (tunit.toNat, l.id, gkey)) ((l.eg? tunit.toNat).getD 0)))

/-- LEAF_CONFIRMATION_RECEIVED: the answer of a leaf for the k-th multicast mint (03_routes.md R84). -/
def State.leafAnswered (s : State) (k leaf : Nat) (isOpen : Bool) (eg : BitVec 16) : State :=
  match s.fab.mintms[k]? with
  | none => s
  | some m =>
    if m.leaves ≤ leaf || m.answers.any (·.1 == leaf) then s
    else ({ s with fab := { s.fab with mintms := s.fab.mintms.eraseIdx k } } : State).putMintm { m with answers := (leaf, isOpen, eg) :: m.answers }

/-- LEAF_CONFIRMATION_RECEIVED (03_routes.md R84). -/
def execLeafConfirmationReceived (k leaf : Nat) (isOpen : Bool) (eg : BitVec 16) (s : State) : Host.Outcome State Fault Refusal :=
  .next (s.leafAnswered k leaf isOpen eg)

end Sys2Proof.Machine
end

