-- ==== Sys2Proof/Machine/Links.lean ====
section
/-! DEFINITION. Fabric links and Ethernet peers: states, frames, acknowledgement, replay, key updates
(02_fabric.md R35 to R41, R61, R62, R64; 03_routes.md R82). -/

set_option Elab.async false

namespace Sys2Proof.Machine

/-! ## Link states (02_fabric.md R35) -/

/-- Change one port. -/
def State.onPort (s : State) (p : BitVec 4) (f : Link → Link) : State := s.setLink (.port p) (f (s.link (.port p)))

/-- Training starts when the port is enabled, DOWN, and has signal on all 8 lanes. -/
def Link.detect (k : Link) (signal : Bool) : Link := if k.enabled && k.state == .down && signal then { k with state := .train } else k

/-- The Wellhead may enable a fabric port: after READY, and with its port enable of the signed image set (01_package.md R19, R25). -/
def State.portEnabled (s : State) (p : Nat) : Bool :=
  s.pkg.bootstat.getLsbD 0 && (match s.pkg.image with
    | none => false
    | some g => g.ports.getLsbD p)

/-- LINK_ENABLE (02_fabric.md R35). -/
def execLinkEnable (p : BitVec 4) (signal : Bool) (s : State) : Host.Outcome State Fault Refusal :=
  .next (if s.portEnabled p.toNat then s.onPort p fun k => ({ k with enabled := true } : Link).detect signal else s)

/-- SIGNAL_DETECT (02_fabric.md R35). -/
def execSignalDetect (p : BitVec 4) (s : State) : Host.Outcome State Fault Refusal := .next (s.onPort p fun k => k.detect true)

/-- LINK_TRAINED (02_fabric.md R35). -/
def execLinkTrained (p : BitVec 4) (s : State) : Host.Outcome State Fault Refusal :=
  .next (s.onPort p fun k => if k.state = .train then { k with state := .auth } else k)

/-- TRAIN_TIMEOUT (02_fabric.md R35). -/
def execTrainTimeout (p : BitVec 4) (s : State) : Host.Outcome State Fault Refusal :=
  .next (s.onPort p fun k => if k.state = .train then { k with state := .down, retryDue := true } else k)

/-- TRAIN_RETRY (02_fabric.md R35). -/
def execTrainRetry (p : BitVec 4) (signal : Bool) (s : State) : Host.Outcome State Fault Refusal :=
  .next (s.onPort p fun k => if k.retryDue then ({ k with retryDue := false } : Link).detect signal else k)

/-- An attempt to authenticate fails: the third in a row leads to FAILED. -/
def Link.authFailed (k : Link) : Link :=
  if k.state ≠ .auth then k
  else if 3 ≤ k.attempts + 1 then { k with attempts := k.attempts + 1, state := .failed }
  else { k with attempts := k.attempts + 1, state := .down }

/-- AUTH_FAIL (02_fabric.md R35). -/
def execAuthFail (l : LinkRef) (s : State) : Host.Outcome State Fault Refusal := .next (s.setLink l (s.link l).authFailed)

/-- AUTH_TIMEOUT (02_fabric.md R35). -/
def execAuthTimeout (l : LinkRef) (s : State) : Host.Outcome State Fault Refusal := .next (s.setLink l (s.link l).authFailed)

/-- Session `n` is established: the link is UP with fresh keys and counters. SLOTOK clears when another peer than the last one is met
(03_routes.md R82). -/
def Link.established (k : Link) (peerId : DevId) (a : PeerAuth) (n : Nat) : Link :=
  { Link.reset with
    state := .up, sid := n, enabled := k.enabled, peer := some peerId, far := (a.hop, a.second)
    slotok := match k.peer with
      | none => k.slotok
      | some q => if q = peerId then k.slotok else 0 }

/-- A Wellhead accepts its peer: another device, whose certificate chains to Horvin's root, which proves possession of its key, and whose firmware
version and monitor the local signed image accepts (02_fabric.md R32, R34). -/
def State.acceptsPeer (s : State) (peerId : DevId) (a : PeerAuth) : Bool :=
  peerId != s.fab.myId && a.chainOk && a.keyOk && (match s.pkg.image with
    | none => false
    | some g => decide (g.minPeerVer ≤ a.secver) && g.peerDigests.contains a.monitor)

/-- AUTH_ESTABLISHED: mutual authentication, in which the package with the lower identity is the requester and each side presents its certificate. An
accepted peer makes the link UP, and this package reports itself over its links (02_fabric.md R33 to R35; 03_routes.md R83). -/
def execAuthEstablished (l : LinkRef) (peerId : DevId) (a : PeerAuth) (s : State) : Host.Outcome State Fault Refusal :=
  let k := s.link l
  .next (if k.state ≠ .auth then s
    else
      let (n, s1) := (s.emit (.linkAuth l (decide (s.fab.myId < peerId)) s.pkg.cert)).draw
      if s.acceptsPeer peerId a then (s1.setLink l (k.established peerId a n)).reportMap else s1.setLink l k.authFailed)

/-- LINK_SIGNAL_LOSS (02_fabric.md R35). -/
def execLinkSignalLoss (p : BitVec 4) (s : State) : Host.Outcome State Fault Refusal :=
  .next (if (s.link (.port p)).state = .up then s.linkDown (.port p) .down else s)

/-- LINK_HEARTBEAT_TIMEOUT (02_fabric.md R35). -/
def execLinkHeartbeatTimeout (l : LinkRef) (s : State) : Host.Outcome State Fault Refusal :=
  .next (if (s.link l).state = .up then s.linkDown l .down else s)

/-- LINK_HEARTBEAT_SEND: the heartbeat goes out in the next control frame (02_fabric.md R35, R36). -/
def execLinkHeartbeatSend (l : LinkRef) (s : State) : Host.Outcome State Fault Refusal :=
  .next (if (s.link l).state = .up then (s.setLink l { s.link l with beatDue := true }).emit (.spdmHeartbeat l) else s)

/-- LINK_KEY_UPDATE: the next frame is the last under the old key, unless an earlier key is still in use (02_fabric.md R37). -/
def execLinkKeyUpdate (l : LinkRef) (s : State) : Host.Outcome State Fault Refusal :=
  .next (if (s.link l).state = .up && !(s.link l).txOld then s.setLink l { s.link l with txLast := true } else s)

/-- LINK_DISABLE (02_fabric.md R35). -/
def execLinkDisable (l : LinkRef) (s : State) : Host.Outcome State Fault Refusal :=
  let s1 := s.linkDown l .down
  .next (s1.setLink l { s1.link l with enabled := false })

/-- LINK_REENABLE (02_fabric.md R35). -/
def execLinkReenable (l : LinkRef) (s : State) : Host.Outcome State Fault Refusal :=
  .next (if (s.link l).state = .failed then s.setLink l { s.link l with state := .down, attempts := 0 } else s)

/-! ## Frames (02_fabric.md R37 to R39) -/

/-- The egress queues with the class that the weighted round robin serves and what it may still send in this round (02_fabric.md R55). -/
structure Round where
  cls : Nat
  left : Nat
  queue : List (BitVec 4 × Packet)
deriving DecidableEq, Repr

/-- The class served next: the one in service while it may send and has packets, else the next one with packets, with a new weight. -/
def Round.next (w : Nat → Nat) (q : Round) : Option (Nat × Nat) :=
  if q.left ≠ 0 && q.queue.any fun e => decide (e.1.toNat = q.cls) then some (q.cls, q.left)
  else (((List.range 16).map fun i => (q.cls + 1 + i) % 16).find? fun c => q.queue.any fun e => decide (e.1.toNat = c)).map fun c => (c, max 1 (w c))

/-- Take the oldest packet of the class served next. -/
def Round.take (w : Nat → Nat) (q : Round) : Option (Packet × Round) :=
  (q.next w).bind fun n => (q.queue.findIdx? fun e => decide (e.1.toNat = n.1)).bind fun i =>
    q.queue[i]?.map fun e => (e.2, ⟨n.1, n.2 - 1, q.queue.eraseIdx i⟩)

/-- Fill a frame: whole packets back to back, as the round robin serves them; the beats, where the first packet begins, and the queues. -/
def fillFrame (w : Nat → Nat) : Nat → List (BitVec 128) → Nat → Round → List (BitVec 128) × Nat × Round
  | 0, b, f, q => (b, f, q)
  | n + 1, b, f, q =>
    if 29 ≤ b.length then (b, f, q)
    else match q.take w with
      | none => (b, f, q)
      | some (p, r) => fillFrame w n (b ++ packetBeats p) (if f = 0xFF then b.length else f) r

/-- Size of a link's replay buffer (02_fabric.md R39, R64). -/
def replaySize (l : LinkRef) : Nat :=
  match l with
  | .port _ => 128
  | .peer _ _ => 512

/-- A frame with the sender's current sequence number, acknowledgement and credit. The acknowledgement before any frame was verified names
no frame. -/
def Link.frame (k : Link) (ctrl : Bool) (foff : Nat) (beats : List (BitVec 128)) : Frame :=
  let ack := k.rxLast.getD (k.rxPh, 2 ^ 64 - 1)
  { fseq := BitVec.ofNat 64 k.txSeq, ackseq := BitVec.ofNat 64 ack.2, credit := k.freed, kph := k.txPh, ctrl := ctrl, nak := k.nak,
    idle := beats.isEmpty, akph := ack.1, lastk := k.txLast, foff := BitVec.ofNat 8 foff, beats := beats, spdm := ctrl }

/-- The frame header (02_fabric.md R38). -/
def frameHeader (f : Frame) : List Byte :=
  bytesOf f.fseq.toNat 8 ++ bytesOf f.ackseq.toNat 8 ++ bytesOf f.credit.toNat 2 ++
    [BitVec.ofNat 8 ((if f.kph then 1 else 0) + (if f.ctrl then 2 else 0) + (if f.nak then 4 else 0) + (if f.idle then 8 else 0) +
      (if f.akph then 16 else 0) + (if f.lastk then 32 else 0)), BitVec.ofNat 8 f.beats.length, f.foff] ++ List.replicate 11 0

/-- The payload of 464 bytes. -/
def framePayload (f : Frame) : List Byte :=
  let b := f.beats.flatMap fun x => bytesOf x.toNat 16
  b ++ List.replicate (464 - b.length) 0

/-- A frame as it is sealed: under the key of its phase, with the header as additional data and IV exclusive-or FSEQ as nonce (02_fabric.md R37, R38).
A frame of the other phase than the sender's was sealed under the key before. -/
def Link.wire (k : Link) (f : Frame) : List Byte :=
  let n := if f.kph = k.txPh then k.txKeys else k.txKeys - 1
  frameHeader f ++ Config.gcmSeal (Config.linkKey k.sid n) (Config.linkIv k.sid n ^^^ f.fseq.setWidth 96) (frameHeader f) (framePayload f)

/-- Bytes of a number, most significant first, as Ethernet writes its fields. -/
def netBytes (v n : Nat) : List Byte := (bytesOf v n).reverse

/-- The Ethernet frame that carries one fabric frame to a peer (02_fabric.md R61). -/
def State.etherFrame (s : State) (p : EthPeer) (wire : List Byte) : List Byte :=
  let img := s.pkg.image.getD default
  let tag := if p.entry.getLsbD 68 then netBytes (0x8100 * 2 ^ 16 + fldN p.entry 69 3 * 2 ^ 13 + fldN p.entry 56 12) 4 else []
  let body := netBytes (fldN p.entry 8 48) 6 ++ netBytes (img.macs.getD p.eth.toNat 0).toNat 6 ++ tag ++ netBytes img.etherType.toNat 2 ++
    [1, 1] ++ List.replicate 14 0 ++ wire
  body ++ bytesOf (Config.fcs body).toNat 4

/-- A frame leaves through a link: as it is on a fabric port, in an Ethernet frame to a peer. -/
def State.sendFrame (s : State) (l : LinkRef) (f : Frame) : State :=
  let w := (s.link l).wire f
  s.emit (.frame l f (match l with
    | .port _ => w
    | .peer e i => match s.peer? e i with
      | none => w
      | some p => s.etherFrame p w))

/-- A new frame has gone out. -/
def Link.sentFrame (k : Link) (f : Frame) : Link :=
  let k1 := { k with sent := k.sent + 1, nak := false, replay := k.replay ++ [f] }
  if k.txLast then { k1 with txSeq := 0, txPh := !k.txPh, txLast := false, txOld := true, txKeys := k.txKeys + 1 } else { k1 with txSeq := k.txSeq + 1 }

/-- The frame before FSEQ 2^36 is the last under its key (02_fabric.md R35, R37). -/
def Link.dueUpdate (k : Link) : Link := if k.txSeq + 1 = 2 ^ 36 then { k with txLast := true } else k

/-- Number of a port for its weights. -/
def linkNum (l : LinkRef) : Nat :=
  match l with
  | .port p => p.toNat
  | .peer e _ => 16 + e.toNat

/-- FRAME_SEND: in AUTH a control frame with an SPDM message in the clear. In UP first what is to be replayed, then a control frame that is due,
then packets, else an idle frame, within the credit and the replay buffer; at the end of a key's numbers nothing goes while an older key is still
in use (02_fabric.md R36 to R39). -/
def State.frameSend (s : State) (l : LinkRef) : State :=
  let k := (s.link l).dueUpdate
  if k.state = .auth then s.emit (.linkSpdm l)
  else if k.state ≠ .up then s
  else if k.resend ≠ 0 then
    match k.replay[k.replay.length - k.resend]? with
    | none => s.setLink l { k with resend := 0 }
    | some f => (s.sendFrame l f).setLink l { k with resend := k.resend - 1 }
  else if replaySize l ≤ k.replay.length || 64 ≤ (k.sent - k.credit).toNat || (k.txLast && k.txOld) then s
  else if k.beatDue then
    let f := k.frame true 0xFF []
    (s.sendFrame l f).setLink l { k.sentFrame f with beatDue := false }
  else
    let (b, foff, q) := fillFrame (Config.portWeight (linkNum l)) 30 k.txBeats 0xFF ⟨k.rrClass, k.rrLeft, k.egress⟩
    let f := k.frame false foff (b.take 29)
    (s.sendFrame l f).setLink l { k.sentFrame f with txBeats := b.drop 29, egress := q.queue, rrClass := q.cls, rrLeft := q.left }

/-- FRAME_SEND (02_fabric.md R38, R39). -/
def execFrameSend (l : LinkRef) (s : State) : Host.Outcome State Fault Refusal := .next (s.frameSend l)

/-! ## Reception (02_fabric.md R37, R40) -/

/-- What a verified frame acknowledges leaves the replay buffer; with NAK the rest is sent again. -/
def Link.acked (k : Link) (f : Frame) : Link :=
  let n := match k.replay.findIdx? fun g => g.kph == f.akph && g.fseq == f.ackseq with
    | none => 0
    | some i => i + 1
  let rest := k.replay.drop n
  let gone := k.ackBeats ++ (k.replay.take n).flatMap Frame.beats
  { k with
    ackBeats := (takePackets (gone.length + 1) gone).2
    replay := rest, credit := f.credit
    resend := if f.nak then rest.length else min k.resend rest.length
    txOld := k.txOld && rest.any fun g => g.kph != k.txPh }

/-- A frame verifies and is the next expected one: the link with its beats, and the packets that are now whole. The payload of a control frame goes
to the Wellhead alone (02_fabric.md R36). -/
def Link.accepted (k : Link) (f : Frame) : Link × List Packet :=
  let k1 := k.acked f
  let (ps, rest) := takePackets 30 (k1.rxBeats ++ if f.ctrl then [] else f.beats)
  ({ k1 with
      rxOld := if f.lastk then some f.fseq.toNat else k1.rxOld
      fails := 0, rxLast := some (f.kph, f.fseq.toNat), rxSeq := if f.lastk then 0 else f.fseq.toNat + 1, rxPh := if f.lastk then !f.kph else f.kph
      freed := k1.freed + 1, rxBeats := rest }, ps)

/-- Packets released by a port stand at the switch. -/
def State.released (s : State) (l : LinkRef) (ps : List Packet) : State :=
  let item (p : Packet) : NetItem :=
    { newItem [] p (opReply p.op) (switchEndpoint 0) (switchEndpoint 0) 0 0 with pos := .atSwitch (some l) }
  { s with fab := { s.fab with net := s.fab.net ++ ps.map item } }

/-- A frame fails: it is discarded and NAK is set; the eighth failure in a row takes the link DOWN. -/
def State.frameFailed (s : State) (l : LinkRef) : State :=
  let k := s.link l
  if 8 ≤ k.fails + 1 then s.linkDown l .down else s.setLink l { k with fails := k.fails + 1, nak := true }

/-- A frame arrives at a link that is UP; the control frames before UP go to the Wellhead, whose outcome is AUTH_ESTABLISHED or AUTH_FAIL. A frame
that claims more than 29 beats is no frame of R38 and fails (DESIGN CHOICE, log entry 95). -/
def State.frameArrive (s : State) (l : LinkRef) (f : Frame) (tagOk : Bool) : State :=
  let k := s.link l
  if k.state ≠ .up then s
  else if tagOk && decide (f.beats.length ≤ 29) && f.kph == k.rxPh && decide (f.fseq.toNat = k.rxSeq) && (!f.ctrl || f.spdm) then
    let (k1, ps) := k.accepted f
    (s.setLink l k1).released l ps
  else s.frameFailed l

/-- FRAME_RECEIVE (02_fabric.md R40). -/
def execFrameReceive (p : BitVec 4) (f : Frame) (tagOk : Bool) (s : State) : Host.Outcome State Fault Refusal :=
  .next (s.frameArrive (.port p) f tagOk)

/-! ## Ethernet peers (02_fabric.md R61, R62, R64) -/

/-- A frame that was verified before (02_fabric.md R37, R64): an earlier one of the expected phase, or one of the last 512 of the phase before it,
which is all that a replay buffer holds. Another frame of the other phase runs ahead of the frame with LASTK (DEDUCED, log entry 95). -/
def Link.duplicate (k : Link) (f : Frame) : Bool :=
  if f.kph = k.rxPh then decide (f.fseq.toNat < k.rxSeq)
  else match k.rxOld with
    | none => false
    | some n => decide (f.fseq.toNat ≤ n) && decide (n < f.fseq.toNat + 512)

/-- The fabric frames of an Ethernet frame, in order; duplicates are discarded. -/
def State.ethArrive (s : State) (l : LinkRef) : List (Frame × Bool) → State
  | [] => s
  | (f, ok) :: r => (if (s.link l).duplicate f then s else s.frameArrive l f ok).ethArrive l r

/-- ETH_FRAME_RECEIVE: an Ethernet frame carries 1 to 4 fabric frames (02_fabric.md R61, R64). -/
def execEthFrameReceive (eth : BitVec 2) (idx : BitVec 5) (frames : List (Frame × Bool)) (s : State) : Host.Outcome State Fault Refusal :=
  .next (if frames.length = 0 || 4 < frames.length then s else s.ethArrive (.peer eth idx) frames)

/-- ETH_REPLAY_TIMEOUT: replay from the first unacknowledged frame; it counts as a failure (02_fabric.md R64). -/
def State.ethReplay (s : State) (l : LinkRef) : State :=
  let k := s.link l
  if k.state ≠ .up then s
  else if 8 ≤ k.fails + 1 then s.linkDown l .down
  else s.setLink l { k with fails := k.fails + 1, resend := k.replay.length }

/-- ETH_REPLAY_TIMEOUT (02_fabric.md R64). -/
def execEthReplayTimeout (eth : BitVec 2) (idx : BitVec 5) (s : State) : Host.Outcome State Fault Refusal := .next (s.ethReplay (.peer eth idx))

/-- The Ethernet port is enabled in the signed image, after READY (01_package.md R19, R25). -/
def State.ethEnabled (s : State) (eth : BitVec 2) : Bool := s.portEnabled (16 + eth.toNat)

/-- ETH_REAUTH: a DOWN entry is authenticated anew (02_fabric.md R64). -/
def execEthReauth (eth : BitVec 2) (idx : BitVec 5) (s : State) : Host.Outcome State Fault Refusal :=
  let l : LinkRef := .peer eth idx
  .next (match s.peer? eth idx with
    | none => s
    | some p => if s.ethEnabled eth && p.entry.getLsbD 0 && p.link.state == .down then s.setLink l { p.link with state := .auth } else s)

/-- The RW fields of a peer entry (02_fabric.md R62). -/
def peerMask : BitVec 128 := BitVec.ofNat 128 (1 + (2 ^ 80 - 1) * 2 ^ 8)

/-- An entry as it reads: its fields with STATE, 0 absent, 1 authenticating, 2 UP, 3 DOWN (02_fabric.md R62). -/
def EthPeer.value (p : EthPeer) : BitVec 128 :=
  let st := if !p.entry.getLsbD 0 then 0 else match p.link.state with
    | .up => 2
    | .train => 1
    | .auth => 1
    | _ => 3
  p.entry ||| BitVec.ofNat 128 (2 * st)

/-- A peer entry that was never written: its mask has every slot installed so far (03_routes.md R82). -/
def State.newPeer (s : State) (eth : BitVec 2) (idx : BitVec 5) : EthPeer :=
  let k : Link := { Link.reset with enabled := true, slotok := s.fab.installed }
  ⟨eth, idx, 0, k⟩

/-- The RW fields of an entry take their values. -/
def EthPeer.write (eth : BitVec 2) (idx : BitVec 5) (val : BitVec 128) (p : EthPeer) : EthPeer :=
  if p.eth == eth && p.idx == idx then { p with entry := val &&& peerMask } else p

/-- PEER_ENTRY_WRITE: the entry's session ends, and a valid entry is authenticated (02_fabric.md R62). Ports 0 to 2 stand for hop-list
values 16 to 18. An entry that is FAILED is authenticated too, with its count of attempts kept (DESIGN CHOICE, log entry 95). -/
def State.writePeer (s : State) (eth : BitVec 2) (idx : BitVec 5) (val : BitVec 128) : State :=
  if eth = 3 then s
  else
    let l : LinkRef := .peer eth idx
    let s1 : State := match s.peer? eth idx with
      | none => { s with fab := { s.fab with peers := s.fab.peers ++ [s.newPeer eth idx] } }
      | some _ => s.linkDown l .down
    let s2 : State := s1.setLink l { s1.link l with state := if val.getLsbD 0 && s.ethEnabled eth then .auth else .down, enabled := val.getLsbD 0 }
    { s2 with fab := { s2.fab with peers := s2.fab.peers.map (EthPeer.write eth idx val) } }

/-- PEER_ENTRY_WRITE (02_fabric.md R62). -/
def execPeerEntryWrite (eth : BitVec 2) (idx : BitVec 5) (val : BitVec 128) (s : State) : Host.Outcome State Fault Refusal :=
  .next (s.writePeer eth idx val)

end Sys2Proof.Machine
end

