-- ==== Sys2Proof/Machine/Enclave.lean ====
section
/-! DEFINITION. The end of launches and enclaves: scrubbing, machine checks, the ERROR state of an interface, and FAULT
(01_package.md R28, R29; 05_host.md R118, R119; 06_execution.md R170 to R172; 10_traps.md R289). -/

set_option Elab.async false

namespace Sys2Proof.Machine

/-! ## Functions -/

/-- A function; one not listed is at reset (05_host.md R115). -/
def State.func (s : State) (fn : BitVec 6) : Func := (s.hst.funcs.find? (·.fn == fn)).getD (Func.reset fn)

/-- Write a function back. -/
def State.putFunc (s : State) (f : Func) : State := { s with hst := { s.hst with funcs := f :: s.hst.funcs.filter (·.fn != f.fn) } }

/-- The enclave with this number. -/
def State.enclave? (s : State) (id : Byte) : Option Enclave := s.hst.enclaves.find? (·.id == id)

/-! ## Storage of a launch -/

/-- Zero `n` bytes of a scratchpad, with every full/empty bit empty (06_execution.md R138); offset and length are multiples of 8. -/
def Mem.zeroSpad (m : Mem) (core off n : Nat) : Mem :=
  let k := spadKey core off
  let inside (a : Nat) : Bool := decide (k ≤ a) && decide (a < k + n)
  { m with
    spad := m.spad.filter fun p => !inside p.1
    full := m.full.filter fun w => !inside (8 * w)
    spoison := m.spoison.filter fun w => !inside (8 * w) }

/-- Zero the block of a launch on each of its cores. -/
def Mem.zeroBlocks (m : Mem) (l : Launch) : Mem := l.cores.foldl (fun m c => m.zeroSpad c l.rbase (shapeBlock l.words)) m

/-- Zero the lines of a range of HBM under a key id (08_memory.md R216). The firmware region is left alone. -/
def State.zeroHbm (s : State) (lo n key : Nat) : State :=
  let inside (a : Nat) : Bool := decide (lo ≤ a) && decide (a < lo + n) && !inFirmware a
  let lines := ((List.range (n / 64)).map (lo / 64 + ·)).filter fun w => inside (64 * w)
  { s with mem := { s.mem with
      hbm := s.mem.hbm.filter fun p => !inside p.1
      hpoison := s.mem.hpoison.filter fun w => !inside (64 * w)
      sealed := lines.foldl (fun q w => sealSet (s.serialOf 0) q w (s.serialOf key)) s.mem.sealed } }

/-! ## The end of a launch -/

/-- A slot of the launch's allotment. -/
def Launch.hasSlot (l : Launch) (slot : BitVec 3) : Bool :=
  decide (l.firstSlot.toNat ≤ slot.toNat) && decide (slot.toNat < l.firstSlot.toNat + l.allot)

/-- The core keeps nothing for a launch that has ended: neither commands nor a lane group. -/
def Core.forget (l : Launch) (c : Core) : Core :=
  { c with
    copies := c.copies.filter (·.launch != l.id), weir := c.weir.filter (·.launch != l.id), aborts := c.aborts.filter (·.launch != l.id)
    lane := if l.seated && l.cores.contains c.id then c.lane.map fun o => o.filter fun sl => !l.hasSlot sl else c.lane
    waits := if l.seated && l.cores.contains c.id then c.waits.filter fun w => !l.hasSlot w.1 else c.waits }

/-- A launch is gone: its contexts, mailboxes, wait lists and endpoints with it (06_execution.md R170; 03_routes.md R74). -/
def State.dropLaunch (s : State) (l : Launch) : State :=
  let s1 := s.mapCores (Core.forget l)
  { s1 with
    h := if s.h.launch = l.id then Hart.reset else s.h
    harts := s.harts.filter (·.launch != l.id)
    mem := { s.mem with feWait := s.mem.feWait.filter (·.launch != l.id), syncWait := s.mem.syncWait.filter (·.launch != l.id) }
    fab := { s.fab with opens := s.fab.opens.filter (·.2.1 != l.id) }
    hst := { s.hst with
      launches := s.hst.launches.filter (·.id != l.id)
      mbox := s.hst.mbox.filter (·.launch != l.id), heldMsgs := s.hst.heldMsgs.filter (·.launch != l.id) } }

/-- Zero the core-shared bank of a launch slot. -/
def Core.wipeBank (lslot : Bool) (c : Core) : Core :=
  let cs := { c with cpend := c.cpend.filter (·.lslot != lslot) }
  if lslot then { cs with c1 := Vector.replicate 16 0 } else { cs with c0 := Vector.replicate 16 0 }

/-- Zero the core-shared banks of a seated launch. -/
def State.wipeBanks (s : State) (l : Launch) : State :=
  if l.seated then l.cores.foldl (fun s c => s.putCore ((s.core c).wipeBank (launchSlot l.firstSlot l.allot))) s else s

/-- A launch ends in a scrub: its harts are halted, what they hold and its storage are overwritten (05_host.md R119 steps 1 to 3). -/
def State.scrubLaunch (s : State) (l : Launch) : State :=
  let s1 := s.wipeBanks l
  ({ s1 with mem := s1.mem.zeroBlocks l } : State).dropLaunch l

/-! ## Machine checks (01_package.md R28, 10_traps.md R289) -/

/-- The cause value of a machine check: the kind of storage, 7 for the supply, and the hart slot (10_traps.md R269). -/
def mcheckVal (kind : BitVec 4) (slot : BitVec 3) : Word := BitVec.ofNat 64 (kind.toNat + 16 * slot.toNat)

/-- The monitor registers of a hart at which MCHECK has been raised: the trap of 10_traps.md R271 at monitor level, which MDELEG never hands on. -/
def Hart.mcheckCsrs (h : Hart) (val : Word) : Csrs :=
  { Csrs.reset with
    mtvec := h.csr.mtvec, mepc := h.pc &&& 0x0000FFFFFFFFFFFC#64, mcause := causeMcheck.setWidth 64, mtval := val
    mstatus := BitVec.ofNat 5 ((if h.csr.mstatus.getLsbD 0 then 2 else 0) + 4 * h.level.num + 16) }

/-- A hart that a machine check ends: the monitor has taken MCHECK there, and what it held is overwritten; the accesses it posted are still
acknowledged (10_traps.md R289). -/
def Hart.machineCheck (val : Word) (h : Hart) : Hart :=
  { Hart.reset with
    core := h.core, slot := h.slot, lslot := h.lslot, launch := h.launch, rank := h.rank, vthread := h.vthread, vindex := h.vindex,
    seated := h.seated, post := h.post, level := .monitor, pc := BitVec.ofNat 64 (fldN h.csr.mtvec 2 46 * 4), csr := h.mcheckCsrs val }

/-- The harts of the core's enclave that a machine check ends. -/
def State.checkedHarts (s : State) (core : Nat) : List Hart :=
  s.allHarts.filter fun h => h.core == core && h.run != .retired &&
    (match s.launch? h.launch with
      | none => false
      | some l => l.encl == (s.core core).mencl)

/-- One hart ends by a machine check: the launch, the barriers and the split it stood in see it retired. -/
def State.checkHart (val : Word) (s : State) (h : Hart) : State :=
  let s1 := ((s.putHart (h.machineCheck val)).leaveWaits h.core h.slot h.launch).setMail h.core h.slot h.launch []
  ((s1.mapLaunch h.launch Launch.checked).recheckBarriers h).recheckMerge h

/-- A machine check on a core: MCHECK is raised at monitor level, and the monitor retires its enclave's harts there. -/
def State.mcheckCore (val : Word) (s : State) (core : Nat) : State :=
  let s1 := (s.checkedHarts core).foldl (State.checkHart val) s
  if s1.allHarts.any (·.core == core) then s1.putCore (((s1.core core).wipeBank false).wipeBank true) else s1

/-! ## The scrub of an enclave (05_host.md R119) -/

/-- The enclave holds key id `k`. -/
def Enclave.holds (e : Enclave) (k : Nat) : Bool := e.keys.contains k

/-- Zeroise the key ids of an enclave but key id 0, whose key is the package's, and end its HBM endpoints. The endpoints of key id 0, which
every open enclave shares, are revoked and stay (DESIGN CHOICE, log entry 94). -/
def State.zeroiseKeys (s : State) (e : Enclave) : State :=
  let mine (p : HbmEp) : Bool := if p.key = 0 then e.holds 0 else p.encl == e.id
  let s1 := (s.fab.hbmEps.filter mine).foldl (fun s p => (s.revokeHbm p).2) s
  { s1 with
    fab := { s1.fab with hbmEps := s1.fab.hbmEps.filter fun p => p.key == 0 || p.encl != e.id }
    hst := { s1.hst with keySerial := Vector.ofFn fun i : Fin 64 => if i.val ≠ 0 && e.holds i.val then 0 else s1.hst.keySerial.get i } }

/-- Steps 1 to 5: launches end, what they hold is overwritten, keys are zeroised, the storage key and the frame pool go. Commands that wait
in the Siphon for the enclave go too; a drive command already issued completes. -/
def State.scrub (s : State) (encl : Byte) : State :=
  match s.enclave? encl with
  | none => s
  | some e =>
    let s1 := (s.hst.launches.filter (·.encl == encl)).foldl State.scrubLaunch s
    let s2 := s1.zeroiseKeys e
    { s2 with
      hst := { s2.hst with
        inbox := s2.hst.inbox.filter (·.encl != encl)
        waiting := s2.hst.waiting.map fun l => l.filter (·.encl != encl) }
      sip := { s2.sip with
        skeys := s2.sip.skeys.filter (·.1 != encl), pools := s2.sip.pools.filter (·.encl != encl)
        faults := s2.sip.faults.filter (·.encl != encl)
        sq := s2.sip.sq.filter fun q => q.encl != encl || q.started } }

/-- A busy range lies in a storage slot. -/
def StorageSlot.meets (t : StorageSlot) (b : BusyRange) : Bool :=
  b.drive == t.drive && b.nsid == t.nsid && decide (b.lba < t.base + t.nblk) && decide (t.base < b.lba + b.n)

/-- No block of the enclave's storage slots is busy. -/
def State.slotsIdle (s : State) (encl : Byte) : Bool :=
  (s.sip.slots.filter (·.encl == encl)).all fun t => s.sip.busy.all fun b => !t.meets b

/-- A core no longer runs an enclave that has gone: nothing of it is left in the registers that the monitor keeps for it. -/
def Core.noEnclave (encl : Byte) (c : Core) : Core :=
  if c.mencl = encl then
    { c with mencl := 0, mkeyid := 0, guards := Vector.replicate 16 0, evc := Vector.replicate 8 0, sevsel := 0, meven := 0, tlb := [] }
  else c

/-- The rest of step 5 and step 6: the storage slots are cleared, the enclave is no more. -/
def State.scrubEnd (s : State) (encl : Byte) : State :=
  let s := s.mapCores (Core.noEnclave encl)
  { s with
    sip := { s.sip with slots := s.sip.slots.filter (·.encl != encl) }
    hst := { s.hst with enclaves := s.hst.enclaves.filter (·.id != encl), assign := s.hst.assign.filter (·.2 != encl) } }

/-! ## The ERROR state (05_host.md R118) -/

/-- The interface is in CONFIG_LOCKED or RUN. -/
def Func.isLocked (f : Func) : Bool := f.tstate == .locked || f.tstate == .run

/-- The halt cause on the way to ERROR: a ring cause is kept, else IFERROR. -/
def Func.errorCause (f : Func) (ring : Option (BitVec 4)) : BitVec 4 :=
  match ring with
  | some c => c
  | none => if f.hcause ≠ 0 then f.hcause else 6

/-- An interface in CONFIG_LOCKED or RUN moves to ERROR: the ring halts and the scrub begins. MSI-X vector 1 is signalled unless the cause
disabled MSI-X. -/
def State.toError (s : State) (f : Func) (ring : Option (BitVec 4)) (msix : Bool) : State :=
  if !f.isLocked then s
  else
    let s1 := (s.putFunc { f with tstate := .error, rst := 2, hcause := f.errorCause ring, scrub := true, resumeOk := false }).scrub f.encl
    if msix then s1.emit (.msix f.fn 1 false) else s1

/-- A START with another nonce takes the locked interface to ERROR with the scrub alone: the ring that never ran is as it was. -/
def State.refuseStart (s : State) (f : Func) : State := (s.putFunc { f with tstate := .error, scrub := true }).scrub f.encl

/-- FAULT moves every interface to ERROR; one in CONFIG_UNLOCKED has no ring to halt and nothing to scrub. -/
def State.faultFunc (s : State) (f : Func) : State :=
  if f.tstate = .unlocked then s.putFunc { f with tstate := .error } else s.toError f none true

/-! ## FAULT (01_package.md R29) -/

/-- Replace bits `lo + len - 1` to `lo` of a 32-bit register. -/
def putBits (w : BitVec 32) (lo len v : Nat) : BitVec 32 := BitVec.ofNat 32 (w.toNat - fldN w lo len * 2 ^ lo + v % 2 ^ len * 2 ^ lo)

/-- Every link of the package. -/
def State.links (s : State) : List LinkRef :=
  (List.range 16).map (fun i => .port (BitVec.ofNat 4 i)) ++ s.fab.peers.map fun p => .peer p.eth p.idx

/-- The virtual functions of the package, each a TDISP interface: those of the signed image, at most 63 (05_host.md R115, R118). -/
def State.interfaces (s : State) : List (BitVec 6) :=
  match s.pkg.image with
  | none => []
  | some g => (List.range (min 63 g.totalVfs)).map fun i => BitVec.ofNat 6 (i + 1)

/-- A link goes down and stays disabled. -/
def State.dropLink (s : State) (l : LinkRef) : State :=
  let s1 := s.linkDown l .down
  s1.setLink l { s1.link l with enabled := false }

/-- The package enters FAULT with a failure code. -/
def State.enterFault (s : State) (code : Nat) : State :=
  if s.pkg.fault then s
  else
    let b := putBits (putBits (putBits s.pkg.bootstat 0 1 0) 1 3 7) 8 8 code
    let s1 : State := { s with pkg := { s.pkg with bootstat := b, fault := true, booting := false, aer := true } }
    let s2 := s.interfaces.foldl (fun s fn => s.faultFunc (s.func fn)) (s1.emit .pcieError)
    let s3 := s2.links.foldl State.dropLink s2
    { s3 with hst := { s3.hst with inbox := [], waiting := Vector.replicate 32 [] } }

/-- What still happens in FAULT: resets, management, reading temperatures, and the host's registers and messages. -/
def inFault (i : Instr) : Bool :=
  match i with
  | .pwrgoodLow => true
  | .perstAssert => true
  | .perstDeassert => true
  | .pwrgoodRise => true
  | .configRequest _ _ => true
  | .thermalSample _ _ => true
  | .patrolScrub _ _ => true
  | .pldmMonitor => true
  | .pldmFirmwareUpdate _ _ => true
  | .tailWrite _ _ => true
  | .cplheadWrite _ _ => true
  | .ringConfigWrite _ _ _ _ => true
  | .registerWrite _ _ _ _ => true
  | .getDeviceInterfaceState _ _ => true
  | .getDeviceInterfaceReport _ _ => true
  | .endSession _ => true
  | .heartbeat _ _ => true
  | .sessionTimeout _ => true
  | .getMeasurements _ _ _ => true
  | .getCertificate _ _ => true
  | .challenge _ _ => true
  | .enclQuery _ _ => true
  | _ => false

/-- The reset inputs (01_package.md R17). -/
def isResetInput (i : Instr) : Bool :=
  match i with
  | .pwrgoodLow => true
  | .pwrgoodRise => true
  | .perstAssert => true
  | .perstDeassert => true
  | _ => false

/-- The management path, which serves the BMC whenever PWRGOOD is high (01_package.md R21, 05_host.md R134). -/
def isManagement (i : Instr) : Bool :=
  match i with
  | .pldmMonitor => true
  | .pldmFirmwareUpdate _ _ => true
  | _ => false

/-- An event that the state of the package admits: in cold reset the reset inputs alone, while PERST# is asserted the management path too, and
in FAULT no core, engine or unit does anything (01_package.md R17, R29). -/
def State.admits (s : State) (i : Instr) : Bool :=
  isResetInput i || (s.pkg.pwrgood && (isManagement i || !s.pkg.perst && (!s.pkg.fault || inFault i)))

end Sys2Proof.Machine
end

