-- ==== Sys2Proof/Machine/Boot.lean ====
section
/-! DEFINITION. Resets, bring-up, power, temperature, soft errors and the management path (01_package.md R13 to R29; 05_host.md R134). -/

set_option Elab.async false

namespace Sys2Proof.Machine

/-! ## Resets (01_package.md R17) -/

/-- Package reset. The flash, the reset inputs and what the drives hold stay; SRAM and HBM keep their bytes, unreadable for want of a key,
until bring-up overwrites them, and after cold reset (`cold`) their contents are undefined. Serial numbers of keys are not used again. -/
def State.packageReset (s : State) (cold pwrgood perst : Bool) : State :=
  let r := State.reset
  { r with
    mem := { s.mem with feWait := [], syncWait := [] }
    pkg := { r.pkg with
      pwrgood := pwrgood, perst := perst, booting := false, helper := s.pkg.helper, slotA := s.pkg.slotA, slotB := s.pkg.slotB,
      cert := s.pkg.cert, minVersion := s.pkg.minVersion, undefStore := cold || s.pkg.undefStore }
    sip := { r.sip with blocks := s.sip.blocks }
    hst := { r.hst with nextSerial := s.hst.nextSerial }
    sched := s.sched, out := s.out, draws := s.draws }

/-- PWRGOOD_LOW: cold reset, while PWRGOOD is low (01_package.md R17). -/
def execPwrgoodLow (s : State) : Host.Outcome State Fault Refusal := .next (s.packageReset true false s.pkg.perst)

/-- BOOTSTAT.PHASE (01_package.md R22). -/
def State.phase (s : State) : Nat := fldN s.pkg.bootstat 1 3

/-- Show a phase in BOOTSTAT. -/
def State.setPhase (s : State) (n : Nat) : State := { s with pkg := { s.pkg with bootstat := putBits s.pkg.bootstat 1 3 n } }

/-- Bring-up starts at the Identity phase. -/
def State.bringUp (s : State) : State := ({ s with pkg := { s.pkg with booting := true } } : State).setPhase 1

/-- PWRGOOD_RISE: bring-up starts unless PERST# is asserted (01_package.md R18). -/
def execPwrgoodRise (s : State) : Host.Outcome State Fault Refusal :=
  .next (if s.pkg.pwrgood then s
    else
      let s1 : State := { s with pkg := { s.pkg with pwrgood := true } }
      if s.pkg.perst then s1 else s1.bringUp)

/-- PERST_ASSERT: package reset while PWRGOOD is high (01_package.md R17). -/
def execPerstAssert (s : State) : Host.Outcome State Fault Refusal :=
  .next (if s.pkg.pwrgood then s.packageReset false true true else { s with pkg := { s.pkg with perst := true } })

/-- PERST_DEASSERT: bring-up starts (01_package.md R18). -/
def execPerstDeassert (s : State) : Host.Outcome State Fault Refusal :=
  .next (if !s.pkg.perst then s
    else
      let s1 : State := { s with pkg := { s.pkg with perst := false } }
      if s.pkg.pwrgood then s1.bringUp else s1)

/-! ## Bring-up (01_package.md R18 to R24) -/

/-- The work of phase `n` is in progress. The package right after reset stands before phase 1 and goes on with it. -/
def State.inPhase (s : State) (n : Nat) : Bool := s.pkg.booting && (s.phase == n || (n == 1 && s.phase == 0))

/-- Bring-up stops in phase `n` with a failure code; phases 1 and 2 leave the Image phase ended without an image. -/
def State.bootFail (s : State) (n code : Nat) : State :=
  let s1 := s.setPhase n
  { s1 with pkg := { s1.pkg with
      bootstat := putBits (putBits s1.pkg.bootstat 4 1 1) 8 8 code, booting := false, imgEnded := s1.pkg.imgEnded || decide (n ≤ 2) } }

/-- The device identity: the SHA3-512 digest of the identity public key (01_package.md R25). -/
def identity : DevId := (Config.sha3 Config.identityKey).toNat

/-- IDENTITY_PHASE: the identity seed gives the device identity, or bring-up stops with 0x01 (01_package.md R18, R23, R25). -/
def execIdentityPhase (reconOk : Bool) (s : State) : Host.Outcome State Fault Refusal :=
  .next (if !s.inPhase 1 then s
    else if !s.pkg.helper || !reconOk then s.bootFail 1 0x01
    else ({ s with fab := { s.fab with myId := identity, lead := identity } } : State).setPhase 2)

/-- An image that its checks accept (01_package.md R24). -/
def State.accepts (s : State) (i : Option FlashImage) : Option FlashImage :=
  i.filter fun g => g.sigOk && decide (s.pkg.minVersion ≤ g.secver)

/-- An image runs: slot A, or slot B as the fallback. -/
def State.runImage (s : State) (g : FlashImage) (slotB : Bool) : State :=
  let b := if slotB then 1 else 0
  ({ s with pkg := { s.pkg with
      image := some g, imgLoaded := true, imgEnded := true
      bootstat := putBits (putBits s.pkg.bootstat 5 1 b) 6 1 b } } : State).setPhase 3

/-- IMAGE_PHASE: slot A, then slot B; the counter region must authenticate (01_package.md R23, R24). -/
def execImagePhase (counterOk : Bool) (s : State) : Host.Outcome State Fault Refusal :=
  .next (if !s.inPhase 2 then s
    else if !counterOk then s.bootFail 2 0x03
    else match s.accepts s.pkg.slotA with
      | some g => s.runImage g false
      | none => match s.accepts s.pkg.slotB with
        | some g => s.runImage g true
        | none => s.bootFail 2 0x02)

/-- Failure codes of the Dies phase (01_package.md R23). -/
def diesCode (c : Nat) : Bool := (decide (0x10 ≤ c) && decide (c ≤ 0x17)) || (decide (0x20 ≤ c) && decide (c ≤ 0x29)) || c == 0x30

/-- Every SRAM array and every HBM line is zero, under a new key of key id 0 (01_package.md R18; 08_memory.md R232). -/
def State.initStorage (s : State) : State :=
  { s with
    mem := Mem.reset
    pkg := { s.pkg with undefStore := false }
    hst := { s.hst with keySerial := s.hst.keySerial.set (0 : Fin 64) s.hst.nextSerial, nextSerial := s.hst.nextSerial + 1 } }

/-- DIES_PHASE (01_package.md R18). -/
def execDiesPhase (fail : FailCode) (s : State) : Host.Outcome State Fault Refusal :=
  .next (if !s.inPhase 3 then s
    else match fail with
      | none => s.initStorage.setPhase 4
      | some c => if diesCode c.toNat then s.bootFail 3 c.toNat else s)

/-- MDELEG as the monitor sets it (10_traps.md R270). -/
def monitorDeleg : Word := 0x0000001E03DBFFFE#64

/-- The Wellhead, alone in its domain and its lead, draws the first route key of this bring-up; it is in force in slot 0
(01_package.md R17, 03_routes.md R71, R72). -/
def State.firstRouteKey (s : State) : State :=
  let (n, s1) := s.draw
  (s1.installKey 0 (Config.routeKey n)).activateKey 0

/-- FIRMWARE_PHASE: the Wellhead's firmware starts, the monitor is loaded on every core, and the measurement list is closed
(01_package.md R18; 05_host.md R123). -/
def execFirmwarePhase (fail : FailCode) (s : State) : Host.Outcome State Fault Refusal :=
  .next (if !s.inPhase 4 then s
    else match fail with
      | none =>
        let s1 := s.firstRouteKey.mapCores fun c => { c with mdeleg := monitorDeleg }
        ({ s1 with pkg := { s1.pkg with measured := true } } : State).setPhase 5
      | some c => if c = 0x50 || c = 0x51 then s.bootFail 4 c.toNat else s)

/-- The namespaces that the controllers of some drives report. -/
def reported (drives : BitVec 4) : List Namespace :=
  ((List.range 4).filter drives.getLsbD).flatMap fun d => (Config.namespaces d).map fun n => ⟨BitVec.ofNat 2 d, n.1, n.2.1, n.2.2⟩

/-- STORAGE_PHASE: the drives that the Siphon has initialised (01_package.md R20). -/
def execStoragePhase (drives : BitVec 4) (s : State) : Host.Outcome State Fault Refusal :=
  .next (if !s.inPhase 5 then s
    else ({ s with
      pkg := { s.pkg with bootstat := putBits s.pkg.bootstat 16 4 drives.toNat }
      sip := { s.sip with drives := drives, ns := reported drives, mdts := Vector.ofFn fun i => Config.mdts i } } : State).setPhase 6)

/-- READY (01_package.md R18). -/
def execReady (s : State) : Host.Outcome State Fault Refusal :=
  .next (if !s.inPhase 6 then s else { s with pkg := { s.pkg with bootstat := putBits s.pkg.bootstat 0 1 1, booting := false } })

/-- PHASE_TIMEOUT: the phase in progress exceeds its bound (01_package.md R18). -/
def execPhaseTimeout (s : State) : Host.Outcome State Fault Refusal :=
  .next (if s.pkg.booting && decide (s.phase ≤ 5) then s.bootFail (max 1 s.phase) 0x04 else s)

/-- BOOTSTAT.READY. -/
def State.isReady (s : State) : Bool := s.pkg.bootstat.getLsbD 0

/-- MIN_VERSION_RAISE: after READY (01_package.md R24). -/
def execMinVersionRaise (s : State) : Host.Outcome State Fault Refusal :=
  .next (match s.pkg.image with
    | none => s
    | some g => if s.isReady && decide (s.pkg.minVersion < g.secver) then { s with pkg := { s.pkg with minVersion := g.secver } } else s)

/-- The capability of R21 at an offset: the standard header with Horvin's vendor identifier and DVSEC identifier 0x0001, then its content; other
offsets hold what the rules do not give. -/
def State.dvsec (s : State) (recovery : Bool) (off : Nat) : Word :=
  if off = 0x00 then BitVec.ofNat 64 (fldN (Config.configWord 0 recovery) 20 12 * 2 ^ 20 + 0x10023)
  else if off = 0x04 then BitVec.ofNat 64 (0x60 * 2 ^ 20 + fldN (Config.configWord 4 recovery) 16 4 * 2 ^ 16 + Config.horvin.toNat)
  else if off = 0x08 then 0x0001
  else if off = 0x0C then s.pkg.bootstat.setWidth 64
  else if off = 0x10 then
    match s.pkg.image with
    | some g => BitVec.ofNat 64 (g.secver % 2 ^ 32)
    | none => Config.configWord off recovery
  else if off = 0x14 then s.pkg.corrected.setWidth 64
  else if off = 0x18 then s.pkg.uncorrected.setWidth 64
  else if 0x20 ≤ off ∧ off < 0x60 then BitVec.ofNat 64 (s.fab.myId / 2 ^ (8 * (off - 0x20)) % 2 ^ 32)
  else Config.configWord off recovery

/-- Configuration space of physical function 0: the identifiers and the SR-IOV total of the signed image, or those of the recovery identity, which
has no SR-IOV capability; the capability of R21; other places hold what the rules do not give (01_package.md R19, R21, R25; 05_host.md R115). -/
def State.configSpace (s : State) (recovery : Bool) (part : CfgPart) (off : Nat) : Word :=
  match part with
  | .dvsec => s.dvsec recovery off
  | .header =>
    if off ≠ 0 then Config.configWord (0x1000 + off) recovery
    else match recovery, s.pkg.image with
      | false, some g => BitVec.ofNat 64 (g.device.toNat * 2 ^ 16 + g.vendor.toNat)
      | _, _ => BitVec.ofNat 64 (0x0FFF * 2 ^ 16 + Config.horvin.toNat)
  | .sriov =>
    match recovery, s.pkg.image with
    | false, some g =>
      if off = 0x0C then BitVec.ofNat 64 (min 63 g.totalVfs * 2 ^ 16 + min 63 g.totalVfs) else Config.configWord (0x2000 + off) false
    | _, _ => 0
  | .other => Config.configWord (0x3000 + off) recovery

/-- CONFIG_REQUEST: retry status, the recovery identity, or the signed configuration (01_package.md R19, R21). -/
def execConfigRequest (elapsed100ms : Bool) (place : CfgPlace) (s : State) : Host.Outcome State Fault Refusal :=
  .next (if !s.pkg.pwrgood || s.pkg.perst then s
    else if !elapsed100ms || !s.pkg.imgEnded then s.emit .cfgRetry
    else if s.pkg.imgLoaded then s.emit (.cfgSigned place.part place.off (s.configSpace false place.part place.off))
    else s.emit (.cfgRecovery place.part place.off (s.configSpace true place.part place.off)))

/-! ## Power and temperature (01_package.md R13, R15) -/

/-- The cores of a die. -/
def dieCores (die : Nat) : List Nat := (List.range 512).map (die * 512 + ·)

/-- CURRENT_GOVERNOR_SAMPLE: the governor inserts bubbles into the rotation of the die's cores (01_package.md R13). -/
def execCurrentGovernorSample (die : BitVec 3) (bubbles : Nat) (s : State) : Host.Outcome State Fault Refusal :=
  .next ((dieCores die.toNat).foldl (fun s n => s.putCore { s.core n with bubbles := (s.core n).bubbles + bubbles }) s)

/-- The dies of a mask. -/
def diesOf (m : BitVec 8) : List Nat := (List.range 8).filter m.getLsbD

/-- A machine check on every core of a die; a core without harts has nothing to end. -/
def State.mcheckDie (s : State) (die : Nat) : State :=
  ((s.allHarts.map (·.core)).dedup.filter fun n => n / 512 == die).foldl (State.mcheckCore (mcheckVal 7 0)) s

/-- VCORE_DROOP: a machine check on every core of the die, or FAULT when several dies droop (01_package.md R13, R29). -/
def execVcoreDroop (dies : BitVec 8) (s : State) : Host.Outcome State Fault Refusal :=
  .next (match diesOf dies with
    | [] => s
    | [d] => s.mcheckDie d
    | _ => s.enterFault 0x41)

/-- THERMAL_SAMPLE: at 100 °C the issue rate of the die halves until it is below 95 °C; at 115 °C FAULT (01_package.md R15). -/
def execThermalSample (die : BitVec 3) (degC : Nat) (s : State) : Host.Outcome State Fault Refusal :=
  let i : Fin 8 := ⟨die.toNat, die.isLt⟩
  let bit : BitVec 8 := BitVec.ofNat 8 (2 ^ die.toNat)
  let hv := if 100 ≤ degC then s.pkg.halved ||| bit else if degC < 95 then s.pkg.halved &&& ~~~bit else s.pkg.halved
  let s1 : State := { s with pkg := { s.pkg with temp := s.pkg.temp.set i degC, halved := hv } }
  .next (if 115 ≤ degC then s1.enterFault 0x40 else s1)

/-- FIRMWARE_WATCHDOG (01_package.md R29). -/
def execFirmwareWatchdog (s : State) : Host.Outcome State Fault Refusal := .next (s.enterFault 0x42)

/-! ## Soft errors (01_package.md R26 to R28) -/

/-- Add one to a saturating counter. -/
def satInc (n : BitVec 32) : BitVec 32 := if n = 0xFFFFFFFF#32 then n else n + 1

/-- A corrected error is counted, and the core it happened on counts the event (07_core.md R208). -/
def State.noteCorrected (s : State) (core : Option Nat) : State :=
  let s1 : State := { s with pkg := { s.pkg with corrected := satInc s.pkg.corrected } }
  match core with
  | none => s1
  | some n => s1.putCore ((s1.core n).count 0x10 1)

/-- An uncorrectable error poisons a scratchpad word or an HBM line; in state that cannot carry poison it is a machine check. -/
def State.noteUncorrected (s : State) (t : ScrubTarget) : State :=
  let s1 : State := { s with pkg := { s.pkg with uncorrected := satInc s.pkg.uncorrected } }
  match t with
  | .spad core off => { s1 with mem := { s1.mem with spoison := setIns s1.mem.spoison (spadKey core off / 8) } }
  | .line pa => { s1 with mem := { s1.mem with hpoison := setIns s1.mem.hpoison (lineOf pa) } }
  | .coreState core kind slot => s1.mcheckCore (mcheckVal kind slot) core

/-- The place exists. -/
def ScrubTarget.exists_ : ScrubTarget → Bool
  | .spad core off => decide (core < 4096) && decide (off < spadSize)
  | .line pa => decide (pa < paLimit)
  | .coreState core _ _ => decide (core < 4096)

/-- The core of a place. -/
def ScrubTarget.core? : ScrubTarget → Option Nat
  | .spad core _ => some core
  | .line _ => none
  | .coreState core _ _ => some core

/-- PATROL_SCRUB: what the scrubber, or an access to an array, finds (01_package.md R26 to R28). -/
def execPatrolScrub (target : ScrubTarget) (found : EccOutcome) (s : State) : Host.Outcome State Fault Refusal :=
  .next (if !ScrubTarget.exists_ target then s
    else match found with
      | .clean => s
      | .corrected => s.noteCorrected (ScrubTarget.core? target)
      | .uncorrectable => s.noteUncorrected target)

/-! ## Management (05_host.md R134) -/

/-- PLDM_MONITOR: temperatures, rail currents and power, BOOTSTAT and the soft-error counts. -/
def execPldmMonitor (s : State) : Host.Outcome State Fault Refusal :=
  .next (if s.pkg.pwrgood then
    let (n, s1) := s.draw
    s1.emit (.pldm s.pkg.bootstat s.pkg.corrected s.pkg.uncorrected s.pkg.temp.toList (Config.rails n))
  else s)

/-- PLDM_FIRMWARE_UPDATE: a flash slot takes an image, which counts from the next package reset on (01_package.md R23). -/
def execPldmFirmwareUpdate (slotB : Bool) (img : FlashImage) (s : State) : Host.Outcome State Fault Refusal :=
  .next (if !s.pkg.pwrgood then s
    else if slotB then { s with pkg := { s.pkg with slotB := some img } } else { s with pkg := { s.pkg with slotA := some img } })

/-- CORE_RESET: the monitor resets a core, which revokes every endpoint of it (03_routes.md R76). -/
def execCoreReset (core : Nat) (s : State) : Host.Outcome State Fault Refusal :=
  .next ((s.hst.launches.filter (·.cores.contains core)).foldl (fun s l => (s.revokeCore core l.id).2) s)

end Sys2Proof.Machine
end

