-- ==== Sys2Proof/Machine/Branch.lean ====
section
/-! DEFINITION. Branches and jumps (13_isa_scalar.md R336). -/

set_option Elab.async false

namespace Sys2Proof.Machine

/-- A B-form branch: the target is `PC + 4 x Sext(IMM, 12)` (12_encoding.md R315). -/
def branchIf (taken : Bool) (i : BitVec 12) (s : State) : Host.Outcome State Fault Refusal :=
  finishAt (if taken then s.h.pc + 4 * imm12 i else s.h.pc + 4) (.ok s)

/-- BEQ (13_isa_scalar.md R336). -/
def execBeq (a b : Reg) (i : BitVec 12) (s : State) : Host.Outcome State Fault Refusal :=
  branchIf (s.x a == s.x b) i s

/-- BNE (13_isa_scalar.md R336). -/
def execBne (a b : Reg) (i : BitVec 12) (s : State) : Host.Outcome State Fault Refusal :=
  branchIf (s.x a != s.x b) i s

/-- BLT (13_isa_scalar.md R336). -/
def execBlt (a b : Reg) (i : BitVec 12) (s : State) : Host.Outcome State Fault Refusal :=
  branchIf ((s.x a).slt (s.x b)) i s

/-- BGE (13_isa_scalar.md R336). -/
def execBge (a b : Reg) (i : BitVec 12) (s : State) : Host.Outcome State Fault Refusal :=
  branchIf (!(s.x a).slt (s.x b)) i s

/-- BLTU (13_isa_scalar.md R336). -/
def execBltu (a b : Reg) (i : BitVec 12) (s : State) : Host.Outcome State Fault Refusal :=
  branchIf ((s.x a).ult (s.x b)) i s

/-- BGEU (13_isa_scalar.md R336). -/
def execBgeu (a b : Reg) (i : BitVec 12) (s : State) : Host.Outcome State Fault Refusal :=
  branchIf (!(s.x a).ult (s.x b)) i s

/-- JAL (13_isa_scalar.md R336). -/
def execJal (d : Reg) (i : BitVec 20) (s : State) : Host.Outcome State Fault Refusal :=
  finishAt (s.h.pc + 4 * i.signExtend 64) (.ok (s.setX d (s.h.pc + 4)))

/-- JALR; MISALIGN when the target is not a multiple of 4 (13_isa_scalar.md R336). -/
def execJalr (d a : Reg) (i : BitVec 12) (s : State) : Host.Outcome State Fault Refusal :=
  let t := s.x a + imm12 i
  if t.toNat % 4 ≠ 0 then finish (.trap ⟨causeMisalign, t⟩ s) else finishAt t (.ok (s.setX d (s.h.pc + 4)))

end Sys2Proof.Machine
end

