-- ==== Sys2Proof/Machine/Copy.lean ====
section
/-! DEFINITION. The copy engine at work: packets, local pieces, sync counts and COPYDONE
(07_core.md R201 to R203; 15_isa_vmem.md R400, R401; 01_package.md R27; 09_ordering.md R255, R261). -/

set_option Elab.async false

namespace Sys2Proof.Machine

/-! ## Places of a command's bytes -/

/-- The layout of a command. -/
def CopyCmd.shape (k : CopyCmd) : CopyShape := ⟨k.extents, k.strides, k.total⟩

/-- Bytes of the next packet: at most 256, and contiguous in the window of a remote side. -/
def CopyCmd.packetLen (k : CopyCmd) : Nat :=
  let n := min 256 (k.total - k.next)
  if (k.srem && !k.ldst) || (k.drem && k.ldst) then min n (rowRest k.shape k.next) else n

/-- The pieces of one side for packed bytes `at_` to `at_ + n - 1`. -/
def CopyCmd.pieces (k : CopyCmd) (dest : Bool) (at_ n : Nat) : List (Nat × Nat) :=
  let c := { k.shape with total := at_ + n }
  if dest then sidePieces k.dst k.ldst c (n + 1) at_ else sidePieces k.src (!k.ldst) c (n + 1) at_

/-- Where an address of a command's local side lies: its pinned page, or the window of the cluster or of the hart's own area. -/
def State.engineLoc (s : State) (k : CopyCmd) (va : Nat) : Option Loc :=
  if va < 0x800000000000 then
    (k.pins.find? fun p => decide (p.va ≤ va) && decide (va < p.va + p.size)).map fun p => .hbm (p.pa + (va - p.va)) p.key
  else if clusterBase ≤ va && va < clusterBase + 0xA000000 then
    some (.spad (s.c.id / 128 * 128 + (va - clusterBase) / spadSize) ((va - clusterBase) % spadSize))
  else (s.launch? k.launch).map fun l =>
    .spad s.c.id (l.rbase + shapeSpres l.words + (k.slot.toNat - l.firstSlot.toNat) * shapeOwn l.words + (va - ownBase))

/-- Read the local pieces of a packet: its bytes, or none on poison. -/
def State.readPieces (s : State) (k : CopyCmd) : List (Nat × Nat) → Option (List Byte)
  | [] => some []
  | (a, n) :: l => match (s.engineLoc k a).bind fun q => s.readLoc q n with
    | none => none
    | some v => (s.readPieces k l).map (bytesOf v n ++ ·)

/-- Write the local pieces of a packet; false when a poisoned word or line would be written only in part. -/
def State.writePieces (s : State) (k : CopyCmd) : List (Nat × Nat) → List Byte → State × Bool
  | [], _ => (s, true)
  | (a, n) :: l, d =>
    match (s.engineLoc k a).bind fun q => s.writeLoc q n (dataNat (d.take n)) with
    | some s1 => s1.writePieces k l (d.drop n)
    | none => ((s.writePieces k l (d.drop n)).1, false)

/-- The lines of local pieces that do not read are poisoned from then on (08_memory.md R233). -/
def State.spoilPieces (s : State) (k : CopyCmd) (l : List (Nat × Nat)) : State :=
  l.foldl (fun s a => match s.engineLoc k a.1 with
    | none => s
    | some q => s.spoil q a.2) s

/-- Leave the local pieces of a packet poisoned. -/
def State.poisonPieces (s : State) (k : CopyCmd) (l : List (Nat × Nat)) : State :=
  l.foldl (fun s a => match s.engineLoc k a.1 with
    | none => s
    | some q => s.poisonLoc q a.2) s

/-! ## Commands -/

/-- Change a command of the core in focus. -/
def State.mapCopy (s : State) (id : BitVec 32) (f : CopyCmd → CopyCmd) : State :=
  { s with c := { s.c with copies := s.c.copies.map fun k => if k.id == id then f k else k } }

/-- A part of a command has failed. -/
def CopyCmd.failed (k : CopyCmd) (at_ st : Nat) : CopyCmd := { k with failures := (at_, BitVec.ofNat 4 st) :: k.failures }

/-- A remote sync word still waits for its sync-add. -/
def CopyCmd.owesSync (k : CopyCmd) : Bool := k.syncRemote.isSome && k.failures.isEmpty && !k.syncSent

/-- Every packet has gone out, or none may follow. -/
def CopyCmd.allSent (k : CopyCmd) : Bool := decide (k.total ≤ k.next) || !k.failures.isEmpty

/-- The command is complete. -/
def CopyCmd.complete (k : CopyCmd) : Bool := k.malformed || (decide (k.outst = 0) && k.allSent && !k.owesSync)

/-- The longest prefix that the finished parts cover. -/
def prefixDone (l : List (Nat × Nat)) : Nat → Nat → Nat
  | 0, c => c
  | n + 1, c => match l.find? (·.1 == c) with
    | none => c
    | some x => prefixDone l n (c + x.2)

/-- STATUS and DONE of a completed command. -/
def CopyCmd.outcome (k : CopyCmd) : Nat × Nat :=
  if k.malformed then (stMalformed, 0)
  else
    let first := k.failures.foldl (fun a b => match a with
      | none => some b
      | some x => some (if b.1 ≤ x.1 then b else x)) (none : Option (Nat × BitVec 4))
    (match first with
      | none => (0, k.total)
      | some x => (x.2.toNat, prefixDone k.done k.done.length 0))

/-- COPYDONE (07_core.md R201). -/
def CopyCmd.message (k : CopyCmd) : Msg :=
  let (st, d) := k.outcome
  BitVec.ofNat 128 (0x30 + st * 2 ^ 8 + k.id.toNat * 2 ^ 32 + d * 2 ^ 64)

/-- A command that is complete leaves the engine, and its COPYDONE goes to the mailbox. -/
def State.settleCopy (s : State) (id : BitVec 32) : State :=
  match s.c.copies.find? fun k => k.id == id && k.complete with
  | none => s
  | some k =>
    let s1 := { (s.count 0x0F 1) with c := { (s.c.count 0x0F 1) with copies := s.c.copies.filter fun j => j.id != id } }
    s1.mailLocal s.c.id k.slot k.launch k.message

/-- A local sync word counts bytes that have been performed (09_ordering.md R261). -/
def State.countLocal (s : State) (k : CopyCmd) (at_ n : Nat) : State :=
  match k.sync with
  | some (.spad core off) => (match s.syncEvent core off fun w => w.add n with
    | some (_, s1) => s1
    | none => s.mapCopy k.id (·.failed at_ stPoison))
  | _ => s

/-- Data for a local destination: written, counted and finished; or left poisoned. -/
def State.landLocal (s : State) (k : CopyCmd) (at_ n : Nat) (d : Option (List Byte)) : State :=
  let ps := k.pieces true at_ n
  match d with
  | none => (s.poisonPieces k ps).mapCopy k.id (·.failed at_ stPoison)
  | some b =>
    let (s1, ok) := s.writePieces k ps b
    if ok then (s1.mapCopy k.id fun k => { k with done := (at_, n) :: k.done }).countLocal k at_ n
    else s1.mapCopy k.id (·.failed at_ stPoison)

/-! ## Packets (07_core.md R203) -/

/-- The gap of the route register that a command is charged to has passed; a command between local places has none. -/
def State.copyGapPassed (s : State) (k : CopyCmd) : Bool :=
  if !k.srem && !k.drem then true
  else match s.findHart s.c.id k.slot k.launch with
    | none => s.replyRoom s.c.id
    | some h => (h.gapOf (if k.srem then k.srt else k.drt)).passed s.c.cycle && s.replyRoom s.c.id

/-- Note an injection on a route register of a hart of the core in focus. -/
def State.chargeGap (s : State) (slot : BitVec 3) (launch : BitVec 32) (t : BitVec 3) : State :=
  match s.findHart s.c.id slot launch with
  | none => s
  | some h => s.putHart (h.setGap t { h.gapOf t with last := some s.c.cycle })

/-- The push has released: no earlier posted access, and no vector access in the queue before it, of the pushing hart that the command's tier covers is
outstanding (09_ordering.md R255). -/
def State.released? (s : State) (slot : BitVec 3) (launch : BitVec 32) (tier : Tier) (p : PushPoint) : Bool :=
  !(s.c.reqs.any fun r => r.kind == .posted && r.slot == slot && r.launch == launch && decide (r.tier.num ≤ tier.num) && decide (r.injected ≤ p.cycle)) &&
    (match s.findHart s.c.id slot launch with
      | none => true
      | some h => !(h.vec.vq.any fun e => decide (e.serial < p.vq) && (e.streams || e.tiers.any fun t => decide (t ≤ tier.num))))

/-- A command may act now. -/
def State.copyReady (s : State) (k : CopyCmd) : Bool :=
  k.malformed || (s.released? k.slot k.launch k.tier k.pushed &&
    ((!k.allSent && s.copyGapPassed k) ||
      (k.allSent && k.owesSync && decide (k.outst = 0) && s.copyGapPassed k && decide (s.engAtomics k.slot < 16))))

/-- The next packet of a command: moved locally, or sent as a GET or a PUT. -/
def State.copyStep (s : State) (k : CopyCmd) : State :=
  let n := k.packetLen
  let s1 := s.mapCopy k.id fun k => { k with next := k.next + n }
  let send (s : State) (t : BitVec 3) (rt : RouteVal) (op base : Nat) (laid : Bool) (d : List Byte) (kind : ReqKind) : State :=
    ((s.send ⟨k.slot, k.launch, t, rt, op, sideAddr base laid k.shape k.next, n, d, 0, false, 0, kind, false, false⟩).chargeGap k.slot k.launch t).mapCopy
      k.id fun k => { k with outst := k.outst + 1 }
  if k.srem then send s1 k.srt k.sroute 8 k.src (!k.ldst) [] (.copyGet k.id k.next n)
  else
    let d := s.readPieces k (k.pieces false k.next n)
    let s1 := if d.isNone then s1.spoilPieces k (k.pieces false k.next n) else s1
    if k.drem then
      (match d with
        | none => s1.mapCopy k.id (·.failed k.next stPoison)
        | some b => send s1 k.drt k.droute 7 k.dst k.ldst b (.copyPut k.id k.next n))
    else s1.landLocal k k.next n d

/-- The sync-add of a command whose writes have all been acknowledged (15_isa_vmem.md R400). -/
def State.copySync (s : State) (k : CopyCmd) (off : Nat) : State :=
  let i : Fin 8 := ⟨k.slot.toNat, k.slot.isLt⟩
  let q := s.c.engAseq.get i
  let s1 := { s with c := { s.c with engAseq := s.c.engAseq.set i (q + 1) } }
  let s2 := s1.send ⟨k.slot, k.launch, k.drt, k.droute, 4, off, 16, atomicPayload 10 8 0 (k.total % 2 ^ 32), q, true, 0, .engSync k.id, false, false⟩
  (s2.chargeGap k.slot k.launch k.drt).mapCopy k.id fun k => { k with syncSent := true, outst := k.outst + 1 }

/-- COPY_PACKET: the first command in turn that may act does so, and goes to the end of the round. -/
def State.copyPacket (s : State) (core : Nat) : State :=
  let s := s.focusCore core
  match s.c.copies.find? s.copyReady with
  | none => s
  | some k =>
    let s1 : State := { s with c := { s.c with copies := (s.c.copies.filter fun (j : CopyCmd) => j.id != k.id) ++ [k] } }
    let s2 := if k.malformed then s1
      else if k.allSent then (match k.syncRemote with
        | none => s1
        | some off => s1.copySync k off)
      else s1.copyStep k
    s2.settleCopy k.id

/-- COPY_PACKET (07_core.md R203). -/
def execCopyPacket (core : Nat) (s : State) : Host.Outcome State Fault Refusal := .next (s.copyPacket core)

/-! ## Replies to the engine's packets -/

/-- A packet of a command has been answered; `f` says what the answer does. -/
def State.copyAnswer (s : State) (id : BitVec 32) (f : State → CopyCmd → State) : State :=
  match s.c.copies.find? (·.id == id) with
  | none => s
  | some k => ((f s k).mapCopy id fun k => { k with outst := k.outst - 1 }).settleCopy id

/-- A PUT was acknowledged or refused. -/
def State.copyPutDone (s : State) (id : BitVec 32) (at_ n st : Nat) : State :=
  s.copyAnswer id fun s k => s.mapCopy k.id fun k => if st = 0 then { k with done := (at_, n) :: k.done } else k.failed at_ st

/-- A GET returned its data, or was refused. Poisoned data leave the local destination poisoned. -/
def State.copyGetDone (s : State) (id : BitVec 32) (at_ n st : Nat) (d : List Byte) : State :=
  s.copyAnswer id fun s k =>
    if st = 0 then s.landLocal k at_ n (some d) else if st = stPoison then s.landLocal k at_ n none else s.mapCopy k.id (·.failed at_ st)

/-- The sync-add was performed or refused. -/
def State.copySyncDone (s : State) (id : BitVec 32) (st : Nat) : State :=
  s.copyAnswer id fun s k => if st = 0 then s else s.mapCopy k.id fun k => k.failed k.total st

end Sys2Proof.Machine
end

