-- ==== Sys2Proof/Machine/HostRing.lean ====
section
/-! DEFINITION. The host interface: registers, the command and completion rings, IDE and SPDM sessions, TDISP (05_host.md). -/

set_option Elab.async false

namespace Sys2Proof.Machine

/-- A virtual function exists and answers: after READY, within the totals of the signed image (01_package.md R19, 05_host.md R115). -/
def State.vfOk (s : State) (fn : BitVec 6) : Bool :=
  s.isReady && fn != 0 && (match s.pkg.image with
    | none => false
    | some g => decide (fn.toNat ≤ min 63 g.totalVfs))

/-- A function answers secured messages: the physical function once configuration space is that of the image. -/
def State.fnOk (s : State) (fn : BitVec 6) : Bool := if fn = 0 then s.pkg.measured else s.vfOk fn || (s.pkg.fault && fn != 0)

/-- BAR0 memory requests are answered. In FAULT READY is 0, and so they are not. -/
def State.barOk (s : State) (fn : BitVec 6) : Bool := if fn = 0 then s.isReady else s.vfOk fn

/-! ## Registers of page 0 (05_host.md R116, R117) -/

/-- Replace the half of a 64-bit register that a write covers. -/
def putHalf (old : Word) (off : Nat) (wide : Bool) (val : Word) : Word :=
  if wide then val else if off % 8 = 0 then putFld old 0 32 val.toNat else putFld old 32 32 val.toNat

/-- A naturally aligned access of 4 or 8 bytes. -/
def alignedAccess (off : Nat) (wide : Bool) : Bool := if wide then off % 8 == 0 else off % 4 == 0

/-- A write to RINGBASE, RINGLOG, CPLBASE or CPLLOG in CONFIG_UNLOCKED. -/
def Func.putConfig (f : Func) (off : Nat) (wide : Bool) (val : Word) : Func :=
  if off < 0x08 then { f with ringbase := putHalf f.ringbase off wide val, head := 0, tail := 0 }
  else if off < 0x10 then { f with ringlog := (putHalf (f.ringlog.setWidth 64) off wide val).setWidth 5, head := 0, tail := 0 }
  else if off < 0x18 then { f with cplbase := putHalf f.cplbase off wide val, cpltail := 0, cplhead := 0 }
  else { f with cpllog := (putHalf (f.cpllog.setWidth 64) off wide val).setWidth 5, cpltail := 0, cplhead := 0 }

/-- A write to a locked register: performed in CONFIG_UNLOCKED, ignored in ERROR, else the interface moves to ERROR. -/
def State.configWrite (s : State) (f : Func) (off : Nat) (wide : Bool) (val : Word) : State :=
  match f.tstate with
  | .unlocked => s.putFunc (f.putConfig off wide val)
  | .error => s
  | _ => s.toError f none true

/-- RING_CONFIG_WRITE (05_host.md R117). -/
def execRingConfigWrite (fn : BitVec 6) (off : BitVec 14) (wide : Bool) (val : Word) (s : State) : Host.Outcome State Fault Refusal :=
  .next (if !s.vfOk fn || !alignedAccess off.toNat wide then s.emit (.unsupported fn)
    else if 0x20 ≤ off.toNat then s
    else s.configWrite (s.func fn) off.toNat wide val)

/-- A write to TAIL: a ring halted with KEYLIMIT resumes when the key has been updated (05_host.md R130); HCAUSE is then 0, as for no halt
(DESIGN CHOICE, log entry 96). -/
def Func.putTail (f : Func) (val : BitVec 32) : Func :=
  if f.rst = 2 && f.resumeOk then { f with tail := val, rst := 1, hcause := 0, resumeOk := false } else { f with tail := val }

/-- TAIL accepts writes in every state but ERROR. -/
def State.writeTail (s : State) (fn : BitVec 6) (val : BitVec 32) : State :=
  if (s.func fn).tstate = .error then s else s.putFunc ((s.func fn).putTail val)

/-- CPLHEAD accepts writes in every state but ERROR. -/
def State.writeCplhead (s : State) (fn : BitVec 6) (val : BitVec 32) : State :=
  if (s.func fn).tstate = .error then s else s.putFunc { s.func fn with cplhead := val }

/-- TAIL_WRITE (05_host.md R128). -/
def execTailWrite (fn : BitVec 6) (val : BitVec 32) (s : State) : Host.Outcome State Fault Refusal :=
  .next (if s.vfOk fn then s.writeTail fn val else s.emit (.unsupported fn))

/-- CPLHEAD_WRITE (05_host.md R131). -/
def execCplheadWrite (fn : BitVec 6) (val : BitVec 32) (s : State) : Host.Outcome State Fault Refusal :=
  .next (if s.vfOk fn then s.writeCplhead fn val else s.emit (.unsupported fn))

/-- A write to page 0 of a virtual function. -/
def State.page0Write (s : State) (fn : BitVec 6) (off : Nat) (wide : Bool) (val : Word) : State :=
  if off < 0x20 then s.configWrite (s.func fn) off wide val
  else if off = 0x20 then s.writeTail fn (val.setWidth 32)
  else if off = 0x28 ∧ wide then s.writeCplhead fn (BitVec.ofNat 32 (val.toNat / 2 ^ 32))
  else if off = 0x2C then s.writeCplhead fn (val.setWidth 32)
  else s

/-- A write to a queue register: WEIGHT 0 is taken as 1 (06_execution.md R152). -/
def queueWrite (v : Word) : QueueReg := BitVec.ofNat 11 (if fldN v 0 8 = 0 then fldN v 0 11 + 1 else fldN v 0 11)

/-- A write to BAR0 of the physical function: the queue registers; what is not listed there is reserved. -/
def State.physWrite (s : State) (off : Nat) (wide : Bool) (val : Word) : State :=
  if 0x2000 ≤ off ∧ off < 0x2100 ∧ (wide ∨ off % 8 = 0) then
    let q : Fin 32 := ⟨off / 8 % 32, Nat.mod_lt _ (by decide)⟩
    { s with hst := { s.hst with queues := s.hst.queues.set q (queueWrite val) } }
  else s

/-- A write to page 1 of a virtual function: the MSI-X table of two vectors of 16 bytes (05_host.md R115). -/
def State.msixWrite (s : State) (fn : BitVec 6) (off : Nat) (wide : Bool) (val : Word) : State :=
  if 0x1000 ≤ off ∧ off < 0x1020 then
    let i : Fin 4 := ⟨off / 8 % 4, Nat.mod_lt _ (by decide)⟩
    let f := s.func fn
    s.putFunc { f with msixTab := f.msixTab.set i (putHalf (f.msixTab.get i) off wide val) }
  else s

/-- REGISTER_WRITE: a host write to BAR0 of a function (05_host.md R116, R117; 06_execution.md R152; 00_scope.md R5). -/
def execRegisterWrite (fn : BitVec 6) (off : BitVec 14) (wide : Bool) (val : Word) (s : State) : Host.Outcome State Fault Refusal :=
  .next (if !s.barOk fn || !alignedAccess off.toNat wide then s.emit (.unsupported fn)
    else if fn = 0 then s.physWrite off.toNat wide val
    else if off.toNat < 0x1000 then s.page0Write fn off.toNat wide val
    else s.msixWrite fn off.toNat wide val)

/-- TSTATE as a number. -/
def TState.num : TState → Nat
  | .unlocked => 0
  | .locked => 1
  | .run => 2
  | .error => 3

/-- RSTAT (05_host.md R116). -/
def Func.rstat (f : Func) : BitVec 32 :=
  BitVec.ofNat 32 (f.rst.toNat + 16 * f.hcause.toNat + 256 * f.tstate.num + if f.scrub then 1024 else 0)

/-- Two 32-bit registers side by side, the one at the lower offset in the low half. -/
def paired (lo hi : BitVec 32) : Word := BitVec.ofNat 64 (lo.toNat + 2 ^ 32 * hi.toNat)

/-- The 8 aligned bytes of page 0 and of the MSI-X pages of a virtual function at an offset (05_host.md R115, R116). Reserved places read as zero, and
so do the pending bits, for vectors are signalled at once. -/
def Func.read8 (f : Func) (off : Nat) : Word :=
  match off / 8 with
  | 0 => f.ringbase
  | 1 => f.ringlog.setWidth 64
  | 2 => f.cplbase
  | 3 => f.cpllog.setWidth 64
  | 4 => paired f.tail f.head
  | 5 => paired f.cpltail f.cplhead
  | 6 => paired f.rstat f.dupcnt
  | 7 => f.eseq
  | 8 => f.encl.setWidth 64
  | 0x200 => f.msixTab.get 0
  | 0x201 => f.msixTab.get 1
  | 0x202 => f.msixTab.get 2
  | 0x203 => f.msixTab.get 3
  | _ => 0

/-- The 8 aligned bytes of the physical function's BAR0 at an offset: the queue registers, and BSKMAP as 16 read-only bytes
(06_execution.md R152, 08_memory.md R217). -/
def State.physRead8 (s : State) (off : Nat) : Word :=
  if 0x2000 ≤ off ∧ off < 0x2100 then (s.hst.queues.get ⟨off / 8 % 32, Nat.mod_lt _ (by decide)⟩).setWidth 64
  else if 0x3000 ≤ off ∧ off < 0x3010 then
    BitVec.ofNat 64 ((match s.pkg.image with
      | none => 0
      | some g => g.bskmap.toNat) / 2 ^ (8 * (off / 8 * 8 - 0x3000)))
  else 0

/-- What a host read of BAR0 answers: the register, or the half of it that 4 bytes cover. -/
def State.barRead (s : State) (fn : BitVec 6) (off : Nat) (wide : Bool) : Word :=
  let w := if fn = 0 then s.physRead8 off else (s.func fn).read8 off
  if wide then w else BitVec.ofNat 64 (w.toNat / 2 ^ (8 * (off % 8)) % 2 ^ 32)

/-- A host read of 4 or 8 bytes of BAR0: answered in every interface state; an access that is not naturally aligned is unsupported
(05_host.md R116, R117). -/
def State.hostRead (s : State) (fn : BitVec 6) (off : Nat) (wide : Bool) : State :=
  s.emit (if !s.barOk fn || !alignedAccess off wide then .unsupported fn else .readValue fn off (s.barRead fn off wide))

/-! ## Events that take a locked interface to ERROR (05_host.md R118) -/

/-- CONFIG_SPACE_CHANGE: a new BAR0 address, or, with none, a change of Memory Space Enable or Bus Master Enable. The change may have disabled
MSI-X. -/
def execConfigSpaceChange (change : SpaceChange) (s : State) : Host.Outcome State Fault Refusal :=
  .next (if !s.vfOk change.fn then s
    else
      let f := { s.func change.fn with bar := change.bar.getD (s.func change.fn).bar }
      let s1 := s.putFunc f
      if !f.isLocked then s1
      else
        let r := s1.draw
        r.2.toError f none (!Config.msixOff r.1))

/-- The registers of a function after function-level reset; state, halt cause, scrub and enclave follow R118. -/
def Func.flr (f : Func) : Func :=
  { f with
      ringbase := 0, ringlog := 0, cplbase := 0, cpllog := 0, tail := 0, head := 0, cpltail := 0, cplhead := 0, dupcnt := 0, eseq := 0
      msixTab := Vector.replicate 4 0
      rst := if f.tstate = .unlocked then 0 else f.rst, hcause := if f.tstate = .unlocked then 0 else f.hcause, resumeOk := false }

/-- FUNCTION_LEVEL_RESET: MSI-X is disabled by it. -/
def execFunctionLevelReset (fn : BitVec 6) (s : State) : Host.Outcome State Fault Refusal :=
  .next (if fn = 0 || !s.vfOk fn then s
    else
      let s1 := s.toError (s.func fn) none false
      s1.putFunc (s1.func fn).flr)

/-- IDE_ERROR. -/
def execIdeError (fn : BitVec 6) (s : State) : Host.Outcome State Fault Refusal := .next (s.toError (s.func fn) none true)

/-! ## The command ring (05_host.md R128 to R130) -/

/-- The ring of a function is being fetched: RUN, running, entries posted, fewer than 256 completions held. -/
def Func.fetches (f : Func) : Bool := f.tstate == .run && f.rst == 1 && f.head != f.tail && decide (f.held.length < 256)

/-- Host address of the entry at HEAD. -/
def Func.entryAddr (f : Func) : Word := f.ringbase + BitVec.ofNat 64 (96 * (f.head.toNat % 2 ^ f.ringlog.toNat))

/-- An entry that was fetched, against ESEQ (05_host.md R129). -/
def State.takeEntry (s : State) (f : Func) (e : RingEntry) (tagOk : Bool) : State :=
  if e.fn ≠ f.fn.setWidth 16 || !e.rsvZero then s.toError f (some 5) true
  else if e.seq < f.eseq then
    s.putFunc { f with dupcnt := if f.dupcnt = 0xFFFFFFFF#32 then f.dupcnt else f.dupcnt + 1, head := f.head + 1 }
  else if f.eseq = 0x100000000#64 then (s.putFunc { f with rst := 2, hcause := 3, resumeOk := false }).emit (.msix f.fn 1 true)
  else if f.eseq < e.seq then s.toError f (some 1) true
  else if !tagOk then s.toError f (some 2) true
  else
    let q : Queued := ⟨(List.range 8).map fun i => e.packet.getD i 0, f.encl, .ring f.fn e.seq, ⟨0, 0⟩, s.hst.cycle⟩
    let s1 := s.putFunc { f with head := f.head + 1, eseq := f.eseq + 1 }
    { s1 with hst := { s1.hst with inbox := s1.hst.inbox ++ [q] } }

/-- RING_ENTRY: the entry at HEAD is fetched, on the function's stream with the TEE bit set (05_host.md R121, R129). The host outside chooses the
entry; what its unsealing gives is the packet and `tagOk` (log entry 97). -/
def execRingEntry (fn : BitVec 6) (e : RingEntry) (tagOk : Bool) (s : State) : Host.Outcome State Fault Refusal :=
  let f := s.func fn
  .next (if !f.fetches then s else (s.emit (.ringFetch fn true f.entryAddr)).takeEntry f e tagOk)

/-- DMA_ERROR: the ring halts with FETCH (05_host.md R121). -/
def execDmaError (fn : BitVec 6) (s : State) : Host.Outcome State Fault Refusal :=
  .next (if (s.func fn).tstate = .run then s.toError (s.func fn) (some 4) true else s)

/-! ## The completion ring (05_host.md R131) -/

/-- The first completion after an update of the responder's key starts CSEQ again under the other phase. -/
def Func.freshKey (f : Func) : Func := if f.kphFlip then { f with cseq := 0, kph := !f.kph, kphFlip := false, rspKeys := f.rspKeys + 1 } else f

/-- The 32-byte body of a completion (05_host.md R131). -/
def Completion.bytes (b : Completion) : List Byte :=
  bytesOf b.ctag.toNat 4 ++ bytesOf b.launch.toNat 4 ++ [b.lstat, b.cause] ++ List.replicate 6 0 ++ bytesOf b.pseq.toNat 8 ++ List.replicate 8 0

/-- The nonce of a ring entry: IV exclusive-or V, with a number in the low 64 bits and a mark in the top byte (05_host.md R128, R131). -/
def ringNonce (iv : BitVec 96) (mark : Nat) (n : Word) : BitVec 96 := iv ^^^ BitVec.ofNat 96 (mark * 2 ^ 88 + n.toNat)

/-- The 64-byte completion entry: CSEQ and KPH in the clear as additional data, then the sealed body and the tag (05_host.md R131). -/
def Func.completionEntry (f : Func) (b : Completion) : List Byte :=
  let head := bytesOf f.cseq.toNat 8 ++ [if f.kph then 1 else 0] ++ List.replicate 7 0
  head ++ Config.gcmSeal (Config.sessionKey f.sid true f.rspKeys) (ringNonce (Config.sessionIv f.sid true f.rspKeys) 0x02 f.cseq) head b.bytes

/-- COMPLETION_WRITE: an entry at CPLTAIL while the ring has room; at CSEQ 2^32 completions are held until a key update. -/
def execCompletionWrite (fn : BitVec 6) (s : State) : Host.Outcome State Fault Refusal :=
  let f := (s.func fn).freshKey
  .next (match f.held with
    | [] => s
    | b :: r =>
      if f.tstate ≠ .run || !(decide ((f.cpltail - f.cplhead).toNat < 2 ^ f.cpllog.toNat)) || f.cseq = 0x100000000#64 then s
      else
        let addr := f.cplbase + BitVec.ofNat 64 (64 * (f.cpltail.toNat % 2 ^ f.cpllog.toNat))
        ((s.putFunc { f with held := r, cpltail := f.cpltail + 1, cseq := f.cseq + 1 }).emit (.completion fn true addr (f.completionEntry b))).emit (.msix fn 0 true))

/-! ## Sessions (05_host.md R114, R122, R125, R126) -/

/-- The bound session of a function is open: it has not gone 2 x HeartbeatPeriod x 10^9 Sluice cycles without a message that verifies
(05_host.md R125). A message of the deadline's own cycle still finds it open. -/
def State.sessionOpen (s : State) (fn : BitVec 6) : Bool :=
  (s.func fn).session && decide (s.hst.cycle ≤ (s.func fn).heard + 2 * (s.func fn).hb * 10 ^ 9)

/-- A secured message of the session has verified: the timer starts again. -/
def State.heardFrom (s : State) (fn : BitVec 6) : State := s.putFunc { s.func fn with heard := s.hst.cycle }

/-- The bound session of a function ends. A locked interface moves to ERROR and its IDE stream stops; elsewhere nothing follows
(05_host.md R118, R126). -/
def State.endSession (s : State) (fn : BitVec 6) : State :=
  let f := s.func fn
  if !f.session then s
  else if f.isLocked then
    let s1 := s.toError f none true
    s1.putFunc { s1.func fn with session := false, ks0 := ⟨none, false⟩, ks1 := ⟨none, false⟩ }
  else s.putFunc { f with session := false }

/-- HeartbeatPeriod of the signed image, 1 to 60 s. -/
def State.hbPeriod (s : State) : Nat :=
  match s.pkg.image with
  | none => 1
  | some g => max 1 (min 60 g.hbPeriod)

/-- KEY_EXCHANGE: a function without a session gets one, with fresh keys; the response carries the HeartbeatPeriod (05_host.md R122, R125). -/
def execKeyExchange (fn : BitVec 6) (ok : Bool) (s : State) : Host.Outcome State Fault Refusal :=
  .next (if !s.fnOk fn || !ok || s.sessionOpen fn then s.emit (.spdmError fn .other)
    else
      let s1 := s.endSession fn
      let (n, s2) := s1.draw
      (s2.putFunc { s2.func fn with
        session := true, ranBefore := false, kph := false, kphFlip := false, cseq := 0, dupcnt := 0, resumeOk := false, sid := n, reqKeys := 0
        rspKeys := 0, hb := s.hbPeriod, heard := s.hst.cycle }).emit (.keyExchangeRsp fn s.hbPeriod))

/-- END_SESSION. -/
def execEndSession (fn : BitVec 6) (s : State) : Host.Outcome State Fault Refusal :=
  .next (if s.sessionOpen fn then (s.endSession fn).emit (.spdmOk fn 2) else s.emit (.spdmError fn .other))

/-- SESSION_TIMEOUT: the deadline of the session has passed. -/
def execSessionTimeout (fn : BitVec 6) (s : State) : Host.Outcome State Fault Refusal :=
  .next (if s.sessionOpen fn then s else s.endSession fn)

/-- HEARTBEAT: a secured message that verifies restarts the timer; one that fails, whatever it was to be, ends the session
(05_host.md R122, R125). -/
def execHeartbeat (fn : BitVec 6) (verified : Bool) (s : State) : Host.Outcome State Fault Refusal :=
  .next (if !s.sessionOpen fn then s.emit (.spdmError fn .other)
    else if verified then (s.heardFrom fn).emit (.spdmOk fn 3)
    else s.endSession fn)

/-- A KEY_UPDATE of the requester's key is refused while entries under the old key may be unconsumed (05_host.md R130). -/
def Func.updateBusy (f : Func) : Bool := f.head != f.tail && !(f.rst == 2 && f.hcause == 3)

/-- The keys of a function after a KEY_UPDATE. -/
def Func.update (f : Func) (req rsp : Bool) : Func :=
  let g := if req then { f with eseq := 0, dupcnt := 0, reqKeys := f.reqKeys + 1, resumeOk := f.tstate == .run && f.rst == 2 && f.hcause == 3 } else f
  if rsp then { g with kphFlip := true } else g

/-- KEY_UPDATE (05_host.md R130, R131). -/
def execKeyUpdate (fn : BitVec 6) (reqToRsp rspToReq : Bool) (s : State) : Host.Outcome State Fault Refusal :=
  let f := { s.func fn with heard := s.hst.cycle }
  .next (if !s.sessionOpen fn then s.emit (.spdmError fn .other)
    else if reqToRsp && f.updateBusy then (s.putFunc f).emit (.spdmError fn .busy)
    else (s.putFunc (f.update reqToRsp rspToReq)).emit (.spdmOk fn 4))

/-! ## Measurements (05_host.md R122, R123) -/

/-- The 64 bytes of a SHA3-512 digest. -/
def digestBytes (b : List Byte) : List Byte := bytesOf (Config.sha3 b).toNat 64

/-- The signed configuration of an image as bytes. -/
def configBytes (g : FlashImage) : List Byte :=
  Config.configBytes ([g.totalVfs, g.bskmap.toNat, g.hbPeriod, g.ethFrames, g.vendor.toNat, g.device.toNat, g.ports.toNat, g.etherType.toNat] ++
    g.macs.map BitVec.toNat)

/-- Measurement blocks 1 to 10 of a running image: digests, the security version, and the debug state (05_host.md R123). -/
def measureOf (g : FlashImage) (i : Nat) : List Byte :=
  match i with
  | 1 => digestBytes Config.bootRom
  | 2 => digestBytes g.body
  | 3 => bytesOf (g.secver % 2 ^ 32) 4
  | 4 => digestBytes g.monitor
  | 5 => digestBytes g.wellhead
  | 6 => digestBytes g.sluice
  | 7 => digestBytes g.siphon
  | 8 => digestBytes (configBytes g)
  | 9 => digestBytes (Config.peerBytes g.peerDigests g.minPeerVer)
  | _ => [g.debug]

/-- Blocks 1 to 10 in index order. -/
def allMeasures (g : FlashImage) : List Byte := (List.range 10).flatMap fun i => measureOf g (i + 1)

/-- One MMIO range of the interface report: its first page, one page, its attribute and its number (05_host.md R120). -/
def reportRange (bar : Word) (i attr : Nat) : List Byte :=
  bytesOf ((bar.toNat + 0x1000 * i) / 0x1000) 8 ++ bytesOf 1 4 ++ bytesOf (attr + 2 ^ 16 * i) 4

/-- The 72 bytes of device-specific information (05_host.md R120). -/
def State.reportInfo (s : State) (f : Func) : List Byte :=
  [BitVec.ofNat 8 f.fn.toNat, 0, f.encl, BitVec.ofNat 8 (((s.enclave? f.encl).map fun e => e.keys.length).getD 0)] ++
    bytesOf (2 ^ f.ringlog.toNat) 4 ++ digestBytes ((s.pkg.image.map allMeasures).getD [])

/-- The interface report: DMA without PASID and no ATS (bit 1 of the first field alone), three ranges of TEE memory without updatable attributes, of
which the second is the MSI-X table and the third its pending bits, and the device-specific information (05_host.md R120). The layout around the
content of R120 is that of TDISP (PRESUMED, log entry 97). -/
def State.report (s : State) (f : Func) : List Byte :=
  bytesOf 0x0002 2 ++ List.replicate 10 0 ++ bytesOf 3 4 ++ reportRange f.bar 0 0 ++ reportRange f.bar 1 1 ++ reportRange f.bar 2 2 ++ bytesOf 72 4 ++
    s.reportInfo f

/-- A measurement block: its raw bytes, none for an index that is not reported. -/
def State.measure (s : State) (fn : BitVec 6) (i : Nat) : Option (List Byte) :=
  if !s.pkg.measured then none
  else if 1 ≤ i ∧ i ≤ 10 then s.pkg.image.map fun g => measureOf g i
  else if i = 16 ∧ fn ≠ 0 then
    let f := s.func fn
    some ([BitVec.ofNat 8 f.tstate.num, f.encl] ++ (if f.isLocked then digestBytes (s.report f) else List.replicate 64 0))
  else none

/-- The signature under the identity key, when one is asked for. -/
def signIf (signed : Bool) (b : List Byte) : Option (List Byte) := if signed then some (Config.sign b) else none

/-- GET_MEASUREMENTS (05_host.md R123). -/
def execGetMeasurements (fn : BitVec 6) (index : Byte) (signed : Bool) (s : State) : Host.Outcome State Fault Refusal :=
  .next (if !s.fnOk fn then s.emit (.spdmError fn .other)
    else match s.measure fn index.toNat with
      | none => s.emit (.spdmError fn .other)
      | some raw => s.emit (.measurement fn index raw (signIf signed raw)))

/-- GET_MEASUREMENTS over MCTP: indices 1 to 10 (05_host.md R134). -/
def State.mctpMeasurements (s : State) (index : Byte) (signed : Bool) : State :=
  match s.measure 0 index.toNat with
  | none => s
  | some raw => if s.pkg.pwrgood then s.emit (.mctpMeasurement index raw (signIf signed raw)) else s

/-- The certificates of slot 0: from Horvin's root to the identity certificate, which the flash holds (05_host.md R122). -/
def State.certChain (s : State) : List Byte := Config.rootChain ++ s.pkg.cert

/-- GET_CERTIFICATE: slot 0 alone is provisioned (05_host.md R122). -/
def execGetCertificate (fn : BitVec 6) (certSlot : Byte) (s : State) : Host.Outcome State Fault Refusal :=
  .next (if s.fnOk fn && certSlot == 0 then s.emit (.certificate fn s.certChain) else s.emit (.spdmError fn .other))

/-- CHALLENGE: a signature under the identity key over the digest of the nonce and the certificates (05_host.md R122). -/
def execChallenge (fn : BitVec 6) (nonce : BitVec 256) (s : State) : Host.Outcome State Fault Refusal :=
  .next (if s.fnOk fn then s.emit (.challengeAuth fn (Config.sign (digestBytes (bytesOf nonce.toNat 32 ++ s.certChain)))) else s.emit (.spdmError fn .other))

/-- What every function offers as an SPDM 1.4 responder (05_host.md R122). -/
def State.offer (s : State) (fn : BitVec 6) : State :=
  if s.fnOk fn then s.emit (.spdmOffer fn 0x14 [.cert, .chal, .measSig, .keyEx, .encrypt, .mac, .hbeat, .keyUpd]) else s

/-- The DOE mailbox of a function: data object types 0 discovery, 1 CMA/SPDM, 2 secured CMA/SPDM (05_host.md R114). -/
def State.doe (s : State) (fn : BitVec 6) (index : Nat) : State :=
  if s.fnOk fn then s.emit (.doeType fn index (if index < 3 then some index else none)) else s

/-- Cycles of the Sluice pass. -/
def State.sluiceCycles (s : State) (n : Nat) : State := { s with hst := { s.hst with cycle := s.hst.cycle + n } }

/-- A block on a drive is replaced by what someone else put there (04_storage.md R100). -/
def State.alterBlock (s : State) (b : DriveBlock) : State :=
  { s with sip := { s.sip with blocks := b :: s.sip.blocks.filter fun x => !(x.drive == b.drive && x.nsid == b.nsid && x.lba == b.lba) } }

/-- What the world outside asks of the package beside the rows of the table; nothing answers in a reset (01_package.md R17). -/
def State.ask (s : State) (t : Turn) : State :=
  if !s.pkg.pwrgood then s
  else match t with
    | .hostRead fn off wide => if s.pkg.perst then s else s.hostRead fn off.toNat wide
    | .doeDiscovery fn index => if s.pkg.perst then s else s.doe fn index
    | .spdmOffer fn => if s.pkg.perst then s else s.offer fn
    | .mctpMeasurements index signed => s.mctpMeasurements index signed
    | .sluiceCycles n => if s.pkg.perst then s else s.sluiceCycles n
    | .siphonCycles n => if s.pkg.perst then s else { s with sip := { s.sip with cycle := s.sip.cycle + n } }
    | .driveAlters d nsid lba data => s.alterBlock ⟨d, nsid, lba, data, none⟩
    | _ => s

/-! ## IDE keys and vendor messages (05_host.md R113, R114, R124) -/

/-- A message that needs the bound session: in it `f` acts on the state that has heard it, else UnexpectedRequest and no effect. -/
def State.inSession (s : State) (fn : BitVec 6) (secured : Bool) (f : State → Func → State) : State :=
  if secured && s.sessionOpen fn then f (s.heardFrom fn) ((s.heardFrom fn).func fn) else s.emit (.spdmError fn .unexpectedRequest)

/-- Change one key set of a function: of its selective stream, or of the link stream. -/
def Func.mapKeySet (f : Func) (x : StreamSet) (g : KeySet → KeySet) : Func :=
  match x.link, x.k with
  | false, false => { f with ks0 := g f.ks0 }
  | false, true => { f with ks1 := g f.ks1 }
  | true, false => { f with ls0 := g f.ls0 }
  | true, true => { f with ls1 := g f.ls1 }

/-- An IDE_KM message changes one key set. The link stream is that of the physical function (05_host.md R113, R114). -/
def State.ideKm (s : State) (fn : BitVec 6) (secured : Bool) (x : StreamSet) (ack : Nat) (g : KeySet → KeySet) : State :=
  s.inSession fn secured fun s f =>
    if x.link && fn != 0 then s.emit (.spdmError fn .unexpectedRequest) else (s.putFunc (f.mapKeySet x g)).emit (.ideAck fn ack)

/-- KEY_PROG. -/
def execKeyProg (fn : BitVec 6) (secured : Bool) (keySet : StreamSet) (key : BitVec 256) (s : State) : Host.Outcome State Fault Refusal :=
  .next (s.ideKm fn secured keySet 0 fun k => { k with key := some key })

/-- K_SET_GO: a programmed key set is used. The other set goes on until K_SET_STOP, and a set that was never programmed is acknowledged without
effect (DESIGN CHOICE, log entry 96). -/
def execKSetGo (fn : BitVec 6) (secured : Bool) (keySet : StreamSet) (s : State) : Host.Outcome State Fault Refusal :=
  .next (s.ideKm fn secured keySet 1 fun k => { k with going := k.key.isSome })

/-- K_SET_STOP. -/
def execKSetStop (fn : BitVec 6) (secured : Bool) (keySet : StreamSet) (s : State) : Host.Outcome State Fault Refusal :=
  .next (s.ideKm fn secured keySet 2 fun k => { k with going := false })

/-- ENCL_PARAM: recorded for the next LOCK (05_host.md R124). -/
def execEnclParam (fn : BitVec 6) (secured : Bool) (count : Nat) (storageKey : BitVec 256) (key0 : Bool) (s : State) : Host.Outcome State Fault Refusal :=
  .next (s.inSession fn secured fun s f =>
    if fn = 0 || f.tstate ≠ .unlocked || !(decide (1 ≤ count) && decide (count ≤ 8)) then s.emit (.spdmError fn .other)
    else (s.putFunc { f with param := some (count, storageKey, key0) }).emit (.spdmOk fn 6))

/-- ENCL_QUERY (05_host.md R124). -/
def execEnclQuery (fn : BitVec 6) (secured : Bool) (s : State) : Host.Outcome State Fault Refusal :=
  .next (s.inSession fn secured fun s f =>
    if fn = 0 then s.emit (.spdmError fn .other)
    else s.emit (.enclInfo fn f.encl (((s.enclave? f.encl).map (·.keys)).getD [])))

/-! ## TDISP (05_host.md R118 to R120) -/

/-- The first number from `n` on, wrapping from `lim` to `lo`, that is not in use. -/
def freeFrom (used : List Nat) (lo lim : Nat) : Nat → Nat → Nat
  | 0, n => n
  | fuel + 1, n =>
    let m := if n < lo ∨ lim ≤ n then lo else n
    if used.contains m then freeFrom used lo lim fuel (m + 1) else m

/-- Free key ids of the wanted count, from a starting point on, among 1 to 63. -/
def takeKeys (used : List Nat) : Nat → Nat → List Nat
  | 0, _ => []
  | n + 1, from_ =>
    let k := freeFrom used 1 64 64 from_
    k :: takeKeys (k :: used) n (k + 1)

/-- Key ids 1 to 63 in use. -/
def State.usedKeys (s : State) : List Nat := (s.hst.enclaves.flatMap (·.keys)).filter (· != 0)

/-- The window entries that the monitor installs for an enclave (08_memory.md R461). -/
def windowGuards (id : Byte) : List Guard :=
  [BitVec.ofNat 64 (0x17 + 1 * 2 ^ 5 + id.toNat * 2 ^ 13 + 28 * 2 ^ 21 + clusterBase / 2 ^ 12 * 2 ^ 28),
   BitVec.ofNat 64 (0x17 + 2 * 2 ^ 5 + id.toNat * 2 ^ 13 + 18 * 2 ^ 21 + ownBase / 2 ^ 12 * 2 ^ 28)]

/-- The region of an HBM guard entry: first address and length. -/
def Guard.region (g : Guard) : Nat × Nat :=
  let n := 2 ^ fldN g 21 6
  (fldN g 28 36 * 4096 / n * n, n)

/-- A grant as the monitor makes it for an enclave: for that enclave, under one of its key ids, and only of memory that no other enclave has.
An entry that is not such a grant is not valid (08_memory.md R216, R235). -/
def State.grantFor (s : State) (id : Byte) (keys : List Nat) (g : Guard) : Guard :=
  let k := keys.getD (fldN g 7 6 % max 1 keys.length) 0
  let g1 := BitVec.ofNat 64 ((putFld (putFld (putFld g 7 6 k) 13 8 id.toNat) 5 2 0).toNat - fldN g 27 1 * 2 ^ 27)
  let (lo, n) := Guard.region g1
  let ok := g.getLsbD 0 && decide (12 ≤ fldN g 21 6) && decide (lo + n ≤ paLimit) &&
    s.hst.assign.all fun a => a.2 == id || decide (a.1 * 2 ^ 21 + 2 ^ 21 ≤ lo) || decide (lo + n ≤ a.1 * 2 ^ 21)
  if ok then g1 else 0

/-- Give a region to an enclave: the 2 MiB granules that it touches are the enclave's, and those that come to it, as well as the region itself, are
zero under the key id of the grant (08_memory.md R216). -/
def State.giveRegion (s : State) (id : Byte) (g : Guard) : State :=
  if !g.getLsbD 0 then s
  else
    let (lo, n) := Guard.region g
    let gs := ((List.range ((lo + n - 1) / 2 ^ 21 - lo / 2 ^ 21 + 1)).map fun i => (lo / 2 ^ 21 + i, id)).filter fun a => !s.hst.assign.contains a
    let s1 := (gs.foldl (fun s a => s.zeroHbm (a.1 * 2 ^ 21) (2 ^ 21) (fldN g 7 6)) s).zeroHbm lo n (fldN g 7 6)
    { s1 with hst := { s1.hst with assign := s1.hst.assign ++ gs } }

/-- Choose the grants of a new enclave one after the other. -/
def State.giveAll (s : State) (id : Byte) (keys : List Nat) (n : Nat) : List Nat → State × List Guard
  | [] => (s, [])
  | i :: r =>
    let g := s.grantFor id keys (Config.grant n i)
    let (s1, gs) := (s.giveRegion id g).giveAll id keys n r
    (s1, g :: gs)

/-- New memory keys for key ids. -/
def State.newKeys (s : State) (keys : List Nat) : State :=
  keys.foldl (fun s k =>
    { s with hst := { s.hst with
        keySerial := Vector.ofFn fun i : Fin 64 => if i.val = k then s.hst.nextSerial else s.hst.keySerial.get i
        nextSerial := s.hst.nextSerial + 1 } }) s

/-- An HBM endpoint of a stack and a key id is created (03_routes.md R74, R75). -/
def State.newHbmEp (s : State) (id : Byte) (stack key : Nat) : State :=
  let i : Fin 8 := ⟨stack % 8, Nat.mod_lt _ (by decide)⟩
  let st : BitVec 3 := BitVec.ofNat 3 stack
  let (g, ctr, w) := s.issueGen (s.fab.stackCtr.get i)
  ({ s with fab := { s.fab with stackCtr := s.fab.stackCtr.set i ctr, hbmEps := s.fab.hbmEps ++ [⟨st, BitVec.ofNat 6 key, id, g⟩] } } : State).noteWrap (.stack st) w

/-- HBM endpoints of an enclave's own key ids on every stack. -/
def State.newHbmEps (s : State) (id : Byte) (keys : List Nat) : State :=
  keys.foldl (fun s k => (List.range 8).foldl (fun s st => s.newHbmEp id st k) s) s

/-- The endpoints of key id 0, created with the first enclave that holds it and shared by all that do: the pair of stack and key id is one endpoint
(03_routes.md R74; 05_host.md R124). -/
def State.openHbmEps (s : State) (key0 : Bool) : State :=
  if key0 && !(s.fab.hbmEps.any fun e => e.key == 0) then s.newHbmEps 0 [0] else s

/-- Create the enclave of a function: a free identifier, free key ids with new keys, the storage key, and what the monitor grants. -/
def State.createEnclave (s : State) (fn : BitVec 6) (count : Nat) (storageKey : BitVec 256) (key0 : Bool) : Byte × State :=
  let (n, s0) := s.draw
  let id : Byte := BitVec.ofNat 8 (freeFrom (s0.hst.enclaves.map (·.id.toNat)) 1 256 256 (Config.enclaveId n))
  let own := takeKeys s0.usedKeys count (Config.firstKey n)
  let keys := (if key0 then [0] else []) ++ own
  let s1 := ((s0.newKeys own).newHbmEps id own).openHbmEps key0
  let (s2, gs) := s1.giveAll id keys n (List.range 14)
  let e : Enclave := ⟨id, fn, keys, gs ++ windowGuards id, 0, []⟩
  (id, { s2 with
    hst := { s2.hst with enclaves := s2.hst.enclaves ++ [e] }
    sip := { s2.sip with skeys := (id, storageKey) :: s2.sip.skeys.filter (·.1 != id) } })

/-- The conditions of LOCK on the registers and the stream. -/
def Func.lockable (f : Func) : Bool :=
  f.tstate == .unlocked && !f.scrub && decide (f.ringbase.toNat % 4096 = 0) && decide (f.cplbase.toNat % 4096 = 0) &&
    decide (6 ≤ f.ringlog.toNat) && decide (f.ringlog.toNat ≤ 16) && decide (6 ≤ f.cpllog.toNat) && decide (f.cpllog.toNat ≤ 16) &&
    (f.ks0.going || f.ks1.going)

/-- LOCK in the bound session. -/
def State.lock (s : State) (fn : BitVec 6) (f : Func) : State :=
  match f.param with
  | none => s.emit (.tdispError fn)
  | some (count, skey, key0) =>
    if !f.lockable || 63 < s.usedKeys.length + count || 255 ≤ s.hst.enclaves.length then s.emit (.tdispError fn)
    else
      let (id, s1) := s.createEnclave fn count skey key0
      let (n, s2) := s1.draw
      let nonce := Config.startNonce n
      (s2.putFunc { f with tstate := .locked, encl := id, nonce := nonce, param := none }).emit (.lockOk fn nonce)

/-- LOCK_INTERFACE_REQUEST (05_host.md R118). -/
def execLockInterfaceRequest (fn : BitVec 6) (secured : Bool) (s : State) : Host.Outcome State Fault Refusal :=
  .next (s.inSession fn secured fun s f => if fn = 0 then s.emit (.tdispError fn) else s.lock fn f)

/-- START_INTERFACE_REQUEST: RUN with the nonce of the LOCK, ERROR with another. In a state that R118 does not list for it, as for STOP, the answer
is a TDISP error response (DESIGN CHOICE, log entry 96). -/
def execStartInterfaceRequest (fn : BitVec 6) (secured : Bool) (nonce : BitVec 256) (s : State) : Host.Outcome State Fault Refusal :=
  .next (s.inSession fn secured fun s f =>
    if f.tstate ≠ .locked then s.emit (.tdispError fn)
    else if nonce ≠ f.nonce then (s.refuseStart f).emit (.tdispError fn)
    else (s.putFunc { f with tstate := .run, rst := 1, hcause := 0, resumeOk := false, eseq := if f.ranBefore then f.eseq else 0, ranBefore := true }).emit (.tdispOk fn 2))

/-- STOP of an interface: from CONFIG_LOCKED or RUN with a scrub; the response is sent when SCRUB clears, at once when it is clear. -/
def State.stop (s : State) (fn : BitVec 6) (f : Func) : State :=
  match f.tstate with
  | .unlocked => s.emit (.tdispError fn)
  | .error =>
    let g := { f with tstate := .unlocked, rst := 0, hcause := 0, resumeOk := false, stopOwed := f.scrub }
    if f.scrub then s.putFunc g else (s.putFunc g).emit (.tdispOk fn 3)
  | .locked => (s.putFunc { f with tstate := .unlocked, rst := 0, hcause := 0, resumeOk := false, scrub := true, stopOwed := true }).scrub f.encl
  | .run => ((s.putFunc { f with tstate := .unlocked, rst := 0, hcause := 0, resumeOk := false, scrub := true, stopOwed := true }).scrub f.encl).emit
      (.msix fn 1 false)

/-- STOP_INTERFACE_REQUEST (05_host.md R118). -/
def execStopInterfaceRequest (fn : BitVec 6) (secured : Bool) (s : State) : Host.Outcome State Fault Refusal :=
  .next (s.inSession fn secured fun s f => s.stop fn f)

/-- SCRUB_COMPLETE: once no block of the enclave's slots is busy, step 6 is done and a STOP that waits is answered (05_host.md R119). -/
def execScrubComplete (fn : BitVec 6) (s : State) : Host.Outcome State Fault Refusal :=
  let f := s.func fn
  .next (if !f.scrub || !s.slotsIdle f.encl then s
    else
      let s1 := (s.scrubEnd f.encl).putFunc { f with scrub := false, held := [], encl := 0, stopOwed := false }
      if f.stopOwed then s1.emit (.tdispOk fn 3) else s1)

/-- GET_DEVICE_INTERFACE_STATE (05_host.md R118). -/
def execGetDeviceInterfaceState (fn : BitVec 6) (secured : Bool) (s : State) : Host.Outcome State Fault Refusal :=
  .next (s.inSession fn secured fun s f => s.emit (.tdispState fn f.tstate))

/-- GET_DEVICE_INTERFACE_REPORT: in CONFIG_LOCKED and RUN (05_host.md R118, R120). -/
def execGetDeviceInterfaceReport (fn : BitVec 6) (secured : Bool) (s : State) : Host.Outcome State Fault Refusal :=
  .next (s.inSession fn secured fun s f =>
    if f.isLocked then s.emit (.report fn (s.report f))
    else s.emit (.tdispError fn))

end Sys2Proof.Machine
end

