-- ==== Sys2Proof/Decode.lean ====
section
/-! DEFINITION. Decoding of instruction words, total on every word and every list of bytes, and encoding (12_encoding.md R314 to R319).
A word that is no row's word decodes to `illegalWord`, whose meaning is to raise ILLEGAL (R319). -/

set_option Elab.async false

namespace Sys2Proof

/-! ## Decoding, one function per major -/

/-- Major 0x01 (12_encoding.md R318). -/
def decodeOpi (w : IWord) : Option Instr :=
  match fldN w 12 3 with
  | 0 => some (.addi (fld w 7 5) (fld w 15 5) (fld w 20 12))
  | 1 => some (.andi (fld w 7 5) (fld w 15 5) (fld w 20 12))
  | 2 => some (.ori (fld w 7 5) (fld w 15 5) (fld w 20 12))
  | 3 => some (.xori (fld w 7 5) (fld w 15 5) (fld w 20 12))
  | 4 => some (.slti (fld w 7 5) (fld w 15 5) (fld w 20 12))
  | 5 => some (.sltiu (fld w 7 5) (fld w 15 5) (fld w 20 12))
  | 6 =>
    match fldN w 26 6 with
    | 0 => some (.slli (fld w 7 5) (fld w 15 5) (fld w 20 6))
    | 1 => some (.srli (fld w 7 5) (fld w 15 5) (fld w 20 6))
    | 2 => some (.srai (fld w 7 5) (fld w 15 5) (fld w 20 6))
    | _ => none
  | _ => none

/-- Major 0x02 (12_encoding.md R318). -/
def decodeOpr (w : IWord) : Option Instr :=
  match fldN w 25 7 with
  | 0 => if fldN w 12 3 = 0 then some (.add (fld w 7 5) (fld w 15 5) (fld w 20 5)) else none
  | 1 => if fldN w 12 3 = 0 then some (.sub (fld w 7 5) (fld w 15 5) (fld w 20 5)) else none
  | 2 => if fldN w 12 3 = 0 then some (.and (fld w 7 5) (fld w 15 5) (fld w 20 5)) else none
  | 3 => if fldN w 12 3 = 0 then some (.or (fld w 7 5) (fld w 15 5) (fld w 20 5)) else none
  | 4 => if fldN w 12 3 = 0 then some (.xor (fld w 7 5) (fld w 15 5) (fld w 20 5)) else none
  | 5 => if fldN w 12 3 = 0 then some (.sll (fld w 7 5) (fld w 15 5) (fld w 20 5)) else none
  | 6 => if fldN w 12 3 = 0 then some (.srl (fld w 7 5) (fld w 15 5) (fld w 20 5)) else none
  | 7 => if fldN w 12 3 = 0 then some (.sra (fld w 7 5) (fld w 15 5) (fld w 20 5)) else none
  | 8 => if fldN w 12 3 = 0 then some (.slt (fld w 7 5) (fld w 15 5) (fld w 20 5)) else none
  | 9 => if fldN w 12 3 = 0 then some (.sltu (fld w 7 5) (fld w 15 5) (fld w 20 5)) else none
  | 10 => if fldN w 12 3 = 0 then some (.mul (fld w 7 5) (fld w 15 5) (fld w 20 5)) else none
  | 11 => if fldN w 12 3 = 0 then some (.mulh (fld w 7 5) (fld w 15 5) (fld w 20 5)) else none
  | 12 => if fldN w 12 3 = 0 then some (.mulhu (fld w 7 5) (fld w 15 5) (fld w 20 5)) else none
  | 13 => if fldN w 12 3 = 0 then some (.div (fld w 7 5) (fld w 15 5) (fld w 20 5)) else none
  | 14 => if fldN w 12 3 = 0 then some (.divu (fld w 7 5) (fld w 15 5) (fld w 20 5)) else none
  | 15 => if fldN w 12 3 = 0 then some (.rem (fld w 7 5) (fld w 15 5) (fld w 20 5)) else none
  | 16 => if fldN w 12 3 = 0 then some (.remu (fld w 7 5) (fld w 15 5) (fld w 20 5)) else none
  | 17 => if fldN w 12 3 = 0 then some (.min (fld w 7 5) (fld w 15 5) (fld w 20 5)) else none
  | 18 => if fldN w 12 3 = 0 then some (.max (fld w 7 5) (fld w 15 5) (fld w 20 5)) else none
  | 19 => if fldN w 12 3 = 0 then some (.minu (fld w 7 5) (fld w 15 5) (fld w 20 5)) else none
  | 20 => if fldN w 12 3 = 0 then some (.maxu (fld w 7 5) (fld w 15 5) (fld w 20 5)) else none
  | 21 => if fldN w 12 3 = 0 ∧ fldN w 20 5 = 0 then some (.clz (fld w 7 5) (fld w 15 5)) else none
  | 22 => if fldN w 12 3 = 0 ∧ fldN w 20 5 = 0 then some (.ctz (fld w 7 5) (fld w 15 5)) else none
  | 23 => if fldN w 12 3 = 0 ∧ fldN w 20 5 = 0 then some (.popc (fld w 7 5) (fld w 15 5)) else none
  | 24 => if fldN w 12 3 = 0 then some (.mulmod (fld w 7 5) (fld w 15 5) (fld w 20 5)) else none
  | _ => none

/-- Major 0x03 (12_encoding.md R318). -/
def decodeLui (w : IWord) : Option Instr :=
  some (.lui (fld w 7 5) (fld w 12 20))

/-- Major 0x04 (12_encoding.md R318). -/
def decodeAuipc (w : IWord) : Option Instr :=
  some (.auipc (fld w 7 5) (fld w 12 20))

/-- Major 0x05 (12_encoding.md R318). -/
def decodeLoad (w : IWord) : Option Instr :=
  match fldN w 12 3 with
  | 0 => some (.lb (fld w 7 5) (fld w 15 5) (fld w 20 12))
  | 1 => some (.lh (fld w 7 5) (fld w 15 5) (fld w 20 12))
  | 2 => some (.lw (fld w 7 5) (fld w 15 5) (fld w 20 12))
  | 3 => some (.ld (fld w 7 5) (fld w 15 5) (fld w 20 12))
  | 4 => some (.lbu (fld w 7 5) (fld w 15 5) (fld w 20 12))
  | 5 => some (.lhu (fld w 7 5) (fld w 15 5) (fld w 20 12))
  | 6 => some (.lwu (fld w 7 5) (fld w 15 5) (fld w 20 12))
  | _ => none

/-- Major 0x06 (12_encoding.md R318). -/
def decodeStore (w : IWord) : Option Instr :=
  match fldN w 12 3 with
  | 0 => some (.sb (fld w 15 5) (fld w 20 5) (BitVec.ofNat 12 (fldN w 25 7 * 32 + fldN w 7 5)))
  | 1 => some (.sh (fld w 15 5) (fld w 20 5) (BitVec.ofNat 12 (fldN w 25 7 * 32 + fldN w 7 5)))
  | 2 => some (.sw (fld w 15 5) (fld w 20 5) (BitVec.ofNat 12 (fldN w 25 7 * 32 + fldN w 7 5)))
  | 3 => some (.sd (fld w 15 5) (fld w 20 5) (BitVec.ofNat 12 (fldN w 25 7 * 32 + fldN w 7 5)))
  | _ => none

/-- Major 0x07 (12_encoding.md R318). -/
def decodeBranch (w : IWord) : Option Instr :=
  match fldN w 12 3 with
  | 0 => some (.beq (fld w 15 5) (fld w 20 5) (BitVec.ofNat 12 (fldN w 25 7 * 32 + fldN w 7 5)))
  | 1 => some (.bne (fld w 15 5) (fld w 20 5) (BitVec.ofNat 12 (fldN w 25 7 * 32 + fldN w 7 5)))
  | 2 => some (.blt (fld w 15 5) (fld w 20 5) (BitVec.ofNat 12 (fldN w 25 7 * 32 + fldN w 7 5)))
  | 3 => some (.bge (fld w 15 5) (fld w 20 5) (BitVec.ofNat 12 (fldN w 25 7 * 32 + fldN w 7 5)))
  | 4 => some (.bltu (fld w 15 5) (fld w 20 5) (BitVec.ofNat 12 (fldN w 25 7 * 32 + fldN w 7 5)))
  | 5 => some (.bgeu (fld w 15 5) (fld w 20 5) (BitVec.ofNat 12 (fldN w 25 7 * 32 + fldN w 7 5)))
  | _ => none

/-- Major 0x08 (12_encoding.md R318). -/
def decodeJal (w : IWord) : Option Instr :=
  some (.jal (fld w 7 5) (fld w 12 20))

/-- Major 0x09 (12_encoding.md R318). -/
def decodeJalr (w : IWord) : Option Instr :=
  if fldN w 12 3 = 0 then some (.jalr (fld w 7 5) (fld w 15 5) (fld w 20 12)) else none

/-- Major 0x0A (12_encoding.md R318). -/
def decodeFps (w : IWord) : Option Instr :=
  match fldN w 25 7 with
  | 0 => if fldN w 14 1 = 0 then some (.fadd (fld w 7 5) (fld w 12 2) (fld w 15 5) (fld w 20 5)) else none
  | 1 => if fldN w 14 1 = 0 then some (.fsub (fld w 7 5) (fld w 12 2) (fld w 15 5) (fld w 20 5)) else none
  | 2 => if fldN w 14 1 = 0 then some (.fmul (fld w 7 5) (fld w 12 2) (fld w 15 5) (fld w 20 5)) else none
  | 3 => if fldN w 14 1 = 0 then some (.fdiv (fld w 7 5) (fld w 12 2) (fld w 15 5) (fld w 20 5)) else none
  | 4 => if fldN w 14 1 = 0 ∧ fldN w 20 5 = 0 then some (.fsqrt (fld w 7 5) (fld w 12 2) (fld w 15 5)) else none
  | 5 => if fldN w 14 1 = 0 then some (.fmin (fld w 7 5) (fld w 12 2) (fld w 15 5) (fld w 20 5)) else none
  | 6 => if fldN w 14 1 = 0 then some (.fmax (fld w 7 5) (fld w 12 2) (fld w 15 5) (fld w 20 5)) else none
  | 7 => if fldN w 14 1 = 0 then some (.fmac (fld w 7 5) (fld w 12 2) (fld w 15 5) (fld w 20 5)) else none
  | 8 => if fldN w 14 1 = 0 then some (.feq (fld w 7 5) (fld w 12 2) (fld w 15 5) (fld w 20 5)) else none
  | 9 => if fldN w 14 1 = 0 then some (.flt (fld w 7 5) (fld w 12 2) (fld w 15 5) (fld w 20 5)) else none
  | 10 => if fldN w 14 1 = 0 then some (.fle (fld w 7 5) (fld w 12 2) (fld w 15 5) (fld w 20 5)) else none
  | 11 => if fldN w 14 1 = 0 ∧ fldN w 20 5 = 0 then some (.fclass (fld w 7 5) (fld w 12 2) (fld w 15 5)) else none
  | 12 => if fldN w 14 1 = 0 then some (.fsgnj (fld w 7 5) (fld w 12 2) (fld w 15 5) (fld w 20 5)) else none
  | 13 => if fldN w 14 1 = 0 then some (.fsgnjn (fld w 7 5) (fld w 12 2) (fld w 15 5) (fld w 20 5)) else none
  | 14 => if fldN w 14 1 = 0 then some (.fsgnjx (fld w 7 5) (fld w 12 2) (fld w 15 5) (fld w 20 5)) else none
  | 15 => if fldN w 14 1 = 0 then some (.fcvtif (fld w 7 5) (fld w 12 2) (fld w 15 5) (fld w 20 5)) else none
  | 16 => if fldN w 14 1 = 0 then some (.fcvtfi (fld w 7 5) (fld w 12 2) (fld w 15 5) (fld w 20 5)) else none
  | 17 => if fldN w 14 1 = 0 then some (.fcvtff (fld w 7 5) (fld w 12 2) (fld w 15 5) (fld w 20 5)) else none
  | _ => none

/-- Major 0x0B (12_encoding.md R318). -/
def decodeSync (w : IWord) : Option Instr :=
  match fldN w 25 7 with
  | 0 => if fldN w 12 3 = 0 ∧ fldN w 20 5 = 0 then some (.ldfe (fld w 7 5) (fld w 15 5)) else none
  | 1 => if fldN w 12 3 = 0 ∧ fldN w 20 5 = 0 then some (.ldff (fld w 7 5) (fld w 15 5)) else none
  | 2 => if fldN w 12 3 = 0 then some (.stef (fld w 7 5) (fld w 15 5) (fld w 20 5)) else none
  | 3 => if fldN w 7 8 = 0 then some (.stf (fld w 15 5) (fld w 20 5)) else none
  | 4 => if fldN w 7 8 = 0 ∧ fldN w 20 5 = 0 then some (.feclr (fld w 15 5)) else none
  | 5 => if fldN w 12 3 = 0 ∧ fldN w 20 5 = 0 then some (.fepeek (fld w 7 5) (fld w 15 5)) else none
  | 6 => if fldN w 13 2 = 1 then some (.amoadd (fld w 7 5) (fld w 12 1) (fld w 15 5) (fld w 20 5)) else none
  | 7 => if fldN w 13 2 = 1 then some (.amoand (fld w 7 5) (fld w 12 1) (fld w 15 5) (fld w 20 5)) else none
  | 8 => if fldN w 13 2 = 1 then some (.amoor (fld w 7 5) (fld w 12 1) (fld w 15 5) (fld w 20 5)) else none
  | 9 => if fldN w 13 2 = 1 then some (.amoxor (fld w 7 5) (fld w 12 1) (fld w 15 5) (fld w 20 5)) else none
  | 10 => if fldN w 13 2 = 1 then some (.amomin (fld w 7 5) (fld w 12 1) (fld w 15 5) (fld w 20 5)) else none
  | 11 => if fldN w 13 2 = 1 then some (.amomax (fld w 7 5) (fld w 12 1) (fld w 15 5) (fld w 20 5)) else none
  | 12 => if fldN w 13 2 = 1 then some (.amominu (fld w 7 5) (fld w 12 1) (fld w 15 5) (fld w 20 5)) else none
  | 13 => if fldN w 13 2 = 1 then some (.amomaxu (fld w 7 5) (fld w 12 1) (fld w 15 5) (fld w 20 5)) else none
  | 14 => if fldN w 13 2 = 1 then some (.amoswap (fld w 7 5) (fld w 12 1) (fld w 15 5) (fld w 20 5)) else none
  | 15 => if fldN w 13 2 = 1 then some (.cas (fld w 7 5) (fld w 12 1) (fld w 15 5) (fld w 20 5)) else none
  | 16 => if fldN w 13 2 = 0 then some (.amofadd (fld w 7 5) (fld w 12 1) (fld w 15 5) (fld w 20 5)) else none
  | 17 => if fldN w 7 5 = 0 ∧ fldN w 15 5 = 0 ∧ fldN w 23 2 = 0 then some (.fence (fld w 12 3) (fld w 20 1) (fld w 21 1) (fld w 22 1)) else none
  | 18 => if fldN w 7 13 = 0 ∧ fldN w 24 1 = 0 then some (.rlx (fld w 20 4)) else none
  | 19 => if fldN w 12 3 = 0 ∧ fldN w 20 5 = 0 then some (.pglobal (fld w 7 5) (fld w 15 5)) else none
  | _ => none

/-- Major 0x0C (12_encoding.md R318). -/
def decodeSystem (w : IWord) : Option Instr :=
  match fldN w 12 3 with
  | 0 =>
    match fldN w 20 12 with
    | 0 => if fldN w 7 5 = 0 ∧ fldN w 15 5 = 0 then some .ecall else none
    | 1 => if fldN w 7 5 = 0 ∧ fldN w 15 5 = 0 then some .ebreak else none
    | 2 => if fldN w 7 5 = 0 ∧ fldN w 15 5 = 0 then some .sret else none
    | 3 => if fldN w 7 5 = 0 ∧ fldN w 15 5 = 0 then some .mret else none
    | 4 => if fldN w 7 5 = 0 ∧ fldN w 15 5 = 0 then some .waitmsg else none
    | 5 => some (.popmsg (fld w 7 5) (fld w 15 5))
    | 6 => if fldN w 7 5 = 0 ∧ fldN w 15 5 = 0 then some .yield else none
    | 7 => if fldN w 7 5 = 0 ∧ fldN w 15 5 = 0 then some .hdone else none
    | 8 => if fldN w 7 5 = 0 then some (.bar (fld w 15 5)) else none
    | 9 => some (.launch (fld w 7 5) (fld w 15 5))
    | 10 => some (.sqpush (fld w 7 5) (fld w 15 5))
    | 11 => some (.tlbinv (fld w 7 5) (fld w 15 5))
    | 12 => some (.asidset (fld w 7 5) (fld w 15 5))
    | _ => none
  | 1 => some (.csrrw (fld w 7 5) (fld w 15 5) (fld w 20 12))
  | 2 => some (.csrrs (fld w 7 5) (fld w 15 5) (fld w 20 12))
  | 3 => some (.csrrc (fld w 7 5) (fld w 15 5) (fld w 20 12))
  | 5 => some (.csrrwi (fld w 7 5) (fld w 15 5) (fld w 20 12))
  | 6 => some (.csrrsi (fld w 7 5) (fld w 15 5) (fld w 20 12))
  | 7 => some (.csrrci (fld w 7 5) (fld w 15 5) (fld w 20 12))
  | _ => none

/-- Major 0x0F (12_encoding.md R318). -/
def decodeSetvli (w : IWord) : Option Instr :=
  if fldN w 12 3 = 0 ∧ fldN w 27 5 = 0 then some (.setvli (fld w 7 5) (fld w 15 5) (fld w 20 5) (fld w 25 2)) else none

/-- Major 0x10 (12_encoding.md R318). -/
def decodeVcfg (w : IWord) : Option Instr :=
  match fldN w 25 7 with
  | 0 => if fldN w 12 3 = 0 then some (.setvl (fld w 7 5) (fld w 15 5) (fld w 20 5)) else none
  | 1 => if fldN w 12 3 = 0 then some (.lsplit (fld w 7 5) (fld w 15 5) (fld w 20 5)) else none
  | 2 => if fldN w 7 18 = 0 then some .lmerge else none
  | 3 => if fldN w 12 8 = 0 then some (.vtag (fld w 7 5) (fld w 20 5)) else none
  | 4 => if fldN w 12 8 = 0 then some (.vfmx (fld w 7 5) (fld w 20 5)) else none
  | 5 => if fldN w 11 1 = 0 ∧ fldN w 24 1 = 0 then some (.pump (fld w 7 4) (fld w 12 3) (fld w 15 5) (fld w 20 2) (fld w 22 2)) else none
  | 6 => if fldN w 7 18 = 0 then some .pumpstop else none
  | _ => none

/-- Major 0x11 (12_encoding.md R318). -/
def decodeVarith (w : IWord) : Option Instr :=
  match fldN w 26 6 with
  | 0 => some (.vadd (fld w 7 5) (fld w 12 3) (fld w 15 5) (fld w 20 5) (fld w 25 1))
  | 1 => some (.vsub (fld w 7 5) (fld w 12 3) (fld w 15 5) (fld w 20 5) (fld w 25 1))
  | 2 => some (.vmul (fld w 7 5) (fld w 12 3) (fld w 15 5) (fld w 20 5) (fld w 25 1))
  | 3 => some (.vmulh (fld w 7 5) (fld w 12 3) (fld w 15 5) (fld w 20 5) (fld w 25 1))
  | 4 => some (.vmadd (fld w 7 5) (fld w 12 3) (fld w 15 5) (fld w 20 5) (fld w 25 1))
  | 5 => some (.vnmsub (fld w 7 5) (fld w 12 3) (fld w 15 5) (fld w 20 5) (fld w 25 1))
  | 6 => some (.vdiv (fld w 7 5) (fld w 12 3) (fld w 15 5) (fld w 20 5) (fld w 25 1))
  | 7 => some (.vrem (fld w 7 5) (fld w 12 3) (fld w 15 5) (fld w 20 5) (fld w 25 1))
  | 8 => some (.vmin (fld w 7 5) (fld w 12 3) (fld w 15 5) (fld w 20 5) (fld w 25 1))
  | 9 => some (.vmax (fld w 7 5) (fld w 12 3) (fld w 15 5) (fld w 20 5) (fld w 25 1))
  | 10 => if fldN w 12 3 = 0 ∧ fldN w 20 5 = 0 then some (.vabs (fld w 7 5) (fld w 15 5) (fld w 25 1)) else none
  | 11 => if fldN w 12 3 = 0 ∧ fldN w 20 5 = 0 then some (.vneg (fld w 7 5) (fld w 15 5) (fld w 25 1)) else none
  | 12 => if fldN w 12 3 = 0 ∧ fldN w 20 5 = 0 then some (.vsqrt (fld w 7 5) (fld w 15 5) (fld w 25 1)) else none
  | 13 => some (.vand (fld w 7 5) (fld w 12 3) (fld w 15 5) (fld w 20 5) (fld w 25 1))
  | 14 => some (.vor (fld w 7 5) (fld w 12 3) (fld w 15 5) (fld w 20 5) (fld w 25 1))
  | 15 => some (.vxor (fld w 7 5) (fld w 12 3) (fld w 15 5) (fld w 20 5) (fld w 25 1))
  | 16 => some (.vsll (fld w 7 5) (fld w 12 3) (fld w 15 5) (fld w 20 5) (fld w 25 1))
  | 17 => some (.vsrl (fld w 7 5) (fld w 12 3) (fld w 15 5) (fld w 20 5) (fld w 25 1))
  | 18 => some (.vsra (fld w 7 5) (fld w 12 3) (fld w 15 5) (fld w 20 5) (fld w 25 1))
  | 19 => some (.vsadd (fld w 7 5) (fld w 12 3) (fld w 15 5) (fld w 20 5) (fld w 25 1))
  | 20 => some (.vssub (fld w 7 5) (fld w 12 3) (fld w 15 5) (fld w 20 5) (fld w 25 1))
  | _ => none

/-- Major 0x12 (12_encoding.md R318). -/
def decodeVmask (w : IWord) : Option Instr :=
  match fldN w 26 6 with
  | 0 => some (.vcmpeq (fld w 7 5) (fld w 12 3) (fld w 15 5) (fld w 20 5) (fld w 25 1))
  | 1 => some (.vcmpne (fld w 7 5) (fld w 12 3) (fld w 15 5) (fld w 20 5) (fld w 25 1))
  | 2 => some (.vcmplt (fld w 7 5) (fld w 12 3) (fld w 15 5) (fld w 20 5) (fld w 25 1))
  | 3 => some (.vcmple (fld w 7 5) (fld w 12 3) (fld w 15 5) (fld w 20 5) (fld w 25 1))
  | 4 => some (.vcmpgt (fld w 7 5) (fld w 12 3) (fld w 15 5) (fld w 20 5) (fld w 25 1))
  | 5 => some (.vcmpge (fld w 7 5) (fld w 12 3) (fld w 15 5) (fld w 20 5) (fld w 25 1))
  | 6 => if fldN w 12 3 = 0 then some (.mand (fld w 7 5) (fld w 15 5) (fld w 20 5) (fld w 25 1)) else none
  | 7 => if fldN w 12 3 = 0 then some (.mor (fld w 7 5) (fld w 15 5) (fld w 20 5) (fld w 25 1)) else none
  | 8 => if fldN w 12 3 = 0 then some (.mxor (fld w 7 5) (fld w 15 5) (fld w 20 5) (fld w 25 1)) else none
  | 9 => if fldN w 12 3 = 0 then some (.mandn (fld w 7 5) (fld w 15 5) (fld w 20 5) (fld w 25 1)) else none
  | 10 => if fldN w 12 3 = 0 ∧ fldN w 20 5 = 0 then some (.mpopc (fld w 7 5) (fld w 15 5) (fld w 25 1)) else none
  | 11 => if fldN w 12 3 = 0 ∧ fldN w 20 5 = 0 then some (.mfirst (fld w 7 5) (fld w 15 5) (fld w 25 1)) else none
  | 12 => if fldN w 12 3 = 0 ∧ fldN w 20 5 = 0 then some (.miota (fld w 7 5) (fld w 15 5) (fld w 25 1)) else none
  | _ => none

/-- Major 0x13 (12_encoding.md R318). -/
def decodeVperm (w : IWord) : Option Instr :=
  match fldN w 26 6 with
  | 0 => some (.vmv (fld w 7 5) (fld w 12 3) (fld w 15 5) (fld w 20 5) (fld w 25 1))
  | 1 => if fldN w 25 1 = 0 then some (.vmvx (fld w 7 5) (fld w 12 3) (fld w 15 5) (fld w 20 5)) else none
  | 2 => if fldN w 12 8 = 1 ∧ fldN w 25 1 = 0 then some (.vmvs (fld w 7 5) (fld w 20 5)) else none
  | 3 => if fldN w 12 13 = 0 then some (.vid (fld w 7 5) (fld w 25 1)) else none
  | 4 => if fldN w 25 1 = 1 then some (.vsel (fld w 7 5) (fld w 12 3) (fld w 15 5) (fld w 20 5)) else none
  | 5 => if fldN w 12 3 = 0 ∧ fldN w 20 6 = 32 then some (.vcompress (fld w 7 5) (fld w 15 5)) else none
  | 6 => some (.vslideup (fld w 7 5) (fld w 12 3) (fld w 15 5) (fld w 20 5) (fld w 25 1))
  | 7 => some (.vslidedn (fld w 7 5) (fld w 12 3) (fld w 15 5) (fld w 20 5) (fld w 25 1))
  | 8 => if fldN w 12 3 = 0 then some (.vperm (fld w 7 5) (fld w 15 5) (fld w 20 5) (fld w 25 1)) else none
  | 9 => if fldN w 12 3 = 2 then some (.vcvt (fld w 7 5) (fld w 15 5) (fld w 20 5) (fld w 25 1)) else none
  | 10 => if fldN w 12 3 = 1 then some (.vqsf4 (fld w 7 5) (fld w 15 5) (fld w 20 5) (fld w 25 1)) else none
  | _ => none

/-- Major 0x14 (12_encoding.md R318). -/
def decodeVred (w : IWord) : Option Instr :=
  match fldN w 26 6 with
  | 0 => if fldN w 12 3 = 0 ∧ fldN w 20 5 = 0 then some (.vredsum (fld w 7 5) (fld w 15 5) (fld w 25 1)) else none
  | 1 => if fldN w 12 3 = 0 ∧ fldN w 20 5 = 0 then some (.vredmax (fld w 7 5) (fld w 15 5) (fld w 25 1)) else none
  | 2 => if fldN w 12 3 = 0 ∧ fldN w 20 5 = 0 then some (.vredmin (fld w 7 5) (fld w 15 5) (fld w 25 1)) else none
  | 3 => if fldN w 12 3 = 0 then some (.vreddot (fld w 7 5) (fld w 15 5) (fld w 20 5) (fld w 25 1)) else none
  | 4 => if fldN w 12 3 = 0 ∧ fldN w 20 5 = 0 then some (.vexp2 (fld w 7 5) (fld w 15 5) (fld w 25 1)) else none
  | 5 => if fldN w 12 3 = 0 ∧ fldN w 20 5 = 0 then some (.vlog2 (fld w 7 5) (fld w 15 5) (fld w 25 1)) else none
  | 6 => if fldN w 12 3 = 0 ∧ fldN w 20 5 = 0 then some (.vrcp (fld w 7 5) (fld w 15 5) (fld w 25 1)) else none
  | 7 => if fldN w 12 3 = 0 ∧ fldN w 20 5 = 0 then some (.vrsqrt (fld w 7 5) (fld w 15 5) (fld w 25 1)) else none
  | 8 => if fldN w 12 3 = 0 ∧ fldN w 20 5 = 0 then some (.vtanh (fld w 7 5) (fld w 15 5) (fld w 25 1)) else none
  | 9 => if fldN w 12 3 = 0 ∧ fldN w 20 5 = 0 then some (.vsigm (fld w 7 5) (fld w 15 5) (fld w 25 1)) else none
  | _ => none

/-- Major 0x15 (12_encoding.md R318). -/
def decodeVmod (w : IWord) : Option Instr :=
  match fldN w 26 6 with
  | 0 => some (.vmodadd (fld w 7 5) (fld w 12 3) (fld w 15 5) (fld w 20 5) (fld w 25 1))
  | 1 => some (.vmodsub (fld w 7 5) (fld w 12 3) (fld w 15 5) (fld w 20 5) (fld w 25 1))
  | 2 => some (.vmodmul (fld w 7 5) (fld w 12 3) (fld w 15 5) (fld w 20 5) (fld w 25 1))
  | 3 => if fldN w 12 3 = 0 ∧ fldN w 20 5 = 0 then some (.vmodred (fld w 7 5) (fld w 15 5) (fld w 25 1)) else none
  | 4 => some (.vbflyct (fld w 7 5) (fld w 12 3) (fld w 15 5) (fld w 20 5) (fld w 25 1))
  | 5 => some (.vbflygs (fld w 7 5) (fld w 12 3) (fld w 15 5) (fld w 20 5) (fld w 25 1))
  | _ => none

/-- Major 0x16 (12_encoding.md R318). -/
def decodeVload (w : IWord) : Option Instr :=
  match fldN w 12 3 with
  | 0 => if fldN w 20 5 = 0 ∧ fldN w 26 6 = 0 then some (.vld (fld w 7 5) (fld w 15 5) (fld w 25 1)) else none
  | 1 => if fldN w 26 6 = 0 then some (.vlds (fld w 7 5) (fld w 15 5) (fld w 20 5) (fld w 25 1)) else none
  | 2 => if fldN w 26 6 = 0 then some (.vldx (fld w 7 5) (fld w 15 5) (fld w 20 5) (fld w 25 1)) else none
  | 3 => if fldN w 20 12 = 0 then some (.vfill (fld w 7 5) (fld w 15 5)) else none
  | _ => none

/-- Major 0x17 (12_encoding.md R318). -/
def decodeVstore (w : IWord) : Option Instr :=
  match fldN w 12 3 with
  | 0 => if fldN w 20 5 = 0 ∧ fldN w 26 6 = 0 then some (.vst (fld w 7 5) (fld w 15 5) (fld w 25 1)) else none
  | 1 => if fldN w 26 6 = 0 then some (.vsts (fld w 7 5) (fld w 15 5) (fld w 20 5) (fld w 25 1)) else none
  | 2 => if fldN w 26 6 = 0 then some (.vstx (fld w 7 5) (fld w 15 5) (fld w 20 5) (fld w 25 1)) else none
  | 3 => if fldN w 26 6 = 0 then some (.vscadd (fld w 7 5) (fld w 15 5) (fld w 20 5) (fld w 25 1)) else none
  | 4 => if fldN w 20 12 = 0 then some (.vspill (fld w 7 5) (fld w 15 5)) else none
  | _ => none

/-- Major 0x18 (12_encoding.md R318). -/
def decodeStream (w : IWord) : Option Instr :=
  match fldN w 25 7 with
  | 0 => if fldN w 12 3 = 0 ∧ fldN w 20 5 = 0 then some (.stbind (fld w 7 5) (fld w 15 5)) else none
  | 1 => if fldN w 12 3 = 0 ∧ fldN w 20 5 = 0 then some (.strbind (fld w 7 5) (fld w 15 5)) else none
  | 2 => if fldN w 12 3 = 0 ∧ fldN w 20 5 = 0 then some (.stfbind (fld w 7 5) (fld w 15 5)) else none
  | 3 => if fldN w 12 13 = 0 then some (.stunbind (fld w 7 5)) else none
  | _ => none

/-- Major 0x19 (12_encoding.md R318). -/
def decodeEngine (w : IWord) : Option Instr :=
  match fldN w 12 3 with
  | 0 => if fldN w 20 5 = 0 ∧ fldN w 30 2 = 0 then some (.cpy (fld w 7 5) (fld w 15 5) (fld w 25 5)) else none
  | 1 => if fldN w 25 7 = 0 then some (.syncarm (fld w 7 5) (fld w 15 5) (fld w 20 5)) else none
  | 2 => if fldN w 25 7 = 0 then some (.syncwait (fld w 7 5) (fld w 15 5) (fld w 20 5)) else none
  | _ => none

/-- Major 0x1A (12_encoding.md R318). -/
def decodeTile (w : IWord) : Option Instr :=
  match fldN w 26 6 with
  | 0 => if fldN w 9 3 = 0 ∧ fldN w 25 1 = 0 then some (.opa (fld w 7 2) (fld w 12 3) (fld w 15 5) (fld w 20 5)) else none
  | 1 => if fldN w 9 3 = 0 ∧ fldN w 25 1 = 0 then some (.ops (fld w 7 2) (fld w 12 3) (fld w 15 5) (fld w 20 5)) else none
  | 2 => if fldN w 9 3 = 0 ∧ fldN w 25 1 = 1 then some (.opam (fld w 7 2) (fld w 12 3) (fld w 15 5) (fld w 20 5)) else none
  | 3 => if fldN w 9 17 = 0 then some (.tzero (fld w 7 2)) else none
  | 4 => if fldN w 9 6 = 8 ∧ fldN w 25 1 = 0 then some (.tld (fld w 7 2) (fld w 15 5) (fld w 20 5)) else none
  | 5 => if fldN w 9 6 = 8 ∧ fldN w 25 1 = 0 then some (.tst (fld w 7 2) (fld w 15 5) (fld w 20 5)) else none
  | 6 => if fldN w 9 3 = 0 then some (.trdrow (fld w 7 2) (fld w 12 3) (fld w 15 5) (fld w 20 5) (fld w 25 1)) else none
  | 7 => if fldN w 9 3 = 0 then some (.twrrow (fld w 7 2) (fld w 12 3) (fld w 15 5) (fld w 20 5) (fld w 25 1)) else none
  | 8 => if fldN w 9 6 = 8 then some (.tepi (fld w 7 2) (fld w 15 5) (fld w 20 5) (fld w 25 1)) else none
  | _ => none

/-- Major 0x1B (12_encoding.md R318). -/
def decodeSketch (w : IWord) : Option Instr :=
  match fldN w 25 7 with
  | 0 =>
    match fldN w 12 3 with
    | 1 => if fldN w 20 5 = 0 then some (.skinitD (fld w 7 5) (fld w 15 5)) else none
    | 2 => if fldN w 20 5 = 0 then some (.skinitH (fld w 7 5) (fld w 15 5)) else none
    | 3 => some (.skinitQ (fld w 7 5) (fld w 15 5) (fld w 20 5))
    | _ => none
  | 1 => if fldN w 7 5 = 0 ∧ fldN w 13 2 = 0 then some (.skqadd (fld w 12 1) (fld w 15 5) (fld w 20 5)) else none
  | 2 => if fldN w 13 1 = 0 then (if fldN w 7 5 = 0 ∧ fldN w 14 1 = 0 then some (.skhadd (fld w 12 1) (fld w 15 5) (fld w 20 5)) else none) else if fldN w 14 1 = 0 then some (.skhaddW (fld w 7 5) (fld w 12 1) (fld w 15 5) (fld w 20 5)) else none
  | 3 => if fldN w 7 5 = 0 ∧ fldN w 13 2 = 0 then some (.skdadd (fld w 12 1) (fld w 15 5) (fld w 20 5)) else none
  | 4 => if fldN w 7 8 = 0 then some (.skmerge (fld w 15 5) (fld w 20 5)) else none
  | 5 => if fldN w 12 3 = 0 then some (.skqq (fld w 7 5) (fld w 15 5) (fld w 20 5)) else none
  | 6 => if fldN w 14 1 = 0 then some (.skhtop (fld w 7 5) (fld w 12 2) (fld w 15 5) (fld w 20 5)) else none
  | 7 => if fldN w 12 3 = 0 ∧ fldN w 20 5 = 0 then some (.skdcnt (fld w 7 5) (fld w 15 5)) else none
  | 8 => if fldN w 13 2 = 0 then some (.vclipq (fld w 7 5) (fld w 12 1) (fld w 15 5) (fld w 20 5)) else none
  | 9 => if fldN w 13 2 = 0 then some (.vscaleq (fld w 7 5) (fld w 12 1) (fld w 15 5) (fld w 20 5)) else none
  | _ => none

/-- Major 0x1C (12_encoding.md R318). -/
def decodeRoute (w : IWord) : Option Instr :=
  match fldN w 25 7 with
  | 0 => if fldN w 13 2 = 0 then some (.rld (fld w 7 5) (fld w 12 1) (fld w 15 5) (fld w 20 3) (fld w 23 2)) else none
  | 1 => if fldN w 12 3 = 0 then some (.rst (fld w 7 5) (fld w 15 5) (fld w 20 3) (fld w 23 2)) else none
  | 2 => if fldN w 12 3 = 0 then some (.rstp (fld w 7 5) (fld w 15 5) (fld w 20 3) (fld w 23 2)) else none
  | 3 => some (.ramo (fld w 7 5) (BitVec.ofNat 4 (fldN w 24 1 * 8 + fldN w 12 3)) (fld w 15 5) (fld w 20 3) (fld w 23 1))
  | 4 => if fldN w 12 3 = 0 ∧ fldN w 23 2 = 0 then some (.rcas (fld w 7 5) (fld w 15 5) (fld w 20 3)) else none
  | 5 => if fldN w 23 2 = 0 then some (.send (fld w 7 5) (fld w 12 3) (fld w 15 5) (fld w 20 3)) else none
  | 6 => if fldN w 23 2 = 0 then some (.rnarrow (fld w 7 4) (fld w 11 1) (fld w 12 3) (fld w 15 5) (fld w 20 3)) else none
  | 7 => if fldN w 7 8 = 0 ∧ fldN w 23 2 = 0 then some (.rtld (fld w 15 5) (fld w 20 3)) else none
  | 8 => if fldN w 7 8 = 0 ∧ fldN w 23 2 = 0 then some (.rtst (fld w 15 5) (fld w 20 3)) else none
  | 9 => if fldN w 7 5 = 0 ∧ fldN w 15 5 = 0 ∧ fldN w 23 2 = 0 then some (.rmov (fld w 12 3) (fld w 20 3)) else none
  | 10 => if fldN w 12 13 = 0 then some (.rrevoke (fld w 7 5)) else none
  | 11 => if fldN w 12 3 = 0 then some (.rstm (fld w 7 5) (fld w 15 5) (fld w 20 3) (fld w 23 2)) else none
  | _ => none

/-- Major 0x1D (12_encoding.md R318). -/
def decodeColl (w : IWord) : Option Instr :=
  match fldN w 26 6 with
  | 0 => if fldN w 12 3 = 0 then some (.vstxr (fld w 7 5) (fld w 15 5) (fld w 20 5) (fld w 25 1)) else none
  | 1 => if fldN w 14 1 = 0 ∧ fldN w 25 1 = 0 then some (.collbegin (fld w 7 5) (fld w 12 2) (fld w 15 5) (fld w 20 5)) else none
  | 2 => if fldN w 12 2 = 0 then (if fldN w 7 5 = 0 ∧ fldN w 14 1 = 0 ∧ fldN w 20 5 = 0 then some (.collendExch (fld w 15 5) (fld w 25 1)) else none) else if fldN w 14 1 = 0 ∧ fldN w 20 5 = 0 then some (.collend (fld w 7 5) (fld w 12 2) (fld w 15 5) (fld w 25 1)) else none
  | 3 => if fldN w 7 8 = 0 ∧ fldN w 20 6 = 0 then some (.collabort (fld w 15 5)) else none
  | _ => none

/-- The row whose word `w` is, if any (12_encoding.md R318, R319). -/
def decodeRow (w : IWord) : Option Instr :=
  match fldN w 0 7 with
  | 1 => decodeOpi w
  | 2 => decodeOpr w
  | 3 => decodeLui w
  | 4 => decodeAuipc w
  | 5 => decodeLoad w
  | 6 => decodeStore w
  | 7 => decodeBranch w
  | 8 => decodeJal w
  | 9 => decodeJalr w
  | 10 => decodeFps w
  | 11 => decodeSync w
  | 12 => decodeSystem w
  | 15 => decodeSetvli w
  | 16 => decodeVcfg w
  | 17 => decodeVarith w
  | 18 => decodeVmask w
  | 19 => decodeVperm w
  | 20 => decodeVred w
  | 21 => decodeVmod w
  | 22 => decodeVload w
  | 23 => decodeVstore w
  | 24 => decodeStream w
  | 25 => decodeEngine w
  | 26 => decodeTile w
  | 27 => decodeSketch w
  | 28 => decodeRoute w
  | 29 => decodeColl w
  | _ => none

/-- The operation a word stands for. -/
def decode (w : IWord) : Instr :=
  match decodeRow w with
  | some i => i
  | none => .illegalWord w

/-- Four bytes, the lowest address first, as a word (12_encoding.md R314). -/
def wordOfBytes (b0 b1 b2 b3 : Byte) : IWord :=
  BitVec.ofNat 32 (b0.toNat + b1.toNat * 256 + b2.toNat * 65536 + b3.toNat * 16777216)

/-- Why bytes do not decode. -/
inductive DecodeError
  /-- fewer than four bytes: no instruction is shorter than a word (12_encoding.md R314) -/
  | truncated
deriving DecidableEq, Repr

/-- Decode the first instruction of a list of bytes, with the rest of the list. -/
def decodeBytes : List Byte → Except DecodeError (Instr × List Byte)
  | b0 :: b1 :: b2 :: b3 :: rest => .ok (decode (wordOfBytes b0 b1 b2 b3), rest)
  | _ => .error .truncated

/-- The low `n` bits of a number, given to the decoder as the bytes of one word. -/
def decodeTableWord (nbits w : Nat) : Option Instr :=
  if 32 < nbits then none
  else
    let v := w % 2 ^ nbits
    match decodeBytes [BitVec.ofNat 8 v, BitVec.ofNat 8 (v / 256), BitVec.ofNat 8 (v / 65536), BitVec.ofNat 8 (v / 16777216)] with
    | .ok (i, _) => some i
    | .error _ => none

/-! ## Encoding -/

/-- The operation has an instruction word. -/
def Instr.isWord : Instr → Bool
  | .addi _ _ _ => true
  | .andi _ _ _ => true
  | .ori _ _ _ => true
  | .xori _ _ _ => true
  | .slti _ _ _ => true
  | .sltiu _ _ _ => true
  | .slli _ _ _ => true
  | .srli _ _ _ => true
  | .srai _ _ _ => true
  | .add _ _ _ => true
  | .sub _ _ _ => true
  | .and _ _ _ => true
  | .or _ _ _ => true
  | .xor _ _ _ => true
  | .sll _ _ _ => true
  | .srl _ _ _ => true
  | .sra _ _ _ => true
  | .slt _ _ _ => true
  | .sltu _ _ _ => true
  | .mul _ _ _ => true
  | .mulh _ _ _ => true
  | .mulhu _ _ _ => true
  | .div _ _ _ => true
  | .divu _ _ _ => true
  | .rem _ _ _ => true
  | .remu _ _ _ => true
  | .min _ _ _ => true
  | .max _ _ _ => true
  | .minu _ _ _ => true
  | .maxu _ _ _ => true
  | .clz _ _ => true
  | .ctz _ _ => true
  | .popc _ _ => true
  | .mulmod _ _ _ => true
  | .lui _ _ => true
  | .auipc _ _ => true
  | .lb _ _ _ => true
  | .lh _ _ _ => true
  | .lw _ _ _ => true
  | .ld _ _ _ => true
  | .lbu _ _ _ => true
  | .lhu _ _ _ => true
  | .lwu _ _ _ => true
  | .sb _ _ _ => true
  | .sh _ _ _ => true
  | .sw _ _ _ => true
  | .sd _ _ _ => true
  | .beq _ _ _ => true
  | .bne _ _ _ => true
  | .blt _ _ _ => true
  | .bge _ _ _ => true
  | .bltu _ _ _ => true
  | .bgeu _ _ _ => true
  | .jal _ _ => true
  | .jalr _ _ _ => true
  | .fadd _ _ _ _ => true
  | .fsub _ _ _ _ => true
  | .fmul _ _ _ _ => true
  | .fdiv _ _ _ _ => true
  | .fsqrt _ _ _ => true
  | .fmin _ _ _ _ => true
  | .fmax _ _ _ _ => true
  | .fmac _ _ _ _ => true
  | .feq _ _ _ _ => true
  | .flt _ _ _ _ => true
  | .fle _ _ _ _ => true
  | .fclass _ _ _ => true
  | .fsgnj _ _ _ _ => true
  | .fsgnjn _ _ _ _ => true
  | .fsgnjx _ _ _ _ => true
  | .fcvtif _ _ _ _ => true
  | .fcvtfi _ _ _ _ => true
  | .fcvtff _ _ _ _ => true
  | .ldfe _ _ => true
  | .ldff _ _ => true
  | .stef _ _ _ => true
  | .stf _ _ => true
  | .feclr _ => true
  | .fepeek _ _ => true
  | .amoadd _ _ _ _ => true
  | .amoand _ _ _ _ => true
  | .amoor _ _ _ _ => true
  | .amoxor _ _ _ _ => true
  | .amomin _ _ _ _ => true
  | .amomax _ _ _ _ => true
  | .amominu _ _ _ _ => true
  | .amomaxu _ _ _ _ => true
  | .amoswap _ _ _ _ => true
  | .cas _ _ _ _ => true
  | .amofadd _ _ _ _ => true
  | .fence _ _ _ _ => true
  | .rlx _ => true
  | .pglobal _ _ => true
  | .csrrw _ _ _ => true
  | .csrrs _ _ _ => true
  | .csrrc _ _ _ => true
  | .csrrwi _ _ _ => true
  | .csrrsi _ _ _ => true
  | .csrrci _ _ _ => true
  | .ecall => true
  | .ebreak => true
  | .sret => true
  | .mret => true
  | .waitmsg => true
  | .popmsg _ _ => true
  | .yield => true
  | .hdone => true
  | .bar _ => true
  | .launch _ _ => true
  | .sqpush _ _ => true
  | .tlbinv _ _ => true
  | .asidset _ _ => true
  | .setvli _ _ _ _ => true
  | .setvl _ _ _ => true
  | .lsplit _ _ _ => true
  | .lmerge => true
  | .vtag _ _ => true
  | .vfmx _ _ => true
  | .pump _ _ _ _ _ => true
  | .pumpstop => true
  | .vadd _ _ _ _ _ => true
  | .vsub _ _ _ _ _ => true
  | .vmul _ _ _ _ _ => true
  | .vmulh _ _ _ _ _ => true
  | .vmadd _ _ _ _ _ => true
  | .vnmsub _ _ _ _ _ => true
  | .vdiv _ _ _ _ _ => true
  | .vrem _ _ _ _ _ => true
  | .vmin _ _ _ _ _ => true
  | .vmax _ _ _ _ _ => true
  | .vabs _ _ _ => true
  | .vneg _ _ _ => true
  | .vsqrt _ _ _ => true
  | .vand _ _ _ _ _ => true
  | .vor _ _ _ _ _ => true
  | .vxor _ _ _ _ _ => true
  | .vsll _ _ _ _ _ => true
  | .vsrl _ _ _ _ _ => true
  | .vsra _ _ _ _ _ => true
  | .vsadd _ _ _ _ _ => true
  | .vssub _ _ _ _ _ => true
  | .vcmpeq _ _ _ _ _ => true
  | .vcmpne _ _ _ _ _ => true
  | .vcmplt _ _ _ _ _ => true
  | .vcmple _ _ _ _ _ => true
  | .vcmpgt _ _ _ _ _ => true
  | .vcmpge _ _ _ _ _ => true
  | .mand _ _ _ _ => true
  | .mor _ _ _ _ => true
  | .mxor _ _ _ _ => true
  | .mandn _ _ _ _ => true
  | .mpopc _ _ _ => true
  | .mfirst _ _ _ => true
  | .miota _ _ _ => true
  | .vmv _ _ _ _ _ => true
  | .vmvx _ _ _ _ => true
  | .vmvs _ _ => true
  | .vid _ _ => true
  | .vsel _ _ _ _ => true
  | .vcompress _ _ => true
  | .vslideup _ _ _ _ _ => true
  | .vslidedn _ _ _ _ _ => true
  | .vperm _ _ _ _ => true
  | .vcvt _ _ _ _ => true
  | .vqsf4 _ _ _ _ => true
  | .vredsum _ _ _ => true
  | .vredmax _ _ _ => true
  | .vredmin _ _ _ => true
  | .vreddot _ _ _ _ => true
  | .vexp2 _ _ _ => true
  | .vlog2 _ _ _ => true
  | .vrcp _ _ _ => true
  | .vrsqrt _ _ _ => true
  | .vtanh _ _ _ => true
  | .vsigm _ _ _ => true
  | .vmodadd _ _ _ _ _ => true
  | .vmodsub _ _ _ _ _ => true
  | .vmodmul _ _ _ _ _ => true
  | .vmodred _ _ _ => true
  | .vbflyct _ _ _ _ _ => true
  | .vbflygs _ _ _ _ _ => true
  | .vld _ _ _ => true
  | .vlds _ _ _ _ => true
  | .vldx _ _ _ _ => true
  | .vfill _ _ => true
  | .vst _ _ _ => true
  | .vsts _ _ _ _ => true
  | .vstx _ _ _ _ => true
  | .vscadd _ _ _ _ => true
  | .vspill _ _ => true
  | .stbind _ _ => true
  | .strbind _ _ => true
  | .stfbind _ _ => true
  | .stunbind _ => true
  | .cpy _ _ _ => true
  | .syncarm _ _ _ => true
  | .syncwait _ _ _ => true
  | .opa _ _ _ _ => true
  | .ops _ _ _ _ => true
  | .opam _ _ _ _ => true
  | .tzero _ => true
  | .tld _ _ _ => true
  | .tst _ _ _ => true
  | .trdrow _ _ _ _ _ => true
  | .twrrow _ _ _ _ _ => true
  | .tepi _ _ _ _ => true
  | .skinitD _ _ => true
  | .skinitH _ _ => true
  | .skinitQ _ _ _ => true
  | .skqadd _ _ _ => true
  | .skhadd _ _ _ => true
  | .skhaddW _ _ _ _ => true
  | .skdadd _ _ _ => true
  | .skmerge _ _ => true
  | .skqq _ _ _ => true
  | .skhtop _ _ _ _ => true
  | .skdcnt _ _ => true
  | .vclipq _ _ _ _ => true
  | .vscaleq _ _ _ _ => true
  | .rld _ _ _ _ _ => true
  | .rst _ _ _ _ => true
  | .rstp _ _ _ _ => true
  | .ramo _ _ _ _ _ => true
  | .rcas _ _ _ => true
  | .send _ _ _ _ => true
  | .rnarrow _ _ _ _ _ => true
  | .rtld _ _ => true
  | .rtst _ _ => true
  | .rmov _ _ => true
  | .rrevoke _ => true
  | .rstm _ _ _ _ => true
  | .vstxr _ _ _ _ => true
  | .collbegin _ _ _ _ => true
  | .collend _ _ _ _ => true
  | .collendExch _ _ => true
  | .collabort _ => true
  | .pwrgoodLow => false
  | .pwrgoodRise => false
  | .perstAssert => false
  | .perstDeassert => false
  | .identityPhase _ => false
  | .imagePhase _ => false
  | .diesPhase _ => false
  | .firmwarePhase _ => false
  | .storagePhase _ => false
  | .ready => false
  | .phaseTimeout => false
  | .minVersionRaise => false
  | .configRequest _ _ => false
  | .currentGovernorSample _ _ => false
  | .vcoreDroop _ => false
  | .thermalSample _ _ => false
  | .firmwareWatchdog => false
  | .patrolScrub _ _ => false
  | .pldmMonitor => false
  | .pldmFirmwareUpdate _ _ => false
  | .linkEnable _ _ => false
  | .linkTrained _ => false
  | .trainTimeout _ => false
  | .trainRetry _ _ => false
  | .authEstablished _ _ _ => false
  | .authFail _ => false
  | .authTimeout _ => false
  | .linkSignalLoss _ => false
  | .linkHeartbeatTimeout _ => false
  | .linkHeartbeatSend _ => false
  | .linkKeyUpdate _ => false
  | .linkDisable _ => false
  | .linkReenable _ => false
  | .frameSend _ => false
  | .frameReceive _ _ _ => false
  | .switchRequest _ => false
  | .switchReply _ => false
  | .multicastTimeout _ => false
  | .requestTimeout _ _ => false
  | .flitAge => false
  | .requestAdmission _ => false
  | .retry _ => false
  | .reinject _ => false
  | .backnote _ => false
  | .gapHalve _ _ _ => false
  | .peerEntryWrite _ _ _ => false
  | .ethFrameReceive _ _ _ => false
  | .ethReplayTimeout _ _ => false
  | .ethReauth _ _ => false
  | .keyInstall _ _ => false
  | .keyActivate _ => false
  | .keyRetire _ => false
  | .keyRotation => false
  | .wrapNotice _ => false
  | .revocationComplete _ => false
  | .linkMap _ _ => false
  | .idAssign _ _ => false
  | .leadDepart _ => false
  | .domainMerge _ => false
  | .mint _ => false
  | .mintm _ => false
  | .revoke _ => false
  | .openm _ => false
  | .query _ => false
  | .leafConfirm _ _ _ _ => false
  | .loadRequest _ => false
  | .storeRequest _ => false
  | .pstoreRequest _ => false
  | .atomicRequest _ => false
  | .casRequest _ => false
  | .sendRequest _ => false
  | .putRequest _ => false
  | .getRequest _ => false
  | .strdataRequest _ => false
  | .mstoreRequest _ => false
  | .atomicRetransmit _ _ => false
  | .dataReply _ => false
  | .ackReply _ => false
  | .errorReply _ => false
  | .mackReply _ => false
  | .faultRecord _ => false
  | .nvmeCompletion _ _ _ => false
  | .busyRangeClear _ => false
  | .nvmeTimeout _ _ => false
  | .controllerReadyTimeout _ => false
  | .driveInboundRequest _ _ _ => false
  | .writeback _ => false
  | .prefetch _ => false
  | .trim _ => false
  | .flush _ => false
  | .slotset _ => false
  | .slotclr _ => false
  | .resume _ => false
  | .siphonMessageDeliver _ => false
  | .tailWrite _ _ => false
  | .cplheadWrite _ _ => false
  | .ringConfigWrite _ _ _ _ => false
  | .registerWrite _ _ _ _ => false
  | .configSpaceChange _ => false
  | .functionLevelReset _ => false
  | .ideError _ => false
  | .ringEntry _ _ _ => false
  | .dmaError _ => false
  | .completionWrite _ => false
  | .scrubComplete _ => false
  | .lockInterfaceRequest _ _ => false
  | .startInterfaceRequest _ _ _ => false
  | .stopInterfaceRequest _ _ => false
  | .getDeviceInterfaceState _ _ => false
  | .getDeviceInterfaceReport _ _ => false
  | .keyExchange _ _ => false
  | .endSession _ => false
  | .keyUpdate _ _ _ => false
  | .heartbeat _ _ => false
  | .sessionTimeout _ => false
  | .getMeasurements _ _ _ => false
  | .getCertificate _ _ => false
  | .challenge _ _ => false
  | .keyProg _ _ _ _ => false
  | .kSetGo _ _ _ => false
  | .kSetStop _ _ _ => false
  | .enclParam _ _ _ _ _ => false
  | .enclQuery _ _ => false
  | .launchValidate _ => false
  | .placeLaunch _ _ => false
  | .resumeLaunch _ => false
  | .priorityPreempt _ _ _ => false
  | .enclaveSwitch _ _ => false
  | .launchComplete _ => false
  | .chargeDecay _ => false
  | .chargeReport _ => false
  | .sluiceChargeDecay => false
  | .stripEnd _ _ => false
  | .pumpRepetition _ _ => false
  | .streamFetch _ _ _ _ => false
  | .copyPacket _ => false
  | .weirApply _ => false
  | .collAbortSend _ _ _ => false
  | .timecmpReached _ _ => false
  | .interruptTake _ _ => false
  | .deferredTrap _ _ => false
  | .signalDetect _ => false
  | .routerCycle => false
  | .injectionGapPassed _ _ _ => false
  | .controllerReady _ => false
  | .installAck _ _ => false
  | .leafConfirmationReceived _ _ _ _ => false
  | .coreReset _ => false
  | .illegalWord _ => true

/-- The word of an operation (12_encoding.md R314, R318); an operation that no word encodes has the word 0. -/
def encode : Instr → IWord
  | .addi d a i => BitVec.ofNat 32 (0x1 + d.toNat * 128 + a.toNat * 32768 + i.toNat * 1048576)
  | .andi d a i => BitVec.ofNat 32 (0x1001 + d.toNat * 128 + a.toNat * 32768 + i.toNat * 1048576)
  | .ori d a i => BitVec.ofNat 32 (0x2001 + d.toNat * 128 + a.toNat * 32768 + i.toNat * 1048576)
  | .xori d a i => BitVec.ofNat 32 (0x3001 + d.toNat * 128 + a.toNat * 32768 + i.toNat * 1048576)
  | .slti d a i => BitVec.ofNat 32 (0x4001 + d.toNat * 128 + a.toNat * 32768 + i.toNat * 1048576)
  | .sltiu d a i => BitVec.ofNat 32 (0x5001 + d.toNat * 128 + a.toNat * 32768 + i.toNat * 1048576)
  | .slli d a s => BitVec.ofNat 32 (0x6001 + d.toNat * 128 + a.toNat * 32768 + s.toNat * 1048576)
  | .srli d a s => BitVec.ofNat 32 (0x4006001 + d.toNat * 128 + a.toNat * 32768 + s.toNat * 1048576)
  | .srai d a s => BitVec.ofNat 32 (0x8006001 + d.toNat * 128 + a.toNat * 32768 + s.toNat * 1048576)
  | .add d a b => BitVec.ofNat 32 (0x2 + d.toNat * 128 + a.toNat * 32768 + b.toNat * 1048576)
  | .sub d a b => BitVec.ofNat 32 (0x2000002 + d.toNat * 128 + a.toNat * 32768 + b.toNat * 1048576)
  | .and d a b => BitVec.ofNat 32 (0x4000002 + d.toNat * 128 + a.toNat * 32768 + b.toNat * 1048576)
  | .or d a b => BitVec.ofNat 32 (0x6000002 + d.toNat * 128 + a.toNat * 32768 + b.toNat * 1048576)
  | .xor d a b => BitVec.ofNat 32 (0x8000002 + d.toNat * 128 + a.toNat * 32768 + b.toNat * 1048576)
  | .sll d a b => BitVec.ofNat 32 (0xA000002 + d.toNat * 128 + a.toNat * 32768 + b.toNat * 1048576)
  | .srl d a b => BitVec.ofNat 32 (0xC000002 + d.toNat * 128 + a.toNat * 32768 + b.toNat * 1048576)
  | .sra d a b => BitVec.ofNat 32 (0xE000002 + d.toNat * 128 + a.toNat * 32768 + b.toNat * 1048576)
  | .slt d a b => BitVec.ofNat 32 (0x10000002 + d.toNat * 128 + a.toNat * 32768 + b.toNat * 1048576)
  | .sltu d a b => BitVec.ofNat 32 (0x12000002 + d.toNat * 128 + a.toNat * 32768 + b.toNat * 1048576)
  | .mul d a b => BitVec.ofNat 32 (0x14000002 + d.toNat * 128 + a.toNat * 32768 + b.toNat * 1048576)
  | .mulh d a b => BitVec.ofNat 32 (0x16000002 + d.toNat * 128 + a.toNat * 32768 + b.toNat * 1048576)
  | .mulhu d a b => BitVec.ofNat 32 (0x18000002 + d.toNat * 128 + a.toNat * 32768 + b.toNat * 1048576)
  | .div d a b => BitVec.ofNat 32 (0x1A000002 + d.toNat * 128 + a.toNat * 32768 + b.toNat * 1048576)
  | .divu d a b => BitVec.ofNat 32 (0x1C000002 + d.toNat * 128 + a.toNat * 32768 + b.toNat * 1048576)
  | .rem d a b => BitVec.ofNat 32 (0x1E000002 + d.toNat * 128 + a.toNat * 32768 + b.toNat * 1048576)
  | .remu d a b => BitVec.ofNat 32 (0x20000002 + d.toNat * 128 + a.toNat * 32768 + b.toNat * 1048576)
  | .min d a b => BitVec.ofNat 32 (0x22000002 + d.toNat * 128 + a.toNat * 32768 + b.toNat * 1048576)
  | .max d a b => BitVec.ofNat 32 (0x24000002 + d.toNat * 128 + a.toNat * 32768 + b.toNat * 1048576)
  | .minu d a b => BitVec.ofNat 32 (0x26000002 + d.toNat * 128 + a.toNat * 32768 + b.toNat * 1048576)
  | .maxu d a b => BitVec.ofNat 32 (0x28000002 + d.toNat * 128 + a.toNat * 32768 + b.toNat * 1048576)
  | .clz d a => BitVec.ofNat 32 (0x2A000002 + d.toNat * 128 + a.toNat * 32768)
  | .ctz d a => BitVec.ofNat 32 (0x2C000002 + d.toNat * 128 + a.toNat * 32768)
  | .popc d a => BitVec.ofNat 32 (0x2E000002 + d.toNat * 128 + a.toNat * 32768)
  | .mulmod d a b => BitVec.ofNat 32 (0x30000002 + d.toNat * 128 + a.toNat * 32768 + b.toNat * 1048576)
  | .lui d i => BitVec.ofNat 32 (0x3 + d.toNat * 128 + i.toNat * 4096)
  | .auipc d i => BitVec.ofNat 32 (0x4 + d.toNat * 128 + i.toNat * 4096)
  | .lb d a i => BitVec.ofNat 32 (0x5 + d.toNat * 128 + a.toNat * 32768 + i.toNat * 1048576)
  | .lh d a i => BitVec.ofNat 32 (0x1005 + d.toNat * 128 + a.toNat * 32768 + i.toNat * 1048576)
  | .lw d a i => BitVec.ofNat 32 (0x2005 + d.toNat * 128 + a.toNat * 32768 + i.toNat * 1048576)
  | .ld d a i => BitVec.ofNat 32 (0x3005 + d.toNat * 128 + a.toNat * 32768 + i.toNat * 1048576)
  | .lbu d a i => BitVec.ofNat 32 (0x4005 + d.toNat * 128 + a.toNat * 32768 + i.toNat * 1048576)
  | .lhu d a i => BitVec.ofNat 32 (0x5005 + d.toNat * 128 + a.toNat * 32768 + i.toNat * 1048576)
  | .lwu d a i => BitVec.ofNat 32 (0x6005 + d.toNat * 128 + a.toNat * 32768 + i.toNat * 1048576)
  | .sb a b i => BitVec.ofNat 32 (0x6 + a.toNat * 32768 + b.toNat * 1048576 + i.toNat / 32 * 33554432 + i.toNat % 32 * 128)
  | .sh a b i => BitVec.ofNat 32 (0x1006 + a.toNat * 32768 + b.toNat * 1048576 + i.toNat / 32 * 33554432 + i.toNat % 32 * 128)
  | .sw a b i => BitVec.ofNat 32 (0x2006 + a.toNat * 32768 + b.toNat * 1048576 + i.toNat / 32 * 33554432 + i.toNat % 32 * 128)
  | .sd a b i => BitVec.ofNat 32 (0x3006 + a.toNat * 32768 + b.toNat * 1048576 + i.toNat / 32 * 33554432 + i.toNat % 32 * 128)
  | .beq a b i => BitVec.ofNat 32 (0x7 + a.toNat * 32768 + b.toNat * 1048576 + i.toNat / 32 * 33554432 + i.toNat % 32 * 128)
  | .bne a b i => BitVec.ofNat 32 (0x1007 + a.toNat * 32768 + b.toNat * 1048576 + i.toNat / 32 * 33554432 + i.toNat % 32 * 128)
  | .blt a b i => BitVec.ofNat 32 (0x2007 + a.toNat * 32768 + b.toNat * 1048576 + i.toNat / 32 * 33554432 + i.toNat % 32 * 128)
  | .bge a b i => BitVec.ofNat 32 (0x3007 + a.toNat * 32768 + b.toNat * 1048576 + i.toNat / 32 * 33554432 + i.toNat % 32 * 128)
  | .bltu a b i => BitVec.ofNat 32 (0x4007 + a.toNat * 32768 + b.toNat * 1048576 + i.toNat / 32 * 33554432 + i.toNat % 32 * 128)
  | .bgeu a b i => BitVec.ofNat 32 (0x5007 + a.toNat * 32768 + b.toNat * 1048576 + i.toNat / 32 * 33554432 + i.toNat % 32 * 128)
  | .jal d o => BitVec.ofNat 32 (0x8 + d.toNat * 128 + o.toNat * 4096)
  | .jalr d a i => BitVec.ofNat 32 (0x9 + d.toNat * 128 + a.toNat * 32768 + i.toNat * 1048576)
  | .fadd d f a b => BitVec.ofNat 32 (0xA + d.toNat * 128 + f.toNat * 4096 + a.toNat * 32768 + b.toNat * 1048576)
  | .fsub d f a b => BitVec.ofNat 32 (0x200000A + d.toNat * 128 + f.toNat * 4096 + a.toNat * 32768 + b.toNat * 1048576)
  | .fmul d f a b => BitVec.ofNat 32 (0x400000A + d.toNat * 128 + f.toNat * 4096 + a.toNat * 32768 + b.toNat * 1048576)
  | .fdiv d f a b => BitVec.ofNat 32 (0x600000A + d.toNat * 128 + f.toNat * 4096 + a.toNat * 32768 + b.toNat * 1048576)
  | .fsqrt d f a => BitVec.ofNat 32 (0x800000A + d.toNat * 128 + f.toNat * 4096 + a.toNat * 32768)
  | .fmin d f a b => BitVec.ofNat 32 (0xA00000A + d.toNat * 128 + f.toNat * 4096 + a.toNat * 32768 + b.toNat * 1048576)
  | .fmax d f a b => BitVec.ofNat 32 (0xC00000A + d.toNat * 128 + f.toNat * 4096 + a.toNat * 32768 + b.toNat * 1048576)
  | .fmac d f a b => BitVec.ofNat 32 (0xE00000A + d.toNat * 128 + f.toNat * 4096 + a.toNat * 32768 + b.toNat * 1048576)
  | .feq d f a b => BitVec.ofNat 32 (0x1000000A + d.toNat * 128 + f.toNat * 4096 + a.toNat * 32768 + b.toNat * 1048576)
  | .flt d f a b => BitVec.ofNat 32 (0x1200000A + d.toNat * 128 + f.toNat * 4096 + a.toNat * 32768 + b.toNat * 1048576)
  | .fle d f a b => BitVec.ofNat 32 (0x1400000A + d.toNat * 128 + f.toNat * 4096 + a.toNat * 32768 + b.toNat * 1048576)
  | .fclass d f a => BitVec.ofNat 32 (0x1600000A + d.toNat * 128 + f.toNat * 4096 + a.toNat * 32768)
  | .fsgnj d f a b => BitVec.ofNat 32 (0x1800000A + d.toNat * 128 + f.toNat * 4096 + a.toNat * 32768 + b.toNat * 1048576)
  | .fsgnjn d f a b => BitVec.ofNat 32 (0x1A00000A + d.toNat * 128 + f.toNat * 4096 + a.toNat * 32768 + b.toNat * 1048576)
  | .fsgnjx d f a b => BitVec.ofNat 32 (0x1C00000A + d.toNat * 128 + f.toNat * 4096 + a.toNat * 32768 + b.toNat * 1048576)
  | .fcvtif d f a s => BitVec.ofNat 32 (0x1E00000A + d.toNat * 128 + f.toNat * 4096 + a.toNat * 32768 + s.toNat * 1048576)
  | .fcvtfi d f a s => BitVec.ofNat 32 (0x2000000A + d.toNat * 128 + f.toNat * 4096 + a.toNat * 32768 + s.toNat * 1048576)
  | .fcvtff d f a s => BitVec.ofNat 32 (0x2200000A + d.toNat * 128 + f.toNat * 4096 + a.toNat * 32768 + s.toNat * 1048576)
  | .ldfe d a => BitVec.ofNat 32 (0xB + d.toNat * 128 + a.toNat * 32768)
  | .ldff d a => BitVec.ofNat 32 (0x200000B + d.toNat * 128 + a.toNat * 32768)
  | .stef d a b => BitVec.ofNat 32 (0x400000B + d.toNat * 128 + a.toNat * 32768 + b.toNat * 1048576)
  | .stf a b => BitVec.ofNat 32 (0x600000B + a.toNat * 32768 + b.toNat * 1048576)
  | .feclr a => BitVec.ofNat 32 (0x800000B + a.toNat * 32768)
  | .fepeek d a => BitVec.ofNat 32 (0xA00000B + d.toNat * 128 + a.toNat * 32768)
  | .amoadd d w a b => BitVec.ofNat 32 (0xC00200B + d.toNat * 128 + w.toNat * 4096 + a.toNat * 32768 + b.toNat * 1048576)
  | .amoand d w a b => BitVec.ofNat 32 (0xE00200B + d.toNat * 128 + w.toNat * 4096 + a.toNat * 32768 + b.toNat * 1048576)
  | .amoor d w a b => BitVec.ofNat 32 (0x1000200B + d.toNat * 128 + w.toNat * 4096 + a.toNat * 32768 + b.toNat * 1048576)
  | .amoxor d w a b => BitVec.ofNat 32 (0x1200200B + d.toNat * 128 + w.toNat * 4096 + a.toNat * 32768 + b.toNat * 1048576)
  | .amomin d w a b => BitVec.ofNat 32 (0x1400200B + d.toNat * 128 + w.toNat * 4096 + a.toNat * 32768 + b.toNat * 1048576)
  | .amomax d w a b => BitVec.ofNat 32 (0x1600200B + d.toNat * 128 + w.toNat * 4096 + a.toNat * 32768 + b.toNat * 1048576)
  | .amominu d w a b => BitVec.ofNat 32 (0x1800200B + d.toNat * 128 + w.toNat * 4096 + a.toNat * 32768 + b.toNat * 1048576)
  | .amomaxu d w a b => BitVec.ofNat 32 (0x1A00200B + d.toNat * 128 + w.toNat * 4096 + a.toNat * 32768 + b.toNat * 1048576)
  | .amoswap d w a b => BitVec.ofNat 32 (0x1C00200B + d.toNat * 128 + w.toNat * 4096 + a.toNat * 32768 + b.toNat * 1048576)
  | .cas d w a b => BitVec.ofNat 32 (0x1E00200B + d.toNat * 128 + w.toNat * 4096 + a.toNat * 32768 + b.toNat * 1048576)
  | .amofadd d w a b => BitVec.ofNat 32 (0x2000000B + d.toNat * 128 + w.toNat * 4096 + a.toNat * 32768 + b.toNat * 1048576)
  | .fence s v e p => BitVec.ofNat 32 (0x2200000B + s.toNat * 4096 + v.toNat * 1048576 + e.toNat * 2097152 + p.toNat * 4194304)
  | .rlx n => BitVec.ofNat 32 (0x2400000B + n.toNat * 1048576)
  | .pglobal d a => BitVec.ofNat 32 (0x2600000B + d.toNat * 128 + a.toNat * 32768)
  | .csrrw d a c => BitVec.ofNat 32 (0x100C + d.toNat * 128 + a.toNat * 32768 + c.toNat * 1048576)
  | .csrrs d a c => BitVec.ofNat 32 (0x200C + d.toNat * 128 + a.toNat * 32768 + c.toNat * 1048576)
  | .csrrc d a c => BitVec.ofNat 32 (0x300C + d.toNat * 128 + a.toNat * 32768 + c.toNat * 1048576)
  | .csrrwi d z c => BitVec.ofNat 32 (0x500C + d.toNat * 128 + z.toNat * 32768 + c.toNat * 1048576)
  | .csrrsi d z c => BitVec.ofNat 32 (0x600C + d.toNat * 128 + z.toNat * 32768 + c.toNat * 1048576)
  | .csrrci d z c => BitVec.ofNat 32 (0x700C + d.toNat * 128 + z.toNat * 32768 + c.toNat * 1048576)
  | .ecall => BitVec.ofNat 32 (0xC)
  | .ebreak => BitVec.ofNat 32 (0x10000C)
  | .sret => BitVec.ofNat 32 (0x20000C)
  | .mret => BitVec.ofNat 32 (0x30000C)
  | .waitmsg => BitVec.ofNat 32 (0x40000C)
  | .popmsg d a => BitVec.ofNat 32 (0x50000C + d.toNat * 128 + a.toNat * 32768)
  | .yield => BitVec.ofNat 32 (0x60000C)
  | .hdone => BitVec.ofNat 32 (0x70000C)
  | .bar s => BitVec.ofNat 32 (0x80000C + s.toNat * 32768)
  | .launch d a => BitVec.ofNat 32 (0x90000C + d.toNat * 128 + a.toNat * 32768)
  | .sqpush d a => BitVec.ofNat 32 (0xA0000C + d.toNat * 128 + a.toNat * 32768)
  | .tlbinv s a => BitVec.ofNat 32 (0xB0000C + s.toNat * 128 + a.toNat * 32768)
  | .asidset s a => BitVec.ofNat 32 (0xC0000C + s.toNat * 128 + a.toNat * 32768)
  | .setvli d a t g => BitVec.ofNat 32 (0xF + d.toNat * 128 + a.toNat * 32768 + t.toNat * 1048576 + g.toNat * 33554432)
  | .setvl d a b => BitVec.ofNat 32 (0x10 + d.toNat * 128 + a.toNat * 32768 + b.toNat * 1048576)
  | .lsplit d a s => BitVec.ofNat 32 (0x2000010 + d.toNat * 128 + a.toNat * 32768 + s.toNat * 1048576)
  | .lmerge => BitVec.ofNat 32 (0x4000010)
  | .vtag d t => BitVec.ofNat 32 (0x6000010 + d.toNat * 128 + t.toNat * 1048576)
  | .vfmx d b => BitVec.ofNat 32 (0x8000010 + d.toNat * 128 + b.toNat * 1048576)
  | .pump n m a s w => BitVec.ofNat 32 (0xA000010 + n.toNat * 128 + m.toNat * 4096 + a.toNat * 32768 + s.toNat * 1048576 + w.toNat * 4194304)
  | .pumpstop => BitVec.ofNat 32 (0xC000010)
  | .vadd d k a b m => BitVec.ofNat 32 (0x11 + d.toNat * 128 + k.toNat * 4096 + a.toNat * 32768 + b.toNat * 1048576 + m.toNat * 33554432)
  | .vsub d k a b m => BitVec.ofNat 32 (0x4000011 + d.toNat * 128 + k.toNat * 4096 + a.toNat * 32768 + b.toNat * 1048576 + m.toNat * 33554432)
  | .vmul d k a b m => BitVec.ofNat 32 (0x8000011 + d.toNat * 128 + k.toNat * 4096 + a.toNat * 32768 + b.toNat * 1048576 + m.toNat * 33554432)
  | .vmulh d k a b m => BitVec.ofNat 32 (0xC000011 + d.toNat * 128 + k.toNat * 4096 + a.toNat * 32768 + b.toNat * 1048576 + m.toNat * 33554432)
  | .vmadd d k a b m => BitVec.ofNat 32 (0x10000011 + d.toNat * 128 + k.toNat * 4096 + a.toNat * 32768 + b.toNat * 1048576 + m.toNat * 33554432)
  | .vnmsub d k a b m => BitVec.ofNat 32 (0x14000011 + d.toNat * 128 + k.toNat * 4096 + a.toNat * 32768 + b.toNat * 1048576 + m.toNat * 33554432)
  | .vdiv d k a b m => BitVec.ofNat 32 (0x18000011 + d.toNat * 128 + k.toNat * 4096 + a.toNat * 32768 + b.toNat * 1048576 + m.toNat * 33554432)
  | .vrem d k a b m => BitVec.ofNat 32 (0x1C000011 + d.toNat * 128 + k.toNat * 4096 + a.toNat * 32768 + b.toNat * 1048576 + m.toNat * 33554432)
  | .vmin d k a b m => BitVec.ofNat 32 (0x20000011 + d.toNat * 128 + k.toNat * 4096 + a.toNat * 32768 + b.toNat * 1048576 + m.toNat * 33554432)
  | .vmax d k a b m => BitVec.ofNat 32 (0x24000011 + d.toNat * 128 + k.toNat * 4096 + a.toNat * 32768 + b.toNat * 1048576 + m.toNat * 33554432)
  | .vabs d a m => BitVec.ofNat 32 (0x28000011 + d.toNat * 128 + a.toNat * 32768 + m.toNat * 33554432)
  | .vneg d a m => BitVec.ofNat 32 (0x2C000011 + d.toNat * 128 + a.toNat * 32768 + m.toNat * 33554432)
  | .vsqrt d a m => BitVec.ofNat 32 (0x30000011 + d.toNat * 128 + a.toNat * 32768 + m.toNat * 33554432)
  | .vand d k a b m => BitVec.ofNat 32 (0x34000011 + d.toNat * 128 + k.toNat * 4096 + a.toNat * 32768 + b.toNat * 1048576 + m.toNat * 33554432)
  | .vor d k a b m => BitVec.ofNat 32 (0x38000011 + d.toNat * 128 + k.toNat * 4096 + a.toNat * 32768 + b.toNat * 1048576 + m.toNat * 33554432)
  | .vxor d k a b m => BitVec.ofNat 32 (0x3C000011 + d.toNat * 128 + k.toNat * 4096 + a.toNat * 32768 + b.toNat * 1048576 + m.toNat * 33554432)
  | .vsll d k a b m => BitVec.ofNat 32 (0x40000011 + d.toNat * 128 + k.toNat * 4096 + a.toNat * 32768 + b.toNat * 1048576 + m.toNat * 33554432)
  | .vsrl d k a b m => BitVec.ofNat 32 (0x44000011 + d.toNat * 128 + k.toNat * 4096 + a.toNat * 32768 + b.toNat * 1048576 + m.toNat * 33554432)
  | .vsra d k a b m => BitVec.ofNat 32 (0x48000011 + d.toNat * 128 + k.toNat * 4096 + a.toNat * 32768 + b.toNat * 1048576 + m.toNat * 33554432)
  | .vsadd d k a b m => BitVec.ofNat 32 (0x4C000011 + d.toNat * 128 + k.toNat * 4096 + a.toNat * 32768 + b.toNat * 1048576 + m.toNat * 33554432)
  | .vssub d k a b m => BitVec.ofNat 32 (0x50000011 + d.toNat * 128 + k.toNat * 4096 + a.toNat * 32768 + b.toNat * 1048576 + m.toNat * 33554432)
  | .vcmpeq d k a b m => BitVec.ofNat 32 (0x12 + d.toNat * 128 + k.toNat * 4096 + a.toNat * 32768 + b.toNat * 1048576 + m.toNat * 33554432)
  | .vcmpne d k a b m => BitVec.ofNat 32 (0x4000012 + d.toNat * 128 + k.toNat * 4096 + a.toNat * 32768 + b.toNat * 1048576 + m.toNat * 33554432)
  | .vcmplt d k a b m => BitVec.ofNat 32 (0x8000012 + d.toNat * 128 + k.toNat * 4096 + a.toNat * 32768 + b.toNat * 1048576 + m.toNat * 33554432)
  | .vcmple d k a b m => BitVec.ofNat 32 (0xC000012 + d.toNat * 128 + k.toNat * 4096 + a.toNat * 32768 + b.toNat * 1048576 + m.toNat * 33554432)
  | .vcmpgt d k a b m => BitVec.ofNat 32 (0x10000012 + d.toNat * 128 + k.toNat * 4096 + a.toNat * 32768 + b.toNat * 1048576 + m.toNat * 33554432)
  | .vcmpge d k a b m => BitVec.ofNat 32 (0x14000012 + d.toNat * 128 + k.toNat * 4096 + a.toNat * 32768 + b.toNat * 1048576 + m.toNat * 33554432)
  | .mand d a b m => BitVec.ofNat 32 (0x18000012 + d.toNat * 128 + a.toNat * 32768 + b.toNat * 1048576 + m.toNat * 33554432)
  | .mor d a b m => BitVec.ofNat 32 (0x1C000012 + d.toNat * 128 + a.toNat * 32768 + b.toNat * 1048576 + m.toNat * 33554432)
  | .mxor d a b m => BitVec.ofNat 32 (0x20000012 + d.toNat * 128 + a.toNat * 32768 + b.toNat * 1048576 + m.toNat * 33554432)
  | .mandn d a b m => BitVec.ofNat 32 (0x24000012 + d.toNat * 128 + a.toNat * 32768 + b.toNat * 1048576 + m.toNat * 33554432)
  | .mpopc d a m => BitVec.ofNat 32 (0x28000012 + d.toNat * 128 + a.toNat * 32768 + m.toNat * 33554432)
  | .mfirst d a m => BitVec.ofNat 32 (0x2C000012 + d.toNat * 128 + a.toNat * 32768 + m.toNat * 33554432)
  | .miota d a m => BitVec.ofNat 32 (0x30000012 + d.toNat * 128 + a.toNat * 32768 + m.toNat * 33554432)
  | .vmv d k a b m => BitVec.ofNat 32 (0x13 + d.toNat * 128 + k.toNat * 4096 + a.toNat * 32768 + b.toNat * 1048576 + m.toNat * 33554432)
  | .vmvx d k a b => BitVec.ofNat 32 (0x4000013 + d.toNat * 128 + k.toNat * 4096 + a.toNat * 32768 + b.toNat * 1048576)
  | .vmvs d b => BitVec.ofNat 32 (0x8001013 + d.toNat * 128 + b.toNat * 1048576)
  | .vid d m => BitVec.ofNat 32 (0xC000013 + d.toNat * 128 + m.toNat * 33554432)
  | .vsel d k a b => BitVec.ofNat 32 (0x12000013 + d.toNat * 128 + k.toNat * 4096 + a.toNat * 32768 + b.toNat * 1048576)
  | .vcompress d a => BitVec.ofNat 32 (0x16000013 + d.toNat * 128 + a.toNat * 32768)
  | .vslideup d k a b m => BitVec.ofNat 32 (0x18000013 + d.toNat * 128 + k.toNat * 4096 + a.toNat * 32768 + b.toNat * 1048576 + m.toNat * 33554432)
  | .vslidedn d k a b m => BitVec.ofNat 32 (0x1C000013 + d.toNat * 128 + k.toNat * 4096 + a.toNat * 32768 + b.toNat * 1048576 + m.toNat * 33554432)
  | .vperm d a b m => BitVec.ofNat 32 (0x20000013 + d.toNat * 128 + a.toNat * 32768 + b.toNat * 1048576 + m.toNat * 33554432)
  | .vcvt d a t m => BitVec.ofNat 32 (0x24002013 + d.toNat * 128 + a.toNat * 32768 + t.toNat * 1048576 + m.toNat * 33554432)
  | .vqsf4 d a b m => BitVec.ofNat 32 (0x28001013 + d.toNat * 128 + a.toNat * 32768 + b.toNat * 1048576 + m.toNat * 33554432)
  | .vredsum d a m => BitVec.ofNat 32 (0x14 + d.toNat * 128 + a.toNat * 32768 + m.toNat * 33554432)
  | .vredmax d a m => BitVec.ofNat 32 (0x4000014 + d.toNat * 128 + a.toNat * 32768 + m.toNat * 33554432)
  | .vredmin d a m => BitVec.ofNat 32 (0x8000014 + d.toNat * 128 + a.toNat * 32768 + m.toNat * 33554432)
  | .vreddot d a b m => BitVec.ofNat 32 (0xC000014 + d.toNat * 128 + a.toNat * 32768 + b.toNat * 1048576 + m.toNat * 33554432)
  | .vexp2 d a m => BitVec.ofNat 32 (0x10000014 + d.toNat * 128 + a.toNat * 32768 + m.toNat * 33554432)
  | .vlog2 d a m => BitVec.ofNat 32 (0x14000014 + d.toNat * 128 + a.toNat * 32768 + m.toNat * 33554432)
  | .vrcp d a m => BitVec.ofNat 32 (0x18000014 + d.toNat * 128 + a.toNat * 32768 + m.toNat * 33554432)
  | .vrsqrt d a m => BitVec.ofNat 32 (0x1C000014 + d.toNat * 128 + a.toNat * 32768 + m.toNat * 33554432)
  | .vtanh d a m => BitVec.ofNat 32 (0x20000014 + d.toNat * 128 + a.toNat * 32768 + m.toNat * 33554432)
  | .vsigm d a m => BitVec.ofNat 32 (0x24000014 + d.toNat * 128 + a.toNat * 32768 + m.toNat * 33554432)
  | .vmodadd d k a b m => BitVec.ofNat 32 (0x15 + d.toNat * 128 + k.toNat * 4096 + a.toNat * 32768 + b.toNat * 1048576 + m.toNat * 33554432)
  | .vmodsub d k a b m => BitVec.ofNat 32 (0x4000015 + d.toNat * 128 + k.toNat * 4096 + a.toNat * 32768 + b.toNat * 1048576 + m.toNat * 33554432)
  | .vmodmul d k a b m => BitVec.ofNat 32 (0x8000015 + d.toNat * 128 + k.toNat * 4096 + a.toNat * 32768 + b.toNat * 1048576 + m.toNat * 33554432)
  | .vmodred d a m => BitVec.ofNat 32 (0xC000015 + d.toNat * 128 + a.toNat * 32768 + m.toNat * 33554432)
  | .vbflyct d k a b m => BitVec.ofNat 32 (0x10000015 + d.toNat * 128 + k.toNat * 4096 + a.toNat * 32768 + b.toNat * 1048576 + m.toNat * 33554432)
  | .vbflygs d k a b m => BitVec.ofNat 32 (0x14000015 + d.toNat * 128 + k.toNat * 4096 + a.toNat * 32768 + b.toNat * 1048576 + m.toNat * 33554432)
  | .vld d a m => BitVec.ofNat 32 (0x16 + d.toNat * 128 + a.toNat * 32768 + m.toNat * 33554432)
  | .vlds d a b m => BitVec.ofNat 32 (0x1016 + d.toNat * 128 + a.toNat * 32768 + b.toNat * 1048576 + m.toNat * 33554432)
  | .vldx d a b m => BitVec.ofNat 32 (0x2016 + d.toNat * 128 + a.toNat * 32768 + b.toNat * 1048576 + m.toNat * 33554432)
  | .vfill d a => BitVec.ofNat 32 (0x3016 + d.toNat * 128 + a.toNat * 32768)
  | .vst d a m => BitVec.ofNat 32 (0x17 + d.toNat * 128 + a.toNat * 32768 + m.toNat * 33554432)
  | .vsts d a b m => BitVec.ofNat 32 (0x1017 + d.toNat * 128 + a.toNat * 32768 + b.toNat * 1048576 + m.toNat * 33554432)
  | .vstx d a b m => BitVec.ofNat 32 (0x2017 + d.toNat * 128 + a.toNat * 32768 + b.toNat * 1048576 + m.toNat * 33554432)
  | .vscadd d a b m => BitVec.ofNat 32 (0x3017 + d.toNat * 128 + a.toNat * 32768 + b.toNat * 1048576 + m.toNat * 33554432)
  | .vspill d a => BitVec.ofNat 32 (0x4017 + d.toNat * 128 + a.toNat * 32768)
  | .stbind d a => BitVec.ofNat 32 (0x18 + d.toNat * 128 + a.toNat * 32768)
  | .strbind d a => BitVec.ofNat 32 (0x2000018 + d.toNat * 128 + a.toNat * 32768)
  | .stfbind d a => BitVec.ofNat 32 (0x4000018 + d.toNat * 128 + a.toNat * 32768)
  | .stunbind d => BitVec.ofNat 32 (0x6000018 + d.toNat * 128)
  | .cpy d a v => BitVec.ofNat 32 (0x19 + d.toNat * 128 + a.toNat * 32768 + v.toNat * 33554432)
  | .syncarm d a b => BitVec.ofNat 32 (0x1019 + d.toNat * 128 + a.toNat * 32768 + b.toNat * 1048576)
  | .syncwait d a b => BitVec.ofNat 32 (0x2019 + d.toNat * 128 + a.toNat * 32768 + b.toNat * 1048576)
  | .opa t k a b => BitVec.ofNat 32 (0x1A + t.toNat * 128 + k.toNat * 4096 + a.toNat * 32768 + b.toNat * 1048576)
  | .ops t k a b => BitVec.ofNat 32 (0x400001A + t.toNat * 128 + k.toNat * 4096 + a.toNat * 32768 + b.toNat * 1048576)
  | .opam t k a b => BitVec.ofNat 32 (0xA00001A + t.toNat * 128 + k.toNat * 4096 + a.toNat * 32768 + b.toNat * 1048576)
  | .tzero t => BitVec.ofNat 32 (0xC00001A + t.toNat * 128)
  | .tld t a b => BitVec.ofNat 32 (0x1000101A + t.toNat * 128 + a.toNat * 32768 + b.toNat * 1048576)
  | .tst t a b => BitVec.ofNat 32 (0x1400101A + t.toNat * 128 + a.toNat * 32768 + b.toNat * 1048576)
  | .trdrow t k v i m => BitVec.ofNat 32 (0x1800001A + t.toNat * 128 + k.toNat * 4096 + v.toNat * 32768 + i.toNat * 1048576 + m.toNat * 33554432)
  | .twrrow t k v i m => BitVec.ofNat 32 (0x1C00001A + t.toNat * 128 + k.toNat * 4096 + v.toNat * 32768 + i.toNat * 1048576 + m.toNat * 33554432)
  | .tepi t v b m => BitVec.ofNat 32 (0x2000101A + t.toNat * 128 + v.toNat * 32768 + b.toNat * 1048576 + m.toNat * 33554432)
  | .skinitD t a => BitVec.ofNat 32 (0x101B + t.toNat * 128 + a.toNat * 32768)
  | .skinitH t a => BitVec.ofNat 32 (0x201B + t.toNat * 128 + a.toNat * 32768)
  | .skinitQ t a b => BitVec.ofNat 32 (0x301B + t.toNat * 128 + a.toNat * 32768 + b.toNat * 1048576)
  | .skqadd m a b => BitVec.ofNat 32 (0x200001B + m.toNat * 4096 + a.toNat * 32768 + b.toNat * 1048576)
  | .skhadd m a b => BitVec.ofNat 32 (0x400001B + m.toNat * 4096 + a.toNat * 32768 + b.toNat * 1048576)
  | .skhaddW w m a b => BitVec.ofNat 32 (0x400201B + w.toNat * 128 + m.toNat * 4096 + a.toNat * 32768 + b.toNat * 1048576)
  | .skdadd m a b => BitVec.ofNat 32 (0x600001B + m.toNat * 4096 + a.toNat * 32768 + b.toNat * 1048576)
  | .skmerge a b => BitVec.ofNat 32 (0x800001B + a.toNat * 32768 + b.toNat * 1048576)
  | .skqq d a b => BitVec.ofNat 32 (0xA00001B + d.toNat * 128 + a.toNat * 32768 + b.toNat * 1048576)
  | .skhtop d s a b => BitVec.ofNat 32 (0xC00001B + d.toNat * 128 + s.toNat * 4096 + a.toNat * 32768 + b.toNat * 1048576)
  | .skdcnt d a => BitVec.ofNat 32 (0xE00001B + d.toNat * 128 + a.toNat * 32768)
  | .vclipq d m a b => BitVec.ofNat 32 (0x1000001B + d.toNat * 128 + m.toNat * 4096 + a.toNat * 32768 + b.toNat * 1048576)
  | .vscaleq d m a b => BitVec.ofNat 32 (0x1200001B + d.toNat * 128 + m.toNat * 4096 + a.toNat * 32768 + b.toNat * 1048576)
  | .rld d z a t q => BitVec.ofNat 32 (0x1C + d.toNat * 128 + z.toNat * 4096 + a.toNat * 32768 + t.toNat * 1048576 + q.toNat * 8388608)
  | .rst d a t q => BitVec.ofNat 32 (0x200001C + d.toNat * 128 + a.toNat * 32768 + t.toNat * 1048576 + q.toNat * 8388608)
  | .rstp d a t q => BitVec.ofNat 32 (0x400001C + d.toNat * 128 + a.toNat * 32768 + t.toNat * 1048576 + q.toNat * 8388608)
  | .ramo d o a t w => BitVec.ofNat 32 (0x600001C + d.toNat * 128 + o.toNat / 8 * 16777216 + o.toNat % 8 * 4096 + a.toNat * 32768 + t.toNat * 1048576 + w.toNat * 8388608)
  | .rcas d a t => BitVec.ofNat 32 (0x800001C + d.toNat * 128 + a.toNat * 32768 + t.toNat * 1048576)
  | .send d k a t => BitVec.ofNat 32 (0xA00001C + d.toNat * 128 + k.toNat * 4096 + a.toNat * 32768 + t.toNat * 1048576)
  | .rnarrow r x t a s => BitVec.ofNat 32 (0xC00001C + r.toNat * 128 + x.toNat * 2048 + t.toNat * 4096 + a.toNat * 32768 + s.toNat * 1048576)
  | .rtld a t => BitVec.ofNat 32 (0xE00001C + a.toNat * 32768 + t.toNat * 1048576)
  | .rtst a t => BitVec.ofNat 32 (0x1000001C + a.toNat * 32768 + t.toNat * 1048576)
  | .rmov t s => BitVec.ofNat 32 (0x1200001C + t.toNat * 4096 + s.toNat * 1048576)
  | .rrevoke d => BitVec.ofNat 32 (0x1400001C + d.toNat * 128)
  | .rstm d a t q => BitVec.ofNat 32 (0x1600001C + d.toNat * 128 + a.toNat * 32768 + t.toNat * 1048576 + q.toNat * 8388608)
  | .vstxr d a b m => BitVec.ofNat 32 (0x1D + d.toNat * 128 + a.toNat * 32768 + b.toNat * 1048576 + m.toNat * 33554432)
  | .collbegin d o a b => BitVec.ofNat 32 (0x400001D + d.toNat * 128 + o.toNat * 4096 + a.toNat * 32768 + b.toNat * 1048576)
  | .collend d o a m => BitVec.ofNat 32 (0x800001D + d.toNat * 128 + o.toNat * 4096 + a.toNat * 32768 + m.toNat * 33554432)
  | .collendExch a m => BitVec.ofNat 32 (0x800001D + a.toNat * 32768 + m.toNat * 33554432)
  | .collabort a => BitVec.ofNat 32 (0xC00001D + a.toNat * 32768)
  | .pwrgoodLow => 0
  | .pwrgoodRise => 0
  | .perstAssert => 0
  | .perstDeassert => 0
  | .identityPhase _ => 0
  | .imagePhase _ => 0
  | .diesPhase _ => 0
  | .firmwarePhase _ => 0
  | .storagePhase _ => 0
  | .ready => 0
  | .phaseTimeout => 0
  | .minVersionRaise => 0
  | .configRequest _ _ => 0
  | .currentGovernorSample _ _ => 0
  | .vcoreDroop _ => 0
  | .thermalSample _ _ => 0
  | .firmwareWatchdog => 0
  | .patrolScrub _ _ => 0
  | .pldmMonitor => 0
  | .pldmFirmwareUpdate _ _ => 0
  | .linkEnable _ _ => 0
  | .linkTrained _ => 0
  | .trainTimeout _ => 0
  | .trainRetry _ _ => 0
  | .authEstablished _ _ _ => 0
  | .authFail _ => 0
  | .authTimeout _ => 0
  | .linkSignalLoss _ => 0
  | .linkHeartbeatTimeout _ => 0
  | .linkHeartbeatSend _ => 0
  | .linkKeyUpdate _ => 0
  | .linkDisable _ => 0
  | .linkReenable _ => 0
  | .frameSend _ => 0
  | .frameReceive _ _ _ => 0
  | .switchRequest _ => 0
  | .switchReply _ => 0
  | .multicastTimeout _ => 0
  | .requestTimeout _ _ => 0
  | .flitAge => 0
  | .requestAdmission _ => 0
  | .retry _ => 0
  | .reinject _ => 0
  | .backnote _ => 0
  | .gapHalve _ _ _ => 0
  | .peerEntryWrite _ _ _ => 0
  | .ethFrameReceive _ _ _ => 0
  | .ethReplayTimeout _ _ => 0
  | .ethReauth _ _ => 0
  | .keyInstall _ _ => 0
  | .keyActivate _ => 0
  | .keyRetire _ => 0
  | .keyRotation => 0
  | .wrapNotice _ => 0
  | .revocationComplete _ => 0
  | .linkMap _ _ => 0
  | .idAssign _ _ => 0
  | .leadDepart _ => 0
  | .domainMerge _ => 0
  | .mint _ => 0
  | .mintm _ => 0
  | .revoke _ => 0
  | .openm _ => 0
  | .query _ => 0
  | .leafConfirm _ _ _ _ => 0
  | .loadRequest _ => 0
  | .storeRequest _ => 0
  | .pstoreRequest _ => 0
  | .atomicRequest _ => 0
  | .casRequest _ => 0
  | .sendRequest _ => 0
  | .putRequest _ => 0
  | .getRequest _ => 0
  | .strdataRequest _ => 0
  | .mstoreRequest _ => 0
  | .atomicRetransmit _ _ => 0
  | .dataReply _ => 0
  | .ackReply _ => 0
  | .errorReply _ => 0
  | .mackReply _ => 0
  | .faultRecord _ => 0
  | .nvmeCompletion _ _ _ => 0
  | .busyRangeClear _ => 0
  | .nvmeTimeout _ _ => 0
  | .controllerReadyTimeout _ => 0
  | .driveInboundRequest _ _ _ => 0
  | .writeback _ => 0
  | .prefetch _ => 0
  | .trim _ => 0
  | .flush _ => 0
  | .slotset _ => 0
  | .slotclr _ => 0
  | .resume _ => 0
  | .siphonMessageDeliver _ => 0
  | .tailWrite _ _ => 0
  | .cplheadWrite _ _ => 0
  | .ringConfigWrite _ _ _ _ => 0
  | .registerWrite _ _ _ _ => 0
  | .configSpaceChange _ => 0
  | .functionLevelReset _ => 0
  | .ideError _ => 0
  | .ringEntry _ _ _ => 0
  | .dmaError _ => 0
  | .completionWrite _ => 0
  | .scrubComplete _ => 0
  | .lockInterfaceRequest _ _ => 0
  | .startInterfaceRequest _ _ _ => 0
  | .stopInterfaceRequest _ _ => 0
  | .getDeviceInterfaceState _ _ => 0
  | .getDeviceInterfaceReport _ _ => 0
  | .keyExchange _ _ => 0
  | .endSession _ => 0
  | .keyUpdate _ _ _ => 0
  | .heartbeat _ _ => 0
  | .sessionTimeout _ => 0
  | .getMeasurements _ _ _ => 0
  | .getCertificate _ _ => 0
  | .challenge _ _ => 0
  | .keyProg _ _ _ _ => 0
  | .kSetGo _ _ _ => 0
  | .kSetStop _ _ _ => 0
  | .enclParam _ _ _ _ _ => 0
  | .enclQuery _ _ => 0
  | .launchValidate _ => 0
  | .placeLaunch _ _ => 0
  | .resumeLaunch _ => 0
  | .priorityPreempt _ _ _ => 0
  | .enclaveSwitch _ _ => 0
  | .launchComplete _ => 0
  | .chargeDecay _ => 0
  | .chargeReport _ => 0
  | .sluiceChargeDecay => 0
  | .stripEnd _ _ => 0
  | .pumpRepetition _ _ => 0
  | .streamFetch _ _ _ _ => 0
  | .copyPacket _ => 0
  | .weirApply _ => 0
  | .collAbortSend _ _ _ => 0
  | .timecmpReached _ _ => 0
  | .interruptTake _ _ => 0
  | .deferredTrap _ _ => 0
  | .signalDetect _ => 0
  | .routerCycle => 0
  | .injectionGapPassed _ _ _ => 0
  | .controllerReady _ => 0
  | .installAck _ _ => 0
  | .leafConfirmationReceived _ _ _ _ => 0
  | .coreReset _ => 0
  | .illegalWord w => w

end Sys2Proof
end

