-- ==== Sys2Proof/Machine/Charge.lean ====
section
/-! DEFINITION. Queue weights and priorities, and the sequencer's order among ready vector threads (06_execution.md R149, R151 to R153). -/

set_option Elab.async false

namespace Sys2Proof.Machine

/-- WEIGHT of a queue; a written 0 is taken as 1. -/
def State.weight (s : State) (q : BitVec 5) : Nat := max 1 (fldN (s.hst.queues.get ⟨q.toNat, q.isLt⟩) 0 8)

/-- MAXPRIO of a queue. -/
def State.maxPrio (s : State) (q : BitVec 5) : Nat := fldN (s.hst.queues.get ⟨q.toNat, q.isLt⟩) 8 2

/-- Effective priority of a launch (06_execution.md R152). -/
def State.effPrio (s : State) (prio : BitVec 2) (q : BitVec 5) : Nat := min prio.toNat (s.maxPrio q)

/-! ## The sequencer's choice (06_execution.md R149) -/

/-- A vector thread whose queue can run: it is neither swapped nor waits on memory or on a ring, and no Pump replays before its queue. -/
def State.stripReady (s : State) (core : Nat) (h : Hart) : Bool :=
  h.core == core && h.seated && h.launch != 0 && h.run != .swapped && h.run != .retired && h.run != .memWait && !h.vec.vq.isEmpty &&
    h.vec.pump.state != 2 && h.vec.pump.state != 3 &&
    (h.run != .parkedFE || s.mem.feWait.any fun f => f.hcore == h.core && f.slot == h.slot && f.launch == h.launch)

/-- Queue and priority of a hart's launch. -/
def State.queueOf (s : State) (h : Hart) : BitVec 5 × Nat :=
  match s.launch? h.launch with
  | none => (0, 0)
  | some l => (l.queue, s.effPrio l.prio l.queue)

/-- Core cycle since which a ready thread waits for a lane group. -/
def Core.waitsSince (c : Core) (h : Hart) : Word := ((c.waits.find? (·.1 == h.slot)).map Prod.snd).getD c.cycle

/-- Core cycles that a ready thread has waited. -/
def Core.waited (c : Core) (h : Hart) : Nat := (c.cycle - c.waitsSince h).toNat

/-- One thread goes before another: one that has waited 2^14 cycles, the longest first; else higher priority, then the lower charge-to-weight
ratio, then the lower queue, then the lower slot. -/
def State.goesBefore (s : State) (c : Core) (a b : Hart) : Bool :=
  let (qa, pa) := s.queueOf a
  let (qb, pb) := s.queueOf b
  let ra := c.charge.get ⟨qa.toNat, qa.isLt⟩ * s.weight qb
  let rb := c.charge.get ⟨qb.toNat, qb.isLt⟩ * s.weight qa
  if 2 ^ 14 ≤ max (c.waited a) (c.waited b) ∧ c.waited a ≠ c.waited b then decide (c.waited b < c.waited a)
  else if pa ≠ pb then decide (pb < pa)
  else if ra ≠ rb then decide (ra < rb)
  else if qa ≠ qb then decide (qa < qb)
  else decide (a.slot < b.slot)

/-- The first of a list in the sequencer's order. -/
def State.firstOf (s : State) (c : Core) : List Hart → Option Hart
  | [] => none
  | h :: r => match s.firstOf c r with
    | none => some h
    | some g => some (if s.goesBefore c g h then g else h)

/-- Ready threads of queue `q` that the sequencer saw before. -/
def State.sawQueue (s : State) (rs : List Hart) (q : BitVec 5) : List Hart :=
  rs.filter fun g => (s.queueOf g).1 == q && s.c.waits.any (·.1 == g.slot)

/-- The charges at a choice: a queue that has gained its first ready thread takes at least the least charge-to-weight ratio of the queues of
its priority that had ready threads (06_execution.md R151). -/
def State.gained (s : State) (rs : List Hart) : Vector Nat 32 :=
  rs.foldl (fun v h =>
    let (q, p) := s.queueOf h
    let i : Fin 32 := ⟨q.toNat, q.isLt⟩
    if !(s.sawQueue rs q).isEmpty then v
    else
      let others := (rs.filter fun g => (s.queueOf g).2 == p && s.c.waits.any (·.1 == g.slot)).map fun g =>
        let r := (s.queueOf g).1
        (s.weight q * s.c.charge.get ⟨r.toNat, r.isLt⟩ + s.weight r - 1) / s.weight r
      match others.min? with
      | none => v
      | some m => v.set i (max (s.c.charge.get i) m)) s.c.charge

/-- The sequencer looks at the ready threads: the charges of new queues, and since when each thread waits. -/
def State.noteReady (s : State) (rs : List Hart) : State :=
  { s with c := { s.c with charge := s.gained rs, waits := rs.map fun h => (h.slot, s.c.waitsSince h) } }

/-- The vector thread in focus begins an instruction with nothing before it: its queue has a ready thread, if it had none it has gained one
(06_execution.md R151). -/
def State.joins (s : State) : State :=
  if !s.h.vthread || s.h.csr.vs = 0 || s.vecBusy || !s.h.vec.vq.isEmpty then s
  else { s with c := { s.c with charge := s.gained (s.h :: s.allHarts.filter fun h => s.stripReady s.c.id h && h.slot != s.h.slot) } }

end Sys2Proof.Machine
end

