-- ==== Sys2Proof/Machine/Tile.lean ====
section
/-! DEFINITION. Outer-product tiles (16_isa_tile.md R403 to R414; 07_core.md R186, R187). -/

set_option Elab.async false

namespace Sys2Proof.Machine

/-! ## Tiles -/

/-- Shape of a tile-capable tag: TLEN, accumulator tag and accumulator bytes (16_isa_tile.md R403). -/
def tileShape (t : Nat) : Option (Nat × Nat × Nat) :=
  if t = tSF4 || t = tF4 then some (64, tF32, 4)
  else if t = tF8E4 || t = tF8E5 || t = tBF16 || t = tF16 then some (32, tF32, 4)
  else if t = 2 then some (32, tS32, 4)
  else if t = tF32 then some (16, tF32, 4)
  else if t = tF64 then some (8, tF64, 8)
  else if t = tZ64 then some (8, tZ64, 8)
  else none

/-- A tile. -/
def State.tile (s : State) (t : BitVec 2) : Tile := s.h.vec.t.get ⟨t.toNat, t.isLt⟩

/-- The bytes of a tile; one tagged NONE holds zero. -/
def Tile.data (x : Tile) : Nat := if x.tag = 0 then 0 else x.bits

/-- Write a tile: its dirty bit is set, and VS becomes Dirty (16_isa_tile.md R406, 10_traps.md R276). -/
def State.setTile (s : State) (t : BitVec 2) (tag bits : Nat) : State :=
  let i : Fin 4 := ⟨t.toNat, t.isLt⟩
  { s with h := { s.h with
      vec := { s.h.vec with t := s.h.vec.t.set i ⟨BitVec.ofNat 5 tag, true, bits⟩ }
      csr := s.h.csr.vsDirty } }

/-- The tile's shape comes from its tag, or from VTYPE.TAG when it is NONE. -/
def State.tileTag (s : State) (t : BitVec 2) : Nat :=
  let g := (s.tile t).tag.toNat
  if g = tNone then s.vtag else g

/-! ## Outer products (16_isa_tile.md R407, R408) -/

/-- Cycles of an outer product at T = 1 (07_core.md R187). -/
def outerCycles (p : Nat) : Nat := if p = tF8E4 || p = tF8E5 || p = 2 then 1 else if p = tZ64 then 4 else 2

/-- The value of element `i` of an operand, with the flag of a signalling code. -/
def outerVal (p : Nat) (x : Src) (i : Nat) : FVal × Flg :=
  if x.tag = tNone then (.num false 0 0 false, 0)
  else if p = tSF4 then (sf4Val (x.get i) (x.micro i), 0)
  else (fDecode p (x.get i), fSnanFlag p (x.get i))

/-- The integer or residue of element `i` of an operand. -/
def outerInt (p q : Nat) (x : Src) (i : Nat) : Int :=
  if x.tag = tNone then 0 else if p = tZ64 then ((x.get i % q : Nat) : Int) else intOf p (x.get i)

/-- One accumulator with index `e` and value `c`, after the product of elements `i` and `j`. -/
def outerAcc (p acc q : Nat) (r : Rnd) (neg : Bool) (x y : Src) (e c i j : Nat) : Nat × Flg :=
  if acc = tF32 || acc = tF64 then
    let (xv, fx) := outerVal p x i
    let (yv, fy) := outerVal p y j
    let (m, f0) := FVal.mul xv yv
    let (v, f1) := FVal.add r.mode (fDecode acc c) (if neg then m.neg else m)
    let (z, f2) := fRound acc r e v
    (z, fx ||| fy ||| fSnanFlag acc c ||| f0 ||| f1 ||| f2)
  else
    let m := outerInt p q x i * outerInt p q y j
    let c' : Int := if acc = tZ64 then (c : Nat) else sextNat 32 c
    let z := if neg then c' - m else c' + m
    if acc = tZ64 then zRes q z else (truncInt 32 z, 0)

/-- All accumulators of a tile from index `e` on; `on` selects those that are updated. -/
def outerAll (w : Nat) (old : Nat) (on : Nat → Bool) (f : Nat → Nat → Nat × Flg) : Nat → Nat → Nat × Flg
  | 0, _ => (0, 0)
  | n + 1, e =>
    let (r, fl) := outerAll w old on f n (e + 1)
    let c := old / 2 ^ (w * e) % 2 ^ w
    if on e then
      let (z, g) := f e c
      (z % 2 ^ w + 2 ^ w * r, g ||| fl)
    else (c + 2 ^ w * r, fl)

/-- The operand tag of an outer product; none for two different tags. -/
def State.outerTag (s : State) (a b : Oper) : Option Nat :=
  if a.tag = b.tag then some (if a.tag = tNone then s.vtag else a.tag)
  else if a.tag = tNone then some b.tag
  else if b.tag = tNone then some a.tag
  else none

/-- An outer product: `neg` subtracts, `masked` applies v0 (16_isa_tile.md R407, R408). -/
def State.outer (s : State) (neg masked : Bool) (t : BitVec 2) (k : BitVec 3) (ra rb : Reg) : Res :=
  let a := s.oper ra
  let b := s.oper rb
  let xs := k == 3 || k == 5
  let ys := k == 4 || k == 5
  let tagmix : Res := .trap (s.trapWord causeTagmix) s
  match s.outerTag a b with
  | none => if s.vstart ≠ 0 || (masked && s.maskTooLong) || s.operBad a a.tag || s.operBad b b.tag then s.illegal else tagmix
  | some p =>
    if s.vstart ≠ 0 || (masked && s.maskTooLong) || tagReserved p then s.illegal
    else match tileShape p with
      | none => if s.operBad a p || s.operBad b p then s.illegal else tagmix
      | some (l, acc, sa) =>
        if s.operBad a p || s.operBad b p || decide (s.vl = 0) || decide (s.vl % l ≠ 0) || ((p = tSF4 || p = tF4) && (xs || ys)) then s.illegal
        else if !s.uniform a p || !s.uniform b p || s.scalesBad a p || s.scalesBad b p ||
            !((s.tile t).tag = 0 || (s.tile t).tag.toNat = p) ||
            (masked && !((s.vreg 0).tag = 0 || (s.vreg 0).tag.toNat = tMask)) then tagmix
        else if p = tZ64 && s.qBad then s.illegal
        else s.loadAll p [a, b] fun srcs =>
          let x := srcs.getD 0 Src.zero
          let y := srcs.getD 1 Src.zero
          match (earliest [x.bad, y.bad]).filter (fun e => decide (e.1 < s.vl)) with
          | some e => .ok (s.defer 0 e.2)
          | none =>
            let step := s.vl / l
            let (bits, fl) := outerAll (8 * sa) (s.tile t).data
              (fun e => !masked || (s.maskBit (e / l) && s.maskBit (l + e % l)))
              (fun e c => outerAcc p acc s.q s.rnd neg x y e c (e / l * if xs then step else 1) (e % l * if ys then step else 1))
              (l * l) 0
            let cycles := outerCycles p * s.c.split
            .ok (((((s.setTile t p bits).accrue fl).charge (32 / s.c.split * cycles)).count 0x06 1).vdone [a, b] (acc != tS32 && acc != tZ64))

/-- OPA on its operands (16_isa_tile.md R407). -/
def opaRun (t : BitVec 2) (k : BitVec 3) (a b : Reg) (s : State) : Res := s.outer false false t k a b

/-- OPA (16_isa_tile.md R407). -/
def execOpa (t : BitVec 2) (k : BitVec 3) (a b : Reg) (s : State) : Host.Outcome State Fault Refusal :=
  finish (s.vecIssue (outerKind k) 0 0 (opaRun t k a b))

/-- OPS on its operands (16_isa_tile.md R407). -/
def opsRun (t : BitVec 2) (k : BitVec 3) (a b : Reg) (s : State) : Res := s.outer true false t k a b

/-- OPS (16_isa_tile.md R407). -/
def execOps (t : BitVec 2) (k : BitVec 3) (a b : Reg) (s : State) : Host.Outcome State Fault Refusal :=
  finish (s.vecIssue (outerKind k) 0 0 (opsRun t k a b))

/-- OPAM on its operands (16_isa_tile.md R407, R408). -/
def opamRun (t : BitVec 2) (k : BitVec 3) (a b : Reg) (s : State) : Res := s.outer false true t k a b

/-- OPAM (16_isa_tile.md R408). -/
def execOpam (t : BitVec 2) (k : BitVec 3) (a b : Reg) (s : State) : Host.Outcome State Fault Refusal :=
  finish (s.vecIssue (outerKind k) 0 0 (opamRun t k a b))

/-! ## Clearing, loading and storing (16_isa_tile.md R410, R411) -/

/-- TZERO on its operand (16_isa_tile.md R410). -/
def tzeroRun (t : BitVec 2) (s : State) : Res :=
  if s.vstart ≠ 0 then s.illegal else .ok ((s.setTile t tNone 0).vdone [] false)

/-- TZERO (16_isa_tile.md R410). -/
def execTzero (t : BitVec 2) (s : State) : Host.Outcome State Fault Refusal := finish (s.vecIssue true 0 0 (tzeroRun t))

/-- The access of accumulator `e` (16_isa_tile.md R411). -/
def tileAccess (base pitch : Word) (l sa e : Nat) : List VAccess :=
  let a := base + BitVec.ofNat 64 (e / l) * pitch + BitVec.ofNat 64 (e % l * sa)
  [⟨a, sa, misalign a sa⟩]

/-- The shape that a tile memory instruction moves, or its trap. -/
def State.tileMem (s : State) (tag : Nat) (k : Nat → Nat → Nat → Res) : Res :=
  if tagReserved tag then s.illegal
  else match tileShape tag with
    | none => .trap (s.trapWord causeTagmix) s
    | some (l, _, sa) => if 16 * s.vlenb < l * l then s.illegal else k tag l sa

/-- TLD on given operand values (16_isa_tile.md R411). -/
def tldRun (t : BitVec 2) (xa xb : Word) (s : State) : Res :=
  s.tileMem s.vtag fun tag l sa =>
    s.vmem (8 * sa) .load (l * l) (fun _ => true) (tileAccess xa xb l sa) none
      (fun s els =>
        let (bits, bad) := s.loadElems (fun i vs z => (putElem (8 * sa) i (vs.getD 0 0) z.1, 0)) els ((s.tile t).data % 2 ^ (8 * sa * (l * l)), 0)
        (s.setTile t tag bits.1, bad))
      fun s2 => s2.vdone [] false

/-- TLD (16_isa_tile.md R411). -/
def execTld (t : BitVec 2) (a b : Reg) (s : State) : Host.Outcome State Fault Refusal :=
  finish (s.vecMem false (s.x a) (s.x b) (tldRun t (s.x a) (s.x b)))

/-- TST on given operand values (16_isa_tile.md R411). -/
def tstRun (t : BitVec 2) (xa xb : Word) (s : State) : Res :=
  s.tileMem (s.tileTag t) fun _ l sa =>
    let data := (s.tile t).data
    s.vmem (8 * sa) .store (l * l) (fun _ => true) (tileAccess xa xb l sa) none
      (fun s els => s.storeElems (8 * sa) (fun i _ _ => data / 2 ^ (8 * sa * i) % 2 ^ (8 * sa)) (s.groupElems (8 * sa)) (els.length + 1) els)
      fun s2 => s2.vdone [] false

/-- TST (16_isa_tile.md R411). -/
def execTst (t : BitVec 2) (a b : Reg) (s : State) : Host.Outcome State Fault Refusal :=
  finish (s.vecMem true (s.x a) (s.x b) (tstRun t (s.x a) (s.x b)))

/-! ## Rows and columns (16_isa_tile.md R412) -/

/-- Accumulator index of element `j` of row or column `i`. -/
def rowIndex (k : BitVec 3) (l i j : Nat) : Nat := if k = 1 || k = 2 then i * l + j else j * l + i

/-- The row or column that the operand kind names. -/
def rowNumber (k : BitVec 3) (i : Reg) (xi : Word) : Nat := if k = 1 || k = 3 then xi.toNat else i.toNat

/-- TRDROW on given operand values (16_isa_tile.md R412). -/
def trdrowRun (t : BitVec 2) (k : BitVec 3) (v i : Reg) (m : BitVec 1) (xi : Word) (s : State) : Res :=
  let tag := s.tileTag t
  if tagReserved tag then s.illegal
  else match tileShape tag with
    | none => .trap (s.trapWord causeTagmix) s
    | some (l, acc, sa) =>
      let n := rowNumber k i xi
      if l ≤ n || s.vl ≠ l || s.groupsIllegal (m = 1) v.toNat (8 * sa) false [] acc false then s.illegal
      else match s.destStop v.toNat (8 * sa) with
        | some r => r
        | none => s.writeCut (m = 1) v.toNat acc [] none false 1 (8 * sa) fun j =>
            ((s.tile t).data / 2 ^ (8 * sa * rowIndex k l n j) % 2 ^ (8 * sa), 0)

/-- TRDROW (16_isa_tile.md R412). -/
def execTrdrow (t : BitVec 2) (k : BitVec 3) (v i : Reg) (m : BitVec 1) (s : State) : Host.Outcome State Fault Refusal :=
  finish (s.vecIssue (rowKind k) 0 (s.x i) (trdrowRun t k v i m (s.x i)))

/-- TWRROW on given operand values (16_isa_tile.md R412). -/
def twrrowRun (t : BitVec 2) (k : BitVec 3) (v i : Reg) (m : BitVec 1) (xi : Word) (s : State) : Res :=
  let tag := s.tileTag t
  if tagReserved tag then s.illegal
  else match tileShape tag with
    | none => .trap (s.trapWord causeTagmix) s
    | some (l, acc, sa) =>
      let n := rowNumber k i xi
      let o := s.oper v
      let w := 8 * sa
      if l ≤ n || s.vl ≠ l || (m = 1 && s.maskTooLong) || s.operBad o acc then s.illegal
      else if !s.uniform o acc || !(o.tag = acc || o.tag = tNone) then .trap (s.trapWord causeTagmix) s
      else s.loadAll acc [o] fun xs =>
        if s.vl ≤ s.vstart then .ok { s with h := { s.h with csr := { s.h.csr with vstart := 0 } } }
        else
          let x := xs.getD 0 Src.zero
          let stop := x.bad.filter fun b => decide (s.vstart ≤ b.1) && decide (b.1 < s.vl)
          let hi := match stop with
            | some b => b.1
            | none => s.vl
          let bits := ((List.range hi).filter (s.active (m = 1))).foldl
            (fun z j => putElem w (rowIndex k l n j) (if o.tag = tNone then 0 else x.get j) z) (s.tile t).data
          let s1 := (s.setTile t tag bits).chargeStrip w 1 (hi - s.vstart)
          match stop with
          | some b => .ok (s1.defer b.1 b.2)
          | none => .ok (s1.vdone [o] false)

/-- TWRROW (16_isa_tile.md R412). -/
def execTwrrow (t : BitVec 2) (k : BitVec 3) (v i : Reg) (m : BitVec 1) (s : State) : Host.Outcome State Fault Refusal :=
  finish (s.vecIssue (rowKind k) 0 (s.x i) (twrrowRun t k v i m (s.x i)))

/-! ## The epilogue (16_isa_tile.md R413, R414) -/

/-- One element of TEPI from accumulator `c` and the two scales. -/
def tepiElem (r : Rnd) (q acc o : Nat) (scale : Word) (e c : Nat) : Nat × Flg :=
  if acc = tF32 || acc = tF64 then
    let sa := fldN scale 0 16
    let sb := fldN scale 16 16
    let (v1, f1) := FVal.mul (fDecode acc c) (fDecode tBF16 sa)
    let (v2, f2) := FVal.mul v1 (fDecode tBF16 sb)
    let (z, f3) := cvtVal r q o e v2 0
    (z, fSnanFlag acc c ||| fSnanFlag tBF16 sa ||| fSnanFlag tBF16 sb ||| f1 ||| f2 ||| f3)
  else cvtElem r q acc o e c 0

/-- TEPI on given operand values (16_isa_tile.md R413). -/
def tepiRun (t : BitVec 2) (v : Reg) (m : BitVec 1) (xb : Word) (s : State) : Res :=
    let o := s.vtag
    let w := tagWidth o
    if o = tNone || o = tMask || o = tSF4 || tagReserved o then s.illegal
    else match tileShape (s.tile t).tag.toNat with
      | none => if s.groupsIllegal (m = 1) v.toNat w false [] o false then s.illegal else .trap (s.trapWord causeTagmix) s
      | some (l, acc, sa) =>
        if s.vl ≠ l * l || s.groupsIllegal (m = 1) v.toNat w false [] o false then s.illegal
        else if (acc = tZ64 || o = tZ64) && s.qBad then s.illegal
        else match s.destStop v.toNat w with
          | some r => r
          | none => s.writeCut (m = 1) v.toNat o [] none (tagFloat acc || tagFloat o) 1 (max w (8 * sa)) fun e =>
              tepiElem s.rnd s.q acc o xb e ((s.tile t).data / 2 ^ (8 * sa * e) % 2 ^ (8 * sa))

/-- TEPI (16_isa_tile.md R413). -/
def execTepi (t : BitVec 2) (v b : Reg) (m : BitVec 1) (s : State) : Host.Outcome State Fault Refusal :=
  finish (s.vecIssue true 0 (s.x b) (tepiRun t v m (s.x b)))

end Sys2Proof.Machine
end

