-- ==== Sys2Proof/Machine/VecMask.lean ====
section
/-! DEFINITION. Mask instructions (14_isa_vector.md R378). -/

set_option Elab.async false

namespace Sys2Proof.Machine

/-- A field read as MASK (14_isa_vector.md R378). -/
def Oper.asMask (o : Oper) : Oper := { o with tag := tMask }

/-- An operand tagged anything other than MASK or NONE (14_isa_vector.md R378). -/
def Oper.notMask (o : Oper) : Bool := o.tag != tMask && o.tag != tNone

/-- Bit `i` of a mask operand. -/
def State.bitOf (s : State) (o : Oper) (i : Nat) : Bool :=
  let v := s.vreg o.reg
  v.tag != 0 && v.bits.testBit i

/-- MAND, MOR, MXOR and MANDN. -/
def State.maskOp (s : State) (f : Bool → Bool → Bool) (d a b : Reg) (m : BitVec 1) : Res :=
  let x := s.oper a
  let y := s.oper b
  if s.groupsIllegal (m = 1) d.toNat 1 false [x.asMask, y.asMask] tMask false then s.illegal
  else if x.notMask || y.notMask then .trap (s.trapWord causeTagmix) s
  else match s.destStop d.toNat 1 with
    | some r => r
    | Option.none =>
      s.writeCut (m = 1) d.toNat tMask [x, y] Option.none false 1 1 fun i => (if f (s.bitOf x i) (s.bitOf y i) then 1 else 0, 0)

/-- MPOPC and MFIRST: a scalar result from the active bits set, in ascending order. -/
def State.maskScan (s : State) (f : List Nat → Word) (d a : Reg) (m : BitVec 1) : Res :=
  let x := s.oper a
  if (m = 1 && s.maskTooLong) || s.operBad x.asMask tMask || decide (s.vstart ≠ 0) then s.illegal
  else if x.notMask then .trap (s.trapWord causeTagmix) s
  else .ok (((s.setXReply d (f ((List.range s.vl).filter fun i => s.active (m = 1) i && s.bitOf x i))).chargeStrip 1 1 s.vl).vdone [x] false)

/-- Counts of the active bits set below each element, from element `i` on. -/
def State.iotaCounts (s : State) (o : Oper) (m : Bool) : Nat → Nat → Nat → List Nat
  | 0, _, _ => []
  | n + 1, i, c => c :: s.iotaCounts o m n (i + 1) (if s.active m i && s.bitOf o i then c + 1 else c)

/-- MIOTA on its operands (14_isa_vector.md R378). -/
def miotaRun (d a : Reg) (m : BitVec 1) (s : State) : Res :=
  let x := s.oper a
  let t := s.vtag
  if tagReserved t then s.illegal
  else if s.groupsIllegal (m = 1) d.toNat (tagWidth t) false [x.asMask] tMask false || decide (s.vstart ≠ 0) then s.illegal
  else if !tagInt t || x.notMask then .trap (s.trapWord causeTagmix) s
  else match s.destStop d.toNat (tagWidth t) with
    | some r => r
    | Option.none =>
      let counts := packCodes 32 (s.iotaCounts x (m = 1) s.vl 0 0)
      s.writeElems (m = 1) d.toNat t [x] Option.none false 1 (tagWidth t) fun i => (counts / 2 ^ (32 * i) % 2 ^ 32, 0)

/-- MAND on its operands (14_isa_vector.md R378). -/
def mandRun (d a b : Reg) (m : BitVec 1) (s : State) : Res := s.maskOp (fun p q => p && q) d a b m

/-- MAND (14_isa_vector.md R378). -/
def execMand (d a b : Reg) (m : BitVec 1) (s : State) : Host.Outcome State Fault Refusal :=
  finish (s.vecIssue true 0 0 (mandRun d a b m))

/-- MOR on its operands (14_isa_vector.md R378). -/
def morRun (d a b : Reg) (m : BitVec 1) (s : State) : Res := s.maskOp (fun p q => p || q) d a b m

/-- MOR (14_isa_vector.md R378). -/
def execMor (d a b : Reg) (m : BitVec 1) (s : State) : Host.Outcome State Fault Refusal :=
  finish (s.vecIssue true 0 0 (morRun d a b m))

/-- MXOR on its operands (14_isa_vector.md R378). -/
def mxorRun (d a b : Reg) (m : BitVec 1) (s : State) : Res := s.maskOp (fun p q => p != q) d a b m

/-- MXOR (14_isa_vector.md R378). -/
def execMxor (d a b : Reg) (m : BitVec 1) (s : State) : Host.Outcome State Fault Refusal :=
  finish (s.vecIssue true 0 0 (mxorRun d a b m))

/-- MANDN on its operands (14_isa_vector.md R378). -/
def mandnRun (d a b : Reg) (m : BitVec 1) (s : State) : Res := s.maskOp (fun p q => p && !q) d a b m

/-- MANDN (14_isa_vector.md R378). -/
def execMandn (d a b : Reg) (m : BitVec 1) (s : State) : Host.Outcome State Fault Refusal :=
  finish (s.vecIssue true 0 0 (mandnRun d a b m))

/-- MPOPC (14_isa_vector.md R378). -/
def execMpopc (d a : Reg) (m : BitVec 1) (s : State) : Host.Outcome State Fault Refusal :=
  finish (s.vecHold true fun s => s.maskScan (fun l => BitVec.ofNat 64 l.length) d a m)

/-- MFIRST (14_isa_vector.md R378). -/
def execMfirst (d a : Reg) (m : BitVec 1) (s : State) : Host.Outcome State Fault Refusal :=
  finish (s.vecHold true fun s => s.maskScan (fun l => match l with
    | [] => BitVec.allOnes 64
    | i :: _ => BitVec.ofNat 64 i) d a m)

/-- MIOTA (14_isa_vector.md R378). -/
def execMiota (d a : Reg) (m : BitVec 1) (s : State) : Host.Outcome State Fault Refusal :=
  finish (s.vecIssue true 0 0 (miotaRun d a m))

end Sys2Proof.Machine
end

