-- ==== Sys2Proof/Machine/VecMod.lean ====
section
/-! DEFINITION. Modular arithmetic (14_isa_vector.md R384). -/

set_option Elab.async false

namespace Sys2Proof.Machine

/-- Integer tags and Z64. -/
def okMod (p : Nat) : Bool := tagInt p || p == tZ64

/-- An element of an integer tag or Z64 as an integer. -/
def modInt (p c : Nat) : Int := if p = tZ64 then (c : Int) else intOf p c

/-- A modular instruction: `f` gives the results for the destination, from the integers of the sources and of the scalar.
A butterfly (`both`) writes `d` and `a`. -/
def State.modOp (s : State) (both third : Bool) (cycles : Nat) (f : Int → List Int → List Int) (d : Reg) (k : BitVec 3) (a b : Reg) (unary : Bool)
    (m : BitVec 1) (xb : Word) : Res :=
  let o := s.oper a
  let x := s.oper d
  let snd : Second := if unary then .none else s.second k o b xb
  let vecs := [o] ++ (match snd with
    | .vec v => [v]
    | _ => [])
  let srcs := vecs ++ (if third then [x] else [])
  let p := s.vtag
  let st := s.scalarTag o
  let yw := 64
  let clash := both && (meets d.toNat (s.group yw) a.toNat (s.group yw) ||
    (s.groupBad a.toNat yw || (m = 1 && decide (a.toNat = 0))) ||
    srcs.any fun v => v.kind == 0 && meets a.toNat (s.group yw) v.reg (s.span v p) && (decide (v.reg ≠ a.toNat) || decide (v.width p ≠ yw)))
  if srcs.any (fun v => v.tag = tNone) && s.vtagBad then s.illegal
  else if s.groupsIllegal (m = 1) d.toNat 64 false srcs p false || clash then s.illegal
  else if !srcs.all (s.uniform · p) || !srcs.all (fun v => v.tag = tNone || okMod v.tag) || (k ≠ 0 && !unary && (!okMod st || snd == .bad)) then
    .trap (s.trapWord causeTagmix) s
  else if s.qBad then s.illegal
  else match s.destStop d.toNat 64, (if both then s.destStop a.toNat 64 else Option.none) with
    | some r, _ => r
    | _, some r => r
    | Option.none, Option.none => s.loadAll p srcs fun xs =>
      let vals (i : Nat) : List Int :=
        let vs := xs.map fun v => if v.tag = tNone then 0 else modInt v.tag (v.get i)
        match snd, vs with
        | .code t c, v :: r => v :: modInt t c :: r
        | _, _ => vs
      let q : Int := s.q
      let res (j i : Nat) : Nat × Flg := ((((f q (vals i)).getD j 0) % q).toNat, 0)
      let bad := earliest (xs.map Src.bad)
      if both && decide (s.vstart < s.vl) then
        -- both groups are read before either is written; the second group keeps VSTART for the first
        let y := s.writeElems (m = 1) a.toNat tZ64 [] bad false cycles 64 (res 1)
        match y with
        | .ok s1 =>
          (({ s1 with h := { s1.h with csr := { s1.h.csr with vstart := s.h.csr.vstart }, deferred := s.h.deferred } } : State).writeElems
            (m = 1) d.toNat tZ64 srcs bad false 0 64 (res 0))
        | r => r
      else s.writeCut (m = 1) d.toNat tZ64 srcs bad false cycles 64 (res 0)

/-- Element `i` of a list of integers. -/
def at0 (l : List Int) (i : Nat) : Int := l.getD i 0

/-- VMODADD on given operand values (14_isa_vector.md R384). -/
def vmodaddRun (d : Reg) (k : BitVec 3) (a b : Reg) (m : BitVec 1) (xb : Word) (s : State) : Res :=
  s.modOp false false 1 (fun _ v => [at0 v 0 + at0 v 1]) d k a b false m xb

/-- VMODADD (14_isa_vector.md R384). -/
def execVmodadd (d : Reg) (k : BitVec 3) (a b : Reg) (m : BitVec 1) (s : State) : Host.Outcome State Fault Refusal :=
  finish (s.vecIssue (kindAny k) 0 (s.x b) (vmodaddRun d k a b m (s.x b)))

/-- VMODSUB on given operand values (14_isa_vector.md R384). -/
def vmodsubRun (d : Reg) (k : BitVec 3) (a b : Reg) (m : BitVec 1) (xb : Word) (s : State) : Res :=
  s.modOp false false 1 (fun _ v => [at0 v 0 - at0 v 1]) d k a b false m xb

/-- VMODSUB (14_isa_vector.md R384). -/
def execVmodsub (d : Reg) (k : BitVec 3) (a b : Reg) (m : BitVec 1) (s : State) : Host.Outcome State Fault Refusal :=
  finish (s.vecIssue (kindAny k) 0 (s.x b) (vmodsubRun d k a b m (s.x b)))

/-- VMODMUL on given operand values (14_isa_vector.md R384). -/
def vmodmulRun (d : Reg) (k : BitVec 3) (a b : Reg) (m : BitVec 1) (xb : Word) (s : State) : Res :=
  s.modOp false false 4 (fun _ v => [at0 v 0 * at0 v 1]) d k a b false m xb

/-- VMODMUL (14_isa_vector.md R384). -/
def execVmodmul (d : Reg) (k : BitVec 3) (a b : Reg) (m : BitVec 1) (s : State) : Host.Outcome State Fault Refusal :=
  finish (s.vecIssue (kindAny k) 0 (s.x b) (vmodmulRun d k a b m (s.x b)))

/-- VMODRED on its operands (14_isa_vector.md R384). -/
def vmodredRun (d a : Reg) (m : BitVec 1) (s : State) : Res := s.modOp false false 4 (fun _ v => [at0 v 0]) d 0 a 0 true m 0

/-- VMODRED (14_isa_vector.md R384). -/
def execVmodred (d a : Reg) (m : BitVec 1) (s : State) : Host.Outcome State Fault Refusal :=
  finish (s.vecIssue true 0 0 (vmodredRun d a m))

/-- VBFLYCT on given operand values (14_isa_vector.md R384). -/
def vbflyctRun (d : Reg) (k : BitVec 3) (a b : Reg) (m : BitVec 1) (xb : Word) (s : State) : Res :=
  s.modOp true true 4 (fun _ v => [at0 v 2 + at0 v 1 * at0 v 0, at0 v 2 - at0 v 1 * at0 v 0]) d k a b false m xb

/-- VBFLYCT (14_isa_vector.md R384). -/
def execVbflyct (d : Reg) (k : BitVec 3) (a b : Reg) (m : BitVec 1) (s : State) : Host.Outcome State Fault Refusal :=
  finish (s.vecIssue (kindVvVs k) 0 (s.x b) (vbflyctRun d k a b m (s.x b)))

/-- VBFLYGS on given operand values (14_isa_vector.md R384). -/
def vbflygsRun (d : Reg) (k : BitVec 3) (a b : Reg) (m : BitVec 1) (xb : Word) (s : State) : Res :=
  s.modOp true true 4 (fun _ v => [at0 v 2 + at0 v 0, (at0 v 2 - at0 v 0) * at0 v 1]) d k a b false m xb

/-- VBFLYGS (14_isa_vector.md R384). -/
def execVbflygs (d : Reg) (k : BitVec 3) (a b : Reg) (m : BitVec 1) (s : State) : Host.Outcome State Fault Refusal :=
  finish (s.vecIssue (kindVvVs k) 0 (s.x b) (vbflygsRun d k a b m (s.x b)))

end Sys2Proof.Machine
end

