-- ==== Sys2Proof/Machine/VecSpecial.lean ====
section
/-! DEFINITION. Special functions (14_isa_vector.md R383). A transcendental value is computed in fixed point with `fxBits` fraction bits by
sums of non-negative terms rounded down, and handed to RoundTo as its leading bits with a tail, since it is irrational. -/

set_option Elab.async false

namespace Sys2Proof.Machine

/-- Fraction bits of the fixed-point values. -/
def fxBits : Nat := 420

/-- One in fixed point. -/
def fxOne : Nat := 2 ^ fxBits

/-- Sum of `z^(2j+1) / (2j+1)` from term `j` on; `p` is the power of `z` at hand. -/
def fxAtanh (z2 : Nat) : Nat → Nat → Nat → Nat
  | 0, _, _ => 0
  | n + 1, j, p => p / (2 * j + 1) + fxAtanh z2 n (j + 1) (p * z2 / fxOne)

/-- The natural logarithm of `t / 2^420` from 1 to 2. -/
def fxLn (t : Nat) : Nat :=
  let z := (t - fxOne) * fxOne / (t + fxOne)
  2 * fxAtanh (z * z / fxOne) 140 0 z

/-- ln 2. -/
def fxLn2 : Nat := fxLn (2 * fxOne)

/-- Sum of the exponential series from term `k` on; `p` is that term. -/
def fxExpSum (y : Nat) : Nat → Nat → Nat → Nat
  | 0, _, _ => 0
  | n + 1, k, p => p + fxExpSum y n (k + 1) (p * y / fxOne / (k + 1))

/-- e^y for y below 1. -/
def fxExp (y : Nat) : Nat := fxExpSum y 130 0 fxOne

/-- A fixed-point value with its tail, as leading bits. -/
def fxVal (neg : Bool) (v : Nat) : FVal := .num neg (v / 2 ^ 180) (-240) true

/-- `m × 2^e` in fixed point, rounded down. -/
def toFx (m : Nat) (e : Int) : Nat := (splitAt m e (-(fxBits : Int))).1

/-- e to the fixed-point power `y` as a fixed-point value below 2 and a power of two. -/
def fxExpParts (y : Nat) : Nat × Nat :=
  let n := y / fxLn2
  (fxExp (y - n * fxLn2), n)

/-- The exponent of the leading bit of `m × 2^e`. -/
def topOf (m : Nat) (e : Int) : Int := (bitLen m : Int) - 1 + e

/-- 2^x. -/
def exp2Val : FVal → FVal
  | .nan => .nan
  | .inf neg => if neg then .num false 0 0 false else .inf false
  | .num neg m e _ =>
    if m = 0 then .num false 1 0 false
    else if 17 ≤ topOf m e then .num false 1 (if neg then -131072 else 131072) true
    else
      let (k, rem, sh) := splitAt m e 0
      if rem = 0 then .num false 1 (if neg then -(k : Int) else k) false
      else
        let fr := toFx rem (-(sh : Int))
        let tiny := decide (fr = 0)
        if neg then
          let v := if tiny then 2 * fxOne - 1 else fxExp ((fxOne - fr - (if toFx rem (-(sh : Int)) * 2 ^ sh = rem * fxOne then 0 else 1)) * fxLn2 / fxOne)
          .num false (v / 2 ^ 180) (-240 - (k : Int) - 1) true
        else .num false (fxExp (fr * fxLn2 / fxOne) / 2 ^ 180) (-240 + (k : Int)) true

/-- log2 x, with its flags. -/
def log2Val : FVal → FVal × Flg
  | .nan => (.nan, 0)
  | .inf neg => if neg then (.nan, flNV) else (.inf false, 0)
  | .num neg m e _ =>
    if m = 0 then (.inf true, flDZ)
    else if neg then (.nan, flNV)
    else
      let k := topOf m e
      if m = 2 ^ (bitLen m - 1) then (.ofInt k, 0)
      else
        let t := toFx m (e - k)
        let l := fxLn t * fxOne / fxLn2
        let v : Int := k * (fxOne : Nat) + l
        (fxVal (decide (v < 0)) v.natAbs, 0)

/-- 1 / √x, with its flags. -/
def rsqrtVal : FVal → FVal × Flg
  | .nan => (.nan, 0)
  | .inf neg => if neg then (.nan, flNV) else (.num false 0 0 false, 0)
  | .num neg m e _ =>
    if m = 0 then (.inf neg, flDZ)
    else if neg then (.nan, flNV)
    else
      let odd := decide (e % 2 ≠ 0)
      let m' := if odd then 2 * m else m
      let e' := if odd then e - 1 else e
      let k := 140 + bitLen m'
      let r := isqrt (2 ^ (2 * k) / m')
      (.num false r (-(k : Int) - e' / 2) (decide (r * r * m' ≠ 2 ^ (2 * k))), 0)

/-- tanh x. -/
def tanhVal : FVal → FVal
  | .nan => .nan
  | .inf neg => .num neg 1 0 false
  | .num neg m e _ =>
    if m = 0 then .num neg 0 0 false
    else if topOf m e < -140 then .num neg (m * 2 ^ 200 - 1) (e - 200) true
    else if 7 ≤ topOf m e then .num neg (2 ^ 300 - 1) (-300) true
    else
      let (x, n) := fxExpParts (2 * toFx m e)
      let a := x * 2 ^ n
      fxVal neg ((a - fxOne) * fxOne / (a + fxOne))

/-- 1 / (1 + e^-x). -/
def sigmVal : FVal → FVal
  | .nan => .nan
  | .inf neg => .num false (if neg then 0 else 1) 0 false
  | .num neg m e _ =>
    if m = 0 then .num false 1 (-1) false
    else if topOf m e < -300 then .num false (if neg then 2 ^ 300 - 1 else 2 ^ 300) (-301) true
    else if neg then
      if 14 ≤ topOf m e then .num false 1 (-30000) true
      else
        let (x, n) := fxExpParts (toFx m e)
        .num false (2 ^ (fxBits + n + 300) / (fxOne + x * 2 ^ n)) (-((n : Int) + 300)) true
    else if 9 ≤ topOf m e then .num false (2 ^ 300 - 1) (-300) true
    else
      let (x, n) := fxExpParts (toFx m e)
      fxVal false (x * 2 ^ n * fxOne / (fxOne + x * 2 ^ n))

/-- The four tags of the special functions. -/
def okSpecial (p : Nat) : Bool := p == tF16 || p == tBF16 || p == tF32 || p == tF64

/-- A special function as an element-wise operation. -/
def specialOp (f : FVal → FVal × Flg) : Elementwise :=
  plainOp okSpecial 4 fun p r _ i xs =>
    let a := arg0 xs
    let (v, f1) := f (fDecode p a)
    let (z, f2) := fRound p r i v
    (z, fSnanFlag p a ||| f1 ||| f2)

/-- An element of VEXP2. -/
def opVexp2 : Elementwise := specialOp (fun x => (exp2Val x, 0))

/-- VEXP2 on its register operands (14_isa_vector.md R383). -/
def vexp2Run (d a : Reg) (m : BitVec 1) (s : State) : Res := s.vUnary opVexp2 d a m

/-- VEXP2 (14_isa_vector.md R383). -/
def execVexp2 (d a : Reg) (m : BitVec 1) (s : State) : Host.Outcome State Fault Refusal :=
  finish (s.vecIssue true 0 0 (vexp2Run d a m))

/-- An element of VLOG2. -/
def opVlog2 : Elementwise := specialOp log2Val

/-- VLOG2 on its register operands (14_isa_vector.md R383). -/
def vlog2Run (d a : Reg) (m : BitVec 1) (s : State) : Res := s.vUnary opVlog2 d a m

/-- VLOG2 (14_isa_vector.md R383). -/
def execVlog2 (d a : Reg) (m : BitVec 1) (s : State) : Host.Outcome State Fault Refusal :=
  finish (s.vecIssue true 0 0 (vlog2Run d a m))

/-- An element of VRCP. -/
def opVrcp : Elementwise := specialOp (FVal.div (.num false 1 0 false))

/-- VRCP on its register operands (14_isa_vector.md R383). -/
def vrcpRun (d a : Reg) (m : BitVec 1) (s : State) : Res := s.vUnary opVrcp d a m

/-- VRCP (14_isa_vector.md R383). -/
def execVrcp (d a : Reg) (m : BitVec 1) (s : State) : Host.Outcome State Fault Refusal :=
  finish (s.vecIssue true 0 0 (vrcpRun d a m))

/-- An element of VRSQRT. -/
def opVrsqrt : Elementwise := specialOp rsqrtVal

/-- VRSQRT on its register operands (14_isa_vector.md R383). -/
def vrsqrtRun (d a : Reg) (m : BitVec 1) (s : State) : Res := s.vUnary opVrsqrt d a m

/-- VRSQRT (14_isa_vector.md R383). -/
def execVrsqrt (d a : Reg) (m : BitVec 1) (s : State) : Host.Outcome State Fault Refusal :=
  finish (s.vecIssue true 0 0 (vrsqrtRun d a m))

/-- An element of VTANH. -/
def opVtanh : Elementwise := specialOp (fun x => (tanhVal x, 0))

/-- VTANH on its register operands (14_isa_vector.md R383). -/
def vtanhRun (d a : Reg) (m : BitVec 1) (s : State) : Res := s.vUnary opVtanh d a m

/-- VTANH (14_isa_vector.md R383). -/
def execVtanh (d a : Reg) (m : BitVec 1) (s : State) : Host.Outcome State Fault Refusal :=
  finish (s.vecIssue true 0 0 (vtanhRun d a m))

/-- An element of VSIGM. -/
def opVsigm : Elementwise := specialOp (fun x => (sigmVal x, 0))

/-- VSIGM on its register operands (14_isa_vector.md R383). -/
def vsigmRun (d a : Reg) (m : BitVec 1) (s : State) : Res := s.vUnary opVsigm d a m

/-- VSIGM (14_isa_vector.md R383). -/
def execVsigm (d a : Reg) (m : BitVec 1) (s : State) : Host.Outcome State Fault Refusal :=
  finish (s.vecIssue true 0 0 (vsigmRun d a m))

end Sys2Proof.Machine
end

