-- ==== Sys2Proof/Machine/VecDispatch.lean ====
section
/-! DEFINITION. The vector queue and the Pump: capture, replay and the instructions queued behind it (07_core.md R188 to R192,
14_isa_vector.md R374). -/

set_option Elab.async false

namespace Sys2Proof.Machine

/-- Run an instruction that the queue or the Pump holds, with the values of its scalar operands at issue. -/
def runVector (i : Instr) (xa xb : Word) (s : State) : Res :=
  match i with
  | .vtag d t => vtagRun d t s
  | .vadd d k a b m => vaddRun d k a b m xb s
  | .vsub d k a b m => vsubRun d k a b m xb s
  | .vmul d k a b m => vmulRun d k a b m xb s
  | .vmulh d k a b m => vmulhRun d k a b m xb s
  | .vmadd d k a b m => vmaddRun d k a b m xb s
  | .vnmsub d k a b m => vnmsubRun d k a b m xb s
  | .vdiv d k a b m => vdivRun d k a b m xb s
  | .vrem d k a b m => vremRun d k a b m xb s
  | .vmin d k a b m => vminRun d k a b m xb s
  | .vmax d k a b m => vmaxRun d k a b m xb s
  | .vabs d a m => vabsRun d a m s
  | .vneg d a m => vnegRun d a m s
  | .vsqrt d a m => vsqrtRun d a m s
  | .vand d k a b m => vandRun d k a b m xb s
  | .vor d k a b m => vorRun d k a b m xb s
  | .vxor d k a b m => vxorRun d k a b m xb s
  | .vsll d k a b m => vsllRun d k a b m xb s
  | .vsrl d k a b m => vsrlRun d k a b m xb s
  | .vsra d k a b m => vsraRun d k a b m xb s
  | .vsadd d k a b m => vsaddRun d k a b m xb s
  | .vssub d k a b m => vssubRun d k a b m xb s
  | .vcmpeq d k a b m => vcmpeqRun d k a b m xb s
  | .vcmpne d k a b m => vcmpneRun d k a b m xb s
  | .vcmplt d k a b m => vcmpltRun d k a b m xb s
  | .vcmple d k a b m => vcmpleRun d k a b m xb s
  | .vcmpgt d k a b m => vcmpgtRun d k a b m xb s
  | .vcmpge d k a b m => vcmpgeRun d k a b m xb s
  | .mand d a b m => mandRun d a b m s
  | .mor d a b m => morRun d a b m s
  | .mxor d a b m => mxorRun d a b m s
  | .mandn d a b m => mandnRun d a b m s
  | .miota d a m => miotaRun d a m s
  | .vmv d k a b m => vmvRun d k a b m xb s
  | .vid d m => vidRun d m s
  | .vsel d k a b => vselRun d k a b xb s
  | .vcompress d a => vcompressRun d a s
  | .vslideup d k a b m => vslideupRun d k a b m xb s
  | .vslidedn d k a b m => vslidednRun d k a b m xb s
  | .vperm d a b m => vpermRun d a b m s
  | .vcvt d a t m => vcvtRun d a t m s
  | .vqsf4 d a _ m => vqsf4Run d a m xb s
  | .vredsum d a m => vredsumRun d a m s
  | .vredmax d a m => vredmaxRun d a m s
  | .vredmin d a m => vredminRun d a m s
  | .vreddot d a b m => vreddotRun d a b m s
  | .vexp2 d a m => vexp2Run d a m s
  | .vlog2 d a m => vlog2Run d a m s
  | .vrcp d a m => vrcpRun d a m s
  | .vrsqrt d a m => vrsqrtRun d a m s
  | .vtanh d a m => vtanhRun d a m s
  | .vsigm d a m => vsigmRun d a m s
  | .vmodadd d k a b m => vmodaddRun d k a b m xb s
  | .vmodsub d k a b m => vmodsubRun d k a b m xb s
  | .vmodmul d k a b m => vmodmulRun d k a b m xb s
  | .vmodred d a m => vmodredRun d a m s
  | .vbflyct d k a b m => vbflyctRun d k a b m xb s
  | .vbflygs d k a b m => vbflygsRun d k a b m xb s
  | .opa t k a b => opaRun t k a b s
  | .ops t k a b => opsRun t k a b s
  | .opam t k a b => opamRun t k a b s
  | .tzero t => tzeroRun t s
  | .trdrow t k v i m => trdrowRun t k v i m xb s
  | .twrrow t k v i m => twrrowRun t k v i m xb s
  | .vmvs d _ => vmvsRun d xb s
  | .tepi t v _ m => tepiRun t v m xb s
  | .vld d _ m => vldRun d m xa s
  | .vlds d _ _ m => vldsRun d m xa xb s
  | .vldx d _ b m => vldxRun d b m xa s
  | .vst d _ m => vstRun d m xa s
  | .vsts d _ _ m => vstsRun d m xa xb s
  | .vstx d _ b m => vstxRun d b m xa s
  | .vscadd d _ b m => vscaddRun d b m xa s
  | .vspill d _ => vspillRun d xa s
  | .tld t _ _ => tldRun t xa xb s
  | .tst t _ _ => tstRun t xa xb s
  | _ => s.illegal

/-- What fixes the width of a captured instruction's result. -/
inductive DestKind
  | promoted
  | operating
  | mask
  | one
  | tile
  | width (w : Nat)
deriving DecidableEq, Repr

/-- The vector register fields of a captured instruction. -/
structure VecFields where
  dest : DestKind
  d : Option Reg
  a : Option Reg
  b : Option Reg
deriving DecidableEq, Repr

/-- The instructions that the Pump captures, with their vector register fields (14_isa_vector.md R374). -/
def vecFields (i : Instr) : Option VecFields :=
  match i with
  | .vadd d k a b _ => some ⟨.promoted, some d, some a, if k = 0 then some b else none⟩
  | .vsub d k a b _ => some ⟨.promoted, some d, some a, if k = 0 then some b else none⟩
  | .vmul d k a b _ => some ⟨.promoted, some d, some a, if k = 0 then some b else none⟩
  | .vmulh d k a b _ => some ⟨.promoted, some d, some a, if k = 0 then some b else none⟩
  | .vmadd d k a b _ => some ⟨.promoted, some d, some a, if k = 0 then some b else none⟩
  | .vnmsub d k a b _ => some ⟨.promoted, some d, some a, if k = 0 then some b else none⟩
  | .vdiv d k a b _ => some ⟨.promoted, some d, some a, if k = 0 then some b else none⟩
  | .vrem d k a b _ => some ⟨.promoted, some d, some a, if k = 0 then some b else none⟩
  | .vmin d k a b _ => some ⟨.promoted, some d, some a, if k = 0 then some b else none⟩
  | .vmax d k a b _ => some ⟨.promoted, some d, some a, if k = 0 then some b else none⟩
  | .vabs d a _ => some ⟨.promoted, some d, some a, none⟩
  | .vneg d a _ => some ⟨.promoted, some d, some a, none⟩
  | .vsqrt d a _ => some ⟨.promoted, some d, some a, none⟩
  | .vand d k a b _ => some ⟨.promoted, some d, some a, if k = 0 then some b else none⟩
  | .vor d k a b _ => some ⟨.promoted, some d, some a, if k = 0 then some b else none⟩
  | .vxor d k a b _ => some ⟨.promoted, some d, some a, if k = 0 then some b else none⟩
  | .vsll d k a b _ => some ⟨.promoted, some d, some a, if k = 0 then some b else none⟩
  | .vsrl d k a b _ => some ⟨.promoted, some d, some a, if k = 0 then some b else none⟩
  | .vsra d k a b _ => some ⟨.promoted, some d, some a, if k = 0 then some b else none⟩
  | .vsadd d k a b _ => some ⟨.promoted, some d, some a, if k = 0 then some b else none⟩
  | .vssub d k a b _ => some ⟨.promoted, some d, some a, if k = 0 then some b else none⟩
  | .vcmpeq d k a b _ => some ⟨.mask, some d, some a, if k = 0 then some b else none⟩
  | .vcmpne d k a b _ => some ⟨.mask, some d, some a, if k = 0 then some b else none⟩
  | .vcmplt d k a b _ => some ⟨.mask, some d, some a, if k = 0 then some b else none⟩
  | .vcmple d k a b _ => some ⟨.mask, some d, some a, if k = 0 then some b else none⟩
  | .vcmpgt d k a b _ => some ⟨.mask, some d, some a, if k = 0 then some b else none⟩
  | .vcmpge d k a b _ => some ⟨.mask, some d, some a, if k = 0 then some b else none⟩
  | .mand d a b _ => some ⟨.mask, some d, some a, some b⟩
  | .mor d a b _ => some ⟨.mask, some d, some a, some b⟩
  | .mxor d a b _ => some ⟨.mask, some d, some a, some b⟩
  | .mandn d a b _ => some ⟨.mask, some d, some a, some b⟩
  | .miota d a _ => some ⟨.operating, some d, some a, none⟩
  | .vmv d k a _ _ => some ⟨.promoted, some d, if k = 0 then some a else none, none⟩
  | .vid d _ => some ⟨.operating, some d, none, none⟩
  | .vsel d k a b => some ⟨.promoted, some d, some a, if k = 0 then some b else none⟩
  | .vcompress d a => some ⟨.promoted, some d, some a, none⟩
  | .vslideup d _ a _ _ => some ⟨.promoted, some d, some a, none⟩
  | .vslidedn d _ a _ _ => some ⟨.promoted, some d, some a, none⟩
  | .vperm d a b _ => some ⟨.promoted, some d, some a, some b⟩
  | .vcvt d a t _ => some ⟨.width (tagWidth t.toNat), some d, some a, none⟩
  | .vqsf4 d a _ _ => some ⟨.width 4, some d, some a, none⟩
  | .vredsum d a _ => some ⟨.one, some d, some a, none⟩
  | .vredmax d a _ => some ⟨.one, some d, some a, none⟩
  | .vredmin d a _ => some ⟨.one, some d, some a, none⟩
  | .vreddot d a b _ => some ⟨.one, some d, some a, some b⟩
  | .vexp2 d a _ => some ⟨.promoted, some d, some a, none⟩
  | .vlog2 d a _ => some ⟨.promoted, some d, some a, none⟩
  | .vrcp d a _ => some ⟨.promoted, some d, some a, none⟩
  | .vrsqrt d a _ => some ⟨.promoted, some d, some a, none⟩
  | .vtanh d a _ => some ⟨.promoted, some d, some a, none⟩
  | .vsigm d a _ => some ⟨.promoted, some d, some a, none⟩
  | .vmodadd d k a b _ => some ⟨.promoted, some d, some a, if k = 0 then some b else none⟩
  | .vmodsub d k a b _ => some ⟨.promoted, some d, some a, if k = 0 then some b else none⟩
  | .vmodmul d k a b _ => some ⟨.promoted, some d, some a, if k = 0 then some b else none⟩
  | .vmodred d a _ => some ⟨.promoted, some d, some a, none⟩
  | .vbflyct d k a b _ => some ⟨.promoted, some d, some a, if k = 0 then some b else none⟩
  | .vbflygs d k a b _ => some ⟨.promoted, some d, some a, if k = 0 then some b else none⟩
  | .opa _ _ a b => some ⟨.tile, none, some a, some b⟩
  | .ops _ _ a b => some ⟨.tile, none, some a, some b⟩
  | .opam _ _ a b => some ⟨.tile, none, some a, some b⟩
  | .tzero _ => some ⟨.tile, none, none, none⟩
  | _ => none

/-! ## Stepping (07_core.md R189) -/

/-- A field in the repetition with step offset `off`, in a window of `w` registers. -/
def stepReg (w off f : Nat) : Nat := f - f % w + (f % w + off) % w

/-- Replace a 5-bit field of a word. -/
def putReg (x : IWord) (lo v : Nat) : IWord :=
  let n := x.toNat
  BitVec.ofNat 32 (n % 2 ^ lo + v % 32 * 2 ^ lo + n / 2 ^ (lo + 5) * 2 ^ (lo + 5))

/-- The wrap window W. -/
def Pump.window (p : Pump) : Nat := 2 ^ (p.wrap.toNat + 2)

/-- A captured word in the repetition with step offset `off`. -/
def Pump.stepped (p : Pump) (off : Nat) (x : IWord) : IWord :=
  match vecFields (decode x) with
  | none => x
  | some f =>
    let go (on : Bool) (lo : Nat) (x : IWord) : IWord := if on then putReg x lo (stepReg p.window off (fldN x lo 5)) else x
    go (p.smask.getLsbD 2 && f.b.isSome) 20 (go (p.smask.getLsbD 1 && f.a.isSome) 15 (go (p.smask.getLsbD 0 && f.d.isSome) 7 x))

/-! ## Capture (14_isa_vector.md R374) -/

/-- The groups of a word's vector fields satisfy R363, and each selected field steps by a multiple of its group. -/
def State.fieldsOk (s : State) (p : Pump) (f : VecFields) : Bool :=
  let srcs := (f.a.toList ++ f.b.toList).map s.oper
  let pr := (promoteAll s.vtag (srcs.map Oper.tag)).getD s.vtag
  let w := match f.dest with
    | .promoted => tagWidth pr
    | .operating => tagWidth s.vtag
    | .mask => 1
    | .one => 0
    | .tile => 0
    | .width w => w
  let steps (sel : Nat) (g : Nat) : Bool := !p.smask.getLsbD sel || g = 1 || 2 ^ p.step.toNat % g = 0
  let src (sel : Nat) (r : Option Reg) : Bool := match r with
    | none => true
    | some r => !s.operBad (s.oper r) pr && steps sel (s.group ((s.oper r).width pr))
  src 1 f.a && src 2 f.b &&
    (match f.d with
      | none => true
      | some d => if w = 0 then decide (d.toNat < s.declared) && steps 0 1 else !s.groupBad d.toNat w && steps 0 (s.group w))

/-- A word may be captured: its kind, and its fields in every repetition. -/
def State.mayCapture (s : State) (x : IWord) : Bool :=
  let p := s.h.vec.pump
  let i := decode x
  i.wellFormed &&
    (match vecFields i with
      | none => false
      | some f =>
        !(f.dest == .tile && p.smask.getLsbD 0) && (f.dest != .operating || !s.vtagBad) &&
          (List.range (min p.rem.toNat 32)).all fun r =>
            match vecFields (decode (p.stepped (r * 2 ^ p.step.toNat % p.window) x)) with
            | none => false
            | some g => s.fieldsOk p g)

/-- Capture the word being issued. After the last one the Pump replays; a count of 0 leaves it idle (07_core.md R188). -/
def State.capture (s : State) (x : IWord) : Res :=
  let p := s.h.vec.pump
  let setP (q : Pump) (s : State) : State := { s with h := { s.h with vec := { s.h.vec with pump := q } } }
  if !s.mayCapture x then .trap (s.trapWord causeIllegal) (setP Pump.reset s)
  else
    let words := p.words ++ [.plain x s.h.csr.vtype s.h.csr.vl (s.x (fld x 15 5)) (s.x (fld x 20 5))]
    if words.length ≤ p.len.toNat then .ok (setP { p with words := words } s)
    else if p.rem = 0 then .ok (setP Pump.reset s)
    else .ok (setP { p with words := words, state := 2 } s)

/-! ## Running what waits -/

/-- How an entry runs: a vector memory instruction performs the accesses that were checked when it was issued. -/
def VqEntry.mode (e : VqEntry) : VRun :=
  match e.spots with
  | none => .now
  | some els => .checked els

/-- Run an entry under the VTYPE and VL of its issue; what the hart set since comes back afterwards. -/
def State.runEntry (s : State) (e : VqEntry) (x : IWord) : Res :=
  let back (t : State) : State := { t with h := { t.h with
    word := s.h.word, vec := { t.h.vec with mode := .now }, csr := { t.h.csr with vtype := s.h.csr.vtype, vl := s.h.csr.vl } } }
  match runVector (decode x) e.ra e.rb { s with h := { s.h with
    word := x, vec := { s.h.vec with mode := e.mode }, csr := { s.h.csr with vtype := e.vtype, vl := e.vl } } } with
  | .ok t => .ok (back t)
  | .trap c t => .trap c (back t)
  | .wait t => .wait (back t)

/-- The Pump after the captured instruction at IDX has completed. -/
def Pump.advance (p : Pump) : Pump :=
  if p.idx.toNat + 1 < p.words.length then { p with idx := p.idx + 1 }
  else if p.rem.toNat ≤ 1 || p.stopping then Pump.reset
  else { p with idx := 0, rem := p.rem - 1, off := BitVec.ofNat 5 ((p.off.toNat + 2 ^ p.step.toNat) % p.window) }

/-- Write the Pump. -/
def State.setPump (s : State) (p : Pump) : State := { s with h := { s.h with vec := { s.h.vec with pump := p } } }

/-- One captured instruction of the repetition in progress runs; the last one completes a repetition, which is counted. A trap suspends the
Pump and is deferred (07_core.md R191, R208; 10_traps.md R275). -/
def State.pumpOne (s : State) : State :=
  let p := s.h.vec.pump
  match p.words[p.idx.toNat]? with
  | none => s.setPump Pump.reset
  | some e =>
    match s.runEntry e (p.stepped p.off.toNat e.word) with
    | .ok t =>
      if t.h.deferred.isSome then t.setPump { p with state := 3 }
      else (if p.idx.toNat + 1 < p.words.length then t else t.count 0x07 1).setPump p.advance
    | .trap c t => ({ t with h := { t.h with deferred := some c } } : State).setPump { p with state := 3 }
    | .wait t => t

/-- Run what is left of one repetition, at most `n` instructions. -/
def State.pumpRun : Nat → State → State
  | 0, s => s
  | n + 1, s =>
    if s.h.vec.pump.state ≠ 2 || s.h.run == .parkedFE then s
    else
      let t := s.pumpOne
      if t.h.vec.pump.state = 2 && t.h.vec.pump.idx ≠ 0 then State.pumpRun n t else t

/-- The oldest instruction of the vector queue runs. A trap discards what is behind it (10_traps.md R275). -/
def State.queueOne (s : State) : State :=
  match s.h.vec.vq with
  | [] => s
  | e :: r =>
    let s0 := { s with h := { s.h with vec := { s.h.vec with vq := r } } }
    match s0.runEntry e e.word with
    | .ok t => if t.h.deferred.isSome then { t with h := { t.h with vec := { t.h.vec with vq := [] } } } else t
    | .trap c t => { t with h := { t.h with deferred := some c, vec := { t.h.vec with vq := [] } } }
    | .wait t => { t with h := { t.h with vec := { t.h.vec with vq := e :: r } } }

end Sys2Proof.Machine
end

