-- ==== Sys2Proof/Machine/Issue.lean ====
section
/-! DEFINITION. A visit of the barrel up to the instruction it issues: bubbles, deferred traps, interrupts, the fetch
(06_execution.md R147; 07_core.md R173 to R175; 10_traps.md R273 to R275, R279). -/

set_option Elab.async false

namespace Sys2Proof.Machine

/-- What a visit comes to before an instruction is carried out: it is over, or it issues an instruction. -/
inductive Visit
  | over (s : State)
  | run (i : Instr) (s : State)

/-- The hart slot whose turn it is in this cycle of the core in focus (07_core.md R173). -/
def State.dueSlot (s : State) : BitVec 3 := BitVec.ofNat 3 s.c.cycle.toNat

/-- A slot belongs to the allotment of a seated launch of the core in focus. -/
def State.slotInUse (s : State) (slot : BitVec 3) : Bool :=
  s.hst.launches.any fun l => l.seated && l.cores.contains s.c.id && decide (l.firstSlot.toNat ≤ slot.toNat) &&
    decide (slot.toNat < l.firstSlot.toNat + l.allot)

/-- A visit that issues nothing (07_core.md R208). -/
def State.bubble (s : State) (slot : BitVec 3) : State := if s.slotInUse slot then s.count 0x03 1 else s

/-- A visit lost to a memory wait: a bubble too (07_core.md R174, R208). -/
def State.lost (s : State) (slot : BitVec 3) : State := (s.bubble slot).count 0x04 1

/-- A core cycle ends. -/
def State.tick (s : State) : State := { s with c := { (s.c.count 0x01 1) with cycle := s.c.cycle + 1 } }

/-- The governor of the core's die takes this visit: an inserted bubble, or every second round while the issue rate is halved
(01_package.md R13, R15). -/
def State.governed (s : State) : Bool :=
  s.c.bubbles != 0 || (s.pkg.halved.getLsbD (s.c.id / 512) && decide (s.c.cycle.toNat / 8 % 2 = 1))

/-! ## Interrupts (10_traps.md R273) -/

/-- Interrupt `k` is pending, enabled, and the hart is below its target level, or at it with IE. -/
def State.qualifies (s : State) (k : Nat) : Bool :=
  s.sipBits.getLsbD k && s.h.csr.sie.getLsbD k &&
    (if s.c.mdeleg.getLsbD (32 + k) then s.h.level == .user || (s.h.level == .supervisor && s.h.csr.sstatus.getLsbD 0)
     else s.h.level != .monitor || s.h.csr.mstatus.getLsbD 0)

/-- The interrupt taken first: PREEMPT, SIPHON, TIMER, MAILBOX; its cause and value. -/
def State.pendingInterrupt (s : State) : Option Trap :=
  if s.qualifies 2 then some ⟨0x82, BitVec.ofNat 64 s.h.reason⟩
  else if s.qualifies 3 then some ⟨0x83, 0⟩
  else if s.qualifies 1 then some ⟨0x81, 0⟩
  else if s.qualifies 4 then some ⟨0x84, 0⟩
  else none

/-- The interrupt that the hart in focus takes at this visit: none while the Pump captures, nor inside a COLLEND that has not parked
(14_isa_vector.md R373, 10_traps.md R280). -/
def State.interruptNow (s : State) : Option Trap :=
  if s.h.vec.pump.state = 1 || s.h.collStage = 1 || s.h.collStage = 2 then none else s.pendingInterrupt

/-- A parked hart leaves its wait; its instruction executes again later. -/
def State.unpark (s : State) : State :=
  let s1 := s.leaveWaits s.h.core s.h.slot s.h.launch
  { s1 with h := { s1.h with run := .ready, mergeWait := false } }

/-- The hart in focus takes an interrupt or a deferred trap before its next instruction. -/
def State.trapBefore (s : State) (t : Trap) (interrupt : Bool) : State :=
  s.unpark.drain.takeTrap t interrupt (!interrupt) s.h.pc

/-- The deferred trap of the hart in focus is taken (10_traps.md R275). -/
def State.takeDeferred (s : State) (t : Trap) : State := ({ s with h := { s.h with deferred := none } } : State).trapBefore t false

/-! ## The fetch -/

/-- A vector memory instruction: FM applies to it (10_traps.md R279). -/
def vecMemory (i : Instr) : Bool :=
  match i with
  | .vld _ _ _ => true
  | .vlds _ _ _ _ => true
  | .vldx _ _ _ _ => true
  | .vst _ _ _ => true
  | .vsts _ _ _ _ => true
  | .vstx _ _ _ _ => true
  | .vscadd _ _ _ _ => true
  | .vspill _ _ => true
  | .vfill _ _ => true
  | .tld _ _ _ => true
  | .tst _ _ _ => true
  | _ => false

/-- FM clears before any other instruction than a vector memory instruction (10_traps.md R279). -/
def State.clearFm (s : State) (i : Instr) : State :=
  if s.h.vec.fmArmed && !vecMemory i then { s with h := { s.h with vec := { s.h.vec with fm := 0, fmArmed := false } } } else s

/-- The outcome of a fetch that fails. -/
def State.fetchFault (s : State) (c : Cause) : State :=
  match s.oneFault s.h.pc false c with
  | .trap t u => u.raise t
  | .wait u => u
  | .ok u => u

/-- The registers that a word may read. -/
def readFields (w : IWord) : List Reg := [fld w 7 5, fld w 7 5 ||| 1, fld w 15 5, fld w 20 5]

/-- An outstanding marked load through a route writes one of these registers (09_ordering.md R246). -/
def State.awaitsRemote (s : State) (rs : List Reg) : Bool :=
  s.c.reqs.any fun r => r.marked && r.slot == s.h.slot && r.launch == s.h.launch &&
    (match r.kind with
      | .load rd _ _ => rs.contains rd
      | .atomic rd _ => rs.contains rd
      | .cas rd => rs.contains rd
      | _ => false)

/-- An outstanding marked access to the core's own memory writes one of these registers. -/
def State.awaitsLocal (s : State) (rs : List Reg) : Bool := s.h.marked.any fun m => m.op.writesRd && rs.contains m.rd

/-- The majors whose instructions are strips of the vector sequencer (12_encoding.md R318). -/
def stripMajor (w : IWord) : Bool := (decide (17 ≤ fldN w 0 7) && decide (fldN w 0 7 ≤ 23)) || decide (fldN w 0 7 = 26)

/-- Issue the word that was fetched: a register that a marked load still writes is waited for, out of the rotation, a capturing Pump takes the word,
else the instruction is carried out. -/
def State.issueWord (s : State) (w : IWord) : Visit :=
  let s1 := { s with h := { s.h with word := w } }
  if s1.awaitsLocal (readFields w) then .over (s1.performMarked.lost s.dueSlot)
  else if s1.awaitsRemote (readFields w) then .over (s1.lost s.dueSlot)
  else
    let i := decode w
    let s2 := s1.clearFm i
    let s3 := if stripMajor w && i != .illegalWord w then s2.joins else s2
    if s3.h.vec.pump.state = 1 then
      .over (match s3.capture w with
        | .ok u => u.retire
        | .trap t u => u.raise t
        | .wait u => u)
    else .run i s3

/-- The schedule says that the fetch of this visit misses the L1 instruction cache (07_core.md R174). -/
def State.missNow (s : State) : Bool :=
  match s.sched with
  | .fetchMiss :: _ => true
  | _ => false

/-- Fetch at the program counter of the hart in focus (08_memory.md R219, R227) and issue. -/
def State.fetchIssue (s : State) : Visit :=
  if s.missNow then .over (s.lost s.dueSlot)
  else match s.check s.h.pc 4 4 .fetch with
  | .error c => .over (s.fetchFault c)
  | .ok hit =>
    let s1 := (s.fill hit.fill).countAccess 0x09
    match s1.readLoc hit.loc 4 with
    | none => .over ((s1.spoil hit.loc 4).raise ⟨causePoison, s1.h.pc⟩)
    | some w => s1.issueWord (BitVec.ofNat 32 w)

/-! ## The visit -/

/-- The launch of the hart in focus has ended, so the hart is halted (06_execution.md R172). -/
def State.launchEnded (s : State) : Bool :=
  match s.launch? s.h.launch with
  | none => false
  | some l => l.endStat.isSome

/-- An instruction that trapped: its hart is in a handler that it was not in, or ended. -/
def State.trapped (s u : State) : Bool :=
  decide (u.h.csr.instret = s.h.csr.instret) &&
    (u.h.run == .retired || (u.h.csr.sstatus.getLsbD 3 && !s.h.csr.sstatus.getLsbD 3) || (u.h.csr.mstatus.getLsbD 4 && !s.h.csr.mstatus.getLsbD 4))

/-- A trap is entered once the instructions in the vector queue have completed: until then the hart issues nothing (10_traps.md R274). -/
def State.drained (s u : State) : State := if s.undrained && s.trapped u then s else u

/-- The visit of the hart in focus. -/
def State.visitHart (s : State) (slot : BitVec 3) : Visit :=
  if s.governed then .over (({ s with c := { s.c with bubbles := s.c.bubbles - 1 } } : State).bubble slot)
  else if s.launchEnded then .over s.retireHart
  else if s.h.run == .swapped then .over (s.bubble slot)
  else if s.h.run == .memWait then .over (s.lost slot)
  else if s.c.cycle < s.h.nextIssue then .over (if s.h.onReply then s.lost slot else s.bubble slot)
  else match (if s.h.vec.pump.state = 1 then none else s.h.deferred) with
    | some t => .over (s.takeDeferred t)
    | none => match s.interruptNow with
      | some t => .over (if s.undrained then s.bubble slot else s.trapBefore t true)
      | none =>
        if s.h.run != .ready then .over (s.bubble slot)
        else match s.fetchIssue with
          | .over u => .over (s.drained u)
          | .run i u => .run i u

/-- A core in its current cycle, in focus, with the writes of the cycles before seen (07_core.md R176). -/
def State.atCycle (s : State) (core : Nat) : State :=
  let s0 := s.focusCore core
  { s0 with c := s0.c.settle }

/-- A visit of a core, up to the instruction it issues. In FAULT every core is halted (01_package.md R29). -/
def State.startVisit (s : State) (core : Nat) : Visit :=
  if s.pkg.fault then .over (s.focusCore core) else
  let s1 := s.atCycle core
  match s1.focusSlot core s1.dueSlot with
  | none => .over (s1.bubble s1.dueSlot)
  | some s2 => s2.visitHart s2.dueSlot

/-- A visit ends: `s` is the state at the issue, `u` the state after the instruction. An instruction that neither retired nor trapped has
not issued, and its visit was a bubble. -/
def State.endVisit (s u : State) : State :=
  let u1 := u.focusCore s.c.id
  (if u.h.csr.instret ≠ s.h.csr.instret || u.h.pc ≠ s.h.pc then u1.count 0x02 1
   else if u.h.run == .memWait then u1.lost s.dueSlot else u1.bubble s.dueSlot).tick

/-- A marked access of a hart of the focus core is performed (09_ordering.md R247). -/
def State.performTurn (s : State) (slot : BitVec 3) (k : Nat) : State :=
  match s.focusSlot s.c.id slot with
  | none => s
  | some s1 => s1.performNth k

/-! ## The events of a visit that the table lists -/

/-- INTERRUPT_TAKE: the hart in this slot takes a qualifying interrupt at its visit (10_traps.md R273). A visit that finds the hart in the
rotation does the same; the event names that visit. -/
def State.interruptTake (s : State) (core : Nat) (slot : BitVec 3) : State :=
  let s0 := s.atCycle core
  if s0.dueSlot ≠ slot || s0.governed then s
  else match s0.focusSlot core slot with
    | none => s
    | some s1 =>
      if s1.launchEnded || s1.h.run == .swapped || s1.h.run == .memWait || s1.c.cycle < s1.h.nextIssue || s1.undrained ||
          (s1.h.deferred.isSome && s1.h.vec.pump.state ≠ 1) then s
      else match s1.interruptNow with
        | none => s
        | some t => (s1.trapBefore t true).tick

/-- INTERRUPT_TAKE (10_traps.md R273). -/
def execInterruptTake (core : Nat) (slot : BitVec 3) (s : State) : Host.Outcome State Fault Refusal := .next (s.interruptTake core slot)

/-- DEFERRED_TRAP: the hart in this slot takes its deferred trap at its visit (10_traps.md R275). -/
def State.deferredTrap (s : State) (core : Nat) (slot : BitVec 3) : State :=
  let s0 := s.atCycle core
  if s0.dueSlot ≠ slot || s0.governed then s
  else match s0.focusSlot core slot with
    | none => s
    | some s1 =>
      if s1.launchEnded || s1.h.run == .swapped || s1.h.run == .memWait || s1.c.cycle < s1.h.nextIssue || s1.h.vec.pump.state = 1 then s
      else match s1.h.deferred with
        | none => s
        | some t => (s1.takeDeferred t).tick

/-- DEFERRED_TRAP (10_traps.md R275). -/
def execDeferredTrap (core : Nat) (slot : BitVec 3) (s : State) : Host.Outcome State Fault Refusal := .next (s.deferredTrap core slot)

/-- TIMECMP_REACHED: SIP.TIMER is CYCLE ≥ TIMECMP and is computed wherever it is read, so nothing is stored; a hart that has not issued
since samples it at its next visit (10_traps.md R273). -/
def execTimecmpReached (_core : Nat) (_slot : BitVec 3) (s : State) : Host.Outcome State Fault Refusal := .next s

/-- ILLEGAL_WORD: a word that no row assigns raises ILLEGAL (12_encoding.md R319). -/
def execIllegalWord (_w : IWord) (s : State) : Host.Outcome State Fault Refusal := finish s.illegal

end Sys2Proof.Machine
end

