-- ==== Sys2Proof/Machine/Reply.lean ====
section
/-! DEFINITION. Replies at the source core, timeouts, retransmission and injection gaps
(02_fabric.md R45, R55, R56; 03_routes.md R79, R92, R95; 18_isa_fabric.md R437 to R444). -/

set_option Elab.async false

namespace Sys2Proof.Machine

/-! ## Completing a request -/

/-- The hart that waits on a request traps at its instruction (03_routes.md R95). -/
def State.trapWaiting (s : State) (core : Nat) (slot : BitVec 3) (launch : BitVec 32) (t : Trap) : State :=
  match s.findHart core slot launch with
  | none => s
  | some h => ((s.focusCore core).focusOn { h with run := .ready }).raise t

/-- A marked access was refused: the first such status stays (09_ordering.md R248). -/
def Hart.holdMarked (h : Hart) (t : Tier) (tr : Trap) : Hart :=
  { h with mstat := match h.mstat with
      | some p => some p
      | none => some ⟨t, tr⟩ }

/-- Change the hart that sent a request. -/
def State.onSender (s : State) (core : Nat) (r : Req) (f : Hart → Hart) : State :=
  match s.findHart core r.slot r.launch with
  | none => s
  | some h => s.putHart (f h)

/-- A scalar access through a route ends: refused with `st`, or done with a value for `rd`. -/
def State.endAccess (s : State) (core : Nat) (r : Req) (st : Nat) (rd : Reg) (v : Word) : State :=
  let t := refusalTrap r.pkt st
  if r.marked then
    (if st ≠ 0 then s.onSender core r fun h => h.holdMarked r.tier t
    else match s.findHart core r.slot r.launch with
      | none => s
      | some h => s.deliver h rd v)
  else if st ≠ 0 then s.trapWaiting core r.slot r.launch t
  else s.wakeWith core r.slot r.launch rd v

/-- A posted access, a strip or a collective PUT ends (10_traps.md R285). -/
def State.endPosted (s : State) (core : Nat) (r : Req) (st : Nat) : State :=
  s.onSender core r fun h =>
    let h1 := h.postLess r.tier
    if st = 0 then h1 else h1.holdStatus r.tier (refusalTrap r.pkt st)

/-- The bitmap of a multicast store of which every leaf failed (18_isa_fabric.md R444). -/
def allLeaves (p : Packet) : Word := BitVec.ofNat 64 (2 ^ p.route.leaves - 1)

/-- A service request is answered: SVCSTAT, and with OK the route in register DRT (03_routes.md R79). -/
def State.endService (s : State) (core : Nat) (r : Req) (st : Nat) (rd : Reg) (drt : BitVec 3) (d : List Byte) : State :=
  let stat := dataNat d % 256
  let i : Fin 8 := ⟨drt.toNat, drt.isLt⟩
  let s1 := if st = 0 && stat = 0 then s.onSender core r fun h => { h with rt := h.rt.set i (RouteVal.ofNat (dataNat (d.drop 16))) } else s
  s1.endAccess core r st rd (BitVec.ofNat 64 stat)

/-- A request of a core ends with a status and, where it succeeded, the reply's data. -/
def State.endReq (s : State) (core : Nat) (r : Req) (st : Nat) (d : List Byte) : State :=
  let v := dataNat d
  match r.kind with
  | .load rd size signed => s.endAccess core r st rd (extend signed size v)
  | .store => s.endAccess core r st 0 0
  | .atomic rd size => s.endAccess core r st rd (extend true size v)
  | .cas rd => s.endAccess core r st rd (BitVec.ofNat 64 v)
  | .send rd => if st = stFull then s.endAccess core r 0 rd 7 else s.endAccess core r st rd 0
  | .svc rd drt => s.endService core r st rd drt d
  | .mstore rd => s.endAccess core r 0 rd (if st = 0 then BitVec.ofNat 64 v else allLeaves r.pkt)
  | .posted => s.endPosted core r st
  | .strip => s.endPosted core r st
  | .collPut => s.endPosted core r st
  | .collSync => if st = 0 then s else s.onSender core r fun h => h.holdStatus r.tier (refusalTrap r.pkt st)
  | .collAbort => s
  | .copyPut id a n => (s.focusCore core).copyPutDone id a n st
  | .copyGet id a n => (s.focusCore core).copyGetDone id a n st d
  | .engSync id => (s.focusCore core).copySyncDone id st

/-- The outstanding request of a core with a tag; bit 15 marks retransmissions only. -/
def Core.reqOf (c : Core) (q : Nat) : Option Req := c.reqs.find? fun r => r.qtag.toNat % 2 ^ 15 == q % 2 ^ 15

/-- A request is no longer outstanding. -/
def State.dropReq (s : State) (core : Nat) (r : Req) : State :=
  s.putCore { s.core core with reqs := (s.core core).reqs.filter fun q => q.qtag != r.qtag }

/-- The k-th packet, a reply of one kind, reaches its source core; a reply to no outstanding request is discarded. -/
def State.reply (s : State) (op k : Nat) : State :=
  match s.fab.net[k]? with
  | none => s
  | some i =>
    if i.pos != .arrived || !i.reply || i.pkt.op ≠ op then s
    else
      let s1 := s.dropNet k
      match (s1.core i.pkt.score).reqOf i.pkt.qtag with
      | none => s1
      | some r => (s1.dropReq i.pkt.score r).endReq i.pkt.score r i.pkt.status i.pkt.data

/-- DATA_REPLY (02_fabric.md R45). -/
def execDataReply (k : Nat) (s : State) : Host.Outcome State Fault Refusal := .next (s.reply 0x20 k)

/-- ACK_REPLY (02_fabric.md R45). -/
def execAckReply (k : Nat) (s : State) : Host.Outcome State Fault Refusal := .next (s.reply 0x21 k)

/-- ERROR_REPLY (03_routes.md R95). -/
def execErrorReply (k : Nat) (s : State) : Host.Outcome State Fault Refusal := .next (s.reply 0x22 k)

/-- MACK_REPLY (18_isa_fabric.md R444). -/
def execMackReply (k : Nat) (s : State) : Host.Outcome State Fault Refusal := .next (s.reply 0x23 k)

/-! ## Timeouts and retransmission (02_fabric.md R45, 03_routes.md R92) -/

/-- A packet of a core still waits at its source. -/
def State.stillWaiting (s : State) (core : Nat) (r : Req) : Bool :=
  s.fab.net.any fun i => i.pos == .waiting && !i.reply && i.home == core && i.pkt.qtag % 2 ^ 15 == r.qtag.toNat % 2 ^ 15

/-- Core cycles since a request was injected. -/
def State.sinceInjected (s : State) (core : Nat) (r : Req) : Nat := ((s.core core).cycle - r.injected).toNat

/-- REQUEST_TIMEOUT: after 2^22 core cycles without a reply the request completes with UNREACH. -/
def State.requestTimeout (s : State) (core : Nat) (q : BitVec 16) : State :=
  match (s.core core).reqOf q.toNat with
  | none => s
  | some r =>
    if s.stillWaiting core r || s.sinceInjected core r < 2 ^ 22 then s else (s.dropReq core r).endReq core r stUnreach []

/-- REQUEST_TIMEOUT (02_fabric.md R45). -/
def execRequestTimeout (core : Nat) (q : BitVec 16) (s : State) : Host.Outcome State Fault Refusal := .next (s.requestTimeout core q)

/-- ATOMIC_RETRANSMIT: at 1, 2 and 3 times 2^20 cycles an atomic without a reply is sent again with QTAG[15] set. -/
def State.retransmit (s : State) (core : Nat) (q : BitVec 16) : State :=
  let s := s.focusCore core
  match s.c.reqOf q.toNat with
  | none => s
  | some r =>
    if !(r.pkt.op = 4 || r.pkt.op = 5) || 3 ≤ r.retrans || s.sinceInjected core r < (r.retrans + 1) * 2 ^ 20 then s
    else
      let p := { r.pkt with c5 := r.pkt.c5 ||| BitVec.ofNat 64 (2 ^ 47) }
      let src := coreEndpoint core
      let dst := if routeTier p.route = .pkg then routeEndpoint p.route else src.switchOf
      let up (u : Req) : Req := if u.qtag == r.qtag then { u with retrans := u.retrans + 1 } else u
      (({ s with c := { s.c with reqs := s.c.reqs.map up } } : State).putNet p false src dst core s.c.mencl)

/-- ATOMIC_RETRANSMIT (03_routes.md R92). -/
def execAtomicRetransmit (core : Nat) (q : BitVec 16) (s : State) : Host.Outcome State Fault Refusal := .next (s.retransmit core q)

/-! ## Injection gaps (02_fabric.md R56) -/

/-- G changes in a cycle; an injection in that cycle still sees the gap from before it. -/
def Gap.to (g : Gap) (new : BitVec 17) (cycle quiet : Word) (halved : Bool) : Gap :=
  { g with g := new, quietFrom := quiet, before := g.at_ cycle, changed := some cycle, halved := halved }

/-- The gap that a BACKNOTE doubles: a halving in the same cycle does not count. -/
def Gap.noted (g : Gap) (cycle : Word) : BitVec 17 := if g.changed = some cycle && g.halved then g.before else g.g

/-- Twice a gap, from 16 up to 65,536. -/
def gapTwice (g : BitVec 17) : BitVec 17 := if g = 0 then 16 else if 32768 ≤ g.toNat then 65536 else g * 2

/-- A BACKNOTE doubles the gap. -/
def Gap.grow (g : Gap) (cycle : Word) : Gap := g.to (gapTwice (g.noted cycle)) cycle cycle false

/-- 4,096 quiet cycles halve the gap; below 16 it is 0. -/
def Gap.halve (g : Gap) (cycle : Word) : Gap := g.to (if g.g.toNat < 32 then 0 else BitVec.ofNat 17 (g.g.toNat / 2)) cycle (g.quietFrom + 4096) true

/-- BACKNOTE: the notice at position k reaches the hart whose packet was marked. -/
def State.backnote (s : State) (k : Nat) : State :=
  match s.fab.net[k]? with
  | none => s
  | some i =>
    if i.pos != .arrived || !i.reply || i.pkt.op ≠ 0x30 then s
    else
      let core := i.pkt.score
      let slot : BitVec 3 := BitVec.ofNat 3 i.pkt.hslot
      let t : BitVec 3 := BitVec.ofNat 3 i.pkt.rtreg
      let s1 := s.dropNet k
      let s2 := s1.putCore ((s1.core core).count 0x0D 1)
      let h := match (s2.core core).reqOf i.pkt.qtag with
        | some r => s2.findHart core r.slot r.launch
        | none => s2.holder core slot
      match h with
      | none => s2
      | some h => s2.putHart (h.setGap t ((h.gapOf t).grow (s2.core core).cycle))

/-- BACKNOTE (02_fabric.md R56). -/
def execBacknote (k : Nat) (s : State) : Host.Outcome State Fault Refusal := .next (s.backnote k)

/-- GAP_HALVE: the quiet counter of a route register has reached 4,096. -/
def State.gapHalve (s : State) (core : Nat) (slot rt : BitVec 3) : State :=
  match s.holder core slot with
  | none => s
  | some h =>
    let g := h.gapOf rt
    if g.g = 0 || ((s.core core).cycle - g.quietFrom).toNat < 4096 then s else s.putHart (h.setGap rt (g.halve (s.core core).cycle))

/-- GAP_HALVE (02_fabric.md R56). -/
def execGapHalve (core : Nat) (slot rt : BitVec 3) (s : State) : Host.Outcome State Fault Refusal := .next (s.gapHalve core slot rt)

/-- A packet that waits at its source for its injection: a strip of a route register, or a collective element, which no gap holds. -/
def State.heldPacket (s : State) (core : Nat) (slot rt : BitVec 3) (i : NetItem) : Bool :=
  i.pos == .waiting && !i.reply && i.home == core && decide (i.pkt.hslot = slot.toNat) && decide (i.pkt.rtreg = rt.toNat) &&
    (match (s.core core).reqOf i.pkt.qtag with
      | none => false
      | some r => (s.core core).reqs.all (fun q => !(q.kind == .posted && q.slot == r.slot && q.launch == r.launch && decide (q.injected ≤ r.injected))) &&
          s.replyRoom core &&
          (r.kind != .strip || (match s.findHart core r.slot r.launch with
            | none => true
            | some h => (h.gapOf rt).passed (s.core core).cycle)))

/-- INJECTION_GAP_PASSED: the first held packet of the route register that may go is injected now. -/
def State.gapPassed (s : State) (core : Nat) (slot rt : BitVec 3) : State :=
  match s.fab.net.findIdx? (s.heldPacket core slot rt) with
  | none => s
  | some k => match s.fab.net[k]? with
    | none => s
    | some i => match (s.core core).reqOf i.pkt.qtag with
      | none => s
      | some r =>
        let s1 := (s.focusCore core).setNet k { i with pos := .inject, ptag := freePtag s.fab.net i.src 256 0 }
        let up (u : Req) : Req := if u.qtag == r.qtag then { u with injected := s1.c.cycle } else u
        let s2 := { s1 with c := { s1.c with reqs := s1.c.reqs.map up } }
        if r.kind == .strip then s2.chargeGap r.slot r.launch rt else s2

/-- INJECTION_GAP_PASSED (02_fabric.md R56, 16_isa_tile.md R414). -/
def execInjectionGapPassed (core : Nat) (slot rt : BitVec 3) (s : State) : Host.Outcome State Fault Refusal := .next (s.gapPassed core slot rt)

end Sys2Proof.Machine
end

