-- ==== Sys2Proof/Machine/ScalarFp.lean ====
section
/-! DEFINITION. Scalar floating point (13_isa_scalar.md R338 to R341). -/

set_option Elab.async false

namespace Sys2Proof.Machine

/-- A rounded binary operation of the format. -/
def fpsBin (op : Nat → Rnd → Nat → Nat → Nat → Nat × Flg) (d : Reg) (f : BitVec 2) (a b : Reg) (s : State) : State :=
  s.fpsRounded d 7 (op (fpsTag f) s.rnd 0 (fpsOperand f (s.x a)) (fpsOperand f (s.x b)))

/-- Cycle of FDIV and FSQRT results: t + 39 on F64, t + 23 otherwise (07_core.md R174). -/
def fpsSlow (f : BitVec 2) : Nat := if f = 1 then 39 else 23

/-- FADD (13_isa_scalar.md R339). -/
def execFadd (d : Reg) (f : BitVec 2) (a b : Reg) (s : State) : Host.Outcome State Fault Refusal :=
  finish (.ok (fpsBin fAdd d f a b s))

/-- FSUB (13_isa_scalar.md R339). -/
def execFsub (d : Reg) (f : BitVec 2) (a b : Reg) (s : State) : Host.Outcome State Fault Refusal :=
  finish (.ok (fpsBin fSub d f a b s))

/-- FMUL (13_isa_scalar.md R339). -/
def execFmul (d : Reg) (f : BitVec 2) (a b : Reg) (s : State) : Host.Outcome State Fault Refusal :=
  finish (.ok (fpsBin fMul d f a b s))

/-- FDIV (13_isa_scalar.md R339). -/
def execFdiv (d : Reg) (f : BitVec 2) (a b : Reg) (s : State) : Host.Outcome State Fault Refusal :=
  finish (.ok ((s.fpsRounded d (fpsSlow f) (fDiv (fpsTag f) s.rnd 0 (fpsOperand f (s.x a)) (fpsOperand f (s.x b)))).busyFor (fpsSlow f + 1)))

/-- FSQRT (13_isa_scalar.md R339). -/
def execFsqrt (d : Reg) (f : BitVec 2) (a : Reg) (s : State) : Host.Outcome State Fault Refusal :=
  finish (.ok ((s.fpsRounded d (fpsSlow f) (fSqrt (fpsTag f) s.rnd 0 (fpsOperand f (s.x a)))).busyFor (fpsSlow f + 1)))

/-- FMIN (13_isa_scalar.md R339, 11_arithmetic.md R294). -/
def execFmin (d : Reg) (f : BitVec 2) (a b : Reg) (s : State) : Host.Outcome State Fault Refusal :=
  finish (.ok (s.fpsExact d (fMinMax (fpsTag f) false (fpsOperand f (s.x a)) (fpsOperand f (s.x b)))))

/-- FMAX (13_isa_scalar.md R339, 11_arithmetic.md R294). -/
def execFmax (d : Reg) (f : BitVec 2) (a b : Reg) (s : State) : Host.Outcome State Fault Refusal :=
  finish (.ok (s.fpsExact d (fMinMax (fpsTag f) true (fpsOperand f (s.x a)) (fpsOperand f (s.x b)))))

/-- FMAC: d + a x b with one rounding (13_isa_scalar.md R339). -/
def execFmac (d : Reg) (f : BitVec 2) (a b : Reg) (s : State) : Host.Outcome State Fault Refusal :=
  finish (.ok (s.fpsRounded d 7 (fFma (fpsTag f) s.rnd 0 false (fpsOperand f (s.x a)) (fpsOperand f (s.x b)) (fpsOperand f (s.x d)))))

/-- FEQ (13_isa_scalar.md R339). -/
def execFeq (d : Reg) (f : BitVec 2) (a b : Reg) (s : State) : Host.Outcome State Fault Refusal :=
  finish (.ok (s.fpsExact d (fpsCompare (fpsTag f) true (fun c => c == 0) (fpsOperand f (s.x a)) (fpsOperand f (s.x b)))))

/-- FLT (13_isa_scalar.md R339). -/
def execFlt (d : Reg) (f : BitVec 2) (a b : Reg) (s : State) : Host.Outcome State Fault Refusal :=
  finish (.ok (s.fpsExact d (fpsCompare (fpsTag f) false (fun c => c == -1) (fpsOperand f (s.x a)) (fpsOperand f (s.x b)))))

/-- FLE (13_isa_scalar.md R339). -/
def execFle (d : Reg) (f : BitVec 2) (a b : Reg) (s : State) : Host.Outcome State Fault Refusal :=
  finish (.ok (s.fpsExact d (fpsCompare (fpsTag f) false (fun c => c != 1) (fpsOperand f (s.x a)) (fpsOperand f (s.x b)))))

/-- FCLASS (13_isa_scalar.md R341). -/
def execFclass (d : Reg) (f : BitVec 2) (a : Reg) (s : State) : Host.Outcome State Fault Refusal :=
  finish (.ok (s.setX d (BitVec.ofNat 64 (2 ^ fpsClass (fpsTag f) (fpsOperand f (s.x a))))))

/-- The bits of `a` with another sign (13_isa_scalar.md R339). -/
def fpsSign (f : BitVec 2) (a : Nat) (neg : Bool) : Word :=
  let h := 2 ^ (tagWidth (fpsTag f) - 1)
  BitVec.ofNat 64 (a % h + if neg then h else 0)

/-- The sign bit of an operand. -/
def fpsNeg (f : BitVec 2) (a : Nat) : Bool := decide (2 ^ (tagWidth (fpsTag f) - 1) ≤ a)

/-- FSGNJ (13_isa_scalar.md R339). -/
def execFsgnj (d : Reg) (f : BitVec 2) (a b : Reg) (s : State) : Host.Outcome State Fault Refusal :=
  finish (.ok (s.setX d (fpsSign f (fpsOperand f (s.x a)) (fpsNeg f (fpsOperand f (s.x b))))))

/-- FSGNJN (13_isa_scalar.md R339). -/
def execFsgnjn (d : Reg) (f : BitVec 2) (a b : Reg) (s : State) : Host.Outcome State Fault Refusal :=
  finish (.ok (s.setX d (fpsSign f (fpsOperand f (s.x a)) (!fpsNeg f (fpsOperand f (s.x b))))))

/-- FSGNJX (13_isa_scalar.md R339). -/
def execFsgnjx (d : Reg) (f : BitVec 2) (a b : Reg) (s : State) : Host.Outcome State Fault Refusal :=
  finish (.ok (s.setX d (fpsSign f (fpsOperand f (s.x a)) (fpsNeg f (fpsOperand f (s.x a)) != fpsNeg f (fpsOperand f (s.x b))))))

/-- The integer that a conversion selector reads from a register (13_isa_scalar.md R340). -/
def fcvtSource (sel : Nat) (v : Word) : Int :=
  match sel with
  | 0 => v.toInt
  | 1 => (v.toNat : Int)
  | 2 => sextNat 32 v.toNat
  | _ => ((v.toNat % 2 ^ 32 : Nat) : Int)

/-- FCVTIF; a selector of 4 to 31 raises ILLEGAL (13_isa_scalar.md R339, R340). -/
def execFcvtif (d : Reg) (f : BitVec 2) (a sel : Reg) (s : State) : Host.Outcome State Fault Refusal :=
  if 4 ≤ sel.toNat then finish s.illegal
  else finish (.ok (s.fpsRounded d 7 (fRound (fpsTag f) s.rnd 0 (.ofInt (fcvtSource sel.toNat (s.x a))))))

/-- FCVTFI; a selector of 4 to 31 raises ILLEGAL (13_isa_scalar.md R339, R340). -/
def execFcvtfi (d : Reg) (f : BitVec 2) (a sel : Reg) (s : State) : Host.Outcome State Fault Refusal :=
  if 4 ≤ sel.toNat then finish s.illegal
  else
    let b := fpsOperand f (s.x a)
    let w := if sel.toNat < 2 then 64 else 32
    let z := fToInt (sel.toNat % 2 = 0) w s.rnd 0 (fDecode (fpsTag f) b)
    let v : Word := if sel.toNat = 2 then BitVec.ofInt 64 (sextNat 32 z.1) else BitVec.ofNat 64 z.1
    finish (.ok (((s.setX d v).accrue (z.2 ||| fSnanFlag (fpsTag f) b)).countSr))

/-- FCVTFF; a source format of 4 to 31, or the format itself, raises ILLEGAL (13_isa_scalar.md R339, R340). -/
def execFcvtff (d : Reg) (f : BitVec 2) (a sel : Reg) (s : State) : Host.Outcome State Fault Refusal :=
  if 4 ≤ sel.toNat || sel.toNat = f.toNat then finish s.illegal
  else
    let src : BitVec 2 := BitVec.ofNat 2 sel.toNat
    finish (.ok (s.fpsRounded d 7 (convTag (fpsTag src) (fpsTag f) s.rnd 0 (fpsOperand src (s.x a)))))

end Sys2Proof.Machine
end

