-- ==== Sys2Proof/Machine/ScalarMem.lean ====
section
/-! DEFINITION. Plain loads and stores (13_isa_scalar.md R334, R335). -/

set_option Elab.async false

namespace Sys2Proof.Machine

/-- LB (13_isa_scalar.md R334). -/
def execLb (d a : Reg) (i : BitVec 12) (s : State) : Host.Outcome State Fault Refusal :=
  finish (s.scalarAccess (.load 1 true) (s.x a + imm12 i) 0 d)

/-- LH (13_isa_scalar.md R334). -/
def execLh (d a : Reg) (i : BitVec 12) (s : State) : Host.Outcome State Fault Refusal :=
  finish (s.scalarAccess (.load 2 true) (s.x a + imm12 i) 0 d)

/-- LW (13_isa_scalar.md R334). -/
def execLw (d a : Reg) (i : BitVec 12) (s : State) : Host.Outcome State Fault Refusal :=
  finish (s.scalarAccess (.load 4 true) (s.x a + imm12 i) 0 d)

/-- LD (13_isa_scalar.md R334). -/
def execLd (d a : Reg) (i : BitVec 12) (s : State) : Host.Outcome State Fault Refusal :=
  finish (s.scalarAccess (.load 8 true) (s.x a + imm12 i) 0 d)

/-- LBU (13_isa_scalar.md R334). -/
def execLbu (d a : Reg) (i : BitVec 12) (s : State) : Host.Outcome State Fault Refusal :=
  finish (s.scalarAccess (.load 1 false) (s.x a + imm12 i) 0 d)

/-- LHU (13_isa_scalar.md R334). -/
def execLhu (d a : Reg) (i : BitVec 12) (s : State) : Host.Outcome State Fault Refusal :=
  finish (s.scalarAccess (.load 2 false) (s.x a + imm12 i) 0 d)

/-- LWU (13_isa_scalar.md R334). -/
def execLwu (d a : Reg) (i : BitVec 12) (s : State) : Host.Outcome State Fault Refusal :=
  finish (s.scalarAccess (.load 4 false) (s.x a + imm12 i) 0 d)

/-- SB (13_isa_scalar.md R334). -/
def execSb (a b : Reg) (i : BitVec 12) (s : State) : Host.Outcome State Fault Refusal :=
  finish (s.scalarAccess (.store 1) (s.x a + imm12 i) (s.x b) 0)

/-- SH (13_isa_scalar.md R334). -/
def execSh (a b : Reg) (i : BitVec 12) (s : State) : Host.Outcome State Fault Refusal :=
  finish (s.scalarAccess (.store 2) (s.x a + imm12 i) (s.x b) 0)

/-- SW (13_isa_scalar.md R334). -/
def execSw (a b : Reg) (i : BitVec 12) (s : State) : Host.Outcome State Fault Refusal :=
  finish (s.scalarAccess (.store 4) (s.x a + imm12 i) (s.x b) 0)

/-- SD (13_isa_scalar.md R334). -/
def execSd (a b : Reg) (i : BitVec 12) (s : State) : Host.Outcome State Fault Refusal :=
  finish (s.scalarAccess (.store 8) (s.x a + imm12 i) (s.x b) 0)

end Sys2Proof.Machine
end

