-- ==== Sys2Proof/Machine/Sketch.lean ====
section
/-! DEFINITION. Summary sketches and the Weir unit (17_isa_summaries.md R415 to R434). -/

set_option Elab.async false

namespace Sys2Proof.Machine

/-! ## Sketch words in scratchpad -/

/-- Read `n` bytes of scratchpad; none when a word is poisoned. -/
def Mem.rd (m : Mem) (key n : Nat) : Option Nat := if m.wordsClean key n then some (cellsNat m.spad key n) else none

/-- Write `n` bytes of scratchpad; none when a poisoned word would be written in part. -/
def Mem.wr (m : Mem) (key n v : Nat) : Option Mem := if m.partialClean key n then some (m.putSpad key n v) else none

/-- Bytes of a sketch of kind 1 D, 2 H or 3 Q (17_isa_summaries.md R415). -/
def sketchSize (kind : Nat) : Nat := if kind = 1 then 4160 else if kind = 2 then 6208 else 24832

/-- Bytes of the header of a kind. -/
def sketchHeader (kind : Nat) : Nat := if kind = 3 then 256 else 64

/-- The tags allowed for a kind (17_isa_summaries.md R418). -/
def sketchTagOk (kind : Nat) (t : BitVec 5) : Bool := if kind = 3 then quantTag t else sketchTag t

/-- A header as a number is valid for its kind; its TAG. -/
def headerTag (kind h : Nat) : Option Nat :=
  let f (o n : Nat) : Nat := h / 2 ^ (8 * o) % 2 ^ (8 * n)
  let t := f 1 1
  let common := f 0 1 = kind && f 2 1 = 1 && f 4 4 = 0 && t < 32 && sketchTagOk kind (BitVec.ofNat 5 t)
  let own := match kind with
    | 1 => f 3 1 = 0 && f 16 48 = 0
    | 2 => f 3 1 = 0 && f 18 46 = 0 && f 16 2 ≤ 256
    | _ => f 3 1 < 2 && f 128 128 = 0 && (List.range 24).all fun l => f (32 + 2 * l) 2 ≤ 255
  if common && own then some t else none

/-- The header check of R416: the TAG, or the cause code that is raised. -/
def Mem.sketchCheck (m : Mem) (kind key : Nat) : Except Byte Nat :=
  match m.rd key (sketchHeader kind) with
  | none => .error causePoison
  | some h => match headerTag kind h with
    | none => .error causeSketch
    | some t => .ok t

/-! ## D-sketch (17_isa_summaries.md R419, R420) -/

/-- Register and rank of an element. -/
def dPlace (x : Nat) : Nat × Nat :=
  let h := (h64 (BitVec.ofNat 64 x)).toNat
  (h / 2 ^ 52, 52 - bitLen (h % 2 ^ 52) + 1)

/-- Add one element. -/
def Mem.dAdd (key x : Nat) (m : Mem) : Option Mem :=
  let (j, r) := dPlace x
  match m.rd (key + 64 + j) 1, m.rd (key + 8) 8 with
  | some old, some n => (m.wr (key + 64 + j) 1 (max old r)).bind fun m => m.wr (key + 8) 8 ((n + 1) % 2 ^ 64)
  | _, _ => none

/-- Merge one register. -/
def Mem.dMergeReg (dst src j : Nat) (m : Mem) : Option Mem :=
  match m.rd (dst + 64 + j) 1, m.rd (src + 64 + j) 1 with
  | some a, some b => m.wr (dst + 64 + j) 1 (max a b)
  | _, _ => none

/-- Add a counter of the source to the destination's, modulo 2^64. -/
def Mem.addField (dst src o : Nat) (m : Mem) : Option Mem :=
  match m.rd (dst + o) 8, m.rd (src + o) 8 with
  | some a, some b => m.wr (dst + o) 8 ((a + b) % 2 ^ 64)
  | _, _ => none

/-- The estimate of SKDCNT from the registers (17_isa_summaries.md R420). -/
def dEstimate (regs : List Nat) : Nat :=
  let alpha := (fRound tF64 rne 0 (FVal.div (.num false (7213 * 4096) 0 false) (.num false 40970790 0 false)).1).1
  let a := (FVal.mul (fDecode tF64 alpha) (.num false (2 ^ 24) 0 false)).1
  let sum := (fRound tF64 rne 0 (.num false (regs.foldl (fun z r => z + 2 ^ (255 - r)) 0) (-255) false)).1
  let e := (fRound tF64 rne 0 (FVal.div a (fDecode tF64 sum)).1).1
  let v := (regs.filter (· == 0)).length
  let small := (fDecode tF64 e).cmp (.num false 10240 0 false) ≤ 0 && decide (0 < v)
  let k := Nat.log2 (4096 / v)
  let ln := k * fxLn2 + fxLn (fxOne * 4096 / (v * 2 ^ k))
  let e' := if small then (if ln = 0 then .num false 0 0 false else fDecode tF64 (fRound tF64 rne 0 (fxVal false (4096 * ln))).1) else fDecode tF64 e
  (fToInt false 64 ⟨4, 0⟩ 0 e').1

/-! ## H-sketch (17_isa_summaries.md R421 to R423) -/

/-- An entry: KEY, CNT, ERR. -/
abbrev HEntry := Nat × Nat × Nat

/-- Occupied entries from index `k` on. -/
def Mem.hEntries (m : Mem) (key : Nat) : Nat → Nat → Option (List HEntry)
  | 0, _ => some []
  | n + 1, k =>
    match m.rd (key + 64 + 24 * k) 24, m.hEntries key n (k + 1) with
    | some v, some r => some ((v % 2 ^ 64, v / 2 ^ 64 % 2 ^ 64, v / 2 ^ 128 % 2 ^ 32) :: r)
    | _, _ => none

/-- The occupied entries of a sketch. -/
def Mem.hAll (m : Mem) (key : Nat) : Option (List HEntry) := (m.rd (key + 16) 2).bind fun n => m.hEntries key (min n 256) 0

/-- Write an entry. -/
def Mem.hPut (key k : Nat) (e : HEntry) (m : Mem) : Option Mem := m.wr (key + 64 + 24 * k) 24 (e.1 + 2 ^ 64 * e.2.1 + 2 ^ 128 * e.2.2)

/-- A sum that saturates at `w` bits. -/
def satAdd (w a b : Nat) : Nat := min (a + b) (2 ^ w - 1)

/-- Lowest index of the least CNT. -/
def hLeast : List HEntry → Nat → Nat × Nat → Nat × Nat
  | [], _, best => best
  | e :: r, k, best => hLeast r (k + 1) (if e.2.1 < best.2 then (k, e.2.1) else best)

/-- Apply one element with a weight. -/
def Mem.hAdd (key x w : Nat) (m : Mem) : Option Mem :=
  if w = 0 then some m
  else match m.hAll key, m.rd (key + 8) 8 with
    | some es, some n =>
      (m.wr (key + 8) 8 ((n + w) % 2 ^ 64)).bind fun m =>
        match es.findIdx? (·.1 == x) with
        | some k =>
          let e := es.getD k (0, 0, 0)
          m.hPut key k (x, satAdd 64 e.2.1 w, e.2.2)
        | none =>
          if es.length < 256 then (m.hPut key es.length (x, min w (2 ^ 64 - 1), 0)).bind fun m => m.wr (key + 16) 2 (es.length + 1)
          else
            let (k, mn) := hLeast es 0 (0, 2 ^ 64)
            m.hPut key k (x, satAdd 64 mn w, min mn (2 ^ 32 - 1))
    | _, _ => none

/-- The order of the ranked view: CNT descending, then KEY ascending. -/
def hBefore (a b : HEntry) : Bool := decide (b.2.1 < a.2.1) || (a.2.1 == b.2.1 && decide (a.1 ≤ b.1))

/-- Insert into a sorted list. -/
def insertBy {α : Type} (le : α → α → Bool) (x : α) : List α → List α
  | [] => [x]
  | y :: r => if le x y then x :: y :: r else y :: insertBy le x r

/-- Sort a list. -/
def sortBy {α : Type} (le : α → α → Bool) (l : List α) : List α := l.foldr (insertBy le) []

/-- Merge the entries of two sketches. -/
def hMerge (d s : List HEntry) : List HEntry :=
  let both := d.map fun e => match s.find? (·.1 == e.1) with
    | some f => (e.1, satAdd 64 e.2.1 f.2.1, satAdd 32 e.2.2 f.2.2)
    | none => e
  (sortBy hBefore (both ++ s.filter fun f => !(d.any (·.1 == f.1)))).take 256

/-- Write the entries from index `k` on, and zero above them. -/
def Mem.hWrite (key : Nat) : Nat → Nat → List HEntry → Mem → Option Mem
  | 0, _, _, m => some m
  | n + 1, k, es, m => (m.hPut key k (es.headD (0, 0, 0))).bind (Mem.hWrite key n (k + 1) es.tail)

/-- Merge a whole H-sketch. -/
def Mem.hMergeAll (dst src : Nat) (m : Mem) : Option Mem :=
  match m.hAll dst, m.hAll src with
  | some d, some s =>
    let es := hMerge d s
    (m.hWrite dst 256 0 es).bind fun m => (m.wr (dst + 16) 2 es.length).bind (Mem.addField dst src 8)
  | _, _ => none

/-! ## Q-sketch (17_isa_summaries.md R424 to R427) -/

/-- Items of a level from index `j` on. -/
def Mem.qItems (m : Mem) (key l : Nat) : Nat → Nat → Option (List Nat)
  | 0, _ => some []
  | n + 1, j =>
    match m.rd (key + 256 + 1024 * l + 4 * j) 4, m.qItems key l n (j + 1) with
    | some v, some r => some (v :: r)
    | _, _ => none

/-- The items a level holds. -/
def Mem.qLevel (m : Mem) (key l : Nat) : Option (List Nat) := (m.rd (key + 32 + 2 * l) 2).bind fun n => m.qItems key l (min n 255) 0

/-- Insert(h, c) with `n` levels above `h` (17_isa_summaries.md R425). -/
def Mem.qInsert (key : Nat) : Nat → Nat → Nat → Mem → Option Mem
  | n, h, c, m =>
    match m.rd (key + 32 + 2 * h) 2 with
    | none => none
    | some cnt =>
      match m.wr (key + 256 + 1024 * h + 4 * cnt) 4 c with
      | none => none
      | some m1 =>
        if cnt + 1 < 256 then m1.wr (key + 32 + 2 * h) 2 (cnt + 1)
        else match m1.qItems key h 256 0, m1.rd (key + 16) 8, m1.rd (key + 80 + 2 * h) 2 with
          | some items, some seed, some cc =>
            let l := sortBy (fun a b => decide (a ≤ b)) items
            let b := if coin (BitVec.ofNat 64 seed) h cc then 1 else 0
            let cleared := ((m1.wr (key + 256 + 1024 * h) 1024 0).bind (Mem.wr · (key + 32 + 2 * h) 2 0)).bind
              (Mem.wr · (key + 80 + 2 * h) 2 ((cc + 1) % 2 ^ 16))
            match n with
            | 0 => cleared.bind fun m => (m.rd (key + 3) 1).bind fun f => m.wr (key + 3) 1 (f ||| 1)
            | n' + 1 => (List.range 128).foldl (fun m k => m.bind (Mem.qInsert key n' (h + 1) (l.getD (b + 2 * k) 0))) cleared
          | _, _, _ => none

/-- A NaN of F32 or BF16. -/
def qNan (t x : Nat) : Bool := (t == tF32 || t == tBF16) && (fDecode t x).isNan

/-- Add one element of tag `t`. -/
def Mem.qAdd (key t x : Nat) (m : Mem) : Option Mem :=
  let o := if qNan t x then 24 else 8
  match m.rd (key + o) 8 with
  | none => none
  | some n => (m.wr (key + o) 8 ((n + 1) % 2 ^ 64)).bind fun m => if qNan t x then some m else m.qInsert key 23 0 (orderCode t x)

/-- All items with their weights. -/
def Mem.qAllItems (m : Mem) (key : Nat) : Nat → Nat → Option (List (Nat × Nat))
  | 0, _ => some []
  | n + 1, l =>
    match m.qLevel key l, m.qAllItems key n (l + 1) with
    | some xs, some r => some (xs.map (fun c => (c, 2 ^ l)) ++ r)
    | _, _ => none

/-- The items of a sketch, sorted by code. -/
def Mem.qSorted (m : Mem) (key : Nat) : Option (List (Nat × Nat)) :=
  (m.qAllItems key 24 0).map (sortBy fun a b => decide (a.1 ≤ b.1))

/-- First item whose cumulative weight reaches `num / 2^den`. -/
def qFirst (num den : Nat) : Nat → List (Nat × Nat) → Nat
  | _, [] => 0
  | _, [(c, _)] => c
  | acc, (c, w) :: r => if num ≤ (acc + w) * 2 ^ den then c else qFirst num den (acc + w) r

/-- φ as a fraction from 0 to 1: numerator and power of two below it. -/
def qFraction (phi : Nat) : Nat × Nat :=
  match fDecode tF32 phi with
  | .nan => (0, 0)
  | .inf neg => (if neg then 0 else 1, 0)
  | .num neg m e _ =>
    if neg then (0, 0)
    else if 0 ≤ e then (if m = 0 then 0 else 1, 0)
    else if 2 ^ (-e).toNat ≤ m then (1, 0) else (m, (-e).toNat)

/-- The quantile of a fraction as an order code; none for an empty sketch. -/
def qQuantile (items : List (Nat × Nat)) (phi : Nat) : Option Nat :=
  let w := items.foldl (fun a x => a + x.2) 0
  if w = 0 then none else (let (n, d) := qFraction phi; some (qFirst (n * w) d 0 items))

/-- The value of an order code in a tag (17_isa_summaries.md R427). -/
def orderDecode (t c : Nat) : Nat :=
  let f := if 2 ^ 31 ≤ c then c - 2 ^ 31 else 2 ^ 32 - 1 - c
  if t = tN32 then c else if t = tS32 then c ^^^ 2 ^ 31 else if t = tBF16 then f / 2 ^ 16 else f

/-! ## Operations at the Weir (17_isa_summaries.md R416) -/

/-- Apply steps until one finds poison; whether all were applied. -/
def runSteps : List (Mem → Option Mem) → Mem → Mem × Bool
  | [], m => (m, true)
  | f :: r, m => match f m with
    | none => (m, false)
    | some m' => runSteps r m'

/-- The kind of sketch that an operation works on: 1 to 3 initialise D, H, Q; 5 to 7 add to Q, H, D; 11 to 13 merge D, H, Q. -/
def WeirOp.sketchKind (o : WeirOp) : Nat :=
  match o.kind with
  | 1 => 1 | 2 => 2 | 3 => 3 | 5 => 3 | 6 => 2 | 7 => 1 | 11 => 1 | 12 => 2 | _ => 3

/-- Steps that insert the items of the source's levels from `l` on. -/
def qMergeSteps (m : Mem) (dst src : Nat) : Nat → Nat → List (Mem → Option Mem)
  | 0, _ => []
  | n + 1, l =>
    (match m.rd (src + 32 + 2 * l) 2 with
      | none => [fun _ => none]
      | some c => (List.range (min c 255)).map fun j => fun m =>
          (m.rd (src + 256 + 1024 * l + 4 * j) 4).bind fun v => m.qInsert dst (23 - l) l v) ++ qMergeSteps m dst src n (l + 1)

/-- The steps of an operation. -/
def WeirOp.steps (o : WeirOp) (m : Mem) : List (Mem → Option Mem) :=
  let k := o.sketch
  match o.kind with
  | 1 => [fun m => m.wr k 4160 (1 + o.arg % 32 * 2 ^ 8 + 2 ^ 16)]
  | 2 => [fun m => m.wr k 6208 (2 + o.arg % 32 * 2 ^ 8 + 2 ^ 16)]
  | 3 => [fun m => m.wr k 24832 (3 + o.arg % 32 * 2 ^ 8 + 2 ^ 16 + o.arg / 32 % 2 ^ 64 * 2 ^ 128)]
  | 5 => o.elems.map fun x => Mem.qAdd k o.arg x
  | 6 => (o.elems.zip o.weights).map fun x => Mem.hAdd k x.1 x.2
  | 7 => o.elems.map fun x => Mem.dAdd k x
  | 11 => (List.range 4096).map (Mem.dMergeReg k o.arg) ++ [Mem.addField k o.arg 8]
  | 12 => [Mem.hMergeAll k o.arg]
  | _ => qMergeSteps m k o.arg 24 0 ++ [Mem.addField k o.arg 8, Mem.addField k o.arg 24, fun m =>
      match m.rd (k + 3) 1, m.rd (o.arg + 3) 1 with
      | some a, some b => m.wr (k + 3) 1 (a ||| b)
      | _, _ => none]

/-- Apply an operation; one that finds poison poisons the header's first word (17_isa_summaries.md R416 item 8). -/
def WeirOp.apply (o : WeirOp) (m : Mem) : Mem :=
  let (m', ok) := runSteps (o.steps m) m
  if ok then m' else { m' with spoison := setIns m'.spoison (o.sketch / 8) }

/-- Storage as it will stand after the operations queued on a sketch. -/
def State.weirAhead (s : State) (key : Nat) : Mem :=
  ((s.core (key / spadSize)).weir.filter (·.sketch == key)).foldl (fun m o => o.apply m) s.mem

/-- Apply every operation queued on a sketch. -/
def State.weirFlush (s : State) (key : Nat) : State :=
  let c := s.core (key / spadSize)
  ({ s with mem := s.weirAhead key } : State).putCore
    { c.count 0x12 (c.weir.filter (·.sketch == key)).length with weir := c.weir.filter (·.sketch != key) }

/-- A query at a Weir unit has completed (07_core.md R208). -/
def State.queryDone (s : State) (key : Nat) : State := s.putCore ((s.core (key / spadSize)).count 0x12 1)

/-- An operation that adds elements, after the first `n` of them. -/
def WeirOp.after (o : WeirOp) (n : Nat) : WeirOp := { o with elems := o.elems.drop n, weights := o.weights.drop n }

/-- What an operation does with its first `n` elements. -/
def WeirOp.before (o : WeirOp) (n : Nat) : WeirOp := { o with elems := o.elems.take n, weights := o.weights.take n }

/-- The operation at place `k` of a Weir unit is in progress: it is the first on its sketch, among the first eight sketches that the unit works on
(07_core.md R204). -/
def Core.weirBusy (c : Core) (k : Nat) : Option WeirOp :=
  match c.weir[k]? with
  | none => none
  | some o =>
    let before := (c.weir.take k).map WeirOp.sketch
    if before.contains o.sketch || 8 ≤ before.dedup.length then none else some o

/-- The Weir unit works on the operation at place `k`: to its end, or, where the schedule says so, only through its first elements, between which plain
accesses are served (07_core.md R204, R205). -/
def State.weirWork (s : State) (core k : Nat) : State :=
  let c := s.core core
  match c.weirBusy k with
  | none => s
  | some o =>
    match s.cutNow with
    | some n =>
      if 5 ≤ o.kind && o.kind ≤ 7 && n < o.elems.length && (runSteps ((o.before n).steps s.mem) s.mem).2 then
        ({ s with mem := (o.before n).apply s.mem } : State).putCore { c with weir := c.weir.set k (o.after n) }
      else ({ s with mem := o.apply s.mem } : State).putCore { c.count 0x12 1 with weir := c.weir.eraseIdx k }
    | none => ({ s with mem := o.apply s.mem } : State).putCore { c.count 0x12 1 with weir := c.weir.eraseIdx k }

/-- Operations of the hart that are not yet applied (17_isa_summaries.md R416 item 5). -/
def State.weirMine (s : State) : Nat :=
  (s.allCores.map fun c => (c.weir.filter fun w => w.hcore == s.h.core && w.slot == s.h.slot && w.launch == s.h.launch).length).foldl (· + ·) 0

/-- Queue an operation at its Weir unit, on the sketch at an address. -/
def State.weirPush (s : State) (va : Word) (kind key arg : Nat) (elems weights : List Nat) : State :=
  let c := s.core (key / spadSize)
  s.putCore { c with weir := c.weir ++ [⟨s.h.core, s.h.slot, s.h.launch, kind, key, arg, elems, weights, s.tierOf va (.spad (key / spadSize) 0)⟩] }

/-! ## Checks of an instruction (17_isa_summaries.md R415) -/

/-- The check of `n` bytes line by line; where the first one lies. -/
def State.lines (s : State) (va : Word) (k : AccKind) : Nat → Nat → Option Trap
  | 0, _ => none
  | n + 1, i =>
    match s.checkAt (va + BitVec.ofNat 64 (64 * i)) 64 k s.h.level with
    | .error (.trap t) => some t
    | .error _ => none
    | .ok _ => s.lines va k n (i + 1)

/-- Alignment and location of a sketch address. -/
def sketchAddr (va : Word) : Option Trap :=
  if va.toNat % 64 ≠ 0 then some ⟨causeMisalign, va⟩ else if va.toNat < 0x800000000000 then some ⟨causeFeAddr, va⟩ else none

/-- The scratchpad key of a sketch whose `n` bytes are permitted. -/
def State.sketchAt (s : State) (va : Word) (n : Nat) (k : AccKind) : Except Trap Nat :=
  match sketchAddr va with
  | some t => .error t
  | none => match s.lines va k (n / 64) 0 with
    | some t => .error t
    | none => match s.checkAt va 1 k s.h.level with
      | .ok h => match h.loc with
        | .spad core off => .ok (spadKey core off)
        | .hbm _ _ => .error ⟨causeFeAddr, va⟩
      | .error _ => .error ⟨causeWindow, va⟩

/-- The part common to the sketch instructions: VSTART is 0, marked accesses are done, the sketch's range is permitted. -/
def State.sketchOp (s : State) (va : Word) (n : Nat) (k : AccKind) (f : State → Nat → Res) : Res :=
  if s.vstart ≠ 0 then s.illegal
  else s.unmarked fun s => match s.sketchAt va n k with
    | .error t => .trap t s
    | .ok key => f s key

/-! ## Initialising (17_isa_summaries.md R430) -/

/-- Another operation at the Weir unit, on another first byte, overlaps the range. -/
def State.initClash (s : State) (key n : Nat) : Bool :=
  (s.core (key / spadSize)).weir.any fun o => o.sketch != key && meets key n o.sketch (sketchSize o.sketchKind)

/-- SKINIT of a kind. -/
def State.skinit (s : State) (kind : Nat) (t : Reg) (va : Word) (seed : Nat) : Res :=
  if !sketchTagOk kind t then s.illegal
  else s.sketchOp va (sketchSize kind) .atomic fun s key =>
    if s.initClash key (sketchSize kind) then .trap ⟨causeSketch, va⟩ s
    else if 8 ≤ s.weirMine then .wait s
    else .ok (s.weirPush va kind key (t.toNat + 32 * seed) [] [])

/-- SKINIT.D (17_isa_summaries.md R430). -/
def execSkinitD (t a : Reg) (s : State) : Host.Outcome State Fault Refusal := finish (s.skinit 1 t (s.x a) 0)

/-- SKINIT.H (17_isa_summaries.md R430). -/
def execSkinitH (t a : Reg) (s : State) : Host.Outcome State Fault Refusal := finish (s.skinit 2 t (s.x a) 0)

/-- SKINIT.Q (17_isa_summaries.md R430). -/
def execSkinitQ (t a b : Reg) (s : State) : Host.Outcome State Fault Refusal := finish (s.skinit 3 t (s.x a) (s.x b).toNat)

/-! ## Adding (17_isa_summaries.md R431) -/

/-- A value or weight group breaks R363. -/
def State.skGroupBad (s : State) (o : Oper) : Bool := s.operBad o s.vtag

/-- Elements of a source; zeros for NONE. -/
def Src.elems (x : Src) (l : List Nat) : List Nat := l.map fun i => if x.tag = tNone then 0 else x.get i

/-- The adds: `op` is the Weir operation, `kind` the kind of sketch, `w` the weight group. -/
def State.skadd (s : State) (op kind : Nat) (m : Bool) (va : Word) (b : Reg) (w : Option Reg) : Res :=
  s.vecHold true fun s =>
    let o := s.oper b
    let wo := w.map s.oper
    let ws := wo.toList
    if (m && s.maskTooLong) || s.skGroupBad o || ws.any s.skGroupBad || decide (s.vstart ≠ 0) then s.illegal
    else if !s.uniform o s.vtag || !ws.all (s.uniform · s.vtag) || !(o.tag == tNone || sketchTagOk kind (BitVec.ofNat 5 o.tag)) ||
        ws.any (fun x => !(x.tag == tNone || tagUnsigned x.tag)) then .trap (s.trapWord causeTagmix) s
    else s.sketchOp va (sketchSize kind) .atomic fun s key =>
      match (s.weirAhead key).sketchCheck kind key with
      | .error c => .ok (s.defer 0 ⟨c, va⟩)
      | .ok t =>
        if o.tag ≠ tNone && o.tag ≠ t then .ok (s.defer 0 ⟨causeSketch, va⟩)
        else if 8 ≤ s.weirMine then .wait s
        else s.loadAll s.vtag (o :: ws) fun xs =>
          match (earliest (xs.map Src.bad)).filter (fun e => decide (e.1 < s.vl)) with
          | some e => .ok (s.defer 0 e.2)
          | none =>
            let act := (List.range s.vl).filter (s.active m)
            let x := (xs.getD 0 Src.zero).elems act
            let y := match w with
              | none => act.map fun _ => 1
              | some _ => (xs.getD 1 Src.zero).elems act
            .ok (((s.weirPush va op key t x y).chargeStrip (max 8 (o.width s.vtag)) 1 s.vl).vdone (o :: ws) false)

/-- SKQADD (17_isa_summaries.md R431). -/
def execSkqadd (m : BitVec 1) (a b : Reg) (s : State) : Host.Outcome State Fault Refusal := finish (s.skadd 5 3 (m = 1) (s.x a) b none)

/-- SKHADD (17_isa_summaries.md R431). -/
def execSkhadd (m : BitVec 1) (a b : Reg) (s : State) : Host.Outcome State Fault Refusal := finish (s.skadd 6 2 (m = 1) (s.x a) b none)

/-- SKHADD.W (17_isa_summaries.md R431). -/
def execSkhaddW (w : Reg) (m : BitVec 1) (a b : Reg) (s : State) : Host.Outcome State Fault Refusal :=
  finish (s.skadd 6 2 (m = 1) (s.x a) b (some w))

/-- SKDADD (17_isa_summaries.md R431). -/
def execSkdadd (m : BitVec 1) (a b : Reg) (s : State) : Host.Outcome State Fault Refusal := finish (s.skadd 7 1 (m = 1) (s.x a) b none)

/-! ## Merging (17_isa_summaries.md R432) -/

/-- The KIND that SKMERGE reads at issue. -/
def State.kindAt (s : State) (va : Word) : Except Trap Nat :=
  match s.sketchAt va 64 .load with
  | .error t => .error t
  | .ok key => match s.mem.rd key 1 with
    | none => .error ⟨causePoison, va⟩
    | some k => if k = 1 || k = 2 || k = 3 then .ok k else .error ⟨causeSketch, va⟩

/-- SKMERGE. -/
def State.skmerge (s : State) (dst src : Word) : Res :=
  if s.vstart ≠ 0 then s.illegal
  else s.unmarked fun s =>
    match s.kindAt dst, s.kindAt src with
    | .error t, _ => .trap t s
    | _, .error t => .trap t s
    | .ok kd, .ok ks =>
      match s.sketchAt dst (sketchSize kd) .atomic, s.sketchAt src (sketchSize ks) .load with
      | .error t, _ => .trap t s
      | _, .error t => .trap t s
      | .ok d, .ok k =>
        match (s.weirAhead d).sketchCheck kd d, s.mem.sketchCheck ks k with
        | .error c, _ => .trap ⟨c, dst⟩ s
        | _, .error c => .trap ⟨c, src⟩ s
        | .ok td, .ok ts =>
          if kd ≠ ks || td ≠ ts || meets d (sketchSize kd) k (sketchSize ks) then .trap ⟨causeSketch, dst⟩ s
          else if 8 ≤ s.weirMine then .wait s
          else .ok (s.weirPush dst (10 + kd) d k [] [])

/-- SKMERGE (17_isa_summaries.md R432). -/
def execSkmerge (a b : Reg) (s : State) : Host.Outcome State Fault Refusal := finish (s.skmerge (s.x a) (s.x b))

/-! ## Queries (17_isa_summaries.md R433) -/

/-- A scalar query: what is queued on the sketch is applied, the header is checked, the result is read. -/
def State.skquery (s : State) (kind : Nat) (d : Reg) (va : Word) (f : Mem → Nat → Nat → Option Word) : Res :=
  s.sketchOp va (sketchSize kind) .load fun s key =>
    let s1 := s.weirFlush key
    match s1.mem.sketchCheck kind key with
    | .error c => .trap ⟨c, va⟩ s1
    | .ok t => match f s1.mem key t with
      | none => .trap ⟨causePoison, va⟩ s1
      | some v => .ok ((s1.queryDone key).setXReply d v)

/-- SKQQ (17_isa_summaries.md R427, R433). -/
def execSkqq (d a b : Reg) (s : State) : Host.Outcome State Fault Refusal :=
  finish (s.skquery 3 d (s.x a) fun m key t => (m.qSorted key).map fun items =>
    match qQuantile items (fldN (s.x b) 0 32) with
    | none => 0
    | some c => if t = tS32 then BitVec.ofInt 64 (sextNat 32 (orderDecode t c)) else BitVec.ofNat 64 (orderDecode t c))

/-- SKHTOP (17_isa_summaries.md R423, R433). -/
def execSkhtop (d : Reg) (sel : BitVec 2) (a b : Reg) (s : State) : Host.Outcome State Fault Refusal :=
  if !topSelect sel then finish s.illegal
  else finish (s.skquery 2 d (s.x a) fun m key _ => (m.hAll key).map fun es =>
    match (sortBy hBefore es)[(s.x b).toNat]? with
    | none => 0
    | some e => BitVec.ofNat 64 (if sel = 0 then e.1 else if sel = 1 then e.2.1 else e.2.2))

/-- SKDCNT (17_isa_summaries.md R420). -/
def execSkdcnt (d a : Reg) (s : State) : Host.Outcome State Fault Refusal :=
  finish (s.skquery 1 d (s.x a) fun m key _ => (m.rd (key + 64) 4096).map fun v =>
    BitVec.ofNat 64 (dEstimate ((List.range 4096).map fun j => v / 2 ^ (8 * j) % 256)))

/-! ## Clipping and scaling by quantiles (17_isa_summaries.md R434) -/

/-- VCLIPQ's element. -/
def clipElem (t lo hi x : Nat) : Nat :=
  let l := min lo hi
  let h := max lo hi
  let c := orderCode t x
  if qNan t x then x else if c < l then orderDecode t l else if h < c then orderDecode t h else x

/-- VSCALEQ's element in the result tag `rt`. -/
def scaleElem (t rt : Nat) (r : Rnd) (lo hi i x : Nat) : Nat × Flg :=
  let v := valOf t x
  let l := valOf t (orderDecode t lo)
  let h := valOf t (orderDecode t hi)
  let (n, f1) := FVal.add 0 v l.neg
  let (d, f2) := FVal.add 0 h l.neg
  let (q, f3) := FVal.div n d
  let (z, f4) := fRound rt r i q
  (z, (if tagFloat t then fSnanFlag t x else 0) ||| f1 ||| f2 ||| f3 ||| f4)

/-- VCLIPQ and VSCALEQ. -/
def State.quantOp (s : State) (scale : Bool) (d : Reg) (m : Bool) (va fr : Word) : Res :=
  s.vecHold true fun s =>
    let g0 := (s.vreg d.toNat).tag.toNat
    let t := if g0 = tNone then s.vtag else g0
    let w := tagWidth t
    let o : Oper := ⟨d.toNat, g0, 0⟩
    if (w ≠ 0 && s.groupsIllegal m d.toNat w false [] t false) || decide (s.declared ≤ d.toNat) || decide (s.vstart ≠ 0) then s.illegal
    else if !quantTag (BitVec.ofNat 5 t) || !s.uniform o t then .trap (s.trapWord causeTagmix) s
    else match s.destStop d.toNat w with
      | some r => r
      | none => s.sketchOp va (sketchSize 3) .load fun s key =>
        let s1 := s.weirFlush key
        match s1.mem.sketchCheck 3 key with
        | .error c => .ok (s1.defer 0 ⟨c, va⟩)
        | .ok tag =>
          if tag ≠ t then .ok (s1.defer 0 ⟨causeSketch, va⟩)
          else match s1.mem.qSorted key with
            | none => .ok (s1.defer 0 ⟨causePoison, va⟩)
            | some items => match qQuantile items (fldN fr 0 32), qQuantile items (fldN fr 32 32) with
              | some lo, some hi =>
                let s2 := s1.queryDone key
                let old := s2.regBits d.toNat (s2.group w)
                let x (i : Nat) : Nat := old / 2 ^ (w * i) % 2 ^ w
                if scale then
                  let rt := if t = tBF16 then tBF16 else tF32
                  s2.writeElems m d.toNat rt [] none true 1 w fun i => scaleElem t rt s2.rnd lo hi i (x i)
                else s2.writeElems m d.toNat t [] none false 1 w fun i => (clipElem t lo hi (x i), 0)
              | _, _ => .ok (s1.defer 0 ⟨causeSketch, va⟩)

/-- VCLIPQ (17_isa_summaries.md R434). -/
def execVclipq (d : Reg) (m : BitVec 1) (a b : Reg) (s : State) : Host.Outcome State Fault Refusal :=
  finish (s.quantOp false d (m = 1) (s.x a) (s.x b))

/-- VSCALEQ (17_isa_summaries.md R434). -/
def execVscaleq (d : Reg) (m : BitVec 1) (a b : Reg) (s : State) : Host.Outcome State Fault Refusal :=
  finish (s.quantOp true d (m = 1) (s.x a) (s.x b))

end Sys2Proof.Machine
end

