-- ==== Sys2Proof/Machine/Sequencer.lean ====
section
/-! DEFINITION. What runs beside the barrel: the vector sequencer, the Pump, stream fetches, the Weir unit and the charges
(06_execution.md R149 to R153; 07_core.md R188 to R191, R195, R196, R204). -/

set_option Elab.async false

namespace Sys2Proof.Machine

/-! ## Charges (06_execution.md R151 to R153) -/

/-- CHARGE_DECAY: every charge of the core is halved (06_execution.md R151). -/
def execChargeDecay (core : Nat) (s : State) : Host.Outcome State Fault Refusal :=
  .next (s.putCore { s.core core with charge := (s.core core).charge.map (· / 2) })

/-- CHARGE_REPORT: the core reports its element-beats to the Sluice (06_execution.md R153). -/
def execChargeReport (core : Nat) (s : State) : Host.Outcome State Fault Refusal :=
  let c := s.core core
  let s1 := s.putCore { c with unreported := Vector.replicate 32 0 }
  .next { s1 with hst := { s1.hst with charge := s1.hst.charge.zipWith (· + ·) c.unreported } }

/-- SLUICE_CHARGE_DECAY: the charges that the Sluice keeps are halved (06_execution.md R153). -/
def execSluiceChargeDecay (s : State) : Host.Outcome State Fault Refusal :=
  .next { s with hst := { s.hst with charge := s.hst.charge.map (· / 2) } }

/-! ## The sequencer (06_execution.md R149) -/

/-- STRIP_END: a lane group is free, and the sequencer gives it to a ready vector thread, whose oldest queued instruction runs. -/
def State.stripEnd (s : State) (core : Nat) (group : BitVec 2) : State :=
  let s0 := s.focusCore core
  let i : Fin 4 := ⟨group.toNat, group.isLt⟩
  if s0.c.split ≤ group.toNat then s0
  else
    let rs := s0.allHarts.filter (s0.stripReady core)
    let s1 := s0.noteReady rs
    match s1.firstOf s1.c rs with
    | none => { s1 with c := { s1.c with lane := s1.c.lane.set i none } }
    | some h => (({ s1 with c := { s1.c with
        lane := s1.c.lane.set i (some h.slot)
        waits := s1.c.waits.map fun w => if w.1 = h.slot then (w.1, s1.c.cycle) else w } } : State).focusOn h).queueOne

/-- STRIP_END (06_execution.md R149). -/
def execStripEnd (core : Nat) (group : BitVec 2) (s : State) : Host.Outcome State Fault Refusal := .next (s.stripEnd core group)

/-! ## The Pump (07_core.md R188 to R191) -/

/-- PUMP_REPETITION: what is left of the repetition in progress runs. -/
def State.pumpRepetition (s : State) (core : Nat) (slot : BitVec 3) : State :=
  match s.focusSlot core slot with
  | none => s
  | some s1 =>
    if s1.h.run == .swapped || s1.h.run == .memWait || s1.h.deferred.isSome then s else s1.pumpRun 16

/-- PUMP_REPETITION (07_core.md R188). -/
def execPumpRepetition (core : Nat) (slot : BitVec 3) (s : State) : Host.Outcome State Fault Refusal := .next (s.pumpRepetition core slot)

/-! ## Memory streams (07_core.md R195, R196) -/

/-- STREAM_FETCH: up to `n` more elements of a memory stream are fetched, while its region has room. -/
def State.streamFetch (s : State) (core : Nat) (slot stream : BitVec 3) (n : Nat) : State :=
  match s.focusSlot core slot with
  | none => s
  | some s1 =>
    let r := 24 + stream.toNat
    let b := s1.h.binding r
    if b.kind ≠ 1 || s1.h.run == .swapped then s
    else
      let first := b.pos.toNat + b.ahead.length
      let m := min (min n (b.room - b.ahead.length)) (b.len.toNat - first)
      let (s2, traps) := s1.fetchMany stream.toNat b ((List.range m).map (first + ·))
      { s2 with h := s2.h.setBinding r { b with ahead := b.ahead ++ traps } }

/-- STREAM_FETCH (07_core.md R196). -/
def execStreamFetch (core : Nat) (slot stream : BitVec 3) (n : Nat) (s : State) : Host.Outcome State Fault Refusal :=
  .next (s.streamFetch core slot stream n)

/-! ## The Weir unit (07_core.md R204) -/

/-- WEIR_APPLY: the Weir unit of a core carries out an operation that is in progress, the `k`-th of those queued there. -/
def execWeirApply (place : WeirPlace) (s : State) : Host.Outcome State Fault Refusal := .next (s.weirWork place.core place.k)

end Sys2Proof.Machine
end

