-- ==== Sys2Proof/Machine/Siphon.lean ====
section
/-! DEFINITION. The Siphon: fault service, the free-frame pool, supervisor commands, drives (04_storage.md). -/

set_option Elab.async false

namespace Sys2Proof.Machine

/-! ## Messages (04_storage.md R110) -/

/-- SSTAT codes: 0 OK, 1 BADREQ, 2 NOSLOT, 3 DRIVE, 4 TIMEOUT, 5 POISON, 6 RANGE, 7 NOTPRESENT, 8 NODRIVE, 9 FRAME. -/
abbrev Sstat := Byte

/-- A Siphon message: KIND, SSTAT, NVST, CTAG or size class, ARG. -/
def siphonMsg (kind : Nat) (st : Sstat) (nv : BitVec 16) (tag : Nat) (arg : Word) : Msg :=
  BitVec.ofNat 128 (kind + st.toNat * 2 ^ 8 + nv.toNat * 2 ^ 16 + tag % 2 ^ 32 * 2 ^ 32 + arg.toNat * 2 ^ 64)

/-- The registered pool of an enclave. -/
def State.pool? (s : State) (encl : Byte) : Option Pool := s.sip.pools.find? (·.encl == encl)

/-- Write the pool of an enclave back. -/
def State.putPool (s : State) (p : Pool) : State := { s with sip := { s.sip with pools := s.sip.pools.map fun q => if q.encl == p.encl then p else q } }

/-- A notice to the pool hart of an enclave. -/
def State.notice (s : State) (encl : Byte) (kind : Nat) (st : Sstat) (nv : BitVec 16) (cls : Nat) (arg : Word) : State :=
  match s.pool? encl with
  | none => s
  | some p => s.mailLocal p.hcore p.hslot p.hlaunch (siphonMsg kind st nv cls arg)

/-! ## Waking a hart whose pages are served (04_storage.md R103 step 8) -/

/-- One page that a swapped hart waits for is done. -/
def Hart.pageDone (page : Nat) (failed : Bool) (h : Hart) : Hart :=
  { h with svcWait := h.svcWait.filter (· != page), svcFailed := if failed then page :: h.svcFailed else h.svcFailed }

/-- Tell the harts that wait for a page: one that waits for no other and is seated is restored and ready; one whose launch is not seated is restored
when the launch is. -/
def State.pageDone (s : State) (f : FaultRec) (failed : Bool) : State :=
  f.waiters.foldl (fun s w => match s.findHart w.1 w.2.1 w.2.2 with
    | none => s
    | some h =>
      let h1 := h.pageDone f.va failed
      if h1.svcWait.isEmpty && h1.seated && h1.run == .swapped then s.restoreHart h1 else s.putHart h1) s

/-! ## Commands and their completion -/

/-- The command with this number. -/
def State.sqCmd (s : State) (id : Nat) : Option SqCmd := s.sip.sq.find? (·.id == id)

/-- Write a command back. -/
def State.putSq (s : State) (q : SqCmd) : State := { s with sip := { s.sip with sq := s.sip.sq.map fun r => if r.id == q.id then q else r } }

/-- The record of a command as a number, byte 0 lowest. -/
def SqCmd.bits (q : SqCmd) : Nat := q.rec_.foldr (fun b n => b.toNat + 256 * n) 0
/-- OP. -/
def SqCmd.op (q : SqCmd) : Nat := q.bits % 256
/-- FLG. -/
def SqCmd.flg (q : SqCmd) : Nat := q.bits / 2 ^ 8 % 256
/-- LOC. -/
def SqCmd.loc (q : SqCmd) : Nat := q.bits / 2 ^ 16 % 2 ^ 16
/-- The drive of LOC. -/
def SqCmd.drive (q : SqCmd) : BitVec 2 := BitVec.ofNat 2 q.loc
/-- The slot index of LOC. -/
def SqCmd.slotIdx (q : SqCmd) : BitVec 6 := BitVec.ofNat 6 (q.loc / 4)
/-- CTAG. -/
def SqCmd.ctag (q : SqCmd) : Nat := q.bits / 2 ^ 32 % 2 ^ 32
/-- VA; BASE of SLOTSET. -/
def SqCmd.va (q : SqCmd) : Nat := q.bits / 2 ^ 64 % 2 ^ 64
/-- COUNT. -/
def SqCmd.count (q : SqCmd) : Nat := q.bits / 2 ^ 128 % 2 ^ 32
/-- BLK; NSID of SLOTSET. -/
def SqCmd.blk (q : SqCmd) : Nat := q.bits / 2 ^ 160 % 2 ^ 32
/-- NBLK of SLOTSET; 0 encodes 2^28. -/
def SqCmd.nblk (q : SqCmd) : Nat := if q.count = 0 then 2 ^ 28 else q.count

/-- A command completes: exactly one COMPLETE to the pusher (04_storage.md R109). -/
def State.complete (s : State) (q : SqCmd) (st : Sstat) (nv : BitVec 16) (arg : Word) : State :=
  ({ s with sip := { s.sip with sq := s.sip.sq.filter (·.id != q.id) } } : State).mailLocal q.core q.slot q.launch
    (siphonMsg 1 st nv q.ctag arg)

/-- A PREFETCH command sees one of its pages done. The first failure in range order is kept with its address (04_storage.md R109). -/
def State.prefetchPage (s : State) (id va : Nat) (fail : Option (Sstat × BitVec 16)) (installed : Bool) : State :=
  match s.sqCmd id with
  | none => s
  | some q =>
    let f := match fail, q.fail with
      | none, g => g
      | some (st, nv), none => some (st, nv, BitVec.ofNat 64 va)
      | some (st, nv), some g => if va < g.2.2.toNat then some (st, nv, BitVec.ofNat 64 va) else some g
    let q1 := { q with pagesLeft := q.pagesLeft - 1, installed := q.installed + (if installed then 1 else 0), fail := f }
    if q1.pagesLeft ≠ 0 then s.putSq q1
    else match f with
      | none => s.complete q1 0 0 (BitVec.ofNat 64 q1.installed)
      | some g => s.complete q1 g.1 g.2.1 (BitVec.ofNat 64 q1.installed)

/-- A fault service ends: those that wait for the page go on. -/
def State.serviceEnd (s : State) (f : FaultRec) (fail : Option (Sstat × BitVec 16)) (installed : Bool) : State :=
  f.cmds.foldl (fun s id => s.prefetchPage id f.va fail installed) (s.pageDone f fail.isSome)

/-- A fault is not serviceable: DRIVEERR to the pool hart, unless only a PREFETCH asked (04_storage.md R106, R109). -/
def State.serviceFail (s : State) (f : FaultRec) (st : Sstat) (nv : BitVec 16) (cls lba : Nat) : State :=
  let s1 := if f.waiters.isEmpty then s else s.notice f.encl 4 st nv cls (BitVec.ofNat 64 lba)
  s1.serviceEnd f (some (st, nv)) false

/-! ## Slots, drives, busy ranges -/

/-- The valid slot of a drive with this index. -/
def State.slot? (s : State) (d : BitVec 2) (i : BitVec 6) : Option StorageSlot := s.sip.slots.find? fun t => t.drive == d && t.idx == i

/-- The drive is present and its controller has not failed. -/
def State.driveUp (s : State) (d : BitVec 2) : Bool := s.sip.drives.getLsbD d.toNat

/-- The controller of the drive is being reset. -/
def State.driveHeld (s : State) (d : BitVec 2) : Bool := s.sip.resetting.getLsbD d.toNat

/-- A range of blocks meets a busy range. -/
def State.isBusy (s : State) (d : BitVec 2) (nsid lba n : Nat) : Bool :=
  s.sip.busy.any fun b => b.drive == d && b.nsid == nsid && decide (b.lba < lba + n) && decide (lba < b.lba + b.n)

/-- Blocks that one Read or Write may name: 256 KiB, or less where the drive's Maximum Data Transfer Size is (04_storage.md R97). -/
def State.maxBlocks (s : State) (d : BitVec 2) : Nat :=
  let m := s.sip.mdts.get ⟨d.toNat, d.isLt⟩
  if m = 0 then 64 else min m 64

/-- Pieces of at most `lim` blocks. -/
def blockPieces (lim : Nat) : Nat → Nat → Nat → List (Nat × Nat)
  | 0, _, _ => []
  | fuel + 1, lba, n => if n ≤ lim then [(lba, n)] else (lba, lim) :: blockPieces lim fuel (lba + lim) (n - lim)

/-- A use of the drive that moves data. -/
def NvmeUse.moves : NvmeUse → Bool
  | .fault _ _ _ => true
  | .write _ _ => true
  | .trim _ _ _ _ => false
  | .flush _ => false

/-- Issue a transfer: one drive command, or several where the drive takes no more at once (04_storage.md R97). -/
def State.issueCmd (s : State) (d : BitVec 2) (nsid lba n : Nat) (use : NvmeUse) (xfer : Nat) : State :=
  let ps := if use.moves then blockPieces (s.maxBlocks d) (n + 1) lba n else [(lba, n)]
  { s with sip := { s.sip with
      cmds := s.sip.cmds ++ ps.mapIdx fun i p => ⟨s.sip.nextCid + i, d, nsid, p.1, p.2, false, use, xfer, none, s.sip.cycle⟩
      nextCid := s.sip.nextCid + ps.length } }

/-- Mark a range of blocks busy for a service or a command (04_storage.md R107). -/
def State.markBusy (s : State) (d : BitVec 2) (nsid lba n owner : Nat) : State :=
  { s with sip := { s.sip with busy := s.sip.busy ++ [⟨d, nsid, lba, n, owner⟩] } }

/-- The marks of a service go. -/
def State.clearBusy (s : State) (owner : Nat) : State := { s with sip := { s.sip with busy := s.sip.busy.filter (·.owner != owner) } }

/-- A service or command that marked blocks has not ended. -/
def State.stillUses (s : State) (owner : Nat) : Bool := s.sip.cmds.any (·.xfer == owner) || s.sip.faults.any fun f => f.marked && f.seq == owner

/-- BUSY_RANGE_CLEAR: a busy mark whose service or command has ended goes, so that what waits for the range may proceed (04_storage.md R107). -/
def execBusyRangeClear (k : Nat) (s : State) : Host.Outcome State Fault Refusal :=
  .next (match s.sip.busy[k]? with
    | none => s
    | some b => if s.stillUses b.owner then s else { s with sip := { s.sip with busy := s.sip.busy.eraseIdx k } })

/-! ## The free-frame pool (04_storage.md R108) -/

/-- Every byte of a range is HBM assigned to an enclave (08_memory.md R216). -/
def State.assigned (s : State) (lo n : Nat) (encl : Byte) : Bool :=
  (List.range ((lo + n - 1) / 2 ^ 21 - lo / 2 ^ 21 + 1)).all fun i => s.hst.assign.contains (lo / 2 ^ 21 + i, encl)

/-- A class record of a pool descriptor. -/
structure ClassRec where
  ring : Nat
  cap : Nat
  low : Nat
  head : Nat
  tail : Nat
deriving DecidableEq, Repr

/-- Bytes of a page of a class. -/
def classSize (c : Nat) : Nat := 4096 * 4 ^ c

/-- Read the class record; none when it fails its checks or is poison. -/
def State.classRec (s : State) (p : Pool) (c : Nat) : Option ClassRec :=
  let a := p.desc + 64 * c
  if !s.assigned a 64 p.encl then none
  else (s.readHbm a 24 p.key).map fun v =>
    ⟨v % 2 ^ 64, v / 2 ^ 64 % 2 ^ 32, v / 2 ^ 96 % 2 ^ 32, v / 2 ^ 128 % 2 ^ 32, v / 2 ^ 160 % 2 ^ 32⟩

/-- Frames available. -/
def ClassRec.avail (r : ClassRec) : Nat := (r.tail + 2 ^ 32 - r.head % 2 ^ 32) % 2 ^ 32

/-- The frame address at the head of a ring; none when the entry fails its checks or is poison. -/
def State.ringFrame (s : State) (p : Pool) (r : ClassRec) : Option Nat :=
  let a := r.ring + 8 * (r.head % r.cap)
  if s.assigned a 8 p.encl then s.readHbm a 8 p.key else none

/-- Take entries until a frame that is aligned and assigned to the enclave: the frame, the record after, and the frames discarded. -/
def State.takeRing (s : State) (p : Pool) (c : Nat) : Nat → ClassRec → Nat → Option Nat × ClassRec × Nat
  | 0, r, bad => (none, r, bad)
  | n + 1, r, bad =>
    if r.avail = 0 || r.cap < r.avail then (none, r, bad)
    else match s.ringFrame p r with
      | none => (none, r, bad)
      | some f =>
        let r1 := { r with head := (r.head + 1) % 2 ^ 32 }
        if f % classSize c = 0 && s.assigned f (classSize c) p.encl then (some f, r1, bad) else s.takeRing p c n r1 (bad + 1)

/-- The class's bit in a mask of notices. -/
def classBit (c : Nat) : BitVec 4 := BitVec.ofNat 4 (2 ^ c)

/-- A class is empty: POOLEMPTY, once until RESUME. -/
def State.poolEmpty (s : State) (p : Pool) (c : Nat) : State :=
  if p.emptySent.getLsbD c then s else (s.putPool { p with emptySent := p.emptySent ||| classBit c }).notice p.encl 3 0 0 c 0

/-- After a take: LOWWATER once while the count is below LOW. -/
def State.lowWater (s : State) (p : Pool) (c : Nat) (r : ClassRec) : State :=
  if r.avail < r.low then
    if p.lowSent.getLsbD c then s else (s.putPool { p with lowSent := p.lowSent ||| classBit c }).notice p.encl 2 0 0 c 0
  else s.putPool { p with lowSent := p.lowSent &&& ~~~classBit c }

/-- Take a frame from the ring of a class. -/
def State.takeFromRing (s : State) (p : Pool) (c : Nat) : State × Option Nat :=
  match s.classRec p c with
  | none => (s.poolEmpty p c, none)
  | some r =>
    let (f, r1, bad) := s.takeRing p c r.avail r 0
    let s1 := if r1.head = r.head then s else (s.writeLoc (.hbm (p.desc + 64 * c + 16) p.key) 4 r1.head).getD s
    let s2 := if bad = 0 then s1 else s1.notice p.encl 4 9 0 c (BitVec.ofNat 64 bad)
    match f with
    | none => (s2.poolEmpty p c, none)
    | some a => (s2.lowWater p c r1, some a)

/-- Take a frame of a class: a frame kept from before, else one from the ring; a class found empty waits for RESUME. -/
def State.takeFrame (s : State) (encl : Byte) (c : Nat) : State × Option Nat :=
  match s.pool? encl with
  | none => (s, none)
  | some p =>
    if !p.en then (s, none)
    else match p.kept.find? (·.1 == c) with
      | some k => (s.putPool { p with kept := p.kept.erase k }, some k.2)
      | none => if p.emptySent.getLsbD c then (s, none) else s.takeFromRing p c

/-- A frame goes back to the frames that the enclave's pool holds. -/
def State.keepFrame (s : State) (encl : Byte) (c frame : Nat) : State :=
  match s.pool? encl with
  | none => s
  | some p => s.putPool { p with kept := p.kept ++ [(c, frame)] }

/-! ## Fault service (04_storage.md R103 to R106) -/

/-- Size class of a leaf. -/
def leafClass (leaf : Word) : Nat := fldN leaf 10 2
/-- 4 KiB parts of a page of a class. -/
def classSpan (c : Nat) : Nat := 4 ^ c
/-- DRV of an absent leaf (04_storage.md R101). -/
def leafDrive (leaf : Word) : BitVec 2 := fld leaf 12 2
/-- SLOT of an absent leaf. -/
def leafSlot (leaf : Word) : BitVec 6 := fld leaf 14 6
/-- BLK of an absent leaf. -/
def leafBlk (leaf : Word) : Nat := fldN leaf 20 28

/-- Index of the record's entry in its span. -/
def FaultRec.index (f : FaultRec) : Nat := f.leafAddr / 8 % classSpan (leafClass f.leaf)

/-- Block index of the page's first part. -/
def FaultRec.blk (f : FaultRec) : Nat := leafBlk f.leaf - f.index

/-- Why the page of a record cannot be served (04_storage.md R106). The rule gives its conditions no order: that the slot is looked at before the drive,
so that a page whose slot is not VALID on an absent drive is answered with NOSLOT, is the model's choice (log entry 98). -/
def State.unserviceable (s : State) (f : FaultRec) : Option Sstat :=
  let span := classSpan (leafClass f.leaf)
  match s.slot? (leafDrive f.leaf) (leafSlot f.leaf) with
  | none => some 2
  | some t =>
    if t.encl ≠ f.encl then some 2
    else if leafBlk f.leaf % span ≠ f.index || t.nblk < f.blk + span then some 6
    else if !s.driveUp t.drive then some 8
    else none

/-- The record that a use serves. -/
def NvmeUse.rec? : NvmeUse → Option FaultRec
  | .fault f _ _ => some f
  | _ => none

/-- Fault services in flight, on every drive or on one: the marked records that wait for a frame, and the Reads (04_storage.md R105). -/
def State.faultsInFlight (s : State) (d : Option (BitVec 2)) : Nat :=
  let on (x : BitVec 2) : Bool := d.all (· == x)
  (s.sip.faults.filter fun f => f.marked && on (leafDrive f.leaf)).length +
    ((s.sip.cmds.filter fun c => c.use.rec?.isSome && on c.drive).map NvmeCmd.xfer).dedup.length

/-- The range of blocks a command uses: WRITEBACK and TRIM. -/
def SqCmd.range (q : SqCmd) (t : StorageSlot) : Nat × Nat := (t.base + q.blk, q.count)

/-- A command is no longer held for its pusher's earlier accesses (09_ordering.md R255). -/
def State.cmdFree (s : State) (q : SqCmd) : Bool := (s.focusCore q.core).released? q.slot q.launch .pkg q.pushed

/-- A fault or a command received before number `seq` still waits for blocks of a range (04_storage.md R107). -/
def State.waitsBefore (s : State) (seq : Nat) (d : BitVec 2) (nsid lba n : Nat) : Bool :=
  let meets (d' : BitVec 2) (i : BitVec 6) (blk m : Nat) : Bool :=
    match s.slot? d' i with
    | none => false
    | some u => u.drive == d && u.nsid == nsid && decide (u.base + blk < lba + n) && decide (lba < u.base + blk + m)
  (s.sip.faults.any fun g => decide (g.seq < seq) && !g.marked && (s.unserviceable g).isNone &&
      meets (leafDrive g.leaf) (leafSlot g.leaf) g.blk (classSpan (leafClass g.leaf))) ||
    s.sip.sq.any fun q => decide (q.id < seq) && !q.started && (q.op == 1 || q.op == 3) && s.cmdFree q && meets q.drive q.slotIdx q.blk q.count

/-- The service of a record that is not marked can begin: nothing it needs but a frame is missing (04_storage.md R103 to R107). -/
def State.mayStart (s : State) (f : FaultRec) : Bool :=
  (s.unserviceable f).isNone && !f.marked && (match s.slot? (leafDrive f.leaf) (leafSlot f.leaf) with
    | none => false
    | some t =>
      let lba := t.base + f.blk
      let n := classSpan (leafClass f.leaf)
      !s.driveHeld t.drive && !s.isBusy t.drive t.nsid lba n && !s.waitsBefore f.seq t.drive t.nsid lba n &&
        decide (s.faultsInFlight none < 1024) && decide (s.faultsInFlight (some t.drive) < 256))

/-- Steps 4 and 5 for the marked record at position `k`: a frame is taken and the Read issued; without a frame it waits (04_storage.md R108). -/
def State.takeAndRead (s : State) (k : Nat) (f : FaultRec) (t : StorageSlot) : State :=
  let c := leafClass f.leaf
  let (s1, fr) := s.takeFrame f.encl c
  match fr with
  | none => s1
  | some a =>
    ({ s1 with sip := { s1.sip with faults := s1.sip.faults.eraseIdx k } } : State).issueCmd t.drive t.nsid (t.base + f.blk) (classSpan c)
      (.fault f a (classSize c)) f.seq

/-- Steps 3 to 5 for the record at position `k`: a page that fails its check is given up; its blocks are marked busy, faults going in the order in which
they arrived; then a frame is taken (04_storage.md R103, R105, R107). -/
def State.startFault (s : State) (k : Nat) (f : FaultRec) : State :=
  let gone : State := ({ s with sip := { s.sip with faults := s.sip.faults.eraseIdx k } } : State).clearBusy f.seq
  match s.unserviceable f, s.slot? (leafDrive f.leaf) (leafSlot f.leaf) with
  | some st, o => gone.serviceFail f st 0 (leafClass f.leaf) (((o.map (·.base)).getD 0) + f.blk)
  | none, none => s
  | none, some t =>
    if f.marked then (if s.driveHeld t.drive then s else s.takeAndRead k f t)
    else if !s.mayStart f || (s.sip.faults.take k).any s.mayStart then s
    else
      let g := { f with marked := true }
      (({ s with sip := { s.sip with faults := s.sip.faults.set k g } } : State).markBusy t.drive t.nsid (t.base + f.blk) (classSpan (leafClass f.leaf))
        f.seq).takeAndRead k g t

/-- FAULT_RECORD (04_storage.md R103). -/
def execFaultRecord (k : Nat) (s : State) : Host.Outcome State Fault Refusal :=
  .next (match s.sip.faults[k]? with
    | none => s
    | some f => s.startFault k f)

/-! ## What the drives hold (04_storage.md R100) -/

/-- The storage key of a slot: none for plaintext. -/
def State.slotKey (s : State) (t : StorageSlot) : Option (BitVec 256) :=
  if t.crypt then (s.sip.skeys.find? (·.1 == t.encl)).map Prod.snd else none

/-- A block as a slot reads it: its plaintext when it was written under the slot's key, else what the slot's key makes of it; a block of unknown
contents is a free value. -/
def State.readBlock (s : State) (d : BitVec 2) (nsid lba : Nat) (key : Option (BitVec 256)) (n : Nat) : List Byte :=
  match s.sip.blocks.find? fun b => b.drive == d && b.nsid == nsid && b.lba == lba with
  | some b => if b.key == key then b.data else Config.xtsRead b.key key lba b.data
  | none => (List.range 4096).map (Config.blockByte n)

/-- Read blocks in order, one free value drawn for each. -/
def State.readBlocks (s : State) (d : BitVec 2) (nsid : Nat) (key : Option (BitVec 256)) : Nat → Nat → List Byte × State
  | 0, _ => ([], s)
  | n + 1, lba =>
    let (k, s1) := s.draw
    let (r, s2) := s1.readBlocks d nsid key n (lba + 1)
    (s.readBlock d nsid lba key k ++ r, s2)

/-- Forget what some blocks hold: their contents are undefined. -/
def State.forgetBlocks (s : State) (d : BitVec 2) (nsid lba n : Nat) : State :=
  { s with sip := { s.sip with blocks := s.sip.blocks.filter fun b =>
      !(b.drive == d && b.nsid == nsid && decide (lba ≤ b.lba) && decide (b.lba < lba + n)) } }

/-! ## Steps 6 to 8 -/

/-- Write a frame under a key id, with every line sealed. -/
def State.putFrame (s : State) (frame key : Nat) (data : List Byte) : State :=
  { s with mem := s.mem.putHbm (s.serialOf 0) (s.serialOf key) frame data.length (data.foldr (fun b n => b.toNat + 256 * n) 0) }

/-- FRAME or the storage location of an entry replaced. -/
def entryWith (e : Word) (v : Bool) (loc : Nat) : Word :=
  BitVec.ofNat 64 (e.toNat - fldN e 0 1 - fldN e 12 36 * 4096 + (if v then 1 else 0) + loc % 2 ^ 48 / 4096 * 4096)

/-- Compare-and-swap the entries of a span, `j` of `n` being written; the address of the first is `a0`, its old value `e0`, with BLK rising
from entry to entry. The state and whether every entry was replaced (04_storage.md R103 step 7, R458). -/
def State.installSpan (s : State) (key a0 : Nat) (e0 : Word) (frame : Nat) : Nat → Nat → State × Bool
  | 0, _ => (s, true)
  | n + 1, j =>
    let old : Word := BitVec.ofNat 64 (e0.toNat + j * 2 ^ 20)
    match s.readHbm (a0 + 8 * j) 8 key with
    | none => (s, false)
    | some v =>
      if v ≠ old.toNat then (s, false)
      else match s.writeLoc (.hbm (a0 + 8 * j) key) 8 (entryWith old true (frame + 4096 * j)).toNat with
        | none => (s, false)
        | some s1 =>
          let (s2, ok) := s1.installSpan key a0 e0 frame n (j + 1)
          if ok then (s2, true) else ((s2.writeLoc (.hbm (a0 + 8 * j) key) 8 old.toNat).getD s2, false)

/-- The Read of a fault has completed: the frame is sealed and installed, or kept when a leaf has changed; the busy mark clears before the harts become
ready (04_storage.md R103, R104). -/
def State.readDone (s0 : State) (c : NvmeCmd) (f : FaultRec) (frame : Nat) : State :=
  let s := s0.clearBusy c.xfer
  let cls := leafClass f.leaf
  match s.slot? c.drive (leafSlot f.leaf) with
  | none => (s.keepFrame f.encl cls frame).serviceEnd f none false
  | some t =>
    let (data, s1) := s.readBlocks c.drive c.nsid (s.slotKey t) (classSpan cls) (t.base + f.blk)
    let s2 := s1.putFrame frame (fldN f.leaf 48 6) data
    let e0 : Word := BitVec.ofNat 64 (f.leaf.toNat - f.index * 2 ^ 20)
    let (s3, ok) := s2.installSpan f.tkey (f.leafAddr - 8 * f.index) e0 frame (classSpan cls) 0
    if ok then s3.serviceEnd f none true else (s3.keepFrame f.encl cls frame).serviceEnd f none false

/-! ## Drive completions (04_storage.md R111) -/

/-- Put written blocks on a drive. -/
def State.putBlocks (s : State) (bs : List DriveBlock) : State := { s with sip := { s.sip with blocks := bs ++ s.sip.blocks } }

/-- What a command does to its own blocks when it ends: a Write puts them or leaves them undefined, a deallocation leaves them undefined
(04_storage.md R109, R111). -/
def State.cmdBlocks (s : State) (c : NvmeCmd) (ok : Bool) : State :=
  match c.use with
  | .write _ bs =>
    let s1 := s.forgetBlocks c.drive c.nsid c.lba c.n
    if ok then s1.putBlocks (bs.filter fun b => decide (c.lba ≤ b.lba) && decide (b.lba < c.lba + c.n)) else s1
  | .trim _ lba n nsid => s.forgetBlocks c.drive nsid lba n
  | _ => s

/-- A transfer has succeeded. -/
def State.cmdDone (s : State) (c : NvmeCmd) : State :=
  let fin (id : Nat) : State := match s.sqCmd id with
    | none => s
    | some q => match q.fail with
      | none => s.complete q 0 0 0
      | some g => s.complete q g.1 g.2.1 g.2.2
  match c.use with
  | .fault f frame _ => s.readDone c f frame
  | .write id _ => fin id
  | .trim id _ _ _ => fin id
  | .flush id => fin id

/-- A transfer has failed at a block. -/
def State.cmdFail (s : State) (c : NvmeCmd) (st : Sstat) (nv : BitVec 16) (lba : Nat) : State :=
  let fin (id : Nat) : State := match s.sqCmd id with
    | none => s
    | some q => s.complete q st nv (if c.n = 0 then 0 else BitVec.ofNat 64 lba)
  match c.use with
  | .fault f frame _ => ((s.clearBusy c.xfer).keepFrame f.encl (leafClass f.leaf) frame).serviceFail f st nv (leafClass f.leaf) lba
  | .write id _ => fin id
  | .trim id _ _ _ => fin id
  | .flush id => fin id

/-- Take a command out of those in flight. -/
def State.dropCmd (s : State) (c : NvmeCmd) : State := { s with sip := { s.sip with cmds := s.sip.cmds.filter (·.cid != c.cid) } }

/-- A command ends, well or with a status: the last of its transfer ends the transfer, with the first failure among them (04_storage.md R97). -/
def State.cmdOver (s : State) (c : NvmeCmd) (bad : Option (Sstat × BitVec 16)) : State :=
  let s1 := (s.dropCmd c).cmdBlocks c bad.isNone
  let first := c.bad.or (bad.map fun b => (b.1, b.2, c.lba))
  if s1.sip.cmds.any (·.xfer == c.xfer) then
    { s1 with sip := { s1.sip with cmds := s1.sip.cmds.map fun x => if x.xfer == c.xfer then { x with bad := first } else x } }
  else match first with
    | none => s1.cmdDone c
    | some f => s1.cmdFail c f.1 f.2.1 f.2.2

/-- NVME_COMPLETION: success, one retry, or failure with the drive's status (04_storage.md R103, R111). -/
def execNvmeCompletion (cid : Nat) (nvst : BitVec 16) (dnr : Bool) (s : State) : Host.Outcome State Fault Refusal :=
  .next (match s.sip.cmds.find? (·.cid == cid) with
    | none => s
    | some c =>
      if nvst = 0 then s.cmdOver c none
      else if !dnr && !c.retried then
        { s with sip := { s.sip with cmds := s.sip.cmds.map fun x => if x.cid == cid then { x with retried := true, since := s.sip.cycle } else x } }
      else s.cmdOver c (some (3, nvst)))

/-- Every command in flight on a drive fails. -/
def State.failDrive (s : State) (d : BitVec 2) (st : Sstat) : State :=
  (s.sip.cmds.filter (·.drive == d)).foldl (fun s c => match s.sip.cmds.find? (·.cid == c.cid) with
    | none => s
    | some x => s.cmdOver x (some (st, 0))) s

/-- The bit of a drive. -/
def driveBit (d : BitVec 2) : BitVec 4 := BitVec.ofNat 4 (2 ^ d.toNat)

/-- The timeouts of a drive in the last 60 s, with one more now (04_storage.md R111). -/
def Siphon.timeoutsOf (p : Siphon) (d : BitVec 2) : List (BitVec 2 × Nat) :=
  (d, p.cycle) :: p.timeouts.filter fun t => t.1 == d && decide (p.cycle < t.2 + 60000000000)

/-- A timeout of a drive is noted; the third within 60 s resets its controller, and every command on the drive fails (04_storage.md R111). -/
def State.noteTimeout (s : State) (d : BitVec 2) : State :=
  let mine := s.sip.timeoutsOf d
  let rest := s.sip.timeouts.filter (·.1 != d)
  if mine.length < 3 then { s with sip := { s.sip with timeouts := mine ++ rest } }
  else
    let s1 := s.failDrive d 4
    { s1 with sip := { s1.sip with timeouts := rest, resetting := s1.sip.resetting ||| driveBit d, resetAt := s1.sip.resetAt.set d.toNat s1.sip.cycle d.isLt } }

/-- NVME_TIMEOUT: a command of the drive that has had no completion for 2 s fails with TIMEOUT (04_storage.md R111). -/
def execNvmeTimeout (cid : Nat) (d : BitVec 2) (s : State) : Host.Outcome State Fault Refusal :=
  .next (match s.sip.cmds.find? (·.cid == cid) with
    | none => s
    | some c => if c.drive != d || decide (s.sip.cycle < c.since + 2000000000) then s else (s.cmdOver c (some (4, 0))).noteTimeout c.drive)

/-- CONTROLLER_READY: service on the drive resumes (04_storage.md R111). -/
def execControllerReady (d : BitVec 2) (s : State) : Host.Outcome State Fault Refusal :=
  .next { s with sip := { s.sip with resetting := s.sip.resetting &&& ~~~driveBit d } }

/-- CONTROLLER_READY_TIMEOUT: a controller that is not ready 10 s after its reset is failed, its DRIVES bit clears (04_storage.md R111). -/
def execControllerReadyTimeout (d : BitVec 2) (s : State) : Host.Outcome State Fault Refusal :=
  .next (if !s.driveHeld d || decide (s.sip.cycle < s.sip.resetAt.get ⟨d.toNat, d.isLt⟩ + 10000000000) then s
    else
      let s1 := s.failDrive d 8
      { s1 with
        sip := { s1.sip with resetting := s1.sip.resetting &&& ~~~driveBit d, drives := s1.sip.drives &&& ~~~driveBit d }
        pkg := { s1.pkg with bootstat := putBits s1.pkg.bootstat (16 + d.toNat) 1 0 } })

/-- DRIVE_INBOUND_REQUEST: a read or a write of one byte passes inside the port's share of the firmware region; any other request is answered
with Unsupported Request and counted (04_storage.md R98). -/
def execDriveInboundRequest (d : BitVec 2) (pa : Nat) (val : Option Byte) (s : State) : Host.Outcome State Fault Refusal :=
  let i : Fin 4 := ⟨d.toNat, d.isLt⟩
  .next (if inFirmware pa && Config.portShare d.toNat pa then
    match val with
    | none => s.emit (.driveRead d pa ((s.readHbm pa 1 0).map (BitVec.ofNat 8)))
    | some b => (s.writeLoc (.hbm pa 0) 1 b.toNat).getD s
  else ({ s with sip := { s.sip with inboundRefused := s.sip.inboundRefused.set i (s.sip.inboundRefused.get i + 1) } } : State).emit (.driveUr d))

/-! ## Supervisor commands (04_storage.md R109, R460) -/

/-- A reserved OP or field. EVICT in any command but WRITEBACK and CRYPT in any but SLOTSET count as nonzero reserved fields: the model's choice (log
entry 98). -/
def SqCmd.reserved (q : SqCmd) : Bool :=
  !(decide (1 ≤ q.op) && decide (q.op ≤ 7)) || decide (4 ≤ q.flg) || (q.flg % 2 == 1 && q.op != 1) || (q.flg / 2 % 2 == 1 && q.op != 5) ||
    decide (256 ≤ q.loc) || decide (q.bits / 2 ^ 192 ≠ 0) || (q.op == 5 && decide (2 ^ 28 < q.count))

/-- The enclave holds key id 0. -/
def State.holdsKey0 (s : State) (encl : Byte) : Bool := s.hst.enclaves.any fun e => e.id == encl && e.holds 0

/-- The conditions of R460 in order: the SSTAT of the first that is met. -/
def State.sqRefused (s : State) (q : SqCmd) : Option Sstat :=
  let slotted := q.op = 1 || q.op = 3 || q.op = 4 || q.op = 5 || q.op = 6
  let t := s.slot? q.drive q.slotIdx
  if q.reserved then some 1
  else if (q.op = 1 || q.op = 2) && q.va % 4096 ≠ 0 then some 1
  else if ((q.op = 1 || q.op = 2) && !(1 ≤ q.count && q.count ≤ 64)) || (q.op = 3 && !(1 ≤ q.count && q.count ≤ 2 ^ 20)) then some 1
  else if slotted && !s.driveUp q.drive then some 8
  else if slotted && t.any (·.encl != q.encl) then some 2
  else if (q.op = 1 || q.op = 3 || q.op = 4) && t.isNone then some 2
  else if q.op = 5 && q.flg / 2 % 2 = 0 && !s.holdsKey0 q.encl then some 2
  else if q.op = 5 then
    match s.sip.ns.find? fun n => n.drive == q.drive && n.nsid == q.blk && n.fmtOk with
    | none => some 1
    | some n => if n.cap < q.va + q.nblk then some 6 else none
  else if (q.op = 1 || q.op = 3) && t.any (fun t => decide (t.nblk < q.blk + q.count)) then some 6
  else none

/-- The command at position `k`, not yet started, is of one of these operations: it is refused, or `f` carries it out. Commands with a reserved
operation are answered where WRITEBACK is looked for. A push has released the accesses that the hart posted before (09_ordering.md R255). -/
def State.command (s : State) (k : Nat) (op : Nat) (f : SqCmd → State) : State :=
  match s.sip.sq[k]? with
  | none => s
  | some q =>
    if q.started || !s.cmdFree q || !(q.op == op || (op == 1 && !(decide (1 ≤ q.op) && decide (q.op ≤ 7)))) then s
    else match s.sqRefused q with
      | some st => s.complete q st 0 0
      | none => f q

/-! ## The Siphon's own walk (08_memory.md R220, R221) -/

/-- What the pusher's guard entries and key ids said at the push of an access that the Siphon makes for it (08_memory.md R215, R236). -/
def SqCmd.guardOk (q : SqCmd) (pa n key : Nat) : Bool :=
  ({ Core.reset q.core with guards := q.guards, mkeyid := q.mkeyid, mencl := q.encl } : Core).guardOk .translated pa n key .load .supervisor

/-- Walk from a table of level `lvl` down, under the table key: the entry where the walk ends, its value and level. -/
def State.rawWalk (s : State) (q : SqCmd) (tkey va : Nat) : Nat → Nat → Option (Nat × Word × Nat)
  | lvl, table =>
    let entry := table + 8 * (va / 2 ^ (12 + 9 * lvl) % 512)
    match if q.guardOk entry 8 tkey then s.readHbm entry 8 tkey else none with
    | none => none
    | some n =>
      let e : Word := BitVec.ofNat 64 n
      if e.getLsbD 0 && fldN e 1 3 = 0 then
        match lvl with
        | 0 => none
        | l + 1 => s.rawWalk q tkey va l (fldN e 12 36 * 4096)
      else some (entry, e, lvl)

/-- The entry of an address in the pusher's address space, and the table key. -/
def State.sqEntry (s : State) (q : SqCmd) (va : Nat) : Option (Nat × Word × Nat) × Nat :=
  let t := s.focusCore q.core
  let e := t.asidLo q.asid.toNat
  let tk := fldN e 48 6
  (if decide (va < 2 ^ 47) && e.getLsbD 0 then t.rawWalk q tk va 3 (fldN e 12 36 * 4096) else none, tk)

/-! ## WRITEBACK -/

/-- A page that WRITEBACK finds: entry address of its first part, that entry, virtual base, frame, size, key id. -/
structure WbPage where
  entry : Nat
  leaf : Word
  va : Nat
  frame : Nat
  size : Nat
  key : Nat
  tkey : Nat
deriving DecidableEq, Repr

/-- The present storage-backed page that maps an address. -/
def State.wbPage (s : State) (q : SqCmd) (va : Nat) : Option WbPage :=
  match s.sqEntry q va with
  | (some (a, e, 0), tk) =>
    if e.getLsbD 0 && e.getLsbD 7 then
      let size := classSize (leafClass e)
      let i := va / 4096 % classSpan (leafClass e)
      some ⟨a - 8 * i, e, va / size * size, fldN e 12 36 * 4096 / size * size, size, fldN e 48 6, tk⟩
    else none
  | _ => none

/-- A stream binding or a copy command of some hart has the frame pinned (08_memory.md R231). -/
def State.framePinned (s : State) (frame size : Nat) : Bool :=
  let hits (m : PageMap) : Bool := decide (m.pa < frame + size) && decide (frame < m.pa + m.size)
  (s.allHarts.any fun h => h.vec.binds.toList.any fun b => b.pins.any hits) || s.allCores.any fun c => c.copies.any fun k => k.pins.any hits

/-- Return the entries of a page to the absent form of R101, `j` of `n` being written. -/
def State.evictSpan (s : State) (p : WbPage) (loc : Nat) (blk : Nat) : Nat → Nat → State
  | 0, _ => s
  | n + 1, j =>
    let a := p.entry + 8 * j
    match s.readHbm a 8 p.tkey with
    | none => s.evictSpan p loc blk n (j + 1)
    | some v =>
      let e := entryWith (BitVec.ofNat 64 v) false (loc % 256 * 2 ^ 12 + (blk + j) * 2 ^ 20)
      ((s.writeLoc (.hbm a p.tkey) 8 e.toNat).getD s).evictSpan p loc blk n (j + 1)

/-- Every core drops the translations of an address space in a page. -/
def State.dropPage (s : State) (asid : BitVec 16) (va size : Nat) : State :=
  s.mapCores fun c => { c with tlb := c.tlb.filter fun e => !(e.asid == asid && decide (e.va < va + size) && decide (va < e.va + e.size)) }

/-- What a WRITEBACK has gathered: the state, the blocks to write, and why it stopped. -/
structure WbGather where
  st : State
  blocks : List DriveBlock
  stop : Option (Sstat × BitVec 16 × Word)

/-- Gather the parts of a WRITEBACK from part `j` on; a page is taken whole under EVICT, else part by part. A page with a part that is poisoned gives no
block (04_storage.md R110). A frame that the pusher may not read stops the command with RANGE: the model's choice (log entry 98). -/
def gatherWb (q : SqCmd) (t : StorageSlot) : Nat → Nat → WbGather → WbGather
  | 0, _, g => g
  | fuel + 1, j, g =>
    if q.count ≤ j then g
    else
      let va := q.va + 4096 * j
      let stop (st : Sstat) : WbGather := { g with stop := some (st, 0, BitVec.ofNat 64 (t.base + q.blk + j)) }
      match g.st.wbPage q va with
      | none => stop 7
      | some p =>
        let n := if q.flg % 2 = 1 then p.size / 4096 else 1
        if !q.guardOk p.frame p.size p.key then stop 6
        else if q.flg % 2 = 1 && (decide (p.va ≠ va) || decide (q.count < j + n) || decide ((q.blk + j) % n ≠ 0) || g.st.framePinned p.frame p.size) then stop 6
        else
          let s1 := if q.flg % 2 = 1 then (g.st.evictSpan p q.loc (q.blk + j) n 0).dropPage q.asid p.va p.size else g.st
          let s2 := if q.flg % 2 = 1 then s1.mailLocal q.core q.slot q.launch (siphonMsg 5 0 0 q.ctag (BitVec.ofNat 64 p.frame)) else s1
          match s2.readHbm (p.frame + va % p.size) (4096 * n) p.key with
          | none =>
            let j0 := (p.va - q.va) / 4096
            { st := s2, blocks := g.blocks.take j0, stop := some (5, 0, BitVec.ofNat 64 (t.base + q.blk + j0)) }
          | some v =>
            let bs := (List.range n).map fun i =>
              (⟨q.drive, t.nsid, t.base + q.blk + j + i, bytesOf (v / 2 ^ (32768 * i)) 4096, s2.slotKey t⟩ : DriveBlock)
            gatherWb q t fuel (j + n) { g with st := s2, blocks := g.blocks ++ bs }

/-- WRITEBACK: the pages up to the first that stops the command are written with one Write (04_storage.md R109). -/
def State.writeback (s : State) (q : SqCmd) : State :=
  match s.slot? q.drive q.slotIdx with
  | none => s
  | some t =>
    let lba := (q.range t).1
    if s.isBusy q.drive t.nsid lba q.count || s.waitsBefore q.id q.drive t.nsid lba q.count || s.driveHeld q.drive then s
    else
      let g := gatherWb q t q.count 0 ⟨s, [], none⟩
      let q1 := { q with started := true, fail := g.stop }
      if g.blocks.isEmpty then
        match g.stop with
        | none => g.st.complete q1 0 0 0
        | some f => g.st.complete q1 f.1 f.2.1 f.2.2
      else ((g.st.putSq q1).markBusy q.drive t.nsid lba g.blocks.length q.id).issueCmd q.drive t.nsid lba g.blocks.length (.write q.id g.blocks) q.id

/-- WRITEBACK (04_storage.md R109). -/
def execWriteback (k : Nat) (s : State) : Host.Outcome State Fault Refusal := .next (s.command k 1 s.writeback)

/-! ## PREFETCH, TRIM, FLUSH, SLOTSET, SLOTCLR, RESUME -/

/-- Records of the absent storage-backed pages of a PREFETCH, each page once. -/
def State.prefetchRecs (s : State) (q : SqCmd) : List FaultRec :=
  ((List.range q.count).foldl (fun (acc : List FaultRec) j =>
    let va := q.va + 4096 * j
    match s.sqEntry q va with
    | (some (a, e, 0), tk) =>
      let page := va / classSize (leafClass e) * classSize (leafClass e)
      if !e.getLsbD 0 && e.getLsbD 7 && !acc.any (·.va == page) then acc ++ [⟨q.asid, page, a, e, tk, q.encl, [], [q.id], 0, false⟩] else acc
    | _ => acc) [])

/-- PREFETCH (04_storage.md R109). -/
def State.prefetch (s : State) (q : SqCmd) : State :=
  let rs := s.prefetchRecs q
  if rs.isEmpty then s.complete q 0 0 0
  else
    let s1 := s.putSq { q with started := true, pagesLeft := rs.length }
    { s1 with sip := rs.foldl Siphon.addFault s1.sip }

/-- PREFETCH (04_storage.md R109). -/
def execPrefetch (k : Nat) (s : State) : Host.Outcome State Fault Refusal := .next (s.command k 2 s.prefetch)

/-- TRIM (04_storage.md R109). -/
def State.trim (s : State) (q : SqCmd) : State :=
  match s.slot? q.drive q.slotIdx with
  | none => s
  | some t =>
    let lba := (q.range t).1
    if s.isBusy q.drive t.nsid lba q.count || s.waitsBefore q.id q.drive t.nsid lba q.count || s.driveHeld q.drive then s
    else ((s.putSq { q with started := true }).markBusy q.drive t.nsid lba q.count q.id).issueCmd q.drive t.nsid lba q.count (.trim q.id lba q.count t.nsid) q.id

/-- TRIM (04_storage.md R109). -/
def execTrim (k : Nat) (s : State) : Host.Outcome State Fault Refusal := .next (s.command k 3 s.trim)

/-- FLUSH (04_storage.md R109). -/
def State.flush (s : State) (q : SqCmd) : State :=
  match s.slot? q.drive q.slotIdx with
  | none => s
  | some t => if s.driveHeld q.drive then s else (s.putSq { q with started := true }).issueCmd q.drive t.nsid 0 0 (.flush q.id) q.id

/-- FLUSH (04_storage.md R109). -/
def execFlush (k : Nat) (s : State) : Host.Outcome State Fault Refusal := .next (s.command k 4 s.flush)

/-- SLOTSET: the slot is bound (04_storage.md R99). -/
def State.slotset (s : State) (q : SqCmd) : State :=
  let t : StorageSlot := ⟨q.drive, q.slotIdx, q.encl, q.blk, q.va, q.nblk, q.flg / 2 % 2 == 1⟩
  ({ s with sip := { s.sip with slots := t :: s.sip.slots.filter fun u => !(u.drive == t.drive && u.idx == t.idx) } } : State).complete q 0 0 0

/-- SLOTSET (04_storage.md R109). -/
def execSlotset (k : Nat) (s : State) : Host.Outcome State Fault Refusal := .next (s.command k 5 s.slotset)

/-- SLOTCLR: the slot is cleared once no block of it is busy (04_storage.md R109). -/
def State.slotclr (s : State) (q : SqCmd) : State :=
  match s.slot? q.drive q.slotIdx with
  | none => s.complete q 0 0 0
  | some t =>
    if s.sip.busy.any t.meets then s
    else ({ s with sip := { s.sip with slots := s.sip.slots.erase t } } : State).complete q 0 0 0

/-- SLOTCLR (04_storage.md R109). -/
def execSlotclr (k : Nat) (s : State) : Host.Outcome State Fault Refusal := .next (s.command k 6 s.slotclr)

/-- RESUME: TAIL is read again for every class of the pusher's pool (04_storage.md R108). A hart of the enclave that is not its pool hart ends the wait
too: the model's choice (log entry 98). -/
def State.resumePool (s : State) (q : SqCmd) : State :=
  (match s.pool? q.encl with
    | none => s
    | some p => s.putPool { p with emptySent := 0 }).complete q 0 0 0

/-- RESUME (04_storage.md R108). -/
def execResume (k : Nat) (s : State) : Host.Outcome State Fault Refusal := .next (s.command k 7 s.resumePool)

/-- SIPHON_MESSAGE_DELIVER: the first held message of the k-th one's mailbox enters it once there is room (04_storage.md R110, 07_core.md R200). -/
def execSiphonMessageDeliver (k : Nat) (s : State) : Host.Outcome State Fault Refusal :=
  .next (match s.hst.heldMsgs[k]? with
    | none => s
    | some m => s.mailRoom m.core m.slot m.launch)

end Sys2Proof.Machine
end

