-- ==== Sys2Proof/Machine/Sluice.lean ====
section
/-! DEFINITION. The Sluice and the monitor: validation, placement, seating, pre-emption, the enclave switch and completion of launches
(05_host.md R133; 06_execution.md R136 to R141, R152 to R154, R162 to R164, R170, R171; 10_traps.md R283 to R288). -/

set_option Elab.async false

namespace Sys2Proof.Machine

/-! ## Validation (05_host.md R133, 13_isa_scalar.md R357) -/

/-- CPLK of a packet. -/
def pktCplk (ws : List Word) : Nat := fldN (pktWord ws 7) 0 2

/-- The conditions of BADLAUNCH; a SPRES of 0 lies outside its range (05_host.md R132, 06_execution.md R138). -/
def badLaunch (ws : List Word) (ring : Bool) : Bool :=
  let w4 := pktWord ws 4
  let w5 := pktWord ws 5
  let w6 := pktWord ws 6
  let w7 := pktWord ws 7
  let spres := fldN w6 23 9
  decide (fldN w5 56 8 ≠ 1) || decide (fldN w5 55 1 ≠ 0) || decide (fldN w6 40 24 ≠ 0) || decide (fldN w7 42 22 ≠ 0) ||
    decide (fldN w6 15 2 = 3) || decide (fldN w6 17 2 = 3) || decide (9 < fldN w6 19 4) || decide (pktCplk ws = 3) ||
    decide (fldN w5 0 48 = 0) || decide (fldN w4 0 2 ≠ 0) || decide (shapeHarts ws < shapeVthreads ws) ||
    decide (spres = 0) || decide (320 < spres) || (shapeCist ws && decide (spres < 16)) || decide (64 < fldN w6 33 7) ||
    decide (spadSize < shapeBlock ws) || (if ring then decide (pktCplk ws = 1) else decide (pktCplk ws = 0))

/-- ASIDTAB as the monitor writes it on every core: in use, with a table of 1 MiB in the firmware region of a stack (08_memory.md R215, R224). -/
def monitorTab : Word :=
  let n := Config.asidTab.toNat
  BitVec.ofNat 64 (1 + 2 ^ 20 * (n % 2 ^ 11) + 0x780000000 + 2 ^ 35 * (n / 2 ^ 11 % 8))

/-- The monitor's ASID table gives an address space to an enclave (08_memory.md R224). -/
def State.asidOf (s : State) (asid : Nat) (encl : Byte) : Bool :=
  ({ s with c := { s.c with asidtab := monitorTab } } : State).asidOwned asid encl

/-- DENIED: another enclave, or an address space that is not the submitter's. -/
def State.deniedLaunch (s : State) (q : Queued) : Bool :=
  let e := fldN (pktWord q.words 7) 34 8
  (e != 0 && e != q.encl.toNat) || !s.asidOf (fldN (pktWord q.words 4) 48 16) q.encl

/-- LAUNCHDONE (06_execution.md R171). -/
def launchDoneMsg (ws : List Word) (id : BitVec 32) (stat cause : Byte) : Msg :=
  BitVec.ofNat 128 (0x20 + stat.toNat * 2 ^ 8 + cause.toNat * 2 ^ 16 + fldN (pktWord ws 7) 2 32 * 2 ^ 32 + id.toNat * 2 ^ 64)

/-- Deliver a completion: to the function's completion ring, to the launching hart's mailbox unless that hart has retired, or nowhere. A packet
that failed validation delivers whatever CPLK holds (05_host.md R131, R133; 06_execution.md R170 to R172). -/
def State.deliverDone (s : State) (ws : List Word) (o : Origin) (id : BitVec 32) (stat cause : Byte) (always : Bool) : State :=
  match o with
  | .ring fn pseq =>
    if always || pktCplk ws = 0 then
      let f := s.func fn
      s.putFunc { f with held := f.held ++ [⟨fld (pktWord ws 7) 2 32, id, stat, cause, pseq⟩] }
    else s
  | .mailbox core slot launch =>
    if always || pktCplk ws = 1 then
      match s.findHart core slot launch with
      | none => s
      | some h => if h.run = .retired then s else s.mailLocal core slot launch (launchDoneMsg ws id stat cause)
    else s

/-- Two packets come from one submitter. -/
def sameOrigin (a b : Origin) : Bool :=
  match a, b with
  | .ring f _, .ring g _ => f == g
  | .mailbox c s l, .mailbox c' s' l' => c == c' && s == s' && l == l'
  | _, _ => false

/-- A LAUNCH push has released the accesses that its hart posted before (09_ordering.md R255). -/
def State.pushReleased (s : State) (q : Queued) : Bool :=
  match q.origin with
  | .ring _ _ => true
  | .mailbox core slot launch => (s.focusCore core).released? slot launch .pkg q.pushed

/-- A packet comes from a command ring. -/
def Origin.isRing : Origin → Bool
  | .ring _ _ => true
  | .mailbox _ _ _ => false

/-- Queue a packet, or answer its failure. -/
def State.validate (s : State) (q : Queued) : State :=
  if badLaunch q.words (Origin.isRing q.origin) then s.deliverDone q.words q.origin 0 1 0 true
  else if s.deniedLaunch q then s.deliverDone q.words q.origin 0 2 0 true
  else
    let i : Fin 32 := ⟨fldN (pktWord q.words 5) 48 5, Nat.mod_lt _ (by decide)⟩
    { s with hst := { s.hst with waiting := s.hst.waiting.set i (s.hst.waiting.get i ++ [{ q with since := s.hst.cycle }]) } }

/-- LAUNCH_VALIDATE: packets of one submitter are taken in their order (05_host.md R133). -/
def execLaunchValidate (k : Nat) (s : State) : Host.Outcome State Fault Refusal :=
  .next (match s.hst.inbox[k]? with
    | none => s
    | some q =>
      if ((s.hst.inbox.take k).any fun p => sameOrigin p.origin q.origin) || !s.pushReleased q then s
      else ({ s with hst := { s.hst with inbox := s.hst.inbox.eraseIdx k } } : State).validate q)

/-! ## What a core has room for (06_execution.md R138 to R141, 10_traps.md R283) -/

/-- Placed launches of a core. -/
def State.placedOn (s : State) (core : Nat) : List Launch := s.hst.launches.filter (·.cores.contains core)

/-- Bytes of the core's context pool in use; the records of the launches that `out` names are left out (10_traps.md R283). -/
def State.poolUse (s : State) (core : Nat) (out : BitVec 32 → Bool) : Nat :=
  ((s.placedOn core).map fun l => 2048 * l.allot + 256).sum +
    ((s.allHarts.filter fun h => h.core == core && h.run == .swapped && !out h.launch).map fun h => h.varBytes (s.core core).split).sum

/-- The pool keeps 864 KiB free beside a further `extra` bytes. -/
def State.poolOk (s : State) (core extra : Nat) (out : BitVec 32 → Bool) : Bool :=
  decide (s.poolUse core out + extra + 864 * 1024 ≤ 3 * 1024 * 1024)

/-- Vector threads of a launch on a core. -/
def State.launchVthreads (s : State) (id : BitVec 32) (core : Nat) : Nat :=
  (s.allHarts.filter fun h => h.launch == id && h.core == core && h.vthread && h.run != .retired).length

/-- A launch may be seated on a core: the seated launches are of its enclave, and those that `out` does not name leave it a launch slot, hart slots and
vector shares (06_execution.md R139 to R141, R154). -/
def State.seatFits (s : State) (id : BitVec 32) (encl : Byte) (first : BitVec 3) (allot vth limit core : Nat) (out : BitVec 32 → Bool) : Bool :=
  let seated := (s.placedOn core).filter fun l => l.seated && l.id != id
  let t := (s.core core).split
  (seated.all fun l => l.encl == encl) && (seated.filter fun l => !out l.id).all fun l => launchSlot l.firstSlot l.allot != launchSlot first allot &&
    (decide (l.firstSlot.toNat + l.allot ≤ first.toNat) || decide (first.toNat + allot ≤ l.firstSlot.toNat)) &&
    decide (vth + s.launchVthreads l.id core ≤ t) && decide (t ≤ limit)

/-- A new launch may be placed on a core: contexts, storage, pool and seat (06_execution.md R137 to R139). -/
def State.coreFits (s : State) (encl : Byte) (ws : List Word) (first : BitVec 3) (rbase : Nat) (out : BitVec 32 → Bool) (core : Nat) : Bool :=
  let a := shapeAllot ws
  let ls := s.placedOn core
  let n := shapeBlock ws
  decide ((ls.map (·.allot)).sum + a ≤ 32) && decide (rbase + n ≤ spadSize) &&
    (ls.all fun l => decide (l.rbase + shapeBlock l.words ≤ rbase) || decide (rbase + n ≤ l.rbase)) &&
    s.poolOk core (2048 * a + 256) (fun _ => false) && s.seatFits 0 encl first a (shapeVthreads ws) 4 core out

/-- First slots that an allotment may have. -/
def firstSlots (ws : List Word) : List (BitVec 3) := if shapeAllot ws = 8 then [0] else [0, 4]

/-- Cores of a cluster from a first one on. -/
def runOf (ws : List Word) (cluster first : Nat) : List Nat := (List.range (shapeCores ws)).map fun i => 128 * cluster + first + i

/-- Some placement of a packet exists when the launches that `out` names are not in the way. -/
def State.canPlace (s : State) (q : Queued) (out : BitVec 32 → Bool) : Bool :=
  (firstSlots q.words).any fun f => (List.range ((spadSize - shapeBlock q.words) / 4096 + 1)).any fun r =>
    decide (shapeClusters q.words ≤ ((List.range 32).filter fun cl => (List.range (129 - shapeCores q.words)).any fun b =>
      (runOf q.words cl b).all (s.coreFits q.encl q.words f (4096 * r) out)).length)

/-- Strictly rising cluster numbers. -/
def risingClusters (l : List (Nat × Nat)) : Bool := risingB (l.map Prod.fst)

/-- The cores of a placement. -/
def placeCores (ws : List Word) (pl : Placement) : List Nat := pl.clusters.flatMap fun c => runOf ws c.1 c.2

/-- A placement that the rules allow for a packet (06_execution.md R136, R137; 08_memory.md R210). -/
def State.placementOk (s : State) (q : Queued) (pl : Placement) (out : BitVec 32 → Bool) : Bool :=
  (firstSlots q.words).contains pl.firstSlot && decide (pl.rbase % 4096 = 0) && decide (pl.clusters.length = shapeClusters q.words) &&
    risingClusters pl.clusters && (pl.clusters.all fun c => decide (c.1 < 32) && decide (c.2 + shapeCores q.words ≤ 128)) &&
    (placeCores q.words pl).all (s.coreFits q.encl q.words pl.firstSlot pl.rbase out)

/-! ## The order of placement attempts (06_execution.md R153) -/

/-- The head of a queue that places. -/
def State.headOf (s : State) (q : BitVec 5) : Option Queued :=
  if (s.hst.queues.get ⟨q.toNat, q.isLt⟩).getLsbD 10 then (s.hst.waiting.get ⟨q.toNat, q.isLt⟩).head? else none

/-- Effective priority of a packet. -/
def State.headPrio (s : State) (q : BitVec 5) (p : Queued) : Nat := s.effPrio (fld (pktWord p.words 5) 53 2) q

/-- Queue `a` goes before queue `b` by their charges at the Sluice. -/
def State.queueBefore (s : State) (a b : BitVec 5) : Bool :=
  let ra := s.hst.charge.get ⟨a.toNat, a.isLt⟩ * s.weight b
  let rb := s.hst.charge.get ⟨b.toNat, b.isLt⟩ * s.weight a
  decide (ra < rb) || (ra == rb && decide (a < b))

/-- A pre-empted launch can be seated again on all of its cores. -/
def State.canResume (s : State) (l : Launch) : Bool :=
  !l.seated && l.preempted && l.endStat.isNone && l.cores.all fun c =>
    s.seatFits l.id l.encl l.firstSlot l.allot (s.launchVthreads l.id c) (((l.splitAt.find? (·.1 == c)).map Prod.snd).getD 4) c (fun _ => false) &&
      s.poolOk c 0 (· == l.id)

/-- Every queue number. -/
def allQueues : List (BitVec 5) := (List.range 32).map (BitVec.ofNat 5)

/-- Some head that can be placed goes before an attempt of queue `q` at priority `prio`; at equal priority only when `ties`. -/
def State.headFirst (s : State) (q : BitVec 5) (prio : Nat) (ties : Bool) : Bool :=
  allQueues.any fun r => match s.headOf r with
    | none => false
    | some p => (decide (prio < s.headPrio r p) || (ties && s.headPrio r p == prio && s.queueBefore r q)) && s.canPlace p (fun _ => false)

/-- A head has waited for 10^8 Sluice cycles and blocks a new placement of equal or lower priority. Of two such heads of one priority, the one that has
waited longer blocks the other: the model's choice (DESIGN CHOICE, log entry 102). -/
def State.blockedBy (s : State) (q : BitVec 5) (prio : Nat) (h : Queued) : Bool :=
  allQueues.any fun r => r != q && match s.headOf r with
    | none => false
    | some p => decide (p.since + 10 ^ 8 ≤ s.hst.cycle) && (decide (prio < s.headPrio r p) || (s.headPrio r p == prio &&
        (decide (h.since + 10 ^ 8 > s.hst.cycle) || decide (p.since < h.since) || (p.since == h.since && decide (r < q)))))

/-- Some pre-empted launch that can be resumed goes before an attempt: a new placement yields at equal priority, a resumption by charges. -/
def State.resumeFirst (s : State) (q : BitVec 5) (prio : Nat) (new : Bool) : Bool :=
  s.hst.launches.any fun l =>
    let p := s.effPrio l.prio l.queue
    (decide (prio < p) || (p == prio && (new || (l.queue != q && s.queueBefore l.queue q)))) && s.canResume l

/-! ## Seating (06_execution.md R139 to R141; 07_core.md R176; 10_traps.md R287, R288) -/

/-- The registers that the monitor keeps for an enclave on a core. -/
def Core.savedCounters (c : Core) : Nat × List Word × Word × BitVec 9 := (c.id, c.evc.toList, c.sevsel, c.meven)

/-- Save the event counters of the enclave that a core runs (10_traps.md R288 step 2). -/
def State.saveCounters (s : State) (c : Core) : State :=
  { s with hst := { s.hst with enclaves := s.hst.enclaves.map fun e =>
      if e.id == c.mencl then { e with counters := c.savedCounters :: e.counters.filter (·.1 != c.id) } else e } }

/-- Load an enclave on a core: guards, key ids, MENCL, and, when another enclave was there, its event counters and empty banks
(10_traps.md R288 steps 3 and 4). -/
def Core.load (c : Core) (e : Enclave) : Core :=
  let c1 := { c with
    mencl := e.id, mkeyid := BitVec.ofNat 64 ((e.keys.map (2 ^ ·)).sum), asidtab := monitorTab, mdeleg := monitorDeleg
    guards := Vector.ofFn fun i : Fin 16 => e.guards.getD i.val 0 }
  if c.mencl = e.id then c1
  else
    let (_, evc, sel, en) := (e.counters.find? (·.1 == c.id)).getD (c.id, [], 0, 0)
    { (c1.wipeBank false).wipeBank true with evc := Vector.ofFn fun i : Fin 8 => evc.getD i.val 0, sevsel := sel, meven := en }

/-- Load an enclave on a core with nothing seated. -/
def State.loadEnclave (s : State) (core : Nat) (encl : Byte) : State :=
  match s.enclave? encl with
  | none => s
  | some e =>
    let s1 := if (s.core core).mencl = encl then s else s.saveCounters (s.core core)
    s1.putCore ((s1.core core).load e)

/-- Seat a launch on a core: alone, the enclave is loaded and the split follows the launch. -/
def State.seatCore (s : State) (id : BitVec 32) (encl : Byte) (vth core : Nat) : State :=
  if (s.placedOn core).any fun l => l.seated && l.id != id then s
  else
    let s1 := s.loadEnclave core encl
    s1.putCore { s1.core core with split := splitFor vth }

/-- Write the core-shared bank of a launch slot. -/
def Core.setBank (c : Core) (lslot : Bool) (b : Vector Word 16) : Core :=
  let c1 := { c with cpend := c.cpend.filter (·.lslot != lslot) }
  if lslot then { c1 with c1 := b } else { c1 with c0 := b }

/-! ## Placement (06_execution.md R136 to R145) -/

/-- A launch id that no placed launch has; never 0. -/
def State.freshId (s : State) : BitVec 32 :=
  BitVec.ofNat 32 (freeFrom (s.hst.launches.map (·.id.toNat)) 1 (2 ^ 32) (s.hst.launches.length + 1) s.hst.nextLaunch.toNat)

/-- The endpoint of a launch on a core is created (03_routes.md R74, R75). -/
def State.newEndpoint (s : State) (id : BitVec 32) (core : Nat) : State :=
  let c := s.core core
  let (g, ctr, w) := s.issueGen c.ctr
  (((s.putCore { c with ctr := ctr }).noteWrap (.core core) w)).mapLaunch id fun l => { l with eps := l.eps ++ [(core, g)] }

/-- The harts of a launch on one core. -/
def State.coreHarts (s : State) (l : Launch) (stvec : Word) (core : Nat) : List Hart :=
  (List.range (shapeHarts l.words)).map fun h => (s.focusCore core).entryHart l core h stvec

/-- Seat a new launch on a core: endpoint, split, core-shared bank, room for its contexts, harts. -/
def State.startOn (s : State) (l : Launch) (stvec : Word) (core : Nat) : State :=
  let s1 := (s.newEndpoint l.id core).seatCore l.id l.encl (shapeVthreads l.words) core
  let s2 := s1.putCore ((s1.core core).setBank (launchSlot l.firstSlot l.allot) (entryBank l core))
  let s3 := s2.mapLaunch l.id fun m => { m with frames := m.frames ++ [(core, s2.newFrames core (2048 * l.allot + 256))] }
  ({ s3 with harts := s3.harts ++ s3.coreHarts l stvec core } : State).numberShares core

/-- Place the head of a queue. -/
def State.place (s : State) (queue : BitVec 5) (q : Queued) (pl : Placement) : State :=
  let i : Fin 32 := ⟨queue.toNat, queue.isLt⟩
  let l : Launch :=
    { id := s.freshId, encl := q.encl, words := q.words, origin := q.origin, queue := queue, prio := fld (pktWord q.words 5) 53 2
      cores := placeCores q.words pl, firstSlot := pl.firstSlot, allot := shapeAllot q.words, rbase := pl.rbase, seated := true
      seatedAt := s.hst.seatClock, preempted := false, splitAt := [], endStat := none, eps := [], cbanks := [], frames := [] }
  let s1 : State := { s with
    mem := s.mem.zeroBlocks l
    hst := { s.hst with
      waiting := s.hst.waiting.set i (s.hst.waiting.get i).tail
      launches := s.hst.launches ++ [l], nextLaunch := l.id + 1, seatClock := s.hst.seatClock + 1 } }
  let stvec := ((s.enclave? q.encl).map (·.stvec)).getD 0
  l.cores.foldl (fun s c => s.startOn l stvec c) s1

/-- PLACE_LAUNCH: the head of a queue is placed whole, when no attempt that goes before it would succeed (06_execution.md R136, R153). -/
def execPlaceLaunch (queue : BitVec 5) (pl : Placement) (s : State) : Host.Outcome State Fault Refusal :=
  .next (match s.headOf queue with
    | none => s
    | some q =>
      let prio := s.headPrio queue q
      if s.isReady && s.placementOk q pl (fun _ => false) && !s.headFirst queue prio true && !s.resumeFirst queue prio true && !s.blockedBy queue prio q then s.place queue q pl
      else s)

/-! ## Swap-out and resumption (06_execution.md R163, R164; 10_traps.md R285 to R287) -/

/-- The code of HSTATE. -/
def hstateOf : RunState → Nat
  | .parkedFE => 1
  | .parkedMbox => 2
  | .parkedSync => 3
  | .parkedBar => 4
  | _ => 0

/-- A hart whose launch is swapped out. A hart that a storage service holds goes on waiting for it. -/
def Hart.swapOut (reason : Nat) (h : Hart) : Hart :=
  if h.run = .retired then { h with seated := false }
  else { h.abortColl with
    run := .swapped, seated := false, reason := reason, mergeWait := false, hstate := if h.run = .swapped then h.hstate else hstateOf h.run }

/-- The hart may be swapped out: no access or request of it that gives a result is outstanding (06_execution.md R163 step 2). -/
def State.hartSettled (s : State) (h : Hart) : Bool :=
  h.run != .memWait && h.marked.isEmpty && !((s.core h.core).reqs.any fun r => r.slot == h.slot && r.launch == h.launch &&
    (match r.kind with
      | .posted => false
      | .strip => false
      | .collPut => false
      | .collSync => false
      | .collAbort => false
      | .copyPut _ _ _ => false
      | .engSync _ => false
      | _ => true))

/-- Harts of a launch. -/
def State.hartsOf (s : State) (id : BitVec 32) : List Hart := s.allHarts.filter (·.launch == id)

/-- The launch may be swapped out now. -/
def State.settled (s : State) (l : Launch) : Bool := (s.hartsOf l.id).all fun h => h.run == .retired || s.hartSettled h

/-- Bring every write to a core-shared bank into effect. -/
def Core.settleBank (lslot : Bool) (c : Core) : Core :=
  let mine := c.cpend.filter (·.lslot == lslot)
  applyCWrites mine mine { c with cpend := c.cpend.filter (·.lslot != lslot) }

/-- The bytes of a launch record: the core-shared bank, the core barrier count, the split (10_traps.md R284). -/
def State.launchRecord (s : State) (l : Launch) (core : Nat) (bank : Vector Word 16) : Nat :=
  packParts (bank.toList.map (fun w => (8, w.toNat)) ++
    [(8, (s.allHarts.filter fun h => h.launch == l.id && h.core == core && h.barWait == some .core).length), (8, (s.core core).split), (112, 0)])

/-- What the cores hold of a launch when it is swapped out: the bank, the split, and the lane groups that come free. -/
def State.saveCore (s : State) (l : Launch) (core : Nat) : State :=
  let c := (s.core core).settleBank (launchSlot l.firstSlot l.allot)
  let b := if launchSlot l.firstSlot l.allot then c.c1 else c.c0
  let s1 := s.putCore { c with lane := c.lane.map fun o => o.filter fun sl => !l.hasSlot sl, waits := c.waits.filter fun w => !l.hasSlot w.1 }
  let at_ := poolBase core + ((l.frames.find? (·.1 == core)).map Prod.snd).getD 0 + 2048 * l.allot
  (s1.poolPut at_ 256 (s1.launchRecord l core b)).mapLaunch l.id fun m =>
    { m with cbanks := m.cbanks ++ [(core, b.toList)], splitAt := m.splitAt ++ [(core, c.split)] }

/-- A hart leaves its wait list, and its core owes the aborts of its collective (18_isa_fabric.md R450). -/
def State.leaveForSwap (s : State) (h : Hart) : State :=
  let s1 := s.leaveWaits h.core h.slot h.launch
  s1.putCore ((s1.core h.core).oweSwap h)

/-- Swap a launch out whole, on all of its cores. A launch on several cores is reseated by the Sluice (06_execution.md R162). -/
def State.swapLaunch (s : State) (l : Launch) (reason : Nat) : State :=
  let s1 := (s.hartsOf l.id).foldl State.leaveForSwap s
  let s2 := l.cores.foldl (fun s c => s.saveCore l c) (s1.mapLaunch l.id fun m => { m with cbanks := [], splitAt := [] })
  let s3 := s2.mapHarts (·.launch == l.id) (Hart.swapOut reason)
  (((s3.hartsOf l.id).filter (·.run == .swapped)).foldl State.saveContext s3).mapLaunch l.id fun m =>
    { m with seated := false, preempted := reason == 1 || decide (1 < l.cores.length) }

/-- A hart whose launch is seated again. -/
def Hart.reseat (h : Hart) : Hart :=
  if h.run = .retired then { h with seated := true }
  else { h with seated := true, csr := { h.csr with sipPreempt := h.csr.sipPreempt || h.reason == 1 || h.reason == 2 } }

/-- Give a core back what it held of a launch. -/
def State.restoreCore (s : State) (l : Launch) (core : Nat) : State :=
  let b := ((l.cbanks.find? (·.1 == core)).map Prod.snd).getD []
  s.putCore ((s.core core).setBank (launchSlot l.firstSlot l.allot) (Vector.ofFn fun i : Fin 16 => b.getD i.val 0))

/-- Seat a swapped launch again on its cores: each hart is restored, unless a storage service still holds it (06_execution.md R164). -/
def State.reseat (s : State) (l : Launch) : State :=
  let s1 := l.cores.foldl (fun s c => (s.seatCore l.id l.encl (s.launchVthreads l.id c) c).restoreCore l c) s
  let s0 := s1.mapHarts (·.launch == l.id) Hart.reseat
  let s2 := (l.cores.foldl State.numberShares (((s0.hartsOf l.id).filter fun h => h.run == .swapped && h.svcWait.isEmpty).foldl State.restoreHart s0)).mapLaunch
    l.id fun m => { m with seated := true, preempted := false, seatedAt := s.hst.seatClock, splitAt := [], cbanks := [] }
  { s2 with hst := { s2.hst with seatClock := s2.hst.seatClock + 1 } }

/-- RESUME_LAUNCH: a pre-empted launch is seated again, when no attempt that goes before it would succeed (06_execution.md R153). -/
def execResumeLaunch (launch : BitVec 32) (s : State) : Host.Outcome State Fault Refusal :=
  .next (match s.launch? launch with
    | none => s
    | some l =>
      let prio := s.effPrio l.prio l.queue
      if s.canResume l && !s.headFirst l.queue prio false && !s.resumeFirst l.queue prio false then s.reseat l else s)

/-! ## Pre-emption for priority (06_execution.md R154) -/

/-- Effective priority of a placed launch. -/
def State.launchPrio (s : State) (l : Launch) : Nat := s.effPrio l.prio l.queue

/-- Numbers in falling order. -/
def falling (l : List Nat) : List Nat := l.mergeSort fun a b => decide (b ≤ a)

/-- The first of two lists of equal length is the smaller at the first difference. -/
def lexLess : List Nat → List Nat → Bool
  | a :: r, b :: t => decide (a < b) || (a == b && lexLess r t)
  | _, _ => false

/-- A set of launches is preferred: fewer, else lower priorities from the highest down, else seated more recently. -/
def State.preferred (s : State) (a b : List Launch) : Bool :=
  let pa := falling (a.map s.launchPrio)
  let pb := falling (b.map s.launchPrio)
  decide (a.length < b.length) || (a.length == b.length &&
    (lexLess pa pb || (pa == pb && lexLess (falling (b.map (·.seatedAt))) (falling (a.map (·.seatedAt))))))

/-- The head has waited for 10^6 Sluice cycles; the chosen launches: seated, of strictly lower priority, making the placement possible, and no possible set is preferred to them. -/
def State.victimsOk (s : State) (queue : BitVec 5) (q : Queued) (pl : Placement) (vs : List (BitVec 32)) : Bool :=
  let prio := s.headPrio queue q
  let lower := s.hst.launches.filter fun l => l.seated && decide (s.launchPrio l < prio)
  let chosen := lower.filter fun l => vs.contains l.id
  decide (q.since + 10 ^ 6 ≤ s.hst.cycle) && !vs.isEmpty && decide (vs.length = chosen.length) && vs.Nodup && s.placementOk q pl vs.contains && !s.canPlace q (fun _ => false) &&
    lower.sublists.all fun t => !(s.preferred t chosen && s.canPlace q fun id => t.any (·.id == id))

/-- PRIORITY_PREEMPT: lower launches are swapped out for a head that has waited. While a victim awaits a result it is not yet swapped out
(06_execution.md R154, R163). -/
def execPriorityPreempt (queue : BitVec 5) (pl : Placement) (victims : List (BitVec 32)) (s : State) : Host.Outcome State Fault Refusal :=
  .next (match s.headOf queue with
    | none => s
    | some q =>
      let ls := s.hst.launches.filter fun l => victims.contains l.id
      if s.isReady && s.victimsOk queue q pl victims && ls.all s.settled then ls.foldl (fun s l => s.swapLaunch l 1) s else s)

/-! ## The enclave switch (10_traps.md R288) -/

/-- The monitor seats the launches of an enclave that have this core alone, as far as they fit. -/
def State.seatOwn (s : State) (core : Nat) (encl : Byte) : State :=
  (s.hst.launches.filter fun l => l.encl == encl && !l.seated && !l.preempted && l.cores == [core]).foldl (fun s l =>
    if s.canResume { l with preempted := true } then s.reseat l else s) s

/-- An enclave waits for a core: a launch of it is placed there and not seated, or queued. -/
def State.enclaveWaits (s : State) (core : Nat) (encl : Byte) : Bool :=
  ((s.placedOn core).any fun l => l.encl == encl && !l.seated) || s.hst.waiting.toList.any fun q => q.any (·.encl == encl)

/-- ENCLAVE_SWITCH: at the end of a quantum the seated launches are swapped out whole, the core is cleared, the next enclave is loaded and its
launches are seated. -/
def execEnclaveSwitch (core : Nat) (encl : Byte) (s : State) : Host.Outcome State Fault Refusal :=
  let ls := (s.placedOn core).filter (·.seated)
  .next (if (s.core core).mencl = encl || (s.enclave? encl).isNone || !s.enclaveWaits core encl || !ls.all s.settled then s
    else ((ls.foldl (fun s l => s.swapLaunch l 2) s).loadEnclave core encl).seatOwn core encl)

/-! ## Completion (06_execution.md R170, R171) -/

/-- A hart has ended for its launch; a launch that ends early ends its swapped harts where they stand. -/
def Hart.ended (l : Launch) (h : Hart) : Bool := h.run == .retired || (l.endStat.isSome && !h.seated)

/-- Nothing that the harts of a launch pushed or posted is outstanding. -/
def State.launchDrained (s : State) (l : Launch) : Bool :=
  (s.hartsOf l.id).all (fun h => h.post.toList.all (· == 0)) &&
    (s.allCores.all fun c => c.copies.all (·.launch != l.id) && c.weir.all (·.launch != l.id) && c.aborts.all (·.launch != l.id) &&
      c.reqs.all (·.launch != l.id)) &&
    s.sip.sq.all (·.launch != l.id) && s.hst.inbox.all fun q => match q.origin with
      | .ring _ _ => true
      | .mailbox _ _ id => id != l.id

/-- A location of the block of a launch. -/
def Launch.inBlock (l : Launch) : Loc → Bool
  | .spad core off => l.cores.contains core && decide (l.rbase ≤ off) && decide (off < l.rbase + shapeBlock l.words)
  | .hbm _ _ => false

/-- A copy command has local pieces left in the block of a launch. -/
def State.copyInto (s : State) (l : Launch) (k : CopyCmd) : Bool :=
  let hits (ps : List (Nat × Nat)) : Bool := ps.any fun a => (s.engineLoc k a.1).any l.inBlock
  !k.malformed && (k.sync.any l.inBlock || (!k.srem && hits (k.pieces false k.next (k.total - k.next))) || (!k.drem && hits (k.pieces true 0 k.total)))

/-- An access of another launch that was checked into the block of a launch has not been performed: the block stays until it is (08_memory.md R211). -/
def State.blockBusy (s : State) (l : Launch) : Bool :=
  (s.allHarts.any fun h => h.launch != l.id &&
    (h.marked.any (fun m => l.inBlock m.loc) || h.vec.vq.any fun e => (e.spots.getD []).any fun x => x.2.any fun p => l.inBlock p.loc)) ||
  s.allCores.any fun c =>
    c.weir.any (fun w => w.launch != l.id && l.inBlock (.spad (w.sketch / spadSize) (w.sketch % spadSize))) ||
      c.copies.any fun k => k.launch != l.id && (s.focusCore c.id).copyInto l k

/-- The launch completes: its completion is delivered, and what it held is free. -/
def State.completeLaunch (s : State) (l : Launch) : State :=
  let (stat, cause) := l.endStat.getD (0, 0)
  (s.dropLaunch l).deliverDone l.words l.origin l.id stat cause false

/-- LAUNCH_COMPLETE (06_execution.md R170, 08_memory.md R211). -/
def execLaunchComplete (launch : BitVec 32) (s : State) : Host.Outcome State Fault Refusal :=
  .next (match s.launch? launch with
    | none => s
    | some l => if (s.hartsOf l.id).all (Hart.ended l) && s.launchDrained l && !s.blockBusy l then s.completeLaunch l else s)

end Sys2Proof.Machine
end

