-- ==== Sys2Proof/Machine/Dispatch.lean ====
section
/-! DEFINITION. One arm per row of the opcode table: each calls the meaning of its instruction or event. -/

namespace Sys2Proof.Machine

/-- What an instruction, or a step of the package, does. -/
def exec (i : Instr) (s : State) : Host.Outcome State Fault Refusal :=
  match i with
  | .addi d a i_ => Sys2Proof.Machine.execAddi d a i_ s
  | .andi d a i_ => Sys2Proof.Machine.execAndi d a i_ s
  | .ori d a i_ => Sys2Proof.Machine.execOri d a i_ s
  | .xori d a i_ => Sys2Proof.Machine.execXori d a i_ s
  | .slti d a i_ => Sys2Proof.Machine.execSlti d a i_ s
  | .sltiu d a i_ => Sys2Proof.Machine.execSltiu d a i_ s
  | .slli d a s_ => Sys2Proof.Machine.execSlli d a s_ s
  | .srli d a s_ => Sys2Proof.Machine.execSrli d a s_ s
  | .srai d a s_ => Sys2Proof.Machine.execSrai d a s_ s
  | .add d a b => Sys2Proof.Machine.execAdd d a b s
  | .sub d a b => Sys2Proof.Machine.execSub d a b s
  | .and d a b => Sys2Proof.Machine.execAnd d a b s
  | .or d a b => Sys2Proof.Machine.execOr d a b s
  | .xor d a b => Sys2Proof.Machine.execXor d a b s
  | .sll d a b => Sys2Proof.Machine.execSll d a b s
  | .srl d a b => Sys2Proof.Machine.execSrl d a b s
  | .sra d a b => Sys2Proof.Machine.execSra d a b s
  | .slt d a b => Sys2Proof.Machine.execSlt d a b s
  | .sltu d a b => Sys2Proof.Machine.execSltu d a b s
  | .mul d a b => Sys2Proof.Machine.execMul d a b s
  | .mulh d a b => Sys2Proof.Machine.execMulh d a b s
  | .mulhu d a b => Sys2Proof.Machine.execMulhu d a b s
  | .div d a b => Sys2Proof.Machine.execDiv d a b s
  | .divu d a b => Sys2Proof.Machine.execDivu d a b s
  | .rem d a b => Sys2Proof.Machine.execRem d a b s
  | .remu d a b => Sys2Proof.Machine.execRemu d a b s
  | .min d a b => Sys2Proof.Machine.execMin d a b s
  | .max d a b => Sys2Proof.Machine.execMax d a b s
  | .minu d a b => Sys2Proof.Machine.execMinu d a b s
  | .maxu d a b => Sys2Proof.Machine.execMaxu d a b s
  | .clz d a => Sys2Proof.Machine.execClz d a s
  | .ctz d a => Sys2Proof.Machine.execCtz d a s
  | .popc d a => Sys2Proof.Machine.execPopc d a s
  | .mulmod d a b => Sys2Proof.Machine.execMulmod d a b s
  | .lui d i_ => Sys2Proof.Machine.execLui d i_ s
  | .auipc d i_ => Sys2Proof.Machine.execAuipc d i_ s
  | .lb d a i_ => Sys2Proof.Machine.execLb d a i_ s
  | .lh d a i_ => Sys2Proof.Machine.execLh d a i_ s
  | .lw d a i_ => Sys2Proof.Machine.execLw d a i_ s
  | .ld d a i_ => Sys2Proof.Machine.execLd d a i_ s
  | .lbu d a i_ => Sys2Proof.Machine.execLbu d a i_ s
  | .lhu d a i_ => Sys2Proof.Machine.execLhu d a i_ s
  | .lwu d a i_ => Sys2Proof.Machine.execLwu d a i_ s
  | .sb a b i_ => Sys2Proof.Machine.execSb a b i_ s
  | .sh a b i_ => Sys2Proof.Machine.execSh a b i_ s
  | .sw a b i_ => Sys2Proof.Machine.execSw a b i_ s
  | .sd a b i_ => Sys2Proof.Machine.execSd a b i_ s
  | .beq a b i_ => Sys2Proof.Machine.execBeq a b i_ s
  | .bne a b i_ => Sys2Proof.Machine.execBne a b i_ s
  | .blt a b i_ => Sys2Proof.Machine.execBlt a b i_ s
  | .bge a b i_ => Sys2Proof.Machine.execBge a b i_ s
  | .bltu a b i_ => Sys2Proof.Machine.execBltu a b i_ s
  | .bgeu a b i_ => Sys2Proof.Machine.execBgeu a b i_ s
  | .jal d o => Sys2Proof.Machine.execJal d o s
  | .jalr d a i_ => Sys2Proof.Machine.execJalr d a i_ s
  | .fadd d f a b => Sys2Proof.Machine.execFadd d f a b s
  | .fsub d f a b => Sys2Proof.Machine.execFsub d f a b s
  | .fmul d f a b => Sys2Proof.Machine.execFmul d f a b s
  | .fdiv d f a b => Sys2Proof.Machine.execFdiv d f a b s
  | .fsqrt d f a => Sys2Proof.Machine.execFsqrt d f a s
  | .fmin d f a b => Sys2Proof.Machine.execFmin d f a b s
  | .fmax d f a b => Sys2Proof.Machine.execFmax d f a b s
  | .fmac d f a b => Sys2Proof.Machine.execFmac d f a b s
  | .feq d f a b => Sys2Proof.Machine.execFeq d f a b s
  | .flt d f a b => Sys2Proof.Machine.execFlt d f a b s
  | .fle d f a b => Sys2Proof.Machine.execFle d f a b s
  | .fclass d f a => Sys2Proof.Machine.execFclass d f a s
  | .fsgnj d f a b => Sys2Proof.Machine.execFsgnj d f a b s
  | .fsgnjn d f a b => Sys2Proof.Machine.execFsgnjn d f a b s
  | .fsgnjx d f a b => Sys2Proof.Machine.execFsgnjx d f a b s
  | .fcvtif d f a s_ => Sys2Proof.Machine.execFcvtif d f a s_ s
  | .fcvtfi d f a s_ => Sys2Proof.Machine.execFcvtfi d f a s_ s
  | .fcvtff d f a s_ => Sys2Proof.Machine.execFcvtff d f a s_ s
  | .ldfe d a => Sys2Proof.Machine.execLdfe d a s
  | .ldff d a => Sys2Proof.Machine.execLdff d a s
  | .stef d a b => Sys2Proof.Machine.execStef d a b s
  | .stf a b => Sys2Proof.Machine.execStf a b s
  | .feclr a => Sys2Proof.Machine.execFeclr a s
  | .fepeek d a => Sys2Proof.Machine.execFepeek d a s
  | .amoadd d w a b => Sys2Proof.Machine.execAmoadd d w a b s
  | .amoand d w a b => Sys2Proof.Machine.execAmoand d w a b s
  | .amoor d w a b => Sys2Proof.Machine.execAmoor d w a b s
  | .amoxor d w a b => Sys2Proof.Machine.execAmoxor d w a b s
  | .amomin d w a b => Sys2Proof.Machine.execAmomin d w a b s
  | .amomax d w a b => Sys2Proof.Machine.execAmomax d w a b s
  | .amominu d w a b => Sys2Proof.Machine.execAmominu d w a b s
  | .amomaxu d w a b => Sys2Proof.Machine.execAmomaxu d w a b s
  | .amoswap d w a b => Sys2Proof.Machine.execAmoswap d w a b s
  | .cas d w a b => Sys2Proof.Machine.execCas d w a b s
  | .amofadd d w a b => Sys2Proof.Machine.execAmofadd d w a b s
  | .fence s_ v e p => Sys2Proof.Machine.execFence s_ v e p s
  | .rlx n => Sys2Proof.Machine.execRlx n s
  | .pglobal d a => Sys2Proof.Machine.execPglobal d a s
  | .csrrw d a c => Sys2Proof.Machine.execCsrrw d a c s
  | .csrrs d a c => Sys2Proof.Machine.execCsrrs d a c s
  | .csrrc d a c => Sys2Proof.Machine.execCsrrc d a c s
  | .csrrwi d z c => Sys2Proof.Machine.execCsrrwi d z c s
  | .csrrsi d z c => Sys2Proof.Machine.execCsrrsi d z c s
  | .csrrci d z c => Sys2Proof.Machine.execCsrrci d z c s
  | .ecall => Sys2Proof.Machine.execEcall s
  | .ebreak => Sys2Proof.Machine.execEbreak s
  | .sret => Sys2Proof.Machine.execSret s
  | .mret => Sys2Proof.Machine.execMret s
  | .waitmsg => Sys2Proof.Machine.execWaitmsg s
  | .popmsg d a => Sys2Proof.Machine.execPopmsg d a s
  | .yield => Sys2Proof.Machine.execYield s
  | .hdone => Sys2Proof.Machine.execHdone s
  | .bar s_ => Sys2Proof.Machine.execBar s_ s
  | .launch d a => Sys2Proof.Machine.execLaunch d a s
  | .sqpush d a => Sys2Proof.Machine.execSqpush d a s
  | .tlbinv s_ a => Sys2Proof.Machine.execTlbinv s_ a s
  | .asidset s_ a => Sys2Proof.Machine.execAsidset s_ a s
  | .setvli d a t g => Sys2Proof.Machine.execSetvli d a t g s
  | .setvl d a b => Sys2Proof.Machine.execSetvl d a b s
  | .lsplit d a s_ => Sys2Proof.Machine.execLsplit d a s_ s
  | .lmerge => Sys2Proof.Machine.execLmerge s
  | .vtag d t => Sys2Proof.Machine.execVtag d t s
  | .vfmx d b => Sys2Proof.Machine.execVfmx d b s
  | .pump n m a s_ w => Sys2Proof.Machine.execPump n m a s_ w s
  | .pumpstop => Sys2Proof.Machine.execPumpstop s
  | .vadd d k a b m => Sys2Proof.Machine.execVadd d k a b m s
  | .vsub d k a b m => Sys2Proof.Machine.execVsub d k a b m s
  | .vmul d k a b m => Sys2Proof.Machine.execVmul d k a b m s
  | .vmulh d k a b m => Sys2Proof.Machine.execVmulh d k a b m s
  | .vmadd d k a b m => Sys2Proof.Machine.execVmadd d k a b m s
  | .vnmsub d k a b m => Sys2Proof.Machine.execVnmsub d k a b m s
  | .vdiv d k a b m => Sys2Proof.Machine.execVdiv d k a b m s
  | .vrem d k a b m => Sys2Proof.Machine.execVrem d k a b m s
  | .vmin d k a b m => Sys2Proof.Machine.execVmin d k a b m s
  | .vmax d k a b m => Sys2Proof.Machine.execVmax d k a b m s
  | .vabs d a m => Sys2Proof.Machine.execVabs d a m s
  | .vneg d a m => Sys2Proof.Machine.execVneg d a m s
  | .vsqrt d a m => Sys2Proof.Machine.execVsqrt d a m s
  | .vand d k a b m => Sys2Proof.Machine.execVand d k a b m s
  | .vor d k a b m => Sys2Proof.Machine.execVor d k a b m s
  | .vxor d k a b m => Sys2Proof.Machine.execVxor d k a b m s
  | .vsll d k a b m => Sys2Proof.Machine.execVsll d k a b m s
  | .vsrl d k a b m => Sys2Proof.Machine.execVsrl d k a b m s
  | .vsra d k a b m => Sys2Proof.Machine.execVsra d k a b m s
  | .vsadd d k a b m => Sys2Proof.Machine.execVsadd d k a b m s
  | .vssub d k a b m => Sys2Proof.Machine.execVssub d k a b m s
  | .vcmpeq d k a b m => Sys2Proof.Machine.execVcmpeq d k a b m s
  | .vcmpne d k a b m => Sys2Proof.Machine.execVcmpne d k a b m s
  | .vcmplt d k a b m => Sys2Proof.Machine.execVcmplt d k a b m s
  | .vcmple d k a b m => Sys2Proof.Machine.execVcmple d k a b m s
  | .vcmpgt d k a b m => Sys2Proof.Machine.execVcmpgt d k a b m s
  | .vcmpge d k a b m => Sys2Proof.Machine.execVcmpge d k a b m s
  | .mand d a b m => Sys2Proof.Machine.execMand d a b m s
  | .mor d a b m => Sys2Proof.Machine.execMor d a b m s
  | .mxor d a b m => Sys2Proof.Machine.execMxor d a b m s
  | .mandn d a b m => Sys2Proof.Machine.execMandn d a b m s
  | .mpopc d a m => Sys2Proof.Machine.execMpopc d a m s
  | .mfirst d a m => Sys2Proof.Machine.execMfirst d a m s
  | .miota d a m => Sys2Proof.Machine.execMiota d a m s
  | .vmv d k a b m => Sys2Proof.Machine.execVmv d k a b m s
  | .vmvx d k a b => Sys2Proof.Machine.execVmvx d k a b s
  | .vmvs d b => Sys2Proof.Machine.execVmvs d b s
  | .vid d m => Sys2Proof.Machine.execVid d m s
  | .vsel d k a b => Sys2Proof.Machine.execVsel d k a b s
  | .vcompress d a => Sys2Proof.Machine.execVcompress d a s
  | .vslideup d k a b m => Sys2Proof.Machine.execVslideup d k a b m s
  | .vslidedn d k a b m => Sys2Proof.Machine.execVslidedn d k a b m s
  | .vperm d a b m => Sys2Proof.Machine.execVperm d a b m s
  | .vcvt d a t m => Sys2Proof.Machine.execVcvt d a t m s
  | .vqsf4 d a b m => Sys2Proof.Machine.execVqsf4 d a b m s
  | .vredsum d a m => Sys2Proof.Machine.execVredsum d a m s
  | .vredmax d a m => Sys2Proof.Machine.execVredmax d a m s
  | .vredmin d a m => Sys2Proof.Machine.execVredmin d a m s
  | .vreddot d a b m => Sys2Proof.Machine.execVreddot d a b m s
  | .vexp2 d a m => Sys2Proof.Machine.execVexp2 d a m s
  | .vlog2 d a m => Sys2Proof.Machine.execVlog2 d a m s
  | .vrcp d a m => Sys2Proof.Machine.execVrcp d a m s
  | .vrsqrt d a m => Sys2Proof.Machine.execVrsqrt d a m s
  | .vtanh d a m => Sys2Proof.Machine.execVtanh d a m s
  | .vsigm d a m => Sys2Proof.Machine.execVsigm d a m s
  | .vmodadd d k a b m => Sys2Proof.Machine.execVmodadd d k a b m s
  | .vmodsub d k a b m => Sys2Proof.Machine.execVmodsub d k a b m s
  | .vmodmul d k a b m => Sys2Proof.Machine.execVmodmul d k a b m s
  | .vmodred d a m => Sys2Proof.Machine.execVmodred d a m s
  | .vbflyct d k a b m => Sys2Proof.Machine.execVbflyct d k a b m s
  | .vbflygs d k a b m => Sys2Proof.Machine.execVbflygs d k a b m s
  | .vld d a m => Sys2Proof.Machine.execVld d a m s
  | .vlds d a b m => Sys2Proof.Machine.execVlds d a b m s
  | .vldx d a b m => Sys2Proof.Machine.execVldx d a b m s
  | .vfill d a => Sys2Proof.Machine.execVfill d a s
  | .vst d a m => Sys2Proof.Machine.execVst d a m s
  | .vsts d a b m => Sys2Proof.Machine.execVsts d a b m s
  | .vstx d a b m => Sys2Proof.Machine.execVstx d a b m s
  | .vscadd d a b m => Sys2Proof.Machine.execVscadd d a b m s
  | .vspill d a => Sys2Proof.Machine.execVspill d a s
  | .stbind d a => Sys2Proof.Machine.execStbind d a s
  | .strbind d a => Sys2Proof.Machine.execStrbind d a s
  | .stfbind d a => Sys2Proof.Machine.execStfbind d a s
  | .stunbind d => Sys2Proof.Machine.execStunbind d s
  | .cpy d a v => Sys2Proof.Machine.execCpy d a v s
  | .syncarm d a b => Sys2Proof.Machine.execSyncarm d a b s
  | .syncwait d a b => Sys2Proof.Machine.execSyncwait d a b s
  | .opa t k a b => Sys2Proof.Machine.execOpa t k a b s
  | .ops t k a b => Sys2Proof.Machine.execOps t k a b s
  | .opam t k a b => Sys2Proof.Machine.execOpam t k a b s
  | .tzero t => Sys2Proof.Machine.execTzero t s
  | .tld t a b => Sys2Proof.Machine.execTld t a b s
  | .tst t a b => Sys2Proof.Machine.execTst t a b s
  | .trdrow t k v i_ m => Sys2Proof.Machine.execTrdrow t k v i_ m s
  | .twrrow t k v i_ m => Sys2Proof.Machine.execTwrrow t k v i_ m s
  | .tepi t v b m => Sys2Proof.Machine.execTepi t v b m s
  | .skinitD t a => Sys2Proof.Machine.execSkinitD t a s
  | .skinitH t a => Sys2Proof.Machine.execSkinitH t a s
  | .skinitQ t a b => Sys2Proof.Machine.execSkinitQ t a b s
  | .skqadd m a b => Sys2Proof.Machine.execSkqadd m a b s
  | .skhadd m a b => Sys2Proof.Machine.execSkhadd m a b s
  | .skhaddW w m a b => Sys2Proof.Machine.execSkhaddW w m a b s
  | .skdadd m a b => Sys2Proof.Machine.execSkdadd m a b s
  | .skmerge a b => Sys2Proof.Machine.execSkmerge a b s
  | .skqq d a b => Sys2Proof.Machine.execSkqq d a b s
  | .skhtop d s_ a b => Sys2Proof.Machine.execSkhtop d s_ a b s
  | .skdcnt d a => Sys2Proof.Machine.execSkdcnt d a s
  | .vclipq d m a b => Sys2Proof.Machine.execVclipq d m a b s
  | .vscaleq d m a b => Sys2Proof.Machine.execVscaleq d m a b s
  | .rld d z a t q => Sys2Proof.Machine.execRld d z a t q s
  | .rst d a t q => Sys2Proof.Machine.execRst d a t q s
  | .rstp d a t q => Sys2Proof.Machine.execRstp d a t q s
  | .ramo d o a t w => Sys2Proof.Machine.execRamo d o a t w s
  | .rcas d a t => Sys2Proof.Machine.execRcas d a t s
  | .send d k a t => Sys2Proof.Machine.execSend d k a t s
  | .rnarrow r x t a s_ => Sys2Proof.Machine.execRnarrow r x t a s_ s
  | .rtld a t => Sys2Proof.Machine.execRtld a t s
  | .rtst a t => Sys2Proof.Machine.execRtst a t s
  | .rmov t s_ => Sys2Proof.Machine.execRmov t s_ s
  | .rrevoke d => Sys2Proof.Machine.execRrevoke d s
  | .rstm d a t q => Sys2Proof.Machine.execRstm d a t q s
  | .vstxr d a b m => Sys2Proof.Machine.execVstxr d a b m s
  | .collbegin d o a b => Sys2Proof.Machine.execCollbegin d o a b s
  | .collend d o a m => Sys2Proof.Machine.execCollend d o a m s
  | .collendExch a m => Sys2Proof.Machine.execCollendExch a m s
  | .collabort a => Sys2Proof.Machine.execCollabort a s
  | .illegalWord w => Sys2Proof.Machine.execIllegalWord w s
  | .pwrgoodLow => Sys2Proof.Machine.execPwrgoodLow s
  | .pwrgoodRise => Sys2Proof.Machine.execPwrgoodRise s
  | .perstAssert => Sys2Proof.Machine.execPerstAssert s
  | .perstDeassert => Sys2Proof.Machine.execPerstDeassert s
  | .identityPhase reconOk => Sys2Proof.Machine.execIdentityPhase reconOk s
  | .imagePhase counterOk => Sys2Proof.Machine.execImagePhase counterOk s
  | .diesPhase fail => Sys2Proof.Machine.execDiesPhase fail s
  | .firmwarePhase fail => Sys2Proof.Machine.execFirmwarePhase fail s
  | .storagePhase drives => Sys2Proof.Machine.execStoragePhase drives s
  | .ready => Sys2Proof.Machine.execReady s
  | .phaseTimeout => Sys2Proof.Machine.execPhaseTimeout s
  | .minVersionRaise => Sys2Proof.Machine.execMinVersionRaise s
  | .configRequest elapsed100ms place => Sys2Proof.Machine.execConfigRequest elapsed100ms place s
  | .currentGovernorSample die bubbles => Sys2Proof.Machine.execCurrentGovernorSample die bubbles s
  | .vcoreDroop dies => Sys2Proof.Machine.execVcoreDroop dies s
  | .thermalSample die degC => Sys2Proof.Machine.execThermalSample die degC s
  | .firmwareWatchdog => Sys2Proof.Machine.execFirmwareWatchdog s
  | .patrolScrub target found => Sys2Proof.Machine.execPatrolScrub target found s
  | .pldmMonitor => Sys2Proof.Machine.execPldmMonitor s
  | .pldmFirmwareUpdate slotB img => Sys2Proof.Machine.execPldmFirmwareUpdate slotB img s
  | .linkEnable p signal => Sys2Proof.Machine.execLinkEnable p signal s
  | .linkTrained p => Sys2Proof.Machine.execLinkTrained p s
  | .trainTimeout p => Sys2Proof.Machine.execTrainTimeout p s
  | .trainRetry p signal => Sys2Proof.Machine.execTrainRetry p signal s
  | .authEstablished l peerId peer => Sys2Proof.Machine.execAuthEstablished l peerId peer s
  | .authFail l => Sys2Proof.Machine.execAuthFail l s
  | .authTimeout l => Sys2Proof.Machine.execAuthTimeout l s
  | .linkSignalLoss p => Sys2Proof.Machine.execLinkSignalLoss p s
  | .linkHeartbeatTimeout l => Sys2Proof.Machine.execLinkHeartbeatTimeout l s
  | .linkHeartbeatSend l => Sys2Proof.Machine.execLinkHeartbeatSend l s
  | .linkKeyUpdate l => Sys2Proof.Machine.execLinkKeyUpdate l s
  | .linkDisable l => Sys2Proof.Machine.execLinkDisable l s
  | .linkReenable l => Sys2Proof.Machine.execLinkReenable l s
  | .frameSend l => Sys2Proof.Machine.execFrameSend l s
  | .frameReceive p f tagOk => Sys2Proof.Machine.execFrameReceive p f tagOk s
  | .switchRequest k => Sys2Proof.Machine.execSwitchRequest k s
  | .switchReply k => Sys2Proof.Machine.execSwitchReply k s
  | .multicastTimeout k => Sys2Proof.Machine.execMulticastTimeout k s
  | .requestTimeout core qtag => Sys2Proof.Machine.execRequestTimeout core qtag s
  | .flitAge => Sys2Proof.Machine.execFlitAge s
  | .requestAdmission k => Sys2Proof.Machine.execRequestAdmission k s
  | .retry k => Sys2Proof.Machine.execRetry k s
  | .reinject k => Sys2Proof.Machine.execReinject k s
  | .backnote k => Sys2Proof.Machine.execBacknote k s
  | .gapHalve core slot rt => Sys2Proof.Machine.execGapHalve core slot rt s
  | .peerEntryWrite eth idx val => Sys2Proof.Machine.execPeerEntryWrite eth idx val s
  | .ethFrameReceive eth idx frames => Sys2Proof.Machine.execEthFrameReceive eth idx frames s
  | .ethReplayTimeout eth idx => Sys2Proof.Machine.execEthReplayTimeout eth idx s
  | .ethReauth eth idx => Sys2Proof.Machine.execEthReauth eth idx s
  | .keyInstall slot key => Sys2Proof.Machine.execKeyInstall slot key s
  | .keyActivate slot => Sys2Proof.Machine.execKeyActivate slot s
  | .keyRetire slot => Sys2Proof.Machine.execKeyRetire slot s
  | .keyRotation => Sys2Proof.Machine.execKeyRotation s
  | .wrapNotice ctr => Sys2Proof.Machine.execWrapNotice ctr s
  | .revocationComplete k => Sys2Proof.Machine.execRevocationComplete k s
  | .linkMap src report => Sys2Proof.Machine.execLinkMap src report s
  | .idAssign lead table => Sys2Proof.Machine.execIdAssign lead table s
  | .leadDepart lead => Sys2Proof.Machine.execLeadDepart lead s
  | .domainMerge otherLead => Sys2Proof.Machine.execDomainMerge otherLead s
  | .mint k => Sys2Proof.Machine.execMint k s
  | .mintm k => Sys2Proof.Machine.execMintm k s
  | .revoke k => Sys2Proof.Machine.execRevoke k s
  | .openm k => Sys2Proof.Machine.execOpenm k s
  | .query k => Sys2Proof.Machine.execQuery k s
  | .leafConfirm asker gkey tunit base => Sys2Proof.Machine.execLeafConfirm asker gkey tunit base s
  | .loadRequest k => Sys2Proof.Machine.execLoadRequest k s
  | .storeRequest k => Sys2Proof.Machine.execStoreRequest k s
  | .pstoreRequest k => Sys2Proof.Machine.execPstoreRequest k s
  | .atomicRequest k => Sys2Proof.Machine.execAtomicRequest k s
  | .casRequest k => Sys2Proof.Machine.execCasRequest k s
  | .sendRequest k => Sys2Proof.Machine.execSendRequest k s
  | .putRequest k => Sys2Proof.Machine.execPutRequest k s
  | .getRequest k => Sys2Proof.Machine.execGetRequest k s
  | .strdataRequest k => Sys2Proof.Machine.execStrdataRequest k s
  | .mstoreRequest k => Sys2Proof.Machine.execMstoreRequest k s
  | .atomicRetransmit core qtag => Sys2Proof.Machine.execAtomicRetransmit core qtag s
  | .dataReply k => Sys2Proof.Machine.execDataReply k s
  | .ackReply k => Sys2Proof.Machine.execAckReply k s
  | .errorReply k => Sys2Proof.Machine.execErrorReply k s
  | .mackReply k => Sys2Proof.Machine.execMackReply k s
  | .faultRecord k => Sys2Proof.Machine.execFaultRecord k s
  | .nvmeCompletion cid nvst dnr => Sys2Proof.Machine.execNvmeCompletion cid nvst dnr s
  | .busyRangeClear k => Sys2Proof.Machine.execBusyRangeClear k s
  | .nvmeTimeout cid d => Sys2Proof.Machine.execNvmeTimeout cid d s
  | .controllerReadyTimeout drive => Sys2Proof.Machine.execControllerReadyTimeout drive s
  | .driveInboundRequest drive pa val => Sys2Proof.Machine.execDriveInboundRequest drive pa val s
  | .writeback k => Sys2Proof.Machine.execWriteback k s
  | .prefetch k => Sys2Proof.Machine.execPrefetch k s
  | .trim k => Sys2Proof.Machine.execTrim k s
  | .flush k => Sys2Proof.Machine.execFlush k s
  | .slotset k => Sys2Proof.Machine.execSlotset k s
  | .slotclr k => Sys2Proof.Machine.execSlotclr k s
  | .resume k => Sys2Proof.Machine.execResume k s
  | .siphonMessageDeliver k => Sys2Proof.Machine.execSiphonMessageDeliver k s
  | .tailWrite fn val => Sys2Proof.Machine.execTailWrite fn val s
  | .cplheadWrite fn val => Sys2Proof.Machine.execCplheadWrite fn val s
  | .ringConfigWrite fn off wide val => Sys2Proof.Machine.execRingConfigWrite fn off wide val s
  | .registerWrite fn off wide val => Sys2Proof.Machine.execRegisterWrite fn off wide val s
  | .configSpaceChange change => Sys2Proof.Machine.execConfigSpaceChange change s
  | .functionLevelReset fn => Sys2Proof.Machine.execFunctionLevelReset fn s
  | .ideError fn => Sys2Proof.Machine.execIdeError fn s
  | .ringEntry fn e tagOk => Sys2Proof.Machine.execRingEntry fn e tagOk s
  | .dmaError fn => Sys2Proof.Machine.execDmaError fn s
  | .completionWrite fn => Sys2Proof.Machine.execCompletionWrite fn s
  | .scrubComplete fn => Sys2Proof.Machine.execScrubComplete fn s
  | .lockInterfaceRequest fn secured => Sys2Proof.Machine.execLockInterfaceRequest fn secured s
  | .startInterfaceRequest fn secured nonce => Sys2Proof.Machine.execStartInterfaceRequest fn secured nonce s
  | .stopInterfaceRequest fn secured => Sys2Proof.Machine.execStopInterfaceRequest fn secured s
  | .getDeviceInterfaceState fn secured => Sys2Proof.Machine.execGetDeviceInterfaceState fn secured s
  | .getDeviceInterfaceReport fn secured => Sys2Proof.Machine.execGetDeviceInterfaceReport fn secured s
  | .keyExchange fn ok => Sys2Proof.Machine.execKeyExchange fn ok s
  | .endSession fn => Sys2Proof.Machine.execEndSession fn s
  | .keyUpdate fn reqToRsp rspToReq => Sys2Proof.Machine.execKeyUpdate fn reqToRsp rspToReq s
  | .heartbeat fn verified => Sys2Proof.Machine.execHeartbeat fn verified s
  | .sessionTimeout fn => Sys2Proof.Machine.execSessionTimeout fn s
  | .getMeasurements fn index signed => Sys2Proof.Machine.execGetMeasurements fn index signed s
  | .getCertificate fn certSlot => Sys2Proof.Machine.execGetCertificate fn certSlot s
  | .challenge fn nonce => Sys2Proof.Machine.execChallenge fn nonce s
  | .keyProg fn secured keySet key => Sys2Proof.Machine.execKeyProg fn secured keySet key s
  | .kSetGo fn secured keySet => Sys2Proof.Machine.execKSetGo fn secured keySet s
  | .kSetStop fn secured keySet => Sys2Proof.Machine.execKSetStop fn secured keySet s
  | .enclParam fn secured count storageKey key0 => Sys2Proof.Machine.execEnclParam fn secured count storageKey key0 s
  | .enclQuery fn secured => Sys2Proof.Machine.execEnclQuery fn secured s
  | .launchValidate k => Sys2Proof.Machine.execLaunchValidate k s
  | .placeLaunch queue pl => Sys2Proof.Machine.execPlaceLaunch queue pl s
  | .resumeLaunch launch => Sys2Proof.Machine.execResumeLaunch launch s
  | .priorityPreempt queue pl victims => Sys2Proof.Machine.execPriorityPreempt queue pl victims s
  | .enclaveSwitch core encl => Sys2Proof.Machine.execEnclaveSwitch core encl s
  | .launchComplete launch => Sys2Proof.Machine.execLaunchComplete launch s
  | .chargeDecay core => Sys2Proof.Machine.execChargeDecay core s
  | .chargeReport core => Sys2Proof.Machine.execChargeReport core s
  | .sluiceChargeDecay => Sys2Proof.Machine.execSluiceChargeDecay s
  | .stripEnd core group => Sys2Proof.Machine.execStripEnd core group s
  | .pumpRepetition core slot => Sys2Proof.Machine.execPumpRepetition core slot s
  | .streamFetch core slot stream n => Sys2Proof.Machine.execStreamFetch core slot stream n s
  | .copyPacket core => Sys2Proof.Machine.execCopyPacket core s
  | .weirApply place => Sys2Proof.Machine.execWeirApply place s
  | .collAbortSend core slot launch => Sys2Proof.Machine.execCollAbortSend core slot launch s
  | .timecmpReached core slot => Sys2Proof.Machine.execTimecmpReached core slot s
  | .interruptTake core slot => Sys2Proof.Machine.execInterruptTake core slot s
  | .deferredTrap core slot => Sys2Proof.Machine.execDeferredTrap core slot s
  | .signalDetect p => Sys2Proof.Machine.execSignalDetect p s
  | .routerCycle => Sys2Proof.Machine.execRouterCycle s
  | .injectionGapPassed core slot rt => Sys2Proof.Machine.execInjectionGapPassed core slot rt s
  | .controllerReady drive => Sys2Proof.Machine.execControllerReady drive s
  | .installAck src slot => Sys2Proof.Machine.execInstallAck src slot s
  | .leafConfirmationReceived k leaf isOpen eg => Sys2Proof.Machine.execLeafConfirmationReceived k leaf isOpen eg s
  | .coreReset core => Sys2Proof.Machine.execCoreReset core s

end Sys2Proof.Machine
end

