-- ==== Sys2Proof/Machine/Place.lean ====
section
/-! DEFINITION. An instruction word placed where the next step fetches: what stands for the load of a program from outside the package. -/

set_option Elab.async false

namespace Sys2Proof.Machine

/-- The words of the smallest launch packet: one hart on one core, entry 0, ASID 0 (05_host.md R132). -/
def miniPacket : List Word := [0, 0, 0, 0, 0, 0, 0, 0]

/-- Physical address of the top page table of the placed program. -/
def miniTable : Nat := 0x1000

/-- Physical address that virtual address 0 of the placed program translates to. -/
def miniText : Nat := 0x40000000

/-- One launch of one hart on the core and the slot whose turn it is. -/
def State.miniLaunch (s : State) : Launch :=
  { id := s.hst.nextLaunch, encl := s.c.mencl, words := miniPacket, origin := .ring 1 0, queue := 0, prio := 0, cores := [s.c.id], firstSlot := s.dueSlot,
    allot := 1, rbase := 0, seated := true, seatedAt := s.hst.seatClock, preempted := false, splitAt := [], endStat := none, eps := [], cbanks := [], frames := [] }

/-- The tables of the placed program: virtual addresses below 1 GiB are one page that user level may read, write and execute
(08_memory.md R220, R222). -/
def State.miniTables (s : State) : State :=
  { s with mem := { s.mem with
      hbm := cellsPut (cellsPut s.mem.hbm miniTable 8 (0x2000 + 1)) 0x2000 8 (miniText + 0x1F)
      hpoison := setDel (setDel s.mem.hpoison (lineOf miniTable)) (lineOf 0x2000)
      sealed := sealDel (sealDel s.mem.sealed (lineOf miniTable)) (lineOf 0x2000) } }

/-- Key id 0 has a key and belongs to the enclave, and guard entry 0 admits every access below 2^47 (08_memory.md R232, R235). -/
def State.miniGuards (s : State) : State :=
  { s with
    c := { s.c with
      mkeyid := s.c.mkeyid ||| 1
      guards := s.c.guards.set (0 : Fin 16) (BitVec.ofNat 64 (0x1F + s.c.mencl.toNat * 2 ^ 13 + 47 * 2 ^ 21))
      asidtab := 0, tlb := [], bubbles := 0 }
    pkg := { s.pkg with halved := 0 }
    hst := { s.hst with keySerial := s.hst.keySerial.set (0 : Fin 64) (max 1 (s.hst.keySerial.get (0 : Fin 64))) } }

/-- Place a launch of one hart whose first instruction is the word `w`: the hart stands at its entry (06_execution.md R145). -/
def State.miniPlace (s : State) (w : Nat) : State :=
  let l := s.miniLaunch
  let others := s.allHarts.map fun g => if g.holds s.c.id s.dueSlot then { g with seated := false } else g
  let h := { s.entryHart l s.c.id 0 0 with csr := { (s.entryHart l s.c.id 0 0).csr with satp := BitVec.ofNat 64 miniTable } }
  let s1 := s.miniTables.miniGuards
  { s1 with
    h := h, harts := others
    mem := { s1.mem with
      hbm := cellsPut s1.mem.hbm miniText 4 w
      hpoison := setDel s1.mem.hpoison (lineOf miniText)
      sealed := sealDel s1.mem.sealed (lineOf miniText) }
    hst := { s1.hst with launches := s1.hst.launches ++ [l], nextLaunch := l.id + 1 } }

/-- The word `w` placed where the next step fetches. -/
def State.placeWord (s : State) (w : Nat) : State :=
  let s0 := { s with sched := [] }
  match s0.startVisit s0.c.id with
  | .over _ => s0.miniPlace w
  | .run _ t => match t.check t.h.pc 4 4 .fetch with
    | .error _ => s0.miniPlace w
    | .ok hit => (s0.writeLoc hit.loc 4 w).getD (s0.miniPlace w)

end Sys2Proof.Machine
end

