-- ==== Sys2Proof/Machine/Step.lean ====
section
/-! DEFINITION. The step: the next turn of the schedule, or a visit of the core in focus. -/

set_option Elab.async false

namespace Sys2Proof.Machine

/-- A visit of a core: the hart in the slot whose turn it is issues its next instruction (07_core.md R173). -/
def visit (core : Nat) (s : State) : Host.Outcome State Fault Refusal :=
  match s.startVisit core with
  | .over t => .next t.tick
  | .run i t => match exec i t with
    | .next u => .next (t.endVisit (t.drained u))
    | .fault f => .fault f
    | .refused r => .refused r

/-- One step. An event turn names a row that no word encodes; a turn that names a word's row, or an event that FAULT shuts out, does nothing. -/
def step (s : State) : Host.Outcome State Fault Refusal :=
  match s.sched with
  | [] => visit s.c.id s
  | .visit n :: r => visit n { s with sched := r }
  | .event i :: r => if i.isWord || !s.admits i then .next { s with sched := r } else exec i { s with sched := r }
  | .perform slot k :: r => .next (({ s with sched := r } : State).performTurn slot k)
  | t :: r => .next (({ s with sched := r } : State).ask t)

/-- The state with an instruction word where the next step fetches: in memory at the program counter of the hart whose visit comes, or, when
no hart would fetch, in a launch of one hart placed on the core in focus. -/
def State.withFetchWord (s : State) (_nbits w : Nat) : State := s.placeWord (w % 2 ^ 32)

end Sys2Proof.Machine
end

