-- ==== Sys2Proof/Laws/Decode.lean ====
section
/-! SUPPORT. What each row of the decoder reads: one lemma per row, and the fields of a word built from a number. -/

set_option Elab.async false

namespace Sys2Proof.Laws

/-- A field of a word given as a number below 2^32. -/
theorem fldN_ofNat (N lo len : Nat) (h : N < 2 ^ 32) : fldN (BitVec.ofNat 32 N) lo len = N / 2 ^ lo % 2 ^ len := by
  unfold fldN; rw [BitVec.toNat_ofNat, Nat.mod_eq_of_lt h]

/-- A field of a word given as a number, as the value it was built from. -/
theorem fld_ofNat {len : Nat} (N lo : Nat) (v : BitVec len) (h : N < 2 ^ 32) (e : N / 2 ^ lo % 2 ^ len = v.toNat) :
    fld (BitVec.ofNat 32 N) lo len = v := by
  apply BitVec.eq_of_toNat_eq
  unfold fld; rw [BitVec.toNat_ofNat, BitVec.toNat_ofNat, Nat.mod_eq_of_lt h]; exact e

/-- A field of a number that is split at the field. -/
theorem field_at {N lo len : Nat} (small v rest : Nat) (hs : small < 2 ^ lo) (hv : v < 2 ^ len) (e : N = small + 2 ^ lo * (v + 2 ^ len * rest)) :
    N / 2 ^ lo % 2 ^ len = v := by
  subst e
  rw [Nat.add_mul_div_left _ _ (Nat.two_pow_pos lo), Nat.div_eq_of_lt hs, Nat.zero_add, Nat.add_mul_mod_self_left, Nat.mod_eq_of_lt hv]

theorem decode_addi (w : IWord) (h0 : fldN w 0 7 = 1) (h1 : fldN w 12 3 = 0) :
    decode w = .addi (fld w 7 5) (fld w 15 5) (fld w 20 12) := by
  unfold decode decodeRow; rw [h0]; simp only; unfold decodeOpi; rw [h1]; rfl

theorem decode_andi (w : IWord) (h0 : fldN w 0 7 = 1) (h1 : fldN w 12 3 = 1) :
    decode w = .andi (fld w 7 5) (fld w 15 5) (fld w 20 12) := by
  unfold decode decodeRow; rw [h0]; simp only; unfold decodeOpi; rw [h1]; rfl

theorem decode_ori (w : IWord) (h0 : fldN w 0 7 = 1) (h1 : fldN w 12 3 = 2) :
    decode w = .ori (fld w 7 5) (fld w 15 5) (fld w 20 12) := by
  unfold decode decodeRow; rw [h0]; simp only; unfold decodeOpi; rw [h1]; rfl

theorem decode_xori (w : IWord) (h0 : fldN w 0 7 = 1) (h1 : fldN w 12 3 = 3) :
    decode w = .xori (fld w 7 5) (fld w 15 5) (fld w 20 12) := by
  unfold decode decodeRow; rw [h0]; simp only; unfold decodeOpi; rw [h1]; rfl

theorem decode_slti (w : IWord) (h0 : fldN w 0 7 = 1) (h1 : fldN w 12 3 = 4) :
    decode w = .slti (fld w 7 5) (fld w 15 5) (fld w 20 12) := by
  unfold decode decodeRow; rw [h0]; simp only; unfold decodeOpi; rw [h1]; rfl

theorem decode_sltiu (w : IWord) (h0 : fldN w 0 7 = 1) (h1 : fldN w 12 3 = 5) :
    decode w = .sltiu (fld w 7 5) (fld w 15 5) (fld w 20 12) := by
  unfold decode decodeRow; rw [h0]; simp only; unfold decodeOpi; rw [h1]; rfl

theorem decode_slli (w : IWord) (h0 : fldN w 0 7 = 1) (h1 : fldN w 12 3 = 6) (h2 : fldN w 26 6 = 0) :
    decode w = .slli (fld w 7 5) (fld w 15 5) (fld w 20 6) := by
  unfold decode decodeRow; rw [h0]; simp only; unfold decodeOpi; rw [h1]; rw [h2]; rfl

theorem decode_srli (w : IWord) (h0 : fldN w 0 7 = 1) (h1 : fldN w 12 3 = 6) (h2 : fldN w 26 6 = 1) :
    decode w = .srli (fld w 7 5) (fld w 15 5) (fld w 20 6) := by
  unfold decode decodeRow; rw [h0]; simp only; unfold decodeOpi; rw [h1]; rw [h2]; rfl

theorem decode_srai (w : IWord) (h0 : fldN w 0 7 = 1) (h1 : fldN w 12 3 = 6) (h2 : fldN w 26 6 = 2) :
    decode w = .srai (fld w 7 5) (fld w 15 5) (fld w 20 6) := by
  unfold decode decodeRow; rw [h0]; simp only; unfold decodeOpi; rw [h1]; rw [h2]; rfl

theorem decode_add (w : IWord) (h0 : fldN w 0 7 = 2) (h1 : fldN w 25 7 = 0) (h2 : fldN w 12 3 = 0) :
    decode w = .add (fld w 7 5) (fld w 15 5) (fld w 20 5) := by
  unfold decode decodeRow; rw [h0]; simp only; unfold decodeOpr; rw [h1]; rw [h2]; rfl

theorem decode_sub (w : IWord) (h0 : fldN w 0 7 = 2) (h1 : fldN w 25 7 = 1) (h2 : fldN w 12 3 = 0) :
    decode w = .sub (fld w 7 5) (fld w 15 5) (fld w 20 5) := by
  unfold decode decodeRow; rw [h0]; simp only; unfold decodeOpr; rw [h1]; rw [h2]; rfl

theorem decode_and (w : IWord) (h0 : fldN w 0 7 = 2) (h1 : fldN w 25 7 = 2) (h2 : fldN w 12 3 = 0) :
    decode w = .and (fld w 7 5) (fld w 15 5) (fld w 20 5) := by
  unfold decode decodeRow; rw [h0]; simp only; unfold decodeOpr; rw [h1]; rw [h2]; rfl

theorem decode_or (w : IWord) (h0 : fldN w 0 7 = 2) (h1 : fldN w 25 7 = 3) (h2 : fldN w 12 3 = 0) :
    decode w = .or (fld w 7 5) (fld w 15 5) (fld w 20 5) := by
  unfold decode decodeRow; rw [h0]; simp only; unfold decodeOpr; rw [h1]; rw [h2]; rfl

theorem decode_xor (w : IWord) (h0 : fldN w 0 7 = 2) (h1 : fldN w 25 7 = 4) (h2 : fldN w 12 3 = 0) :
    decode w = .xor (fld w 7 5) (fld w 15 5) (fld w 20 5) := by
  unfold decode decodeRow; rw [h0]; simp only; unfold decodeOpr; rw [h1]; rw [h2]; rfl

theorem decode_sll (w : IWord) (h0 : fldN w 0 7 = 2) (h1 : fldN w 25 7 = 5) (h2 : fldN w 12 3 = 0) :
    decode w = .sll (fld w 7 5) (fld w 15 5) (fld w 20 5) := by
  unfold decode decodeRow; rw [h0]; simp only; unfold decodeOpr; rw [h1]; rw [h2]; rfl

theorem decode_srl (w : IWord) (h0 : fldN w 0 7 = 2) (h1 : fldN w 25 7 = 6) (h2 : fldN w 12 3 = 0) :
    decode w = .srl (fld w 7 5) (fld w 15 5) (fld w 20 5) := by
  unfold decode decodeRow; rw [h0]; simp only; unfold decodeOpr; rw [h1]; rw [h2]; rfl

theorem decode_sra (w : IWord) (h0 : fldN w 0 7 = 2) (h1 : fldN w 25 7 = 7) (h2 : fldN w 12 3 = 0) :
    decode w = .sra (fld w 7 5) (fld w 15 5) (fld w 20 5) := by
  unfold decode decodeRow; rw [h0]; simp only; unfold decodeOpr; rw [h1]; rw [h2]; rfl

theorem decode_slt (w : IWord) (h0 : fldN w 0 7 = 2) (h1 : fldN w 25 7 = 8) (h2 : fldN w 12 3 = 0) :
    decode w = .slt (fld w 7 5) (fld w 15 5) (fld w 20 5) := by
  unfold decode decodeRow; rw [h0]; simp only; unfold decodeOpr; rw [h1]; rw [h2]; rfl

theorem decode_sltu (w : IWord) (h0 : fldN w 0 7 = 2) (h1 : fldN w 25 7 = 9) (h2 : fldN w 12 3 = 0) :
    decode w = .sltu (fld w 7 5) (fld w 15 5) (fld w 20 5) := by
  unfold decode decodeRow; rw [h0]; simp only; unfold decodeOpr; rw [h1]; rw [h2]; rfl

theorem decode_mul (w : IWord) (h0 : fldN w 0 7 = 2) (h1 : fldN w 25 7 = 10) (h2 : fldN w 12 3 = 0) :
    decode w = .mul (fld w 7 5) (fld w 15 5) (fld w 20 5) := by
  unfold decode decodeRow; rw [h0]; simp only; unfold decodeOpr; rw [h1]; rw [h2]; rfl

theorem decode_mulh (w : IWord) (h0 : fldN w 0 7 = 2) (h1 : fldN w 25 7 = 11) (h2 : fldN w 12 3 = 0) :
    decode w = .mulh (fld w 7 5) (fld w 15 5) (fld w 20 5) := by
  unfold decode decodeRow; rw [h0]; simp only; unfold decodeOpr; rw [h1]; rw [h2]; rfl

theorem decode_mulhu (w : IWord) (h0 : fldN w 0 7 = 2) (h1 : fldN w 25 7 = 12) (h2 : fldN w 12 3 = 0) :
    decode w = .mulhu (fld w 7 5) (fld w 15 5) (fld w 20 5) := by
  unfold decode decodeRow; rw [h0]; simp only; unfold decodeOpr; rw [h1]; rw [h2]; rfl

theorem decode_div (w : IWord) (h0 : fldN w 0 7 = 2) (h1 : fldN w 25 7 = 13) (h2 : fldN w 12 3 = 0) :
    decode w = .div (fld w 7 5) (fld w 15 5) (fld w 20 5) := by
  unfold decode decodeRow; rw [h0]; simp only; unfold decodeOpr; rw [h1]; rw [h2]; rfl

theorem decode_divu (w : IWord) (h0 : fldN w 0 7 = 2) (h1 : fldN w 25 7 = 14) (h2 : fldN w 12 3 = 0) :
    decode w = .divu (fld w 7 5) (fld w 15 5) (fld w 20 5) := by
  unfold decode decodeRow; rw [h0]; simp only; unfold decodeOpr; rw [h1]; rw [h2]; rfl

theorem decode_rem (w : IWord) (h0 : fldN w 0 7 = 2) (h1 : fldN w 25 7 = 15) (h2 : fldN w 12 3 = 0) :
    decode w = .rem (fld w 7 5) (fld w 15 5) (fld w 20 5) := by
  unfold decode decodeRow; rw [h0]; simp only; unfold decodeOpr; rw [h1]; rw [h2]; rfl

theorem decode_remu (w : IWord) (h0 : fldN w 0 7 = 2) (h1 : fldN w 25 7 = 16) (h2 : fldN w 12 3 = 0) :
    decode w = .remu (fld w 7 5) (fld w 15 5) (fld w 20 5) := by
  unfold decode decodeRow; rw [h0]; simp only; unfold decodeOpr; rw [h1]; rw [h2]; rfl

theorem decode_min (w : IWord) (h0 : fldN w 0 7 = 2) (h1 : fldN w 25 7 = 17) (h2 : fldN w 12 3 = 0) :
    decode w = .min (fld w 7 5) (fld w 15 5) (fld w 20 5) := by
  unfold decode decodeRow; rw [h0]; simp only; unfold decodeOpr; rw [h1]; rw [h2]; rfl

theorem decode_max (w : IWord) (h0 : fldN w 0 7 = 2) (h1 : fldN w 25 7 = 18) (h2 : fldN w 12 3 = 0) :
    decode w = .max (fld w 7 5) (fld w 15 5) (fld w 20 5) := by
  unfold decode decodeRow; rw [h0]; simp only; unfold decodeOpr; rw [h1]; rw [h2]; rfl

theorem decode_minu (w : IWord) (h0 : fldN w 0 7 = 2) (h1 : fldN w 25 7 = 19) (h2 : fldN w 12 3 = 0) :
    decode w = .minu (fld w 7 5) (fld w 15 5) (fld w 20 5) := by
  unfold decode decodeRow; rw [h0]; simp only; unfold decodeOpr; rw [h1]; rw [h2]; rfl

theorem decode_maxu (w : IWord) (h0 : fldN w 0 7 = 2) (h1 : fldN w 25 7 = 20) (h2 : fldN w 12 3 = 0) :
    decode w = .maxu (fld w 7 5) (fld w 15 5) (fld w 20 5) := by
  unfold decode decodeRow; rw [h0]; simp only; unfold decodeOpr; rw [h1]; rw [h2]; rfl

theorem decode_clz (w : IWord) (h0 : fldN w 0 7 = 2) (h1 : fldN w 25 7 = 21) (h2 : fldN w 12 3 = 0) (h3 : fldN w 20 5 = 0) :
    decode w = .clz (fld w 7 5) (fld w 15 5) := by
  unfold decode decodeRow; rw [h0]; simp only; unfold decodeOpr; rw [h1]; rw [h2]; rw [h3]; rfl

theorem decode_ctz (w : IWord) (h0 : fldN w 0 7 = 2) (h1 : fldN w 25 7 = 22) (h2 : fldN w 12 3 = 0) (h3 : fldN w 20 5 = 0) :
    decode w = .ctz (fld w 7 5) (fld w 15 5) := by
  unfold decode decodeRow; rw [h0]; simp only; unfold decodeOpr; rw [h1]; rw [h2]; rw [h3]; rfl

theorem decode_popc (w : IWord) (h0 : fldN w 0 7 = 2) (h1 : fldN w 25 7 = 23) (h2 : fldN w 12 3 = 0) (h3 : fldN w 20 5 = 0) :
    decode w = .popc (fld w 7 5) (fld w 15 5) := by
  unfold decode decodeRow; rw [h0]; simp only; unfold decodeOpr; rw [h1]; rw [h2]; rw [h3]; rfl

theorem decode_mulmod (w : IWord) (h0 : fldN w 0 7 = 2) (h1 : fldN w 25 7 = 24) (h2 : fldN w 12 3 = 0) :
    decode w = .mulmod (fld w 7 5) (fld w 15 5) (fld w 20 5) := by
  unfold decode decodeRow; rw [h0]; simp only; unfold decodeOpr; rw [h1]; rw [h2]; rfl

theorem decode_lui (w : IWord) (h0 : fldN w 0 7 = 3) :
    decode w = .lui (fld w 7 5) (fld w 12 20) := by
  unfold decode decodeRow; rw [h0]; simp only; unfold decodeLui; rfl

theorem decode_auipc (w : IWord) (h0 : fldN w 0 7 = 4) :
    decode w = .auipc (fld w 7 5) (fld w 12 20) := by
  unfold decode decodeRow; rw [h0]; simp only; unfold decodeAuipc; rfl

theorem decode_lb (w : IWord) (h0 : fldN w 0 7 = 5) (h1 : fldN w 12 3 = 0) :
    decode w = .lb (fld w 7 5) (fld w 15 5) (fld w 20 12) := by
  unfold decode decodeRow; rw [h0]; simp only; unfold decodeLoad; rw [h1]; rfl

theorem decode_lh (w : IWord) (h0 : fldN w 0 7 = 5) (h1 : fldN w 12 3 = 1) :
    decode w = .lh (fld w 7 5) (fld w 15 5) (fld w 20 12) := by
  unfold decode decodeRow; rw [h0]; simp only; unfold decodeLoad; rw [h1]; rfl

theorem decode_lw (w : IWord) (h0 : fldN w 0 7 = 5) (h1 : fldN w 12 3 = 2) :
    decode w = .lw (fld w 7 5) (fld w 15 5) (fld w 20 12) := by
  unfold decode decodeRow; rw [h0]; simp only; unfold decodeLoad; rw [h1]; rfl

theorem decode_ld (w : IWord) (h0 : fldN w 0 7 = 5) (h1 : fldN w 12 3 = 3) :
    decode w = .ld (fld w 7 5) (fld w 15 5) (fld w 20 12) := by
  unfold decode decodeRow; rw [h0]; simp only; unfold decodeLoad; rw [h1]; rfl

theorem decode_lbu (w : IWord) (h0 : fldN w 0 7 = 5) (h1 : fldN w 12 3 = 4) :
    decode w = .lbu (fld w 7 5) (fld w 15 5) (fld w 20 12) := by
  unfold decode decodeRow; rw [h0]; simp only; unfold decodeLoad; rw [h1]; rfl

theorem decode_lhu (w : IWord) (h0 : fldN w 0 7 = 5) (h1 : fldN w 12 3 = 5) :
    decode w = .lhu (fld w 7 5) (fld w 15 5) (fld w 20 12) := by
  unfold decode decodeRow; rw [h0]; simp only; unfold decodeLoad; rw [h1]; rfl

theorem decode_lwu (w : IWord) (h0 : fldN w 0 7 = 5) (h1 : fldN w 12 3 = 6) :
    decode w = .lwu (fld w 7 5) (fld w 15 5) (fld w 20 12) := by
  unfold decode decodeRow; rw [h0]; simp only; unfold decodeLoad; rw [h1]; rfl

theorem decode_sb (w : IWord) (h0 : fldN w 0 7 = 6) (h1 : fldN w 12 3 = 0) :
    decode w = .sb (fld w 15 5) (fld w 20 5) (BitVec.ofNat 12 (fldN w 25 7 * 32 + fldN w 7 5)) := by
  unfold decode decodeRow; rw [h0]; simp only; unfold decodeStore; rw [h1]; rfl

theorem decode_sh (w : IWord) (h0 : fldN w 0 7 = 6) (h1 : fldN w 12 3 = 1) :
    decode w = .sh (fld w 15 5) (fld w 20 5) (BitVec.ofNat 12 (fldN w 25 7 * 32 + fldN w 7 5)) := by
  unfold decode decodeRow; rw [h0]; simp only; unfold decodeStore; rw [h1]; rfl

theorem decode_sw (w : IWord) (h0 : fldN w 0 7 = 6) (h1 : fldN w 12 3 = 2) :
    decode w = .sw (fld w 15 5) (fld w 20 5) (BitVec.ofNat 12 (fldN w 25 7 * 32 + fldN w 7 5)) := by
  unfold decode decodeRow; rw [h0]; simp only; unfold decodeStore; rw [h1]; rfl

theorem decode_sd (w : IWord) (h0 : fldN w 0 7 = 6) (h1 : fldN w 12 3 = 3) :
    decode w = .sd (fld w 15 5) (fld w 20 5) (BitVec.ofNat 12 (fldN w 25 7 * 32 + fldN w 7 5)) := by
  unfold decode decodeRow; rw [h0]; simp only; unfold decodeStore; rw [h1]; rfl

theorem decode_beq (w : IWord) (h0 : fldN w 0 7 = 7) (h1 : fldN w 12 3 = 0) :
    decode w = .beq (fld w 15 5) (fld w 20 5) (BitVec.ofNat 12 (fldN w 25 7 * 32 + fldN w 7 5)) := by
  unfold decode decodeRow; rw [h0]; simp only; unfold decodeBranch; rw [h1]; rfl

theorem decode_bne (w : IWord) (h0 : fldN w 0 7 = 7) (h1 : fldN w 12 3 = 1) :
    decode w = .bne (fld w 15 5) (fld w 20 5) (BitVec.ofNat 12 (fldN w 25 7 * 32 + fldN w 7 5)) := by
  unfold decode decodeRow; rw [h0]; simp only; unfold decodeBranch; rw [h1]; rfl

theorem decode_blt (w : IWord) (h0 : fldN w 0 7 = 7) (h1 : fldN w 12 3 = 2) :
    decode w = .blt (fld w 15 5) (fld w 20 5) (BitVec.ofNat 12 (fldN w 25 7 * 32 + fldN w 7 5)) := by
  unfold decode decodeRow; rw [h0]; simp only; unfold decodeBranch; rw [h1]; rfl

theorem decode_bge (w : IWord) (h0 : fldN w 0 7 = 7) (h1 : fldN w 12 3 = 3) :
    decode w = .bge (fld w 15 5) (fld w 20 5) (BitVec.ofNat 12 (fldN w 25 7 * 32 + fldN w 7 5)) := by
  unfold decode decodeRow; rw [h0]; simp only; unfold decodeBranch; rw [h1]; rfl

theorem decode_bltu (w : IWord) (h0 : fldN w 0 7 = 7) (h1 : fldN w 12 3 = 4) :
    decode w = .bltu (fld w 15 5) (fld w 20 5) (BitVec.ofNat 12 (fldN w 25 7 * 32 + fldN w 7 5)) := by
  unfold decode decodeRow; rw [h0]; simp only; unfold decodeBranch; rw [h1]; rfl

theorem decode_bgeu (w : IWord) (h0 : fldN w 0 7 = 7) (h1 : fldN w 12 3 = 5) :
    decode w = .bgeu (fld w 15 5) (fld w 20 5) (BitVec.ofNat 12 (fldN w 25 7 * 32 + fldN w 7 5)) := by
  unfold decode decodeRow; rw [h0]; simp only; unfold decodeBranch; rw [h1]; rfl

theorem decode_jal (w : IWord) (h0 : fldN w 0 7 = 8) :
    decode w = .jal (fld w 7 5) (fld w 12 20) := by
  unfold decode decodeRow; rw [h0]; simp only; unfold decodeJal; rfl

theorem decode_jalr (w : IWord) (h0 : fldN w 0 7 = 9) (h1 : fldN w 12 3 = 0) :
    decode w = .jalr (fld w 7 5) (fld w 15 5) (fld w 20 12) := by
  unfold decode decodeRow; rw [h0]; simp only; unfold decodeJalr; rw [h1]; rfl

theorem decode_fadd (w : IWord) (h0 : fldN w 0 7 = 10) (h1 : fldN w 25 7 = 0) (h2 : fldN w 14 1 = 0) :
    decode w = .fadd (fld w 7 5) (fld w 12 2) (fld w 15 5) (fld w 20 5) := by
  unfold decode decodeRow; rw [h0]; simp only; unfold decodeFps; rw [h1]; rw [h2]; rfl

theorem decode_fsub (w : IWord) (h0 : fldN w 0 7 = 10) (h1 : fldN w 25 7 = 1) (h2 : fldN w 14 1 = 0) :
    decode w = .fsub (fld w 7 5) (fld w 12 2) (fld w 15 5) (fld w 20 5) := by
  unfold decode decodeRow; rw [h0]; simp only; unfold decodeFps; rw [h1]; rw [h2]; rfl

theorem decode_fmul (w : IWord) (h0 : fldN w 0 7 = 10) (h1 : fldN w 25 7 = 2) (h2 : fldN w 14 1 = 0) :
    decode w = .fmul (fld w 7 5) (fld w 12 2) (fld w 15 5) (fld w 20 5) := by
  unfold decode decodeRow; rw [h0]; simp only; unfold decodeFps; rw [h1]; rw [h2]; rfl

theorem decode_fdiv (w : IWord) (h0 : fldN w 0 7 = 10) (h1 : fldN w 25 7 = 3) (h2 : fldN w 14 1 = 0) :
    decode w = .fdiv (fld w 7 5) (fld w 12 2) (fld w 15 5) (fld w 20 5) := by
  unfold decode decodeRow; rw [h0]; simp only; unfold decodeFps; rw [h1]; rw [h2]; rfl

theorem decode_fsqrt (w : IWord) (h0 : fldN w 0 7 = 10) (h1 : fldN w 25 7 = 4) (h2 : fldN w 14 1 = 0) (h3 : fldN w 20 5 = 0) :
    decode w = .fsqrt (fld w 7 5) (fld w 12 2) (fld w 15 5) := by
  unfold decode decodeRow; rw [h0]; simp only; unfold decodeFps; rw [h1]; rw [h2]; rw [h3]; rfl

theorem decode_fmin (w : IWord) (h0 : fldN w 0 7 = 10) (h1 : fldN w 25 7 = 5) (h2 : fldN w 14 1 = 0) :
    decode w = .fmin (fld w 7 5) (fld w 12 2) (fld w 15 5) (fld w 20 5) := by
  unfold decode decodeRow; rw [h0]; simp only; unfold decodeFps; rw [h1]; rw [h2]; rfl

theorem decode_fmax (w : IWord) (h0 : fldN w 0 7 = 10) (h1 : fldN w 25 7 = 6) (h2 : fldN w 14 1 = 0) :
    decode w = .fmax (fld w 7 5) (fld w 12 2) (fld w 15 5) (fld w 20 5) := by
  unfold decode decodeRow; rw [h0]; simp only; unfold decodeFps; rw [h1]; rw [h2]; rfl

theorem decode_fmac (w : IWord) (h0 : fldN w 0 7 = 10) (h1 : fldN w 25 7 = 7) (h2 : fldN w 14 1 = 0) :
    decode w = .fmac (fld w 7 5) (fld w 12 2) (fld w 15 5) (fld w 20 5) := by
  unfold decode decodeRow; rw [h0]; simp only; unfold decodeFps; rw [h1]; rw [h2]; rfl

theorem decode_feq (w : IWord) (h0 : fldN w 0 7 = 10) (h1 : fldN w 25 7 = 8) (h2 : fldN w 14 1 = 0) :
    decode w = .feq (fld w 7 5) (fld w 12 2) (fld w 15 5) (fld w 20 5) := by
  unfold decode decodeRow; rw [h0]; simp only; unfold decodeFps; rw [h1]; rw [h2]; rfl

theorem decode_flt (w : IWord) (h0 : fldN w 0 7 = 10) (h1 : fldN w 25 7 = 9) (h2 : fldN w 14 1 = 0) :
    decode w = .flt (fld w 7 5) (fld w 12 2) (fld w 15 5) (fld w 20 5) := by
  unfold decode decodeRow; rw [h0]; simp only; unfold decodeFps; rw [h1]; rw [h2]; rfl

theorem decode_fle (w : IWord) (h0 : fldN w 0 7 = 10) (h1 : fldN w 25 7 = 10) (h2 : fldN w 14 1 = 0) :
    decode w = .fle (fld w 7 5) (fld w 12 2) (fld w 15 5) (fld w 20 5) := by
  unfold decode decodeRow; rw [h0]; simp only; unfold decodeFps; rw [h1]; rw [h2]; rfl

theorem decode_fclass (w : IWord) (h0 : fldN w 0 7 = 10) (h1 : fldN w 25 7 = 11) (h2 : fldN w 14 1 = 0) (h3 : fldN w 20 5 = 0) :
    decode w = .fclass (fld w 7 5) (fld w 12 2) (fld w 15 5) := by
  unfold decode decodeRow; rw [h0]; simp only; unfold decodeFps; rw [h1]; rw [h2]; rw [h3]; rfl

theorem decode_fsgnj (w : IWord) (h0 : fldN w 0 7 = 10) (h1 : fldN w 25 7 = 12) (h2 : fldN w 14 1 = 0) :
    decode w = .fsgnj (fld w 7 5) (fld w 12 2) (fld w 15 5) (fld w 20 5) := by
  unfold decode decodeRow; rw [h0]; simp only; unfold decodeFps; rw [h1]; rw [h2]; rfl

theorem decode_fsgnjn (w : IWord) (h0 : fldN w 0 7 = 10) (h1 : fldN w 25 7 = 13) (h2 : fldN w 14 1 = 0) :
    decode w = .fsgnjn (fld w 7 5) (fld w 12 2) (fld w 15 5) (fld w 20 5) := by
  unfold decode decodeRow; rw [h0]; simp only; unfold decodeFps; rw [h1]; rw [h2]; rfl

theorem decode_fsgnjx (w : IWord) (h0 : fldN w 0 7 = 10) (h1 : fldN w 25 7 = 14) (h2 : fldN w 14 1 = 0) :
    decode w = .fsgnjx (fld w 7 5) (fld w 12 2) (fld w 15 5) (fld w 20 5) := by
  unfold decode decodeRow; rw [h0]; simp only; unfold decodeFps; rw [h1]; rw [h2]; rfl

theorem decode_fcvtif (w : IWord) (h0 : fldN w 0 7 = 10) (h1 : fldN w 25 7 = 15) (h2 : fldN w 14 1 = 0) :
    decode w = .fcvtif (fld w 7 5) (fld w 12 2) (fld w 15 5) (fld w 20 5) := by
  unfold decode decodeRow; rw [h0]; simp only; unfold decodeFps; rw [h1]; rw [h2]; rfl

theorem decode_fcvtfi (w : IWord) (h0 : fldN w 0 7 = 10) (h1 : fldN w 25 7 = 16) (h2 : fldN w 14 1 = 0) :
    decode w = .fcvtfi (fld w 7 5) (fld w 12 2) (fld w 15 5) (fld w 20 5) := by
  unfold decode decodeRow; rw [h0]; simp only; unfold decodeFps; rw [h1]; rw [h2]; rfl

theorem decode_fcvtff (w : IWord) (h0 : fldN w 0 7 = 10) (h1 : fldN w 25 7 = 17) (h2 : fldN w 14 1 = 0) :
    decode w = .fcvtff (fld w 7 5) (fld w 12 2) (fld w 15 5) (fld w 20 5) := by
  unfold decode decodeRow; rw [h0]; simp only; unfold decodeFps; rw [h1]; rw [h2]; rfl

theorem decode_ldfe (w : IWord) (h0 : fldN w 0 7 = 11) (h1 : fldN w 25 7 = 0) (h2 : fldN w 12 3 = 0) (h3 : fldN w 20 5 = 0) :
    decode w = .ldfe (fld w 7 5) (fld w 15 5) := by
  unfold decode decodeRow; rw [h0]; simp only; unfold decodeSync; rw [h1]; rw [h2]; rw [h3]; rfl

theorem decode_ldff (w : IWord) (h0 : fldN w 0 7 = 11) (h1 : fldN w 25 7 = 1) (h2 : fldN w 12 3 = 0) (h3 : fldN w 20 5 = 0) :
    decode w = .ldff (fld w 7 5) (fld w 15 5) := by
  unfold decode decodeRow; rw [h0]; simp only; unfold decodeSync; rw [h1]; rw [h2]; rw [h3]; rfl

theorem decode_stef (w : IWord) (h0 : fldN w 0 7 = 11) (h1 : fldN w 25 7 = 2) (h2 : fldN w 12 3 = 0) :
    decode w = .stef (fld w 7 5) (fld w 15 5) (fld w 20 5) := by
  unfold decode decodeRow; rw [h0]; simp only; unfold decodeSync; rw [h1]; rw [h2]; rfl

theorem decode_stf (w : IWord) (h0 : fldN w 0 7 = 11) (h1 : fldN w 25 7 = 3) (h2 : fldN w 7 8 = 0) :
    decode w = .stf (fld w 15 5) (fld w 20 5) := by
  unfold decode decodeRow; rw [h0]; simp only; unfold decodeSync; rw [h1]; rw [h2]; rfl

theorem decode_feclr (w : IWord) (h0 : fldN w 0 7 = 11) (h1 : fldN w 25 7 = 4) (h2 : fldN w 7 8 = 0) (h3 : fldN w 20 5 = 0) :
    decode w = .feclr (fld w 15 5) := by
  unfold decode decodeRow; rw [h0]; simp only; unfold decodeSync; rw [h1]; rw [h2]; rw [h3]; rfl

theorem decode_fepeek (w : IWord) (h0 : fldN w 0 7 = 11) (h1 : fldN w 25 7 = 5) (h2 : fldN w 12 3 = 0) (h3 : fldN w 20 5 = 0) :
    decode w = .fepeek (fld w 7 5) (fld w 15 5) := by
  unfold decode decodeRow; rw [h0]; simp only; unfold decodeSync; rw [h1]; rw [h2]; rw [h3]; rfl

theorem decode_amoadd (w : IWord) (h0 : fldN w 0 7 = 11) (h1 : fldN w 25 7 = 6) (h2 : fldN w 13 2 = 1) :
    decode w = .amoadd (fld w 7 5) (fld w 12 1) (fld w 15 5) (fld w 20 5) := by
  unfold decode decodeRow; rw [h0]; simp only; unfold decodeSync; rw [h1]; rw [h2]; rfl

theorem decode_amoand (w : IWord) (h0 : fldN w 0 7 = 11) (h1 : fldN w 25 7 = 7) (h2 : fldN w 13 2 = 1) :
    decode w = .amoand (fld w 7 5) (fld w 12 1) (fld w 15 5) (fld w 20 5) := by
  unfold decode decodeRow; rw [h0]; simp only; unfold decodeSync; rw [h1]; rw [h2]; rfl

theorem decode_amoor (w : IWord) (h0 : fldN w 0 7 = 11) (h1 : fldN w 25 7 = 8) (h2 : fldN w 13 2 = 1) :
    decode w = .amoor (fld w 7 5) (fld w 12 1) (fld w 15 5) (fld w 20 5) := by
  unfold decode decodeRow; rw [h0]; simp only; unfold decodeSync; rw [h1]; rw [h2]; rfl

theorem decode_amoxor (w : IWord) (h0 : fldN w 0 7 = 11) (h1 : fldN w 25 7 = 9) (h2 : fldN w 13 2 = 1) :
    decode w = .amoxor (fld w 7 5) (fld w 12 1) (fld w 15 5) (fld w 20 5) := by
  unfold decode decodeRow; rw [h0]; simp only; unfold decodeSync; rw [h1]; rw [h2]; rfl

theorem decode_amomin (w : IWord) (h0 : fldN w 0 7 = 11) (h1 : fldN w 25 7 = 10) (h2 : fldN w 13 2 = 1) :
    decode w = .amomin (fld w 7 5) (fld w 12 1) (fld w 15 5) (fld w 20 5) := by
  unfold decode decodeRow; rw [h0]; simp only; unfold decodeSync; rw [h1]; rw [h2]; rfl

theorem decode_amomax (w : IWord) (h0 : fldN w 0 7 = 11) (h1 : fldN w 25 7 = 11) (h2 : fldN w 13 2 = 1) :
    decode w = .amomax (fld w 7 5) (fld w 12 1) (fld w 15 5) (fld w 20 5) := by
  unfold decode decodeRow; rw [h0]; simp only; unfold decodeSync; rw [h1]; rw [h2]; rfl

theorem decode_amominu (w : IWord) (h0 : fldN w 0 7 = 11) (h1 : fldN w 25 7 = 12) (h2 : fldN w 13 2 = 1) :
    decode w = .amominu (fld w 7 5) (fld w 12 1) (fld w 15 5) (fld w 20 5) := by
  unfold decode decodeRow; rw [h0]; simp only; unfold decodeSync; rw [h1]; rw [h2]; rfl

theorem decode_amomaxu (w : IWord) (h0 : fldN w 0 7 = 11) (h1 : fldN w 25 7 = 13) (h2 : fldN w 13 2 = 1) :
    decode w = .amomaxu (fld w 7 5) (fld w 12 1) (fld w 15 5) (fld w 20 5) := by
  unfold decode decodeRow; rw [h0]; simp only; unfold decodeSync; rw [h1]; rw [h2]; rfl

theorem decode_amoswap (w : IWord) (h0 : fldN w 0 7 = 11) (h1 : fldN w 25 7 = 14) (h2 : fldN w 13 2 = 1) :
    decode w = .amoswap (fld w 7 5) (fld w 12 1) (fld w 15 5) (fld w 20 5) := by
  unfold decode decodeRow; rw [h0]; simp only; unfold decodeSync; rw [h1]; rw [h2]; rfl

theorem decode_cas (w : IWord) (h0 : fldN w 0 7 = 11) (h1 : fldN w 25 7 = 15) (h2 : fldN w 13 2 = 1) :
    decode w = .cas (fld w 7 5) (fld w 12 1) (fld w 15 5) (fld w 20 5) := by
  unfold decode decodeRow; rw [h0]; simp only; unfold decodeSync; rw [h1]; rw [h2]; rfl

theorem decode_amofadd (w : IWord) (h0 : fldN w 0 7 = 11) (h1 : fldN w 25 7 = 16) (h2 : fldN w 13 2 = 0) :
    decode w = .amofadd (fld w 7 5) (fld w 12 1) (fld w 15 5) (fld w 20 5) := by
  unfold decode decodeRow; rw [h0]; simp only; unfold decodeSync; rw [h1]; rw [h2]; rfl

theorem decode_fence (w : IWord) (h0 : fldN w 0 7 = 11) (h1 : fldN w 25 7 = 17) (h2 : fldN w 7 5 = 0) (h3 : fldN w 15 5 = 0) (h4 : fldN w 23 2 = 0) :
    decode w = .fence (fld w 12 3) (fld w 20 1) (fld w 21 1) (fld w 22 1) := by
  unfold decode decodeRow; rw [h0]; simp only; unfold decodeSync; rw [h1]; rw [h2]; rw [h3]; rw [h4]; rfl

theorem decode_rlx (w : IWord) (h0 : fldN w 0 7 = 11) (h1 : fldN w 25 7 = 18) (h2 : fldN w 7 13 = 0) (h3 : fldN w 24 1 = 0) :
    decode w = .rlx (fld w 20 4) := by
  unfold decode decodeRow; rw [h0]; simp only; unfold decodeSync; rw [h1]; rw [h2]; rw [h3]; rfl

theorem decode_pglobal (w : IWord) (h0 : fldN w 0 7 = 11) (h1 : fldN w 25 7 = 19) (h2 : fldN w 12 3 = 0) (h3 : fldN w 20 5 = 0) :
    decode w = .pglobal (fld w 7 5) (fld w 15 5) := by
  unfold decode decodeRow; rw [h0]; simp only; unfold decodeSync; rw [h1]; rw [h2]; rw [h3]; rfl

theorem decode_csrrw (w : IWord) (h0 : fldN w 0 7 = 12) (h1 : fldN w 12 3 = 1) :
    decode w = .csrrw (fld w 7 5) (fld w 15 5) (fld w 20 12) := by
  unfold decode decodeRow; rw [h0]; simp only; unfold decodeSystem; rw [h1]; rfl

theorem decode_csrrs (w : IWord) (h0 : fldN w 0 7 = 12) (h1 : fldN w 12 3 = 2) :
    decode w = .csrrs (fld w 7 5) (fld w 15 5) (fld w 20 12) := by
  unfold decode decodeRow; rw [h0]; simp only; unfold decodeSystem; rw [h1]; rfl

theorem decode_csrrc (w : IWord) (h0 : fldN w 0 7 = 12) (h1 : fldN w 12 3 = 3) :
    decode w = .csrrc (fld w 7 5) (fld w 15 5) (fld w 20 12) := by
  unfold decode decodeRow; rw [h0]; simp only; unfold decodeSystem; rw [h1]; rfl

theorem decode_csrrwi (w : IWord) (h0 : fldN w 0 7 = 12) (h1 : fldN w 12 3 = 5) :
    decode w = .csrrwi (fld w 7 5) (fld w 15 5) (fld w 20 12) := by
  unfold decode decodeRow; rw [h0]; simp only; unfold decodeSystem; rw [h1]; rfl

theorem decode_csrrsi (w : IWord) (h0 : fldN w 0 7 = 12) (h1 : fldN w 12 3 = 6) :
    decode w = .csrrsi (fld w 7 5) (fld w 15 5) (fld w 20 12) := by
  unfold decode decodeRow; rw [h0]; simp only; unfold decodeSystem; rw [h1]; rfl

theorem decode_csrrci (w : IWord) (h0 : fldN w 0 7 = 12) (h1 : fldN w 12 3 = 7) :
    decode w = .csrrci (fld w 7 5) (fld w 15 5) (fld w 20 12) := by
  unfold decode decodeRow; rw [h0]; simp only; unfold decodeSystem; rw [h1]; rfl

theorem decode_ecall (w : IWord) (h0 : fldN w 0 7 = 12) (h1 : fldN w 12 3 = 0) (h2 : fldN w 20 12 = 0) (h3 : fldN w 7 5 = 0) (h4 : fldN w 15 5 = 0) :
    decode w = .ecall := by
  unfold decode decodeRow; rw [h0]; simp only; unfold decodeSystem; rw [h1]; rw [h2]; rw [h3]; rw [h4]; rfl

theorem decode_ebreak (w : IWord) (h0 : fldN w 0 7 = 12) (h1 : fldN w 12 3 = 0) (h2 : fldN w 20 12 = 1) (h3 : fldN w 7 5 = 0) (h4 : fldN w 15 5 = 0) :
    decode w = .ebreak := by
  unfold decode decodeRow; rw [h0]; simp only; unfold decodeSystem; rw [h1]; rw [h2]; rw [h3]; rw [h4]; rfl

theorem decode_sret (w : IWord) (h0 : fldN w 0 7 = 12) (h1 : fldN w 12 3 = 0) (h2 : fldN w 20 12 = 2) (h3 : fldN w 7 5 = 0) (h4 : fldN w 15 5 = 0) :
    decode w = .sret := by
  unfold decode decodeRow; rw [h0]; simp only; unfold decodeSystem; rw [h1]; rw [h2]; rw [h3]; rw [h4]; rfl

theorem decode_mret (w : IWord) (h0 : fldN w 0 7 = 12) (h1 : fldN w 12 3 = 0) (h2 : fldN w 20 12 = 3) (h3 : fldN w 7 5 = 0) (h4 : fldN w 15 5 = 0) :
    decode w = .mret := by
  unfold decode decodeRow; rw [h0]; simp only; unfold decodeSystem; rw [h1]; rw [h2]; rw [h3]; rw [h4]; rfl

theorem decode_waitmsg (w : IWord) (h0 : fldN w 0 7 = 12) (h1 : fldN w 12 3 = 0) (h2 : fldN w 20 12 = 4) (h3 : fldN w 7 5 = 0) (h4 : fldN w 15 5 = 0) :
    decode w = .waitmsg := by
  unfold decode decodeRow; rw [h0]; simp only; unfold decodeSystem; rw [h1]; rw [h2]; rw [h3]; rw [h4]; rfl

theorem decode_popmsg (w : IWord) (h0 : fldN w 0 7 = 12) (h1 : fldN w 12 3 = 0) (h2 : fldN w 20 12 = 5) :
    decode w = .popmsg (fld w 7 5) (fld w 15 5) := by
  unfold decode decodeRow; rw [h0]; simp only; unfold decodeSystem; rw [h1]; rw [h2]; rfl

theorem decode_yield (w : IWord) (h0 : fldN w 0 7 = 12) (h1 : fldN w 12 3 = 0) (h2 : fldN w 20 12 = 6) (h3 : fldN w 7 5 = 0) (h4 : fldN w 15 5 = 0) :
    decode w = .yield := by
  unfold decode decodeRow; rw [h0]; simp only; unfold decodeSystem; rw [h1]; rw [h2]; rw [h3]; rw [h4]; rfl

theorem decode_hdone (w : IWord) (h0 : fldN w 0 7 = 12) (h1 : fldN w 12 3 = 0) (h2 : fldN w 20 12 = 7) (h3 : fldN w 7 5 = 0) (h4 : fldN w 15 5 = 0) :
    decode w = .hdone := by
  unfold decode decodeRow; rw [h0]; simp only; unfold decodeSystem; rw [h1]; rw [h2]; rw [h3]; rw [h4]; rfl

theorem decode_bar (w : IWord) (h0 : fldN w 0 7 = 12) (h1 : fldN w 12 3 = 0) (h2 : fldN w 20 12 = 8) (h3 : fldN w 7 5 = 0) :
    decode w = .bar (fld w 15 5) := by
  unfold decode decodeRow; rw [h0]; simp only; unfold decodeSystem; rw [h1]; rw [h2]; rw [h3]; rfl

theorem decode_launch (w : IWord) (h0 : fldN w 0 7 = 12) (h1 : fldN w 12 3 = 0) (h2 : fldN w 20 12 = 9) :
    decode w = .launch (fld w 7 5) (fld w 15 5) := by
  unfold decode decodeRow; rw [h0]; simp only; unfold decodeSystem; rw [h1]; rw [h2]; rfl

theorem decode_sqpush (w : IWord) (h0 : fldN w 0 7 = 12) (h1 : fldN w 12 3 = 0) (h2 : fldN w 20 12 = 10) :
    decode w = .sqpush (fld w 7 5) (fld w 15 5) := by
  unfold decode decodeRow; rw [h0]; simp only; unfold decodeSystem; rw [h1]; rw [h2]; rfl

theorem decode_tlbinv (w : IWord) (h0 : fldN w 0 7 = 12) (h1 : fldN w 12 3 = 0) (h2 : fldN w 20 12 = 11) :
    decode w = .tlbinv (fld w 7 5) (fld w 15 5) := by
  unfold decode decodeRow; rw [h0]; simp only; unfold decodeSystem; rw [h1]; rw [h2]; rfl

theorem decode_asidset (w : IWord) (h0 : fldN w 0 7 = 12) (h1 : fldN w 12 3 = 0) (h2 : fldN w 20 12 = 12) :
    decode w = .asidset (fld w 7 5) (fld w 15 5) := by
  unfold decode decodeRow; rw [h0]; simp only; unfold decodeSystem; rw [h1]; rw [h2]; rfl

theorem decode_setvli (w : IWord) (h0 : fldN w 0 7 = 15) (h1 : fldN w 12 3 = 0) (h2 : fldN w 27 5 = 0) :
    decode w = .setvli (fld w 7 5) (fld w 15 5) (fld w 20 5) (fld w 25 2) := by
  unfold decode decodeRow; rw [h0]; simp only; unfold decodeSetvli; rw [h1]; rw [h2]; rfl

theorem decode_setvl (w : IWord) (h0 : fldN w 0 7 = 16) (h1 : fldN w 25 7 = 0) (h2 : fldN w 12 3 = 0) :
    decode w = .setvl (fld w 7 5) (fld w 15 5) (fld w 20 5) := by
  unfold decode decodeRow; rw [h0]; simp only; unfold decodeVcfg; rw [h1]; rw [h2]; rfl

theorem decode_lsplit (w : IWord) (h0 : fldN w 0 7 = 16) (h1 : fldN w 25 7 = 1) (h2 : fldN w 12 3 = 0) :
    decode w = .lsplit (fld w 7 5) (fld w 15 5) (fld w 20 5) := by
  unfold decode decodeRow; rw [h0]; simp only; unfold decodeVcfg; rw [h1]; rw [h2]; rfl

theorem decode_lmerge (w : IWord) (h0 : fldN w 0 7 = 16) (h1 : fldN w 25 7 = 2) (h2 : fldN w 7 18 = 0) :
    decode w = .lmerge := by
  unfold decode decodeRow; rw [h0]; simp only; unfold decodeVcfg; rw [h1]; rw [h2]; rfl

theorem decode_vtag (w : IWord) (h0 : fldN w 0 7 = 16) (h1 : fldN w 25 7 = 3) (h2 : fldN w 12 8 = 0) :
    decode w = .vtag (fld w 7 5) (fld w 20 5) := by
  unfold decode decodeRow; rw [h0]; simp only; unfold decodeVcfg; rw [h1]; rw [h2]; rfl

theorem decode_vfmx (w : IWord) (h0 : fldN w 0 7 = 16) (h1 : fldN w 25 7 = 4) (h2 : fldN w 12 8 = 0) :
    decode w = .vfmx (fld w 7 5) (fld w 20 5) := by
  unfold decode decodeRow; rw [h0]; simp only; unfold decodeVcfg; rw [h1]; rw [h2]; rfl

theorem decode_pump (w : IWord) (h0 : fldN w 0 7 = 16) (h1 : fldN w 25 7 = 5) (h2 : fldN w 11 1 = 0) (h3 : fldN w 24 1 = 0) :
    decode w = .pump (fld w 7 4) (fld w 12 3) (fld w 15 5) (fld w 20 2) (fld w 22 2) := by
  unfold decode decodeRow; rw [h0]; simp only; unfold decodeVcfg; rw [h1]; rw [h2]; rw [h3]; rfl

theorem decode_pumpstop (w : IWord) (h0 : fldN w 0 7 = 16) (h1 : fldN w 25 7 = 6) (h2 : fldN w 7 18 = 0) :
    decode w = .pumpstop := by
  unfold decode decodeRow; rw [h0]; simp only; unfold decodeVcfg; rw [h1]; rw [h2]; rfl

theorem decode_vadd (w : IWord) (h0 : fldN w 0 7 = 17) (h1 : fldN w 26 6 = 0) :
    decode w = .vadd (fld w 7 5) (fld w 12 3) (fld w 15 5) (fld w 20 5) (fld w 25 1) := by
  unfold decode decodeRow; rw [h0]; simp only; unfold decodeVarith; rw [h1]; rfl

theorem decode_vsub (w : IWord) (h0 : fldN w 0 7 = 17) (h1 : fldN w 26 6 = 1) :
    decode w = .vsub (fld w 7 5) (fld w 12 3) (fld w 15 5) (fld w 20 5) (fld w 25 1) := by
  unfold decode decodeRow; rw [h0]; simp only; unfold decodeVarith; rw [h1]; rfl

theorem decode_vmul (w : IWord) (h0 : fldN w 0 7 = 17) (h1 : fldN w 26 6 = 2) :
    decode w = .vmul (fld w 7 5) (fld w 12 3) (fld w 15 5) (fld w 20 5) (fld w 25 1) := by
  unfold decode decodeRow; rw [h0]; simp only; unfold decodeVarith; rw [h1]; rfl

theorem decode_vmulh (w : IWord) (h0 : fldN w 0 7 = 17) (h1 : fldN w 26 6 = 3) :
    decode w = .vmulh (fld w 7 5) (fld w 12 3) (fld w 15 5) (fld w 20 5) (fld w 25 1) := by
  unfold decode decodeRow; rw [h0]; simp only; unfold decodeVarith; rw [h1]; rfl

theorem decode_vmadd (w : IWord) (h0 : fldN w 0 7 = 17) (h1 : fldN w 26 6 = 4) :
    decode w = .vmadd (fld w 7 5) (fld w 12 3) (fld w 15 5) (fld w 20 5) (fld w 25 1) := by
  unfold decode decodeRow; rw [h0]; simp only; unfold decodeVarith; rw [h1]; rfl

theorem decode_vnmsub (w : IWord) (h0 : fldN w 0 7 = 17) (h1 : fldN w 26 6 = 5) :
    decode w = .vnmsub (fld w 7 5) (fld w 12 3) (fld w 15 5) (fld w 20 5) (fld w 25 1) := by
  unfold decode decodeRow; rw [h0]; simp only; unfold decodeVarith; rw [h1]; rfl

theorem decode_vdiv (w : IWord) (h0 : fldN w 0 7 = 17) (h1 : fldN w 26 6 = 6) :
    decode w = .vdiv (fld w 7 5) (fld w 12 3) (fld w 15 5) (fld w 20 5) (fld w 25 1) := by
  unfold decode decodeRow; rw [h0]; simp only; unfold decodeVarith; rw [h1]; rfl

theorem decode_vrem (w : IWord) (h0 : fldN w 0 7 = 17) (h1 : fldN w 26 6 = 7) :
    decode w = .vrem (fld w 7 5) (fld w 12 3) (fld w 15 5) (fld w 20 5) (fld w 25 1) := by
  unfold decode decodeRow; rw [h0]; simp only; unfold decodeVarith; rw [h1]; rfl

theorem decode_vmin (w : IWord) (h0 : fldN w 0 7 = 17) (h1 : fldN w 26 6 = 8) :
    decode w = .vmin (fld w 7 5) (fld w 12 3) (fld w 15 5) (fld w 20 5) (fld w 25 1) := by
  unfold decode decodeRow; rw [h0]; simp only; unfold decodeVarith; rw [h1]; rfl

theorem decode_vmax (w : IWord) (h0 : fldN w 0 7 = 17) (h1 : fldN w 26 6 = 9) :
    decode w = .vmax (fld w 7 5) (fld w 12 3) (fld w 15 5) (fld w 20 5) (fld w 25 1) := by
  unfold decode decodeRow; rw [h0]; simp only; unfold decodeVarith; rw [h1]; rfl

theorem decode_vabs (w : IWord) (h0 : fldN w 0 7 = 17) (h1 : fldN w 26 6 = 10) (h2 : fldN w 12 3 = 0) (h3 : fldN w 20 5 = 0) :
    decode w = .vabs (fld w 7 5) (fld w 15 5) (fld w 25 1) := by
  unfold decode decodeRow; rw [h0]; simp only; unfold decodeVarith; rw [h1]; rw [h2]; rw [h3]; rfl

theorem decode_vneg (w : IWord) (h0 : fldN w 0 7 = 17) (h1 : fldN w 26 6 = 11) (h2 : fldN w 12 3 = 0) (h3 : fldN w 20 5 = 0) :
    decode w = .vneg (fld w 7 5) (fld w 15 5) (fld w 25 1) := by
  unfold decode decodeRow; rw [h0]; simp only; unfold decodeVarith; rw [h1]; rw [h2]; rw [h3]; rfl

theorem decode_vsqrt (w : IWord) (h0 : fldN w 0 7 = 17) (h1 : fldN w 26 6 = 12) (h2 : fldN w 12 3 = 0) (h3 : fldN w 20 5 = 0) :
    decode w = .vsqrt (fld w 7 5) (fld w 15 5) (fld w 25 1) := by
  unfold decode decodeRow; rw [h0]; simp only; unfold decodeVarith; rw [h1]; rw [h2]; rw [h3]; rfl

theorem decode_vand (w : IWord) (h0 : fldN w 0 7 = 17) (h1 : fldN w 26 6 = 13) :
    decode w = .vand (fld w 7 5) (fld w 12 3) (fld w 15 5) (fld w 20 5) (fld w 25 1) := by
  unfold decode decodeRow; rw [h0]; simp only; unfold decodeVarith; rw [h1]; rfl

theorem decode_vor (w : IWord) (h0 : fldN w 0 7 = 17) (h1 : fldN w 26 6 = 14) :
    decode w = .vor (fld w 7 5) (fld w 12 3) (fld w 15 5) (fld w 20 5) (fld w 25 1) := by
  unfold decode decodeRow; rw [h0]; simp only; unfold decodeVarith; rw [h1]; rfl

theorem decode_vxor (w : IWord) (h0 : fldN w 0 7 = 17) (h1 : fldN w 26 6 = 15) :
    decode w = .vxor (fld w 7 5) (fld w 12 3) (fld w 15 5) (fld w 20 5) (fld w 25 1) := by
  unfold decode decodeRow; rw [h0]; simp only; unfold decodeVarith; rw [h1]; rfl

theorem decode_vsll (w : IWord) (h0 : fldN w 0 7 = 17) (h1 : fldN w 26 6 = 16) :
    decode w = .vsll (fld w 7 5) (fld w 12 3) (fld w 15 5) (fld w 20 5) (fld w 25 1) := by
  unfold decode decodeRow; rw [h0]; simp only; unfold decodeVarith; rw [h1]; rfl

theorem decode_vsrl (w : IWord) (h0 : fldN w 0 7 = 17) (h1 : fldN w 26 6 = 17) :
    decode w = .vsrl (fld w 7 5) (fld w 12 3) (fld w 15 5) (fld w 20 5) (fld w 25 1) := by
  unfold decode decodeRow; rw [h0]; simp only; unfold decodeVarith; rw [h1]; rfl

theorem decode_vsra (w : IWord) (h0 : fldN w 0 7 = 17) (h1 : fldN w 26 6 = 18) :
    decode w = .vsra (fld w 7 5) (fld w 12 3) (fld w 15 5) (fld w 20 5) (fld w 25 1) := by
  unfold decode decodeRow; rw [h0]; simp only; unfold decodeVarith; rw [h1]; rfl

theorem decode_vsadd (w : IWord) (h0 : fldN w 0 7 = 17) (h1 : fldN w 26 6 = 19) :
    decode w = .vsadd (fld w 7 5) (fld w 12 3) (fld w 15 5) (fld w 20 5) (fld w 25 1) := by
  unfold decode decodeRow; rw [h0]; simp only; unfold decodeVarith; rw [h1]; rfl

theorem decode_vssub (w : IWord) (h0 : fldN w 0 7 = 17) (h1 : fldN w 26 6 = 20) :
    decode w = .vssub (fld w 7 5) (fld w 12 3) (fld w 15 5) (fld w 20 5) (fld w 25 1) := by
  unfold decode decodeRow; rw [h0]; simp only; unfold decodeVarith; rw [h1]; rfl

theorem decode_vcmpeq (w : IWord) (h0 : fldN w 0 7 = 18) (h1 : fldN w 26 6 = 0) :
    decode w = .vcmpeq (fld w 7 5) (fld w 12 3) (fld w 15 5) (fld w 20 5) (fld w 25 1) := by
  unfold decode decodeRow; rw [h0]; simp only; unfold decodeVmask; rw [h1]; rfl

theorem decode_vcmpne (w : IWord) (h0 : fldN w 0 7 = 18) (h1 : fldN w 26 6 = 1) :
    decode w = .vcmpne (fld w 7 5) (fld w 12 3) (fld w 15 5) (fld w 20 5) (fld w 25 1) := by
  unfold decode decodeRow; rw [h0]; simp only; unfold decodeVmask; rw [h1]; rfl

theorem decode_vcmplt (w : IWord) (h0 : fldN w 0 7 = 18) (h1 : fldN w 26 6 = 2) :
    decode w = .vcmplt (fld w 7 5) (fld w 12 3) (fld w 15 5) (fld w 20 5) (fld w 25 1) := by
  unfold decode decodeRow; rw [h0]; simp only; unfold decodeVmask; rw [h1]; rfl

theorem decode_vcmple (w : IWord) (h0 : fldN w 0 7 = 18) (h1 : fldN w 26 6 = 3) :
    decode w = .vcmple (fld w 7 5) (fld w 12 3) (fld w 15 5) (fld w 20 5) (fld w 25 1) := by
  unfold decode decodeRow; rw [h0]; simp only; unfold decodeVmask; rw [h1]; rfl

theorem decode_vcmpgt (w : IWord) (h0 : fldN w 0 7 = 18) (h1 : fldN w 26 6 = 4) :
    decode w = .vcmpgt (fld w 7 5) (fld w 12 3) (fld w 15 5) (fld w 20 5) (fld w 25 1) := by
  unfold decode decodeRow; rw [h0]; simp only; unfold decodeVmask; rw [h1]; rfl

theorem decode_vcmpge (w : IWord) (h0 : fldN w 0 7 = 18) (h1 : fldN w 26 6 = 5) :
    decode w = .vcmpge (fld w 7 5) (fld w 12 3) (fld w 15 5) (fld w 20 5) (fld w 25 1) := by
  unfold decode decodeRow; rw [h0]; simp only; unfold decodeVmask; rw [h1]; rfl

theorem decode_mand (w : IWord) (h0 : fldN w 0 7 = 18) (h1 : fldN w 26 6 = 6) (h2 : fldN w 12 3 = 0) :
    decode w = .mand (fld w 7 5) (fld w 15 5) (fld w 20 5) (fld w 25 1) := by
  unfold decode decodeRow; rw [h0]; simp only; unfold decodeVmask; rw [h1]; rw [h2]; rfl

theorem decode_mor (w : IWord) (h0 : fldN w 0 7 = 18) (h1 : fldN w 26 6 = 7) (h2 : fldN w 12 3 = 0) :
    decode w = .mor (fld w 7 5) (fld w 15 5) (fld w 20 5) (fld w 25 1) := by
  unfold decode decodeRow; rw [h0]; simp only; unfold decodeVmask; rw [h1]; rw [h2]; rfl

theorem decode_mxor (w : IWord) (h0 : fldN w 0 7 = 18) (h1 : fldN w 26 6 = 8) (h2 : fldN w 12 3 = 0) :
    decode w = .mxor (fld w 7 5) (fld w 15 5) (fld w 20 5) (fld w 25 1) := by
  unfold decode decodeRow; rw [h0]; simp only; unfold decodeVmask; rw [h1]; rw [h2]; rfl

theorem decode_mandn (w : IWord) (h0 : fldN w 0 7 = 18) (h1 : fldN w 26 6 = 9) (h2 : fldN w 12 3 = 0) :
    decode w = .mandn (fld w 7 5) (fld w 15 5) (fld w 20 5) (fld w 25 1) := by
  unfold decode decodeRow; rw [h0]; simp only; unfold decodeVmask; rw [h1]; rw [h2]; rfl

theorem decode_mpopc (w : IWord) (h0 : fldN w 0 7 = 18) (h1 : fldN w 26 6 = 10) (h2 : fldN w 12 3 = 0) (h3 : fldN w 20 5 = 0) :
    decode w = .mpopc (fld w 7 5) (fld w 15 5) (fld w 25 1) := by
  unfold decode decodeRow; rw [h0]; simp only; unfold decodeVmask; rw [h1]; rw [h2]; rw [h3]; rfl

theorem decode_mfirst (w : IWord) (h0 : fldN w 0 7 = 18) (h1 : fldN w 26 6 = 11) (h2 : fldN w 12 3 = 0) (h3 : fldN w 20 5 = 0) :
    decode w = .mfirst (fld w 7 5) (fld w 15 5) (fld w 25 1) := by
  unfold decode decodeRow; rw [h0]; simp only; unfold decodeVmask; rw [h1]; rw [h2]; rw [h3]; rfl

theorem decode_miota (w : IWord) (h0 : fldN w 0 7 = 18) (h1 : fldN w 26 6 = 12) (h2 : fldN w 12 3 = 0) (h3 : fldN w 20 5 = 0) :
    decode w = .miota (fld w 7 5) (fld w 15 5) (fld w 25 1) := by
  unfold decode decodeRow; rw [h0]; simp only; unfold decodeVmask; rw [h1]; rw [h2]; rw [h3]; rfl

theorem decode_vmv (w : IWord) (h0 : fldN w 0 7 = 19) (h1 : fldN w 26 6 = 0) :
    decode w = .vmv (fld w 7 5) (fld w 12 3) (fld w 15 5) (fld w 20 5) (fld w 25 1) := by
  unfold decode decodeRow; rw [h0]; simp only; unfold decodeVperm; rw [h1]; rfl

theorem decode_vmvx (w : IWord) (h0 : fldN w 0 7 = 19) (h1 : fldN w 26 6 = 1) (h2 : fldN w 25 1 = 0) :
    decode w = .vmvx (fld w 7 5) (fld w 12 3) (fld w 15 5) (fld w 20 5) := by
  unfold decode decodeRow; rw [h0]; simp only; unfold decodeVperm; rw [h1]; rw [h2]; rfl

theorem decode_vmvs (w : IWord) (h0 : fldN w 0 7 = 19) (h1 : fldN w 26 6 = 2) (h2 : fldN w 12 8 = 1) (h3 : fldN w 25 1 = 0) :
    decode w = .vmvs (fld w 7 5) (fld w 20 5) := by
  unfold decode decodeRow; rw [h0]; simp only; unfold decodeVperm; rw [h1]; rw [h2]; rw [h3]; rfl

theorem decode_vid (w : IWord) (h0 : fldN w 0 7 = 19) (h1 : fldN w 26 6 = 3) (h2 : fldN w 12 13 = 0) :
    decode w = .vid (fld w 7 5) (fld w 25 1) := by
  unfold decode decodeRow; rw [h0]; simp only; unfold decodeVperm; rw [h1]; rw [h2]; rfl

theorem decode_vsel (w : IWord) (h0 : fldN w 0 7 = 19) (h1 : fldN w 26 6 = 4) (h2 : fldN w 25 1 = 1) :
    decode w = .vsel (fld w 7 5) (fld w 12 3) (fld w 15 5) (fld w 20 5) := by
  unfold decode decodeRow; rw [h0]; simp only; unfold decodeVperm; rw [h1]; rw [h2]; rfl

theorem decode_vcompress (w : IWord) (h0 : fldN w 0 7 = 19) (h1 : fldN w 26 6 = 5) (h2 : fldN w 12 3 = 0) (h3 : fldN w 20 6 = 32) :
    decode w = .vcompress (fld w 7 5) (fld w 15 5) := by
  unfold decode decodeRow; rw [h0]; simp only; unfold decodeVperm; rw [h1]; rw [h2]; rw [h3]; rfl

theorem decode_vslideup (w : IWord) (h0 : fldN w 0 7 = 19) (h1 : fldN w 26 6 = 6) :
    decode w = .vslideup (fld w 7 5) (fld w 12 3) (fld w 15 5) (fld w 20 5) (fld w 25 1) := by
  unfold decode decodeRow; rw [h0]; simp only; unfold decodeVperm; rw [h1]; rfl

theorem decode_vslidedn (w : IWord) (h0 : fldN w 0 7 = 19) (h1 : fldN w 26 6 = 7) :
    decode w = .vslidedn (fld w 7 5) (fld w 12 3) (fld w 15 5) (fld w 20 5) (fld w 25 1) := by
  unfold decode decodeRow; rw [h0]; simp only; unfold decodeVperm; rw [h1]; rfl

theorem decode_vperm (w : IWord) (h0 : fldN w 0 7 = 19) (h1 : fldN w 26 6 = 8) (h2 : fldN w 12 3 = 0) :
    decode w = .vperm (fld w 7 5) (fld w 15 5) (fld w 20 5) (fld w 25 1) := by
  unfold decode decodeRow; rw [h0]; simp only; unfold decodeVperm; rw [h1]; rw [h2]; rfl

theorem decode_vcvt (w : IWord) (h0 : fldN w 0 7 = 19) (h1 : fldN w 26 6 = 9) (h2 : fldN w 12 3 = 2) :
    decode w = .vcvt (fld w 7 5) (fld w 15 5) (fld w 20 5) (fld w 25 1) := by
  unfold decode decodeRow; rw [h0]; simp only; unfold decodeVperm; rw [h1]; rw [h2]; rfl

theorem decode_vqsf4 (w : IWord) (h0 : fldN w 0 7 = 19) (h1 : fldN w 26 6 = 10) (h2 : fldN w 12 3 = 1) :
    decode w = .vqsf4 (fld w 7 5) (fld w 15 5) (fld w 20 5) (fld w 25 1) := by
  unfold decode decodeRow; rw [h0]; simp only; unfold decodeVperm; rw [h1]; rw [h2]; rfl

theorem decode_vredsum (w : IWord) (h0 : fldN w 0 7 = 20) (h1 : fldN w 26 6 = 0) (h2 : fldN w 12 3 = 0) (h3 : fldN w 20 5 = 0) :
    decode w = .vredsum (fld w 7 5) (fld w 15 5) (fld w 25 1) := by
  unfold decode decodeRow; rw [h0]; simp only; unfold decodeVred; rw [h1]; rw [h2]; rw [h3]; rfl

theorem decode_vredmax (w : IWord) (h0 : fldN w 0 7 = 20) (h1 : fldN w 26 6 = 1) (h2 : fldN w 12 3 = 0) (h3 : fldN w 20 5 = 0) :
    decode w = .vredmax (fld w 7 5) (fld w 15 5) (fld w 25 1) := by
  unfold decode decodeRow; rw [h0]; simp only; unfold decodeVred; rw [h1]; rw [h2]; rw [h3]; rfl

theorem decode_vredmin (w : IWord) (h0 : fldN w 0 7 = 20) (h1 : fldN w 26 6 = 2) (h2 : fldN w 12 3 = 0) (h3 : fldN w 20 5 = 0) :
    decode w = .vredmin (fld w 7 5) (fld w 15 5) (fld w 25 1) := by
  unfold decode decodeRow; rw [h0]; simp only; unfold decodeVred; rw [h1]; rw [h2]; rw [h3]; rfl

theorem decode_vreddot (w : IWord) (h0 : fldN w 0 7 = 20) (h1 : fldN w 26 6 = 3) (h2 : fldN w 12 3 = 0) :
    decode w = .vreddot (fld w 7 5) (fld w 15 5) (fld w 20 5) (fld w 25 1) := by
  unfold decode decodeRow; rw [h0]; simp only; unfold decodeVred; rw [h1]; rw [h2]; rfl

theorem decode_vexp2 (w : IWord) (h0 : fldN w 0 7 = 20) (h1 : fldN w 26 6 = 4) (h2 : fldN w 12 3 = 0) (h3 : fldN w 20 5 = 0) :
    decode w = .vexp2 (fld w 7 5) (fld w 15 5) (fld w 25 1) := by
  unfold decode decodeRow; rw [h0]; simp only; unfold decodeVred; rw [h1]; rw [h2]; rw [h3]; rfl

theorem decode_vlog2 (w : IWord) (h0 : fldN w 0 7 = 20) (h1 : fldN w 26 6 = 5) (h2 : fldN w 12 3 = 0) (h3 : fldN w 20 5 = 0) :
    decode w = .vlog2 (fld w 7 5) (fld w 15 5) (fld w 25 1) := by
  unfold decode decodeRow; rw [h0]; simp only; unfold decodeVred; rw [h1]; rw [h2]; rw [h3]; rfl

theorem decode_vrcp (w : IWord) (h0 : fldN w 0 7 = 20) (h1 : fldN w 26 6 = 6) (h2 : fldN w 12 3 = 0) (h3 : fldN w 20 5 = 0) :
    decode w = .vrcp (fld w 7 5) (fld w 15 5) (fld w 25 1) := by
  unfold decode decodeRow; rw [h0]; simp only; unfold decodeVred; rw [h1]; rw [h2]; rw [h3]; rfl

theorem decode_vrsqrt (w : IWord) (h0 : fldN w 0 7 = 20) (h1 : fldN w 26 6 = 7) (h2 : fldN w 12 3 = 0) (h3 : fldN w 20 5 = 0) :
    decode w = .vrsqrt (fld w 7 5) (fld w 15 5) (fld w 25 1) := by
  unfold decode decodeRow; rw [h0]; simp only; unfold decodeVred; rw [h1]; rw [h2]; rw [h3]; rfl

theorem decode_vtanh (w : IWord) (h0 : fldN w 0 7 = 20) (h1 : fldN w 26 6 = 8) (h2 : fldN w 12 3 = 0) (h3 : fldN w 20 5 = 0) :
    decode w = .vtanh (fld w 7 5) (fld w 15 5) (fld w 25 1) := by
  unfold decode decodeRow; rw [h0]; simp only; unfold decodeVred; rw [h1]; rw [h2]; rw [h3]; rfl

theorem decode_vsigm (w : IWord) (h0 : fldN w 0 7 = 20) (h1 : fldN w 26 6 = 9) (h2 : fldN w 12 3 = 0) (h3 : fldN w 20 5 = 0) :
    decode w = .vsigm (fld w 7 5) (fld w 15 5) (fld w 25 1) := by
  unfold decode decodeRow; rw [h0]; simp only; unfold decodeVred; rw [h1]; rw [h2]; rw [h3]; rfl

theorem decode_vmodadd (w : IWord) (h0 : fldN w 0 7 = 21) (h1 : fldN w 26 6 = 0) :
    decode w = .vmodadd (fld w 7 5) (fld w 12 3) (fld w 15 5) (fld w 20 5) (fld w 25 1) := by
  unfold decode decodeRow; rw [h0]; simp only; unfold decodeVmod; rw [h1]; rfl

theorem decode_vmodsub (w : IWord) (h0 : fldN w 0 7 = 21) (h1 : fldN w 26 6 = 1) :
    decode w = .vmodsub (fld w 7 5) (fld w 12 3) (fld w 15 5) (fld w 20 5) (fld w 25 1) := by
  unfold decode decodeRow; rw [h0]; simp only; unfold decodeVmod; rw [h1]; rfl

theorem decode_vmodmul (w : IWord) (h0 : fldN w 0 7 = 21) (h1 : fldN w 26 6 = 2) :
    decode w = .vmodmul (fld w 7 5) (fld w 12 3) (fld w 15 5) (fld w 20 5) (fld w 25 1) := by
  unfold decode decodeRow; rw [h0]; simp only; unfold decodeVmod; rw [h1]; rfl

theorem decode_vmodred (w : IWord) (h0 : fldN w 0 7 = 21) (h1 : fldN w 26 6 = 3) (h2 : fldN w 12 3 = 0) (h3 : fldN w 20 5 = 0) :
    decode w = .vmodred (fld w 7 5) (fld w 15 5) (fld w 25 1) := by
  unfold decode decodeRow; rw [h0]; simp only; unfold decodeVmod; rw [h1]; rw [h2]; rw [h3]; rfl

theorem decode_vbflyct (w : IWord) (h0 : fldN w 0 7 = 21) (h1 : fldN w 26 6 = 4) :
    decode w = .vbflyct (fld w 7 5) (fld w 12 3) (fld w 15 5) (fld w 20 5) (fld w 25 1) := by
  unfold decode decodeRow; rw [h0]; simp only; unfold decodeVmod; rw [h1]; rfl

theorem decode_vbflygs (w : IWord) (h0 : fldN w 0 7 = 21) (h1 : fldN w 26 6 = 5) :
    decode w = .vbflygs (fld w 7 5) (fld w 12 3) (fld w 15 5) (fld w 20 5) (fld w 25 1) := by
  unfold decode decodeRow; rw [h0]; simp only; unfold decodeVmod; rw [h1]; rfl

theorem decode_vld (w : IWord) (h0 : fldN w 0 7 = 22) (h1 : fldN w 12 3 = 0) (h2 : fldN w 20 5 = 0) (h3 : fldN w 26 6 = 0) :
    decode w = .vld (fld w 7 5) (fld w 15 5) (fld w 25 1) := by
  unfold decode decodeRow; rw [h0]; simp only; unfold decodeVload; rw [h1]; rw [h2]; rw [h3]; rfl

theorem decode_vlds (w : IWord) (h0 : fldN w 0 7 = 22) (h1 : fldN w 12 3 = 1) (h2 : fldN w 26 6 = 0) :
    decode w = .vlds (fld w 7 5) (fld w 15 5) (fld w 20 5) (fld w 25 1) := by
  unfold decode decodeRow; rw [h0]; simp only; unfold decodeVload; rw [h1]; rw [h2]; rfl

theorem decode_vldx (w : IWord) (h0 : fldN w 0 7 = 22) (h1 : fldN w 12 3 = 2) (h2 : fldN w 26 6 = 0) :
    decode w = .vldx (fld w 7 5) (fld w 15 5) (fld w 20 5) (fld w 25 1) := by
  unfold decode decodeRow; rw [h0]; simp only; unfold decodeVload; rw [h1]; rw [h2]; rfl

theorem decode_vfill (w : IWord) (h0 : fldN w 0 7 = 22) (h1 : fldN w 12 3 = 3) (h2 : fldN w 20 12 = 0) :
    decode w = .vfill (fld w 7 5) (fld w 15 5) := by
  unfold decode decodeRow; rw [h0]; simp only; unfold decodeVload; rw [h1]; rw [h2]; rfl

theorem decode_vst (w : IWord) (h0 : fldN w 0 7 = 23) (h1 : fldN w 12 3 = 0) (h2 : fldN w 20 5 = 0) (h3 : fldN w 26 6 = 0) :
    decode w = .vst (fld w 7 5) (fld w 15 5) (fld w 25 1) := by
  unfold decode decodeRow; rw [h0]; simp only; unfold decodeVstore; rw [h1]; rw [h2]; rw [h3]; rfl

theorem decode_vsts (w : IWord) (h0 : fldN w 0 7 = 23) (h1 : fldN w 12 3 = 1) (h2 : fldN w 26 6 = 0) :
    decode w = .vsts (fld w 7 5) (fld w 15 5) (fld w 20 5) (fld w 25 1) := by
  unfold decode decodeRow; rw [h0]; simp only; unfold decodeVstore; rw [h1]; rw [h2]; rfl

theorem decode_vstx (w : IWord) (h0 : fldN w 0 7 = 23) (h1 : fldN w 12 3 = 2) (h2 : fldN w 26 6 = 0) :
    decode w = .vstx (fld w 7 5) (fld w 15 5) (fld w 20 5) (fld w 25 1) := by
  unfold decode decodeRow; rw [h0]; simp only; unfold decodeVstore; rw [h1]; rw [h2]; rfl

theorem decode_vscadd (w : IWord) (h0 : fldN w 0 7 = 23) (h1 : fldN w 12 3 = 3) (h2 : fldN w 26 6 = 0) :
    decode w = .vscadd (fld w 7 5) (fld w 15 5) (fld w 20 5) (fld w 25 1) := by
  unfold decode decodeRow; rw [h0]; simp only; unfold decodeVstore; rw [h1]; rw [h2]; rfl

theorem decode_vspill (w : IWord) (h0 : fldN w 0 7 = 23) (h1 : fldN w 12 3 = 4) (h2 : fldN w 20 12 = 0) :
    decode w = .vspill (fld w 7 5) (fld w 15 5) := by
  unfold decode decodeRow; rw [h0]; simp only; unfold decodeVstore; rw [h1]; rw [h2]; rfl

theorem decode_stbind (w : IWord) (h0 : fldN w 0 7 = 24) (h1 : fldN w 25 7 = 0) (h2 : fldN w 12 3 = 0) (h3 : fldN w 20 5 = 0) :
    decode w = .stbind (fld w 7 5) (fld w 15 5) := by
  unfold decode decodeRow; rw [h0]; simp only; unfold decodeStream; rw [h1]; rw [h2]; rw [h3]; rfl

theorem decode_strbind (w : IWord) (h0 : fldN w 0 7 = 24) (h1 : fldN w 25 7 = 1) (h2 : fldN w 12 3 = 0) (h3 : fldN w 20 5 = 0) :
    decode w = .strbind (fld w 7 5) (fld w 15 5) := by
  unfold decode decodeRow; rw [h0]; simp only; unfold decodeStream; rw [h1]; rw [h2]; rw [h3]; rfl

theorem decode_stfbind (w : IWord) (h0 : fldN w 0 7 = 24) (h1 : fldN w 25 7 = 2) (h2 : fldN w 12 3 = 0) (h3 : fldN w 20 5 = 0) :
    decode w = .stfbind (fld w 7 5) (fld w 15 5) := by
  unfold decode decodeRow; rw [h0]; simp only; unfold decodeStream; rw [h1]; rw [h2]; rw [h3]; rfl

theorem decode_stunbind (w : IWord) (h0 : fldN w 0 7 = 24) (h1 : fldN w 25 7 = 3) (h2 : fldN w 12 13 = 0) :
    decode w = .stunbind (fld w 7 5) := by
  unfold decode decodeRow; rw [h0]; simp only; unfold decodeStream; rw [h1]; rw [h2]; rfl

theorem decode_cpy (w : IWord) (h0 : fldN w 0 7 = 25) (h1 : fldN w 12 3 = 0) (h2 : fldN w 20 5 = 0) (h3 : fldN w 30 2 = 0) :
    decode w = .cpy (fld w 7 5) (fld w 15 5) (fld w 25 5) := by
  unfold decode decodeRow; rw [h0]; simp only; unfold decodeEngine; rw [h1]; rw [h2]; rw [h3]; rfl

theorem decode_syncarm (w : IWord) (h0 : fldN w 0 7 = 25) (h1 : fldN w 12 3 = 1) (h2 : fldN w 25 7 = 0) :
    decode w = .syncarm (fld w 7 5) (fld w 15 5) (fld w 20 5) := by
  unfold decode decodeRow; rw [h0]; simp only; unfold decodeEngine; rw [h1]; rw [h2]; rfl

theorem decode_syncwait (w : IWord) (h0 : fldN w 0 7 = 25) (h1 : fldN w 12 3 = 2) (h2 : fldN w 25 7 = 0) :
    decode w = .syncwait (fld w 7 5) (fld w 15 5) (fld w 20 5) := by
  unfold decode decodeRow; rw [h0]; simp only; unfold decodeEngine; rw [h1]; rw [h2]; rfl

theorem decode_opa (w : IWord) (h0 : fldN w 0 7 = 26) (h1 : fldN w 26 6 = 0) (h2 : fldN w 9 3 = 0) (h3 : fldN w 25 1 = 0) :
    decode w = .opa (fld w 7 2) (fld w 12 3) (fld w 15 5) (fld w 20 5) := by
  unfold decode decodeRow; rw [h0]; simp only; unfold decodeTile; rw [h1]; rw [h2]; rw [h3]; rfl

theorem decode_ops (w : IWord) (h0 : fldN w 0 7 = 26) (h1 : fldN w 26 6 = 1) (h2 : fldN w 9 3 = 0) (h3 : fldN w 25 1 = 0) :
    decode w = .ops (fld w 7 2) (fld w 12 3) (fld w 15 5) (fld w 20 5) := by
  unfold decode decodeRow; rw [h0]; simp only; unfold decodeTile; rw [h1]; rw [h2]; rw [h3]; rfl

theorem decode_opam (w : IWord) (h0 : fldN w 0 7 = 26) (h1 : fldN w 26 6 = 2) (h2 : fldN w 9 3 = 0) (h3 : fldN w 25 1 = 1) :
    decode w = .opam (fld w 7 2) (fld w 12 3) (fld w 15 5) (fld w 20 5) := by
  unfold decode decodeRow; rw [h0]; simp only; unfold decodeTile; rw [h1]; rw [h2]; rw [h3]; rfl

theorem decode_tzero (w : IWord) (h0 : fldN w 0 7 = 26) (h1 : fldN w 26 6 = 3) (h2 : fldN w 9 17 = 0) :
    decode w = .tzero (fld w 7 2) := by
  unfold decode decodeRow; rw [h0]; simp only; unfold decodeTile; rw [h1]; rw [h2]; rfl

theorem decode_tld (w : IWord) (h0 : fldN w 0 7 = 26) (h1 : fldN w 26 6 = 4) (h2 : fldN w 9 6 = 8) (h3 : fldN w 25 1 = 0) :
    decode w = .tld (fld w 7 2) (fld w 15 5) (fld w 20 5) := by
  unfold decode decodeRow; rw [h0]; simp only; unfold decodeTile; rw [h1]; rw [h2]; rw [h3]; rfl

theorem decode_tst (w : IWord) (h0 : fldN w 0 7 = 26) (h1 : fldN w 26 6 = 5) (h2 : fldN w 9 6 = 8) (h3 : fldN w 25 1 = 0) :
    decode w = .tst (fld w 7 2) (fld w 15 5) (fld w 20 5) := by
  unfold decode decodeRow; rw [h0]; simp only; unfold decodeTile; rw [h1]; rw [h2]; rw [h3]; rfl

theorem decode_trdrow (w : IWord) (h0 : fldN w 0 7 = 26) (h1 : fldN w 26 6 = 6) (h2 : fldN w 9 3 = 0) :
    decode w = .trdrow (fld w 7 2) (fld w 12 3) (fld w 15 5) (fld w 20 5) (fld w 25 1) := by
  unfold decode decodeRow; rw [h0]; simp only; unfold decodeTile; rw [h1]; rw [h2]; rfl

theorem decode_twrrow (w : IWord) (h0 : fldN w 0 7 = 26) (h1 : fldN w 26 6 = 7) (h2 : fldN w 9 3 = 0) :
    decode w = .twrrow (fld w 7 2) (fld w 12 3) (fld w 15 5) (fld w 20 5) (fld w 25 1) := by
  unfold decode decodeRow; rw [h0]; simp only; unfold decodeTile; rw [h1]; rw [h2]; rfl

theorem decode_tepi (w : IWord) (h0 : fldN w 0 7 = 26) (h1 : fldN w 26 6 = 8) (h2 : fldN w 9 6 = 8) :
    decode w = .tepi (fld w 7 2) (fld w 15 5) (fld w 20 5) (fld w 25 1) := by
  unfold decode decodeRow; rw [h0]; simp only; unfold decodeTile; rw [h1]; rw [h2]; rfl

theorem decode_skinitD (w : IWord) (h0 : fldN w 0 7 = 27) (h1 : fldN w 25 7 = 0) (h2 : fldN w 12 3 = 1) (h3 : fldN w 20 5 = 0) :
    decode w = .skinitD (fld w 7 5) (fld w 15 5) := by
  unfold decode decodeRow; rw [h0]; simp only; unfold decodeSketch; rw [h1]; rw [h2]; rw [h3]; rfl

theorem decode_skinitH (w : IWord) (h0 : fldN w 0 7 = 27) (h1 : fldN w 25 7 = 0) (h2 : fldN w 12 3 = 2) (h3 : fldN w 20 5 = 0) :
    decode w = .skinitH (fld w 7 5) (fld w 15 5) := by
  unfold decode decodeRow; rw [h0]; simp only; unfold decodeSketch; rw [h1]; rw [h2]; rw [h3]; rfl

theorem decode_skinitQ (w : IWord) (h0 : fldN w 0 7 = 27) (h1 : fldN w 25 7 = 0) (h2 : fldN w 12 3 = 3) :
    decode w = .skinitQ (fld w 7 5) (fld w 15 5) (fld w 20 5) := by
  unfold decode decodeRow; rw [h0]; simp only; unfold decodeSketch; rw [h1]; rw [h2]; rfl

theorem decode_skqadd (w : IWord) (h0 : fldN w 0 7 = 27) (h1 : fldN w 25 7 = 1) (h2 : fldN w 7 5 = 0) (h3 : fldN w 13 2 = 0) :
    decode w = .skqadd (fld w 12 1) (fld w 15 5) (fld w 20 5) := by
  unfold decode decodeRow; rw [h0]; simp only; unfold decodeSketch; rw [h1]; rw [h2]; rw [h3]; rfl

theorem decode_skhadd (w : IWord) (h0 : fldN w 0 7 = 27) (h1 : fldN w 25 7 = 2) (h2 : fldN w 13 1 = 0) (h3 : fldN w 7 5 = 0) (h4 : fldN w 14 1 = 0) :
    decode w = .skhadd (fld w 12 1) (fld w 15 5) (fld w 20 5) := by
  unfold decode decodeRow; rw [h0]; simp only; unfold decodeSketch; rw [h1]; rw [h2]; rw [h3]; rw [h4]; rfl

theorem decode_skhaddW (w : IWord) (h0 : fldN w 0 7 = 27) (h1 : fldN w 25 7 = 2) (h2 : fldN w 13 1 ≠ 0) (h3 : fldN w 14 1 = 0) :
    decode w = .skhaddW (fld w 7 5) (fld w 12 1) (fld w 15 5) (fld w 20 5) := by
  unfold decode decodeRow; rw [h0]; simp only; unfold decodeSketch; rw [h1]; simp only [h2, if_false]; rw [h3]; rfl

theorem decode_skdadd (w : IWord) (h0 : fldN w 0 7 = 27) (h1 : fldN w 25 7 = 3) (h2 : fldN w 7 5 = 0) (h3 : fldN w 13 2 = 0) :
    decode w = .skdadd (fld w 12 1) (fld w 15 5) (fld w 20 5) := by
  unfold decode decodeRow; rw [h0]; simp only; unfold decodeSketch; rw [h1]; rw [h2]; rw [h3]; rfl

theorem decode_skmerge (w : IWord) (h0 : fldN w 0 7 = 27) (h1 : fldN w 25 7 = 4) (h2 : fldN w 7 8 = 0) :
    decode w = .skmerge (fld w 15 5) (fld w 20 5) := by
  unfold decode decodeRow; rw [h0]; simp only; unfold decodeSketch; rw [h1]; rw [h2]; rfl

theorem decode_skqq (w : IWord) (h0 : fldN w 0 7 = 27) (h1 : fldN w 25 7 = 5) (h2 : fldN w 12 3 = 0) :
    decode w = .skqq (fld w 7 5) (fld w 15 5) (fld w 20 5) := by
  unfold decode decodeRow; rw [h0]; simp only; unfold decodeSketch; rw [h1]; rw [h2]; rfl

theorem decode_skhtop (w : IWord) (h0 : fldN w 0 7 = 27) (h1 : fldN w 25 7 = 6) (h2 : fldN w 14 1 = 0) :
    decode w = .skhtop (fld w 7 5) (fld w 12 2) (fld w 15 5) (fld w 20 5) := by
  unfold decode decodeRow; rw [h0]; simp only; unfold decodeSketch; rw [h1]; rw [h2]; rfl

theorem decode_skdcnt (w : IWord) (h0 : fldN w 0 7 = 27) (h1 : fldN w 25 7 = 7) (h2 : fldN w 12 3 = 0) (h3 : fldN w 20 5 = 0) :
    decode w = .skdcnt (fld w 7 5) (fld w 15 5) := by
  unfold decode decodeRow; rw [h0]; simp only; unfold decodeSketch; rw [h1]; rw [h2]; rw [h3]; rfl

theorem decode_vclipq (w : IWord) (h0 : fldN w 0 7 = 27) (h1 : fldN w 25 7 = 8) (h2 : fldN w 13 2 = 0) :
    decode w = .vclipq (fld w 7 5) (fld w 12 1) (fld w 15 5) (fld w 20 5) := by
  unfold decode decodeRow; rw [h0]; simp only; unfold decodeSketch; rw [h1]; rw [h2]; rfl

theorem decode_vscaleq (w : IWord) (h0 : fldN w 0 7 = 27) (h1 : fldN w 25 7 = 9) (h2 : fldN w 13 2 = 0) :
    decode w = .vscaleq (fld w 7 5) (fld w 12 1) (fld w 15 5) (fld w 20 5) := by
  unfold decode decodeRow; rw [h0]; simp only; unfold decodeSketch; rw [h1]; rw [h2]; rfl

theorem decode_rld (w : IWord) (h0 : fldN w 0 7 = 28) (h1 : fldN w 25 7 = 0) (h2 : fldN w 13 2 = 0) :
    decode w = .rld (fld w 7 5) (fld w 12 1) (fld w 15 5) (fld w 20 3) (fld w 23 2) := by
  unfold decode decodeRow; rw [h0]; simp only; unfold decodeRoute; rw [h1]; rw [h2]; rfl

theorem decode_rst (w : IWord) (h0 : fldN w 0 7 = 28) (h1 : fldN w 25 7 = 1) (h2 : fldN w 12 3 = 0) :
    decode w = .rst (fld w 7 5) (fld w 15 5) (fld w 20 3) (fld w 23 2) := by
  unfold decode decodeRow; rw [h0]; simp only; unfold decodeRoute; rw [h1]; rw [h2]; rfl

theorem decode_rstp (w : IWord) (h0 : fldN w 0 7 = 28) (h1 : fldN w 25 7 = 2) (h2 : fldN w 12 3 = 0) :
    decode w = .rstp (fld w 7 5) (fld w 15 5) (fld w 20 3) (fld w 23 2) := by
  unfold decode decodeRow; rw [h0]; simp only; unfold decodeRoute; rw [h1]; rw [h2]; rfl

theorem decode_ramo (w : IWord) (h0 : fldN w 0 7 = 28) (h1 : fldN w 25 7 = 3) :
    decode w = .ramo (fld w 7 5) (BitVec.ofNat 4 (fldN w 24 1 * 8 + fldN w 12 3)) (fld w 15 5) (fld w 20 3) (fld w 23 1) := by
  unfold decode decodeRow; rw [h0]; simp only; unfold decodeRoute; rw [h1]; rfl

theorem decode_rcas (w : IWord) (h0 : fldN w 0 7 = 28) (h1 : fldN w 25 7 = 4) (h2 : fldN w 12 3 = 0) (h3 : fldN w 23 2 = 0) :
    decode w = .rcas (fld w 7 5) (fld w 15 5) (fld w 20 3) := by
  unfold decode decodeRow; rw [h0]; simp only; unfold decodeRoute; rw [h1]; rw [h2]; rw [h3]; rfl

theorem decode_send (w : IWord) (h0 : fldN w 0 7 = 28) (h1 : fldN w 25 7 = 5) (h2 : fldN w 23 2 = 0) :
    decode w = .send (fld w 7 5) (fld w 12 3) (fld w 15 5) (fld w 20 3) := by
  unfold decode decodeRow; rw [h0]; simp only; unfold decodeRoute; rw [h1]; rw [h2]; rfl

theorem decode_rnarrow (w : IWord) (h0 : fldN w 0 7 = 28) (h1 : fldN w 25 7 = 6) (h2 : fldN w 23 2 = 0) :
    decode w = .rnarrow (fld w 7 4) (fld w 11 1) (fld w 12 3) (fld w 15 5) (fld w 20 3) := by
  unfold decode decodeRow; rw [h0]; simp only; unfold decodeRoute; rw [h1]; rw [h2]; rfl

theorem decode_rtld (w : IWord) (h0 : fldN w 0 7 = 28) (h1 : fldN w 25 7 = 7) (h2 : fldN w 7 8 = 0) (h3 : fldN w 23 2 = 0) :
    decode w = .rtld (fld w 15 5) (fld w 20 3) := by
  unfold decode decodeRow; rw [h0]; simp only; unfold decodeRoute; rw [h1]; rw [h2]; rw [h3]; rfl

theorem decode_rtst (w : IWord) (h0 : fldN w 0 7 = 28) (h1 : fldN w 25 7 = 8) (h2 : fldN w 7 8 = 0) (h3 : fldN w 23 2 = 0) :
    decode w = .rtst (fld w 15 5) (fld w 20 3) := by
  unfold decode decodeRow; rw [h0]; simp only; unfold decodeRoute; rw [h1]; rw [h2]; rw [h3]; rfl

theorem decode_rmov (w : IWord) (h0 : fldN w 0 7 = 28) (h1 : fldN w 25 7 = 9) (h2 : fldN w 7 5 = 0) (h3 : fldN w 15 5 = 0) (h4 : fldN w 23 2 = 0) :
    decode w = .rmov (fld w 12 3) (fld w 20 3) := by
  unfold decode decodeRow; rw [h0]; simp only; unfold decodeRoute; rw [h1]; rw [h2]; rw [h3]; rw [h4]; rfl

theorem decode_rrevoke (w : IWord) (h0 : fldN w 0 7 = 28) (h1 : fldN w 25 7 = 10) (h2 : fldN w 12 13 = 0) :
    decode w = .rrevoke (fld w 7 5) := by
  unfold decode decodeRow; rw [h0]; simp only; unfold decodeRoute; rw [h1]; rw [h2]; rfl

theorem decode_rstm (w : IWord) (h0 : fldN w 0 7 = 28) (h1 : fldN w 25 7 = 11) (h2 : fldN w 12 3 = 0) :
    decode w = .rstm (fld w 7 5) (fld w 15 5) (fld w 20 3) (fld w 23 2) := by
  unfold decode decodeRow; rw [h0]; simp only; unfold decodeRoute; rw [h1]; rw [h2]; rfl

theorem decode_vstxr (w : IWord) (h0 : fldN w 0 7 = 29) (h1 : fldN w 26 6 = 0) (h2 : fldN w 12 3 = 0) :
    decode w = .vstxr (fld w 7 5) (fld w 15 5) (fld w 20 5) (fld w 25 1) := by
  unfold decode decodeRow; rw [h0]; simp only; unfold decodeColl; rw [h1]; rw [h2]; rfl

theorem decode_collbegin (w : IWord) (h0 : fldN w 0 7 = 29) (h1 : fldN w 26 6 = 1) (h2 : fldN w 14 1 = 0) (h3 : fldN w 25 1 = 0) :
    decode w = .collbegin (fld w 7 5) (fld w 12 2) (fld w 15 5) (fld w 20 5) := by
  unfold decode decodeRow; rw [h0]; simp only; unfold decodeColl; rw [h1]; rw [h2]; rw [h3]; rfl

theorem decode_collend (w : IWord) (h0 : fldN w 0 7 = 29) (h1 : fldN w 26 6 = 2) (h2 : fldN w 12 2 ≠ 0) (h3 : fldN w 14 1 = 0) (h4 : fldN w 20 5 = 0) :
    decode w = .collend (fld w 7 5) (fld w 12 2) (fld w 15 5) (fld w 25 1) := by
  unfold decode decodeRow; rw [h0]; simp only; unfold decodeColl; rw [h1]; simp only [h2, if_false]; rw [h3]; rw [h4]; rfl

theorem decode_collendExch (w : IWord) (h0 : fldN w 0 7 = 29) (h1 : fldN w 26 6 = 2) (h2 : fldN w 12 2 = 0) (h3 : fldN w 7 5 = 0) (h4 : fldN w 14 1 = 0) (h5 : fldN w 20 5 = 0) :
    decode w = .collendExch (fld w 15 5) (fld w 25 1) := by
  unfold decode decodeRow; rw [h0]; simp only; unfold decodeColl; rw [h1]; rw [h2]; rw [h3]; rw [h4]; rw [h5]; rfl

theorem decode_collabort (w : IWord) (h0 : fldN w 0 7 = 29) (h1 : fldN w 26 6 = 3) (h2 : fldN w 7 8 = 0) (h3 : fldN w 20 6 = 0) :
    decode w = .collabort (fld w 15 5) := by
  unfold decode decodeRow; rw [h0]; simp only; unfold decodeColl; rw [h1]; rw [h2]; rw [h3]; rfl

end Sys2Proof.Laws
end

