-- ==== Sys2Proof/Laws/PerInstr.lean ====
section
/-! SUPPORT. Statements made per constructor of Instr: the word of an operation decodes to the operation. -/

set_option Elab.async false

namespace Sys2Proof.Laws.RoundTrip

/-- Decoding the word of an operation gives the operation back: every field at every value that the operation accepts. Operations without a word,
and the name of the words that no row assigns, are left out. -/
def Statement (i : Instr) : Prop := i.isWord = true → i.wellFormed = true → (∀ w, i = .illegalWord w → decodeRow w = none) → decode (encode i) = i

theorem addi (d : BitVec 5) (a : BitVec 5) (i : BitVec 12) : Statement (.addi d a i) := by
  intro _ _ _
  have hd := d.isLt
  have ha := a.isLt
  have hi := i.isLt
  have hN : 0x1 + d.toNat * 128 + a.toNat * 32768 + i.toNat * 1048576 < 2 ^ 32 := by omega
  show decode (BitVec.ofNat 32 (0x1 + d.toNat * 128 + a.toNat * 32768 + i.toNat * 1048576)) = _
  rw [decode_addi _ (by rw [fldN_ofNat _ _ _ hN]; exact field_at (0) (1) (0 + d.toNat * 1 + a.toNat * 256 + i.toNat * 8192) (by omega) (by omega) (by omega)) (by rw [fldN_ofNat _ _ _ hN]; exact field_at (1 + d.toNat * 128) (0) (0 + a.toNat * 1 + i.toNat * 32) (by omega) (by omega) (by omega)),
    fld_ofNat _ _ d hN (field_at (1) (d.toNat) (0 + a.toNat * 8 + i.toNat * 256) (by omega) (by omega) (by omega)),
    fld_ofNat _ _ a hN (field_at (1 + d.toNat * 128) (a.toNat) (0 + i.toNat * 1) (by omega) (by omega) (by omega)),
    fld_ofNat _ _ i hN (field_at (1 + d.toNat * 128 + a.toNat * 32768) (i.toNat) (0) (by omega) (by omega) (by omega))]

theorem andi (d : BitVec 5) (a : BitVec 5) (i : BitVec 12) : Statement (.andi d a i) := by
  intro _ _ _
  have hd := d.isLt
  have ha := a.isLt
  have hi := i.isLt
  have hN : 0x1001 + d.toNat * 128 + a.toNat * 32768 + i.toNat * 1048576 < 2 ^ 32 := by omega
  show decode (BitVec.ofNat 32 (0x1001 + d.toNat * 128 + a.toNat * 32768 + i.toNat * 1048576)) = _
  rw [decode_andi _ (by rw [fldN_ofNat _ _ _ hN]; exact field_at (0) (1) (32 + d.toNat * 1 + a.toNat * 256 + i.toNat * 8192) (by omega) (by omega) (by omega)) (by rw [fldN_ofNat _ _ _ hN]; exact field_at (1 + d.toNat * 128) (1) (0 + a.toNat * 1 + i.toNat * 32) (by omega) (by omega) (by omega)),
    fld_ofNat _ _ d hN (field_at (1) (d.toNat) (1 + a.toNat * 8 + i.toNat * 256) (by omega) (by omega) (by omega)),
    fld_ofNat _ _ a hN (field_at (4097 + d.toNat * 128) (a.toNat) (0 + i.toNat * 1) (by omega) (by omega) (by omega)),
    fld_ofNat _ _ i hN (field_at (4097 + d.toNat * 128 + a.toNat * 32768) (i.toNat) (0) (by omega) (by omega) (by omega))]

theorem ori (d : BitVec 5) (a : BitVec 5) (i : BitVec 12) : Statement (.ori d a i) := by
  intro _ _ _
  have hd := d.isLt
  have ha := a.isLt
  have hi := i.isLt
  have hN : 0x2001 + d.toNat * 128 + a.toNat * 32768 + i.toNat * 1048576 < 2 ^ 32 := by omega
  show decode (BitVec.ofNat 32 (0x2001 + d.toNat * 128 + a.toNat * 32768 + i.toNat * 1048576)) = _
  rw [decode_ori _ (by rw [fldN_ofNat _ _ _ hN]; exact field_at (0) (1) (64 + d.toNat * 1 + a.toNat * 256 + i.toNat * 8192) (by omega) (by omega) (by omega)) (by rw [fldN_ofNat _ _ _ hN]; exact field_at (1 + d.toNat * 128) (2) (0 + a.toNat * 1 + i.toNat * 32) (by omega) (by omega) (by omega)),
    fld_ofNat _ _ d hN (field_at (1) (d.toNat) (2 + a.toNat * 8 + i.toNat * 256) (by omega) (by omega) (by omega)),
    fld_ofNat _ _ a hN (field_at (8193 + d.toNat * 128) (a.toNat) (0 + i.toNat * 1) (by omega) (by omega) (by omega)),
    fld_ofNat _ _ i hN (field_at (8193 + d.toNat * 128 + a.toNat * 32768) (i.toNat) (0) (by omega) (by omega) (by omega))]

theorem xori (d : BitVec 5) (a : BitVec 5) (i : BitVec 12) : Statement (.xori d a i) := by
  intro _ _ _
  have hd := d.isLt
  have ha := a.isLt
  have hi := i.isLt
  have hN : 0x3001 + d.toNat * 128 + a.toNat * 32768 + i.toNat * 1048576 < 2 ^ 32 := by omega
  show decode (BitVec.ofNat 32 (0x3001 + d.toNat * 128 + a.toNat * 32768 + i.toNat * 1048576)) = _
  rw [decode_xori _ (by rw [fldN_ofNat _ _ _ hN]; exact field_at (0) (1) (96 + d.toNat * 1 + a.toNat * 256 + i.toNat * 8192) (by omega) (by omega) (by omega)) (by rw [fldN_ofNat _ _ _ hN]; exact field_at (1 + d.toNat * 128) (3) (0 + a.toNat * 1 + i.toNat * 32) (by omega) (by omega) (by omega)),
    fld_ofNat _ _ d hN (field_at (1) (d.toNat) (3 + a.toNat * 8 + i.toNat * 256) (by omega) (by omega) (by omega)),
    fld_ofNat _ _ a hN (field_at (12289 + d.toNat * 128) (a.toNat) (0 + i.toNat * 1) (by omega) (by omega) (by omega)),
    fld_ofNat _ _ i hN (field_at (12289 + d.toNat * 128 + a.toNat * 32768) (i.toNat) (0) (by omega) (by omega) (by omega))]

theorem slti (d : BitVec 5) (a : BitVec 5) (i : BitVec 12) : Statement (.slti d a i) := by
  intro _ _ _
  have hd := d.isLt
  have ha := a.isLt
  have hi := i.isLt
  have hN : 0x4001 + d.toNat * 128 + a.toNat * 32768 + i.toNat * 1048576 < 2 ^ 32 := by omega
  show decode (BitVec.ofNat 32 (0x4001 + d.toNat * 128 + a.toNat * 32768 + i.toNat * 1048576)) = _
  rw [decode_slti _ (by rw [fldN_ofNat _ _ _ hN]; exact field_at (0) (1) (128 + d.toNat * 1 + a.toNat * 256 + i.toNat * 8192) (by omega) (by omega) (by omega)) (by rw [fldN_ofNat _ _ _ hN]; exact field_at (1 + d.toNat * 128) (4) (0 + a.toNat * 1 + i.toNat * 32) (by omega) (by omega) (by omega)),
    fld_ofNat _ _ d hN (field_at (1) (d.toNat) (4 + a.toNat * 8 + i.toNat * 256) (by omega) (by omega) (by omega)),
    fld_ofNat _ _ a hN (field_at (16385 + d.toNat * 128) (a.toNat) (0 + i.toNat * 1) (by omega) (by omega) (by omega)),
    fld_ofNat _ _ i hN (field_at (16385 + d.toNat * 128 + a.toNat * 32768) (i.toNat) (0) (by omega) (by omega) (by omega))]

theorem sltiu (d : BitVec 5) (a : BitVec 5) (i : BitVec 12) : Statement (.sltiu d a i) := by
  intro _ _ _
  have hd := d.isLt
  have ha := a.isLt
  have hi := i.isLt
  have hN : 0x5001 + d.toNat * 128 + a.toNat * 32768 + i.toNat * 1048576 < 2 ^ 32 := by omega
  show decode (BitVec.ofNat 32 (0x5001 + d.toNat * 128 + a.toNat * 32768 + i.toNat * 1048576)) = _
  rw [decode_sltiu _ (by rw [fldN_ofNat _ _ _ hN]; exact field_at (0) (1) (160 + d.toNat * 1 + a.toNat * 256 + i.toNat * 8192) (by omega) (by omega) (by omega)) (by rw [fldN_ofNat _ _ _ hN]; exact field_at (1 + d.toNat * 128) (5) (0 + a.toNat * 1 + i.toNat * 32) (by omega) (by omega) (by omega)),
    fld_ofNat _ _ d hN (field_at (1) (d.toNat) (5 + a.toNat * 8 + i.toNat * 256) (by omega) (by omega) (by omega)),
    fld_ofNat _ _ a hN (field_at (20481 + d.toNat * 128) (a.toNat) (0 + i.toNat * 1) (by omega) (by omega) (by omega)),
    fld_ofNat _ _ i hN (field_at (20481 + d.toNat * 128 + a.toNat * 32768) (i.toNat) (0) (by omega) (by omega) (by omega))]

theorem slli (d : BitVec 5) (a : BitVec 5) (s : BitVec 6) : Statement (.slli d a s) := by
  intro _ _ _
  have hd := d.isLt
  have ha := a.isLt
  have hs := s.isLt
  have hN : 0x6001 + d.toNat * 128 + a.toNat * 32768 + s.toNat * 1048576 < 2 ^ 32 := by omega
  show decode (BitVec.ofNat 32 (0x6001 + d.toNat * 128 + a.toNat * 32768 + s.toNat * 1048576)) = _
  rw [decode_slli _ (by rw [fldN_ofNat _ _ _ hN]; exact field_at (0) (1) (192 + d.toNat * 1 + a.toNat * 256 + s.toNat * 8192) (by omega) (by omega) (by omega)) (by rw [fldN_ofNat _ _ _ hN]; exact field_at (1 + d.toNat * 128) (6) (0 + a.toNat * 1 + s.toNat * 32) (by omega) (by omega) (by omega)) (by rw [fldN_ofNat _ _ _ hN]; exact field_at (24577 + d.toNat * 128 + a.toNat * 32768 + s.toNat * 1048576) (0) (0) (by omega) (by omega) (by omega)),
    fld_ofNat _ _ d hN (field_at (1) (d.toNat) (6 + a.toNat * 8 + s.toNat * 256) (by omega) (by omega) (by omega)),
    fld_ofNat _ _ a hN (field_at (24577 + d.toNat * 128) (a.toNat) (0 + s.toNat * 1) (by omega) (by omega) (by omega)),
    fld_ofNat _ _ s hN (field_at (24577 + d.toNat * 128 + a.toNat * 32768) (s.toNat) (0) (by omega) (by omega) (by omega))]

theorem srli (d : BitVec 5) (a : BitVec 5) (s : BitVec 6) : Statement (.srli d a s) := by
  intro _ _ _
  have hd := d.isLt
  have ha := a.isLt
  have hs := s.isLt
  have hN : 0x4006001 + d.toNat * 128 + a.toNat * 32768 + s.toNat * 1048576 < 2 ^ 32 := by omega
  show decode (BitVec.ofNat 32 (0x4006001 + d.toNat * 128 + a.toNat * 32768 + s.toNat * 1048576)) = _
  rw [decode_srli _ (by rw [fldN_ofNat _ _ _ hN]; exact field_at (0) (1) (524480 + d.toNat * 1 + a.toNat * 256 + s.toNat * 8192) (by omega) (by omega) (by omega)) (by rw [fldN_ofNat _ _ _ hN]; exact field_at (1 + d.toNat * 128) (6) (2048 + a.toNat * 1 + s.toNat * 32) (by omega) (by omega) (by omega)) (by rw [fldN_ofNat _ _ _ hN]; exact field_at (24577 + d.toNat * 128 + a.toNat * 32768 + s.toNat * 1048576) (1) (0) (by omega) (by omega) (by omega)),
    fld_ofNat _ _ d hN (field_at (1) (d.toNat) (16390 + a.toNat * 8 + s.toNat * 256) (by omega) (by omega) (by omega)),
    fld_ofNat _ _ a hN (field_at (24577 + d.toNat * 128) (a.toNat) (64 + s.toNat * 1) (by omega) (by omega) (by omega)),
    fld_ofNat _ _ s hN (field_at (24577 + d.toNat * 128 + a.toNat * 32768) (s.toNat) (1) (by omega) (by omega) (by omega))]

theorem srai (d : BitVec 5) (a : BitVec 5) (s : BitVec 6) : Statement (.srai d a s) := by
  intro _ _ _
  have hd := d.isLt
  have ha := a.isLt
  have hs := s.isLt
  have hN : 0x8006001 + d.toNat * 128 + a.toNat * 32768 + s.toNat * 1048576 < 2 ^ 32 := by omega
  show decode (BitVec.ofNat 32 (0x8006001 + d.toNat * 128 + a.toNat * 32768 + s.toNat * 1048576)) = _
  rw [decode_srai _ (by rw [fldN_ofNat _ _ _ hN]; exact field_at (0) (1) (1048768 + d.toNat * 1 + a.toNat * 256 + s.toNat * 8192) (by omega) (by omega) (by omega)) (by rw [fldN_ofNat _ _ _ hN]; exact field_at (1 + d.toNat * 128) (6) (4096 + a.toNat * 1 + s.toNat * 32) (by omega) (by omega) (by omega)) (by rw [fldN_ofNat _ _ _ hN]; exact field_at (24577 + d.toNat * 128 + a.toNat * 32768 + s.toNat * 1048576) (2) (0) (by omega) (by omega) (by omega)),
    fld_ofNat _ _ d hN (field_at (1) (d.toNat) (32774 + a.toNat * 8 + s.toNat * 256) (by omega) (by omega) (by omega)),
    fld_ofNat _ _ a hN (field_at (24577 + d.toNat * 128) (a.toNat) (128 + s.toNat * 1) (by omega) (by omega) (by omega)),
    fld_ofNat _ _ s hN (field_at (24577 + d.toNat * 128 + a.toNat * 32768) (s.toNat) (2) (by omega) (by omega) (by omega))]

theorem add (d : BitVec 5) (a : BitVec 5) (b : BitVec 5) : Statement (.add d a b) := by
  intro _ _ _
  have hd := d.isLt
  have ha := a.isLt
  have hb := b.isLt
  have hN : 0x2 + d.toNat * 128 + a.toNat * 32768 + b.toNat * 1048576 < 2 ^ 32 := by omega
  show decode (BitVec.ofNat 32 (0x2 + d.toNat * 128 + a.toNat * 32768 + b.toNat * 1048576)) = _
  rw [decode_add _ (by rw [fldN_ofNat _ _ _ hN]; exact field_at (0) (2) (0 + d.toNat * 1 + a.toNat * 256 + b.toNat * 8192) (by omega) (by omega) (by omega)) (by rw [fldN_ofNat _ _ _ hN]; exact field_at (2 + d.toNat * 128 + a.toNat * 32768 + b.toNat * 1048576) (0) (0) (by omega) (by omega) (by omega)) (by rw [fldN_ofNat _ _ _ hN]; exact field_at (2 + d.toNat * 128) (0) (0 + a.toNat * 1 + b.toNat * 32) (by omega) (by omega) (by omega)),
    fld_ofNat _ _ d hN (field_at (2) (d.toNat) (0 + a.toNat * 8 + b.toNat * 256) (by omega) (by omega) (by omega)),
    fld_ofNat _ _ a hN (field_at (2 + d.toNat * 128) (a.toNat) (0 + b.toNat * 1) (by omega) (by omega) (by omega)),
    fld_ofNat _ _ b hN (field_at (2 + d.toNat * 128 + a.toNat * 32768) (b.toNat) (0) (by omega) (by omega) (by omega))]

theorem sub (d : BitVec 5) (a : BitVec 5) (b : BitVec 5) : Statement (.sub d a b) := by
  intro _ _ _
  have hd := d.isLt
  have ha := a.isLt
  have hb := b.isLt
  have hN : 0x2000002 + d.toNat * 128 + a.toNat * 32768 + b.toNat * 1048576 < 2 ^ 32 := by omega
  show decode (BitVec.ofNat 32 (0x2000002 + d.toNat * 128 + a.toNat * 32768 + b.toNat * 1048576)) = _
  rw [decode_sub _ (by rw [fldN_ofNat _ _ _ hN]; exact field_at (0) (2) (262144 + d.toNat * 1 + a.toNat * 256 + b.toNat * 8192) (by omega) (by omega) (by omega)) (by rw [fldN_ofNat _ _ _ hN]; exact field_at (2 + d.toNat * 128 + a.toNat * 32768 + b.toNat * 1048576) (1) (0) (by omega) (by omega) (by omega)) (by rw [fldN_ofNat _ _ _ hN]; exact field_at (2 + d.toNat * 128) (0) (1024 + a.toNat * 1 + b.toNat * 32) (by omega) (by omega) (by omega)),
    fld_ofNat _ _ d hN (field_at (2) (d.toNat) (8192 + a.toNat * 8 + b.toNat * 256) (by omega) (by omega) (by omega)),
    fld_ofNat _ _ a hN (field_at (2 + d.toNat * 128) (a.toNat) (32 + b.toNat * 1) (by omega) (by omega) (by omega)),
    fld_ofNat _ _ b hN (field_at (2 + d.toNat * 128 + a.toNat * 32768) (b.toNat) (1) (by omega) (by omega) (by omega))]

theorem and (d : BitVec 5) (a : BitVec 5) (b : BitVec 5) : Statement (.and d a b) := by
  intro _ _ _
  have hd := d.isLt
  have ha := a.isLt
  have hb := b.isLt
  have hN : 0x4000002 + d.toNat * 128 + a.toNat * 32768 + b.toNat * 1048576 < 2 ^ 32 := by omega
  show decode (BitVec.ofNat 32 (0x4000002 + d.toNat * 128 + a.toNat * 32768 + b.toNat * 1048576)) = _
  rw [decode_and _ (by rw [fldN_ofNat _ _ _ hN]; exact field_at (0) (2) (524288 + d.toNat * 1 + a.toNat * 256 + b.toNat * 8192) (by omega) (by omega) (by omega)) (by rw [fldN_ofNat _ _ _ hN]; exact field_at (2 + d.toNat * 128 + a.toNat * 32768 + b.toNat * 1048576) (2) (0) (by omega) (by omega) (by omega)) (by rw [fldN_ofNat _ _ _ hN]; exact field_at (2 + d.toNat * 128) (0) (2048 + a.toNat * 1 + b.toNat * 32) (by omega) (by omega) (by omega)),
    fld_ofNat _ _ d hN (field_at (2) (d.toNat) (16384 + a.toNat * 8 + b.toNat * 256) (by omega) (by omega) (by omega)),
    fld_ofNat _ _ a hN (field_at (2 + d.toNat * 128) (a.toNat) (64 + b.toNat * 1) (by omega) (by omega) (by omega)),
    fld_ofNat _ _ b hN (field_at (2 + d.toNat * 128 + a.toNat * 32768) (b.toNat) (2) (by omega) (by omega) (by omega))]

theorem or (d : BitVec 5) (a : BitVec 5) (b : BitVec 5) : Statement (.or d a b) := by
  intro _ _ _
  have hd := d.isLt
  have ha := a.isLt
  have hb := b.isLt
  have hN : 0x6000002 + d.toNat * 128 + a.toNat * 32768 + b.toNat * 1048576 < 2 ^ 32 := by omega
  show decode (BitVec.ofNat 32 (0x6000002 + d.toNat * 128 + a.toNat * 32768 + b.toNat * 1048576)) = _
  rw [decode_or _ (by rw [fldN_ofNat _ _ _ hN]; exact field_at (0) (2) (786432 + d.toNat * 1 + a.toNat * 256 + b.toNat * 8192) (by omega) (by omega) (by omega)) (by rw [fldN_ofNat _ _ _ hN]; exact field_at (2 + d.toNat * 128 + a.toNat * 32768 + b.toNat * 1048576) (3) (0) (by omega) (by omega) (by omega)) (by rw [fldN_ofNat _ _ _ hN]; exact field_at (2 + d.toNat * 128) (0) (3072 + a.toNat * 1 + b.toNat * 32) (by omega) (by omega) (by omega)),
    fld_ofNat _ _ d hN (field_at (2) (d.toNat) (24576 + a.toNat * 8 + b.toNat * 256) (by omega) (by omega) (by omega)),
    fld_ofNat _ _ a hN (field_at (2 + d.toNat * 128) (a.toNat) (96 + b.toNat * 1) (by omega) (by omega) (by omega)),
    fld_ofNat _ _ b hN (field_at (2 + d.toNat * 128 + a.toNat * 32768) (b.toNat) (3) (by omega) (by omega) (by omega))]

theorem xor (d : BitVec 5) (a : BitVec 5) (b : BitVec 5) : Statement (.xor d a b) := by
  intro _ _ _
  have hd := d.isLt
  have ha := a.isLt
  have hb := b.isLt
  have hN : 0x8000002 + d.toNat * 128 + a.toNat * 32768 + b.toNat * 1048576 < 2 ^ 32 := by omega
  show decode (BitVec.ofNat 32 (0x8000002 + d.toNat * 128 + a.toNat * 32768 + b.toNat * 1048576)) = _
  rw [decode_xor _ (by rw [fldN_ofNat _ _ _ hN]; exact field_at (0) (2) (1048576 + d.toNat * 1 + a.toNat * 256 + b.toNat * 8192) (by omega) (by omega) (by omega)) (by rw [fldN_ofNat _ _ _ hN]; exact field_at (2 + d.toNat * 128 + a.toNat * 32768 + b.toNat * 1048576) (4) (0) (by omega) (by omega) (by omega)) (by rw [fldN_ofNat _ _ _ hN]; exact field_at (2 + d.toNat * 128) (0) (4096 + a.toNat * 1 + b.toNat * 32) (by omega) (by omega) (by omega)),
    fld_ofNat _ _ d hN (field_at (2) (d.toNat) (32768 + a.toNat * 8 + b.toNat * 256) (by omega) (by omega) (by omega)),
    fld_ofNat _ _ a hN (field_at (2 + d.toNat * 128) (a.toNat) (128 + b.toNat * 1) (by omega) (by omega) (by omega)),
    fld_ofNat _ _ b hN (field_at (2 + d.toNat * 128 + a.toNat * 32768) (b.toNat) (4) (by omega) (by omega) (by omega))]

theorem sll (d : BitVec 5) (a : BitVec 5) (b : BitVec 5) : Statement (.sll d a b) := by
  intro _ _ _
  have hd := d.isLt
  have ha := a.isLt
  have hb := b.isLt
  have hN : 0xA000002 + d.toNat * 128 + a.toNat * 32768 + b.toNat * 1048576 < 2 ^ 32 := by omega
  show decode (BitVec.ofNat 32 (0xA000002 + d.toNat * 128 + a.toNat * 32768 + b.toNat * 1048576)) = _
  rw [decode_sll _ (by rw [fldN_ofNat _ _ _ hN]; exact field_at (0) (2) (1310720 + d.toNat * 1 + a.toNat * 256 + b.toNat * 8192) (by omega) (by omega) (by omega)) (by rw [fldN_ofNat _ _ _ hN]; exact field_at (2 + d.toNat * 128 + a.toNat * 32768 + b.toNat * 1048576) (5) (0) (by omega) (by omega) (by omega)) (by rw [fldN_ofNat _ _ _ hN]; exact field_at (2 + d.toNat * 128) (0) (5120 + a.toNat * 1 + b.toNat * 32) (by omega) (by omega) (by omega)),
    fld_ofNat _ _ d hN (field_at (2) (d.toNat) (40960 + a.toNat * 8 + b.toNat * 256) (by omega) (by omega) (by omega)),
    fld_ofNat _ _ a hN (field_at (2 + d.toNat * 128) (a.toNat) (160 + b.toNat * 1) (by omega) (by omega) (by omega)),
    fld_ofNat _ _ b hN (field_at (2 + d.toNat * 128 + a.toNat * 32768) (b.toNat) (5) (by omega) (by omega) (by omega))]

theorem srl (d : BitVec 5) (a : BitVec 5) (b : BitVec 5) : Statement (.srl d a b) := by
  intro _ _ _
  have hd := d.isLt
  have ha := a.isLt
  have hb := b.isLt
  have hN : 0xC000002 + d.toNat * 128 + a.toNat * 32768 + b.toNat * 1048576 < 2 ^ 32 := by omega
  show decode (BitVec.ofNat 32 (0xC000002 + d.toNat * 128 + a.toNat * 32768 + b.toNat * 1048576)) = _
  rw [decode_srl _ (by rw [fldN_ofNat _ _ _ hN]; exact field_at (0) (2) (1572864 + d.toNat * 1 + a.toNat * 256 + b.toNat * 8192) (by omega) (by omega) (by omega)) (by rw [fldN_ofNat _ _ _ hN]; exact field_at (2 + d.toNat * 128 + a.toNat * 32768 + b.toNat * 1048576) (6) (0) (by omega) (by omega) (by omega)) (by rw [fldN_ofNat _ _ _ hN]; exact field_at (2 + d.toNat * 128) (0) (6144 + a.toNat * 1 + b.toNat * 32) (by omega) (by omega) (by omega)),
    fld_ofNat _ _ d hN (field_at (2) (d.toNat) (49152 + a.toNat * 8 + b.toNat * 256) (by omega) (by omega) (by omega)),
    fld_ofNat _ _ a hN (field_at (2 + d.toNat * 128) (a.toNat) (192 + b.toNat * 1) (by omega) (by omega) (by omega)),
    fld_ofNat _ _ b hN (field_at (2 + d.toNat * 128 + a.toNat * 32768) (b.toNat) (6) (by omega) (by omega) (by omega))]

theorem sra (d : BitVec 5) (a : BitVec 5) (b : BitVec 5) : Statement (.sra d a b) := by
  intro _ _ _
  have hd := d.isLt
  have ha := a.isLt
  have hb := b.isLt
  have hN : 0xE000002 + d.toNat * 128 + a.toNat * 32768 + b.toNat * 1048576 < 2 ^ 32 := by omega
  show decode (BitVec.ofNat 32 (0xE000002 + d.toNat * 128 + a.toNat * 32768 + b.toNat * 1048576)) = _
  rw [decode_sra _ (by rw [fldN_ofNat _ _ _ hN]; exact field_at (0) (2) (1835008 + d.toNat * 1 + a.toNat * 256 + b.toNat * 8192) (by omega) (by omega) (by omega)) (by rw [fldN_ofNat _ _ _ hN]; exact field_at (2 + d.toNat * 128 + a.toNat * 32768 + b.toNat * 1048576) (7) (0) (by omega) (by omega) (by omega)) (by rw [fldN_ofNat _ _ _ hN]; exact field_at (2 + d.toNat * 128) (0) (7168 + a.toNat * 1 + b.toNat * 32) (by omega) (by omega) (by omega)),
    fld_ofNat _ _ d hN (field_at (2) (d.toNat) (57344 + a.toNat * 8 + b.toNat * 256) (by omega) (by omega) (by omega)),
    fld_ofNat _ _ a hN (field_at (2 + d.toNat * 128) (a.toNat) (224 + b.toNat * 1) (by omega) (by omega) (by omega)),
    fld_ofNat _ _ b hN (field_at (2 + d.toNat * 128 + a.toNat * 32768) (b.toNat) (7) (by omega) (by omega) (by omega))]

theorem slt (d : BitVec 5) (a : BitVec 5) (b : BitVec 5) : Statement (.slt d a b) := by
  intro _ _ _
  have hd := d.isLt
  have ha := a.isLt
  have hb := b.isLt
  have hN : 0x10000002 + d.toNat * 128 + a.toNat * 32768 + b.toNat * 1048576 < 2 ^ 32 := by omega
  show decode (BitVec.ofNat 32 (0x10000002 + d.toNat * 128 + a.toNat * 32768 + b.toNat * 1048576)) = _
  rw [decode_slt _ (by rw [fldN_ofNat _ _ _ hN]; exact field_at (0) (2) (2097152 + d.toNat * 1 + a.toNat * 256 + b.toNat * 8192) (by omega) (by omega) (by omega)) (by rw [fldN_ofNat _ _ _ hN]; exact field_at (2 + d.toNat * 128 + a.toNat * 32768 + b.toNat * 1048576) (8) (0) (by omega) (by omega) (by omega)) (by rw [fldN_ofNat _ _ _ hN]; exact field_at (2 + d.toNat * 128) (0) (8192 + a.toNat * 1 + b.toNat * 32) (by omega) (by omega) (by omega)),
    fld_ofNat _ _ d hN (field_at (2) (d.toNat) (65536 + a.toNat * 8 + b.toNat * 256) (by omega) (by omega) (by omega)),
    fld_ofNat _ _ a hN (field_at (2 + d.toNat * 128) (a.toNat) (256 + b.toNat * 1) (by omega) (by omega) (by omega)),
    fld_ofNat _ _ b hN (field_at (2 + d.toNat * 128 + a.toNat * 32768) (b.toNat) (8) (by omega) (by omega) (by omega))]

theorem sltu (d : BitVec 5) (a : BitVec 5) (b : BitVec 5) : Statement (.sltu d a b) := by
  intro _ _ _
  have hd := d.isLt
  have ha := a.isLt
  have hb := b.isLt
  have hN : 0x12000002 + d.toNat * 128 + a.toNat * 32768 + b.toNat * 1048576 < 2 ^ 32 := by omega
  show decode (BitVec.ofNat 32 (0x12000002 + d.toNat * 128 + a.toNat * 32768 + b.toNat * 1048576)) = _
  rw [decode_sltu _ (by rw [fldN_ofNat _ _ _ hN]; exact field_at (0) (2) (2359296 + d.toNat * 1 + a.toNat * 256 + b.toNat * 8192) (by omega) (by omega) (by omega)) (by rw [fldN_ofNat _ _ _ hN]; exact field_at (2 + d.toNat * 128 + a.toNat * 32768 + b.toNat * 1048576) (9) (0) (by omega) (by omega) (by omega)) (by rw [fldN_ofNat _ _ _ hN]; exact field_at (2 + d.toNat * 128) (0) (9216 + a.toNat * 1 + b.toNat * 32) (by omega) (by omega) (by omega)),
    fld_ofNat _ _ d hN (field_at (2) (d.toNat) (73728 + a.toNat * 8 + b.toNat * 256) (by omega) (by omega) (by omega)),
    fld_ofNat _ _ a hN (field_at (2 + d.toNat * 128) (a.toNat) (288 + b.toNat * 1) (by omega) (by omega) (by omega)),
    fld_ofNat _ _ b hN (field_at (2 + d.toNat * 128 + a.toNat * 32768) (b.toNat) (9) (by omega) (by omega) (by omega))]

theorem mul (d : BitVec 5) (a : BitVec 5) (b : BitVec 5) : Statement (.mul d a b) := by
  intro _ _ _
  have hd := d.isLt
  have ha := a.isLt
  have hb := b.isLt
  have hN : 0x14000002 + d.toNat * 128 + a.toNat * 32768 + b.toNat * 1048576 < 2 ^ 32 := by omega
  show decode (BitVec.ofNat 32 (0x14000002 + d.toNat * 128 + a.toNat * 32768 + b.toNat * 1048576)) = _
  rw [decode_mul _ (by rw [fldN_ofNat _ _ _ hN]; exact field_at (0) (2) (2621440 + d.toNat * 1 + a.toNat * 256 + b.toNat * 8192) (by omega) (by omega) (by omega)) (by rw [fldN_ofNat _ _ _ hN]; exact field_at (2 + d.toNat * 128 + a.toNat * 32768 + b.toNat * 1048576) (10) (0) (by omega) (by omega) (by omega)) (by rw [fldN_ofNat _ _ _ hN]; exact field_at (2 + d.toNat * 128) (0) (10240 + a.toNat * 1 + b.toNat * 32) (by omega) (by omega) (by omega)),
    fld_ofNat _ _ d hN (field_at (2) (d.toNat) (81920 + a.toNat * 8 + b.toNat * 256) (by omega) (by omega) (by omega)),
    fld_ofNat _ _ a hN (field_at (2 + d.toNat * 128) (a.toNat) (320 + b.toNat * 1) (by omega) (by omega) (by omega)),
    fld_ofNat _ _ b hN (field_at (2 + d.toNat * 128 + a.toNat * 32768) (b.toNat) (10) (by omega) (by omega) (by omega))]

theorem mulh (d : BitVec 5) (a : BitVec 5) (b : BitVec 5) : Statement (.mulh d a b) := by
  intro _ _ _
  have hd := d.isLt
  have ha := a.isLt
  have hb := b.isLt
  have hN : 0x16000002 + d.toNat * 128 + a.toNat * 32768 + b.toNat * 1048576 < 2 ^ 32 := by omega
  show decode (BitVec.ofNat 32 (0x16000002 + d.toNat * 128 + a.toNat * 32768 + b.toNat * 1048576)) = _
  rw [decode_mulh _ (by rw [fldN_ofNat _ _ _ hN]; exact field_at (0) (2) (2883584 + d.toNat * 1 + a.toNat * 256 + b.toNat * 8192) (by omega) (by omega) (by omega)) (by rw [fldN_ofNat _ _ _ hN]; exact field_at (2 + d.toNat * 128 + a.toNat * 32768 + b.toNat * 1048576) (11) (0) (by omega) (by omega) (by omega)) (by rw [fldN_ofNat _ _ _ hN]; exact field_at (2 + d.toNat * 128) (0) (11264 + a.toNat * 1 + b.toNat * 32) (by omega) (by omega) (by omega)),
    fld_ofNat _ _ d hN (field_at (2) (d.toNat) (90112 + a.toNat * 8 + b.toNat * 256) (by omega) (by omega) (by omega)),
    fld_ofNat _ _ a hN (field_at (2 + d.toNat * 128) (a.toNat) (352 + b.toNat * 1) (by omega) (by omega) (by omega)),
    fld_ofNat _ _ b hN (field_at (2 + d.toNat * 128 + a.toNat * 32768) (b.toNat) (11) (by omega) (by omega) (by omega))]

theorem mulhu (d : BitVec 5) (a : BitVec 5) (b : BitVec 5) : Statement (.mulhu d a b) := by
  intro _ _ _
  have hd := d.isLt
  have ha := a.isLt
  have hb := b.isLt
  have hN : 0x18000002 + d.toNat * 128 + a.toNat * 32768 + b.toNat * 1048576 < 2 ^ 32 := by omega
  show decode (BitVec.ofNat 32 (0x18000002 + d.toNat * 128 + a.toNat * 32768 + b.toNat * 1048576)) = _
  rw [decode_mulhu _ (by rw [fldN_ofNat _ _ _ hN]; exact field_at (0) (2) (3145728 + d.toNat * 1 + a.toNat * 256 + b.toNat * 8192) (by omega) (by omega) (by omega)) (by rw [fldN_ofNat _ _ _ hN]; exact field_at (2 + d.toNat * 128 + a.toNat * 32768 + b.toNat * 1048576) (12) (0) (by omega) (by omega) (by omega)) (by rw [fldN_ofNat _ _ _ hN]; exact field_at (2 + d.toNat * 128) (0) (12288 + a.toNat * 1 + b.toNat * 32) (by omega) (by omega) (by omega)),
    fld_ofNat _ _ d hN (field_at (2) (d.toNat) (98304 + a.toNat * 8 + b.toNat * 256) (by omega) (by omega) (by omega)),
    fld_ofNat _ _ a hN (field_at (2 + d.toNat * 128) (a.toNat) (384 + b.toNat * 1) (by omega) (by omega) (by omega)),
    fld_ofNat _ _ b hN (field_at (2 + d.toNat * 128 + a.toNat * 32768) (b.toNat) (12) (by omega) (by omega) (by omega))]

theorem div (d : BitVec 5) (a : BitVec 5) (b : BitVec 5) : Statement (.div d a b) := by
  intro _ _ _
  have hd := d.isLt
  have ha := a.isLt
  have hb := b.isLt
  have hN : 0x1A000002 + d.toNat * 128 + a.toNat * 32768 + b.toNat * 1048576 < 2 ^ 32 := by omega
  show decode (BitVec.ofNat 32 (0x1A000002 + d.toNat * 128 + a.toNat * 32768 + b.toNat * 1048576)) = _
  rw [decode_div _ (by rw [fldN_ofNat _ _ _ hN]; exact field_at (0) (2) (3407872 + d.toNat * 1 + a.toNat * 256 + b.toNat * 8192) (by omega) (by omega) (by omega)) (by rw [fldN_ofNat _ _ _ hN]; exact field_at (2 + d.toNat * 128 + a.toNat * 32768 + b.toNat * 1048576) (13) (0) (by omega) (by omega) (by omega)) (by rw [fldN_ofNat _ _ _ hN]; exact field_at (2 + d.toNat * 128) (0) (13312 + a.toNat * 1 + b.toNat * 32) (by omega) (by omega) (by omega)),
    fld_ofNat _ _ d hN (field_at (2) (d.toNat) (106496 + a.toNat * 8 + b.toNat * 256) (by omega) (by omega) (by omega)),
    fld_ofNat _ _ a hN (field_at (2 + d.toNat * 128) (a.toNat) (416 + b.toNat * 1) (by omega) (by omega) (by omega)),
    fld_ofNat _ _ b hN (field_at (2 + d.toNat * 128 + a.toNat * 32768) (b.toNat) (13) (by omega) (by omega) (by omega))]

theorem divu (d : BitVec 5) (a : BitVec 5) (b : BitVec 5) : Statement (.divu d a b) := by
  intro _ _ _
  have hd := d.isLt
  have ha := a.isLt
  have hb := b.isLt
  have hN : 0x1C000002 + d.toNat * 128 + a.toNat * 32768 + b.toNat * 1048576 < 2 ^ 32 := by omega
  show decode (BitVec.ofNat 32 (0x1C000002 + d.toNat * 128 + a.toNat * 32768 + b.toNat * 1048576)) = _
  rw [decode_divu _ (by rw [fldN_ofNat _ _ _ hN]; exact field_at (0) (2) (3670016 + d.toNat * 1 + a.toNat * 256 + b.toNat * 8192) (by omega) (by omega) (by omega)) (by rw [fldN_ofNat _ _ _ hN]; exact field_at (2 + d.toNat * 128 + a.toNat * 32768 + b.toNat * 1048576) (14) (0) (by omega) (by omega) (by omega)) (by rw [fldN_ofNat _ _ _ hN]; exact field_at (2 + d.toNat * 128) (0) (14336 + a.toNat * 1 + b.toNat * 32) (by omega) (by omega) (by omega)),
    fld_ofNat _ _ d hN (field_at (2) (d.toNat) (114688 + a.toNat * 8 + b.toNat * 256) (by omega) (by omega) (by omega)),
    fld_ofNat _ _ a hN (field_at (2 + d.toNat * 128) (a.toNat) (448 + b.toNat * 1) (by omega) (by omega) (by omega)),
    fld_ofNat _ _ b hN (field_at (2 + d.toNat * 128 + a.toNat * 32768) (b.toNat) (14) (by omega) (by omega) (by omega))]

theorem rem (d : BitVec 5) (a : BitVec 5) (b : BitVec 5) : Statement (.rem d a b) := by
  intro _ _ _
  have hd := d.isLt
  have ha := a.isLt
  have hb := b.isLt
  have hN : 0x1E000002 + d.toNat * 128 + a.toNat * 32768 + b.toNat * 1048576 < 2 ^ 32 := by omega
  show decode (BitVec.ofNat 32 (0x1E000002 + d.toNat * 128 + a.toNat * 32768 + b.toNat * 1048576)) = _
  rw [decode_rem _ (by rw [fldN_ofNat _ _ _ hN]; exact field_at (0) (2) (3932160 + d.toNat * 1 + a.toNat * 256 + b.toNat * 8192) (by omega) (by omega) (by omega)) (by rw [fldN_ofNat _ _ _ hN]; exact field_at (2 + d.toNat * 128 + a.toNat * 32768 + b.toNat * 1048576) (15) (0) (by omega) (by omega) (by omega)) (by rw [fldN_ofNat _ _ _ hN]; exact field_at (2 + d.toNat * 128) (0) (15360 + a.toNat * 1 + b.toNat * 32) (by omega) (by omega) (by omega)),
    fld_ofNat _ _ d hN (field_at (2) (d.toNat) (122880 + a.toNat * 8 + b.toNat * 256) (by omega) (by omega) (by omega)),
    fld_ofNat _ _ a hN (field_at (2 + d.toNat * 128) (a.toNat) (480 + b.toNat * 1) (by omega) (by omega) (by omega)),
    fld_ofNat _ _ b hN (field_at (2 + d.toNat * 128 + a.toNat * 32768) (b.toNat) (15) (by omega) (by omega) (by omega))]

theorem remu (d : BitVec 5) (a : BitVec 5) (b : BitVec 5) : Statement (.remu d a b) := by
  intro _ _ _
  have hd := d.isLt
  have ha := a.isLt
  have hb := b.isLt
  have hN : 0x20000002 + d.toNat * 128 + a.toNat * 32768 + b.toNat * 1048576 < 2 ^ 32 := by omega
  show decode (BitVec.ofNat 32 (0x20000002 + d.toNat * 128 + a.toNat * 32768 + b.toNat * 1048576)) = _
  rw [decode_remu _ (by rw [fldN_ofNat _ _ _ hN]; exact field_at (0) (2) (4194304 + d.toNat * 1 + a.toNat * 256 + b.toNat * 8192) (by omega) (by omega) (by omega)) (by rw [fldN_ofNat _ _ _ hN]; exact field_at (2 + d.toNat * 128 + a.toNat * 32768 + b.toNat * 1048576) (16) (0) (by omega) (by omega) (by omega)) (by rw [fldN_ofNat _ _ _ hN]; exact field_at (2 + d.toNat * 128) (0) (16384 + a.toNat * 1 + b.toNat * 32) (by omega) (by omega) (by omega)),
    fld_ofNat _ _ d hN (field_at (2) (d.toNat) (131072 + a.toNat * 8 + b.toNat * 256) (by omega) (by omega) (by omega)),
    fld_ofNat _ _ a hN (field_at (2 + d.toNat * 128) (a.toNat) (512 + b.toNat * 1) (by omega) (by omega) (by omega)),
    fld_ofNat _ _ b hN (field_at (2 + d.toNat * 128 + a.toNat * 32768) (b.toNat) (16) (by omega) (by omega) (by omega))]

theorem min (d : BitVec 5) (a : BitVec 5) (b : BitVec 5) : Statement (.min d a b) := by
  intro _ _ _
  have hd := d.isLt
  have ha := a.isLt
  have hb := b.isLt
  have hN : 0x22000002 + d.toNat * 128 + a.toNat * 32768 + b.toNat * 1048576 < 2 ^ 32 := by omega
  show decode (BitVec.ofNat 32 (0x22000002 + d.toNat * 128 + a.toNat * 32768 + b.toNat * 1048576)) = _
  rw [decode_min _ (by rw [fldN_ofNat _ _ _ hN]; exact field_at (0) (2) (4456448 + d.toNat * 1 + a.toNat * 256 + b.toNat * 8192) (by omega) (by omega) (by omega)) (by rw [fldN_ofNat _ _ _ hN]; exact field_at (2 + d.toNat * 128 + a.toNat * 32768 + b.toNat * 1048576) (17) (0) (by omega) (by omega) (by omega)) (by rw [fldN_ofNat _ _ _ hN]; exact field_at (2 + d.toNat * 128) (0) (17408 + a.toNat * 1 + b.toNat * 32) (by omega) (by omega) (by omega)),
    fld_ofNat _ _ d hN (field_at (2) (d.toNat) (139264 + a.toNat * 8 + b.toNat * 256) (by omega) (by omega) (by omega)),
    fld_ofNat _ _ a hN (field_at (2 + d.toNat * 128) (a.toNat) (544 + b.toNat * 1) (by omega) (by omega) (by omega)),
    fld_ofNat _ _ b hN (field_at (2 + d.toNat * 128 + a.toNat * 32768) (b.toNat) (17) (by omega) (by omega) (by omega))]

theorem max (d : BitVec 5) (a : BitVec 5) (b : BitVec 5) : Statement (.max d a b) := by
  intro _ _ _
  have hd := d.isLt
  have ha := a.isLt
  have hb := b.isLt
  have hN : 0x24000002 + d.toNat * 128 + a.toNat * 32768 + b.toNat * 1048576 < 2 ^ 32 := by omega
  show decode (BitVec.ofNat 32 (0x24000002 + d.toNat * 128 + a.toNat * 32768 + b.toNat * 1048576)) = _
  rw [decode_max _ (by rw [fldN_ofNat _ _ _ hN]; exact field_at (0) (2) (4718592 + d.toNat * 1 + a.toNat * 256 + b.toNat * 8192) (by omega) (by omega) (by omega)) (by rw [fldN_ofNat _ _ _ hN]; exact field_at (2 + d.toNat * 128 + a.toNat * 32768 + b.toNat * 1048576) (18) (0) (by omega) (by omega) (by omega)) (by rw [fldN_ofNat _ _ _ hN]; exact field_at (2 + d.toNat * 128) (0) (18432 + a.toNat * 1 + b.toNat * 32) (by omega) (by omega) (by omega)),
    fld_ofNat _ _ d hN (field_at (2) (d.toNat) (147456 + a.toNat * 8 + b.toNat * 256) (by omega) (by omega) (by omega)),
    fld_ofNat _ _ a hN (field_at (2 + d.toNat * 128) (a.toNat) (576 + b.toNat * 1) (by omega) (by omega) (by omega)),
    fld_ofNat _ _ b hN (field_at (2 + d.toNat * 128 + a.toNat * 32768) (b.toNat) (18) (by omega) (by omega) (by omega))]

theorem minu (d : BitVec 5) (a : BitVec 5) (b : BitVec 5) : Statement (.minu d a b) := by
  intro _ _ _
  have hd := d.isLt
  have ha := a.isLt
  have hb := b.isLt
  have hN : 0x26000002 + d.toNat * 128 + a.toNat * 32768 + b.toNat * 1048576 < 2 ^ 32 := by omega
  show decode (BitVec.ofNat 32 (0x26000002 + d.toNat * 128 + a.toNat * 32768 + b.toNat * 1048576)) = _
  rw [decode_minu _ (by rw [fldN_ofNat _ _ _ hN]; exact field_at (0) (2) (4980736 + d.toNat * 1 + a.toNat * 256 + b.toNat * 8192) (by omega) (by omega) (by omega)) (by rw [fldN_ofNat _ _ _ hN]; exact field_at (2 + d.toNat * 128 + a.toNat * 32768 + b.toNat * 1048576) (19) (0) (by omega) (by omega) (by omega)) (by rw [fldN_ofNat _ _ _ hN]; exact field_at (2 + d.toNat * 128) (0) (19456 + a.toNat * 1 + b.toNat * 32) (by omega) (by omega) (by omega)),
    fld_ofNat _ _ d hN (field_at (2) (d.toNat) (155648 + a.toNat * 8 + b.toNat * 256) (by omega) (by omega) (by omega)),
    fld_ofNat _ _ a hN (field_at (2 + d.toNat * 128) (a.toNat) (608 + b.toNat * 1) (by omega) (by omega) (by omega)),
    fld_ofNat _ _ b hN (field_at (2 + d.toNat * 128 + a.toNat * 32768) (b.toNat) (19) (by omega) (by omega) (by omega))]

theorem maxu (d : BitVec 5) (a : BitVec 5) (b : BitVec 5) : Statement (.maxu d a b) := by
  intro _ _ _
  have hd := d.isLt
  have ha := a.isLt
  have hb := b.isLt
  have hN : 0x28000002 + d.toNat * 128 + a.toNat * 32768 + b.toNat * 1048576 < 2 ^ 32 := by omega
  show decode (BitVec.ofNat 32 (0x28000002 + d.toNat * 128 + a.toNat * 32768 + b.toNat * 1048576)) = _
  rw [decode_maxu _ (by rw [fldN_ofNat _ _ _ hN]; exact field_at (0) (2) (5242880 + d.toNat * 1 + a.toNat * 256 + b.toNat * 8192) (by omega) (by omega) (by omega)) (by rw [fldN_ofNat _ _ _ hN]; exact field_at (2 + d.toNat * 128 + a.toNat * 32768 + b.toNat * 1048576) (20) (0) (by omega) (by omega) (by omega)) (by rw [fldN_ofNat _ _ _ hN]; exact field_at (2 + d.toNat * 128) (0) (20480 + a.toNat * 1 + b.toNat * 32) (by omega) (by omega) (by omega)),
    fld_ofNat _ _ d hN (field_at (2) (d.toNat) (163840 + a.toNat * 8 + b.toNat * 256) (by omega) (by omega) (by omega)),
    fld_ofNat _ _ a hN (field_at (2 + d.toNat * 128) (a.toNat) (640 + b.toNat * 1) (by omega) (by omega) (by omega)),
    fld_ofNat _ _ b hN (field_at (2 + d.toNat * 128 + a.toNat * 32768) (b.toNat) (20) (by omega) (by omega) (by omega))]

theorem clz (d : BitVec 5) (a : BitVec 5) : Statement (.clz d a) := by
  intro _ _ _
  have hd := d.isLt
  have ha := a.isLt
  have hN : 0x2A000002 + d.toNat * 128 + a.toNat * 32768 < 2 ^ 32 := by omega
  show decode (BitVec.ofNat 32 (0x2A000002 + d.toNat * 128 + a.toNat * 32768)) = _
  rw [decode_clz _ (by rw [fldN_ofNat _ _ _ hN]; exact field_at (0) (2) (5505024 + d.toNat * 1 + a.toNat * 256) (by omega) (by omega) (by omega)) (by rw [fldN_ofNat _ _ _ hN]; exact field_at (2 + d.toNat * 128 + a.toNat * 32768) (21) (0) (by omega) (by omega) (by omega)) (by rw [fldN_ofNat _ _ _ hN]; exact field_at (2 + d.toNat * 128) (0) (21504 + a.toNat * 1) (by omega) (by omega) (by omega)) (by rw [fldN_ofNat _ _ _ hN]; exact field_at (2 + d.toNat * 128 + a.toNat * 32768) (0) (21) (by omega) (by omega) (by omega)),
    fld_ofNat _ _ d hN (field_at (2) (d.toNat) (172032 + a.toNat * 8) (by omega) (by omega) (by omega)),
    fld_ofNat _ _ a hN (field_at (2 + d.toNat * 128) (a.toNat) (672) (by omega) (by omega) (by omega))]

theorem ctz (d : BitVec 5) (a : BitVec 5) : Statement (.ctz d a) := by
  intro _ _ _
  have hd := d.isLt
  have ha := a.isLt
  have hN : 0x2C000002 + d.toNat * 128 + a.toNat * 32768 < 2 ^ 32 := by omega
  show decode (BitVec.ofNat 32 (0x2C000002 + d.toNat * 128 + a.toNat * 32768)) = _
  rw [decode_ctz _ (by rw [fldN_ofNat _ _ _ hN]; exact field_at (0) (2) (5767168 + d.toNat * 1 + a.toNat * 256) (by omega) (by omega) (by omega)) (by rw [fldN_ofNat _ _ _ hN]; exact field_at (2 + d.toNat * 128 + a.toNat * 32768) (22) (0) (by omega) (by omega) (by omega)) (by rw [fldN_ofNat _ _ _ hN]; exact field_at (2 + d.toNat * 128) (0) (22528 + a.toNat * 1) (by omega) (by omega) (by omega)) (by rw [fldN_ofNat _ _ _ hN]; exact field_at (2 + d.toNat * 128 + a.toNat * 32768) (0) (22) (by omega) (by omega) (by omega)),
    fld_ofNat _ _ d hN (field_at (2) (d.toNat) (180224 + a.toNat * 8) (by omega) (by omega) (by omega)),
    fld_ofNat _ _ a hN (field_at (2 + d.toNat * 128) (a.toNat) (704) (by omega) (by omega) (by omega))]

theorem popc (d : BitVec 5) (a : BitVec 5) : Statement (.popc d a) := by
  intro _ _ _
  have hd := d.isLt
  have ha := a.isLt
  have hN : 0x2E000002 + d.toNat * 128 + a.toNat * 32768 < 2 ^ 32 := by omega
  show decode (BitVec.ofNat 32 (0x2E000002 + d.toNat * 128 + a.toNat * 32768)) = _
  rw [decode_popc _ (by rw [fldN_ofNat _ _ _ hN]; exact field_at (0) (2) (6029312 + d.toNat * 1 + a.toNat * 256) (by omega) (by omega) (by omega)) (by rw [fldN_ofNat _ _ _ hN]; exact field_at (2 + d.toNat * 128 + a.toNat * 32768) (23) (0) (by omega) (by omega) (by omega)) (by rw [fldN_ofNat _ _ _ hN]; exact field_at (2 + d.toNat * 128) (0) (23552 + a.toNat * 1) (by omega) (by omega) (by omega)) (by rw [fldN_ofNat _ _ _ hN]; exact field_at (2 + d.toNat * 128 + a.toNat * 32768) (0) (23) (by omega) (by omega) (by omega)),
    fld_ofNat _ _ d hN (field_at (2) (d.toNat) (188416 + a.toNat * 8) (by omega) (by omega) (by omega)),
    fld_ofNat _ _ a hN (field_at (2 + d.toNat * 128) (a.toNat) (736) (by omega) (by omega) (by omega))]

theorem mulmod (d : BitVec 5) (a : BitVec 5) (b : BitVec 5) : Statement (.mulmod d a b) := by
  intro _ _ _
  have hd := d.isLt
  have ha := a.isLt
  have hb := b.isLt
  have hN : 0x30000002 + d.toNat * 128 + a.toNat * 32768 + b.toNat * 1048576 < 2 ^ 32 := by omega
  show decode (BitVec.ofNat 32 (0x30000002 + d.toNat * 128 + a.toNat * 32768 + b.toNat * 1048576)) = _
  rw [decode_mulmod _ (by rw [fldN_ofNat _ _ _ hN]; exact field_at (0) (2) (6291456 + d.toNat * 1 + a.toNat * 256 + b.toNat * 8192) (by omega) (by omega) (by omega)) (by rw [fldN_ofNat _ _ _ hN]; exact field_at (2 + d.toNat * 128 + a.toNat * 32768 + b.toNat * 1048576) (24) (0) (by omega) (by omega) (by omega)) (by rw [fldN_ofNat _ _ _ hN]; exact field_at (2 + d.toNat * 128) (0) (24576 + a.toNat * 1 + b.toNat * 32) (by omega) (by omega) (by omega)),
    fld_ofNat _ _ d hN (field_at (2) (d.toNat) (196608 + a.toNat * 8 + b.toNat * 256) (by omega) (by omega) (by omega)),
    fld_ofNat _ _ a hN (field_at (2 + d.toNat * 128) (a.toNat) (768 + b.toNat * 1) (by omega) (by omega) (by omega)),
    fld_ofNat _ _ b hN (field_at (2 + d.toNat * 128 + a.toNat * 32768) (b.toNat) (24) (by omega) (by omega) (by omega))]

theorem lui (d : BitVec 5) (i : BitVec 20) : Statement (.lui d i) := by
  intro _ _ _
  have hd := d.isLt
  have hi := i.isLt
  have hN : 0x3 + d.toNat * 128 + i.toNat * 4096 < 2 ^ 32 := by omega
  show decode (BitVec.ofNat 32 (0x3 + d.toNat * 128 + i.toNat * 4096)) = _
  rw [decode_lui _ (by rw [fldN_ofNat _ _ _ hN]; exact field_at (0) (3) (0 + d.toNat * 1 + i.toNat * 32) (by omega) (by omega) (by omega)),
    fld_ofNat _ _ d hN (field_at (3) (d.toNat) (0 + i.toNat * 1) (by omega) (by omega) (by omega)),
    fld_ofNat _ _ i hN (field_at (3 + d.toNat * 128) (i.toNat) (0) (by omega) (by omega) (by omega))]

theorem auipc (d : BitVec 5) (i : BitVec 20) : Statement (.auipc d i) := by
  intro _ _ _
  have hd := d.isLt
  have hi := i.isLt
  have hN : 0x4 + d.toNat * 128 + i.toNat * 4096 < 2 ^ 32 := by omega
  show decode (BitVec.ofNat 32 (0x4 + d.toNat * 128 + i.toNat * 4096)) = _
  rw [decode_auipc _ (by rw [fldN_ofNat _ _ _ hN]; exact field_at (0) (4) (0 + d.toNat * 1 + i.toNat * 32) (by omega) (by omega) (by omega)),
    fld_ofNat _ _ d hN (field_at (4) (d.toNat) (0 + i.toNat * 1) (by omega) (by omega) (by omega)),
    fld_ofNat _ _ i hN (field_at (4 + d.toNat * 128) (i.toNat) (0) (by omega) (by omega) (by omega))]

theorem lb (d : BitVec 5) (a : BitVec 5) (i : BitVec 12) : Statement (.lb d a i) := by
  intro _ _ _
  have hd := d.isLt
  have ha := a.isLt
  have hi := i.isLt
  have hN : 0x5 + d.toNat * 128 + a.toNat * 32768 + i.toNat * 1048576 < 2 ^ 32 := by omega
  show decode (BitVec.ofNat 32 (0x5 + d.toNat * 128 + a.toNat * 32768 + i.toNat * 1048576)) = _
  rw [decode_lb _ (by rw [fldN_ofNat _ _ _ hN]; exact field_at (0) (5) (0 + d.toNat * 1 + a.toNat * 256 + i.toNat * 8192) (by omega) (by omega) (by omega)) (by rw [fldN_ofNat _ _ _ hN]; exact field_at (5 + d.toNat * 128) (0) (0 + a.toNat * 1 + i.toNat * 32) (by omega) (by omega) (by omega)),
    fld_ofNat _ _ d hN (field_at (5) (d.toNat) (0 + a.toNat * 8 + i.toNat * 256) (by omega) (by omega) (by omega)),
    fld_ofNat _ _ a hN (field_at (5 + d.toNat * 128) (a.toNat) (0 + i.toNat * 1) (by omega) (by omega) (by omega)),
    fld_ofNat _ _ i hN (field_at (5 + d.toNat * 128 + a.toNat * 32768) (i.toNat) (0) (by omega) (by omega) (by omega))]

theorem lh (d : BitVec 5) (a : BitVec 5) (i : BitVec 12) : Statement (.lh d a i) := by
  intro _ _ _
  have hd := d.isLt
  have ha := a.isLt
  have hi := i.isLt
  have hN : 0x1005 + d.toNat * 128 + a.toNat * 32768 + i.toNat * 1048576 < 2 ^ 32 := by omega
  show decode (BitVec.ofNat 32 (0x1005 + d.toNat * 128 + a.toNat * 32768 + i.toNat * 1048576)) = _
  rw [decode_lh _ (by rw [fldN_ofNat _ _ _ hN]; exact field_at (0) (5) (32 + d.toNat * 1 + a.toNat * 256 + i.toNat * 8192) (by omega) (by omega) (by omega)) (by rw [fldN_ofNat _ _ _ hN]; exact field_at (5 + d.toNat * 128) (1) (0 + a.toNat * 1 + i.toNat * 32) (by omega) (by omega) (by omega)),
    fld_ofNat _ _ d hN (field_at (5) (d.toNat) (1 + a.toNat * 8 + i.toNat * 256) (by omega) (by omega) (by omega)),
    fld_ofNat _ _ a hN (field_at (4101 + d.toNat * 128) (a.toNat) (0 + i.toNat * 1) (by omega) (by omega) (by omega)),
    fld_ofNat _ _ i hN (field_at (4101 + d.toNat * 128 + a.toNat * 32768) (i.toNat) (0) (by omega) (by omega) (by omega))]

theorem lw (d : BitVec 5) (a : BitVec 5) (i : BitVec 12) : Statement (.lw d a i) := by
  intro _ _ _
  have hd := d.isLt
  have ha := a.isLt
  have hi := i.isLt
  have hN : 0x2005 + d.toNat * 128 + a.toNat * 32768 + i.toNat * 1048576 < 2 ^ 32 := by omega
  show decode (BitVec.ofNat 32 (0x2005 + d.toNat * 128 + a.toNat * 32768 + i.toNat * 1048576)) = _
  rw [decode_lw _ (by rw [fldN_ofNat _ _ _ hN]; exact field_at (0) (5) (64 + d.toNat * 1 + a.toNat * 256 + i.toNat * 8192) (by omega) (by omega) (by omega)) (by rw [fldN_ofNat _ _ _ hN]; exact field_at (5 + d.toNat * 128) (2) (0 + a.toNat * 1 + i.toNat * 32) (by omega) (by omega) (by omega)),
    fld_ofNat _ _ d hN (field_at (5) (d.toNat) (2 + a.toNat * 8 + i.toNat * 256) (by omega) (by omega) (by omega)),
    fld_ofNat _ _ a hN (field_at (8197 + d.toNat * 128) (a.toNat) (0 + i.toNat * 1) (by omega) (by omega) (by omega)),
    fld_ofNat _ _ i hN (field_at (8197 + d.toNat * 128 + a.toNat * 32768) (i.toNat) (0) (by omega) (by omega) (by omega))]

theorem ld (d : BitVec 5) (a : BitVec 5) (i : BitVec 12) : Statement (.ld d a i) := by
  intro _ _ _
  have hd := d.isLt
  have ha := a.isLt
  have hi := i.isLt
  have hN : 0x3005 + d.toNat * 128 + a.toNat * 32768 + i.toNat * 1048576 < 2 ^ 32 := by omega
  show decode (BitVec.ofNat 32 (0x3005 + d.toNat * 128 + a.toNat * 32768 + i.toNat * 1048576)) = _
  rw [decode_ld _ (by rw [fldN_ofNat _ _ _ hN]; exact field_at (0) (5) (96 + d.toNat * 1 + a.toNat * 256 + i.toNat * 8192) (by omega) (by omega) (by omega)) (by rw [fldN_ofNat _ _ _ hN]; exact field_at (5 + d.toNat * 128) (3) (0 + a.toNat * 1 + i.toNat * 32) (by omega) (by omega) (by omega)),
    fld_ofNat _ _ d hN (field_at (5) (d.toNat) (3 + a.toNat * 8 + i.toNat * 256) (by omega) (by omega) (by omega)),
    fld_ofNat _ _ a hN (field_at (12293 + d.toNat * 128) (a.toNat) (0 + i.toNat * 1) (by omega) (by omega) (by omega)),
    fld_ofNat _ _ i hN (field_at (12293 + d.toNat * 128 + a.toNat * 32768) (i.toNat) (0) (by omega) (by omega) (by omega))]

theorem lbu (d : BitVec 5) (a : BitVec 5) (i : BitVec 12) : Statement (.lbu d a i) := by
  intro _ _ _
  have hd := d.isLt
  have ha := a.isLt
  have hi := i.isLt
  have hN : 0x4005 + d.toNat * 128 + a.toNat * 32768 + i.toNat * 1048576 < 2 ^ 32 := by omega
  show decode (BitVec.ofNat 32 (0x4005 + d.toNat * 128 + a.toNat * 32768 + i.toNat * 1048576)) = _
  rw [decode_lbu _ (by rw [fldN_ofNat _ _ _ hN]; exact field_at (0) (5) (128 + d.toNat * 1 + a.toNat * 256 + i.toNat * 8192) (by omega) (by omega) (by omega)) (by rw [fldN_ofNat _ _ _ hN]; exact field_at (5 + d.toNat * 128) (4) (0 + a.toNat * 1 + i.toNat * 32) (by omega) (by omega) (by omega)),
    fld_ofNat _ _ d hN (field_at (5) (d.toNat) (4 + a.toNat * 8 + i.toNat * 256) (by omega) (by omega) (by omega)),
    fld_ofNat _ _ a hN (field_at (16389 + d.toNat * 128) (a.toNat) (0 + i.toNat * 1) (by omega) (by omega) (by omega)),
    fld_ofNat _ _ i hN (field_at (16389 + d.toNat * 128 + a.toNat * 32768) (i.toNat) (0) (by omega) (by omega) (by omega))]

theorem lhu (d : BitVec 5) (a : BitVec 5) (i : BitVec 12) : Statement (.lhu d a i) := by
  intro _ _ _
  have hd := d.isLt
  have ha := a.isLt
  have hi := i.isLt
  have hN : 0x5005 + d.toNat * 128 + a.toNat * 32768 + i.toNat * 1048576 < 2 ^ 32 := by omega
  show decode (BitVec.ofNat 32 (0x5005 + d.toNat * 128 + a.toNat * 32768 + i.toNat * 1048576)) = _
  rw [decode_lhu _ (by rw [fldN_ofNat _ _ _ hN]; exact field_at (0) (5) (160 + d.toNat * 1 + a.toNat * 256 + i.toNat * 8192) (by omega) (by omega) (by omega)) (by rw [fldN_ofNat _ _ _ hN]; exact field_at (5 + d.toNat * 128) (5) (0 + a.toNat * 1 + i.toNat * 32) (by omega) (by omega) (by omega)),
    fld_ofNat _ _ d hN (field_at (5) (d.toNat) (5 + a.toNat * 8 + i.toNat * 256) (by omega) (by omega) (by omega)),
    fld_ofNat _ _ a hN (field_at (20485 + d.toNat * 128) (a.toNat) (0 + i.toNat * 1) (by omega) (by omega) (by omega)),
    fld_ofNat _ _ i hN (field_at (20485 + d.toNat * 128 + a.toNat * 32768) (i.toNat) (0) (by omega) (by omega) (by omega))]

theorem lwu (d : BitVec 5) (a : BitVec 5) (i : BitVec 12) : Statement (.lwu d a i) := by
  intro _ _ _
  have hd := d.isLt
  have ha := a.isLt
  have hi := i.isLt
  have hN : 0x6005 + d.toNat * 128 + a.toNat * 32768 + i.toNat * 1048576 < 2 ^ 32 := by omega
  show decode (BitVec.ofNat 32 (0x6005 + d.toNat * 128 + a.toNat * 32768 + i.toNat * 1048576)) = _
  rw [decode_lwu _ (by rw [fldN_ofNat _ _ _ hN]; exact field_at (0) (5) (192 + d.toNat * 1 + a.toNat * 256 + i.toNat * 8192) (by omega) (by omega) (by omega)) (by rw [fldN_ofNat _ _ _ hN]; exact field_at (5 + d.toNat * 128) (6) (0 + a.toNat * 1 + i.toNat * 32) (by omega) (by omega) (by omega)),
    fld_ofNat _ _ d hN (field_at (5) (d.toNat) (6 + a.toNat * 8 + i.toNat * 256) (by omega) (by omega) (by omega)),
    fld_ofNat _ _ a hN (field_at (24581 + d.toNat * 128) (a.toNat) (0 + i.toNat * 1) (by omega) (by omega) (by omega)),
    fld_ofNat _ _ i hN (field_at (24581 + d.toNat * 128 + a.toNat * 32768) (i.toNat) (0) (by omega) (by omega) (by omega))]

theorem sb (a : BitVec 5) (b : BitVec 5) (i : BitVec 12) : Statement (.sb a b i) := by
  intro _ _ _
  have ha := a.isLt
  have hb := b.isLt
  have hi := i.isLt
  show decode (BitVec.ofNat 32 (0x6 + a.toNat * 32768 + b.toNat * 1048576 + i.toNat / 32 * 33554432 + i.toNat % 32 * 128)) = _
  have e1 := Nat.div_add_mod i.toNat 32
  have e2 : i.toNat % 32 < 32 := Nat.mod_lt _ (by decide)
  generalize i.toNat / 32 = q at e1 e2 ⊢
  generalize i.toNat % 32 = r at e1 e2 ⊢
  have hN : 0x6 + a.toNat * 32768 + b.toNat * 1048576 + q * 33554432 + r * 128 < 2 ^ 32 := by omega
  rw [decode_sb _ (by rw [fldN_ofNat _ _ _ hN]; exact field_at (0) (6) (0 + a.toNat * 256 + b.toNat * 8192 + q * 262144 + r * 1) (by omega) (by omega) (by omega)) (by rw [fldN_ofNat _ _ _ hN]; exact field_at (6 + r * 128) (0) (0 + a.toNat * 1 + b.toNat * 32 + q * 1024) (by omega) (by omega) (by omega)),
    fld_ofNat _ _ a hN (field_at (6 + r * 128) (a.toNat) (0 + b.toNat * 1 + q * 32) (by omega) (by omega) (by omega)),
    fld_ofNat _ _ b hN (field_at (6 + a.toNat * 32768 + r * 128) (b.toNat) (0 + q * 1) (by omega) (by omega) (by omega)),
    show BitVec.ofNat 12 (fldN (BitVec.ofNat 32 (0x6 + a.toNat * 32768 + b.toNat * 1048576 + q * 33554432 + r * 128)) 25 7 * 32 + fldN (BitVec.ofNat 32 (0x6 + a.toNat * 32768 + b.toNat * 1048576 + q * 33554432 + r * 128)) 7 5) = i from BitVec.eq_of_toNat_eq (by rw [fldN_ofNat _ _ _ hN, fldN_ofNat _ _ _ hN, BitVec.toNat_ofNat, field_at (6 + a.toNat * 32768 + b.toNat * 1048576 + r * 128) (q) (0) (by omega) (by omega) (by omega), field_at (6) (r) (0 + a.toNat * 8 + b.toNat * 256 + q * 8192) (by omega) (by omega) (by omega)]; omega)]

theorem sh (a : BitVec 5) (b : BitVec 5) (i : BitVec 12) : Statement (.sh a b i) := by
  intro _ _ _
  have ha := a.isLt
  have hb := b.isLt
  have hi := i.isLt
  show decode (BitVec.ofNat 32 (0x1006 + a.toNat * 32768 + b.toNat * 1048576 + i.toNat / 32 * 33554432 + i.toNat % 32 * 128)) = _
  have e1 := Nat.div_add_mod i.toNat 32
  have e2 : i.toNat % 32 < 32 := Nat.mod_lt _ (by decide)
  generalize i.toNat / 32 = q at e1 e2 ⊢
  generalize i.toNat % 32 = r at e1 e2 ⊢
  have hN : 0x1006 + a.toNat * 32768 + b.toNat * 1048576 + q * 33554432 + r * 128 < 2 ^ 32 := by omega
  rw [decode_sh _ (by rw [fldN_ofNat _ _ _ hN]; exact field_at (0) (6) (32 + a.toNat * 256 + b.toNat * 8192 + q * 262144 + r * 1) (by omega) (by omega) (by omega)) (by rw [fldN_ofNat _ _ _ hN]; exact field_at (6 + r * 128) (1) (0 + a.toNat * 1 + b.toNat * 32 + q * 1024) (by omega) (by omega) (by omega)),
    fld_ofNat _ _ a hN (field_at (4102 + r * 128) (a.toNat) (0 + b.toNat * 1 + q * 32) (by omega) (by omega) (by omega)),
    fld_ofNat _ _ b hN (field_at (4102 + a.toNat * 32768 + r * 128) (b.toNat) (0 + q * 1) (by omega) (by omega) (by omega)),
    show BitVec.ofNat 12 (fldN (BitVec.ofNat 32 (0x1006 + a.toNat * 32768 + b.toNat * 1048576 + q * 33554432 + r * 128)) 25 7 * 32 + fldN (BitVec.ofNat 32 (0x1006 + a.toNat * 32768 + b.toNat * 1048576 + q * 33554432 + r * 128)) 7 5) = i from BitVec.eq_of_toNat_eq (by rw [fldN_ofNat _ _ _ hN, fldN_ofNat _ _ _ hN, BitVec.toNat_ofNat, field_at (4102 + a.toNat * 32768 + b.toNat * 1048576 + r * 128) (q) (0) (by omega) (by omega) (by omega), field_at (6) (r) (1 + a.toNat * 8 + b.toNat * 256 + q * 8192) (by omega) (by omega) (by omega)]; omega)]

theorem sw (a : BitVec 5) (b : BitVec 5) (i : BitVec 12) : Statement (.sw a b i) := by
  intro _ _ _
  have ha := a.isLt
  have hb := b.isLt
  have hi := i.isLt
  show decode (BitVec.ofNat 32 (0x2006 + a.toNat * 32768 + b.toNat * 1048576 + i.toNat / 32 * 33554432 + i.toNat % 32 * 128)) = _
  have e1 := Nat.div_add_mod i.toNat 32
  have e2 : i.toNat % 32 < 32 := Nat.mod_lt _ (by decide)
  generalize i.toNat / 32 = q at e1 e2 ⊢
  generalize i.toNat % 32 = r at e1 e2 ⊢
  have hN : 0x2006 + a.toNat * 32768 + b.toNat * 1048576 + q * 33554432 + r * 128 < 2 ^ 32 := by omega
  rw [decode_sw _ (by rw [fldN_ofNat _ _ _ hN]; exact field_at (0) (6) (64 + a.toNat * 256 + b.toNat * 8192 + q * 262144 + r * 1) (by omega) (by omega) (by omega)) (by rw [fldN_ofNat _ _ _ hN]; exact field_at (6 + r * 128) (2) (0 + a.toNat * 1 + b.toNat * 32 + q * 1024) (by omega) (by omega) (by omega)),
    fld_ofNat _ _ a hN (field_at (8198 + r * 128) (a.toNat) (0 + b.toNat * 1 + q * 32) (by omega) (by omega) (by omega)),
    fld_ofNat _ _ b hN (field_at (8198 + a.toNat * 32768 + r * 128) (b.toNat) (0 + q * 1) (by omega) (by omega) (by omega)),
    show BitVec.ofNat 12 (fldN (BitVec.ofNat 32 (0x2006 + a.toNat * 32768 + b.toNat * 1048576 + q * 33554432 + r * 128)) 25 7 * 32 + fldN (BitVec.ofNat 32 (0x2006 + a.toNat * 32768 + b.toNat * 1048576 + q * 33554432 + r * 128)) 7 5) = i from BitVec.eq_of_toNat_eq (by rw [fldN_ofNat _ _ _ hN, fldN_ofNat _ _ _ hN, BitVec.toNat_ofNat, field_at (8198 + a.toNat * 32768 + b.toNat * 1048576 + r * 128) (q) (0) (by omega) (by omega) (by omega), field_at (6) (r) (2 + a.toNat * 8 + b.toNat * 256 + q * 8192) (by omega) (by omega) (by omega)]; omega)]

theorem sd (a : BitVec 5) (b : BitVec 5) (i : BitVec 12) : Statement (.sd a b i) := by
  intro _ _ _
  have ha := a.isLt
  have hb := b.isLt
  have hi := i.isLt
  show decode (BitVec.ofNat 32 (0x3006 + a.toNat * 32768 + b.toNat * 1048576 + i.toNat / 32 * 33554432 + i.toNat % 32 * 128)) = _
  have e1 := Nat.div_add_mod i.toNat 32
  have e2 : i.toNat % 32 < 32 := Nat.mod_lt _ (by decide)
  generalize i.toNat / 32 = q at e1 e2 ⊢
  generalize i.toNat % 32 = r at e1 e2 ⊢
  have hN : 0x3006 + a.toNat * 32768 + b.toNat * 1048576 + q * 33554432 + r * 128 < 2 ^ 32 := by omega
  rw [decode_sd _ (by rw [fldN_ofNat _ _ _ hN]; exact field_at (0) (6) (96 + a.toNat * 256 + b.toNat * 8192 + q * 262144 + r * 1) (by omega) (by omega) (by omega)) (by rw [fldN_ofNat _ _ _ hN]; exact field_at (6 + r * 128) (3) (0 + a.toNat * 1 + b.toNat * 32 + q * 1024) (by omega) (by omega) (by omega)),
    fld_ofNat _ _ a hN (field_at (12294 + r * 128) (a.toNat) (0 + b.toNat * 1 + q * 32) (by omega) (by omega) (by omega)),
    fld_ofNat _ _ b hN (field_at (12294 + a.toNat * 32768 + r * 128) (b.toNat) (0 + q * 1) (by omega) (by omega) (by omega)),
    show BitVec.ofNat 12 (fldN (BitVec.ofNat 32 (0x3006 + a.toNat * 32768 + b.toNat * 1048576 + q * 33554432 + r * 128)) 25 7 * 32 + fldN (BitVec.ofNat 32 (0x3006 + a.toNat * 32768 + b.toNat * 1048576 + q * 33554432 + r * 128)) 7 5) = i from BitVec.eq_of_toNat_eq (by rw [fldN_ofNat _ _ _ hN, fldN_ofNat _ _ _ hN, BitVec.toNat_ofNat, field_at (12294 + a.toNat * 32768 + b.toNat * 1048576 + r * 128) (q) (0) (by omega) (by omega) (by omega), field_at (6) (r) (3 + a.toNat * 8 + b.toNat * 256 + q * 8192) (by omega) (by omega) (by omega)]; omega)]

theorem beq (a : BitVec 5) (b : BitVec 5) (i : BitVec 12) : Statement (.beq a b i) := by
  intro _ _ _
  have ha := a.isLt
  have hb := b.isLt
  have hi := i.isLt
  show decode (BitVec.ofNat 32 (0x7 + a.toNat * 32768 + b.toNat * 1048576 + i.toNat / 32 * 33554432 + i.toNat % 32 * 128)) = _
  have e1 := Nat.div_add_mod i.toNat 32
  have e2 : i.toNat % 32 < 32 := Nat.mod_lt _ (by decide)
  generalize i.toNat / 32 = q at e1 e2 ⊢
  generalize i.toNat % 32 = r at e1 e2 ⊢
  have hN : 0x7 + a.toNat * 32768 + b.toNat * 1048576 + q * 33554432 + r * 128 < 2 ^ 32 := by omega
  rw [decode_beq _ (by rw [fldN_ofNat _ _ _ hN]; exact field_at (0) (7) (0 + a.toNat * 256 + b.toNat * 8192 + q * 262144 + r * 1) (by omega) (by omega) (by omega)) (by rw [fldN_ofNat _ _ _ hN]; exact field_at (7 + r * 128) (0) (0 + a.toNat * 1 + b.toNat * 32 + q * 1024) (by omega) (by omega) (by omega)),
    fld_ofNat _ _ a hN (field_at (7 + r * 128) (a.toNat) (0 + b.toNat * 1 + q * 32) (by omega) (by omega) (by omega)),
    fld_ofNat _ _ b hN (field_at (7 + a.toNat * 32768 + r * 128) (b.toNat) (0 + q * 1) (by omega) (by omega) (by omega)),
    show BitVec.ofNat 12 (fldN (BitVec.ofNat 32 (0x7 + a.toNat * 32768 + b.toNat * 1048576 + q * 33554432 + r * 128)) 25 7 * 32 + fldN (BitVec.ofNat 32 (0x7 + a.toNat * 32768 + b.toNat * 1048576 + q * 33554432 + r * 128)) 7 5) = i from BitVec.eq_of_toNat_eq (by rw [fldN_ofNat _ _ _ hN, fldN_ofNat _ _ _ hN, BitVec.toNat_ofNat, field_at (7 + a.toNat * 32768 + b.toNat * 1048576 + r * 128) (q) (0) (by omega) (by omega) (by omega), field_at (7) (r) (0 + a.toNat * 8 + b.toNat * 256 + q * 8192) (by omega) (by omega) (by omega)]; omega)]

theorem bne (a : BitVec 5) (b : BitVec 5) (i : BitVec 12) : Statement (.bne a b i) := by
  intro _ _ _
  have ha := a.isLt
  have hb := b.isLt
  have hi := i.isLt
  show decode (BitVec.ofNat 32 (0x1007 + a.toNat * 32768 + b.toNat * 1048576 + i.toNat / 32 * 33554432 + i.toNat % 32 * 128)) = _
  have e1 := Nat.div_add_mod i.toNat 32
  have e2 : i.toNat % 32 < 32 := Nat.mod_lt _ (by decide)
  generalize i.toNat / 32 = q at e1 e2 ⊢
  generalize i.toNat % 32 = r at e1 e2 ⊢
  have hN : 0x1007 + a.toNat * 32768 + b.toNat * 1048576 + q * 33554432 + r * 128 < 2 ^ 32 := by omega
  rw [decode_bne _ (by rw [fldN_ofNat _ _ _ hN]; exact field_at (0) (7) (32 + a.toNat * 256 + b.toNat * 8192 + q * 262144 + r * 1) (by omega) (by omega) (by omega)) (by rw [fldN_ofNat _ _ _ hN]; exact field_at (7 + r * 128) (1) (0 + a.toNat * 1 + b.toNat * 32 + q * 1024) (by omega) (by omega) (by omega)),
    fld_ofNat _ _ a hN (field_at (4103 + r * 128) (a.toNat) (0 + b.toNat * 1 + q * 32) (by omega) (by omega) (by omega)),
    fld_ofNat _ _ b hN (field_at (4103 + a.toNat * 32768 + r * 128) (b.toNat) (0 + q * 1) (by omega) (by omega) (by omega)),
    show BitVec.ofNat 12 (fldN (BitVec.ofNat 32 (0x1007 + a.toNat * 32768 + b.toNat * 1048576 + q * 33554432 + r * 128)) 25 7 * 32 + fldN (BitVec.ofNat 32 (0x1007 + a.toNat * 32768 + b.toNat * 1048576 + q * 33554432 + r * 128)) 7 5) = i from BitVec.eq_of_toNat_eq (by rw [fldN_ofNat _ _ _ hN, fldN_ofNat _ _ _ hN, BitVec.toNat_ofNat, field_at (4103 + a.toNat * 32768 + b.toNat * 1048576 + r * 128) (q) (0) (by omega) (by omega) (by omega), field_at (7) (r) (1 + a.toNat * 8 + b.toNat * 256 + q * 8192) (by omega) (by omega) (by omega)]; omega)]

theorem blt (a : BitVec 5) (b : BitVec 5) (i : BitVec 12) : Statement (.blt a b i) := by
  intro _ _ _
  have ha := a.isLt
  have hb := b.isLt
  have hi := i.isLt
  show decode (BitVec.ofNat 32 (0x2007 + a.toNat * 32768 + b.toNat * 1048576 + i.toNat / 32 * 33554432 + i.toNat % 32 * 128)) = _
  have e1 := Nat.div_add_mod i.toNat 32
  have e2 : i.toNat % 32 < 32 := Nat.mod_lt _ (by decide)
  generalize i.toNat / 32 = q at e1 e2 ⊢
  generalize i.toNat % 32 = r at e1 e2 ⊢
  have hN : 0x2007 + a.toNat * 32768 + b.toNat * 1048576 + q * 33554432 + r * 128 < 2 ^ 32 := by omega
  rw [decode_blt _ (by rw [fldN_ofNat _ _ _ hN]; exact field_at (0) (7) (64 + a.toNat * 256 + b.toNat * 8192 + q * 262144 + r * 1) (by omega) (by omega) (by omega)) (by rw [fldN_ofNat _ _ _ hN]; exact field_at (7 + r * 128) (2) (0 + a.toNat * 1 + b.toNat * 32 + q * 1024) (by omega) (by omega) (by omega)),
    fld_ofNat _ _ a hN (field_at (8199 + r * 128) (a.toNat) (0 + b.toNat * 1 + q * 32) (by omega) (by omega) (by omega)),
    fld_ofNat _ _ b hN (field_at (8199 + a.toNat * 32768 + r * 128) (b.toNat) (0 + q * 1) (by omega) (by omega) (by omega)),
    show BitVec.ofNat 12 (fldN (BitVec.ofNat 32 (0x2007 + a.toNat * 32768 + b.toNat * 1048576 + q * 33554432 + r * 128)) 25 7 * 32 + fldN (BitVec.ofNat 32 (0x2007 + a.toNat * 32768 + b.toNat * 1048576 + q * 33554432 + r * 128)) 7 5) = i from BitVec.eq_of_toNat_eq (by rw [fldN_ofNat _ _ _ hN, fldN_ofNat _ _ _ hN, BitVec.toNat_ofNat, field_at (8199 + a.toNat * 32768 + b.toNat * 1048576 + r * 128) (q) (0) (by omega) (by omega) (by omega), field_at (7) (r) (2 + a.toNat * 8 + b.toNat * 256 + q * 8192) (by omega) (by omega) (by omega)]; omega)]

theorem bge (a : BitVec 5) (b : BitVec 5) (i : BitVec 12) : Statement (.bge a b i) := by
  intro _ _ _
  have ha := a.isLt
  have hb := b.isLt
  have hi := i.isLt
  show decode (BitVec.ofNat 32 (0x3007 + a.toNat * 32768 + b.toNat * 1048576 + i.toNat / 32 * 33554432 + i.toNat % 32 * 128)) = _
  have e1 := Nat.div_add_mod i.toNat 32
  have e2 : i.toNat % 32 < 32 := Nat.mod_lt _ (by decide)
  generalize i.toNat / 32 = q at e1 e2 ⊢
  generalize i.toNat % 32 = r at e1 e2 ⊢
  have hN : 0x3007 + a.toNat * 32768 + b.toNat * 1048576 + q * 33554432 + r * 128 < 2 ^ 32 := by omega
  rw [decode_bge _ (by rw [fldN_ofNat _ _ _ hN]; exact field_at (0) (7) (96 + a.toNat * 256 + b.toNat * 8192 + q * 262144 + r * 1) (by omega) (by omega) (by omega)) (by rw [fldN_ofNat _ _ _ hN]; exact field_at (7 + r * 128) (3) (0 + a.toNat * 1 + b.toNat * 32 + q * 1024) (by omega) (by omega) (by omega)),
    fld_ofNat _ _ a hN (field_at (12295 + r * 128) (a.toNat) (0 + b.toNat * 1 + q * 32) (by omega) (by omega) (by omega)),
    fld_ofNat _ _ b hN (field_at (12295 + a.toNat * 32768 + r * 128) (b.toNat) (0 + q * 1) (by omega) (by omega) (by omega)),
    show BitVec.ofNat 12 (fldN (BitVec.ofNat 32 (0x3007 + a.toNat * 32768 + b.toNat * 1048576 + q * 33554432 + r * 128)) 25 7 * 32 + fldN (BitVec.ofNat 32 (0x3007 + a.toNat * 32768 + b.toNat * 1048576 + q * 33554432 + r * 128)) 7 5) = i from BitVec.eq_of_toNat_eq (by rw [fldN_ofNat _ _ _ hN, fldN_ofNat _ _ _ hN, BitVec.toNat_ofNat, field_at (12295 + a.toNat * 32768 + b.toNat * 1048576 + r * 128) (q) (0) (by omega) (by omega) (by omega), field_at (7) (r) (3 + a.toNat * 8 + b.toNat * 256 + q * 8192) (by omega) (by omega) (by omega)]; omega)]

theorem bltu (a : BitVec 5) (b : BitVec 5) (i : BitVec 12) : Statement (.bltu a b i) := by
  intro _ _ _
  have ha := a.isLt
  have hb := b.isLt
  have hi := i.isLt
  show decode (BitVec.ofNat 32 (0x4007 + a.toNat * 32768 + b.toNat * 1048576 + i.toNat / 32 * 33554432 + i.toNat % 32 * 128)) = _
  have e1 := Nat.div_add_mod i.toNat 32
  have e2 : i.toNat % 32 < 32 := Nat.mod_lt _ (by decide)
  generalize i.toNat / 32 = q at e1 e2 ⊢
  generalize i.toNat % 32 = r at e1 e2 ⊢
  have hN : 0x4007 + a.toNat * 32768 + b.toNat * 1048576 + q * 33554432 + r * 128 < 2 ^ 32 := by omega
  rw [decode_bltu _ (by rw [fldN_ofNat _ _ _ hN]; exact field_at (0) (7) (128 + a.toNat * 256 + b.toNat * 8192 + q * 262144 + r * 1) (by omega) (by omega) (by omega)) (by rw [fldN_ofNat _ _ _ hN]; exact field_at (7 + r * 128) (4) (0 + a.toNat * 1 + b.toNat * 32 + q * 1024) (by omega) (by omega) (by omega)),
    fld_ofNat _ _ a hN (field_at (16391 + r * 128) (a.toNat) (0 + b.toNat * 1 + q * 32) (by omega) (by omega) (by omega)),
    fld_ofNat _ _ b hN (field_at (16391 + a.toNat * 32768 + r * 128) (b.toNat) (0 + q * 1) (by omega) (by omega) (by omega)),
    show BitVec.ofNat 12 (fldN (BitVec.ofNat 32 (0x4007 + a.toNat * 32768 + b.toNat * 1048576 + q * 33554432 + r * 128)) 25 7 * 32 + fldN (BitVec.ofNat 32 (0x4007 + a.toNat * 32768 + b.toNat * 1048576 + q * 33554432 + r * 128)) 7 5) = i from BitVec.eq_of_toNat_eq (by rw [fldN_ofNat _ _ _ hN, fldN_ofNat _ _ _ hN, BitVec.toNat_ofNat, field_at (16391 + a.toNat * 32768 + b.toNat * 1048576 + r * 128) (q) (0) (by omega) (by omega) (by omega), field_at (7) (r) (4 + a.toNat * 8 + b.toNat * 256 + q * 8192) (by omega) (by omega) (by omega)]; omega)]

theorem bgeu (a : BitVec 5) (b : BitVec 5) (i : BitVec 12) : Statement (.bgeu a b i) := by
  intro _ _ _
  have ha := a.isLt
  have hb := b.isLt
  have hi := i.isLt
  show decode (BitVec.ofNat 32 (0x5007 + a.toNat * 32768 + b.toNat * 1048576 + i.toNat / 32 * 33554432 + i.toNat % 32 * 128)) = _
  have e1 := Nat.div_add_mod i.toNat 32
  have e2 : i.toNat % 32 < 32 := Nat.mod_lt _ (by decide)
  generalize i.toNat / 32 = q at e1 e2 ⊢
  generalize i.toNat % 32 = r at e1 e2 ⊢
  have hN : 0x5007 + a.toNat * 32768 + b.toNat * 1048576 + q * 33554432 + r * 128 < 2 ^ 32 := by omega
  rw [decode_bgeu _ (by rw [fldN_ofNat _ _ _ hN]; exact field_at (0) (7) (160 + a.toNat * 256 + b.toNat * 8192 + q * 262144 + r * 1) (by omega) (by omega) (by omega)) (by rw [fldN_ofNat _ _ _ hN]; exact field_at (7 + r * 128) (5) (0 + a.toNat * 1 + b.toNat * 32 + q * 1024) (by omega) (by omega) (by omega)),
    fld_ofNat _ _ a hN (field_at (20487 + r * 128) (a.toNat) (0 + b.toNat * 1 + q * 32) (by omega) (by omega) (by omega)),
    fld_ofNat _ _ b hN (field_at (20487 + a.toNat * 32768 + r * 128) (b.toNat) (0 + q * 1) (by omega) (by omega) (by omega)),
    show BitVec.ofNat 12 (fldN (BitVec.ofNat 32 (0x5007 + a.toNat * 32768 + b.toNat * 1048576 + q * 33554432 + r * 128)) 25 7 * 32 + fldN (BitVec.ofNat 32 (0x5007 + a.toNat * 32768 + b.toNat * 1048576 + q * 33554432 + r * 128)) 7 5) = i from BitVec.eq_of_toNat_eq (by rw [fldN_ofNat _ _ _ hN, fldN_ofNat _ _ _ hN, BitVec.toNat_ofNat, field_at (20487 + a.toNat * 32768 + b.toNat * 1048576 + r * 128) (q) (0) (by omega) (by omega) (by omega), field_at (7) (r) (5 + a.toNat * 8 + b.toNat * 256 + q * 8192) (by omega) (by omega) (by omega)]; omega)]

theorem jal (d : BitVec 5) (o : BitVec 20) : Statement (.jal d o) := by
  intro _ _ _
  have hd := d.isLt
  have ho := o.isLt
  have hN : 0x8 + d.toNat * 128 + o.toNat * 4096 < 2 ^ 32 := by omega
  show decode (BitVec.ofNat 32 (0x8 + d.toNat * 128 + o.toNat * 4096)) = _
  rw [decode_jal _ (by rw [fldN_ofNat _ _ _ hN]; exact field_at (0) (8) (0 + d.toNat * 1 + o.toNat * 32) (by omega) (by omega) (by omega)),
    fld_ofNat _ _ d hN (field_at (8) (d.toNat) (0 + o.toNat * 1) (by omega) (by omega) (by omega)),
    fld_ofNat _ _ o hN (field_at (8 + d.toNat * 128) (o.toNat) (0) (by omega) (by omega) (by omega))]

theorem jalr (d : BitVec 5) (a : BitVec 5) (i : BitVec 12) : Statement (.jalr d a i) := by
  intro _ _ _
  have hd := d.isLt
  have ha := a.isLt
  have hi := i.isLt
  have hN : 0x9 + d.toNat * 128 + a.toNat * 32768 + i.toNat * 1048576 < 2 ^ 32 := by omega
  show decode (BitVec.ofNat 32 (0x9 + d.toNat * 128 + a.toNat * 32768 + i.toNat * 1048576)) = _
  rw [decode_jalr _ (by rw [fldN_ofNat _ _ _ hN]; exact field_at (0) (9) (0 + d.toNat * 1 + a.toNat * 256 + i.toNat * 8192) (by omega) (by omega) (by omega)) (by rw [fldN_ofNat _ _ _ hN]; exact field_at (9 + d.toNat * 128) (0) (0 + a.toNat * 1 + i.toNat * 32) (by omega) (by omega) (by omega)),
    fld_ofNat _ _ d hN (field_at (9) (d.toNat) (0 + a.toNat * 8 + i.toNat * 256) (by omega) (by omega) (by omega)),
    fld_ofNat _ _ a hN (field_at (9 + d.toNat * 128) (a.toNat) (0 + i.toNat * 1) (by omega) (by omega) (by omega)),
    fld_ofNat _ _ i hN (field_at (9 + d.toNat * 128 + a.toNat * 32768) (i.toNat) (0) (by omega) (by omega) (by omega))]

theorem fadd (d : BitVec 5) (f : BitVec 2) (a : BitVec 5) (b : BitVec 5) : Statement (.fadd d f a b) := by
  intro _ _ _
  have hd := d.isLt
  have hf := f.isLt
  have ha := a.isLt
  have hb := b.isLt
  have hN : 0xA + d.toNat * 128 + f.toNat * 4096 + a.toNat * 32768 + b.toNat * 1048576 < 2 ^ 32 := by omega
  show decode (BitVec.ofNat 32 (0xA + d.toNat * 128 + f.toNat * 4096 + a.toNat * 32768 + b.toNat * 1048576)) = _
  rw [decode_fadd _ (by rw [fldN_ofNat _ _ _ hN]; exact field_at (0) (10) (0 + d.toNat * 1 + f.toNat * 32 + a.toNat * 256 + b.toNat * 8192) (by omega) (by omega) (by omega)) (by rw [fldN_ofNat _ _ _ hN]; exact field_at (10 + d.toNat * 128 + f.toNat * 4096 + a.toNat * 32768 + b.toNat * 1048576) (0) (0) (by omega) (by omega) (by omega)) (by rw [fldN_ofNat _ _ _ hN]; exact field_at (10 + d.toNat * 128 + f.toNat * 4096) (0) (0 + a.toNat * 1 + b.toNat * 32) (by omega) (by omega) (by omega)),
    fld_ofNat _ _ d hN (field_at (10) (d.toNat) (0 + f.toNat * 1 + a.toNat * 8 + b.toNat * 256) (by omega) (by omega) (by omega)),
    fld_ofNat _ _ f hN (field_at (10 + d.toNat * 128) (f.toNat) (0 + a.toNat * 2 + b.toNat * 64) (by omega) (by omega) (by omega)),
    fld_ofNat _ _ a hN (field_at (10 + d.toNat * 128 + f.toNat * 4096) (a.toNat) (0 + b.toNat * 1) (by omega) (by omega) (by omega)),
    fld_ofNat _ _ b hN (field_at (10 + d.toNat * 128 + f.toNat * 4096 + a.toNat * 32768) (b.toNat) (0) (by omega) (by omega) (by omega))]

theorem fsub (d : BitVec 5) (f : BitVec 2) (a : BitVec 5) (b : BitVec 5) : Statement (.fsub d f a b) := by
  intro _ _ _
  have hd := d.isLt
  have hf := f.isLt
  have ha := a.isLt
  have hb := b.isLt
  have hN : 0x200000A + d.toNat * 128 + f.toNat * 4096 + a.toNat * 32768 + b.toNat * 1048576 < 2 ^ 32 := by omega
  show decode (BitVec.ofNat 32 (0x200000A + d.toNat * 128 + f.toNat * 4096 + a.toNat * 32768 + b.toNat * 1048576)) = _
  rw [decode_fsub _ (by rw [fldN_ofNat _ _ _ hN]; exact field_at (0) (10) (262144 + d.toNat * 1 + f.toNat * 32 + a.toNat * 256 + b.toNat * 8192) (by omega) (by omega) (by omega)) (by rw [fldN_ofNat _ _ _ hN]; exact field_at (10 + d.toNat * 128 + f.toNat * 4096 + a.toNat * 32768 + b.toNat * 1048576) (1) (0) (by omega) (by omega) (by omega)) (by rw [fldN_ofNat _ _ _ hN]; exact field_at (10 + d.toNat * 128 + f.toNat * 4096) (0) (1024 + a.toNat * 1 + b.toNat * 32) (by omega) (by omega) (by omega)),
    fld_ofNat _ _ d hN (field_at (10) (d.toNat) (8192 + f.toNat * 1 + a.toNat * 8 + b.toNat * 256) (by omega) (by omega) (by omega)),
    fld_ofNat _ _ f hN (field_at (10 + d.toNat * 128) (f.toNat) (2048 + a.toNat * 2 + b.toNat * 64) (by omega) (by omega) (by omega)),
    fld_ofNat _ _ a hN (field_at (10 + d.toNat * 128 + f.toNat * 4096) (a.toNat) (32 + b.toNat * 1) (by omega) (by omega) (by omega)),
    fld_ofNat _ _ b hN (field_at (10 + d.toNat * 128 + f.toNat * 4096 + a.toNat * 32768) (b.toNat) (1) (by omega) (by omega) (by omega))]

theorem fmul (d : BitVec 5) (f : BitVec 2) (a : BitVec 5) (b : BitVec 5) : Statement (.fmul d f a b) := by
  intro _ _ _
  have hd := d.isLt
  have hf := f.isLt
  have ha := a.isLt
  have hb := b.isLt
  have hN : 0x400000A + d.toNat * 128 + f.toNat * 4096 + a.toNat * 32768 + b.toNat * 1048576 < 2 ^ 32 := by omega
  show decode (BitVec.ofNat 32 (0x400000A + d.toNat * 128 + f.toNat * 4096 + a.toNat * 32768 + b.toNat * 1048576)) = _
  rw [decode_fmul _ (by rw [fldN_ofNat _ _ _ hN]; exact field_at (0) (10) (524288 + d.toNat * 1 + f.toNat * 32 + a.toNat * 256 + b.toNat * 8192) (by omega) (by omega) (by omega)) (by rw [fldN_ofNat _ _ _ hN]; exact field_at (10 + d.toNat * 128 + f.toNat * 4096 + a.toNat * 32768 + b.toNat * 1048576) (2) (0) (by omega) (by omega) (by omega)) (by rw [fldN_ofNat _ _ _ hN]; exact field_at (10 + d.toNat * 128 + f.toNat * 4096) (0) (2048 + a.toNat * 1 + b.toNat * 32) (by omega) (by omega) (by omega)),
    fld_ofNat _ _ d hN (field_at (10) (d.toNat) (16384 + f.toNat * 1 + a.toNat * 8 + b.toNat * 256) (by omega) (by omega) (by omega)),
    fld_ofNat _ _ f hN (field_at (10 + d.toNat * 128) (f.toNat) (4096 + a.toNat * 2 + b.toNat * 64) (by omega) (by omega) (by omega)),
    fld_ofNat _ _ a hN (field_at (10 + d.toNat * 128 + f.toNat * 4096) (a.toNat) (64 + b.toNat * 1) (by omega) (by omega) (by omega)),
    fld_ofNat _ _ b hN (field_at (10 + d.toNat * 128 + f.toNat * 4096 + a.toNat * 32768) (b.toNat) (2) (by omega) (by omega) (by omega))]

theorem fdiv (d : BitVec 5) (f : BitVec 2) (a : BitVec 5) (b : BitVec 5) : Statement (.fdiv d f a b) := by
  intro _ _ _
  have hd := d.isLt
  have hf := f.isLt
  have ha := a.isLt
  have hb := b.isLt
  have hN : 0x600000A + d.toNat * 128 + f.toNat * 4096 + a.toNat * 32768 + b.toNat * 1048576 < 2 ^ 32 := by omega
  show decode (BitVec.ofNat 32 (0x600000A + d.toNat * 128 + f.toNat * 4096 + a.toNat * 32768 + b.toNat * 1048576)) = _
  rw [decode_fdiv _ (by rw [fldN_ofNat _ _ _ hN]; exact field_at (0) (10) (786432 + d.toNat * 1 + f.toNat * 32 + a.toNat * 256 + b.toNat * 8192) (by omega) (by omega) (by omega)) (by rw [fldN_ofNat _ _ _ hN]; exact field_at (10 + d.toNat * 128 + f.toNat * 4096 + a.toNat * 32768 + b.toNat * 1048576) (3) (0) (by omega) (by omega) (by omega)) (by rw [fldN_ofNat _ _ _ hN]; exact field_at (10 + d.toNat * 128 + f.toNat * 4096) (0) (3072 + a.toNat * 1 + b.toNat * 32) (by omega) (by omega) (by omega)),
    fld_ofNat _ _ d hN (field_at (10) (d.toNat) (24576 + f.toNat * 1 + a.toNat * 8 + b.toNat * 256) (by omega) (by omega) (by omega)),
    fld_ofNat _ _ f hN (field_at (10 + d.toNat * 128) (f.toNat) (6144 + a.toNat * 2 + b.toNat * 64) (by omega) (by omega) (by omega)),
    fld_ofNat _ _ a hN (field_at (10 + d.toNat * 128 + f.toNat * 4096) (a.toNat) (96 + b.toNat * 1) (by omega) (by omega) (by omega)),
    fld_ofNat _ _ b hN (field_at (10 + d.toNat * 128 + f.toNat * 4096 + a.toNat * 32768) (b.toNat) (3) (by omega) (by omega) (by omega))]

theorem fsqrt (d : BitVec 5) (f : BitVec 2) (a : BitVec 5) : Statement (.fsqrt d f a) := by
  intro _ _ _
  have hd := d.isLt
  have hf := f.isLt
  have ha := a.isLt
  have hN : 0x800000A + d.toNat * 128 + f.toNat * 4096 + a.toNat * 32768 < 2 ^ 32 := by omega
  show decode (BitVec.ofNat 32 (0x800000A + d.toNat * 128 + f.toNat * 4096 + a.toNat * 32768)) = _
  rw [decode_fsqrt _ (by rw [fldN_ofNat _ _ _ hN]; exact field_at (0) (10) (1048576 + d.toNat * 1 + f.toNat * 32 + a.toNat * 256) (by omega) (by omega) (by omega)) (by rw [fldN_ofNat _ _ _ hN]; exact field_at (10 + d.toNat * 128 + f.toNat * 4096 + a.toNat * 32768) (4) (0) (by omega) (by omega) (by omega)) (by rw [fldN_ofNat _ _ _ hN]; exact field_at (10 + d.toNat * 128 + f.toNat * 4096) (0) (4096 + a.toNat * 1) (by omega) (by omega) (by omega)) (by rw [fldN_ofNat _ _ _ hN]; exact field_at (10 + d.toNat * 128 + f.toNat * 4096 + a.toNat * 32768) (0) (4) (by omega) (by omega) (by omega)),
    fld_ofNat _ _ d hN (field_at (10) (d.toNat) (32768 + f.toNat * 1 + a.toNat * 8) (by omega) (by omega) (by omega)),
    fld_ofNat _ _ f hN (field_at (10 + d.toNat * 128) (f.toNat) (8192 + a.toNat * 2) (by omega) (by omega) (by omega)),
    fld_ofNat _ _ a hN (field_at (10 + d.toNat * 128 + f.toNat * 4096) (a.toNat) (128) (by omega) (by omega) (by omega))]

theorem fmin (d : BitVec 5) (f : BitVec 2) (a : BitVec 5) (b : BitVec 5) : Statement (.fmin d f a b) := by
  intro _ _ _
  have hd := d.isLt
  have hf := f.isLt
  have ha := a.isLt
  have hb := b.isLt
  have hN : 0xA00000A + d.toNat * 128 + f.toNat * 4096 + a.toNat * 32768 + b.toNat * 1048576 < 2 ^ 32 := by omega
  show decode (BitVec.ofNat 32 (0xA00000A + d.toNat * 128 + f.toNat * 4096 + a.toNat * 32768 + b.toNat * 1048576)) = _
  rw [decode_fmin _ (by rw [fldN_ofNat _ _ _ hN]; exact field_at (0) (10) (1310720 + d.toNat * 1 + f.toNat * 32 + a.toNat * 256 + b.toNat * 8192) (by omega) (by omega) (by omega)) (by rw [fldN_ofNat _ _ _ hN]; exact field_at (10 + d.toNat * 128 + f.toNat * 4096 + a.toNat * 32768 + b.toNat * 1048576) (5) (0) (by omega) (by omega) (by omega)) (by rw [fldN_ofNat _ _ _ hN]; exact field_at (10 + d.toNat * 128 + f.toNat * 4096) (0) (5120 + a.toNat * 1 + b.toNat * 32) (by omega) (by omega) (by omega)),
    fld_ofNat _ _ d hN (field_at (10) (d.toNat) (40960 + f.toNat * 1 + a.toNat * 8 + b.toNat * 256) (by omega) (by omega) (by omega)),
    fld_ofNat _ _ f hN (field_at (10 + d.toNat * 128) (f.toNat) (10240 + a.toNat * 2 + b.toNat * 64) (by omega) (by omega) (by omega)),
    fld_ofNat _ _ a hN (field_at (10 + d.toNat * 128 + f.toNat * 4096) (a.toNat) (160 + b.toNat * 1) (by omega) (by omega) (by omega)),
    fld_ofNat _ _ b hN (field_at (10 + d.toNat * 128 + f.toNat * 4096 + a.toNat * 32768) (b.toNat) (5) (by omega) (by omega) (by omega))]

theorem fmax (d : BitVec 5) (f : BitVec 2) (a : BitVec 5) (b : BitVec 5) : Statement (.fmax d f a b) := by
  intro _ _ _
  have hd := d.isLt
  have hf := f.isLt
  have ha := a.isLt
  have hb := b.isLt
  have hN : 0xC00000A + d.toNat * 128 + f.toNat * 4096 + a.toNat * 32768 + b.toNat * 1048576 < 2 ^ 32 := by omega
  show decode (BitVec.ofNat 32 (0xC00000A + d.toNat * 128 + f.toNat * 4096 + a.toNat * 32768 + b.toNat * 1048576)) = _
  rw [decode_fmax _ (by rw [fldN_ofNat _ _ _ hN]; exact field_at (0) (10) (1572864 + d.toNat * 1 + f.toNat * 32 + a.toNat * 256 + b.toNat * 8192) (by omega) (by omega) (by omega)) (by rw [fldN_ofNat _ _ _ hN]; exact field_at (10 + d.toNat * 128 + f.toNat * 4096 + a.toNat * 32768 + b.toNat * 1048576) (6) (0) (by omega) (by omega) (by omega)) (by rw [fldN_ofNat _ _ _ hN]; exact field_at (10 + d.toNat * 128 + f.toNat * 4096) (0) (6144 + a.toNat * 1 + b.toNat * 32) (by omega) (by omega) (by omega)),
    fld_ofNat _ _ d hN (field_at (10) (d.toNat) (49152 + f.toNat * 1 + a.toNat * 8 + b.toNat * 256) (by omega) (by omega) (by omega)),
    fld_ofNat _ _ f hN (field_at (10 + d.toNat * 128) (f.toNat) (12288 + a.toNat * 2 + b.toNat * 64) (by omega) (by omega) (by omega)),
    fld_ofNat _ _ a hN (field_at (10 + d.toNat * 128 + f.toNat * 4096) (a.toNat) (192 + b.toNat * 1) (by omega) (by omega) (by omega)),
    fld_ofNat _ _ b hN (field_at (10 + d.toNat * 128 + f.toNat * 4096 + a.toNat * 32768) (b.toNat) (6) (by omega) (by omega) (by omega))]

theorem fmac (d : BitVec 5) (f : BitVec 2) (a : BitVec 5) (b : BitVec 5) : Statement (.fmac d f a b) := by
  intro _ _ _
  have hd := d.isLt
  have hf := f.isLt
  have ha := a.isLt
  have hb := b.isLt
  have hN : 0xE00000A + d.toNat * 128 + f.toNat * 4096 + a.toNat * 32768 + b.toNat * 1048576 < 2 ^ 32 := by omega
  show decode (BitVec.ofNat 32 (0xE00000A + d.toNat * 128 + f.toNat * 4096 + a.toNat * 32768 + b.toNat * 1048576)) = _
  rw [decode_fmac _ (by rw [fldN_ofNat _ _ _ hN]; exact field_at (0) (10) (1835008 + d.toNat * 1 + f.toNat * 32 + a.toNat * 256 + b.toNat * 8192) (by omega) (by omega) (by omega)) (by rw [fldN_ofNat _ _ _ hN]; exact field_at (10 + d.toNat * 128 + f.toNat * 4096 + a.toNat * 32768 + b.toNat * 1048576) (7) (0) (by omega) (by omega) (by omega)) (by rw [fldN_ofNat _ _ _ hN]; exact field_at (10 + d.toNat * 128 + f.toNat * 4096) (0) (7168 + a.toNat * 1 + b.toNat * 32) (by omega) (by omega) (by omega)),
    fld_ofNat _ _ d hN (field_at (10) (d.toNat) (57344 + f.toNat * 1 + a.toNat * 8 + b.toNat * 256) (by omega) (by omega) (by omega)),
    fld_ofNat _ _ f hN (field_at (10 + d.toNat * 128) (f.toNat) (14336 + a.toNat * 2 + b.toNat * 64) (by omega) (by omega) (by omega)),
    fld_ofNat _ _ a hN (field_at (10 + d.toNat * 128 + f.toNat * 4096) (a.toNat) (224 + b.toNat * 1) (by omega) (by omega) (by omega)),
    fld_ofNat _ _ b hN (field_at (10 + d.toNat * 128 + f.toNat * 4096 + a.toNat * 32768) (b.toNat) (7) (by omega) (by omega) (by omega))]

theorem feq (d : BitVec 5) (f : BitVec 2) (a : BitVec 5) (b : BitVec 5) : Statement (.feq d f a b) := by
  intro _ _ _
  have hd := d.isLt
  have hf := f.isLt
  have ha := a.isLt
  have hb := b.isLt
  have hN : 0x1000000A + d.toNat * 128 + f.toNat * 4096 + a.toNat * 32768 + b.toNat * 1048576 < 2 ^ 32 := by omega
  show decode (BitVec.ofNat 32 (0x1000000A + d.toNat * 128 + f.toNat * 4096 + a.toNat * 32768 + b.toNat * 1048576)) = _
  rw [decode_feq _ (by rw [fldN_ofNat _ _ _ hN]; exact field_at (0) (10) (2097152 + d.toNat * 1 + f.toNat * 32 + a.toNat * 256 + b.toNat * 8192) (by omega) (by omega) (by omega)) (by rw [fldN_ofNat _ _ _ hN]; exact field_at (10 + d.toNat * 128 + f.toNat * 4096 + a.toNat * 32768 + b.toNat * 1048576) (8) (0) (by omega) (by omega) (by omega)) (by rw [fldN_ofNat _ _ _ hN]; exact field_at (10 + d.toNat * 128 + f.toNat * 4096) (0) (8192 + a.toNat * 1 + b.toNat * 32) (by omega) (by omega) (by omega)),
    fld_ofNat _ _ d hN (field_at (10) (d.toNat) (65536 + f.toNat * 1 + a.toNat * 8 + b.toNat * 256) (by omega) (by omega) (by omega)),
    fld_ofNat _ _ f hN (field_at (10 + d.toNat * 128) (f.toNat) (16384 + a.toNat * 2 + b.toNat * 64) (by omega) (by omega) (by omega)),
    fld_ofNat _ _ a hN (field_at (10 + d.toNat * 128 + f.toNat * 4096) (a.toNat) (256 + b.toNat * 1) (by omega) (by omega) (by omega)),
    fld_ofNat _ _ b hN (field_at (10 + d.toNat * 128 + f.toNat * 4096 + a.toNat * 32768) (b.toNat) (8) (by omega) (by omega) (by omega))]

theorem flt (d : BitVec 5) (f : BitVec 2) (a : BitVec 5) (b : BitVec 5) : Statement (.flt d f a b) := by
  intro _ _ _
  have hd := d.isLt
  have hf := f.isLt
  have ha := a.isLt
  have hb := b.isLt
  have hN : 0x1200000A + d.toNat * 128 + f.toNat * 4096 + a.toNat * 32768 + b.toNat * 1048576 < 2 ^ 32 := by omega
  show decode (BitVec.ofNat 32 (0x1200000A + d.toNat * 128 + f.toNat * 4096 + a.toNat * 32768 + b.toNat * 1048576)) = _
  rw [decode_flt _ (by rw [fldN_ofNat _ _ _ hN]; exact field_at (0) (10) (2359296 + d.toNat * 1 + f.toNat * 32 + a.toNat * 256 + b.toNat * 8192) (by omega) (by omega) (by omega)) (by rw [fldN_ofNat _ _ _ hN]; exact field_at (10 + d.toNat * 128 + f.toNat * 4096 + a.toNat * 32768 + b.toNat * 1048576) (9) (0) (by omega) (by omega) (by omega)) (by rw [fldN_ofNat _ _ _ hN]; exact field_at (10 + d.toNat * 128 + f.toNat * 4096) (0) (9216 + a.toNat * 1 + b.toNat * 32) (by omega) (by omega) (by omega)),
    fld_ofNat _ _ d hN (field_at (10) (d.toNat) (73728 + f.toNat * 1 + a.toNat * 8 + b.toNat * 256) (by omega) (by omega) (by omega)),
    fld_ofNat _ _ f hN (field_at (10 + d.toNat * 128) (f.toNat) (18432 + a.toNat * 2 + b.toNat * 64) (by omega) (by omega) (by omega)),
    fld_ofNat _ _ a hN (field_at (10 + d.toNat * 128 + f.toNat * 4096) (a.toNat) (288 + b.toNat * 1) (by omega) (by omega) (by omega)),
    fld_ofNat _ _ b hN (field_at (10 + d.toNat * 128 + f.toNat * 4096 + a.toNat * 32768) (b.toNat) (9) (by omega) (by omega) (by omega))]

theorem fle (d : BitVec 5) (f : BitVec 2) (a : BitVec 5) (b : BitVec 5) : Statement (.fle d f a b) := by
  intro _ _ _
  have hd := d.isLt
  have hf := f.isLt
  have ha := a.isLt
  have hb := b.isLt
  have hN : 0x1400000A + d.toNat * 128 + f.toNat * 4096 + a.toNat * 32768 + b.toNat * 1048576 < 2 ^ 32 := by omega
  show decode (BitVec.ofNat 32 (0x1400000A + d.toNat * 128 + f.toNat * 4096 + a.toNat * 32768 + b.toNat * 1048576)) = _
  rw [decode_fle _ (by rw [fldN_ofNat _ _ _ hN]; exact field_at (0) (10) (2621440 + d.toNat * 1 + f.toNat * 32 + a.toNat * 256 + b.toNat * 8192) (by omega) (by omega) (by omega)) (by rw [fldN_ofNat _ _ _ hN]; exact field_at (10 + d.toNat * 128 + f.toNat * 4096 + a.toNat * 32768 + b.toNat * 1048576) (10) (0) (by omega) (by omega) (by omega)) (by rw [fldN_ofNat _ _ _ hN]; exact field_at (10 + d.toNat * 128 + f.toNat * 4096) (0) (10240 + a.toNat * 1 + b.toNat * 32) (by omega) (by omega) (by omega)),
    fld_ofNat _ _ d hN (field_at (10) (d.toNat) (81920 + f.toNat * 1 + a.toNat * 8 + b.toNat * 256) (by omega) (by omega) (by omega)),
    fld_ofNat _ _ f hN (field_at (10 + d.toNat * 128) (f.toNat) (20480 + a.toNat * 2 + b.toNat * 64) (by omega) (by omega) (by omega)),
    fld_ofNat _ _ a hN (field_at (10 + d.toNat * 128 + f.toNat * 4096) (a.toNat) (320 + b.toNat * 1) (by omega) (by omega) (by omega)),
    fld_ofNat _ _ b hN (field_at (10 + d.toNat * 128 + f.toNat * 4096 + a.toNat * 32768) (b.toNat) (10) (by omega) (by omega) (by omega))]

theorem fclass (d : BitVec 5) (f : BitVec 2) (a : BitVec 5) : Statement (.fclass d f a) := by
  intro _ _ _
  have hd := d.isLt
  have hf := f.isLt
  have ha := a.isLt
  have hN : 0x1600000A + d.toNat * 128 + f.toNat * 4096 + a.toNat * 32768 < 2 ^ 32 := by omega
  show decode (BitVec.ofNat 32 (0x1600000A + d.toNat * 128 + f.toNat * 4096 + a.toNat * 32768)) = _
  rw [decode_fclass _ (by rw [fldN_ofNat _ _ _ hN]; exact field_at (0) (10) (2883584 + d.toNat * 1 + f.toNat * 32 + a.toNat * 256) (by omega) (by omega) (by omega)) (by rw [fldN_ofNat _ _ _ hN]; exact field_at (10 + d.toNat * 128 + f.toNat * 4096 + a.toNat * 32768) (11) (0) (by omega) (by omega) (by omega)) (by rw [fldN_ofNat _ _ _ hN]; exact field_at (10 + d.toNat * 128 + f.toNat * 4096) (0) (11264 + a.toNat * 1) (by omega) (by omega) (by omega)) (by rw [fldN_ofNat _ _ _ hN]; exact field_at (10 + d.toNat * 128 + f.toNat * 4096 + a.toNat * 32768) (0) (11) (by omega) (by omega) (by omega)),
    fld_ofNat _ _ d hN (field_at (10) (d.toNat) (90112 + f.toNat * 1 + a.toNat * 8) (by omega) (by omega) (by omega)),
    fld_ofNat _ _ f hN (field_at (10 + d.toNat * 128) (f.toNat) (22528 + a.toNat * 2) (by omega) (by omega) (by omega)),
    fld_ofNat _ _ a hN (field_at (10 + d.toNat * 128 + f.toNat * 4096) (a.toNat) (352) (by omega) (by omega) (by omega))]

theorem fsgnj (d : BitVec 5) (f : BitVec 2) (a : BitVec 5) (b : BitVec 5) : Statement (.fsgnj d f a b) := by
  intro _ _ _
  have hd := d.isLt
  have hf := f.isLt
  have ha := a.isLt
  have hb := b.isLt
  have hN : 0x1800000A + d.toNat * 128 + f.toNat * 4096 + a.toNat * 32768 + b.toNat * 1048576 < 2 ^ 32 := by omega
  show decode (BitVec.ofNat 32 (0x1800000A + d.toNat * 128 + f.toNat * 4096 + a.toNat * 32768 + b.toNat * 1048576)) = _
  rw [decode_fsgnj _ (by rw [fldN_ofNat _ _ _ hN]; exact field_at (0) (10) (3145728 + d.toNat * 1 + f.toNat * 32 + a.toNat * 256 + b.toNat * 8192) (by omega) (by omega) (by omega)) (by rw [fldN_ofNat _ _ _ hN]; exact field_at (10 + d.toNat * 128 + f.toNat * 4096 + a.toNat * 32768 + b.toNat * 1048576) (12) (0) (by omega) (by omega) (by omega)) (by rw [fldN_ofNat _ _ _ hN]; exact field_at (10 + d.toNat * 128 + f.toNat * 4096) (0) (12288 + a.toNat * 1 + b.toNat * 32) (by omega) (by omega) (by omega)),
    fld_ofNat _ _ d hN (field_at (10) (d.toNat) (98304 + f.toNat * 1 + a.toNat * 8 + b.toNat * 256) (by omega) (by omega) (by omega)),
    fld_ofNat _ _ f hN (field_at (10 + d.toNat * 128) (f.toNat) (24576 + a.toNat * 2 + b.toNat * 64) (by omega) (by omega) (by omega)),
    fld_ofNat _ _ a hN (field_at (10 + d.toNat * 128 + f.toNat * 4096) (a.toNat) (384 + b.toNat * 1) (by omega) (by omega) (by omega)),
    fld_ofNat _ _ b hN (field_at (10 + d.toNat * 128 + f.toNat * 4096 + a.toNat * 32768) (b.toNat) (12) (by omega) (by omega) (by omega))]

theorem fsgnjn (d : BitVec 5) (f : BitVec 2) (a : BitVec 5) (b : BitVec 5) : Statement (.fsgnjn d f a b) := by
  intro _ _ _
  have hd := d.isLt
  have hf := f.isLt
  have ha := a.isLt
  have hb := b.isLt
  have hN : 0x1A00000A + d.toNat * 128 + f.toNat * 4096 + a.toNat * 32768 + b.toNat * 1048576 < 2 ^ 32 := by omega
  show decode (BitVec.ofNat 32 (0x1A00000A + d.toNat * 128 + f.toNat * 4096 + a.toNat * 32768 + b.toNat * 1048576)) = _
  rw [decode_fsgnjn _ (by rw [fldN_ofNat _ _ _ hN]; exact field_at (0) (10) (3407872 + d.toNat * 1 + f.toNat * 32 + a.toNat * 256 + b.toNat * 8192) (by omega) (by omega) (by omega)) (by rw [fldN_ofNat _ _ _ hN]; exact field_at (10 + d.toNat * 128 + f.toNat * 4096 + a.toNat * 32768 + b.toNat * 1048576) (13) (0) (by omega) (by omega) (by omega)) (by rw [fldN_ofNat _ _ _ hN]; exact field_at (10 + d.toNat * 128 + f.toNat * 4096) (0) (13312 + a.toNat * 1 + b.toNat * 32) (by omega) (by omega) (by omega)),
    fld_ofNat _ _ d hN (field_at (10) (d.toNat) (106496 + f.toNat * 1 + a.toNat * 8 + b.toNat * 256) (by omega) (by omega) (by omega)),
    fld_ofNat _ _ f hN (field_at (10 + d.toNat * 128) (f.toNat) (26624 + a.toNat * 2 + b.toNat * 64) (by omega) (by omega) (by omega)),
    fld_ofNat _ _ a hN (field_at (10 + d.toNat * 128 + f.toNat * 4096) (a.toNat) (416 + b.toNat * 1) (by omega) (by omega) (by omega)),
    fld_ofNat _ _ b hN (field_at (10 + d.toNat * 128 + f.toNat * 4096 + a.toNat * 32768) (b.toNat) (13) (by omega) (by omega) (by omega))]

theorem fsgnjx (d : BitVec 5) (f : BitVec 2) (a : BitVec 5) (b : BitVec 5) : Statement (.fsgnjx d f a b) := by
  intro _ _ _
  have hd := d.isLt
  have hf := f.isLt
  have ha := a.isLt
  have hb := b.isLt
  have hN : 0x1C00000A + d.toNat * 128 + f.toNat * 4096 + a.toNat * 32768 + b.toNat * 1048576 < 2 ^ 32 := by omega
  show decode (BitVec.ofNat 32 (0x1C00000A + d.toNat * 128 + f.toNat * 4096 + a.toNat * 32768 + b.toNat * 1048576)) = _
  rw [decode_fsgnjx _ (by rw [fldN_ofNat _ _ _ hN]; exact field_at (0) (10) (3670016 + d.toNat * 1 + f.toNat * 32 + a.toNat * 256 + b.toNat * 8192) (by omega) (by omega) (by omega)) (by rw [fldN_ofNat _ _ _ hN]; exact field_at (10 + d.toNat * 128 + f.toNat * 4096 + a.toNat * 32768 + b.toNat * 1048576) (14) (0) (by omega) (by omega) (by omega)) (by rw [fldN_ofNat _ _ _ hN]; exact field_at (10 + d.toNat * 128 + f.toNat * 4096) (0) (14336 + a.toNat * 1 + b.toNat * 32) (by omega) (by omega) (by omega)),
    fld_ofNat _ _ d hN (field_at (10) (d.toNat) (114688 + f.toNat * 1 + a.toNat * 8 + b.toNat * 256) (by omega) (by omega) (by omega)),
    fld_ofNat _ _ f hN (field_at (10 + d.toNat * 128) (f.toNat) (28672 + a.toNat * 2 + b.toNat * 64) (by omega) (by omega) (by omega)),
    fld_ofNat _ _ a hN (field_at (10 + d.toNat * 128 + f.toNat * 4096) (a.toNat) (448 + b.toNat * 1) (by omega) (by omega) (by omega)),
    fld_ofNat _ _ b hN (field_at (10 + d.toNat * 128 + f.toNat * 4096 + a.toNat * 32768) (b.toNat) (14) (by omega) (by omega) (by omega))]

theorem fcvtif (d : BitVec 5) (f : BitVec 2) (a : BitVec 5) (s : BitVec 5) : Statement (.fcvtif d f a s) := by
  intro _ _ _
  have hd := d.isLt
  have hf := f.isLt
  have ha := a.isLt
  have hs := s.isLt
  have hN : 0x1E00000A + d.toNat * 128 + f.toNat * 4096 + a.toNat * 32768 + s.toNat * 1048576 < 2 ^ 32 := by omega
  show decode (BitVec.ofNat 32 (0x1E00000A + d.toNat * 128 + f.toNat * 4096 + a.toNat * 32768 + s.toNat * 1048576)) = _
  rw [decode_fcvtif _ (by rw [fldN_ofNat _ _ _ hN]; exact field_at (0) (10) (3932160 + d.toNat * 1 + f.toNat * 32 + a.toNat * 256 + s.toNat * 8192) (by omega) (by omega) (by omega)) (by rw [fldN_ofNat _ _ _ hN]; exact field_at (10 + d.toNat * 128 + f.toNat * 4096 + a.toNat * 32768 + s.toNat * 1048576) (15) (0) (by omega) (by omega) (by omega)) (by rw [fldN_ofNat _ _ _ hN]; exact field_at (10 + d.toNat * 128 + f.toNat * 4096) (0) (15360 + a.toNat * 1 + s.toNat * 32) (by omega) (by omega) (by omega)),
    fld_ofNat _ _ d hN (field_at (10) (d.toNat) (122880 + f.toNat * 1 + a.toNat * 8 + s.toNat * 256) (by omega) (by omega) (by omega)),
    fld_ofNat _ _ f hN (field_at (10 + d.toNat * 128) (f.toNat) (30720 + a.toNat * 2 + s.toNat * 64) (by omega) (by omega) (by omega)),
    fld_ofNat _ _ a hN (field_at (10 + d.toNat * 128 + f.toNat * 4096) (a.toNat) (480 + s.toNat * 1) (by omega) (by omega) (by omega)),
    fld_ofNat _ _ s hN (field_at (10 + d.toNat * 128 + f.toNat * 4096 + a.toNat * 32768) (s.toNat) (15) (by omega) (by omega) (by omega))]

theorem fcvtfi (d : BitVec 5) (f : BitVec 2) (a : BitVec 5) (s : BitVec 5) : Statement (.fcvtfi d f a s) := by
  intro _ _ _
  have hd := d.isLt
  have hf := f.isLt
  have ha := a.isLt
  have hs := s.isLt
  have hN : 0x2000000A + d.toNat * 128 + f.toNat * 4096 + a.toNat * 32768 + s.toNat * 1048576 < 2 ^ 32 := by omega
  show decode (BitVec.ofNat 32 (0x2000000A + d.toNat * 128 + f.toNat * 4096 + a.toNat * 32768 + s.toNat * 1048576)) = _
  rw [decode_fcvtfi _ (by rw [fldN_ofNat _ _ _ hN]; exact field_at (0) (10) (4194304 + d.toNat * 1 + f.toNat * 32 + a.toNat * 256 + s.toNat * 8192) (by omega) (by omega) (by omega)) (by rw [fldN_ofNat _ _ _ hN]; exact field_at (10 + d.toNat * 128 + f.toNat * 4096 + a.toNat * 32768 + s.toNat * 1048576) (16) (0) (by omega) (by omega) (by omega)) (by rw [fldN_ofNat _ _ _ hN]; exact field_at (10 + d.toNat * 128 + f.toNat * 4096) (0) (16384 + a.toNat * 1 + s.toNat * 32) (by omega) (by omega) (by omega)),
    fld_ofNat _ _ d hN (field_at (10) (d.toNat) (131072 + f.toNat * 1 + a.toNat * 8 + s.toNat * 256) (by omega) (by omega) (by omega)),
    fld_ofNat _ _ f hN (field_at (10 + d.toNat * 128) (f.toNat) (32768 + a.toNat * 2 + s.toNat * 64) (by omega) (by omega) (by omega)),
    fld_ofNat _ _ a hN (field_at (10 + d.toNat * 128 + f.toNat * 4096) (a.toNat) (512 + s.toNat * 1) (by omega) (by omega) (by omega)),
    fld_ofNat _ _ s hN (field_at (10 + d.toNat * 128 + f.toNat * 4096 + a.toNat * 32768) (s.toNat) (16) (by omega) (by omega) (by omega))]

theorem fcvtff (d : BitVec 5) (f : BitVec 2) (a : BitVec 5) (s : BitVec 5) : Statement (.fcvtff d f a s) := by
  intro _ _ _
  have hd := d.isLt
  have hf := f.isLt
  have ha := a.isLt
  have hs := s.isLt
  have hN : 0x2200000A + d.toNat * 128 + f.toNat * 4096 + a.toNat * 32768 + s.toNat * 1048576 < 2 ^ 32 := by omega
  show decode (BitVec.ofNat 32 (0x2200000A + d.toNat * 128 + f.toNat * 4096 + a.toNat * 32768 + s.toNat * 1048576)) = _
  rw [decode_fcvtff _ (by rw [fldN_ofNat _ _ _ hN]; exact field_at (0) (10) (4456448 + d.toNat * 1 + f.toNat * 32 + a.toNat * 256 + s.toNat * 8192) (by omega) (by omega) (by omega)) (by rw [fldN_ofNat _ _ _ hN]; exact field_at (10 + d.toNat * 128 + f.toNat * 4096 + a.toNat * 32768 + s.toNat * 1048576) (17) (0) (by omega) (by omega) (by omega)) (by rw [fldN_ofNat _ _ _ hN]; exact field_at (10 + d.toNat * 128 + f.toNat * 4096) (0) (17408 + a.toNat * 1 + s.toNat * 32) (by omega) (by omega) (by omega)),
    fld_ofNat _ _ d hN (field_at (10) (d.toNat) (139264 + f.toNat * 1 + a.toNat * 8 + s.toNat * 256) (by omega) (by omega) (by omega)),
    fld_ofNat _ _ f hN (field_at (10 + d.toNat * 128) (f.toNat) (34816 + a.toNat * 2 + s.toNat * 64) (by omega) (by omega) (by omega)),
    fld_ofNat _ _ a hN (field_at (10 + d.toNat * 128 + f.toNat * 4096) (a.toNat) (544 + s.toNat * 1) (by omega) (by omega) (by omega)),
    fld_ofNat _ _ s hN (field_at (10 + d.toNat * 128 + f.toNat * 4096 + a.toNat * 32768) (s.toNat) (17) (by omega) (by omega) (by omega))]

theorem ldfe (d : BitVec 5) (a : BitVec 5) : Statement (.ldfe d a) := by
  intro _ _ _
  have hd := d.isLt
  have ha := a.isLt
  have hN : 0xB + d.toNat * 128 + a.toNat * 32768 < 2 ^ 32 := by omega
  show decode (BitVec.ofNat 32 (0xB + d.toNat * 128 + a.toNat * 32768)) = _
  rw [decode_ldfe _ (by rw [fldN_ofNat _ _ _ hN]; exact field_at (0) (11) (0 + d.toNat * 1 + a.toNat * 256) (by omega) (by omega) (by omega)) (by rw [fldN_ofNat _ _ _ hN]; exact field_at (11 + d.toNat * 128 + a.toNat * 32768) (0) (0) (by omega) (by omega) (by omega)) (by rw [fldN_ofNat _ _ _ hN]; exact field_at (11 + d.toNat * 128) (0) (0 + a.toNat * 1) (by omega) (by omega) (by omega)) (by rw [fldN_ofNat _ _ _ hN]; exact field_at (11 + d.toNat * 128 + a.toNat * 32768) (0) (0) (by omega) (by omega) (by omega)),
    fld_ofNat _ _ d hN (field_at (11) (d.toNat) (0 + a.toNat * 8) (by omega) (by omega) (by omega)),
    fld_ofNat _ _ a hN (field_at (11 + d.toNat * 128) (a.toNat) (0) (by omega) (by omega) (by omega))]

theorem ldff (d : BitVec 5) (a : BitVec 5) : Statement (.ldff d a) := by
  intro _ _ _
  have hd := d.isLt
  have ha := a.isLt
  have hN : 0x200000B + d.toNat * 128 + a.toNat * 32768 < 2 ^ 32 := by omega
  show decode (BitVec.ofNat 32 (0x200000B + d.toNat * 128 + a.toNat * 32768)) = _
  rw [decode_ldff _ (by rw [fldN_ofNat _ _ _ hN]; exact field_at (0) (11) (262144 + d.toNat * 1 + a.toNat * 256) (by omega) (by omega) (by omega)) (by rw [fldN_ofNat _ _ _ hN]; exact field_at (11 + d.toNat * 128 + a.toNat * 32768) (1) (0) (by omega) (by omega) (by omega)) (by rw [fldN_ofNat _ _ _ hN]; exact field_at (11 + d.toNat * 128) (0) (1024 + a.toNat * 1) (by omega) (by omega) (by omega)) (by rw [fldN_ofNat _ _ _ hN]; exact field_at (11 + d.toNat * 128 + a.toNat * 32768) (0) (1) (by omega) (by omega) (by omega)),
    fld_ofNat _ _ d hN (field_at (11) (d.toNat) (8192 + a.toNat * 8) (by omega) (by omega) (by omega)),
    fld_ofNat _ _ a hN (field_at (11 + d.toNat * 128) (a.toNat) (32) (by omega) (by omega) (by omega))]

theorem stef (d : BitVec 5) (a : BitVec 5) (b : BitVec 5) : Statement (.stef d a b) := by
  intro _ _ _
  have hd := d.isLt
  have ha := a.isLt
  have hb := b.isLt
  have hN : 0x400000B + d.toNat * 128 + a.toNat * 32768 + b.toNat * 1048576 < 2 ^ 32 := by omega
  show decode (BitVec.ofNat 32 (0x400000B + d.toNat * 128 + a.toNat * 32768 + b.toNat * 1048576)) = _
  rw [decode_stef _ (by rw [fldN_ofNat _ _ _ hN]; exact field_at (0) (11) (524288 + d.toNat * 1 + a.toNat * 256 + b.toNat * 8192) (by omega) (by omega) (by omega)) (by rw [fldN_ofNat _ _ _ hN]; exact field_at (11 + d.toNat * 128 + a.toNat * 32768 + b.toNat * 1048576) (2) (0) (by omega) (by omega) (by omega)) (by rw [fldN_ofNat _ _ _ hN]; exact field_at (11 + d.toNat * 128) (0) (2048 + a.toNat * 1 + b.toNat * 32) (by omega) (by omega) (by omega)),
    fld_ofNat _ _ d hN (field_at (11) (d.toNat) (16384 + a.toNat * 8 + b.toNat * 256) (by omega) (by omega) (by omega)),
    fld_ofNat _ _ a hN (field_at (11 + d.toNat * 128) (a.toNat) (64 + b.toNat * 1) (by omega) (by omega) (by omega)),
    fld_ofNat _ _ b hN (field_at (11 + d.toNat * 128 + a.toNat * 32768) (b.toNat) (2) (by omega) (by omega) (by omega))]

theorem stf (a : BitVec 5) (b : BitVec 5) : Statement (.stf a b) := by
  intro _ _ _
  have ha := a.isLt
  have hb := b.isLt
  have hN : 0x600000B + a.toNat * 32768 + b.toNat * 1048576 < 2 ^ 32 := by omega
  show decode (BitVec.ofNat 32 (0x600000B + a.toNat * 32768 + b.toNat * 1048576)) = _
  rw [decode_stf _ (by rw [fldN_ofNat _ _ _ hN]; exact field_at (0) (11) (786432 + a.toNat * 256 + b.toNat * 8192) (by omega) (by omega) (by omega)) (by rw [fldN_ofNat _ _ _ hN]; exact field_at (11 + a.toNat * 32768 + b.toNat * 1048576) (3) (0) (by omega) (by omega) (by omega)) (by rw [fldN_ofNat _ _ _ hN]; exact field_at (11) (0) (3072 + a.toNat * 1 + b.toNat * 32) (by omega) (by omega) (by omega)),
    fld_ofNat _ _ a hN (field_at (11) (a.toNat) (96 + b.toNat * 1) (by omega) (by omega) (by omega)),
    fld_ofNat _ _ b hN (field_at (11 + a.toNat * 32768) (b.toNat) (3) (by omega) (by omega) (by omega))]

theorem feclr (a : BitVec 5) : Statement (.feclr a) := by
  intro _ _ _
  have ha := a.isLt
  have hN : 0x800000B + a.toNat * 32768 < 2 ^ 32 := by omega
  show decode (BitVec.ofNat 32 (0x800000B + a.toNat * 32768)) = _
  rw [decode_feclr _ (by rw [fldN_ofNat _ _ _ hN]; exact field_at (0) (11) (1048576 + a.toNat * 256) (by omega) (by omega) (by omega)) (by rw [fldN_ofNat _ _ _ hN]; exact field_at (11 + a.toNat * 32768) (4) (0) (by omega) (by omega) (by omega)) (by rw [fldN_ofNat _ _ _ hN]; exact field_at (11) (0) (4096 + a.toNat * 1) (by omega) (by omega) (by omega)) (by rw [fldN_ofNat _ _ _ hN]; exact field_at (11 + a.toNat * 32768) (0) (4) (by omega) (by omega) (by omega)),
    fld_ofNat _ _ a hN (field_at (11) (a.toNat) (128) (by omega) (by omega) (by omega))]

theorem fepeek (d : BitVec 5) (a : BitVec 5) : Statement (.fepeek d a) := by
  intro _ _ _
  have hd := d.isLt
  have ha := a.isLt
  have hN : 0xA00000B + d.toNat * 128 + a.toNat * 32768 < 2 ^ 32 := by omega
  show decode (BitVec.ofNat 32 (0xA00000B + d.toNat * 128 + a.toNat * 32768)) = _
  rw [decode_fepeek _ (by rw [fldN_ofNat _ _ _ hN]; exact field_at (0) (11) (1310720 + d.toNat * 1 + a.toNat * 256) (by omega) (by omega) (by omega)) (by rw [fldN_ofNat _ _ _ hN]; exact field_at (11 + d.toNat * 128 + a.toNat * 32768) (5) (0) (by omega) (by omega) (by omega)) (by rw [fldN_ofNat _ _ _ hN]; exact field_at (11 + d.toNat * 128) (0) (5120 + a.toNat * 1) (by omega) (by omega) (by omega)) (by rw [fldN_ofNat _ _ _ hN]; exact field_at (11 + d.toNat * 128 + a.toNat * 32768) (0) (5) (by omega) (by omega) (by omega)),
    fld_ofNat _ _ d hN (field_at (11) (d.toNat) (40960 + a.toNat * 8) (by omega) (by omega) (by omega)),
    fld_ofNat _ _ a hN (field_at (11 + d.toNat * 128) (a.toNat) (160) (by omega) (by omega) (by omega))]

theorem amoadd (d : BitVec 5) (w : BitVec 1) (a : BitVec 5) (b : BitVec 5) : Statement (.amoadd d w a b) := by
  intro _ _ _
  have hd := d.isLt
  have hw := w.isLt
  have ha := a.isLt
  have hb := b.isLt
  have hN : 0xC00200B + d.toNat * 128 + w.toNat * 4096 + a.toNat * 32768 + b.toNat * 1048576 < 2 ^ 32 := by omega
  show decode (BitVec.ofNat 32 (0xC00200B + d.toNat * 128 + w.toNat * 4096 + a.toNat * 32768 + b.toNat * 1048576)) = _
  rw [decode_amoadd _ (by rw [fldN_ofNat _ _ _ hN]; exact field_at (0) (11) (1572928 + d.toNat * 1 + w.toNat * 32 + a.toNat * 256 + b.toNat * 8192) (by omega) (by omega) (by omega)) (by rw [fldN_ofNat _ _ _ hN]; exact field_at (8203 + d.toNat * 128 + w.toNat * 4096 + a.toNat * 32768 + b.toNat * 1048576) (6) (0) (by omega) (by omega) (by omega)) (by rw [fldN_ofNat _ _ _ hN]; exact field_at (11 + d.toNat * 128 + w.toNat * 4096) (1) (6144 + a.toNat * 1 + b.toNat * 32) (by omega) (by omega) (by omega)),
    fld_ofNat _ _ d hN (field_at (11) (d.toNat) (49154 + w.toNat * 1 + a.toNat * 8 + b.toNat * 256) (by omega) (by omega) (by omega)),
    fld_ofNat _ _ w hN (field_at (11 + d.toNat * 128) (w.toNat) (24577 + a.toNat * 4 + b.toNat * 128) (by omega) (by omega) (by omega)),
    fld_ofNat _ _ a hN (field_at (8203 + d.toNat * 128 + w.toNat * 4096) (a.toNat) (192 + b.toNat * 1) (by omega) (by omega) (by omega)),
    fld_ofNat _ _ b hN (field_at (8203 + d.toNat * 128 + w.toNat * 4096 + a.toNat * 32768) (b.toNat) (6) (by omega) (by omega) (by omega))]

theorem amoand (d : BitVec 5) (w : BitVec 1) (a : BitVec 5) (b : BitVec 5) : Statement (.amoand d w a b) := by
  intro _ _ _
  have hd := d.isLt
  have hw := w.isLt
  have ha := a.isLt
  have hb := b.isLt
  have hN : 0xE00200B + d.toNat * 128 + w.toNat * 4096 + a.toNat * 32768 + b.toNat * 1048576 < 2 ^ 32 := by omega
  show decode (BitVec.ofNat 32 (0xE00200B + d.toNat * 128 + w.toNat * 4096 + a.toNat * 32768 + b.toNat * 1048576)) = _
  rw [decode_amoand _ (by rw [fldN_ofNat _ _ _ hN]; exact field_at (0) (11) (1835072 + d.toNat * 1 + w.toNat * 32 + a.toNat * 256 + b.toNat * 8192) (by omega) (by omega) (by omega)) (by rw [fldN_ofNat _ _ _ hN]; exact field_at (8203 + d.toNat * 128 + w.toNat * 4096 + a.toNat * 32768 + b.toNat * 1048576) (7) (0) (by omega) (by omega) (by omega)) (by rw [fldN_ofNat _ _ _ hN]; exact field_at (11 + d.toNat * 128 + w.toNat * 4096) (1) (7168 + a.toNat * 1 + b.toNat * 32) (by omega) (by omega) (by omega)),
    fld_ofNat _ _ d hN (field_at (11) (d.toNat) (57346 + w.toNat * 1 + a.toNat * 8 + b.toNat * 256) (by omega) (by omega) (by omega)),
    fld_ofNat _ _ w hN (field_at (11 + d.toNat * 128) (w.toNat) (28673 + a.toNat * 4 + b.toNat * 128) (by omega) (by omega) (by omega)),
    fld_ofNat _ _ a hN (field_at (8203 + d.toNat * 128 + w.toNat * 4096) (a.toNat) (224 + b.toNat * 1) (by omega) (by omega) (by omega)),
    fld_ofNat _ _ b hN (field_at (8203 + d.toNat * 128 + w.toNat * 4096 + a.toNat * 32768) (b.toNat) (7) (by omega) (by omega) (by omega))]

theorem amoor (d : BitVec 5) (w : BitVec 1) (a : BitVec 5) (b : BitVec 5) : Statement (.amoor d w a b) := by
  intro _ _ _
  have hd := d.isLt
  have hw := w.isLt
  have ha := a.isLt
  have hb := b.isLt
  have hN : 0x1000200B + d.toNat * 128 + w.toNat * 4096 + a.toNat * 32768 + b.toNat * 1048576 < 2 ^ 32 := by omega
  show decode (BitVec.ofNat 32 (0x1000200B + d.toNat * 128 + w.toNat * 4096 + a.toNat * 32768 + b.toNat * 1048576)) = _
  rw [decode_amoor _ (by rw [fldN_ofNat _ _ _ hN]; exact field_at (0) (11) (2097216 + d.toNat * 1 + w.toNat * 32 + a.toNat * 256 + b.toNat * 8192) (by omega) (by omega) (by omega)) (by rw [fldN_ofNat _ _ _ hN]; exact field_at (8203 + d.toNat * 128 + w.toNat * 4096 + a.toNat * 32768 + b.toNat * 1048576) (8) (0) (by omega) (by omega) (by omega)) (by rw [fldN_ofNat _ _ _ hN]; exact field_at (11 + d.toNat * 128 + w.toNat * 4096) (1) (8192 + a.toNat * 1 + b.toNat * 32) (by omega) (by omega) (by omega)),
    fld_ofNat _ _ d hN (field_at (11) (d.toNat) (65538 + w.toNat * 1 + a.toNat * 8 + b.toNat * 256) (by omega) (by omega) (by omega)),
    fld_ofNat _ _ w hN (field_at (11 + d.toNat * 128) (w.toNat) (32769 + a.toNat * 4 + b.toNat * 128) (by omega) (by omega) (by omega)),
    fld_ofNat _ _ a hN (field_at (8203 + d.toNat * 128 + w.toNat * 4096) (a.toNat) (256 + b.toNat * 1) (by omega) (by omega) (by omega)),
    fld_ofNat _ _ b hN (field_at (8203 + d.toNat * 128 + w.toNat * 4096 + a.toNat * 32768) (b.toNat) (8) (by omega) (by omega) (by omega))]

theorem amoxor (d : BitVec 5) (w : BitVec 1) (a : BitVec 5) (b : BitVec 5) : Statement (.amoxor d w a b) := by
  intro _ _ _
  have hd := d.isLt
  have hw := w.isLt
  have ha := a.isLt
  have hb := b.isLt
  have hN : 0x1200200B + d.toNat * 128 + w.toNat * 4096 + a.toNat * 32768 + b.toNat * 1048576 < 2 ^ 32 := by omega
  show decode (BitVec.ofNat 32 (0x1200200B + d.toNat * 128 + w.toNat * 4096 + a.toNat * 32768 + b.toNat * 1048576)) = _
  rw [decode_amoxor _ (by rw [fldN_ofNat _ _ _ hN]; exact field_at (0) (11) (2359360 + d.toNat * 1 + w.toNat * 32 + a.toNat * 256 + b.toNat * 8192) (by omega) (by omega) (by omega)) (by rw [fldN_ofNat _ _ _ hN]; exact field_at (8203 + d.toNat * 128 + w.toNat * 4096 + a.toNat * 32768 + b.toNat * 1048576) (9) (0) (by omega) (by omega) (by omega)) (by rw [fldN_ofNat _ _ _ hN]; exact field_at (11 + d.toNat * 128 + w.toNat * 4096) (1) (9216 + a.toNat * 1 + b.toNat * 32) (by omega) (by omega) (by omega)),
    fld_ofNat _ _ d hN (field_at (11) (d.toNat) (73730 + w.toNat * 1 + a.toNat * 8 + b.toNat * 256) (by omega) (by omega) (by omega)),
    fld_ofNat _ _ w hN (field_at (11 + d.toNat * 128) (w.toNat) (36865 + a.toNat * 4 + b.toNat * 128) (by omega) (by omega) (by omega)),
    fld_ofNat _ _ a hN (field_at (8203 + d.toNat * 128 + w.toNat * 4096) (a.toNat) (288 + b.toNat * 1) (by omega) (by omega) (by omega)),
    fld_ofNat _ _ b hN (field_at (8203 + d.toNat * 128 + w.toNat * 4096 + a.toNat * 32768) (b.toNat) (9) (by omega) (by omega) (by omega))]

theorem amomin (d : BitVec 5) (w : BitVec 1) (a : BitVec 5) (b : BitVec 5) : Statement (.amomin d w a b) := by
  intro _ _ _
  have hd := d.isLt
  have hw := w.isLt
  have ha := a.isLt
  have hb := b.isLt
  have hN : 0x1400200B + d.toNat * 128 + w.toNat * 4096 + a.toNat * 32768 + b.toNat * 1048576 < 2 ^ 32 := by omega
  show decode (BitVec.ofNat 32 (0x1400200B + d.toNat * 128 + w.toNat * 4096 + a.toNat * 32768 + b.toNat * 1048576)) = _
  rw [decode_amomin _ (by rw [fldN_ofNat _ _ _ hN]; exact field_at (0) (11) (2621504 + d.toNat * 1 + w.toNat * 32 + a.toNat * 256 + b.toNat * 8192) (by omega) (by omega) (by omega)) (by rw [fldN_ofNat _ _ _ hN]; exact field_at (8203 + d.toNat * 128 + w.toNat * 4096 + a.toNat * 32768 + b.toNat * 1048576) (10) (0) (by omega) (by omega) (by omega)) (by rw [fldN_ofNat _ _ _ hN]; exact field_at (11 + d.toNat * 128 + w.toNat * 4096) (1) (10240 + a.toNat * 1 + b.toNat * 32) (by omega) (by omega) (by omega)),
    fld_ofNat _ _ d hN (field_at (11) (d.toNat) (81922 + w.toNat * 1 + a.toNat * 8 + b.toNat * 256) (by omega) (by omega) (by omega)),
    fld_ofNat _ _ w hN (field_at (11 + d.toNat * 128) (w.toNat) (40961 + a.toNat * 4 + b.toNat * 128) (by omega) (by omega) (by omega)),
    fld_ofNat _ _ a hN (field_at (8203 + d.toNat * 128 + w.toNat * 4096) (a.toNat) (320 + b.toNat * 1) (by omega) (by omega) (by omega)),
    fld_ofNat _ _ b hN (field_at (8203 + d.toNat * 128 + w.toNat * 4096 + a.toNat * 32768) (b.toNat) (10) (by omega) (by omega) (by omega))]

theorem amomax (d : BitVec 5) (w : BitVec 1) (a : BitVec 5) (b : BitVec 5) : Statement (.amomax d w a b) := by
  intro _ _ _
  have hd := d.isLt
  have hw := w.isLt
  have ha := a.isLt
  have hb := b.isLt
  have hN : 0x1600200B + d.toNat * 128 + w.toNat * 4096 + a.toNat * 32768 + b.toNat * 1048576 < 2 ^ 32 := by omega
  show decode (BitVec.ofNat 32 (0x1600200B + d.toNat * 128 + w.toNat * 4096 + a.toNat * 32768 + b.toNat * 1048576)) = _
  rw [decode_amomax _ (by rw [fldN_ofNat _ _ _ hN]; exact field_at (0) (11) (2883648 + d.toNat * 1 + w.toNat * 32 + a.toNat * 256 + b.toNat * 8192) (by omega) (by omega) (by omega)) (by rw [fldN_ofNat _ _ _ hN]; exact field_at (8203 + d.toNat * 128 + w.toNat * 4096 + a.toNat * 32768 + b.toNat * 1048576) (11) (0) (by omega) (by omega) (by omega)) (by rw [fldN_ofNat _ _ _ hN]; exact field_at (11 + d.toNat * 128 + w.toNat * 4096) (1) (11264 + a.toNat * 1 + b.toNat * 32) (by omega) (by omega) (by omega)),
    fld_ofNat _ _ d hN (field_at (11) (d.toNat) (90114 + w.toNat * 1 + a.toNat * 8 + b.toNat * 256) (by omega) (by omega) (by omega)),
    fld_ofNat _ _ w hN (field_at (11 + d.toNat * 128) (w.toNat) (45057 + a.toNat * 4 + b.toNat * 128) (by omega) (by omega) (by omega)),
    fld_ofNat _ _ a hN (field_at (8203 + d.toNat * 128 + w.toNat * 4096) (a.toNat) (352 + b.toNat * 1) (by omega) (by omega) (by omega)),
    fld_ofNat _ _ b hN (field_at (8203 + d.toNat * 128 + w.toNat * 4096 + a.toNat * 32768) (b.toNat) (11) (by omega) (by omega) (by omega))]

theorem amominu (d : BitVec 5) (w : BitVec 1) (a : BitVec 5) (b : BitVec 5) : Statement (.amominu d w a b) := by
  intro _ _ _
  have hd := d.isLt
  have hw := w.isLt
  have ha := a.isLt
  have hb := b.isLt
  have hN : 0x1800200B + d.toNat * 128 + w.toNat * 4096 + a.toNat * 32768 + b.toNat * 1048576 < 2 ^ 32 := by omega
  show decode (BitVec.ofNat 32 (0x1800200B + d.toNat * 128 + w.toNat * 4096 + a.toNat * 32768 + b.toNat * 1048576)) = _
  rw [decode_amominu _ (by rw [fldN_ofNat _ _ _ hN]; exact field_at (0) (11) (3145792 + d.toNat * 1 + w.toNat * 32 + a.toNat * 256 + b.toNat * 8192) (by omega) (by omega) (by omega)) (by rw [fldN_ofNat _ _ _ hN]; exact field_at (8203 + d.toNat * 128 + w.toNat * 4096 + a.toNat * 32768 + b.toNat * 1048576) (12) (0) (by omega) (by omega) (by omega)) (by rw [fldN_ofNat _ _ _ hN]; exact field_at (11 + d.toNat * 128 + w.toNat * 4096) (1) (12288 + a.toNat * 1 + b.toNat * 32) (by omega) (by omega) (by omega)),
    fld_ofNat _ _ d hN (field_at (11) (d.toNat) (98306 + w.toNat * 1 + a.toNat * 8 + b.toNat * 256) (by omega) (by omega) (by omega)),
    fld_ofNat _ _ w hN (field_at (11 + d.toNat * 128) (w.toNat) (49153 + a.toNat * 4 + b.toNat * 128) (by omega) (by omega) (by omega)),
    fld_ofNat _ _ a hN (field_at (8203 + d.toNat * 128 + w.toNat * 4096) (a.toNat) (384 + b.toNat * 1) (by omega) (by omega) (by omega)),
    fld_ofNat _ _ b hN (field_at (8203 + d.toNat * 128 + w.toNat * 4096 + a.toNat * 32768) (b.toNat) (12) (by omega) (by omega) (by omega))]

theorem amomaxu (d : BitVec 5) (w : BitVec 1) (a : BitVec 5) (b : BitVec 5) : Statement (.amomaxu d w a b) := by
  intro _ _ _
  have hd := d.isLt
  have hw := w.isLt
  have ha := a.isLt
  have hb := b.isLt
  have hN : 0x1A00200B + d.toNat * 128 + w.toNat * 4096 + a.toNat * 32768 + b.toNat * 1048576 < 2 ^ 32 := by omega
  show decode (BitVec.ofNat 32 (0x1A00200B + d.toNat * 128 + w.toNat * 4096 + a.toNat * 32768 + b.toNat * 1048576)) = _
  rw [decode_amomaxu _ (by rw [fldN_ofNat _ _ _ hN]; exact field_at (0) (11) (3407936 + d.toNat * 1 + w.toNat * 32 + a.toNat * 256 + b.toNat * 8192) (by omega) (by omega) (by omega)) (by rw [fldN_ofNat _ _ _ hN]; exact field_at (8203 + d.toNat * 128 + w.toNat * 4096 + a.toNat * 32768 + b.toNat * 1048576) (13) (0) (by omega) (by omega) (by omega)) (by rw [fldN_ofNat _ _ _ hN]; exact field_at (11 + d.toNat * 128 + w.toNat * 4096) (1) (13312 + a.toNat * 1 + b.toNat * 32) (by omega) (by omega) (by omega)),
    fld_ofNat _ _ d hN (field_at (11) (d.toNat) (106498 + w.toNat * 1 + a.toNat * 8 + b.toNat * 256) (by omega) (by omega) (by omega)),
    fld_ofNat _ _ w hN (field_at (11 + d.toNat * 128) (w.toNat) (53249 + a.toNat * 4 + b.toNat * 128) (by omega) (by omega) (by omega)),
    fld_ofNat _ _ a hN (field_at (8203 + d.toNat * 128 + w.toNat * 4096) (a.toNat) (416 + b.toNat * 1) (by omega) (by omega) (by omega)),
    fld_ofNat _ _ b hN (field_at (8203 + d.toNat * 128 + w.toNat * 4096 + a.toNat * 32768) (b.toNat) (13) (by omega) (by omega) (by omega))]

theorem amoswap (d : BitVec 5) (w : BitVec 1) (a : BitVec 5) (b : BitVec 5) : Statement (.amoswap d w a b) := by
  intro _ _ _
  have hd := d.isLt
  have hw := w.isLt
  have ha := a.isLt
  have hb := b.isLt
  have hN : 0x1C00200B + d.toNat * 128 + w.toNat * 4096 + a.toNat * 32768 + b.toNat * 1048576 < 2 ^ 32 := by omega
  show decode (BitVec.ofNat 32 (0x1C00200B + d.toNat * 128 + w.toNat * 4096 + a.toNat * 32768 + b.toNat * 1048576)) = _
  rw [decode_amoswap _ (by rw [fldN_ofNat _ _ _ hN]; exact field_at (0) (11) (3670080 + d.toNat * 1 + w.toNat * 32 + a.toNat * 256 + b.toNat * 8192) (by omega) (by omega) (by omega)) (by rw [fldN_ofNat _ _ _ hN]; exact field_at (8203 + d.toNat * 128 + w.toNat * 4096 + a.toNat * 32768 + b.toNat * 1048576) (14) (0) (by omega) (by omega) (by omega)) (by rw [fldN_ofNat _ _ _ hN]; exact field_at (11 + d.toNat * 128 + w.toNat * 4096) (1) (14336 + a.toNat * 1 + b.toNat * 32) (by omega) (by omega) (by omega)),
    fld_ofNat _ _ d hN (field_at (11) (d.toNat) (114690 + w.toNat * 1 + a.toNat * 8 + b.toNat * 256) (by omega) (by omega) (by omega)),
    fld_ofNat _ _ w hN (field_at (11 + d.toNat * 128) (w.toNat) (57345 + a.toNat * 4 + b.toNat * 128) (by omega) (by omega) (by omega)),
    fld_ofNat _ _ a hN (field_at (8203 + d.toNat * 128 + w.toNat * 4096) (a.toNat) (448 + b.toNat * 1) (by omega) (by omega) (by omega)),
    fld_ofNat _ _ b hN (field_at (8203 + d.toNat * 128 + w.toNat * 4096 + a.toNat * 32768) (b.toNat) (14) (by omega) (by omega) (by omega))]

theorem cas (d : BitVec 5) (w : BitVec 1) (a : BitVec 5) (b : BitVec 5) : Statement (.cas d w a b) := by
  intro _ _ _
  have hd := d.isLt
  have hw := w.isLt
  have ha := a.isLt
  have hb := b.isLt
  have hN : 0x1E00200B + d.toNat * 128 + w.toNat * 4096 + a.toNat * 32768 + b.toNat * 1048576 < 2 ^ 32 := by omega
  show decode (BitVec.ofNat 32 (0x1E00200B + d.toNat * 128 + w.toNat * 4096 + a.toNat * 32768 + b.toNat * 1048576)) = _
  rw [decode_cas _ (by rw [fldN_ofNat _ _ _ hN]; exact field_at (0) (11) (3932224 + d.toNat * 1 + w.toNat * 32 + a.toNat * 256 + b.toNat * 8192) (by omega) (by omega) (by omega)) (by rw [fldN_ofNat _ _ _ hN]; exact field_at (8203 + d.toNat * 128 + w.toNat * 4096 + a.toNat * 32768 + b.toNat * 1048576) (15) (0) (by omega) (by omega) (by omega)) (by rw [fldN_ofNat _ _ _ hN]; exact field_at (11 + d.toNat * 128 + w.toNat * 4096) (1) (15360 + a.toNat * 1 + b.toNat * 32) (by omega) (by omega) (by omega)),
    fld_ofNat _ _ d hN (field_at (11) (d.toNat) (122882 + w.toNat * 1 + a.toNat * 8 + b.toNat * 256) (by omega) (by omega) (by omega)),
    fld_ofNat _ _ w hN (field_at (11 + d.toNat * 128) (w.toNat) (61441 + a.toNat * 4 + b.toNat * 128) (by omega) (by omega) (by omega)),
    fld_ofNat _ _ a hN (field_at (8203 + d.toNat * 128 + w.toNat * 4096) (a.toNat) (480 + b.toNat * 1) (by omega) (by omega) (by omega)),
    fld_ofNat _ _ b hN (field_at (8203 + d.toNat * 128 + w.toNat * 4096 + a.toNat * 32768) (b.toNat) (15) (by omega) (by omega) (by omega))]

theorem amofadd (d : BitVec 5) (w : BitVec 1) (a : BitVec 5) (b : BitVec 5) : Statement (.amofadd d w a b) := by
  intro _ _ _
  have hd := d.isLt
  have hw := w.isLt
  have ha := a.isLt
  have hb := b.isLt
  have hN : 0x2000000B + d.toNat * 128 + w.toNat * 4096 + a.toNat * 32768 + b.toNat * 1048576 < 2 ^ 32 := by omega
  show decode (BitVec.ofNat 32 (0x2000000B + d.toNat * 128 + w.toNat * 4096 + a.toNat * 32768 + b.toNat * 1048576)) = _
  rw [decode_amofadd _ (by rw [fldN_ofNat _ _ _ hN]; exact field_at (0) (11) (4194304 + d.toNat * 1 + w.toNat * 32 + a.toNat * 256 + b.toNat * 8192) (by omega) (by omega) (by omega)) (by rw [fldN_ofNat _ _ _ hN]; exact field_at (11 + d.toNat * 128 + w.toNat * 4096 + a.toNat * 32768 + b.toNat * 1048576) (16) (0) (by omega) (by omega) (by omega)) (by rw [fldN_ofNat _ _ _ hN]; exact field_at (11 + d.toNat * 128 + w.toNat * 4096) (0) (16384 + a.toNat * 1 + b.toNat * 32) (by omega) (by omega) (by omega)),
    fld_ofNat _ _ d hN (field_at (11) (d.toNat) (131072 + w.toNat * 1 + a.toNat * 8 + b.toNat * 256) (by omega) (by omega) (by omega)),
    fld_ofNat _ _ w hN (field_at (11 + d.toNat * 128) (w.toNat) (65536 + a.toNat * 4 + b.toNat * 128) (by omega) (by omega) (by omega)),
    fld_ofNat _ _ a hN (field_at (11 + d.toNat * 128 + w.toNat * 4096) (a.toNat) (512 + b.toNat * 1) (by omega) (by omega) (by omega)),
    fld_ofNat _ _ b hN (field_at (11 + d.toNat * 128 + w.toNat * 4096 + a.toNat * 32768) (b.toNat) (16) (by omega) (by omega) (by omega))]

theorem fence (s : BitVec 3) (v : BitVec 1) (e : BitVec 1) (p : BitVec 1) : Statement (.fence s v e p) := by
  intro _ _ _
  have hs := s.isLt
  have hv := v.isLt
  have he := e.isLt
  have hp := p.isLt
  have hN : 0x2200000B + s.toNat * 4096 + v.toNat * 1048576 + e.toNat * 2097152 + p.toNat * 4194304 < 2 ^ 32 := by omega
  show decode (BitVec.ofNat 32 (0x2200000B + s.toNat * 4096 + v.toNat * 1048576 + e.toNat * 2097152 + p.toNat * 4194304)) = _
  rw [decode_fence _ (by rw [fldN_ofNat _ _ _ hN]; exact field_at (0) (11) (4456448 + s.toNat * 32 + v.toNat * 8192 + e.toNat * 16384 + p.toNat * 32768) (by omega) (by omega) (by omega)) (by rw [fldN_ofNat _ _ _ hN]; exact field_at (11 + s.toNat * 4096 + v.toNat * 1048576 + e.toNat * 2097152 + p.toNat * 4194304) (17) (0) (by omega) (by omega) (by omega)) (by rw [fldN_ofNat _ _ _ hN]; exact field_at (11) (0) (139264 + s.toNat * 1 + v.toNat * 256 + e.toNat * 512 + p.toNat * 1024) (by omega) (by omega) (by omega)) (by rw [fldN_ofNat _ _ _ hN]; exact field_at (11 + s.toNat * 4096) (0) (544 + v.toNat * 1 + e.toNat * 2 + p.toNat * 4) (by omega) (by omega) (by omega)) (by rw [fldN_ofNat _ _ _ hN]; exact field_at (11 + s.toNat * 4096 + v.toNat * 1048576 + e.toNat * 2097152 + p.toNat * 4194304) (0) (17) (by omega) (by omega) (by omega)),
    fld_ofNat _ _ s hN (field_at (11) (s.toNat) (17408 + v.toNat * 32 + e.toNat * 64 + p.toNat * 128) (by omega) (by omega) (by omega)),
    fld_ofNat _ _ v hN (field_at (11 + s.toNat * 4096) (v.toNat) (272 + e.toNat * 1 + p.toNat * 2) (by omega) (by omega) (by omega)),
    fld_ofNat _ _ e hN (field_at (11 + s.toNat * 4096 + v.toNat * 1048576) (e.toNat) (136 + p.toNat * 1) (by omega) (by omega) (by omega)),
    fld_ofNat _ _ p hN (field_at (11 + s.toNat * 4096 + v.toNat * 1048576 + e.toNat * 2097152) (p.toNat) (68) (by omega) (by omega) (by omega))]

theorem rlx (n : BitVec 4) : Statement (.rlx n) := by
  intro _ _ _
  have hn := n.isLt
  have hN : 0x2400000B + n.toNat * 1048576 < 2 ^ 32 := by omega
  show decode (BitVec.ofNat 32 (0x2400000B + n.toNat * 1048576)) = _
  rw [decode_rlx _ (by rw [fldN_ofNat _ _ _ hN]; exact field_at (0) (11) (4718592 + n.toNat * 8192) (by omega) (by omega) (by omega)) (by rw [fldN_ofNat _ _ _ hN]; exact field_at (11 + n.toNat * 1048576) (18) (0) (by omega) (by omega) (by omega)) (by rw [fldN_ofNat _ _ _ hN]; exact field_at (11) (0) (576 + n.toNat * 1) (by omega) (by omega) (by omega)) (by rw [fldN_ofNat _ _ _ hN]; exact field_at (11 + n.toNat * 1048576) (0) (18) (by omega) (by omega) (by omega)),
    fld_ofNat _ _ n hN (field_at (11) (n.toNat) (36) (by omega) (by omega) (by omega))]

theorem pglobal (d : BitVec 5) (a : BitVec 5) : Statement (.pglobal d a) := by
  intro _ _ _
  have hd := d.isLt
  have ha := a.isLt
  have hN : 0x2600000B + d.toNat * 128 + a.toNat * 32768 < 2 ^ 32 := by omega
  show decode (BitVec.ofNat 32 (0x2600000B + d.toNat * 128 + a.toNat * 32768)) = _
  rw [decode_pglobal _ (by rw [fldN_ofNat _ _ _ hN]; exact field_at (0) (11) (4980736 + d.toNat * 1 + a.toNat * 256) (by omega) (by omega) (by omega)) (by rw [fldN_ofNat _ _ _ hN]; exact field_at (11 + d.toNat * 128 + a.toNat * 32768) (19) (0) (by omega) (by omega) (by omega)) (by rw [fldN_ofNat _ _ _ hN]; exact field_at (11 + d.toNat * 128) (0) (19456 + a.toNat * 1) (by omega) (by omega) (by omega)) (by rw [fldN_ofNat _ _ _ hN]; exact field_at (11 + d.toNat * 128 + a.toNat * 32768) (0) (19) (by omega) (by omega) (by omega)),
    fld_ofNat _ _ d hN (field_at (11) (d.toNat) (155648 + a.toNat * 8) (by omega) (by omega) (by omega)),
    fld_ofNat _ _ a hN (field_at (11 + d.toNat * 128) (a.toNat) (608) (by omega) (by omega) (by omega))]

theorem csrrw (d : BitVec 5) (a : BitVec 5) (c : BitVec 12) : Statement (.csrrw d a c) := by
  intro _ _ _
  have hd := d.isLt
  have ha := a.isLt
  have hc := c.isLt
  have hN : 0x100C + d.toNat * 128 + a.toNat * 32768 + c.toNat * 1048576 < 2 ^ 32 := by omega
  show decode (BitVec.ofNat 32 (0x100C + d.toNat * 128 + a.toNat * 32768 + c.toNat * 1048576)) = _
  rw [decode_csrrw _ (by rw [fldN_ofNat _ _ _ hN]; exact field_at (0) (12) (32 + d.toNat * 1 + a.toNat * 256 + c.toNat * 8192) (by omega) (by omega) (by omega)) (by rw [fldN_ofNat _ _ _ hN]; exact field_at (12 + d.toNat * 128) (1) (0 + a.toNat * 1 + c.toNat * 32) (by omega) (by omega) (by omega)),
    fld_ofNat _ _ d hN (field_at (12) (d.toNat) (1 + a.toNat * 8 + c.toNat * 256) (by omega) (by omega) (by omega)),
    fld_ofNat _ _ a hN (field_at (4108 + d.toNat * 128) (a.toNat) (0 + c.toNat * 1) (by omega) (by omega) (by omega)),
    fld_ofNat _ _ c hN (field_at (4108 + d.toNat * 128 + a.toNat * 32768) (c.toNat) (0) (by omega) (by omega) (by omega))]

theorem csrrs (d : BitVec 5) (a : BitVec 5) (c : BitVec 12) : Statement (.csrrs d a c) := by
  intro _ _ _
  have hd := d.isLt
  have ha := a.isLt
  have hc := c.isLt
  have hN : 0x200C + d.toNat * 128 + a.toNat * 32768 + c.toNat * 1048576 < 2 ^ 32 := by omega
  show decode (BitVec.ofNat 32 (0x200C + d.toNat * 128 + a.toNat * 32768 + c.toNat * 1048576)) = _
  rw [decode_csrrs _ (by rw [fldN_ofNat _ _ _ hN]; exact field_at (0) (12) (64 + d.toNat * 1 + a.toNat * 256 + c.toNat * 8192) (by omega) (by omega) (by omega)) (by rw [fldN_ofNat _ _ _ hN]; exact field_at (12 + d.toNat * 128) (2) (0 + a.toNat * 1 + c.toNat * 32) (by omega) (by omega) (by omega)),
    fld_ofNat _ _ d hN (field_at (12) (d.toNat) (2 + a.toNat * 8 + c.toNat * 256) (by omega) (by omega) (by omega)),
    fld_ofNat _ _ a hN (field_at (8204 + d.toNat * 128) (a.toNat) (0 + c.toNat * 1) (by omega) (by omega) (by omega)),
    fld_ofNat _ _ c hN (field_at (8204 + d.toNat * 128 + a.toNat * 32768) (c.toNat) (0) (by omega) (by omega) (by omega))]

theorem csrrc (d : BitVec 5) (a : BitVec 5) (c : BitVec 12) : Statement (.csrrc d a c) := by
  intro _ _ _
  have hd := d.isLt
  have ha := a.isLt
  have hc := c.isLt
  have hN : 0x300C + d.toNat * 128 + a.toNat * 32768 + c.toNat * 1048576 < 2 ^ 32 := by omega
  show decode (BitVec.ofNat 32 (0x300C + d.toNat * 128 + a.toNat * 32768 + c.toNat * 1048576)) = _
  rw [decode_csrrc _ (by rw [fldN_ofNat _ _ _ hN]; exact field_at (0) (12) (96 + d.toNat * 1 + a.toNat * 256 + c.toNat * 8192) (by omega) (by omega) (by omega)) (by rw [fldN_ofNat _ _ _ hN]; exact field_at (12 + d.toNat * 128) (3) (0 + a.toNat * 1 + c.toNat * 32) (by omega) (by omega) (by omega)),
    fld_ofNat _ _ d hN (field_at (12) (d.toNat) (3 + a.toNat * 8 + c.toNat * 256) (by omega) (by omega) (by omega)),
    fld_ofNat _ _ a hN (field_at (12300 + d.toNat * 128) (a.toNat) (0 + c.toNat * 1) (by omega) (by omega) (by omega)),
    fld_ofNat _ _ c hN (field_at (12300 + d.toNat * 128 + a.toNat * 32768) (c.toNat) (0) (by omega) (by omega) (by omega))]

theorem csrrwi (d : BitVec 5) (z : BitVec 5) (c : BitVec 12) : Statement (.csrrwi d z c) := by
  intro _ _ _
  have hd := d.isLt
  have hz := z.isLt
  have hc := c.isLt
  have hN : 0x500C + d.toNat * 128 + z.toNat * 32768 + c.toNat * 1048576 < 2 ^ 32 := by omega
  show decode (BitVec.ofNat 32 (0x500C + d.toNat * 128 + z.toNat * 32768 + c.toNat * 1048576)) = _
  rw [decode_csrrwi _ (by rw [fldN_ofNat _ _ _ hN]; exact field_at (0) (12) (160 + d.toNat * 1 + z.toNat * 256 + c.toNat * 8192) (by omega) (by omega) (by omega)) (by rw [fldN_ofNat _ _ _ hN]; exact field_at (12 + d.toNat * 128) (5) (0 + z.toNat * 1 + c.toNat * 32) (by omega) (by omega) (by omega)),
    fld_ofNat _ _ d hN (field_at (12) (d.toNat) (5 + z.toNat * 8 + c.toNat * 256) (by omega) (by omega) (by omega)),
    fld_ofNat _ _ z hN (field_at (20492 + d.toNat * 128) (z.toNat) (0 + c.toNat * 1) (by omega) (by omega) (by omega)),
    fld_ofNat _ _ c hN (field_at (20492 + d.toNat * 128 + z.toNat * 32768) (c.toNat) (0) (by omega) (by omega) (by omega))]

theorem csrrsi (d : BitVec 5) (z : BitVec 5) (c : BitVec 12) : Statement (.csrrsi d z c) := by
  intro _ _ _
  have hd := d.isLt
  have hz := z.isLt
  have hc := c.isLt
  have hN : 0x600C + d.toNat * 128 + z.toNat * 32768 + c.toNat * 1048576 < 2 ^ 32 := by omega
  show decode (BitVec.ofNat 32 (0x600C + d.toNat * 128 + z.toNat * 32768 + c.toNat * 1048576)) = _
  rw [decode_csrrsi _ (by rw [fldN_ofNat _ _ _ hN]; exact field_at (0) (12) (192 + d.toNat * 1 + z.toNat * 256 + c.toNat * 8192) (by omega) (by omega) (by omega)) (by rw [fldN_ofNat _ _ _ hN]; exact field_at (12 + d.toNat * 128) (6) (0 + z.toNat * 1 + c.toNat * 32) (by omega) (by omega) (by omega)),
    fld_ofNat _ _ d hN (field_at (12) (d.toNat) (6 + z.toNat * 8 + c.toNat * 256) (by omega) (by omega) (by omega)),
    fld_ofNat _ _ z hN (field_at (24588 + d.toNat * 128) (z.toNat) (0 + c.toNat * 1) (by omega) (by omega) (by omega)),
    fld_ofNat _ _ c hN (field_at (24588 + d.toNat * 128 + z.toNat * 32768) (c.toNat) (0) (by omega) (by omega) (by omega))]

theorem csrrci (d : BitVec 5) (z : BitVec 5) (c : BitVec 12) : Statement (.csrrci d z c) := by
  intro _ _ _
  have hd := d.isLt
  have hz := z.isLt
  have hc := c.isLt
  have hN : 0x700C + d.toNat * 128 + z.toNat * 32768 + c.toNat * 1048576 < 2 ^ 32 := by omega
  show decode (BitVec.ofNat 32 (0x700C + d.toNat * 128 + z.toNat * 32768 + c.toNat * 1048576)) = _
  rw [decode_csrrci _ (by rw [fldN_ofNat _ _ _ hN]; exact field_at (0) (12) (224 + d.toNat * 1 + z.toNat * 256 + c.toNat * 8192) (by omega) (by omega) (by omega)) (by rw [fldN_ofNat _ _ _ hN]; exact field_at (12 + d.toNat * 128) (7) (0 + z.toNat * 1 + c.toNat * 32) (by omega) (by omega) (by omega)),
    fld_ofNat _ _ d hN (field_at (12) (d.toNat) (7 + z.toNat * 8 + c.toNat * 256) (by omega) (by omega) (by omega)),
    fld_ofNat _ _ z hN (field_at (28684 + d.toNat * 128) (z.toNat) (0 + c.toNat * 1) (by omega) (by omega) (by omega)),
    fld_ofNat _ _ c hN (field_at (28684 + d.toNat * 128 + z.toNat * 32768) (c.toNat) (0) (by omega) (by omega) (by omega))]

theorem ecall : Statement (.ecall) := by
  intro _ _ _
  have hN : 0xC < 2 ^ 32 := by omega
  show decode (BitVec.ofNat 32 (0xC)) = _
  rw [decode_ecall _ (by rw [fldN_ofNat _ _ _ hN]; exact field_at (0) (12) (0) (by omega) (by omega) (by omega)) (by rw [fldN_ofNat _ _ _ hN]; exact field_at (12) (0) (0) (by omega) (by omega) (by omega)) (by rw [fldN_ofNat _ _ _ hN]; exact field_at (12) (0) (0) (by omega) (by omega) (by omega)) (by rw [fldN_ofNat _ _ _ hN]; exact field_at (12) (0) (0) (by omega) (by omega) (by omega)) (by rw [fldN_ofNat _ _ _ hN]; exact field_at (12) (0) (0) (by omega) (by omega) (by omega))]

theorem ebreak : Statement (.ebreak) := by
  intro _ _ _
  have hN : 0x10000C < 2 ^ 32 := by omega
  show decode (BitVec.ofNat 32 (0x10000C)) = _
  rw [decode_ebreak _ (by rw [fldN_ofNat _ _ _ hN]; exact field_at (0) (12) (8192) (by omega) (by omega) (by omega)) (by rw [fldN_ofNat _ _ _ hN]; exact field_at (12) (0) (32) (by omega) (by omega) (by omega)) (by rw [fldN_ofNat _ _ _ hN]; exact field_at (12) (1) (0) (by omega) (by omega) (by omega)) (by rw [fldN_ofNat _ _ _ hN]; exact field_at (12) (0) (256) (by omega) (by omega) (by omega)) (by rw [fldN_ofNat _ _ _ hN]; exact field_at (12) (0) (1) (by omega) (by omega) (by omega))]

theorem sret : Statement (.sret) := by
  intro _ _ _
  have hN : 0x20000C < 2 ^ 32 := by omega
  show decode (BitVec.ofNat 32 (0x20000C)) = _
  rw [decode_sret _ (by rw [fldN_ofNat _ _ _ hN]; exact field_at (0) (12) (16384) (by omega) (by omega) (by omega)) (by rw [fldN_ofNat _ _ _ hN]; exact field_at (12) (0) (64) (by omega) (by omega) (by omega)) (by rw [fldN_ofNat _ _ _ hN]; exact field_at (12) (2) (0) (by omega) (by omega) (by omega)) (by rw [fldN_ofNat _ _ _ hN]; exact field_at (12) (0) (512) (by omega) (by omega) (by omega)) (by rw [fldN_ofNat _ _ _ hN]; exact field_at (12) (0) (2) (by omega) (by omega) (by omega))]

theorem mret : Statement (.mret) := by
  intro _ _ _
  have hN : 0x30000C < 2 ^ 32 := by omega
  show decode (BitVec.ofNat 32 (0x30000C)) = _
  rw [decode_mret _ (by rw [fldN_ofNat _ _ _ hN]; exact field_at (0) (12) (24576) (by omega) (by omega) (by omega)) (by rw [fldN_ofNat _ _ _ hN]; exact field_at (12) (0) (96) (by omega) (by omega) (by omega)) (by rw [fldN_ofNat _ _ _ hN]; exact field_at (12) (3) (0) (by omega) (by omega) (by omega)) (by rw [fldN_ofNat _ _ _ hN]; exact field_at (12) (0) (768) (by omega) (by omega) (by omega)) (by rw [fldN_ofNat _ _ _ hN]; exact field_at (12) (0) (3) (by omega) (by omega) (by omega))]

theorem waitmsg : Statement (.waitmsg) := by
  intro _ _ _
  have hN : 0x40000C < 2 ^ 32 := by omega
  show decode (BitVec.ofNat 32 (0x40000C)) = _
  rw [decode_waitmsg _ (by rw [fldN_ofNat _ _ _ hN]; exact field_at (0) (12) (32768) (by omega) (by omega) (by omega)) (by rw [fldN_ofNat _ _ _ hN]; exact field_at (12) (0) (128) (by omega) (by omega) (by omega)) (by rw [fldN_ofNat _ _ _ hN]; exact field_at (12) (4) (0) (by omega) (by omega) (by omega)) (by rw [fldN_ofNat _ _ _ hN]; exact field_at (12) (0) (1024) (by omega) (by omega) (by omega)) (by rw [fldN_ofNat _ _ _ hN]; exact field_at (12) (0) (4) (by omega) (by omega) (by omega))]

theorem popmsg (d : BitVec 5) (a : BitVec 5) : Statement (.popmsg d a) := by
  intro _ _ _
  have hd := d.isLt
  have ha := a.isLt
  have hN : 0x50000C + d.toNat * 128 + a.toNat * 32768 < 2 ^ 32 := by omega
  show decode (BitVec.ofNat 32 (0x50000C + d.toNat * 128 + a.toNat * 32768)) = _
  rw [decode_popmsg _ (by rw [fldN_ofNat _ _ _ hN]; exact field_at (0) (12) (40960 + d.toNat * 1 + a.toNat * 256) (by omega) (by omega) (by omega)) (by rw [fldN_ofNat _ _ _ hN]; exact field_at (12 + d.toNat * 128) (0) (160 + a.toNat * 1) (by omega) (by omega) (by omega)) (by rw [fldN_ofNat _ _ _ hN]; exact field_at (12 + d.toNat * 128 + a.toNat * 32768) (5) (0) (by omega) (by omega) (by omega)),
    fld_ofNat _ _ d hN (field_at (12) (d.toNat) (1280 + a.toNat * 8) (by omega) (by omega) (by omega)),
    fld_ofNat _ _ a hN (field_at (12 + d.toNat * 128) (a.toNat) (5) (by omega) (by omega) (by omega))]

theorem yield : Statement (.yield) := by
  intro _ _ _
  have hN : 0x60000C < 2 ^ 32 := by omega
  show decode (BitVec.ofNat 32 (0x60000C)) = _
  rw [decode_yield _ (by rw [fldN_ofNat _ _ _ hN]; exact field_at (0) (12) (49152) (by omega) (by omega) (by omega)) (by rw [fldN_ofNat _ _ _ hN]; exact field_at (12) (0) (192) (by omega) (by omega) (by omega)) (by rw [fldN_ofNat _ _ _ hN]; exact field_at (12) (6) (0) (by omega) (by omega) (by omega)) (by rw [fldN_ofNat _ _ _ hN]; exact field_at (12) (0) (1536) (by omega) (by omega) (by omega)) (by rw [fldN_ofNat _ _ _ hN]; exact field_at (12) (0) (6) (by omega) (by omega) (by omega))]

theorem hdone : Statement (.hdone) := by
  intro _ _ _
  have hN : 0x70000C < 2 ^ 32 := by omega
  show decode (BitVec.ofNat 32 (0x70000C)) = _
  rw [decode_hdone _ (by rw [fldN_ofNat _ _ _ hN]; exact field_at (0) (12) (57344) (by omega) (by omega) (by omega)) (by rw [fldN_ofNat _ _ _ hN]; exact field_at (12) (0) (224) (by omega) (by omega) (by omega)) (by rw [fldN_ofNat _ _ _ hN]; exact field_at (12) (7) (0) (by omega) (by omega) (by omega)) (by rw [fldN_ofNat _ _ _ hN]; exact field_at (12) (0) (1792) (by omega) (by omega) (by omega)) (by rw [fldN_ofNat _ _ _ hN]; exact field_at (12) (0) (7) (by omega) (by omega) (by omega))]

theorem bar (s : BitVec 5) : Statement (.bar s) := by
  intro _ _ _
  have hs := s.isLt
  have hN : 0x80000C + s.toNat * 32768 < 2 ^ 32 := by omega
  show decode (BitVec.ofNat 32 (0x80000C + s.toNat * 32768)) = _
  rw [decode_bar _ (by rw [fldN_ofNat _ _ _ hN]; exact field_at (0) (12) (65536 + s.toNat * 256) (by omega) (by omega) (by omega)) (by rw [fldN_ofNat _ _ _ hN]; exact field_at (12) (0) (256 + s.toNat * 1) (by omega) (by omega) (by omega)) (by rw [fldN_ofNat _ _ _ hN]; exact field_at (12 + s.toNat * 32768) (8) (0) (by omega) (by omega) (by omega)) (by rw [fldN_ofNat _ _ _ hN]; exact field_at (12) (0) (2048 + s.toNat * 8) (by omega) (by omega) (by omega)),
    fld_ofNat _ _ s hN (field_at (12) (s.toNat) (8) (by omega) (by omega) (by omega))]

theorem launch (d : BitVec 5) (a : BitVec 5) : Statement (.launch d a) := by
  intro _ _ _
  have hd := d.isLt
  have ha := a.isLt
  have hN : 0x90000C + d.toNat * 128 + a.toNat * 32768 < 2 ^ 32 := by omega
  show decode (BitVec.ofNat 32 (0x90000C + d.toNat * 128 + a.toNat * 32768)) = _
  rw [decode_launch _ (by rw [fldN_ofNat _ _ _ hN]; exact field_at (0) (12) (73728 + d.toNat * 1 + a.toNat * 256) (by omega) (by omega) (by omega)) (by rw [fldN_ofNat _ _ _ hN]; exact field_at (12 + d.toNat * 128) (0) (288 + a.toNat * 1) (by omega) (by omega) (by omega)) (by rw [fldN_ofNat _ _ _ hN]; exact field_at (12 + d.toNat * 128 + a.toNat * 32768) (9) (0) (by omega) (by omega) (by omega)),
    fld_ofNat _ _ d hN (field_at (12) (d.toNat) (2304 + a.toNat * 8) (by omega) (by omega) (by omega)),
    fld_ofNat _ _ a hN (field_at (12 + d.toNat * 128) (a.toNat) (9) (by omega) (by omega) (by omega))]

theorem sqpush (d : BitVec 5) (a : BitVec 5) : Statement (.sqpush d a) := by
  intro _ _ _
  have hd := d.isLt
  have ha := a.isLt
  have hN : 0xA0000C + d.toNat * 128 + a.toNat * 32768 < 2 ^ 32 := by omega
  show decode (BitVec.ofNat 32 (0xA0000C + d.toNat * 128 + a.toNat * 32768)) = _
  rw [decode_sqpush _ (by rw [fldN_ofNat _ _ _ hN]; exact field_at (0) (12) (81920 + d.toNat * 1 + a.toNat * 256) (by omega) (by omega) (by omega)) (by rw [fldN_ofNat _ _ _ hN]; exact field_at (12 + d.toNat * 128) (0) (320 + a.toNat * 1) (by omega) (by omega) (by omega)) (by rw [fldN_ofNat _ _ _ hN]; exact field_at (12 + d.toNat * 128 + a.toNat * 32768) (10) (0) (by omega) (by omega) (by omega)),
    fld_ofNat _ _ d hN (field_at (12) (d.toNat) (2560 + a.toNat * 8) (by omega) (by omega) (by omega)),
    fld_ofNat _ _ a hN (field_at (12 + d.toNat * 128) (a.toNat) (10) (by omega) (by omega) (by omega))]

theorem tlbinv (s : BitVec 5) (a : BitVec 5) : Statement (.tlbinv s a) := by
  intro _ _ _
  have hs := s.isLt
  have ha := a.isLt
  have hN : 0xB0000C + s.toNat * 128 + a.toNat * 32768 < 2 ^ 32 := by omega
  show decode (BitVec.ofNat 32 (0xB0000C + s.toNat * 128 + a.toNat * 32768)) = _
  rw [decode_tlbinv _ (by rw [fldN_ofNat _ _ _ hN]; exact field_at (0) (12) (90112 + s.toNat * 1 + a.toNat * 256) (by omega) (by omega) (by omega)) (by rw [fldN_ofNat _ _ _ hN]; exact field_at (12 + s.toNat * 128) (0) (352 + a.toNat * 1) (by omega) (by omega) (by omega)) (by rw [fldN_ofNat _ _ _ hN]; exact field_at (12 + s.toNat * 128 + a.toNat * 32768) (11) (0) (by omega) (by omega) (by omega)),
    fld_ofNat _ _ s hN (field_at (12) (s.toNat) (2816 + a.toNat * 8) (by omega) (by omega) (by omega)),
    fld_ofNat _ _ a hN (field_at (12 + s.toNat * 128) (a.toNat) (11) (by omega) (by omega) (by omega))]

theorem asidset (s : BitVec 5) (a : BitVec 5) : Statement (.asidset s a) := by
  intro _ _ _
  have hs := s.isLt
  have ha := a.isLt
  have hN : 0xC0000C + s.toNat * 128 + a.toNat * 32768 < 2 ^ 32 := by omega
  show decode (BitVec.ofNat 32 (0xC0000C + s.toNat * 128 + a.toNat * 32768)) = _
  rw [decode_asidset _ (by rw [fldN_ofNat _ _ _ hN]; exact field_at (0) (12) (98304 + s.toNat * 1 + a.toNat * 256) (by omega) (by omega) (by omega)) (by rw [fldN_ofNat _ _ _ hN]; exact field_at (12 + s.toNat * 128) (0) (384 + a.toNat * 1) (by omega) (by omega) (by omega)) (by rw [fldN_ofNat _ _ _ hN]; exact field_at (12 + s.toNat * 128 + a.toNat * 32768) (12) (0) (by omega) (by omega) (by omega)),
    fld_ofNat _ _ s hN (field_at (12) (s.toNat) (3072 + a.toNat * 8) (by omega) (by omega) (by omega)),
    fld_ofNat _ _ a hN (field_at (12 + s.toNat * 128) (a.toNat) (12) (by omega) (by omega) (by omega))]

theorem setvli (d : BitVec 5) (a : BitVec 5) (t : BitVec 5) (g : BitVec 2) : Statement (.setvli d a t g) := by
  intro _ _ _
  have hd := d.isLt
  have ha := a.isLt
  have ht := t.isLt
  have hg := g.isLt
  have hN : 0xF + d.toNat * 128 + a.toNat * 32768 + t.toNat * 1048576 + g.toNat * 33554432 < 2 ^ 32 := by omega
  show decode (BitVec.ofNat 32 (0xF + d.toNat * 128 + a.toNat * 32768 + t.toNat * 1048576 + g.toNat * 33554432)) = _
  rw [decode_setvli _ (by rw [fldN_ofNat _ _ _ hN]; exact field_at (0) (15) (0 + d.toNat * 1 + a.toNat * 256 + t.toNat * 8192 + g.toNat * 262144) (by omega) (by omega) (by omega)) (by rw [fldN_ofNat _ _ _ hN]; exact field_at (15 + d.toNat * 128) (0) (0 + a.toNat * 1 + t.toNat * 32 + g.toNat * 1024) (by omega) (by omega) (by omega)) (by rw [fldN_ofNat _ _ _ hN]; exact field_at (15 + d.toNat * 128 + a.toNat * 32768 + t.toNat * 1048576 + g.toNat * 33554432) (0) (0) (by omega) (by omega) (by omega)),
    fld_ofNat _ _ d hN (field_at (15) (d.toNat) (0 + a.toNat * 8 + t.toNat * 256 + g.toNat * 8192) (by omega) (by omega) (by omega)),
    fld_ofNat _ _ a hN (field_at (15 + d.toNat * 128) (a.toNat) (0 + t.toNat * 1 + g.toNat * 32) (by omega) (by omega) (by omega)),
    fld_ofNat _ _ t hN (field_at (15 + d.toNat * 128 + a.toNat * 32768) (t.toNat) (0 + g.toNat * 1) (by omega) (by omega) (by omega)),
    fld_ofNat _ _ g hN (field_at (15 + d.toNat * 128 + a.toNat * 32768 + t.toNat * 1048576) (g.toNat) (0) (by omega) (by omega) (by omega))]

theorem setvl (d : BitVec 5) (a : BitVec 5) (b : BitVec 5) : Statement (.setvl d a b) := by
  intro _ _ _
  have hd := d.isLt
  have ha := a.isLt
  have hb := b.isLt
  have hN : 0x10 + d.toNat * 128 + a.toNat * 32768 + b.toNat * 1048576 < 2 ^ 32 := by omega
  show decode (BitVec.ofNat 32 (0x10 + d.toNat * 128 + a.toNat * 32768 + b.toNat * 1048576)) = _
  rw [decode_setvl _ (by rw [fldN_ofNat _ _ _ hN]; exact field_at (0) (16) (0 + d.toNat * 1 + a.toNat * 256 + b.toNat * 8192) (by omega) (by omega) (by omega)) (by rw [fldN_ofNat _ _ _ hN]; exact field_at (16 + d.toNat * 128 + a.toNat * 32768 + b.toNat * 1048576) (0) (0) (by omega) (by omega) (by omega)) (by rw [fldN_ofNat _ _ _ hN]; exact field_at (16 + d.toNat * 128) (0) (0 + a.toNat * 1 + b.toNat * 32) (by omega) (by omega) (by omega)),
    fld_ofNat _ _ d hN (field_at (16) (d.toNat) (0 + a.toNat * 8 + b.toNat * 256) (by omega) (by omega) (by omega)),
    fld_ofNat _ _ a hN (field_at (16 + d.toNat * 128) (a.toNat) (0 + b.toNat * 1) (by omega) (by omega) (by omega)),
    fld_ofNat _ _ b hN (field_at (16 + d.toNat * 128 + a.toNat * 32768) (b.toNat) (0) (by omega) (by omega) (by omega))]

theorem lsplit (d : BitVec 5) (a : BitVec 5) (s : BitVec 5) : Statement (.lsplit d a s) := by
  intro _ _ _
  have hd := d.isLt
  have ha := a.isLt
  have hs := s.isLt
  have hN : 0x2000010 + d.toNat * 128 + a.toNat * 32768 + s.toNat * 1048576 < 2 ^ 32 := by omega
  show decode (BitVec.ofNat 32 (0x2000010 + d.toNat * 128 + a.toNat * 32768 + s.toNat * 1048576)) = _
  rw [decode_lsplit _ (by rw [fldN_ofNat _ _ _ hN]; exact field_at (0) (16) (262144 + d.toNat * 1 + a.toNat * 256 + s.toNat * 8192) (by omega) (by omega) (by omega)) (by rw [fldN_ofNat _ _ _ hN]; exact field_at (16 + d.toNat * 128 + a.toNat * 32768 + s.toNat * 1048576) (1) (0) (by omega) (by omega) (by omega)) (by rw [fldN_ofNat _ _ _ hN]; exact field_at (16 + d.toNat * 128) (0) (1024 + a.toNat * 1 + s.toNat * 32) (by omega) (by omega) (by omega)),
    fld_ofNat _ _ d hN (field_at (16) (d.toNat) (8192 + a.toNat * 8 + s.toNat * 256) (by omega) (by omega) (by omega)),
    fld_ofNat _ _ a hN (field_at (16 + d.toNat * 128) (a.toNat) (32 + s.toNat * 1) (by omega) (by omega) (by omega)),
    fld_ofNat _ _ s hN (field_at (16 + d.toNat * 128 + a.toNat * 32768) (s.toNat) (1) (by omega) (by omega) (by omega))]

theorem lmerge : Statement (.lmerge) := by
  intro _ _ _
  have hN : 0x4000010 < 2 ^ 32 := by omega
  show decode (BitVec.ofNat 32 (0x4000010)) = _
  rw [decode_lmerge _ (by rw [fldN_ofNat _ _ _ hN]; exact field_at (0) (16) (524288) (by omega) (by omega) (by omega)) (by rw [fldN_ofNat _ _ _ hN]; exact field_at (16) (2) (0) (by omega) (by omega) (by omega)) (by rw [fldN_ofNat _ _ _ hN]; exact field_at (16) (0) (2) (by omega) (by omega) (by omega))]

theorem vtag (d : BitVec 5) (t : BitVec 5) : Statement (.vtag d t) := by
  intro _ _ _
  have hd := d.isLt
  have ht := t.isLt
  have hN : 0x6000010 + d.toNat * 128 + t.toNat * 1048576 < 2 ^ 32 := by omega
  show decode (BitVec.ofNat 32 (0x6000010 + d.toNat * 128 + t.toNat * 1048576)) = _
  rw [decode_vtag _ (by rw [fldN_ofNat _ _ _ hN]; exact field_at (0) (16) (786432 + d.toNat * 1 + t.toNat * 8192) (by omega) (by omega) (by omega)) (by rw [fldN_ofNat _ _ _ hN]; exact field_at (16 + d.toNat * 128 + t.toNat * 1048576) (3) (0) (by omega) (by omega) (by omega)) (by rw [fldN_ofNat _ _ _ hN]; exact field_at (16 + d.toNat * 128) (0) (96 + t.toNat * 1) (by omega) (by omega) (by omega)),
    fld_ofNat _ _ d hN (field_at (16) (d.toNat) (24576 + t.toNat * 256) (by omega) (by omega) (by omega)),
    fld_ofNat _ _ t hN (field_at (16 + d.toNat * 128) (t.toNat) (3) (by omega) (by omega) (by omega))]

theorem vfmx (d : BitVec 5) (b : BitVec 5) : Statement (.vfmx d b) := by
  intro _ _ _
  have hd := d.isLt
  have hb := b.isLt
  have hN : 0x8000010 + d.toNat * 128 + b.toNat * 1048576 < 2 ^ 32 := by omega
  show decode (BitVec.ofNat 32 (0x8000010 + d.toNat * 128 + b.toNat * 1048576)) = _
  rw [decode_vfmx _ (by rw [fldN_ofNat _ _ _ hN]; exact field_at (0) (16) (1048576 + d.toNat * 1 + b.toNat * 8192) (by omega) (by omega) (by omega)) (by rw [fldN_ofNat _ _ _ hN]; exact field_at (16 + d.toNat * 128 + b.toNat * 1048576) (4) (0) (by omega) (by omega) (by omega)) (by rw [fldN_ofNat _ _ _ hN]; exact field_at (16 + d.toNat * 128) (0) (128 + b.toNat * 1) (by omega) (by omega) (by omega)),
    fld_ofNat _ _ d hN (field_at (16) (d.toNat) (32768 + b.toNat * 256) (by omega) (by omega) (by omega)),
    fld_ofNat _ _ b hN (field_at (16 + d.toNat * 128) (b.toNat) (4) (by omega) (by omega) (by omega))]

theorem pump (n : BitVec 4) (m : BitVec 3) (a : BitVec 5) (s : BitVec 2) (w : BitVec 2) : Statement (.pump n m a s w) := by
  intro _ _ _
  have hn := n.isLt
  have hm := m.isLt
  have ha := a.isLt
  have hs := s.isLt
  have hw := w.isLt
  have hN : 0xA000010 + n.toNat * 128 + m.toNat * 4096 + a.toNat * 32768 + s.toNat * 1048576 + w.toNat * 4194304 < 2 ^ 32 := by omega
  show decode (BitVec.ofNat 32 (0xA000010 + n.toNat * 128 + m.toNat * 4096 + a.toNat * 32768 + s.toNat * 1048576 + w.toNat * 4194304)) = _
  rw [decode_pump _ (by rw [fldN_ofNat _ _ _ hN]; exact field_at (0) (16) (1310720 + n.toNat * 1 + m.toNat * 32 + a.toNat * 256 + s.toNat * 8192 + w.toNat * 32768) (by omega) (by omega) (by omega)) (by rw [fldN_ofNat _ _ _ hN]; exact field_at (16 + n.toNat * 128 + m.toNat * 4096 + a.toNat * 32768 + s.toNat * 1048576 + w.toNat * 4194304) (5) (0) (by omega) (by omega) (by omega)) (by rw [fldN_ofNat _ _ _ hN]; exact field_at (16 + n.toNat * 128) (0) (40960 + m.toNat * 1 + a.toNat * 8 + s.toNat * 256 + w.toNat * 1024) (by omega) (by omega) (by omega)) (by rw [fldN_ofNat _ _ _ hN]; exact field_at (16 + n.toNat * 128 + m.toNat * 4096 + a.toNat * 32768 + s.toNat * 1048576 + w.toNat * 4194304) (0) (5) (by omega) (by omega) (by omega)),
    fld_ofNat _ _ n hN (field_at (16) (n.toNat) (81920 + m.toNat * 2 + a.toNat * 16 + s.toNat * 512 + w.toNat * 2048) (by omega) (by omega) (by omega)),
    fld_ofNat _ _ m hN (field_at (16 + n.toNat * 128) (m.toNat) (5120 + a.toNat * 1 + s.toNat * 32 + w.toNat * 128) (by omega) (by omega) (by omega)),
    fld_ofNat _ _ a hN (field_at (16 + n.toNat * 128 + m.toNat * 4096) (a.toNat) (160 + s.toNat * 1 + w.toNat * 4) (by omega) (by omega) (by omega)),
    fld_ofNat _ _ s hN (field_at (16 + n.toNat * 128 + m.toNat * 4096 + a.toNat * 32768) (s.toNat) (40 + w.toNat * 1) (by omega) (by omega) (by omega)),
    fld_ofNat _ _ w hN (field_at (16 + n.toNat * 128 + m.toNat * 4096 + a.toNat * 32768 + s.toNat * 1048576) (w.toNat) (10) (by omega) (by omega) (by omega))]

theorem pumpstop : Statement (.pumpstop) := by
  intro _ _ _
  have hN : 0xC000010 < 2 ^ 32 := by omega
  show decode (BitVec.ofNat 32 (0xC000010)) = _
  rw [decode_pumpstop _ (by rw [fldN_ofNat _ _ _ hN]; exact field_at (0) (16) (1572864) (by omega) (by omega) (by omega)) (by rw [fldN_ofNat _ _ _ hN]; exact field_at (16) (6) (0) (by omega) (by omega) (by omega)) (by rw [fldN_ofNat _ _ _ hN]; exact field_at (16) (0) (6) (by omega) (by omega) (by omega))]

theorem vadd (d : BitVec 5) (k : BitVec 3) (a : BitVec 5) (b : BitVec 5) (m : BitVec 1) : Statement (.vadd d k a b m) := by
  intro _ _ _
  have hd := d.isLt
  have hk := k.isLt
  have ha := a.isLt
  have hb := b.isLt
  have hm := m.isLt
  have hN : 0x11 + d.toNat * 128 + k.toNat * 4096 + a.toNat * 32768 + b.toNat * 1048576 + m.toNat * 33554432 < 2 ^ 32 := by omega
  show decode (BitVec.ofNat 32 (0x11 + d.toNat * 128 + k.toNat * 4096 + a.toNat * 32768 + b.toNat * 1048576 + m.toNat * 33554432)) = _
  rw [decode_vadd _ (by rw [fldN_ofNat _ _ _ hN]; exact field_at (0) (17) (0 + d.toNat * 1 + k.toNat * 32 + a.toNat * 256 + b.toNat * 8192 + m.toNat * 262144) (by omega) (by omega) (by omega)) (by rw [fldN_ofNat _ _ _ hN]; exact field_at (17 + d.toNat * 128 + k.toNat * 4096 + a.toNat * 32768 + b.toNat * 1048576 + m.toNat * 33554432) (0) (0) (by omega) (by omega) (by omega)),
    fld_ofNat _ _ d hN (field_at (17) (d.toNat) (0 + k.toNat * 1 + a.toNat * 8 + b.toNat * 256 + m.toNat * 8192) (by omega) (by omega) (by omega)),
    fld_ofNat _ _ k hN (field_at (17 + d.toNat * 128) (k.toNat) (0 + a.toNat * 1 + b.toNat * 32 + m.toNat * 1024) (by omega) (by omega) (by omega)),
    fld_ofNat _ _ a hN (field_at (17 + d.toNat * 128 + k.toNat * 4096) (a.toNat) (0 + b.toNat * 1 + m.toNat * 32) (by omega) (by omega) (by omega)),
    fld_ofNat _ _ b hN (field_at (17 + d.toNat * 128 + k.toNat * 4096 + a.toNat * 32768) (b.toNat) (0 + m.toNat * 1) (by omega) (by omega) (by omega)),
    fld_ofNat _ _ m hN (field_at (17 + d.toNat * 128 + k.toNat * 4096 + a.toNat * 32768 + b.toNat * 1048576) (m.toNat) (0) (by omega) (by omega) (by omega))]

theorem vsub (d : BitVec 5) (k : BitVec 3) (a : BitVec 5) (b : BitVec 5) (m : BitVec 1) : Statement (.vsub d k a b m) := by
  intro _ _ _
  have hd := d.isLt
  have hk := k.isLt
  have ha := a.isLt
  have hb := b.isLt
  have hm := m.isLt
  have hN : 0x4000011 + d.toNat * 128 + k.toNat * 4096 + a.toNat * 32768 + b.toNat * 1048576 + m.toNat * 33554432 < 2 ^ 32 := by omega
  show decode (BitVec.ofNat 32 (0x4000011 + d.toNat * 128 + k.toNat * 4096 + a.toNat * 32768 + b.toNat * 1048576 + m.toNat * 33554432)) = _
  rw [decode_vsub _ (by rw [fldN_ofNat _ _ _ hN]; exact field_at (0) (17) (524288 + d.toNat * 1 + k.toNat * 32 + a.toNat * 256 + b.toNat * 8192 + m.toNat * 262144) (by omega) (by omega) (by omega)) (by rw [fldN_ofNat _ _ _ hN]; exact field_at (17 + d.toNat * 128 + k.toNat * 4096 + a.toNat * 32768 + b.toNat * 1048576 + m.toNat * 33554432) (1) (0) (by omega) (by omega) (by omega)),
    fld_ofNat _ _ d hN (field_at (17) (d.toNat) (16384 + k.toNat * 1 + a.toNat * 8 + b.toNat * 256 + m.toNat * 8192) (by omega) (by omega) (by omega)),
    fld_ofNat _ _ k hN (field_at (17 + d.toNat * 128) (k.toNat) (2048 + a.toNat * 1 + b.toNat * 32 + m.toNat * 1024) (by omega) (by omega) (by omega)),
    fld_ofNat _ _ a hN (field_at (17 + d.toNat * 128 + k.toNat * 4096) (a.toNat) (64 + b.toNat * 1 + m.toNat * 32) (by omega) (by omega) (by omega)),
    fld_ofNat _ _ b hN (field_at (17 + d.toNat * 128 + k.toNat * 4096 + a.toNat * 32768) (b.toNat) (2 + m.toNat * 1) (by omega) (by omega) (by omega)),
    fld_ofNat _ _ m hN (field_at (17 + d.toNat * 128 + k.toNat * 4096 + a.toNat * 32768 + b.toNat * 1048576) (m.toNat) (1) (by omega) (by omega) (by omega))]

theorem vmul (d : BitVec 5) (k : BitVec 3) (a : BitVec 5) (b : BitVec 5) (m : BitVec 1) : Statement (.vmul d k a b m) := by
  intro _ _ _
  have hd := d.isLt
  have hk := k.isLt
  have ha := a.isLt
  have hb := b.isLt
  have hm := m.isLt
  have hN : 0x8000011 + d.toNat * 128 + k.toNat * 4096 + a.toNat * 32768 + b.toNat * 1048576 + m.toNat * 33554432 < 2 ^ 32 := by omega
  show decode (BitVec.ofNat 32 (0x8000011 + d.toNat * 128 + k.toNat * 4096 + a.toNat * 32768 + b.toNat * 1048576 + m.toNat * 33554432)) = _
  rw [decode_vmul _ (by rw [fldN_ofNat _ _ _ hN]; exact field_at (0) (17) (1048576 + d.toNat * 1 + k.toNat * 32 + a.toNat * 256 + b.toNat * 8192 + m.toNat * 262144) (by omega) (by omega) (by omega)) (by rw [fldN_ofNat _ _ _ hN]; exact field_at (17 + d.toNat * 128 + k.toNat * 4096 + a.toNat * 32768 + b.toNat * 1048576 + m.toNat * 33554432) (2) (0) (by omega) (by omega) (by omega)),
    fld_ofNat _ _ d hN (field_at (17) (d.toNat) (32768 + k.toNat * 1 + a.toNat * 8 + b.toNat * 256 + m.toNat * 8192) (by omega) (by omega) (by omega)),
    fld_ofNat _ _ k hN (field_at (17 + d.toNat * 128) (k.toNat) (4096 + a.toNat * 1 + b.toNat * 32 + m.toNat * 1024) (by omega) (by omega) (by omega)),
    fld_ofNat _ _ a hN (field_at (17 + d.toNat * 128 + k.toNat * 4096) (a.toNat) (128 + b.toNat * 1 + m.toNat * 32) (by omega) (by omega) (by omega)),
    fld_ofNat _ _ b hN (field_at (17 + d.toNat * 128 + k.toNat * 4096 + a.toNat * 32768) (b.toNat) (4 + m.toNat * 1) (by omega) (by omega) (by omega)),
    fld_ofNat _ _ m hN (field_at (17 + d.toNat * 128 + k.toNat * 4096 + a.toNat * 32768 + b.toNat * 1048576) (m.toNat) (2) (by omega) (by omega) (by omega))]

theorem vmulh (d : BitVec 5) (k : BitVec 3) (a : BitVec 5) (b : BitVec 5) (m : BitVec 1) : Statement (.vmulh d k a b m) := by
  intro _ _ _
  have hd := d.isLt
  have hk := k.isLt
  have ha := a.isLt
  have hb := b.isLt
  have hm := m.isLt
  have hN : 0xC000011 + d.toNat * 128 + k.toNat * 4096 + a.toNat * 32768 + b.toNat * 1048576 + m.toNat * 33554432 < 2 ^ 32 := by omega
  show decode (BitVec.ofNat 32 (0xC000011 + d.toNat * 128 + k.toNat * 4096 + a.toNat * 32768 + b.toNat * 1048576 + m.toNat * 33554432)) = _
  rw [decode_vmulh _ (by rw [fldN_ofNat _ _ _ hN]; exact field_at (0) (17) (1572864 + d.toNat * 1 + k.toNat * 32 + a.toNat * 256 + b.toNat * 8192 + m.toNat * 262144) (by omega) (by omega) (by omega)) (by rw [fldN_ofNat _ _ _ hN]; exact field_at (17 + d.toNat * 128 + k.toNat * 4096 + a.toNat * 32768 + b.toNat * 1048576 + m.toNat * 33554432) (3) (0) (by omega) (by omega) (by omega)),
    fld_ofNat _ _ d hN (field_at (17) (d.toNat) (49152 + k.toNat * 1 + a.toNat * 8 + b.toNat * 256 + m.toNat * 8192) (by omega) (by omega) (by omega)),
    fld_ofNat _ _ k hN (field_at (17 + d.toNat * 128) (k.toNat) (6144 + a.toNat * 1 + b.toNat * 32 + m.toNat * 1024) (by omega) (by omega) (by omega)),
    fld_ofNat _ _ a hN (field_at (17 + d.toNat * 128 + k.toNat * 4096) (a.toNat) (192 + b.toNat * 1 + m.toNat * 32) (by omega) (by omega) (by omega)),
    fld_ofNat _ _ b hN (field_at (17 + d.toNat * 128 + k.toNat * 4096 + a.toNat * 32768) (b.toNat) (6 + m.toNat * 1) (by omega) (by omega) (by omega)),
    fld_ofNat _ _ m hN (field_at (17 + d.toNat * 128 + k.toNat * 4096 + a.toNat * 32768 + b.toNat * 1048576) (m.toNat) (3) (by omega) (by omega) (by omega))]

theorem vmadd (d : BitVec 5) (k : BitVec 3) (a : BitVec 5) (b : BitVec 5) (m : BitVec 1) : Statement (.vmadd d k a b m) := by
  intro _ _ _
  have hd := d.isLt
  have hk := k.isLt
  have ha := a.isLt
  have hb := b.isLt
  have hm := m.isLt
  have hN : 0x10000011 + d.toNat * 128 + k.toNat * 4096 + a.toNat * 32768 + b.toNat * 1048576 + m.toNat * 33554432 < 2 ^ 32 := by omega
  show decode (BitVec.ofNat 32 (0x10000011 + d.toNat * 128 + k.toNat * 4096 + a.toNat * 32768 + b.toNat * 1048576 + m.toNat * 33554432)) = _
  rw [decode_vmadd _ (by rw [fldN_ofNat _ _ _ hN]; exact field_at (0) (17) (2097152 + d.toNat * 1 + k.toNat * 32 + a.toNat * 256 + b.toNat * 8192 + m.toNat * 262144) (by omega) (by omega) (by omega)) (by rw [fldN_ofNat _ _ _ hN]; exact field_at (17 + d.toNat * 128 + k.toNat * 4096 + a.toNat * 32768 + b.toNat * 1048576 + m.toNat * 33554432) (4) (0) (by omega) (by omega) (by omega)),
    fld_ofNat _ _ d hN (field_at (17) (d.toNat) (65536 + k.toNat * 1 + a.toNat * 8 + b.toNat * 256 + m.toNat * 8192) (by omega) (by omega) (by omega)),
    fld_ofNat _ _ k hN (field_at (17 + d.toNat * 128) (k.toNat) (8192 + a.toNat * 1 + b.toNat * 32 + m.toNat * 1024) (by omega) (by omega) (by omega)),
    fld_ofNat _ _ a hN (field_at (17 + d.toNat * 128 + k.toNat * 4096) (a.toNat) (256 + b.toNat * 1 + m.toNat * 32) (by omega) (by omega) (by omega)),
    fld_ofNat _ _ b hN (field_at (17 + d.toNat * 128 + k.toNat * 4096 + a.toNat * 32768) (b.toNat) (8 + m.toNat * 1) (by omega) (by omega) (by omega)),
    fld_ofNat _ _ m hN (field_at (17 + d.toNat * 128 + k.toNat * 4096 + a.toNat * 32768 + b.toNat * 1048576) (m.toNat) (4) (by omega) (by omega) (by omega))]

theorem vnmsub (d : BitVec 5) (k : BitVec 3) (a : BitVec 5) (b : BitVec 5) (m : BitVec 1) : Statement (.vnmsub d k a b m) := by
  intro _ _ _
  have hd := d.isLt
  have hk := k.isLt
  have ha := a.isLt
  have hb := b.isLt
  have hm := m.isLt
  have hN : 0x14000011 + d.toNat * 128 + k.toNat * 4096 + a.toNat * 32768 + b.toNat * 1048576 + m.toNat * 33554432 < 2 ^ 32 := by omega
  show decode (BitVec.ofNat 32 (0x14000011 + d.toNat * 128 + k.toNat * 4096 + a.toNat * 32768 + b.toNat * 1048576 + m.toNat * 33554432)) = _
  rw [decode_vnmsub _ (by rw [fldN_ofNat _ _ _ hN]; exact field_at (0) (17) (2621440 + d.toNat * 1 + k.toNat * 32 + a.toNat * 256 + b.toNat * 8192 + m.toNat * 262144) (by omega) (by omega) (by omega)) (by rw [fldN_ofNat _ _ _ hN]; exact field_at (17 + d.toNat * 128 + k.toNat * 4096 + a.toNat * 32768 + b.toNat * 1048576 + m.toNat * 33554432) (5) (0) (by omega) (by omega) (by omega)),
    fld_ofNat _ _ d hN (field_at (17) (d.toNat) (81920 + k.toNat * 1 + a.toNat * 8 + b.toNat * 256 + m.toNat * 8192) (by omega) (by omega) (by omega)),
    fld_ofNat _ _ k hN (field_at (17 + d.toNat * 128) (k.toNat) (10240 + a.toNat * 1 + b.toNat * 32 + m.toNat * 1024) (by omega) (by omega) (by omega)),
    fld_ofNat _ _ a hN (field_at (17 + d.toNat * 128 + k.toNat * 4096) (a.toNat) (320 + b.toNat * 1 + m.toNat * 32) (by omega) (by omega) (by omega)),
    fld_ofNat _ _ b hN (field_at (17 + d.toNat * 128 + k.toNat * 4096 + a.toNat * 32768) (b.toNat) (10 + m.toNat * 1) (by omega) (by omega) (by omega)),
    fld_ofNat _ _ m hN (field_at (17 + d.toNat * 128 + k.toNat * 4096 + a.toNat * 32768 + b.toNat * 1048576) (m.toNat) (5) (by omega) (by omega) (by omega))]

theorem vdiv (d : BitVec 5) (k : BitVec 3) (a : BitVec 5) (b : BitVec 5) (m : BitVec 1) : Statement (.vdiv d k a b m) := by
  intro _ _ _
  have hd := d.isLt
  have hk := k.isLt
  have ha := a.isLt
  have hb := b.isLt
  have hm := m.isLt
  have hN : 0x18000011 + d.toNat * 128 + k.toNat * 4096 + a.toNat * 32768 + b.toNat * 1048576 + m.toNat * 33554432 < 2 ^ 32 := by omega
  show decode (BitVec.ofNat 32 (0x18000011 + d.toNat * 128 + k.toNat * 4096 + a.toNat * 32768 + b.toNat * 1048576 + m.toNat * 33554432)) = _
  rw [decode_vdiv _ (by rw [fldN_ofNat _ _ _ hN]; exact field_at (0) (17) (3145728 + d.toNat * 1 + k.toNat * 32 + a.toNat * 256 + b.toNat * 8192 + m.toNat * 262144) (by omega) (by omega) (by omega)) (by rw [fldN_ofNat _ _ _ hN]; exact field_at (17 + d.toNat * 128 + k.toNat * 4096 + a.toNat * 32768 + b.toNat * 1048576 + m.toNat * 33554432) (6) (0) (by omega) (by omega) (by omega)),
    fld_ofNat _ _ d hN (field_at (17) (d.toNat) (98304 + k.toNat * 1 + a.toNat * 8 + b.toNat * 256 + m.toNat * 8192) (by omega) (by omega) (by omega)),
    fld_ofNat _ _ k hN (field_at (17 + d.toNat * 128) (k.toNat) (12288 + a.toNat * 1 + b.toNat * 32 + m.toNat * 1024) (by omega) (by omega) (by omega)),
    fld_ofNat _ _ a hN (field_at (17 + d.toNat * 128 + k.toNat * 4096) (a.toNat) (384 + b.toNat * 1 + m.toNat * 32) (by omega) (by omega) (by omega)),
    fld_ofNat _ _ b hN (field_at (17 + d.toNat * 128 + k.toNat * 4096 + a.toNat * 32768) (b.toNat) (12 + m.toNat * 1) (by omega) (by omega) (by omega)),
    fld_ofNat _ _ m hN (field_at (17 + d.toNat * 128 + k.toNat * 4096 + a.toNat * 32768 + b.toNat * 1048576) (m.toNat) (6) (by omega) (by omega) (by omega))]

theorem vrem (d : BitVec 5) (k : BitVec 3) (a : BitVec 5) (b : BitVec 5) (m : BitVec 1) : Statement (.vrem d k a b m) := by
  intro _ _ _
  have hd := d.isLt
  have hk := k.isLt
  have ha := a.isLt
  have hb := b.isLt
  have hm := m.isLt
  have hN : 0x1C000011 + d.toNat * 128 + k.toNat * 4096 + a.toNat * 32768 + b.toNat * 1048576 + m.toNat * 33554432 < 2 ^ 32 := by omega
  show decode (BitVec.ofNat 32 (0x1C000011 + d.toNat * 128 + k.toNat * 4096 + a.toNat * 32768 + b.toNat * 1048576 + m.toNat * 33554432)) = _
  rw [decode_vrem _ (by rw [fldN_ofNat _ _ _ hN]; exact field_at (0) (17) (3670016 + d.toNat * 1 + k.toNat * 32 + a.toNat * 256 + b.toNat * 8192 + m.toNat * 262144) (by omega) (by omega) (by omega)) (by rw [fldN_ofNat _ _ _ hN]; exact field_at (17 + d.toNat * 128 + k.toNat * 4096 + a.toNat * 32768 + b.toNat * 1048576 + m.toNat * 33554432) (7) (0) (by omega) (by omega) (by omega)),
    fld_ofNat _ _ d hN (field_at (17) (d.toNat) (114688 + k.toNat * 1 + a.toNat * 8 + b.toNat * 256 + m.toNat * 8192) (by omega) (by omega) (by omega)),
    fld_ofNat _ _ k hN (field_at (17 + d.toNat * 128) (k.toNat) (14336 + a.toNat * 1 + b.toNat * 32 + m.toNat * 1024) (by omega) (by omega) (by omega)),
    fld_ofNat _ _ a hN (field_at (17 + d.toNat * 128 + k.toNat * 4096) (a.toNat) (448 + b.toNat * 1 + m.toNat * 32) (by omega) (by omega) (by omega)),
    fld_ofNat _ _ b hN (field_at (17 + d.toNat * 128 + k.toNat * 4096 + a.toNat * 32768) (b.toNat) (14 + m.toNat * 1) (by omega) (by omega) (by omega)),
    fld_ofNat _ _ m hN (field_at (17 + d.toNat * 128 + k.toNat * 4096 + a.toNat * 32768 + b.toNat * 1048576) (m.toNat) (7) (by omega) (by omega) (by omega))]

theorem vmin (d : BitVec 5) (k : BitVec 3) (a : BitVec 5) (b : BitVec 5) (m : BitVec 1) : Statement (.vmin d k a b m) := by
  intro _ _ _
  have hd := d.isLt
  have hk := k.isLt
  have ha := a.isLt
  have hb := b.isLt
  have hm := m.isLt
  have hN : 0x20000011 + d.toNat * 128 + k.toNat * 4096 + a.toNat * 32768 + b.toNat * 1048576 + m.toNat * 33554432 < 2 ^ 32 := by omega
  show decode (BitVec.ofNat 32 (0x20000011 + d.toNat * 128 + k.toNat * 4096 + a.toNat * 32768 + b.toNat * 1048576 + m.toNat * 33554432)) = _
  rw [decode_vmin _ (by rw [fldN_ofNat _ _ _ hN]; exact field_at (0) (17) (4194304 + d.toNat * 1 + k.toNat * 32 + a.toNat * 256 + b.toNat * 8192 + m.toNat * 262144) (by omega) (by omega) (by omega)) (by rw [fldN_ofNat _ _ _ hN]; exact field_at (17 + d.toNat * 128 + k.toNat * 4096 + a.toNat * 32768 + b.toNat * 1048576 + m.toNat * 33554432) (8) (0) (by omega) (by omega) (by omega)),
    fld_ofNat _ _ d hN (field_at (17) (d.toNat) (131072 + k.toNat * 1 + a.toNat * 8 + b.toNat * 256 + m.toNat * 8192) (by omega) (by omega) (by omega)),
    fld_ofNat _ _ k hN (field_at (17 + d.toNat * 128) (k.toNat) (16384 + a.toNat * 1 + b.toNat * 32 + m.toNat * 1024) (by omega) (by omega) (by omega)),
    fld_ofNat _ _ a hN (field_at (17 + d.toNat * 128 + k.toNat * 4096) (a.toNat) (512 + b.toNat * 1 + m.toNat * 32) (by omega) (by omega) (by omega)),
    fld_ofNat _ _ b hN (field_at (17 + d.toNat * 128 + k.toNat * 4096 + a.toNat * 32768) (b.toNat) (16 + m.toNat * 1) (by omega) (by omega) (by omega)),
    fld_ofNat _ _ m hN (field_at (17 + d.toNat * 128 + k.toNat * 4096 + a.toNat * 32768 + b.toNat * 1048576) (m.toNat) (8) (by omega) (by omega) (by omega))]

theorem vmax (d : BitVec 5) (k : BitVec 3) (a : BitVec 5) (b : BitVec 5) (m : BitVec 1) : Statement (.vmax d k a b m) := by
  intro _ _ _
  have hd := d.isLt
  have hk := k.isLt
  have ha := a.isLt
  have hb := b.isLt
  have hm := m.isLt
  have hN : 0x24000011 + d.toNat * 128 + k.toNat * 4096 + a.toNat * 32768 + b.toNat * 1048576 + m.toNat * 33554432 < 2 ^ 32 := by omega
  show decode (BitVec.ofNat 32 (0x24000011 + d.toNat * 128 + k.toNat * 4096 + a.toNat * 32768 + b.toNat * 1048576 + m.toNat * 33554432)) = _
  rw [decode_vmax _ (by rw [fldN_ofNat _ _ _ hN]; exact field_at (0) (17) (4718592 + d.toNat * 1 + k.toNat * 32 + a.toNat * 256 + b.toNat * 8192 + m.toNat * 262144) (by omega) (by omega) (by omega)) (by rw [fldN_ofNat _ _ _ hN]; exact field_at (17 + d.toNat * 128 + k.toNat * 4096 + a.toNat * 32768 + b.toNat * 1048576 + m.toNat * 33554432) (9) (0) (by omega) (by omega) (by omega)),
    fld_ofNat _ _ d hN (field_at (17) (d.toNat) (147456 + k.toNat * 1 + a.toNat * 8 + b.toNat * 256 + m.toNat * 8192) (by omega) (by omega) (by omega)),
    fld_ofNat _ _ k hN (field_at (17 + d.toNat * 128) (k.toNat) (18432 + a.toNat * 1 + b.toNat * 32 + m.toNat * 1024) (by omega) (by omega) (by omega)),
    fld_ofNat _ _ a hN (field_at (17 + d.toNat * 128 + k.toNat * 4096) (a.toNat) (576 + b.toNat * 1 + m.toNat * 32) (by omega) (by omega) (by omega)),
    fld_ofNat _ _ b hN (field_at (17 + d.toNat * 128 + k.toNat * 4096 + a.toNat * 32768) (b.toNat) (18 + m.toNat * 1) (by omega) (by omega) (by omega)),
    fld_ofNat _ _ m hN (field_at (17 + d.toNat * 128 + k.toNat * 4096 + a.toNat * 32768 + b.toNat * 1048576) (m.toNat) (9) (by omega) (by omega) (by omega))]

theorem vabs (d : BitVec 5) (a : BitVec 5) (m : BitVec 1) : Statement (.vabs d a m) := by
  intro _ _ _
  have hd := d.isLt
  have ha := a.isLt
  have hm := m.isLt
  have hN : 0x28000011 + d.toNat * 128 + a.toNat * 32768 + m.toNat * 33554432 < 2 ^ 32 := by omega
  show decode (BitVec.ofNat 32 (0x28000011 + d.toNat * 128 + a.toNat * 32768 + m.toNat * 33554432)) = _
  rw [decode_vabs _ (by rw [fldN_ofNat _ _ _ hN]; exact field_at (0) (17) (5242880 + d.toNat * 1 + a.toNat * 256 + m.toNat * 262144) (by omega) (by omega) (by omega)) (by rw [fldN_ofNat _ _ _ hN]; exact field_at (17 + d.toNat * 128 + a.toNat * 32768 + m.toNat * 33554432) (10) (0) (by omega) (by omega) (by omega)) (by rw [fldN_ofNat _ _ _ hN]; exact field_at (17 + d.toNat * 128) (0) (20480 + a.toNat * 1 + m.toNat * 1024) (by omega) (by omega) (by omega)) (by rw [fldN_ofNat _ _ _ hN]; exact field_at (17 + d.toNat * 128 + a.toNat * 32768) (0) (20 + m.toNat * 1) (by omega) (by omega) (by omega)),
    fld_ofNat _ _ d hN (field_at (17) (d.toNat) (163840 + a.toNat * 8 + m.toNat * 8192) (by omega) (by omega) (by omega)),
    fld_ofNat _ _ a hN (field_at (17 + d.toNat * 128) (a.toNat) (640 + m.toNat * 32) (by omega) (by omega) (by omega)),
    fld_ofNat _ _ m hN (field_at (17 + d.toNat * 128 + a.toNat * 32768) (m.toNat) (10) (by omega) (by omega) (by omega))]

theorem vneg (d : BitVec 5) (a : BitVec 5) (m : BitVec 1) : Statement (.vneg d a m) := by
  intro _ _ _
  have hd := d.isLt
  have ha := a.isLt
  have hm := m.isLt
  have hN : 0x2C000011 + d.toNat * 128 + a.toNat * 32768 + m.toNat * 33554432 < 2 ^ 32 := by omega
  show decode (BitVec.ofNat 32 (0x2C000011 + d.toNat * 128 + a.toNat * 32768 + m.toNat * 33554432)) = _
  rw [decode_vneg _ (by rw [fldN_ofNat _ _ _ hN]; exact field_at (0) (17) (5767168 + d.toNat * 1 + a.toNat * 256 + m.toNat * 262144) (by omega) (by omega) (by omega)) (by rw [fldN_ofNat _ _ _ hN]; exact field_at (17 + d.toNat * 128 + a.toNat * 32768 + m.toNat * 33554432) (11) (0) (by omega) (by omega) (by omega)) (by rw [fldN_ofNat _ _ _ hN]; exact field_at (17 + d.toNat * 128) (0) (22528 + a.toNat * 1 + m.toNat * 1024) (by omega) (by omega) (by omega)) (by rw [fldN_ofNat _ _ _ hN]; exact field_at (17 + d.toNat * 128 + a.toNat * 32768) (0) (22 + m.toNat * 1) (by omega) (by omega) (by omega)),
    fld_ofNat _ _ d hN (field_at (17) (d.toNat) (180224 + a.toNat * 8 + m.toNat * 8192) (by omega) (by omega) (by omega)),
    fld_ofNat _ _ a hN (field_at (17 + d.toNat * 128) (a.toNat) (704 + m.toNat * 32) (by omega) (by omega) (by omega)),
    fld_ofNat _ _ m hN (field_at (17 + d.toNat * 128 + a.toNat * 32768) (m.toNat) (11) (by omega) (by omega) (by omega))]

theorem vsqrt (d : BitVec 5) (a : BitVec 5) (m : BitVec 1) : Statement (.vsqrt d a m) := by
  intro _ _ _
  have hd := d.isLt
  have ha := a.isLt
  have hm := m.isLt
  have hN : 0x30000011 + d.toNat * 128 + a.toNat * 32768 + m.toNat * 33554432 < 2 ^ 32 := by omega
  show decode (BitVec.ofNat 32 (0x30000011 + d.toNat * 128 + a.toNat * 32768 + m.toNat * 33554432)) = _
  rw [decode_vsqrt _ (by rw [fldN_ofNat _ _ _ hN]; exact field_at (0) (17) (6291456 + d.toNat * 1 + a.toNat * 256 + m.toNat * 262144) (by omega) (by omega) (by omega)) (by rw [fldN_ofNat _ _ _ hN]; exact field_at (17 + d.toNat * 128 + a.toNat * 32768 + m.toNat * 33554432) (12) (0) (by omega) (by omega) (by omega)) (by rw [fldN_ofNat _ _ _ hN]; exact field_at (17 + d.toNat * 128) (0) (24576 + a.toNat * 1 + m.toNat * 1024) (by omega) (by omega) (by omega)) (by rw [fldN_ofNat _ _ _ hN]; exact field_at (17 + d.toNat * 128 + a.toNat * 32768) (0) (24 + m.toNat * 1) (by omega) (by omega) (by omega)),
    fld_ofNat _ _ d hN (field_at (17) (d.toNat) (196608 + a.toNat * 8 + m.toNat * 8192) (by omega) (by omega) (by omega)),
    fld_ofNat _ _ a hN (field_at (17 + d.toNat * 128) (a.toNat) (768 + m.toNat * 32) (by omega) (by omega) (by omega)),
    fld_ofNat _ _ m hN (field_at (17 + d.toNat * 128 + a.toNat * 32768) (m.toNat) (12) (by omega) (by omega) (by omega))]

theorem vand (d : BitVec 5) (k : BitVec 3) (a : BitVec 5) (b : BitVec 5) (m : BitVec 1) : Statement (.vand d k a b m) := by
  intro _ _ _
  have hd := d.isLt
  have hk := k.isLt
  have ha := a.isLt
  have hb := b.isLt
  have hm := m.isLt
  have hN : 0x34000011 + d.toNat * 128 + k.toNat * 4096 + a.toNat * 32768 + b.toNat * 1048576 + m.toNat * 33554432 < 2 ^ 32 := by omega
  show decode (BitVec.ofNat 32 (0x34000011 + d.toNat * 128 + k.toNat * 4096 + a.toNat * 32768 + b.toNat * 1048576 + m.toNat * 33554432)) = _
  rw [decode_vand _ (by rw [fldN_ofNat _ _ _ hN]; exact field_at (0) (17) (6815744 + d.toNat * 1 + k.toNat * 32 + a.toNat * 256 + b.toNat * 8192 + m.toNat * 262144) (by omega) (by omega) (by omega)) (by rw [fldN_ofNat _ _ _ hN]; exact field_at (17 + d.toNat * 128 + k.toNat * 4096 + a.toNat * 32768 + b.toNat * 1048576 + m.toNat * 33554432) (13) (0) (by omega) (by omega) (by omega)),
    fld_ofNat _ _ d hN (field_at (17) (d.toNat) (212992 + k.toNat * 1 + a.toNat * 8 + b.toNat * 256 + m.toNat * 8192) (by omega) (by omega) (by omega)),
    fld_ofNat _ _ k hN (field_at (17 + d.toNat * 128) (k.toNat) (26624 + a.toNat * 1 + b.toNat * 32 + m.toNat * 1024) (by omega) (by omega) (by omega)),
    fld_ofNat _ _ a hN (field_at (17 + d.toNat * 128 + k.toNat * 4096) (a.toNat) (832 + b.toNat * 1 + m.toNat * 32) (by omega) (by omega) (by omega)),
    fld_ofNat _ _ b hN (field_at (17 + d.toNat * 128 + k.toNat * 4096 + a.toNat * 32768) (b.toNat) (26 + m.toNat * 1) (by omega) (by omega) (by omega)),
    fld_ofNat _ _ m hN (field_at (17 + d.toNat * 128 + k.toNat * 4096 + a.toNat * 32768 + b.toNat * 1048576) (m.toNat) (13) (by omega) (by omega) (by omega))]

theorem vor (d : BitVec 5) (k : BitVec 3) (a : BitVec 5) (b : BitVec 5) (m : BitVec 1) : Statement (.vor d k a b m) := by
  intro _ _ _
  have hd := d.isLt
  have hk := k.isLt
  have ha := a.isLt
  have hb := b.isLt
  have hm := m.isLt
  have hN : 0x38000011 + d.toNat * 128 + k.toNat * 4096 + a.toNat * 32768 + b.toNat * 1048576 + m.toNat * 33554432 < 2 ^ 32 := by omega
  show decode (BitVec.ofNat 32 (0x38000011 + d.toNat * 128 + k.toNat * 4096 + a.toNat * 32768 + b.toNat * 1048576 + m.toNat * 33554432)) = _
  rw [decode_vor _ (by rw [fldN_ofNat _ _ _ hN]; exact field_at (0) (17) (7340032 + d.toNat * 1 + k.toNat * 32 + a.toNat * 256 + b.toNat * 8192 + m.toNat * 262144) (by omega) (by omega) (by omega)) (by rw [fldN_ofNat _ _ _ hN]; exact field_at (17 + d.toNat * 128 + k.toNat * 4096 + a.toNat * 32768 + b.toNat * 1048576 + m.toNat * 33554432) (14) (0) (by omega) (by omega) (by omega)),
    fld_ofNat _ _ d hN (field_at (17) (d.toNat) (229376 + k.toNat * 1 + a.toNat * 8 + b.toNat * 256 + m.toNat * 8192) (by omega) (by omega) (by omega)),
    fld_ofNat _ _ k hN (field_at (17 + d.toNat * 128) (k.toNat) (28672 + a.toNat * 1 + b.toNat * 32 + m.toNat * 1024) (by omega) (by omega) (by omega)),
    fld_ofNat _ _ a hN (field_at (17 + d.toNat * 128 + k.toNat * 4096) (a.toNat) (896 + b.toNat * 1 + m.toNat * 32) (by omega) (by omega) (by omega)),
    fld_ofNat _ _ b hN (field_at (17 + d.toNat * 128 + k.toNat * 4096 + a.toNat * 32768) (b.toNat) (28 + m.toNat * 1) (by omega) (by omega) (by omega)),
    fld_ofNat _ _ m hN (field_at (17 + d.toNat * 128 + k.toNat * 4096 + a.toNat * 32768 + b.toNat * 1048576) (m.toNat) (14) (by omega) (by omega) (by omega))]

theorem vxor (d : BitVec 5) (k : BitVec 3) (a : BitVec 5) (b : BitVec 5) (m : BitVec 1) : Statement (.vxor d k a b m) := by
  intro _ _ _
  have hd := d.isLt
  have hk := k.isLt
  have ha := a.isLt
  have hb := b.isLt
  have hm := m.isLt
  have hN : 0x3C000011 + d.toNat * 128 + k.toNat * 4096 + a.toNat * 32768 + b.toNat * 1048576 + m.toNat * 33554432 < 2 ^ 32 := by omega
  show decode (BitVec.ofNat 32 (0x3C000011 + d.toNat * 128 + k.toNat * 4096 + a.toNat * 32768 + b.toNat * 1048576 + m.toNat * 33554432)) = _
  rw [decode_vxor _ (by rw [fldN_ofNat _ _ _ hN]; exact field_at (0) (17) (7864320 + d.toNat * 1 + k.toNat * 32 + a.toNat * 256 + b.toNat * 8192 + m.toNat * 262144) (by omega) (by omega) (by omega)) (by rw [fldN_ofNat _ _ _ hN]; exact field_at (17 + d.toNat * 128 + k.toNat * 4096 + a.toNat * 32768 + b.toNat * 1048576 + m.toNat * 33554432) (15) (0) (by omega) (by omega) (by omega)),
    fld_ofNat _ _ d hN (field_at (17) (d.toNat) (245760 + k.toNat * 1 + a.toNat * 8 + b.toNat * 256 + m.toNat * 8192) (by omega) (by omega) (by omega)),
    fld_ofNat _ _ k hN (field_at (17 + d.toNat * 128) (k.toNat) (30720 + a.toNat * 1 + b.toNat * 32 + m.toNat * 1024) (by omega) (by omega) (by omega)),
    fld_ofNat _ _ a hN (field_at (17 + d.toNat * 128 + k.toNat * 4096) (a.toNat) (960 + b.toNat * 1 + m.toNat * 32) (by omega) (by omega) (by omega)),
    fld_ofNat _ _ b hN (field_at (17 + d.toNat * 128 + k.toNat * 4096 + a.toNat * 32768) (b.toNat) (30 + m.toNat * 1) (by omega) (by omega) (by omega)),
    fld_ofNat _ _ m hN (field_at (17 + d.toNat * 128 + k.toNat * 4096 + a.toNat * 32768 + b.toNat * 1048576) (m.toNat) (15) (by omega) (by omega) (by omega))]

theorem vsll (d : BitVec 5) (k : BitVec 3) (a : BitVec 5) (b : BitVec 5) (m : BitVec 1) : Statement (.vsll d k a b m) := by
  intro _ _ _
  have hd := d.isLt
  have hk := k.isLt
  have ha := a.isLt
  have hb := b.isLt
  have hm := m.isLt
  have hN : 0x40000011 + d.toNat * 128 + k.toNat * 4096 + a.toNat * 32768 + b.toNat * 1048576 + m.toNat * 33554432 < 2 ^ 32 := by omega
  show decode (BitVec.ofNat 32 (0x40000011 + d.toNat * 128 + k.toNat * 4096 + a.toNat * 32768 + b.toNat * 1048576 + m.toNat * 33554432)) = _
  rw [decode_vsll _ (by rw [fldN_ofNat _ _ _ hN]; exact field_at (0) (17) (8388608 + d.toNat * 1 + k.toNat * 32 + a.toNat * 256 + b.toNat * 8192 + m.toNat * 262144) (by omega) (by omega) (by omega)) (by rw [fldN_ofNat _ _ _ hN]; exact field_at (17 + d.toNat * 128 + k.toNat * 4096 + a.toNat * 32768 + b.toNat * 1048576 + m.toNat * 33554432) (16) (0) (by omega) (by omega) (by omega)),
    fld_ofNat _ _ d hN (field_at (17) (d.toNat) (262144 + k.toNat * 1 + a.toNat * 8 + b.toNat * 256 + m.toNat * 8192) (by omega) (by omega) (by omega)),
    fld_ofNat _ _ k hN (field_at (17 + d.toNat * 128) (k.toNat) (32768 + a.toNat * 1 + b.toNat * 32 + m.toNat * 1024) (by omega) (by omega) (by omega)),
    fld_ofNat _ _ a hN (field_at (17 + d.toNat * 128 + k.toNat * 4096) (a.toNat) (1024 + b.toNat * 1 + m.toNat * 32) (by omega) (by omega) (by omega)),
    fld_ofNat _ _ b hN (field_at (17 + d.toNat * 128 + k.toNat * 4096 + a.toNat * 32768) (b.toNat) (32 + m.toNat * 1) (by omega) (by omega) (by omega)),
    fld_ofNat _ _ m hN (field_at (17 + d.toNat * 128 + k.toNat * 4096 + a.toNat * 32768 + b.toNat * 1048576) (m.toNat) (16) (by omega) (by omega) (by omega))]

theorem vsrl (d : BitVec 5) (k : BitVec 3) (a : BitVec 5) (b : BitVec 5) (m : BitVec 1) : Statement (.vsrl d k a b m) := by
  intro _ _ _
  have hd := d.isLt
  have hk := k.isLt
  have ha := a.isLt
  have hb := b.isLt
  have hm := m.isLt
  have hN : 0x44000011 + d.toNat * 128 + k.toNat * 4096 + a.toNat * 32768 + b.toNat * 1048576 + m.toNat * 33554432 < 2 ^ 32 := by omega
  show decode (BitVec.ofNat 32 (0x44000011 + d.toNat * 128 + k.toNat * 4096 + a.toNat * 32768 + b.toNat * 1048576 + m.toNat * 33554432)) = _
  rw [decode_vsrl _ (by rw [fldN_ofNat _ _ _ hN]; exact field_at (0) (17) (8912896 + d.toNat * 1 + k.toNat * 32 + a.toNat * 256 + b.toNat * 8192 + m.toNat * 262144) (by omega) (by omega) (by omega)) (by rw [fldN_ofNat _ _ _ hN]; exact field_at (17 + d.toNat * 128 + k.toNat * 4096 + a.toNat * 32768 + b.toNat * 1048576 + m.toNat * 33554432) (17) (0) (by omega) (by omega) (by omega)),
    fld_ofNat _ _ d hN (field_at (17) (d.toNat) (278528 + k.toNat * 1 + a.toNat * 8 + b.toNat * 256 + m.toNat * 8192) (by omega) (by omega) (by omega)),
    fld_ofNat _ _ k hN (field_at (17 + d.toNat * 128) (k.toNat) (34816 + a.toNat * 1 + b.toNat * 32 + m.toNat * 1024) (by omega) (by omega) (by omega)),
    fld_ofNat _ _ a hN (field_at (17 + d.toNat * 128 + k.toNat * 4096) (a.toNat) (1088 + b.toNat * 1 + m.toNat * 32) (by omega) (by omega) (by omega)),
    fld_ofNat _ _ b hN (field_at (17 + d.toNat * 128 + k.toNat * 4096 + a.toNat * 32768) (b.toNat) (34 + m.toNat * 1) (by omega) (by omega) (by omega)),
    fld_ofNat _ _ m hN (field_at (17 + d.toNat * 128 + k.toNat * 4096 + a.toNat * 32768 + b.toNat * 1048576) (m.toNat) (17) (by omega) (by omega) (by omega))]

theorem vsra (d : BitVec 5) (k : BitVec 3) (a : BitVec 5) (b : BitVec 5) (m : BitVec 1) : Statement (.vsra d k a b m) := by
  intro _ _ _
  have hd := d.isLt
  have hk := k.isLt
  have ha := a.isLt
  have hb := b.isLt
  have hm := m.isLt
  have hN : 0x48000011 + d.toNat * 128 + k.toNat * 4096 + a.toNat * 32768 + b.toNat * 1048576 + m.toNat * 33554432 < 2 ^ 32 := by omega
  show decode (BitVec.ofNat 32 (0x48000011 + d.toNat * 128 + k.toNat * 4096 + a.toNat * 32768 + b.toNat * 1048576 + m.toNat * 33554432)) = _
  rw [decode_vsra _ (by rw [fldN_ofNat _ _ _ hN]; exact field_at (0) (17) (9437184 + d.toNat * 1 + k.toNat * 32 + a.toNat * 256 + b.toNat * 8192 + m.toNat * 262144) (by omega) (by omega) (by omega)) (by rw [fldN_ofNat _ _ _ hN]; exact field_at (17 + d.toNat * 128 + k.toNat * 4096 + a.toNat * 32768 + b.toNat * 1048576 + m.toNat * 33554432) (18) (0) (by omega) (by omega) (by omega)),
    fld_ofNat _ _ d hN (field_at (17) (d.toNat) (294912 + k.toNat * 1 + a.toNat * 8 + b.toNat * 256 + m.toNat * 8192) (by omega) (by omega) (by omega)),
    fld_ofNat _ _ k hN (field_at (17 + d.toNat * 128) (k.toNat) (36864 + a.toNat * 1 + b.toNat * 32 + m.toNat * 1024) (by omega) (by omega) (by omega)),
    fld_ofNat _ _ a hN (field_at (17 + d.toNat * 128 + k.toNat * 4096) (a.toNat) (1152 + b.toNat * 1 + m.toNat * 32) (by omega) (by omega) (by omega)),
    fld_ofNat _ _ b hN (field_at (17 + d.toNat * 128 + k.toNat * 4096 + a.toNat * 32768) (b.toNat) (36 + m.toNat * 1) (by omega) (by omega) (by omega)),
    fld_ofNat _ _ m hN (field_at (17 + d.toNat * 128 + k.toNat * 4096 + a.toNat * 32768 + b.toNat * 1048576) (m.toNat) (18) (by omega) (by omega) (by omega))]

theorem vsadd (d : BitVec 5) (k : BitVec 3) (a : BitVec 5) (b : BitVec 5) (m : BitVec 1) : Statement (.vsadd d k a b m) := by
  intro _ _ _
  have hd := d.isLt
  have hk := k.isLt
  have ha := a.isLt
  have hb := b.isLt
  have hm := m.isLt
  have hN : 0x4C000011 + d.toNat * 128 + k.toNat * 4096 + a.toNat * 32768 + b.toNat * 1048576 + m.toNat * 33554432 < 2 ^ 32 := by omega
  show decode (BitVec.ofNat 32 (0x4C000011 + d.toNat * 128 + k.toNat * 4096 + a.toNat * 32768 + b.toNat * 1048576 + m.toNat * 33554432)) = _
  rw [decode_vsadd _ (by rw [fldN_ofNat _ _ _ hN]; exact field_at (0) (17) (9961472 + d.toNat * 1 + k.toNat * 32 + a.toNat * 256 + b.toNat * 8192 + m.toNat * 262144) (by omega) (by omega) (by omega)) (by rw [fldN_ofNat _ _ _ hN]; exact field_at (17 + d.toNat * 128 + k.toNat * 4096 + a.toNat * 32768 + b.toNat * 1048576 + m.toNat * 33554432) (19) (0) (by omega) (by omega) (by omega)),
    fld_ofNat _ _ d hN (field_at (17) (d.toNat) (311296 + k.toNat * 1 + a.toNat * 8 + b.toNat * 256 + m.toNat * 8192) (by omega) (by omega) (by omega)),
    fld_ofNat _ _ k hN (field_at (17 + d.toNat * 128) (k.toNat) (38912 + a.toNat * 1 + b.toNat * 32 + m.toNat * 1024) (by omega) (by omega) (by omega)),
    fld_ofNat _ _ a hN (field_at (17 + d.toNat * 128 + k.toNat * 4096) (a.toNat) (1216 + b.toNat * 1 + m.toNat * 32) (by omega) (by omega) (by omega)),
    fld_ofNat _ _ b hN (field_at (17 + d.toNat * 128 + k.toNat * 4096 + a.toNat * 32768) (b.toNat) (38 + m.toNat * 1) (by omega) (by omega) (by omega)),
    fld_ofNat _ _ m hN (field_at (17 + d.toNat * 128 + k.toNat * 4096 + a.toNat * 32768 + b.toNat * 1048576) (m.toNat) (19) (by omega) (by omega) (by omega))]

theorem vssub (d : BitVec 5) (k : BitVec 3) (a : BitVec 5) (b : BitVec 5) (m : BitVec 1) : Statement (.vssub d k a b m) := by
  intro _ _ _
  have hd := d.isLt
  have hk := k.isLt
  have ha := a.isLt
  have hb := b.isLt
  have hm := m.isLt
  have hN : 0x50000011 + d.toNat * 128 + k.toNat * 4096 + a.toNat * 32768 + b.toNat * 1048576 + m.toNat * 33554432 < 2 ^ 32 := by omega
  show decode (BitVec.ofNat 32 (0x50000011 + d.toNat * 128 + k.toNat * 4096 + a.toNat * 32768 + b.toNat * 1048576 + m.toNat * 33554432)) = _
  rw [decode_vssub _ (by rw [fldN_ofNat _ _ _ hN]; exact field_at (0) (17) (10485760 + d.toNat * 1 + k.toNat * 32 + a.toNat * 256 + b.toNat * 8192 + m.toNat * 262144) (by omega) (by omega) (by omega)) (by rw [fldN_ofNat _ _ _ hN]; exact field_at (17 + d.toNat * 128 + k.toNat * 4096 + a.toNat * 32768 + b.toNat * 1048576 + m.toNat * 33554432) (20) (0) (by omega) (by omega) (by omega)),
    fld_ofNat _ _ d hN (field_at (17) (d.toNat) (327680 + k.toNat * 1 + a.toNat * 8 + b.toNat * 256 + m.toNat * 8192) (by omega) (by omega) (by omega)),
    fld_ofNat _ _ k hN (field_at (17 + d.toNat * 128) (k.toNat) (40960 + a.toNat * 1 + b.toNat * 32 + m.toNat * 1024) (by omega) (by omega) (by omega)),
    fld_ofNat _ _ a hN (field_at (17 + d.toNat * 128 + k.toNat * 4096) (a.toNat) (1280 + b.toNat * 1 + m.toNat * 32) (by omega) (by omega) (by omega)),
    fld_ofNat _ _ b hN (field_at (17 + d.toNat * 128 + k.toNat * 4096 + a.toNat * 32768) (b.toNat) (40 + m.toNat * 1) (by omega) (by omega) (by omega)),
    fld_ofNat _ _ m hN (field_at (17 + d.toNat * 128 + k.toNat * 4096 + a.toNat * 32768 + b.toNat * 1048576) (m.toNat) (20) (by omega) (by omega) (by omega))]

theorem vcmpeq (d : BitVec 5) (k : BitVec 3) (a : BitVec 5) (b : BitVec 5) (m : BitVec 1) : Statement (.vcmpeq d k a b m) := by
  intro _ _ _
  have hd := d.isLt
  have hk := k.isLt
  have ha := a.isLt
  have hb := b.isLt
  have hm := m.isLt
  have hN : 0x12 + d.toNat * 128 + k.toNat * 4096 + a.toNat * 32768 + b.toNat * 1048576 + m.toNat * 33554432 < 2 ^ 32 := by omega
  show decode (BitVec.ofNat 32 (0x12 + d.toNat * 128 + k.toNat * 4096 + a.toNat * 32768 + b.toNat * 1048576 + m.toNat * 33554432)) = _
  rw [decode_vcmpeq _ (by rw [fldN_ofNat _ _ _ hN]; exact field_at (0) (18) (0 + d.toNat * 1 + k.toNat * 32 + a.toNat * 256 + b.toNat * 8192 + m.toNat * 262144) (by omega) (by omega) (by omega)) (by rw [fldN_ofNat _ _ _ hN]; exact field_at (18 + d.toNat * 128 + k.toNat * 4096 + a.toNat * 32768 + b.toNat * 1048576 + m.toNat * 33554432) (0) (0) (by omega) (by omega) (by omega)),
    fld_ofNat _ _ d hN (field_at (18) (d.toNat) (0 + k.toNat * 1 + a.toNat * 8 + b.toNat * 256 + m.toNat * 8192) (by omega) (by omega) (by omega)),
    fld_ofNat _ _ k hN (field_at (18 + d.toNat * 128) (k.toNat) (0 + a.toNat * 1 + b.toNat * 32 + m.toNat * 1024) (by omega) (by omega) (by omega)),
    fld_ofNat _ _ a hN (field_at (18 + d.toNat * 128 + k.toNat * 4096) (a.toNat) (0 + b.toNat * 1 + m.toNat * 32) (by omega) (by omega) (by omega)),
    fld_ofNat _ _ b hN (field_at (18 + d.toNat * 128 + k.toNat * 4096 + a.toNat * 32768) (b.toNat) (0 + m.toNat * 1) (by omega) (by omega) (by omega)),
    fld_ofNat _ _ m hN (field_at (18 + d.toNat * 128 + k.toNat * 4096 + a.toNat * 32768 + b.toNat * 1048576) (m.toNat) (0) (by omega) (by omega) (by omega))]

theorem vcmpne (d : BitVec 5) (k : BitVec 3) (a : BitVec 5) (b : BitVec 5) (m : BitVec 1) : Statement (.vcmpne d k a b m) := by
  intro _ _ _
  have hd := d.isLt
  have hk := k.isLt
  have ha := a.isLt
  have hb := b.isLt
  have hm := m.isLt
  have hN : 0x4000012 + d.toNat * 128 + k.toNat * 4096 + a.toNat * 32768 + b.toNat * 1048576 + m.toNat * 33554432 < 2 ^ 32 := by omega
  show decode (BitVec.ofNat 32 (0x4000012 + d.toNat * 128 + k.toNat * 4096 + a.toNat * 32768 + b.toNat * 1048576 + m.toNat * 33554432)) = _
  rw [decode_vcmpne _ (by rw [fldN_ofNat _ _ _ hN]; exact field_at (0) (18) (524288 + d.toNat * 1 + k.toNat * 32 + a.toNat * 256 + b.toNat * 8192 + m.toNat * 262144) (by omega) (by omega) (by omega)) (by rw [fldN_ofNat _ _ _ hN]; exact field_at (18 + d.toNat * 128 + k.toNat * 4096 + a.toNat * 32768 + b.toNat * 1048576 + m.toNat * 33554432) (1) (0) (by omega) (by omega) (by omega)),
    fld_ofNat _ _ d hN (field_at (18) (d.toNat) (16384 + k.toNat * 1 + a.toNat * 8 + b.toNat * 256 + m.toNat * 8192) (by omega) (by omega) (by omega)),
    fld_ofNat _ _ k hN (field_at (18 + d.toNat * 128) (k.toNat) (2048 + a.toNat * 1 + b.toNat * 32 + m.toNat * 1024) (by omega) (by omega) (by omega)),
    fld_ofNat _ _ a hN (field_at (18 + d.toNat * 128 + k.toNat * 4096) (a.toNat) (64 + b.toNat * 1 + m.toNat * 32) (by omega) (by omega) (by omega)),
    fld_ofNat _ _ b hN (field_at (18 + d.toNat * 128 + k.toNat * 4096 + a.toNat * 32768) (b.toNat) (2 + m.toNat * 1) (by omega) (by omega) (by omega)),
    fld_ofNat _ _ m hN (field_at (18 + d.toNat * 128 + k.toNat * 4096 + a.toNat * 32768 + b.toNat * 1048576) (m.toNat) (1) (by omega) (by omega) (by omega))]

theorem vcmplt (d : BitVec 5) (k : BitVec 3) (a : BitVec 5) (b : BitVec 5) (m : BitVec 1) : Statement (.vcmplt d k a b m) := by
  intro _ _ _
  have hd := d.isLt
  have hk := k.isLt
  have ha := a.isLt
  have hb := b.isLt
  have hm := m.isLt
  have hN : 0x8000012 + d.toNat * 128 + k.toNat * 4096 + a.toNat * 32768 + b.toNat * 1048576 + m.toNat * 33554432 < 2 ^ 32 := by omega
  show decode (BitVec.ofNat 32 (0x8000012 + d.toNat * 128 + k.toNat * 4096 + a.toNat * 32768 + b.toNat * 1048576 + m.toNat * 33554432)) = _
  rw [decode_vcmplt _ (by rw [fldN_ofNat _ _ _ hN]; exact field_at (0) (18) (1048576 + d.toNat * 1 + k.toNat * 32 + a.toNat * 256 + b.toNat * 8192 + m.toNat * 262144) (by omega) (by omega) (by omega)) (by rw [fldN_ofNat _ _ _ hN]; exact field_at (18 + d.toNat * 128 + k.toNat * 4096 + a.toNat * 32768 + b.toNat * 1048576 + m.toNat * 33554432) (2) (0) (by omega) (by omega) (by omega)),
    fld_ofNat _ _ d hN (field_at (18) (d.toNat) (32768 + k.toNat * 1 + a.toNat * 8 + b.toNat * 256 + m.toNat * 8192) (by omega) (by omega) (by omega)),
    fld_ofNat _ _ k hN (field_at (18 + d.toNat * 128) (k.toNat) (4096 + a.toNat * 1 + b.toNat * 32 + m.toNat * 1024) (by omega) (by omega) (by omega)),
    fld_ofNat _ _ a hN (field_at (18 + d.toNat * 128 + k.toNat * 4096) (a.toNat) (128 + b.toNat * 1 + m.toNat * 32) (by omega) (by omega) (by omega)),
    fld_ofNat _ _ b hN (field_at (18 + d.toNat * 128 + k.toNat * 4096 + a.toNat * 32768) (b.toNat) (4 + m.toNat * 1) (by omega) (by omega) (by omega)),
    fld_ofNat _ _ m hN (field_at (18 + d.toNat * 128 + k.toNat * 4096 + a.toNat * 32768 + b.toNat * 1048576) (m.toNat) (2) (by omega) (by omega) (by omega))]

theorem vcmple (d : BitVec 5) (k : BitVec 3) (a : BitVec 5) (b : BitVec 5) (m : BitVec 1) : Statement (.vcmple d k a b m) := by
  intro _ _ _
  have hd := d.isLt
  have hk := k.isLt
  have ha := a.isLt
  have hb := b.isLt
  have hm := m.isLt
  have hN : 0xC000012 + d.toNat * 128 + k.toNat * 4096 + a.toNat * 32768 + b.toNat * 1048576 + m.toNat * 33554432 < 2 ^ 32 := by omega
  show decode (BitVec.ofNat 32 (0xC000012 + d.toNat * 128 + k.toNat * 4096 + a.toNat * 32768 + b.toNat * 1048576 + m.toNat * 33554432)) = _
  rw [decode_vcmple _ (by rw [fldN_ofNat _ _ _ hN]; exact field_at (0) (18) (1572864 + d.toNat * 1 + k.toNat * 32 + a.toNat * 256 + b.toNat * 8192 + m.toNat * 262144) (by omega) (by omega) (by omega)) (by rw [fldN_ofNat _ _ _ hN]; exact field_at (18 + d.toNat * 128 + k.toNat * 4096 + a.toNat * 32768 + b.toNat * 1048576 + m.toNat * 33554432) (3) (0) (by omega) (by omega) (by omega)),
    fld_ofNat _ _ d hN (field_at (18) (d.toNat) (49152 + k.toNat * 1 + a.toNat * 8 + b.toNat * 256 + m.toNat * 8192) (by omega) (by omega) (by omega)),
    fld_ofNat _ _ k hN (field_at (18 + d.toNat * 128) (k.toNat) (6144 + a.toNat * 1 + b.toNat * 32 + m.toNat * 1024) (by omega) (by omega) (by omega)),
    fld_ofNat _ _ a hN (field_at (18 + d.toNat * 128 + k.toNat * 4096) (a.toNat) (192 + b.toNat * 1 + m.toNat * 32) (by omega) (by omega) (by omega)),
    fld_ofNat _ _ b hN (field_at (18 + d.toNat * 128 + k.toNat * 4096 + a.toNat * 32768) (b.toNat) (6 + m.toNat * 1) (by omega) (by omega) (by omega)),
    fld_ofNat _ _ m hN (field_at (18 + d.toNat * 128 + k.toNat * 4096 + a.toNat * 32768 + b.toNat * 1048576) (m.toNat) (3) (by omega) (by omega) (by omega))]

theorem vcmpgt (d : BitVec 5) (k : BitVec 3) (a : BitVec 5) (b : BitVec 5) (m : BitVec 1) : Statement (.vcmpgt d k a b m) := by
  intro _ _ _
  have hd := d.isLt
  have hk := k.isLt
  have ha := a.isLt
  have hb := b.isLt
  have hm := m.isLt
  have hN : 0x10000012 + d.toNat * 128 + k.toNat * 4096 + a.toNat * 32768 + b.toNat * 1048576 + m.toNat * 33554432 < 2 ^ 32 := by omega
  show decode (BitVec.ofNat 32 (0x10000012 + d.toNat * 128 + k.toNat * 4096 + a.toNat * 32768 + b.toNat * 1048576 + m.toNat * 33554432)) = _
  rw [decode_vcmpgt _ (by rw [fldN_ofNat _ _ _ hN]; exact field_at (0) (18) (2097152 + d.toNat * 1 + k.toNat * 32 + a.toNat * 256 + b.toNat * 8192 + m.toNat * 262144) (by omega) (by omega) (by omega)) (by rw [fldN_ofNat _ _ _ hN]; exact field_at (18 + d.toNat * 128 + k.toNat * 4096 + a.toNat * 32768 + b.toNat * 1048576 + m.toNat * 33554432) (4) (0) (by omega) (by omega) (by omega)),
    fld_ofNat _ _ d hN (field_at (18) (d.toNat) (65536 + k.toNat * 1 + a.toNat * 8 + b.toNat * 256 + m.toNat * 8192) (by omega) (by omega) (by omega)),
    fld_ofNat _ _ k hN (field_at (18 + d.toNat * 128) (k.toNat) (8192 + a.toNat * 1 + b.toNat * 32 + m.toNat * 1024) (by omega) (by omega) (by omega)),
    fld_ofNat _ _ a hN (field_at (18 + d.toNat * 128 + k.toNat * 4096) (a.toNat) (256 + b.toNat * 1 + m.toNat * 32) (by omega) (by omega) (by omega)),
    fld_ofNat _ _ b hN (field_at (18 + d.toNat * 128 + k.toNat * 4096 + a.toNat * 32768) (b.toNat) (8 + m.toNat * 1) (by omega) (by omega) (by omega)),
    fld_ofNat _ _ m hN (field_at (18 + d.toNat * 128 + k.toNat * 4096 + a.toNat * 32768 + b.toNat * 1048576) (m.toNat) (4) (by omega) (by omega) (by omega))]

theorem vcmpge (d : BitVec 5) (k : BitVec 3) (a : BitVec 5) (b : BitVec 5) (m : BitVec 1) : Statement (.vcmpge d k a b m) := by
  intro _ _ _
  have hd := d.isLt
  have hk := k.isLt
  have ha := a.isLt
  have hb := b.isLt
  have hm := m.isLt
  have hN : 0x14000012 + d.toNat * 128 + k.toNat * 4096 + a.toNat * 32768 + b.toNat * 1048576 + m.toNat * 33554432 < 2 ^ 32 := by omega
  show decode (BitVec.ofNat 32 (0x14000012 + d.toNat * 128 + k.toNat * 4096 + a.toNat * 32768 + b.toNat * 1048576 + m.toNat * 33554432)) = _
  rw [decode_vcmpge _ (by rw [fldN_ofNat _ _ _ hN]; exact field_at (0) (18) (2621440 + d.toNat * 1 + k.toNat * 32 + a.toNat * 256 + b.toNat * 8192 + m.toNat * 262144) (by omega) (by omega) (by omega)) (by rw [fldN_ofNat _ _ _ hN]; exact field_at (18 + d.toNat * 128 + k.toNat * 4096 + a.toNat * 32768 + b.toNat * 1048576 + m.toNat * 33554432) (5) (0) (by omega) (by omega) (by omega)),
    fld_ofNat _ _ d hN (field_at (18) (d.toNat) (81920 + k.toNat * 1 + a.toNat * 8 + b.toNat * 256 + m.toNat * 8192) (by omega) (by omega) (by omega)),
    fld_ofNat _ _ k hN (field_at (18 + d.toNat * 128) (k.toNat) (10240 + a.toNat * 1 + b.toNat * 32 + m.toNat * 1024) (by omega) (by omega) (by omega)),
    fld_ofNat _ _ a hN (field_at (18 + d.toNat * 128 + k.toNat * 4096) (a.toNat) (320 + b.toNat * 1 + m.toNat * 32) (by omega) (by omega) (by omega)),
    fld_ofNat _ _ b hN (field_at (18 + d.toNat * 128 + k.toNat * 4096 + a.toNat * 32768) (b.toNat) (10 + m.toNat * 1) (by omega) (by omega) (by omega)),
    fld_ofNat _ _ m hN (field_at (18 + d.toNat * 128 + k.toNat * 4096 + a.toNat * 32768 + b.toNat * 1048576) (m.toNat) (5) (by omega) (by omega) (by omega))]

theorem mand (d : BitVec 5) (a : BitVec 5) (b : BitVec 5) (m : BitVec 1) : Statement (.mand d a b m) := by
  intro _ _ _
  have hd := d.isLt
  have ha := a.isLt
  have hb := b.isLt
  have hm := m.isLt
  have hN : 0x18000012 + d.toNat * 128 + a.toNat * 32768 + b.toNat * 1048576 + m.toNat * 33554432 < 2 ^ 32 := by omega
  show decode (BitVec.ofNat 32 (0x18000012 + d.toNat * 128 + a.toNat * 32768 + b.toNat * 1048576 + m.toNat * 33554432)) = _
  rw [decode_mand _ (by rw [fldN_ofNat _ _ _ hN]; exact field_at (0) (18) (3145728 + d.toNat * 1 + a.toNat * 256 + b.toNat * 8192 + m.toNat * 262144) (by omega) (by omega) (by omega)) (by rw [fldN_ofNat _ _ _ hN]; exact field_at (18 + d.toNat * 128 + a.toNat * 32768 + b.toNat * 1048576 + m.toNat * 33554432) (6) (0) (by omega) (by omega) (by omega)) (by rw [fldN_ofNat _ _ _ hN]; exact field_at (18 + d.toNat * 128) (0) (12288 + a.toNat * 1 + b.toNat * 32 + m.toNat * 1024) (by omega) (by omega) (by omega)),
    fld_ofNat _ _ d hN (field_at (18) (d.toNat) (98304 + a.toNat * 8 + b.toNat * 256 + m.toNat * 8192) (by omega) (by omega) (by omega)),
    fld_ofNat _ _ a hN (field_at (18 + d.toNat * 128) (a.toNat) (384 + b.toNat * 1 + m.toNat * 32) (by omega) (by omega) (by omega)),
    fld_ofNat _ _ b hN (field_at (18 + d.toNat * 128 + a.toNat * 32768) (b.toNat) (12 + m.toNat * 1) (by omega) (by omega) (by omega)),
    fld_ofNat _ _ m hN (field_at (18 + d.toNat * 128 + a.toNat * 32768 + b.toNat * 1048576) (m.toNat) (6) (by omega) (by omega) (by omega))]

theorem mor (d : BitVec 5) (a : BitVec 5) (b : BitVec 5) (m : BitVec 1) : Statement (.mor d a b m) := by
  intro _ _ _
  have hd := d.isLt
  have ha := a.isLt
  have hb := b.isLt
  have hm := m.isLt
  have hN : 0x1C000012 + d.toNat * 128 + a.toNat * 32768 + b.toNat * 1048576 + m.toNat * 33554432 < 2 ^ 32 := by omega
  show decode (BitVec.ofNat 32 (0x1C000012 + d.toNat * 128 + a.toNat * 32768 + b.toNat * 1048576 + m.toNat * 33554432)) = _
  rw [decode_mor _ (by rw [fldN_ofNat _ _ _ hN]; exact field_at (0) (18) (3670016 + d.toNat * 1 + a.toNat * 256 + b.toNat * 8192 + m.toNat * 262144) (by omega) (by omega) (by omega)) (by rw [fldN_ofNat _ _ _ hN]; exact field_at (18 + d.toNat * 128 + a.toNat * 32768 + b.toNat * 1048576 + m.toNat * 33554432) (7) (0) (by omega) (by omega) (by omega)) (by rw [fldN_ofNat _ _ _ hN]; exact field_at (18 + d.toNat * 128) (0) (14336 + a.toNat * 1 + b.toNat * 32 + m.toNat * 1024) (by omega) (by omega) (by omega)),
    fld_ofNat _ _ d hN (field_at (18) (d.toNat) (114688 + a.toNat * 8 + b.toNat * 256 + m.toNat * 8192) (by omega) (by omega) (by omega)),
    fld_ofNat _ _ a hN (field_at (18 + d.toNat * 128) (a.toNat) (448 + b.toNat * 1 + m.toNat * 32) (by omega) (by omega) (by omega)),
    fld_ofNat _ _ b hN (field_at (18 + d.toNat * 128 + a.toNat * 32768) (b.toNat) (14 + m.toNat * 1) (by omega) (by omega) (by omega)),
    fld_ofNat _ _ m hN (field_at (18 + d.toNat * 128 + a.toNat * 32768 + b.toNat * 1048576) (m.toNat) (7) (by omega) (by omega) (by omega))]

theorem mxor (d : BitVec 5) (a : BitVec 5) (b : BitVec 5) (m : BitVec 1) : Statement (.mxor d a b m) := by
  intro _ _ _
  have hd := d.isLt
  have ha := a.isLt
  have hb := b.isLt
  have hm := m.isLt
  have hN : 0x20000012 + d.toNat * 128 + a.toNat * 32768 + b.toNat * 1048576 + m.toNat * 33554432 < 2 ^ 32 := by omega
  show decode (BitVec.ofNat 32 (0x20000012 + d.toNat * 128 + a.toNat * 32768 + b.toNat * 1048576 + m.toNat * 33554432)) = _
  rw [decode_mxor _ (by rw [fldN_ofNat _ _ _ hN]; exact field_at (0) (18) (4194304 + d.toNat * 1 + a.toNat * 256 + b.toNat * 8192 + m.toNat * 262144) (by omega) (by omega) (by omega)) (by rw [fldN_ofNat _ _ _ hN]; exact field_at (18 + d.toNat * 128 + a.toNat * 32768 + b.toNat * 1048576 + m.toNat * 33554432) (8) (0) (by omega) (by omega) (by omega)) (by rw [fldN_ofNat _ _ _ hN]; exact field_at (18 + d.toNat * 128) (0) (16384 + a.toNat * 1 + b.toNat * 32 + m.toNat * 1024) (by omega) (by omega) (by omega)),
    fld_ofNat _ _ d hN (field_at (18) (d.toNat) (131072 + a.toNat * 8 + b.toNat * 256 + m.toNat * 8192) (by omega) (by omega) (by omega)),
    fld_ofNat _ _ a hN (field_at (18 + d.toNat * 128) (a.toNat) (512 + b.toNat * 1 + m.toNat * 32) (by omega) (by omega) (by omega)),
    fld_ofNat _ _ b hN (field_at (18 + d.toNat * 128 + a.toNat * 32768) (b.toNat) (16 + m.toNat * 1) (by omega) (by omega) (by omega)),
    fld_ofNat _ _ m hN (field_at (18 + d.toNat * 128 + a.toNat * 32768 + b.toNat * 1048576) (m.toNat) (8) (by omega) (by omega) (by omega))]

theorem mandn (d : BitVec 5) (a : BitVec 5) (b : BitVec 5) (m : BitVec 1) : Statement (.mandn d a b m) := by
  intro _ _ _
  have hd := d.isLt
  have ha := a.isLt
  have hb := b.isLt
  have hm := m.isLt
  have hN : 0x24000012 + d.toNat * 128 + a.toNat * 32768 + b.toNat * 1048576 + m.toNat * 33554432 < 2 ^ 32 := by omega
  show decode (BitVec.ofNat 32 (0x24000012 + d.toNat * 128 + a.toNat * 32768 + b.toNat * 1048576 + m.toNat * 33554432)) = _
  rw [decode_mandn _ (by rw [fldN_ofNat _ _ _ hN]; exact field_at (0) (18) (4718592 + d.toNat * 1 + a.toNat * 256 + b.toNat * 8192 + m.toNat * 262144) (by omega) (by omega) (by omega)) (by rw [fldN_ofNat _ _ _ hN]; exact field_at (18 + d.toNat * 128 + a.toNat * 32768 + b.toNat * 1048576 + m.toNat * 33554432) (9) (0) (by omega) (by omega) (by omega)) (by rw [fldN_ofNat _ _ _ hN]; exact field_at (18 + d.toNat * 128) (0) (18432 + a.toNat * 1 + b.toNat * 32 + m.toNat * 1024) (by omega) (by omega) (by omega)),
    fld_ofNat _ _ d hN (field_at (18) (d.toNat) (147456 + a.toNat * 8 + b.toNat * 256 + m.toNat * 8192) (by omega) (by omega) (by omega)),
    fld_ofNat _ _ a hN (field_at (18 + d.toNat * 128) (a.toNat) (576 + b.toNat * 1 + m.toNat * 32) (by omega) (by omega) (by omega)),
    fld_ofNat _ _ b hN (field_at (18 + d.toNat * 128 + a.toNat * 32768) (b.toNat) (18 + m.toNat * 1) (by omega) (by omega) (by omega)),
    fld_ofNat _ _ m hN (field_at (18 + d.toNat * 128 + a.toNat * 32768 + b.toNat * 1048576) (m.toNat) (9) (by omega) (by omega) (by omega))]

theorem mpopc (d : BitVec 5) (a : BitVec 5) (m : BitVec 1) : Statement (.mpopc d a m) := by
  intro _ _ _
  have hd := d.isLt
  have ha := a.isLt
  have hm := m.isLt
  have hN : 0x28000012 + d.toNat * 128 + a.toNat * 32768 + m.toNat * 33554432 < 2 ^ 32 := by omega
  show decode (BitVec.ofNat 32 (0x28000012 + d.toNat * 128 + a.toNat * 32768 + m.toNat * 33554432)) = _
  rw [decode_mpopc _ (by rw [fldN_ofNat _ _ _ hN]; exact field_at (0) (18) (5242880 + d.toNat * 1 + a.toNat * 256 + m.toNat * 262144) (by omega) (by omega) (by omega)) (by rw [fldN_ofNat _ _ _ hN]; exact field_at (18 + d.toNat * 128 + a.toNat * 32768 + m.toNat * 33554432) (10) (0) (by omega) (by omega) (by omega)) (by rw [fldN_ofNat _ _ _ hN]; exact field_at (18 + d.toNat * 128) (0) (20480 + a.toNat * 1 + m.toNat * 1024) (by omega) (by omega) (by omega)) (by rw [fldN_ofNat _ _ _ hN]; exact field_at (18 + d.toNat * 128 + a.toNat * 32768) (0) (20 + m.toNat * 1) (by omega) (by omega) (by omega)),
    fld_ofNat _ _ d hN (field_at (18) (d.toNat) (163840 + a.toNat * 8 + m.toNat * 8192) (by omega) (by omega) (by omega)),
    fld_ofNat _ _ a hN (field_at (18 + d.toNat * 128) (a.toNat) (640 + m.toNat * 32) (by omega) (by omega) (by omega)),
    fld_ofNat _ _ m hN (field_at (18 + d.toNat * 128 + a.toNat * 32768) (m.toNat) (10) (by omega) (by omega) (by omega))]

theorem mfirst (d : BitVec 5) (a : BitVec 5) (m : BitVec 1) : Statement (.mfirst d a m) := by
  intro _ _ _
  have hd := d.isLt
  have ha := a.isLt
  have hm := m.isLt
  have hN : 0x2C000012 + d.toNat * 128 + a.toNat * 32768 + m.toNat * 33554432 < 2 ^ 32 := by omega
  show decode (BitVec.ofNat 32 (0x2C000012 + d.toNat * 128 + a.toNat * 32768 + m.toNat * 33554432)) = _
  rw [decode_mfirst _ (by rw [fldN_ofNat _ _ _ hN]; exact field_at (0) (18) (5767168 + d.toNat * 1 + a.toNat * 256 + m.toNat * 262144) (by omega) (by omega) (by omega)) (by rw [fldN_ofNat _ _ _ hN]; exact field_at (18 + d.toNat * 128 + a.toNat * 32768 + m.toNat * 33554432) (11) (0) (by omega) (by omega) (by omega)) (by rw [fldN_ofNat _ _ _ hN]; exact field_at (18 + d.toNat * 128) (0) (22528 + a.toNat * 1 + m.toNat * 1024) (by omega) (by omega) (by omega)) (by rw [fldN_ofNat _ _ _ hN]; exact field_at (18 + d.toNat * 128 + a.toNat * 32768) (0) (22 + m.toNat * 1) (by omega) (by omega) (by omega)),
    fld_ofNat _ _ d hN (field_at (18) (d.toNat) (180224 + a.toNat * 8 + m.toNat * 8192) (by omega) (by omega) (by omega)),
    fld_ofNat _ _ a hN (field_at (18 + d.toNat * 128) (a.toNat) (704 + m.toNat * 32) (by omega) (by omega) (by omega)),
    fld_ofNat _ _ m hN (field_at (18 + d.toNat * 128 + a.toNat * 32768) (m.toNat) (11) (by omega) (by omega) (by omega))]

theorem miota (d : BitVec 5) (a : BitVec 5) (m : BitVec 1) : Statement (.miota d a m) := by
  intro _ _ _
  have hd := d.isLt
  have ha := a.isLt
  have hm := m.isLt
  have hN : 0x30000012 + d.toNat * 128 + a.toNat * 32768 + m.toNat * 33554432 < 2 ^ 32 := by omega
  show decode (BitVec.ofNat 32 (0x30000012 + d.toNat * 128 + a.toNat * 32768 + m.toNat * 33554432)) = _
  rw [decode_miota _ (by rw [fldN_ofNat _ _ _ hN]; exact field_at (0) (18) (6291456 + d.toNat * 1 + a.toNat * 256 + m.toNat * 262144) (by omega) (by omega) (by omega)) (by rw [fldN_ofNat _ _ _ hN]; exact field_at (18 + d.toNat * 128 + a.toNat * 32768 + m.toNat * 33554432) (12) (0) (by omega) (by omega) (by omega)) (by rw [fldN_ofNat _ _ _ hN]; exact field_at (18 + d.toNat * 128) (0) (24576 + a.toNat * 1 + m.toNat * 1024) (by omega) (by omega) (by omega)) (by rw [fldN_ofNat _ _ _ hN]; exact field_at (18 + d.toNat * 128 + a.toNat * 32768) (0) (24 + m.toNat * 1) (by omega) (by omega) (by omega)),
    fld_ofNat _ _ d hN (field_at (18) (d.toNat) (196608 + a.toNat * 8 + m.toNat * 8192) (by omega) (by omega) (by omega)),
    fld_ofNat _ _ a hN (field_at (18 + d.toNat * 128) (a.toNat) (768 + m.toNat * 32) (by omega) (by omega) (by omega)),
    fld_ofNat _ _ m hN (field_at (18 + d.toNat * 128 + a.toNat * 32768) (m.toNat) (12) (by omega) (by omega) (by omega))]

theorem vmv (d : BitVec 5) (k : BitVec 3) (a : BitVec 5) (b : BitVec 5) (m : BitVec 1) : Statement (.vmv d k a b m) := by
  intro _ _ _
  have hd := d.isLt
  have hk := k.isLt
  have ha := a.isLt
  have hb := b.isLt
  have hm := m.isLt
  have hN : 0x13 + d.toNat * 128 + k.toNat * 4096 + a.toNat * 32768 + b.toNat * 1048576 + m.toNat * 33554432 < 2 ^ 32 := by omega
  show decode (BitVec.ofNat 32 (0x13 + d.toNat * 128 + k.toNat * 4096 + a.toNat * 32768 + b.toNat * 1048576 + m.toNat * 33554432)) = _
  rw [decode_vmv _ (by rw [fldN_ofNat _ _ _ hN]; exact field_at (0) (19) (0 + d.toNat * 1 + k.toNat * 32 + a.toNat * 256 + b.toNat * 8192 + m.toNat * 262144) (by omega) (by omega) (by omega)) (by rw [fldN_ofNat _ _ _ hN]; exact field_at (19 + d.toNat * 128 + k.toNat * 4096 + a.toNat * 32768 + b.toNat * 1048576 + m.toNat * 33554432) (0) (0) (by omega) (by omega) (by omega)),
    fld_ofNat _ _ d hN (field_at (19) (d.toNat) (0 + k.toNat * 1 + a.toNat * 8 + b.toNat * 256 + m.toNat * 8192) (by omega) (by omega) (by omega)),
    fld_ofNat _ _ k hN (field_at (19 + d.toNat * 128) (k.toNat) (0 + a.toNat * 1 + b.toNat * 32 + m.toNat * 1024) (by omega) (by omega) (by omega)),
    fld_ofNat _ _ a hN (field_at (19 + d.toNat * 128 + k.toNat * 4096) (a.toNat) (0 + b.toNat * 1 + m.toNat * 32) (by omega) (by omega) (by omega)),
    fld_ofNat _ _ b hN (field_at (19 + d.toNat * 128 + k.toNat * 4096 + a.toNat * 32768) (b.toNat) (0 + m.toNat * 1) (by omega) (by omega) (by omega)),
    fld_ofNat _ _ m hN (field_at (19 + d.toNat * 128 + k.toNat * 4096 + a.toNat * 32768 + b.toNat * 1048576) (m.toNat) (0) (by omega) (by omega) (by omega))]

theorem vmvx (d : BitVec 5) (k : BitVec 3) (a : BitVec 5) (b : BitVec 5) : Statement (.vmvx d k a b) := by
  intro _ _ _
  have hd := d.isLt
  have hk := k.isLt
  have ha := a.isLt
  have hb := b.isLt
  have hN : 0x4000013 + d.toNat * 128 + k.toNat * 4096 + a.toNat * 32768 + b.toNat * 1048576 < 2 ^ 32 := by omega
  show decode (BitVec.ofNat 32 (0x4000013 + d.toNat * 128 + k.toNat * 4096 + a.toNat * 32768 + b.toNat * 1048576)) = _
  rw [decode_vmvx _ (by rw [fldN_ofNat _ _ _ hN]; exact field_at (0) (19) (524288 + d.toNat * 1 + k.toNat * 32 + a.toNat * 256 + b.toNat * 8192) (by omega) (by omega) (by omega)) (by rw [fldN_ofNat _ _ _ hN]; exact field_at (19 + d.toNat * 128 + k.toNat * 4096 + a.toNat * 32768 + b.toNat * 1048576) (1) (0) (by omega) (by omega) (by omega)) (by rw [fldN_ofNat _ _ _ hN]; exact field_at (19 + d.toNat * 128 + k.toNat * 4096 + a.toNat * 32768 + b.toNat * 1048576) (0) (1) (by omega) (by omega) (by omega)),
    fld_ofNat _ _ d hN (field_at (19) (d.toNat) (16384 + k.toNat * 1 + a.toNat * 8 + b.toNat * 256) (by omega) (by omega) (by omega)),
    fld_ofNat _ _ k hN (field_at (19 + d.toNat * 128) (k.toNat) (2048 + a.toNat * 1 + b.toNat * 32) (by omega) (by omega) (by omega)),
    fld_ofNat _ _ a hN (field_at (19 + d.toNat * 128 + k.toNat * 4096) (a.toNat) (64 + b.toNat * 1) (by omega) (by omega) (by omega)),
    fld_ofNat _ _ b hN (field_at (19 + d.toNat * 128 + k.toNat * 4096 + a.toNat * 32768) (b.toNat) (2) (by omega) (by omega) (by omega))]

theorem vmvs (d : BitVec 5) (b : BitVec 5) : Statement (.vmvs d b) := by
  intro _ _ _
  have hd := d.isLt
  have hb := b.isLt
  have hN : 0x8001013 + d.toNat * 128 + b.toNat * 1048576 < 2 ^ 32 := by omega
  show decode (BitVec.ofNat 32 (0x8001013 + d.toNat * 128 + b.toNat * 1048576)) = _
  rw [decode_vmvs _ (by rw [fldN_ofNat _ _ _ hN]; exact field_at (0) (19) (1048608 + d.toNat * 1 + b.toNat * 8192) (by omega) (by omega) (by omega)) (by rw [fldN_ofNat _ _ _ hN]; exact field_at (4115 + d.toNat * 128 + b.toNat * 1048576) (2) (0) (by omega) (by omega) (by omega)) (by rw [fldN_ofNat _ _ _ hN]; exact field_at (19 + d.toNat * 128) (1) (128 + b.toNat * 1) (by omega) (by omega) (by omega)) (by rw [fldN_ofNat _ _ _ hN]; exact field_at (4115 + d.toNat * 128 + b.toNat * 1048576) (0) (2) (by omega) (by omega) (by omega)),
    fld_ofNat _ _ d hN (field_at (19) (d.toNat) (32769 + b.toNat * 256) (by omega) (by omega) (by omega)),
    fld_ofNat _ _ b hN (field_at (4115 + d.toNat * 128) (b.toNat) (4) (by omega) (by omega) (by omega))]

theorem vid (d : BitVec 5) (m : BitVec 1) : Statement (.vid d m) := by
  intro _ _ _
  have hd := d.isLt
  have hm := m.isLt
  have hN : 0xC000013 + d.toNat * 128 + m.toNat * 33554432 < 2 ^ 32 := by omega
  show decode (BitVec.ofNat 32 (0xC000013 + d.toNat * 128 + m.toNat * 33554432)) = _
  rw [decode_vid _ (by rw [fldN_ofNat _ _ _ hN]; exact field_at (0) (19) (1572864 + d.toNat * 1 + m.toNat * 262144) (by omega) (by omega) (by omega)) (by rw [fldN_ofNat _ _ _ hN]; exact field_at (19 + d.toNat * 128 + m.toNat * 33554432) (3) (0) (by omega) (by omega) (by omega)) (by rw [fldN_ofNat _ _ _ hN]; exact field_at (19 + d.toNat * 128) (0) (6 + m.toNat * 1) (by omega) (by omega) (by omega)),
    fld_ofNat _ _ d hN (field_at (19) (d.toNat) (49152 + m.toNat * 8192) (by omega) (by omega) (by omega)),
    fld_ofNat _ _ m hN (field_at (19 + d.toNat * 128) (m.toNat) (3) (by omega) (by omega) (by omega))]

theorem vsel (d : BitVec 5) (k : BitVec 3) (a : BitVec 5) (b : BitVec 5) : Statement (.vsel d k a b) := by
  intro _ _ _
  have hd := d.isLt
  have hk := k.isLt
  have ha := a.isLt
  have hb := b.isLt
  have hN : 0x12000013 + d.toNat * 128 + k.toNat * 4096 + a.toNat * 32768 + b.toNat * 1048576 < 2 ^ 32 := by omega
  show decode (BitVec.ofNat 32 (0x12000013 + d.toNat * 128 + k.toNat * 4096 + a.toNat * 32768 + b.toNat * 1048576)) = _
  rw [decode_vsel _ (by rw [fldN_ofNat _ _ _ hN]; exact field_at (0) (19) (2359296 + d.toNat * 1 + k.toNat * 32 + a.toNat * 256 + b.toNat * 8192) (by omega) (by omega) (by omega)) (by rw [fldN_ofNat _ _ _ hN]; exact field_at (33554451 + d.toNat * 128 + k.toNat * 4096 + a.toNat * 32768 + b.toNat * 1048576) (4) (0) (by omega) (by omega) (by omega)) (by rw [fldN_ofNat _ _ _ hN]; exact field_at (19 + d.toNat * 128 + k.toNat * 4096 + a.toNat * 32768 + b.toNat * 1048576) (1) (4) (by omega) (by omega) (by omega)),
    fld_ofNat _ _ d hN (field_at (19) (d.toNat) (73728 + k.toNat * 1 + a.toNat * 8 + b.toNat * 256) (by omega) (by omega) (by omega)),
    fld_ofNat _ _ k hN (field_at (19 + d.toNat * 128) (k.toNat) (9216 + a.toNat * 1 + b.toNat * 32) (by omega) (by omega) (by omega)),
    fld_ofNat _ _ a hN (field_at (19 + d.toNat * 128 + k.toNat * 4096) (a.toNat) (288 + b.toNat * 1) (by omega) (by omega) (by omega)),
    fld_ofNat _ _ b hN (field_at (19 + d.toNat * 128 + k.toNat * 4096 + a.toNat * 32768) (b.toNat) (9) (by omega) (by omega) (by omega))]

theorem vcompress (d : BitVec 5) (a : BitVec 5) : Statement (.vcompress d a) := by
  intro _ _ _
  have hd := d.isLt
  have ha := a.isLt
  have hN : 0x16000013 + d.toNat * 128 + a.toNat * 32768 < 2 ^ 32 := by omega
  show decode (BitVec.ofNat 32 (0x16000013 + d.toNat * 128 + a.toNat * 32768)) = _
  rw [decode_vcompress _ (by rw [fldN_ofNat _ _ _ hN]; exact field_at (0) (19) (2883584 + d.toNat * 1 + a.toNat * 256) (by omega) (by omega) (by omega)) (by rw [fldN_ofNat _ _ _ hN]; exact field_at (33554451 + d.toNat * 128 + a.toNat * 32768) (5) (0) (by omega) (by omega) (by omega)) (by rw [fldN_ofNat _ _ _ hN]; exact field_at (19 + d.toNat * 128) (0) (11264 + a.toNat * 1) (by omega) (by omega) (by omega)) (by rw [fldN_ofNat _ _ _ hN]; exact field_at (19 + d.toNat * 128 + a.toNat * 32768) (32) (5) (by omega) (by omega) (by omega)),
    fld_ofNat _ _ d hN (field_at (19) (d.toNat) (90112 + a.toNat * 8) (by omega) (by omega) (by omega)),
    fld_ofNat _ _ a hN (field_at (19 + d.toNat * 128) (a.toNat) (352) (by omega) (by omega) (by omega))]

theorem vslideup (d : BitVec 5) (k : BitVec 3) (a : BitVec 5) (b : BitVec 5) (m : BitVec 1) : Statement (.vslideup d k a b m) := by
  intro _ _ _
  have hd := d.isLt
  have hk := k.isLt
  have ha := a.isLt
  have hb := b.isLt
  have hm := m.isLt
  have hN : 0x18000013 + d.toNat * 128 + k.toNat * 4096 + a.toNat * 32768 + b.toNat * 1048576 + m.toNat * 33554432 < 2 ^ 32 := by omega
  show decode (BitVec.ofNat 32 (0x18000013 + d.toNat * 128 + k.toNat * 4096 + a.toNat * 32768 + b.toNat * 1048576 + m.toNat * 33554432)) = _
  rw [decode_vslideup _ (by rw [fldN_ofNat _ _ _ hN]; exact field_at (0) (19) (3145728 + d.toNat * 1 + k.toNat * 32 + a.toNat * 256 + b.toNat * 8192 + m.toNat * 262144) (by omega) (by omega) (by omega)) (by rw [fldN_ofNat _ _ _ hN]; exact field_at (19 + d.toNat * 128 + k.toNat * 4096 + a.toNat * 32768 + b.toNat * 1048576 + m.toNat * 33554432) (6) (0) (by omega) (by omega) (by omega)),
    fld_ofNat _ _ d hN (field_at (19) (d.toNat) (98304 + k.toNat * 1 + a.toNat * 8 + b.toNat * 256 + m.toNat * 8192) (by omega) (by omega) (by omega)),
    fld_ofNat _ _ k hN (field_at (19 + d.toNat * 128) (k.toNat) (12288 + a.toNat * 1 + b.toNat * 32 + m.toNat * 1024) (by omega) (by omega) (by omega)),
    fld_ofNat _ _ a hN (field_at (19 + d.toNat * 128 + k.toNat * 4096) (a.toNat) (384 + b.toNat * 1 + m.toNat * 32) (by omega) (by omega) (by omega)),
    fld_ofNat _ _ b hN (field_at (19 + d.toNat * 128 + k.toNat * 4096 + a.toNat * 32768) (b.toNat) (12 + m.toNat * 1) (by omega) (by omega) (by omega)),
    fld_ofNat _ _ m hN (field_at (19 + d.toNat * 128 + k.toNat * 4096 + a.toNat * 32768 + b.toNat * 1048576) (m.toNat) (6) (by omega) (by omega) (by omega))]

theorem vslidedn (d : BitVec 5) (k : BitVec 3) (a : BitVec 5) (b : BitVec 5) (m : BitVec 1) : Statement (.vslidedn d k a b m) := by
  intro _ _ _
  have hd := d.isLt
  have hk := k.isLt
  have ha := a.isLt
  have hb := b.isLt
  have hm := m.isLt
  have hN : 0x1C000013 + d.toNat * 128 + k.toNat * 4096 + a.toNat * 32768 + b.toNat * 1048576 + m.toNat * 33554432 < 2 ^ 32 := by omega
  show decode (BitVec.ofNat 32 (0x1C000013 + d.toNat * 128 + k.toNat * 4096 + a.toNat * 32768 + b.toNat * 1048576 + m.toNat * 33554432)) = _
  rw [decode_vslidedn _ (by rw [fldN_ofNat _ _ _ hN]; exact field_at (0) (19) (3670016 + d.toNat * 1 + k.toNat * 32 + a.toNat * 256 + b.toNat * 8192 + m.toNat * 262144) (by omega) (by omega) (by omega)) (by rw [fldN_ofNat _ _ _ hN]; exact field_at (19 + d.toNat * 128 + k.toNat * 4096 + a.toNat * 32768 + b.toNat * 1048576 + m.toNat * 33554432) (7) (0) (by omega) (by omega) (by omega)),
    fld_ofNat _ _ d hN (field_at (19) (d.toNat) (114688 + k.toNat * 1 + a.toNat * 8 + b.toNat * 256 + m.toNat * 8192) (by omega) (by omega) (by omega)),
    fld_ofNat _ _ k hN (field_at (19 + d.toNat * 128) (k.toNat) (14336 + a.toNat * 1 + b.toNat * 32 + m.toNat * 1024) (by omega) (by omega) (by omega)),
    fld_ofNat _ _ a hN (field_at (19 + d.toNat * 128 + k.toNat * 4096) (a.toNat) (448 + b.toNat * 1 + m.toNat * 32) (by omega) (by omega) (by omega)),
    fld_ofNat _ _ b hN (field_at (19 + d.toNat * 128 + k.toNat * 4096 + a.toNat * 32768) (b.toNat) (14 + m.toNat * 1) (by omega) (by omega) (by omega)),
    fld_ofNat _ _ m hN (field_at (19 + d.toNat * 128 + k.toNat * 4096 + a.toNat * 32768 + b.toNat * 1048576) (m.toNat) (7) (by omega) (by omega) (by omega))]

theorem vperm (d : BitVec 5) (a : BitVec 5) (b : BitVec 5) (m : BitVec 1) : Statement (.vperm d a b m) := by
  intro _ _ _
  have hd := d.isLt
  have ha := a.isLt
  have hb := b.isLt
  have hm := m.isLt
  have hN : 0x20000013 + d.toNat * 128 + a.toNat * 32768 + b.toNat * 1048576 + m.toNat * 33554432 < 2 ^ 32 := by omega
  show decode (BitVec.ofNat 32 (0x20000013 + d.toNat * 128 + a.toNat * 32768 + b.toNat * 1048576 + m.toNat * 33554432)) = _
  rw [decode_vperm _ (by rw [fldN_ofNat _ _ _ hN]; exact field_at (0) (19) (4194304 + d.toNat * 1 + a.toNat * 256 + b.toNat * 8192 + m.toNat * 262144) (by omega) (by omega) (by omega)) (by rw [fldN_ofNat _ _ _ hN]; exact field_at (19 + d.toNat * 128 + a.toNat * 32768 + b.toNat * 1048576 + m.toNat * 33554432) (8) (0) (by omega) (by omega) (by omega)) (by rw [fldN_ofNat _ _ _ hN]; exact field_at (19 + d.toNat * 128) (0) (16384 + a.toNat * 1 + b.toNat * 32 + m.toNat * 1024) (by omega) (by omega) (by omega)),
    fld_ofNat _ _ d hN (field_at (19) (d.toNat) (131072 + a.toNat * 8 + b.toNat * 256 + m.toNat * 8192) (by omega) (by omega) (by omega)),
    fld_ofNat _ _ a hN (field_at (19 + d.toNat * 128) (a.toNat) (512 + b.toNat * 1 + m.toNat * 32) (by omega) (by omega) (by omega)),
    fld_ofNat _ _ b hN (field_at (19 + d.toNat * 128 + a.toNat * 32768) (b.toNat) (16 + m.toNat * 1) (by omega) (by omega) (by omega)),
    fld_ofNat _ _ m hN (field_at (19 + d.toNat * 128 + a.toNat * 32768 + b.toNat * 1048576) (m.toNat) (8) (by omega) (by omega) (by omega))]

theorem vcvt (d : BitVec 5) (a : BitVec 5) (t : BitVec 5) (m : BitVec 1) : Statement (.vcvt d a t m) := by
  intro _ _ _
  have hd := d.isLt
  have ha := a.isLt
  have ht := t.isLt
  have hm := m.isLt
  have hN : 0x24002013 + d.toNat * 128 + a.toNat * 32768 + t.toNat * 1048576 + m.toNat * 33554432 < 2 ^ 32 := by omega
  show decode (BitVec.ofNat 32 (0x24002013 + d.toNat * 128 + a.toNat * 32768 + t.toNat * 1048576 + m.toNat * 33554432)) = _
  rw [decode_vcvt _ (by rw [fldN_ofNat _ _ _ hN]; exact field_at (0) (19) (4718656 + d.toNat * 1 + a.toNat * 256 + t.toNat * 8192 + m.toNat * 262144) (by omega) (by omega) (by omega)) (by rw [fldN_ofNat _ _ _ hN]; exact field_at (8211 + d.toNat * 128 + a.toNat * 32768 + t.toNat * 1048576 + m.toNat * 33554432) (9) (0) (by omega) (by omega) (by omega)) (by rw [fldN_ofNat _ _ _ hN]; exact field_at (19 + d.toNat * 128) (2) (18432 + a.toNat * 1 + t.toNat * 32 + m.toNat * 1024) (by omega) (by omega) (by omega)),
    fld_ofNat _ _ d hN (field_at (19) (d.toNat) (147458 + a.toNat * 8 + t.toNat * 256 + m.toNat * 8192) (by omega) (by omega) (by omega)),
    fld_ofNat _ _ a hN (field_at (8211 + d.toNat * 128) (a.toNat) (576 + t.toNat * 1 + m.toNat * 32) (by omega) (by omega) (by omega)),
    fld_ofNat _ _ t hN (field_at (8211 + d.toNat * 128 + a.toNat * 32768) (t.toNat) (18 + m.toNat * 1) (by omega) (by omega) (by omega)),
    fld_ofNat _ _ m hN (field_at (8211 + d.toNat * 128 + a.toNat * 32768 + t.toNat * 1048576) (m.toNat) (9) (by omega) (by omega) (by omega))]

theorem vqsf4 (d : BitVec 5) (a : BitVec 5) (b : BitVec 5) (m : BitVec 1) : Statement (.vqsf4 d a b m) := by
  intro _ _ _
  have hd := d.isLt
  have ha := a.isLt
  have hb := b.isLt
  have hm := m.isLt
  have hN : 0x28001013 + d.toNat * 128 + a.toNat * 32768 + b.toNat * 1048576 + m.toNat * 33554432 < 2 ^ 32 := by omega
  show decode (BitVec.ofNat 32 (0x28001013 + d.toNat * 128 + a.toNat * 32768 + b.toNat * 1048576 + m.toNat * 33554432)) = _
  rw [decode_vqsf4 _ (by rw [fldN_ofNat _ _ _ hN]; exact field_at (0) (19) (5242912 + d.toNat * 1 + a.toNat * 256 + b.toNat * 8192 + m.toNat * 262144) (by omega) (by omega) (by omega)) (by rw [fldN_ofNat _ _ _ hN]; exact field_at (4115 + d.toNat * 128 + a.toNat * 32768 + b.toNat * 1048576 + m.toNat * 33554432) (10) (0) (by omega) (by omega) (by omega)) (by rw [fldN_ofNat _ _ _ hN]; exact field_at (19 + d.toNat * 128) (1) (20480 + a.toNat * 1 + b.toNat * 32 + m.toNat * 1024) (by omega) (by omega) (by omega)),
    fld_ofNat _ _ d hN (field_at (19) (d.toNat) (163841 + a.toNat * 8 + b.toNat * 256 + m.toNat * 8192) (by omega) (by omega) (by omega)),
    fld_ofNat _ _ a hN (field_at (4115 + d.toNat * 128) (a.toNat) (640 + b.toNat * 1 + m.toNat * 32) (by omega) (by omega) (by omega)),
    fld_ofNat _ _ b hN (field_at (4115 + d.toNat * 128 + a.toNat * 32768) (b.toNat) (20 + m.toNat * 1) (by omega) (by omega) (by omega)),
    fld_ofNat _ _ m hN (field_at (4115 + d.toNat * 128 + a.toNat * 32768 + b.toNat * 1048576) (m.toNat) (10) (by omega) (by omega) (by omega))]

theorem vredsum (d : BitVec 5) (a : BitVec 5) (m : BitVec 1) : Statement (.vredsum d a m) := by
  intro _ _ _
  have hd := d.isLt
  have ha := a.isLt
  have hm := m.isLt
  have hN : 0x14 + d.toNat * 128 + a.toNat * 32768 + m.toNat * 33554432 < 2 ^ 32 := by omega
  show decode (BitVec.ofNat 32 (0x14 + d.toNat * 128 + a.toNat * 32768 + m.toNat * 33554432)) = _
  rw [decode_vredsum _ (by rw [fldN_ofNat _ _ _ hN]; exact field_at (0) (20) (0 + d.toNat * 1 + a.toNat * 256 + m.toNat * 262144) (by omega) (by omega) (by omega)) (by rw [fldN_ofNat _ _ _ hN]; exact field_at (20 + d.toNat * 128 + a.toNat * 32768 + m.toNat * 33554432) (0) (0) (by omega) (by omega) (by omega)) (by rw [fldN_ofNat _ _ _ hN]; exact field_at (20 + d.toNat * 128) (0) (0 + a.toNat * 1 + m.toNat * 1024) (by omega) (by omega) (by omega)) (by rw [fldN_ofNat _ _ _ hN]; exact field_at (20 + d.toNat * 128 + a.toNat * 32768) (0) (0 + m.toNat * 1) (by omega) (by omega) (by omega)),
    fld_ofNat _ _ d hN (field_at (20) (d.toNat) (0 + a.toNat * 8 + m.toNat * 8192) (by omega) (by omega) (by omega)),
    fld_ofNat _ _ a hN (field_at (20 + d.toNat * 128) (a.toNat) (0 + m.toNat * 32) (by omega) (by omega) (by omega)),
    fld_ofNat _ _ m hN (field_at (20 + d.toNat * 128 + a.toNat * 32768) (m.toNat) (0) (by omega) (by omega) (by omega))]

theorem vredmax (d : BitVec 5) (a : BitVec 5) (m : BitVec 1) : Statement (.vredmax d a m) := by
  intro _ _ _
  have hd := d.isLt
  have ha := a.isLt
  have hm := m.isLt
  have hN : 0x4000014 + d.toNat * 128 + a.toNat * 32768 + m.toNat * 33554432 < 2 ^ 32 := by omega
  show decode (BitVec.ofNat 32 (0x4000014 + d.toNat * 128 + a.toNat * 32768 + m.toNat * 33554432)) = _
  rw [decode_vredmax _ (by rw [fldN_ofNat _ _ _ hN]; exact field_at (0) (20) (524288 + d.toNat * 1 + a.toNat * 256 + m.toNat * 262144) (by omega) (by omega) (by omega)) (by rw [fldN_ofNat _ _ _ hN]; exact field_at (20 + d.toNat * 128 + a.toNat * 32768 + m.toNat * 33554432) (1) (0) (by omega) (by omega) (by omega)) (by rw [fldN_ofNat _ _ _ hN]; exact field_at (20 + d.toNat * 128) (0) (2048 + a.toNat * 1 + m.toNat * 1024) (by omega) (by omega) (by omega)) (by rw [fldN_ofNat _ _ _ hN]; exact field_at (20 + d.toNat * 128 + a.toNat * 32768) (0) (2 + m.toNat * 1) (by omega) (by omega) (by omega)),
    fld_ofNat _ _ d hN (field_at (20) (d.toNat) (16384 + a.toNat * 8 + m.toNat * 8192) (by omega) (by omega) (by omega)),
    fld_ofNat _ _ a hN (field_at (20 + d.toNat * 128) (a.toNat) (64 + m.toNat * 32) (by omega) (by omega) (by omega)),
    fld_ofNat _ _ m hN (field_at (20 + d.toNat * 128 + a.toNat * 32768) (m.toNat) (1) (by omega) (by omega) (by omega))]

theorem vredmin (d : BitVec 5) (a : BitVec 5) (m : BitVec 1) : Statement (.vredmin d a m) := by
  intro _ _ _
  have hd := d.isLt
  have ha := a.isLt
  have hm := m.isLt
  have hN : 0x8000014 + d.toNat * 128 + a.toNat * 32768 + m.toNat * 33554432 < 2 ^ 32 := by omega
  show decode (BitVec.ofNat 32 (0x8000014 + d.toNat * 128 + a.toNat * 32768 + m.toNat * 33554432)) = _
  rw [decode_vredmin _ (by rw [fldN_ofNat _ _ _ hN]; exact field_at (0) (20) (1048576 + d.toNat * 1 + a.toNat * 256 + m.toNat * 262144) (by omega) (by omega) (by omega)) (by rw [fldN_ofNat _ _ _ hN]; exact field_at (20 + d.toNat * 128 + a.toNat * 32768 + m.toNat * 33554432) (2) (0) (by omega) (by omega) (by omega)) (by rw [fldN_ofNat _ _ _ hN]; exact field_at (20 + d.toNat * 128) (0) (4096 + a.toNat * 1 + m.toNat * 1024) (by omega) (by omega) (by omega)) (by rw [fldN_ofNat _ _ _ hN]; exact field_at (20 + d.toNat * 128 + a.toNat * 32768) (0) (4 + m.toNat * 1) (by omega) (by omega) (by omega)),
    fld_ofNat _ _ d hN (field_at (20) (d.toNat) (32768 + a.toNat * 8 + m.toNat * 8192) (by omega) (by omega) (by omega)),
    fld_ofNat _ _ a hN (field_at (20 + d.toNat * 128) (a.toNat) (128 + m.toNat * 32) (by omega) (by omega) (by omega)),
    fld_ofNat _ _ m hN (field_at (20 + d.toNat * 128 + a.toNat * 32768) (m.toNat) (2) (by omega) (by omega) (by omega))]

theorem vreddot (d : BitVec 5) (a : BitVec 5) (b : BitVec 5) (m : BitVec 1) : Statement (.vreddot d a b m) := by
  intro _ _ _
  have hd := d.isLt
  have ha := a.isLt
  have hb := b.isLt
  have hm := m.isLt
  have hN : 0xC000014 + d.toNat * 128 + a.toNat * 32768 + b.toNat * 1048576 + m.toNat * 33554432 < 2 ^ 32 := by omega
  show decode (BitVec.ofNat 32 (0xC000014 + d.toNat * 128 + a.toNat * 32768 + b.toNat * 1048576 + m.toNat * 33554432)) = _
  rw [decode_vreddot _ (by rw [fldN_ofNat _ _ _ hN]; exact field_at (0) (20) (1572864 + d.toNat * 1 + a.toNat * 256 + b.toNat * 8192 + m.toNat * 262144) (by omega) (by omega) (by omega)) (by rw [fldN_ofNat _ _ _ hN]; exact field_at (20 + d.toNat * 128 + a.toNat * 32768 + b.toNat * 1048576 + m.toNat * 33554432) (3) (0) (by omega) (by omega) (by omega)) (by rw [fldN_ofNat _ _ _ hN]; exact field_at (20 + d.toNat * 128) (0) (6144 + a.toNat * 1 + b.toNat * 32 + m.toNat * 1024) (by omega) (by omega) (by omega)),
    fld_ofNat _ _ d hN (field_at (20) (d.toNat) (49152 + a.toNat * 8 + b.toNat * 256 + m.toNat * 8192) (by omega) (by omega) (by omega)),
    fld_ofNat _ _ a hN (field_at (20 + d.toNat * 128) (a.toNat) (192 + b.toNat * 1 + m.toNat * 32) (by omega) (by omega) (by omega)),
    fld_ofNat _ _ b hN (field_at (20 + d.toNat * 128 + a.toNat * 32768) (b.toNat) (6 + m.toNat * 1) (by omega) (by omega) (by omega)),
    fld_ofNat _ _ m hN (field_at (20 + d.toNat * 128 + a.toNat * 32768 + b.toNat * 1048576) (m.toNat) (3) (by omega) (by omega) (by omega))]

theorem vexp2 (d : BitVec 5) (a : BitVec 5) (m : BitVec 1) : Statement (.vexp2 d a m) := by
  intro _ _ _
  have hd := d.isLt
  have ha := a.isLt
  have hm := m.isLt
  have hN : 0x10000014 + d.toNat * 128 + a.toNat * 32768 + m.toNat * 33554432 < 2 ^ 32 := by omega
  show decode (BitVec.ofNat 32 (0x10000014 + d.toNat * 128 + a.toNat * 32768 + m.toNat * 33554432)) = _
  rw [decode_vexp2 _ (by rw [fldN_ofNat _ _ _ hN]; exact field_at (0) (20) (2097152 + d.toNat * 1 + a.toNat * 256 + m.toNat * 262144) (by omega) (by omega) (by omega)) (by rw [fldN_ofNat _ _ _ hN]; exact field_at (20 + d.toNat * 128 + a.toNat * 32768 + m.toNat * 33554432) (4) (0) (by omega) (by omega) (by omega)) (by rw [fldN_ofNat _ _ _ hN]; exact field_at (20 + d.toNat * 128) (0) (8192 + a.toNat * 1 + m.toNat * 1024) (by omega) (by omega) (by omega)) (by rw [fldN_ofNat _ _ _ hN]; exact field_at (20 + d.toNat * 128 + a.toNat * 32768) (0) (8 + m.toNat * 1) (by omega) (by omega) (by omega)),
    fld_ofNat _ _ d hN (field_at (20) (d.toNat) (65536 + a.toNat * 8 + m.toNat * 8192) (by omega) (by omega) (by omega)),
    fld_ofNat _ _ a hN (field_at (20 + d.toNat * 128) (a.toNat) (256 + m.toNat * 32) (by omega) (by omega) (by omega)),
    fld_ofNat _ _ m hN (field_at (20 + d.toNat * 128 + a.toNat * 32768) (m.toNat) (4) (by omega) (by omega) (by omega))]

theorem vlog2 (d : BitVec 5) (a : BitVec 5) (m : BitVec 1) : Statement (.vlog2 d a m) := by
  intro _ _ _
  have hd := d.isLt
  have ha := a.isLt
  have hm := m.isLt
  have hN : 0x14000014 + d.toNat * 128 + a.toNat * 32768 + m.toNat * 33554432 < 2 ^ 32 := by omega
  show decode (BitVec.ofNat 32 (0x14000014 + d.toNat * 128 + a.toNat * 32768 + m.toNat * 33554432)) = _
  rw [decode_vlog2 _ (by rw [fldN_ofNat _ _ _ hN]; exact field_at (0) (20) (2621440 + d.toNat * 1 + a.toNat * 256 + m.toNat * 262144) (by omega) (by omega) (by omega)) (by rw [fldN_ofNat _ _ _ hN]; exact field_at (20 + d.toNat * 128 + a.toNat * 32768 + m.toNat * 33554432) (5) (0) (by omega) (by omega) (by omega)) (by rw [fldN_ofNat _ _ _ hN]; exact field_at (20 + d.toNat * 128) (0) (10240 + a.toNat * 1 + m.toNat * 1024) (by omega) (by omega) (by omega)) (by rw [fldN_ofNat _ _ _ hN]; exact field_at (20 + d.toNat * 128 + a.toNat * 32768) (0) (10 + m.toNat * 1) (by omega) (by omega) (by omega)),
    fld_ofNat _ _ d hN (field_at (20) (d.toNat) (81920 + a.toNat * 8 + m.toNat * 8192) (by omega) (by omega) (by omega)),
    fld_ofNat _ _ a hN (field_at (20 + d.toNat * 128) (a.toNat) (320 + m.toNat * 32) (by omega) (by omega) (by omega)),
    fld_ofNat _ _ m hN (field_at (20 + d.toNat * 128 + a.toNat * 32768) (m.toNat) (5) (by omega) (by omega) (by omega))]

theorem vrcp (d : BitVec 5) (a : BitVec 5) (m : BitVec 1) : Statement (.vrcp d a m) := by
  intro _ _ _
  have hd := d.isLt
  have ha := a.isLt
  have hm := m.isLt
  have hN : 0x18000014 + d.toNat * 128 + a.toNat * 32768 + m.toNat * 33554432 < 2 ^ 32 := by omega
  show decode (BitVec.ofNat 32 (0x18000014 + d.toNat * 128 + a.toNat * 32768 + m.toNat * 33554432)) = _
  rw [decode_vrcp _ (by rw [fldN_ofNat _ _ _ hN]; exact field_at (0) (20) (3145728 + d.toNat * 1 + a.toNat * 256 + m.toNat * 262144) (by omega) (by omega) (by omega)) (by rw [fldN_ofNat _ _ _ hN]; exact field_at (20 + d.toNat * 128 + a.toNat * 32768 + m.toNat * 33554432) (6) (0) (by omega) (by omega) (by omega)) (by rw [fldN_ofNat _ _ _ hN]; exact field_at (20 + d.toNat * 128) (0) (12288 + a.toNat * 1 + m.toNat * 1024) (by omega) (by omega) (by omega)) (by rw [fldN_ofNat _ _ _ hN]; exact field_at (20 + d.toNat * 128 + a.toNat * 32768) (0) (12 + m.toNat * 1) (by omega) (by omega) (by omega)),
    fld_ofNat _ _ d hN (field_at (20) (d.toNat) (98304 + a.toNat * 8 + m.toNat * 8192) (by omega) (by omega) (by omega)),
    fld_ofNat _ _ a hN (field_at (20 + d.toNat * 128) (a.toNat) (384 + m.toNat * 32) (by omega) (by omega) (by omega)),
    fld_ofNat _ _ m hN (field_at (20 + d.toNat * 128 + a.toNat * 32768) (m.toNat) (6) (by omega) (by omega) (by omega))]

theorem vrsqrt (d : BitVec 5) (a : BitVec 5) (m : BitVec 1) : Statement (.vrsqrt d a m) := by
  intro _ _ _
  have hd := d.isLt
  have ha := a.isLt
  have hm := m.isLt
  have hN : 0x1C000014 + d.toNat * 128 + a.toNat * 32768 + m.toNat * 33554432 < 2 ^ 32 := by omega
  show decode (BitVec.ofNat 32 (0x1C000014 + d.toNat * 128 + a.toNat * 32768 + m.toNat * 33554432)) = _
  rw [decode_vrsqrt _ (by rw [fldN_ofNat _ _ _ hN]; exact field_at (0) (20) (3670016 + d.toNat * 1 + a.toNat * 256 + m.toNat * 262144) (by omega) (by omega) (by omega)) (by rw [fldN_ofNat _ _ _ hN]; exact field_at (20 + d.toNat * 128 + a.toNat * 32768 + m.toNat * 33554432) (7) (0) (by omega) (by omega) (by omega)) (by rw [fldN_ofNat _ _ _ hN]; exact field_at (20 + d.toNat * 128) (0) (14336 + a.toNat * 1 + m.toNat * 1024) (by omega) (by omega) (by omega)) (by rw [fldN_ofNat _ _ _ hN]; exact field_at (20 + d.toNat * 128 + a.toNat * 32768) (0) (14 + m.toNat * 1) (by omega) (by omega) (by omega)),
    fld_ofNat _ _ d hN (field_at (20) (d.toNat) (114688 + a.toNat * 8 + m.toNat * 8192) (by omega) (by omega) (by omega)),
    fld_ofNat _ _ a hN (field_at (20 + d.toNat * 128) (a.toNat) (448 + m.toNat * 32) (by omega) (by omega) (by omega)),
    fld_ofNat _ _ m hN (field_at (20 + d.toNat * 128 + a.toNat * 32768) (m.toNat) (7) (by omega) (by omega) (by omega))]

theorem vtanh (d : BitVec 5) (a : BitVec 5) (m : BitVec 1) : Statement (.vtanh d a m) := by
  intro _ _ _
  have hd := d.isLt
  have ha := a.isLt
  have hm := m.isLt
  have hN : 0x20000014 + d.toNat * 128 + a.toNat * 32768 + m.toNat * 33554432 < 2 ^ 32 := by omega
  show decode (BitVec.ofNat 32 (0x20000014 + d.toNat * 128 + a.toNat * 32768 + m.toNat * 33554432)) = _
  rw [decode_vtanh _ (by rw [fldN_ofNat _ _ _ hN]; exact field_at (0) (20) (4194304 + d.toNat * 1 + a.toNat * 256 + m.toNat * 262144) (by omega) (by omega) (by omega)) (by rw [fldN_ofNat _ _ _ hN]; exact field_at (20 + d.toNat * 128 + a.toNat * 32768 + m.toNat * 33554432) (8) (0) (by omega) (by omega) (by omega)) (by rw [fldN_ofNat _ _ _ hN]; exact field_at (20 + d.toNat * 128) (0) (16384 + a.toNat * 1 + m.toNat * 1024) (by omega) (by omega) (by omega)) (by rw [fldN_ofNat _ _ _ hN]; exact field_at (20 + d.toNat * 128 + a.toNat * 32768) (0) (16 + m.toNat * 1) (by omega) (by omega) (by omega)),
    fld_ofNat _ _ d hN (field_at (20) (d.toNat) (131072 + a.toNat * 8 + m.toNat * 8192) (by omega) (by omega) (by omega)),
    fld_ofNat _ _ a hN (field_at (20 + d.toNat * 128) (a.toNat) (512 + m.toNat * 32) (by omega) (by omega) (by omega)),
    fld_ofNat _ _ m hN (field_at (20 + d.toNat * 128 + a.toNat * 32768) (m.toNat) (8) (by omega) (by omega) (by omega))]

theorem vsigm (d : BitVec 5) (a : BitVec 5) (m : BitVec 1) : Statement (.vsigm d a m) := by
  intro _ _ _
  have hd := d.isLt
  have ha := a.isLt
  have hm := m.isLt
  have hN : 0x24000014 + d.toNat * 128 + a.toNat * 32768 + m.toNat * 33554432 < 2 ^ 32 := by omega
  show decode (BitVec.ofNat 32 (0x24000014 + d.toNat * 128 + a.toNat * 32768 + m.toNat * 33554432)) = _
  rw [decode_vsigm _ (by rw [fldN_ofNat _ _ _ hN]; exact field_at (0) (20) (4718592 + d.toNat * 1 + a.toNat * 256 + m.toNat * 262144) (by omega) (by omega) (by omega)) (by rw [fldN_ofNat _ _ _ hN]; exact field_at (20 + d.toNat * 128 + a.toNat * 32768 + m.toNat * 33554432) (9) (0) (by omega) (by omega) (by omega)) (by rw [fldN_ofNat _ _ _ hN]; exact field_at (20 + d.toNat * 128) (0) (18432 + a.toNat * 1 + m.toNat * 1024) (by omega) (by omega) (by omega)) (by rw [fldN_ofNat _ _ _ hN]; exact field_at (20 + d.toNat * 128 + a.toNat * 32768) (0) (18 + m.toNat * 1) (by omega) (by omega) (by omega)),
    fld_ofNat _ _ d hN (field_at (20) (d.toNat) (147456 + a.toNat * 8 + m.toNat * 8192) (by omega) (by omega) (by omega)),
    fld_ofNat _ _ a hN (field_at (20 + d.toNat * 128) (a.toNat) (576 + m.toNat * 32) (by omega) (by omega) (by omega)),
    fld_ofNat _ _ m hN (field_at (20 + d.toNat * 128 + a.toNat * 32768) (m.toNat) (9) (by omega) (by omega) (by omega))]

theorem vmodadd (d : BitVec 5) (k : BitVec 3) (a : BitVec 5) (b : BitVec 5) (m : BitVec 1) : Statement (.vmodadd d k a b m) := by
  intro _ _ _
  have hd := d.isLt
  have hk := k.isLt
  have ha := a.isLt
  have hb := b.isLt
  have hm := m.isLt
  have hN : 0x15 + d.toNat * 128 + k.toNat * 4096 + a.toNat * 32768 + b.toNat * 1048576 + m.toNat * 33554432 < 2 ^ 32 := by omega
  show decode (BitVec.ofNat 32 (0x15 + d.toNat * 128 + k.toNat * 4096 + a.toNat * 32768 + b.toNat * 1048576 + m.toNat * 33554432)) = _
  rw [decode_vmodadd _ (by rw [fldN_ofNat _ _ _ hN]; exact field_at (0) (21) (0 + d.toNat * 1 + k.toNat * 32 + a.toNat * 256 + b.toNat * 8192 + m.toNat * 262144) (by omega) (by omega) (by omega)) (by rw [fldN_ofNat _ _ _ hN]; exact field_at (21 + d.toNat * 128 + k.toNat * 4096 + a.toNat * 32768 + b.toNat * 1048576 + m.toNat * 33554432) (0) (0) (by omega) (by omega) (by omega)),
    fld_ofNat _ _ d hN (field_at (21) (d.toNat) (0 + k.toNat * 1 + a.toNat * 8 + b.toNat * 256 + m.toNat * 8192) (by omega) (by omega) (by omega)),
    fld_ofNat _ _ k hN (field_at (21 + d.toNat * 128) (k.toNat) (0 + a.toNat * 1 + b.toNat * 32 + m.toNat * 1024) (by omega) (by omega) (by omega)),
    fld_ofNat _ _ a hN (field_at (21 + d.toNat * 128 + k.toNat * 4096) (a.toNat) (0 + b.toNat * 1 + m.toNat * 32) (by omega) (by omega) (by omega)),
    fld_ofNat _ _ b hN (field_at (21 + d.toNat * 128 + k.toNat * 4096 + a.toNat * 32768) (b.toNat) (0 + m.toNat * 1) (by omega) (by omega) (by omega)),
    fld_ofNat _ _ m hN (field_at (21 + d.toNat * 128 + k.toNat * 4096 + a.toNat * 32768 + b.toNat * 1048576) (m.toNat) (0) (by omega) (by omega) (by omega))]

theorem vmodsub (d : BitVec 5) (k : BitVec 3) (a : BitVec 5) (b : BitVec 5) (m : BitVec 1) : Statement (.vmodsub d k a b m) := by
  intro _ _ _
  have hd := d.isLt
  have hk := k.isLt
  have ha := a.isLt
  have hb := b.isLt
  have hm := m.isLt
  have hN : 0x4000015 + d.toNat * 128 + k.toNat * 4096 + a.toNat * 32768 + b.toNat * 1048576 + m.toNat * 33554432 < 2 ^ 32 := by omega
  show decode (BitVec.ofNat 32 (0x4000015 + d.toNat * 128 + k.toNat * 4096 + a.toNat * 32768 + b.toNat * 1048576 + m.toNat * 33554432)) = _
  rw [decode_vmodsub _ (by rw [fldN_ofNat _ _ _ hN]; exact field_at (0) (21) (524288 + d.toNat * 1 + k.toNat * 32 + a.toNat * 256 + b.toNat * 8192 + m.toNat * 262144) (by omega) (by omega) (by omega)) (by rw [fldN_ofNat _ _ _ hN]; exact field_at (21 + d.toNat * 128 + k.toNat * 4096 + a.toNat * 32768 + b.toNat * 1048576 + m.toNat * 33554432) (1) (0) (by omega) (by omega) (by omega)),
    fld_ofNat _ _ d hN (field_at (21) (d.toNat) (16384 + k.toNat * 1 + a.toNat * 8 + b.toNat * 256 + m.toNat * 8192) (by omega) (by omega) (by omega)),
    fld_ofNat _ _ k hN (field_at (21 + d.toNat * 128) (k.toNat) (2048 + a.toNat * 1 + b.toNat * 32 + m.toNat * 1024) (by omega) (by omega) (by omega)),
    fld_ofNat _ _ a hN (field_at (21 + d.toNat * 128 + k.toNat * 4096) (a.toNat) (64 + b.toNat * 1 + m.toNat * 32) (by omega) (by omega) (by omega)),
    fld_ofNat _ _ b hN (field_at (21 + d.toNat * 128 + k.toNat * 4096 + a.toNat * 32768) (b.toNat) (2 + m.toNat * 1) (by omega) (by omega) (by omega)),
    fld_ofNat _ _ m hN (field_at (21 + d.toNat * 128 + k.toNat * 4096 + a.toNat * 32768 + b.toNat * 1048576) (m.toNat) (1) (by omega) (by omega) (by omega))]

theorem vmodmul (d : BitVec 5) (k : BitVec 3) (a : BitVec 5) (b : BitVec 5) (m : BitVec 1) : Statement (.vmodmul d k a b m) := by
  intro _ _ _
  have hd := d.isLt
  have hk := k.isLt
  have ha := a.isLt
  have hb := b.isLt
  have hm := m.isLt
  have hN : 0x8000015 + d.toNat * 128 + k.toNat * 4096 + a.toNat * 32768 + b.toNat * 1048576 + m.toNat * 33554432 < 2 ^ 32 := by omega
  show decode (BitVec.ofNat 32 (0x8000015 + d.toNat * 128 + k.toNat * 4096 + a.toNat * 32768 + b.toNat * 1048576 + m.toNat * 33554432)) = _
  rw [decode_vmodmul _ (by rw [fldN_ofNat _ _ _ hN]; exact field_at (0) (21) (1048576 + d.toNat * 1 + k.toNat * 32 + a.toNat * 256 + b.toNat * 8192 + m.toNat * 262144) (by omega) (by omega) (by omega)) (by rw [fldN_ofNat _ _ _ hN]; exact field_at (21 + d.toNat * 128 + k.toNat * 4096 + a.toNat * 32768 + b.toNat * 1048576 + m.toNat * 33554432) (2) (0) (by omega) (by omega) (by omega)),
    fld_ofNat _ _ d hN (field_at (21) (d.toNat) (32768 + k.toNat * 1 + a.toNat * 8 + b.toNat * 256 + m.toNat * 8192) (by omega) (by omega) (by omega)),
    fld_ofNat _ _ k hN (field_at (21 + d.toNat * 128) (k.toNat) (4096 + a.toNat * 1 + b.toNat * 32 + m.toNat * 1024) (by omega) (by omega) (by omega)),
    fld_ofNat _ _ a hN (field_at (21 + d.toNat * 128 + k.toNat * 4096) (a.toNat) (128 + b.toNat * 1 + m.toNat * 32) (by omega) (by omega) (by omega)),
    fld_ofNat _ _ b hN (field_at (21 + d.toNat * 128 + k.toNat * 4096 + a.toNat * 32768) (b.toNat) (4 + m.toNat * 1) (by omega) (by omega) (by omega)),
    fld_ofNat _ _ m hN (field_at (21 + d.toNat * 128 + k.toNat * 4096 + a.toNat * 32768 + b.toNat * 1048576) (m.toNat) (2) (by omega) (by omega) (by omega))]

theorem vmodred (d : BitVec 5) (a : BitVec 5) (m : BitVec 1) : Statement (.vmodred d a m) := by
  intro _ _ _
  have hd := d.isLt
  have ha := a.isLt
  have hm := m.isLt
  have hN : 0xC000015 + d.toNat * 128 + a.toNat * 32768 + m.toNat * 33554432 < 2 ^ 32 := by omega
  show decode (BitVec.ofNat 32 (0xC000015 + d.toNat * 128 + a.toNat * 32768 + m.toNat * 33554432)) = _
  rw [decode_vmodred _ (by rw [fldN_ofNat _ _ _ hN]; exact field_at (0) (21) (1572864 + d.toNat * 1 + a.toNat * 256 + m.toNat * 262144) (by omega) (by omega) (by omega)) (by rw [fldN_ofNat _ _ _ hN]; exact field_at (21 + d.toNat * 128 + a.toNat * 32768 + m.toNat * 33554432) (3) (0) (by omega) (by omega) (by omega)) (by rw [fldN_ofNat _ _ _ hN]; exact field_at (21 + d.toNat * 128) (0) (6144 + a.toNat * 1 + m.toNat * 1024) (by omega) (by omega) (by omega)) (by rw [fldN_ofNat _ _ _ hN]; exact field_at (21 + d.toNat * 128 + a.toNat * 32768) (0) (6 + m.toNat * 1) (by omega) (by omega) (by omega)),
    fld_ofNat _ _ d hN (field_at (21) (d.toNat) (49152 + a.toNat * 8 + m.toNat * 8192) (by omega) (by omega) (by omega)),
    fld_ofNat _ _ a hN (field_at (21 + d.toNat * 128) (a.toNat) (192 + m.toNat * 32) (by omega) (by omega) (by omega)),
    fld_ofNat _ _ m hN (field_at (21 + d.toNat * 128 + a.toNat * 32768) (m.toNat) (3) (by omega) (by omega) (by omega))]

theorem vbflyct (d : BitVec 5) (k : BitVec 3) (a : BitVec 5) (b : BitVec 5) (m : BitVec 1) : Statement (.vbflyct d k a b m) := by
  intro _ _ _
  have hd := d.isLt
  have hk := k.isLt
  have ha := a.isLt
  have hb := b.isLt
  have hm := m.isLt
  have hN : 0x10000015 + d.toNat * 128 + k.toNat * 4096 + a.toNat * 32768 + b.toNat * 1048576 + m.toNat * 33554432 < 2 ^ 32 := by omega
  show decode (BitVec.ofNat 32 (0x10000015 + d.toNat * 128 + k.toNat * 4096 + a.toNat * 32768 + b.toNat * 1048576 + m.toNat * 33554432)) = _
  rw [decode_vbflyct _ (by rw [fldN_ofNat _ _ _ hN]; exact field_at (0) (21) (2097152 + d.toNat * 1 + k.toNat * 32 + a.toNat * 256 + b.toNat * 8192 + m.toNat * 262144) (by omega) (by omega) (by omega)) (by rw [fldN_ofNat _ _ _ hN]; exact field_at (21 + d.toNat * 128 + k.toNat * 4096 + a.toNat * 32768 + b.toNat * 1048576 + m.toNat * 33554432) (4) (0) (by omega) (by omega) (by omega)),
    fld_ofNat _ _ d hN (field_at (21) (d.toNat) (65536 + k.toNat * 1 + a.toNat * 8 + b.toNat * 256 + m.toNat * 8192) (by omega) (by omega) (by omega)),
    fld_ofNat _ _ k hN (field_at (21 + d.toNat * 128) (k.toNat) (8192 + a.toNat * 1 + b.toNat * 32 + m.toNat * 1024) (by omega) (by omega) (by omega)),
    fld_ofNat _ _ a hN (field_at (21 + d.toNat * 128 + k.toNat * 4096) (a.toNat) (256 + b.toNat * 1 + m.toNat * 32) (by omega) (by omega) (by omega)),
    fld_ofNat _ _ b hN (field_at (21 + d.toNat * 128 + k.toNat * 4096 + a.toNat * 32768) (b.toNat) (8 + m.toNat * 1) (by omega) (by omega) (by omega)),
    fld_ofNat _ _ m hN (field_at (21 + d.toNat * 128 + k.toNat * 4096 + a.toNat * 32768 + b.toNat * 1048576) (m.toNat) (4) (by omega) (by omega) (by omega))]

theorem vbflygs (d : BitVec 5) (k : BitVec 3) (a : BitVec 5) (b : BitVec 5) (m : BitVec 1) : Statement (.vbflygs d k a b m) := by
  intro _ _ _
  have hd := d.isLt
  have hk := k.isLt
  have ha := a.isLt
  have hb := b.isLt
  have hm := m.isLt
  have hN : 0x14000015 + d.toNat * 128 + k.toNat * 4096 + a.toNat * 32768 + b.toNat * 1048576 + m.toNat * 33554432 < 2 ^ 32 := by omega
  show decode (BitVec.ofNat 32 (0x14000015 + d.toNat * 128 + k.toNat * 4096 + a.toNat * 32768 + b.toNat * 1048576 + m.toNat * 33554432)) = _
  rw [decode_vbflygs _ (by rw [fldN_ofNat _ _ _ hN]; exact field_at (0) (21) (2621440 + d.toNat * 1 + k.toNat * 32 + a.toNat * 256 + b.toNat * 8192 + m.toNat * 262144) (by omega) (by omega) (by omega)) (by rw [fldN_ofNat _ _ _ hN]; exact field_at (21 + d.toNat * 128 + k.toNat * 4096 + a.toNat * 32768 + b.toNat * 1048576 + m.toNat * 33554432) (5) (0) (by omega) (by omega) (by omega)),
    fld_ofNat _ _ d hN (field_at (21) (d.toNat) (81920 + k.toNat * 1 + a.toNat * 8 + b.toNat * 256 + m.toNat * 8192) (by omega) (by omega) (by omega)),
    fld_ofNat _ _ k hN (field_at (21 + d.toNat * 128) (k.toNat) (10240 + a.toNat * 1 + b.toNat * 32 + m.toNat * 1024) (by omega) (by omega) (by omega)),
    fld_ofNat _ _ a hN (field_at (21 + d.toNat * 128 + k.toNat * 4096) (a.toNat) (320 + b.toNat * 1 + m.toNat * 32) (by omega) (by omega) (by omega)),
    fld_ofNat _ _ b hN (field_at (21 + d.toNat * 128 + k.toNat * 4096 + a.toNat * 32768) (b.toNat) (10 + m.toNat * 1) (by omega) (by omega) (by omega)),
    fld_ofNat _ _ m hN (field_at (21 + d.toNat * 128 + k.toNat * 4096 + a.toNat * 32768 + b.toNat * 1048576) (m.toNat) (5) (by omega) (by omega) (by omega))]

theorem vld (d : BitVec 5) (a : BitVec 5) (m : BitVec 1) : Statement (.vld d a m) := by
  intro _ _ _
  have hd := d.isLt
  have ha := a.isLt
  have hm := m.isLt
  have hN : 0x16 + d.toNat * 128 + a.toNat * 32768 + m.toNat * 33554432 < 2 ^ 32 := by omega
  show decode (BitVec.ofNat 32 (0x16 + d.toNat * 128 + a.toNat * 32768 + m.toNat * 33554432)) = _
  rw [decode_vld _ (by rw [fldN_ofNat _ _ _ hN]; exact field_at (0) (22) (0 + d.toNat * 1 + a.toNat * 256 + m.toNat * 262144) (by omega) (by omega) (by omega)) (by rw [fldN_ofNat _ _ _ hN]; exact field_at (22 + d.toNat * 128) (0) (0 + a.toNat * 1 + m.toNat * 1024) (by omega) (by omega) (by omega)) (by rw [fldN_ofNat _ _ _ hN]; exact field_at (22 + d.toNat * 128 + a.toNat * 32768) (0) (0 + m.toNat * 1) (by omega) (by omega) (by omega)) (by rw [fldN_ofNat _ _ _ hN]; exact field_at (22 + d.toNat * 128 + a.toNat * 32768 + m.toNat * 33554432) (0) (0) (by omega) (by omega) (by omega)),
    fld_ofNat _ _ d hN (field_at (22) (d.toNat) (0 + a.toNat * 8 + m.toNat * 8192) (by omega) (by omega) (by omega)),
    fld_ofNat _ _ a hN (field_at (22 + d.toNat * 128) (a.toNat) (0 + m.toNat * 32) (by omega) (by omega) (by omega)),
    fld_ofNat _ _ m hN (field_at (22 + d.toNat * 128 + a.toNat * 32768) (m.toNat) (0) (by omega) (by omega) (by omega))]

theorem vlds (d : BitVec 5) (a : BitVec 5) (b : BitVec 5) (m : BitVec 1) : Statement (.vlds d a b m) := by
  intro _ _ _
  have hd := d.isLt
  have ha := a.isLt
  have hb := b.isLt
  have hm := m.isLt
  have hN : 0x1016 + d.toNat * 128 + a.toNat * 32768 + b.toNat * 1048576 + m.toNat * 33554432 < 2 ^ 32 := by omega
  show decode (BitVec.ofNat 32 (0x1016 + d.toNat * 128 + a.toNat * 32768 + b.toNat * 1048576 + m.toNat * 33554432)) = _
  rw [decode_vlds _ (by rw [fldN_ofNat _ _ _ hN]; exact field_at (0) (22) (32 + d.toNat * 1 + a.toNat * 256 + b.toNat * 8192 + m.toNat * 262144) (by omega) (by omega) (by omega)) (by rw [fldN_ofNat _ _ _ hN]; exact field_at (22 + d.toNat * 128) (1) (0 + a.toNat * 1 + b.toNat * 32 + m.toNat * 1024) (by omega) (by omega) (by omega)) (by rw [fldN_ofNat _ _ _ hN]; exact field_at (4118 + d.toNat * 128 + a.toNat * 32768 + b.toNat * 1048576 + m.toNat * 33554432) (0) (0) (by omega) (by omega) (by omega)),
    fld_ofNat _ _ d hN (field_at (22) (d.toNat) (1 + a.toNat * 8 + b.toNat * 256 + m.toNat * 8192) (by omega) (by omega) (by omega)),
    fld_ofNat _ _ a hN (field_at (4118 + d.toNat * 128) (a.toNat) (0 + b.toNat * 1 + m.toNat * 32) (by omega) (by omega) (by omega)),
    fld_ofNat _ _ b hN (field_at (4118 + d.toNat * 128 + a.toNat * 32768) (b.toNat) (0 + m.toNat * 1) (by omega) (by omega) (by omega)),
    fld_ofNat _ _ m hN (field_at (4118 + d.toNat * 128 + a.toNat * 32768 + b.toNat * 1048576) (m.toNat) (0) (by omega) (by omega) (by omega))]

theorem vldx (d : BitVec 5) (a : BitVec 5) (b : BitVec 5) (m : BitVec 1) : Statement (.vldx d a b m) := by
  intro _ _ _
  have hd := d.isLt
  have ha := a.isLt
  have hb := b.isLt
  have hm := m.isLt
  have hN : 0x2016 + d.toNat * 128 + a.toNat * 32768 + b.toNat * 1048576 + m.toNat * 33554432 < 2 ^ 32 := by omega
  show decode (BitVec.ofNat 32 (0x2016 + d.toNat * 128 + a.toNat * 32768 + b.toNat * 1048576 + m.toNat * 33554432)) = _
  rw [decode_vldx _ (by rw [fldN_ofNat _ _ _ hN]; exact field_at (0) (22) (64 + d.toNat * 1 + a.toNat * 256 + b.toNat * 8192 + m.toNat * 262144) (by omega) (by omega) (by omega)) (by rw [fldN_ofNat _ _ _ hN]; exact field_at (22 + d.toNat * 128) (2) (0 + a.toNat * 1 + b.toNat * 32 + m.toNat * 1024) (by omega) (by omega) (by omega)) (by rw [fldN_ofNat _ _ _ hN]; exact field_at (8214 + d.toNat * 128 + a.toNat * 32768 + b.toNat * 1048576 + m.toNat * 33554432) (0) (0) (by omega) (by omega) (by omega)),
    fld_ofNat _ _ d hN (field_at (22) (d.toNat) (2 + a.toNat * 8 + b.toNat * 256 + m.toNat * 8192) (by omega) (by omega) (by omega)),
    fld_ofNat _ _ a hN (field_at (8214 + d.toNat * 128) (a.toNat) (0 + b.toNat * 1 + m.toNat * 32) (by omega) (by omega) (by omega)),
    fld_ofNat _ _ b hN (field_at (8214 + d.toNat * 128 + a.toNat * 32768) (b.toNat) (0 + m.toNat * 1) (by omega) (by omega) (by omega)),
    fld_ofNat _ _ m hN (field_at (8214 + d.toNat * 128 + a.toNat * 32768 + b.toNat * 1048576) (m.toNat) (0) (by omega) (by omega) (by omega))]

theorem vfill (d : BitVec 5) (a : BitVec 5) : Statement (.vfill d a) := by
  intro _ _ _
  have hd := d.isLt
  have ha := a.isLt
  have hN : 0x3016 + d.toNat * 128 + a.toNat * 32768 < 2 ^ 32 := by omega
  show decode (BitVec.ofNat 32 (0x3016 + d.toNat * 128 + a.toNat * 32768)) = _
  rw [decode_vfill _ (by rw [fldN_ofNat _ _ _ hN]; exact field_at (0) (22) (96 + d.toNat * 1 + a.toNat * 256) (by omega) (by omega) (by omega)) (by rw [fldN_ofNat _ _ _ hN]; exact field_at (22 + d.toNat * 128) (3) (0 + a.toNat * 1) (by omega) (by omega) (by omega)) (by rw [fldN_ofNat _ _ _ hN]; exact field_at (12310 + d.toNat * 128 + a.toNat * 32768) (0) (0) (by omega) (by omega) (by omega)),
    fld_ofNat _ _ d hN (field_at (22) (d.toNat) (3 + a.toNat * 8) (by omega) (by omega) (by omega)),
    fld_ofNat _ _ a hN (field_at (12310 + d.toNat * 128) (a.toNat) (0) (by omega) (by omega) (by omega))]

theorem vst (d : BitVec 5) (a : BitVec 5) (m : BitVec 1) : Statement (.vst d a m) := by
  intro _ _ _
  have hd := d.isLt
  have ha := a.isLt
  have hm := m.isLt
  have hN : 0x17 + d.toNat * 128 + a.toNat * 32768 + m.toNat * 33554432 < 2 ^ 32 := by omega
  show decode (BitVec.ofNat 32 (0x17 + d.toNat * 128 + a.toNat * 32768 + m.toNat * 33554432)) = _
  rw [decode_vst _ (by rw [fldN_ofNat _ _ _ hN]; exact field_at (0) (23) (0 + d.toNat * 1 + a.toNat * 256 + m.toNat * 262144) (by omega) (by omega) (by omega)) (by rw [fldN_ofNat _ _ _ hN]; exact field_at (23 + d.toNat * 128) (0) (0 + a.toNat * 1 + m.toNat * 1024) (by omega) (by omega) (by omega)) (by rw [fldN_ofNat _ _ _ hN]; exact field_at (23 + d.toNat * 128 + a.toNat * 32768) (0) (0 + m.toNat * 1) (by omega) (by omega) (by omega)) (by rw [fldN_ofNat _ _ _ hN]; exact field_at (23 + d.toNat * 128 + a.toNat * 32768 + m.toNat * 33554432) (0) (0) (by omega) (by omega) (by omega)),
    fld_ofNat _ _ d hN (field_at (23) (d.toNat) (0 + a.toNat * 8 + m.toNat * 8192) (by omega) (by omega) (by omega)),
    fld_ofNat _ _ a hN (field_at (23 + d.toNat * 128) (a.toNat) (0 + m.toNat * 32) (by omega) (by omega) (by omega)),
    fld_ofNat _ _ m hN (field_at (23 + d.toNat * 128 + a.toNat * 32768) (m.toNat) (0) (by omega) (by omega) (by omega))]

theorem vsts (d : BitVec 5) (a : BitVec 5) (b : BitVec 5) (m : BitVec 1) : Statement (.vsts d a b m) := by
  intro _ _ _
  have hd := d.isLt
  have ha := a.isLt
  have hb := b.isLt
  have hm := m.isLt
  have hN : 0x1017 + d.toNat * 128 + a.toNat * 32768 + b.toNat * 1048576 + m.toNat * 33554432 < 2 ^ 32 := by omega
  show decode (BitVec.ofNat 32 (0x1017 + d.toNat * 128 + a.toNat * 32768 + b.toNat * 1048576 + m.toNat * 33554432)) = _
  rw [decode_vsts _ (by rw [fldN_ofNat _ _ _ hN]; exact field_at (0) (23) (32 + d.toNat * 1 + a.toNat * 256 + b.toNat * 8192 + m.toNat * 262144) (by omega) (by omega) (by omega)) (by rw [fldN_ofNat _ _ _ hN]; exact field_at (23 + d.toNat * 128) (1) (0 + a.toNat * 1 + b.toNat * 32 + m.toNat * 1024) (by omega) (by omega) (by omega)) (by rw [fldN_ofNat _ _ _ hN]; exact field_at (4119 + d.toNat * 128 + a.toNat * 32768 + b.toNat * 1048576 + m.toNat * 33554432) (0) (0) (by omega) (by omega) (by omega)),
    fld_ofNat _ _ d hN (field_at (23) (d.toNat) (1 + a.toNat * 8 + b.toNat * 256 + m.toNat * 8192) (by omega) (by omega) (by omega)),
    fld_ofNat _ _ a hN (field_at (4119 + d.toNat * 128) (a.toNat) (0 + b.toNat * 1 + m.toNat * 32) (by omega) (by omega) (by omega)),
    fld_ofNat _ _ b hN (field_at (4119 + d.toNat * 128 + a.toNat * 32768) (b.toNat) (0 + m.toNat * 1) (by omega) (by omega) (by omega)),
    fld_ofNat _ _ m hN (field_at (4119 + d.toNat * 128 + a.toNat * 32768 + b.toNat * 1048576) (m.toNat) (0) (by omega) (by omega) (by omega))]

theorem vstx (d : BitVec 5) (a : BitVec 5) (b : BitVec 5) (m : BitVec 1) : Statement (.vstx d a b m) := by
  intro _ _ _
  have hd := d.isLt
  have ha := a.isLt
  have hb := b.isLt
  have hm := m.isLt
  have hN : 0x2017 + d.toNat * 128 + a.toNat * 32768 + b.toNat * 1048576 + m.toNat * 33554432 < 2 ^ 32 := by omega
  show decode (BitVec.ofNat 32 (0x2017 + d.toNat * 128 + a.toNat * 32768 + b.toNat * 1048576 + m.toNat * 33554432)) = _
  rw [decode_vstx _ (by rw [fldN_ofNat _ _ _ hN]; exact field_at (0) (23) (64 + d.toNat * 1 + a.toNat * 256 + b.toNat * 8192 + m.toNat * 262144) (by omega) (by omega) (by omega)) (by rw [fldN_ofNat _ _ _ hN]; exact field_at (23 + d.toNat * 128) (2) (0 + a.toNat * 1 + b.toNat * 32 + m.toNat * 1024) (by omega) (by omega) (by omega)) (by rw [fldN_ofNat _ _ _ hN]; exact field_at (8215 + d.toNat * 128 + a.toNat * 32768 + b.toNat * 1048576 + m.toNat * 33554432) (0) (0) (by omega) (by omega) (by omega)),
    fld_ofNat _ _ d hN (field_at (23) (d.toNat) (2 + a.toNat * 8 + b.toNat * 256 + m.toNat * 8192) (by omega) (by omega) (by omega)),
    fld_ofNat _ _ a hN (field_at (8215 + d.toNat * 128) (a.toNat) (0 + b.toNat * 1 + m.toNat * 32) (by omega) (by omega) (by omega)),
    fld_ofNat _ _ b hN (field_at (8215 + d.toNat * 128 + a.toNat * 32768) (b.toNat) (0 + m.toNat * 1) (by omega) (by omega) (by omega)),
    fld_ofNat _ _ m hN (field_at (8215 + d.toNat * 128 + a.toNat * 32768 + b.toNat * 1048576) (m.toNat) (0) (by omega) (by omega) (by omega))]

theorem vscadd (d : BitVec 5) (a : BitVec 5) (b : BitVec 5) (m : BitVec 1) : Statement (.vscadd d a b m) := by
  intro _ _ _
  have hd := d.isLt
  have ha := a.isLt
  have hb := b.isLt
  have hm := m.isLt
  have hN : 0x3017 + d.toNat * 128 + a.toNat * 32768 + b.toNat * 1048576 + m.toNat * 33554432 < 2 ^ 32 := by omega
  show decode (BitVec.ofNat 32 (0x3017 + d.toNat * 128 + a.toNat * 32768 + b.toNat * 1048576 + m.toNat * 33554432)) = _
  rw [decode_vscadd _ (by rw [fldN_ofNat _ _ _ hN]; exact field_at (0) (23) (96 + d.toNat * 1 + a.toNat * 256 + b.toNat * 8192 + m.toNat * 262144) (by omega) (by omega) (by omega)) (by rw [fldN_ofNat _ _ _ hN]; exact field_at (23 + d.toNat * 128) (3) (0 + a.toNat * 1 + b.toNat * 32 + m.toNat * 1024) (by omega) (by omega) (by omega)) (by rw [fldN_ofNat _ _ _ hN]; exact field_at (12311 + d.toNat * 128 + a.toNat * 32768 + b.toNat * 1048576 + m.toNat * 33554432) (0) (0) (by omega) (by omega) (by omega)),
    fld_ofNat _ _ d hN (field_at (23) (d.toNat) (3 + a.toNat * 8 + b.toNat * 256 + m.toNat * 8192) (by omega) (by omega) (by omega)),
    fld_ofNat _ _ a hN (field_at (12311 + d.toNat * 128) (a.toNat) (0 + b.toNat * 1 + m.toNat * 32) (by omega) (by omega) (by omega)),
    fld_ofNat _ _ b hN (field_at (12311 + d.toNat * 128 + a.toNat * 32768) (b.toNat) (0 + m.toNat * 1) (by omega) (by omega) (by omega)),
    fld_ofNat _ _ m hN (field_at (12311 + d.toNat * 128 + a.toNat * 32768 + b.toNat * 1048576) (m.toNat) (0) (by omega) (by omega) (by omega))]

theorem vspill (d : BitVec 5) (a : BitVec 5) : Statement (.vspill d a) := by
  intro _ _ _
  have hd := d.isLt
  have ha := a.isLt
  have hN : 0x4017 + d.toNat * 128 + a.toNat * 32768 < 2 ^ 32 := by omega
  show decode (BitVec.ofNat 32 (0x4017 + d.toNat * 128 + a.toNat * 32768)) = _
  rw [decode_vspill _ (by rw [fldN_ofNat _ _ _ hN]; exact field_at (0) (23) (128 + d.toNat * 1 + a.toNat * 256) (by omega) (by omega) (by omega)) (by rw [fldN_ofNat _ _ _ hN]; exact field_at (23 + d.toNat * 128) (4) (0 + a.toNat * 1) (by omega) (by omega) (by omega)) (by rw [fldN_ofNat _ _ _ hN]; exact field_at (16407 + d.toNat * 128 + a.toNat * 32768) (0) (0) (by omega) (by omega) (by omega)),
    fld_ofNat _ _ d hN (field_at (23) (d.toNat) (4 + a.toNat * 8) (by omega) (by omega) (by omega)),
    fld_ofNat _ _ a hN (field_at (16407 + d.toNat * 128) (a.toNat) (0) (by omega) (by omega) (by omega))]

theorem stbind (d : BitVec 5) (a : BitVec 5) : Statement (.stbind d a) := by
  intro _ _ _
  have hd := d.isLt
  have ha := a.isLt
  have hN : 0x18 + d.toNat * 128 + a.toNat * 32768 < 2 ^ 32 := by omega
  show decode (BitVec.ofNat 32 (0x18 + d.toNat * 128 + a.toNat * 32768)) = _
  rw [decode_stbind _ (by rw [fldN_ofNat _ _ _ hN]; exact field_at (0) (24) (0 + d.toNat * 1 + a.toNat * 256) (by omega) (by omega) (by omega)) (by rw [fldN_ofNat _ _ _ hN]; exact field_at (24 + d.toNat * 128 + a.toNat * 32768) (0) (0) (by omega) (by omega) (by omega)) (by rw [fldN_ofNat _ _ _ hN]; exact field_at (24 + d.toNat * 128) (0) (0 + a.toNat * 1) (by omega) (by omega) (by omega)) (by rw [fldN_ofNat _ _ _ hN]; exact field_at (24 + d.toNat * 128 + a.toNat * 32768) (0) (0) (by omega) (by omega) (by omega)),
    fld_ofNat _ _ d hN (field_at (24) (d.toNat) (0 + a.toNat * 8) (by omega) (by omega) (by omega)),
    fld_ofNat _ _ a hN (field_at (24 + d.toNat * 128) (a.toNat) (0) (by omega) (by omega) (by omega))]

theorem strbind (d : BitVec 5) (a : BitVec 5) : Statement (.strbind d a) := by
  intro _ _ _
  have hd := d.isLt
  have ha := a.isLt
  have hN : 0x2000018 + d.toNat * 128 + a.toNat * 32768 < 2 ^ 32 := by omega
  show decode (BitVec.ofNat 32 (0x2000018 + d.toNat * 128 + a.toNat * 32768)) = _
  rw [decode_strbind _ (by rw [fldN_ofNat _ _ _ hN]; exact field_at (0) (24) (262144 + d.toNat * 1 + a.toNat * 256) (by omega) (by omega) (by omega)) (by rw [fldN_ofNat _ _ _ hN]; exact field_at (24 + d.toNat * 128 + a.toNat * 32768) (1) (0) (by omega) (by omega) (by omega)) (by rw [fldN_ofNat _ _ _ hN]; exact field_at (24 + d.toNat * 128) (0) (1024 + a.toNat * 1) (by omega) (by omega) (by omega)) (by rw [fldN_ofNat _ _ _ hN]; exact field_at (24 + d.toNat * 128 + a.toNat * 32768) (0) (1) (by omega) (by omega) (by omega)),
    fld_ofNat _ _ d hN (field_at (24) (d.toNat) (8192 + a.toNat * 8) (by omega) (by omega) (by omega)),
    fld_ofNat _ _ a hN (field_at (24 + d.toNat * 128) (a.toNat) (32) (by omega) (by omega) (by omega))]

theorem stfbind (d : BitVec 5) (a : BitVec 5) : Statement (.stfbind d a) := by
  intro _ _ _
  have hd := d.isLt
  have ha := a.isLt
  have hN : 0x4000018 + d.toNat * 128 + a.toNat * 32768 < 2 ^ 32 := by omega
  show decode (BitVec.ofNat 32 (0x4000018 + d.toNat * 128 + a.toNat * 32768)) = _
  rw [decode_stfbind _ (by rw [fldN_ofNat _ _ _ hN]; exact field_at (0) (24) (524288 + d.toNat * 1 + a.toNat * 256) (by omega) (by omega) (by omega)) (by rw [fldN_ofNat _ _ _ hN]; exact field_at (24 + d.toNat * 128 + a.toNat * 32768) (2) (0) (by omega) (by omega) (by omega)) (by rw [fldN_ofNat _ _ _ hN]; exact field_at (24 + d.toNat * 128) (0) (2048 + a.toNat * 1) (by omega) (by omega) (by omega)) (by rw [fldN_ofNat _ _ _ hN]; exact field_at (24 + d.toNat * 128 + a.toNat * 32768) (0) (2) (by omega) (by omega) (by omega)),
    fld_ofNat _ _ d hN (field_at (24) (d.toNat) (16384 + a.toNat * 8) (by omega) (by omega) (by omega)),
    fld_ofNat _ _ a hN (field_at (24 + d.toNat * 128) (a.toNat) (64) (by omega) (by omega) (by omega))]

theorem stunbind (d : BitVec 5) : Statement (.stunbind d) := by
  intro _ _ _
  have hd := d.isLt
  have hN : 0x6000018 + d.toNat * 128 < 2 ^ 32 := by omega
  show decode (BitVec.ofNat 32 (0x6000018 + d.toNat * 128)) = _
  rw [decode_stunbind _ (by rw [fldN_ofNat _ _ _ hN]; exact field_at (0) (24) (786432 + d.toNat * 1) (by omega) (by omega) (by omega)) (by rw [fldN_ofNat _ _ _ hN]; exact field_at (24 + d.toNat * 128) (3) (0) (by omega) (by omega) (by omega)) (by rw [fldN_ofNat _ _ _ hN]; exact field_at (24 + d.toNat * 128) (0) (3) (by omega) (by omega) (by omega)),
    fld_ofNat _ _ d hN (field_at (24) (d.toNat) (24576) (by omega) (by omega) (by omega))]

theorem cpy (d : BitVec 5) (a : BitVec 5) (v : BitVec 5) : Statement (.cpy d a v) := by
  intro _ _ _
  have hd := d.isLt
  have ha := a.isLt
  have hv := v.isLt
  have hN : 0x19 + d.toNat * 128 + a.toNat * 32768 + v.toNat * 33554432 < 2 ^ 32 := by omega
  show decode (BitVec.ofNat 32 (0x19 + d.toNat * 128 + a.toNat * 32768 + v.toNat * 33554432)) = _
  rw [decode_cpy _ (by rw [fldN_ofNat _ _ _ hN]; exact field_at (0) (25) (0 + d.toNat * 1 + a.toNat * 256 + v.toNat * 262144) (by omega) (by omega) (by omega)) (by rw [fldN_ofNat _ _ _ hN]; exact field_at (25 + d.toNat * 128) (0) (0 + a.toNat * 1 + v.toNat * 1024) (by omega) (by omega) (by omega)) (by rw [fldN_ofNat _ _ _ hN]; exact field_at (25 + d.toNat * 128 + a.toNat * 32768) (0) (0 + v.toNat * 1) (by omega) (by omega) (by omega)) (by rw [fldN_ofNat _ _ _ hN]; exact field_at (25 + d.toNat * 128 + a.toNat * 32768 + v.toNat * 33554432) (0) (0) (by omega) (by omega) (by omega)),
    fld_ofNat _ _ d hN (field_at (25) (d.toNat) (0 + a.toNat * 8 + v.toNat * 8192) (by omega) (by omega) (by omega)),
    fld_ofNat _ _ a hN (field_at (25 + d.toNat * 128) (a.toNat) (0 + v.toNat * 32) (by omega) (by omega) (by omega)),
    fld_ofNat _ _ v hN (field_at (25 + d.toNat * 128 + a.toNat * 32768) (v.toNat) (0) (by omega) (by omega) (by omega))]

theorem syncarm (d : BitVec 5) (a : BitVec 5) (b : BitVec 5) : Statement (.syncarm d a b) := by
  intro _ _ _
  have hd := d.isLt
  have ha := a.isLt
  have hb := b.isLt
  have hN : 0x1019 + d.toNat * 128 + a.toNat * 32768 + b.toNat * 1048576 < 2 ^ 32 := by omega
  show decode (BitVec.ofNat 32 (0x1019 + d.toNat * 128 + a.toNat * 32768 + b.toNat * 1048576)) = _
  rw [decode_syncarm _ (by rw [fldN_ofNat _ _ _ hN]; exact field_at (0) (25) (32 + d.toNat * 1 + a.toNat * 256 + b.toNat * 8192) (by omega) (by omega) (by omega)) (by rw [fldN_ofNat _ _ _ hN]; exact field_at (25 + d.toNat * 128) (1) (0 + a.toNat * 1 + b.toNat * 32) (by omega) (by omega) (by omega)) (by rw [fldN_ofNat _ _ _ hN]; exact field_at (4121 + d.toNat * 128 + a.toNat * 32768 + b.toNat * 1048576) (0) (0) (by omega) (by omega) (by omega)),
    fld_ofNat _ _ d hN (field_at (25) (d.toNat) (1 + a.toNat * 8 + b.toNat * 256) (by omega) (by omega) (by omega)),
    fld_ofNat _ _ a hN (field_at (4121 + d.toNat * 128) (a.toNat) (0 + b.toNat * 1) (by omega) (by omega) (by omega)),
    fld_ofNat _ _ b hN (field_at (4121 + d.toNat * 128 + a.toNat * 32768) (b.toNat) (0) (by omega) (by omega) (by omega))]

theorem syncwait (d : BitVec 5) (a : BitVec 5) (b : BitVec 5) : Statement (.syncwait d a b) := by
  intro _ _ _
  have hd := d.isLt
  have ha := a.isLt
  have hb := b.isLt
  have hN : 0x2019 + d.toNat * 128 + a.toNat * 32768 + b.toNat * 1048576 < 2 ^ 32 := by omega
  show decode (BitVec.ofNat 32 (0x2019 + d.toNat * 128 + a.toNat * 32768 + b.toNat * 1048576)) = _
  rw [decode_syncwait _ (by rw [fldN_ofNat _ _ _ hN]; exact field_at (0) (25) (64 + d.toNat * 1 + a.toNat * 256 + b.toNat * 8192) (by omega) (by omega) (by omega)) (by rw [fldN_ofNat _ _ _ hN]; exact field_at (25 + d.toNat * 128) (2) (0 + a.toNat * 1 + b.toNat * 32) (by omega) (by omega) (by omega)) (by rw [fldN_ofNat _ _ _ hN]; exact field_at (8217 + d.toNat * 128 + a.toNat * 32768 + b.toNat * 1048576) (0) (0) (by omega) (by omega) (by omega)),
    fld_ofNat _ _ d hN (field_at (25) (d.toNat) (2 + a.toNat * 8 + b.toNat * 256) (by omega) (by omega) (by omega)),
    fld_ofNat _ _ a hN (field_at (8217 + d.toNat * 128) (a.toNat) (0 + b.toNat * 1) (by omega) (by omega) (by omega)),
    fld_ofNat _ _ b hN (field_at (8217 + d.toNat * 128 + a.toNat * 32768) (b.toNat) (0) (by omega) (by omega) (by omega))]

theorem opa (t : BitVec 2) (k : BitVec 3) (a : BitVec 5) (b : BitVec 5) : Statement (.opa t k a b) := by
  intro _ _ _
  have ht := t.isLt
  have hk := k.isLt
  have ha := a.isLt
  have hb := b.isLt
  have hN : 0x1A + t.toNat * 128 + k.toNat * 4096 + a.toNat * 32768 + b.toNat * 1048576 < 2 ^ 32 := by omega
  show decode (BitVec.ofNat 32 (0x1A + t.toNat * 128 + k.toNat * 4096 + a.toNat * 32768 + b.toNat * 1048576)) = _
  rw [decode_opa _ (by rw [fldN_ofNat _ _ _ hN]; exact field_at (0) (26) (0 + t.toNat * 1 + k.toNat * 32 + a.toNat * 256 + b.toNat * 8192) (by omega) (by omega) (by omega)) (by rw [fldN_ofNat _ _ _ hN]; exact field_at (26 + t.toNat * 128 + k.toNat * 4096 + a.toNat * 32768 + b.toNat * 1048576) (0) (0) (by omega) (by omega) (by omega)) (by rw [fldN_ofNat _ _ _ hN]; exact field_at (26 + t.toNat * 128) (0) (0 + k.toNat * 1 + a.toNat * 8 + b.toNat * 256) (by omega) (by omega) (by omega)) (by rw [fldN_ofNat _ _ _ hN]; exact field_at (26 + t.toNat * 128 + k.toNat * 4096 + a.toNat * 32768 + b.toNat * 1048576) (0) (0) (by omega) (by omega) (by omega)),
    fld_ofNat _ _ t hN (field_at (26) (t.toNat) (0 + k.toNat * 8 + a.toNat * 64 + b.toNat * 2048) (by omega) (by omega) (by omega)),
    fld_ofNat _ _ k hN (field_at (26 + t.toNat * 128) (k.toNat) (0 + a.toNat * 1 + b.toNat * 32) (by omega) (by omega) (by omega)),
    fld_ofNat _ _ a hN (field_at (26 + t.toNat * 128 + k.toNat * 4096) (a.toNat) (0 + b.toNat * 1) (by omega) (by omega) (by omega)),
    fld_ofNat _ _ b hN (field_at (26 + t.toNat * 128 + k.toNat * 4096 + a.toNat * 32768) (b.toNat) (0) (by omega) (by omega) (by omega))]

theorem ops (t : BitVec 2) (k : BitVec 3) (a : BitVec 5) (b : BitVec 5) : Statement (.ops t k a b) := by
  intro _ _ _
  have ht := t.isLt
  have hk := k.isLt
  have ha := a.isLt
  have hb := b.isLt
  have hN : 0x400001A + t.toNat * 128 + k.toNat * 4096 + a.toNat * 32768 + b.toNat * 1048576 < 2 ^ 32 := by omega
  show decode (BitVec.ofNat 32 (0x400001A + t.toNat * 128 + k.toNat * 4096 + a.toNat * 32768 + b.toNat * 1048576)) = _
  rw [decode_ops _ (by rw [fldN_ofNat _ _ _ hN]; exact field_at (0) (26) (524288 + t.toNat * 1 + k.toNat * 32 + a.toNat * 256 + b.toNat * 8192) (by omega) (by omega) (by omega)) (by rw [fldN_ofNat _ _ _ hN]; exact field_at (26 + t.toNat * 128 + k.toNat * 4096 + a.toNat * 32768 + b.toNat * 1048576) (1) (0) (by omega) (by omega) (by omega)) (by rw [fldN_ofNat _ _ _ hN]; exact field_at (26 + t.toNat * 128) (0) (16384 + k.toNat * 1 + a.toNat * 8 + b.toNat * 256) (by omega) (by omega) (by omega)) (by rw [fldN_ofNat _ _ _ hN]; exact field_at (26 + t.toNat * 128 + k.toNat * 4096 + a.toNat * 32768 + b.toNat * 1048576) (0) (1) (by omega) (by omega) (by omega)),
    fld_ofNat _ _ t hN (field_at (26) (t.toNat) (131072 + k.toNat * 8 + a.toNat * 64 + b.toNat * 2048) (by omega) (by omega) (by omega)),
    fld_ofNat _ _ k hN (field_at (26 + t.toNat * 128) (k.toNat) (2048 + a.toNat * 1 + b.toNat * 32) (by omega) (by omega) (by omega)),
    fld_ofNat _ _ a hN (field_at (26 + t.toNat * 128 + k.toNat * 4096) (a.toNat) (64 + b.toNat * 1) (by omega) (by omega) (by omega)),
    fld_ofNat _ _ b hN (field_at (26 + t.toNat * 128 + k.toNat * 4096 + a.toNat * 32768) (b.toNat) (2) (by omega) (by omega) (by omega))]

theorem opam (t : BitVec 2) (k : BitVec 3) (a : BitVec 5) (b : BitVec 5) : Statement (.opam t k a b) := by
  intro _ _ _
  have ht := t.isLt
  have hk := k.isLt
  have ha := a.isLt
  have hb := b.isLt
  have hN : 0xA00001A + t.toNat * 128 + k.toNat * 4096 + a.toNat * 32768 + b.toNat * 1048576 < 2 ^ 32 := by omega
  show decode (BitVec.ofNat 32 (0xA00001A + t.toNat * 128 + k.toNat * 4096 + a.toNat * 32768 + b.toNat * 1048576)) = _
  rw [decode_opam _ (by rw [fldN_ofNat _ _ _ hN]; exact field_at (0) (26) (1310720 + t.toNat * 1 + k.toNat * 32 + a.toNat * 256 + b.toNat * 8192) (by omega) (by omega) (by omega)) (by rw [fldN_ofNat _ _ _ hN]; exact field_at (33554458 + t.toNat * 128 + k.toNat * 4096 + a.toNat * 32768 + b.toNat * 1048576) (2) (0) (by omega) (by omega) (by omega)) (by rw [fldN_ofNat _ _ _ hN]; exact field_at (26 + t.toNat * 128) (0) (40960 + k.toNat * 1 + a.toNat * 8 + b.toNat * 256) (by omega) (by omega) (by omega)) (by rw [fldN_ofNat _ _ _ hN]; exact field_at (26 + t.toNat * 128 + k.toNat * 4096 + a.toNat * 32768 + b.toNat * 1048576) (1) (2) (by omega) (by omega) (by omega)),
    fld_ofNat _ _ t hN (field_at (26) (t.toNat) (327680 + k.toNat * 8 + a.toNat * 64 + b.toNat * 2048) (by omega) (by omega) (by omega)),
    fld_ofNat _ _ k hN (field_at (26 + t.toNat * 128) (k.toNat) (5120 + a.toNat * 1 + b.toNat * 32) (by omega) (by omega) (by omega)),
    fld_ofNat _ _ a hN (field_at (26 + t.toNat * 128 + k.toNat * 4096) (a.toNat) (160 + b.toNat * 1) (by omega) (by omega) (by omega)),
    fld_ofNat _ _ b hN (field_at (26 + t.toNat * 128 + k.toNat * 4096 + a.toNat * 32768) (b.toNat) (5) (by omega) (by omega) (by omega))]

theorem tzero (t : BitVec 2) : Statement (.tzero t) := by
  intro _ _ _
  have ht := t.isLt
  have hN : 0xC00001A + t.toNat * 128 < 2 ^ 32 := by omega
  show decode (BitVec.ofNat 32 (0xC00001A + t.toNat * 128)) = _
  rw [decode_tzero _ (by rw [fldN_ofNat _ _ _ hN]; exact field_at (0) (26) (1572864 + t.toNat * 1) (by omega) (by omega) (by omega)) (by rw [fldN_ofNat _ _ _ hN]; exact field_at (26 + t.toNat * 128) (3) (0) (by omega) (by omega) (by omega)) (by rw [fldN_ofNat _ _ _ hN]; exact field_at (26 + t.toNat * 128) (0) (3) (by omega) (by omega) (by omega)),
    fld_ofNat _ _ t hN (field_at (26) (t.toNat) (393216) (by omega) (by omega) (by omega))]

theorem tld (t : BitVec 2) (a : BitVec 5) (b : BitVec 5) : Statement (.tld t a b) := by
  intro _ _ _
  have ht := t.isLt
  have ha := a.isLt
  have hb := b.isLt
  have hN : 0x1000101A + t.toNat * 128 + a.toNat * 32768 + b.toNat * 1048576 < 2 ^ 32 := by omega
  show decode (BitVec.ofNat 32 (0x1000101A + t.toNat * 128 + a.toNat * 32768 + b.toNat * 1048576)) = _
  rw [decode_tld _ (by rw [fldN_ofNat _ _ _ hN]; exact field_at (0) (26) (2097184 + t.toNat * 1 + a.toNat * 256 + b.toNat * 8192) (by omega) (by omega) (by omega)) (by rw [fldN_ofNat _ _ _ hN]; exact field_at (4122 + t.toNat * 128 + a.toNat * 32768 + b.toNat * 1048576) (4) (0) (by omega) (by omega) (by omega)) (by rw [fldN_ofNat _ _ _ hN]; exact field_at (26 + t.toNat * 128) (8) (8192 + a.toNat * 1 + b.toNat * 32) (by omega) (by omega) (by omega)) (by rw [fldN_ofNat _ _ _ hN]; exact field_at (4122 + t.toNat * 128 + a.toNat * 32768 + b.toNat * 1048576) (0) (4) (by omega) (by omega) (by omega)),
    fld_ofNat _ _ t hN (field_at (26) (t.toNat) (524296 + a.toNat * 64 + b.toNat * 2048) (by omega) (by omega) (by omega)),
    fld_ofNat _ _ a hN (field_at (4122 + t.toNat * 128) (a.toNat) (256 + b.toNat * 1) (by omega) (by omega) (by omega)),
    fld_ofNat _ _ b hN (field_at (4122 + t.toNat * 128 + a.toNat * 32768) (b.toNat) (8) (by omega) (by omega) (by omega))]

theorem tst (t : BitVec 2) (a : BitVec 5) (b : BitVec 5) : Statement (.tst t a b) := by
  intro _ _ _
  have ht := t.isLt
  have ha := a.isLt
  have hb := b.isLt
  have hN : 0x1400101A + t.toNat * 128 + a.toNat * 32768 + b.toNat * 1048576 < 2 ^ 32 := by omega
  show decode (BitVec.ofNat 32 (0x1400101A + t.toNat * 128 + a.toNat * 32768 + b.toNat * 1048576)) = _
  rw [decode_tst _ (by rw [fldN_ofNat _ _ _ hN]; exact field_at (0) (26) (2621472 + t.toNat * 1 + a.toNat * 256 + b.toNat * 8192) (by omega) (by omega) (by omega)) (by rw [fldN_ofNat _ _ _ hN]; exact field_at (4122 + t.toNat * 128 + a.toNat * 32768 + b.toNat * 1048576) (5) (0) (by omega) (by omega) (by omega)) (by rw [fldN_ofNat _ _ _ hN]; exact field_at (26 + t.toNat * 128) (8) (10240 + a.toNat * 1 + b.toNat * 32) (by omega) (by omega) (by omega)) (by rw [fldN_ofNat _ _ _ hN]; exact field_at (4122 + t.toNat * 128 + a.toNat * 32768 + b.toNat * 1048576) (0) (5) (by omega) (by omega) (by omega)),
    fld_ofNat _ _ t hN (field_at (26) (t.toNat) (655368 + a.toNat * 64 + b.toNat * 2048) (by omega) (by omega) (by omega)),
    fld_ofNat _ _ a hN (field_at (4122 + t.toNat * 128) (a.toNat) (320 + b.toNat * 1) (by omega) (by omega) (by omega)),
    fld_ofNat _ _ b hN (field_at (4122 + t.toNat * 128 + a.toNat * 32768) (b.toNat) (10) (by omega) (by omega) (by omega))]

theorem trdrow (t : BitVec 2) (k : BitVec 3) (v : BitVec 5) (i : BitVec 5) (m : BitVec 1) : Statement (.trdrow t k v i m) := by
  intro _ _ _
  have ht := t.isLt
  have hk := k.isLt
  have hv := v.isLt
  have hi := i.isLt
  have hm := m.isLt
  have hN : 0x1800001A + t.toNat * 128 + k.toNat * 4096 + v.toNat * 32768 + i.toNat * 1048576 + m.toNat * 33554432 < 2 ^ 32 := by omega
  show decode (BitVec.ofNat 32 (0x1800001A + t.toNat * 128 + k.toNat * 4096 + v.toNat * 32768 + i.toNat * 1048576 + m.toNat * 33554432)) = _
  rw [decode_trdrow _ (by rw [fldN_ofNat _ _ _ hN]; exact field_at (0) (26) (3145728 + t.toNat * 1 + k.toNat * 32 + v.toNat * 256 + i.toNat * 8192 + m.toNat * 262144) (by omega) (by omega) (by omega)) (by rw [fldN_ofNat _ _ _ hN]; exact field_at (26 + t.toNat * 128 + k.toNat * 4096 + v.toNat * 32768 + i.toNat * 1048576 + m.toNat * 33554432) (6) (0) (by omega) (by omega) (by omega)) (by rw [fldN_ofNat _ _ _ hN]; exact field_at (26 + t.toNat * 128) (0) (98304 + k.toNat * 1 + v.toNat * 8 + i.toNat * 256 + m.toNat * 8192) (by omega) (by omega) (by omega)),
    fld_ofNat _ _ t hN (field_at (26) (t.toNat) (786432 + k.toNat * 8 + v.toNat * 64 + i.toNat * 2048 + m.toNat * 65536) (by omega) (by omega) (by omega)),
    fld_ofNat _ _ k hN (field_at (26 + t.toNat * 128) (k.toNat) (12288 + v.toNat * 1 + i.toNat * 32 + m.toNat * 1024) (by omega) (by omega) (by omega)),
    fld_ofNat _ _ v hN (field_at (26 + t.toNat * 128 + k.toNat * 4096) (v.toNat) (384 + i.toNat * 1 + m.toNat * 32) (by omega) (by omega) (by omega)),
    fld_ofNat _ _ i hN (field_at (26 + t.toNat * 128 + k.toNat * 4096 + v.toNat * 32768) (i.toNat) (12 + m.toNat * 1) (by omega) (by omega) (by omega)),
    fld_ofNat _ _ m hN (field_at (26 + t.toNat * 128 + k.toNat * 4096 + v.toNat * 32768 + i.toNat * 1048576) (m.toNat) (6) (by omega) (by omega) (by omega))]

theorem twrrow (t : BitVec 2) (k : BitVec 3) (v : BitVec 5) (i : BitVec 5) (m : BitVec 1) : Statement (.twrrow t k v i m) := by
  intro _ _ _
  have ht := t.isLt
  have hk := k.isLt
  have hv := v.isLt
  have hi := i.isLt
  have hm := m.isLt
  have hN : 0x1C00001A + t.toNat * 128 + k.toNat * 4096 + v.toNat * 32768 + i.toNat * 1048576 + m.toNat * 33554432 < 2 ^ 32 := by omega
  show decode (BitVec.ofNat 32 (0x1C00001A + t.toNat * 128 + k.toNat * 4096 + v.toNat * 32768 + i.toNat * 1048576 + m.toNat * 33554432)) = _
  rw [decode_twrrow _ (by rw [fldN_ofNat _ _ _ hN]; exact field_at (0) (26) (3670016 + t.toNat * 1 + k.toNat * 32 + v.toNat * 256 + i.toNat * 8192 + m.toNat * 262144) (by omega) (by omega) (by omega)) (by rw [fldN_ofNat _ _ _ hN]; exact field_at (26 + t.toNat * 128 + k.toNat * 4096 + v.toNat * 32768 + i.toNat * 1048576 + m.toNat * 33554432) (7) (0) (by omega) (by omega) (by omega)) (by rw [fldN_ofNat _ _ _ hN]; exact field_at (26 + t.toNat * 128) (0) (114688 + k.toNat * 1 + v.toNat * 8 + i.toNat * 256 + m.toNat * 8192) (by omega) (by omega) (by omega)),
    fld_ofNat _ _ t hN (field_at (26) (t.toNat) (917504 + k.toNat * 8 + v.toNat * 64 + i.toNat * 2048 + m.toNat * 65536) (by omega) (by omega) (by omega)),
    fld_ofNat _ _ k hN (field_at (26 + t.toNat * 128) (k.toNat) (14336 + v.toNat * 1 + i.toNat * 32 + m.toNat * 1024) (by omega) (by omega) (by omega)),
    fld_ofNat _ _ v hN (field_at (26 + t.toNat * 128 + k.toNat * 4096) (v.toNat) (448 + i.toNat * 1 + m.toNat * 32) (by omega) (by omega) (by omega)),
    fld_ofNat _ _ i hN (field_at (26 + t.toNat * 128 + k.toNat * 4096 + v.toNat * 32768) (i.toNat) (14 + m.toNat * 1) (by omega) (by omega) (by omega)),
    fld_ofNat _ _ m hN (field_at (26 + t.toNat * 128 + k.toNat * 4096 + v.toNat * 32768 + i.toNat * 1048576) (m.toNat) (7) (by omega) (by omega) (by omega))]

theorem tepi (t : BitVec 2) (v : BitVec 5) (b : BitVec 5) (m : BitVec 1) : Statement (.tepi t v b m) := by
  intro _ _ _
  have ht := t.isLt
  have hv := v.isLt
  have hb := b.isLt
  have hm := m.isLt
  have hN : 0x2000101A + t.toNat * 128 + v.toNat * 32768 + b.toNat * 1048576 + m.toNat * 33554432 < 2 ^ 32 := by omega
  show decode (BitVec.ofNat 32 (0x2000101A + t.toNat * 128 + v.toNat * 32768 + b.toNat * 1048576 + m.toNat * 33554432)) = _
  rw [decode_tepi _ (by rw [fldN_ofNat _ _ _ hN]; exact field_at (0) (26) (4194336 + t.toNat * 1 + v.toNat * 256 + b.toNat * 8192 + m.toNat * 262144) (by omega) (by omega) (by omega)) (by rw [fldN_ofNat _ _ _ hN]; exact field_at (4122 + t.toNat * 128 + v.toNat * 32768 + b.toNat * 1048576 + m.toNat * 33554432) (8) (0) (by omega) (by omega) (by omega)) (by rw [fldN_ofNat _ _ _ hN]; exact field_at (26 + t.toNat * 128) (8) (16384 + v.toNat * 1 + b.toNat * 32 + m.toNat * 1024) (by omega) (by omega) (by omega)),
    fld_ofNat _ _ t hN (field_at (26) (t.toNat) (1048584 + v.toNat * 64 + b.toNat * 2048 + m.toNat * 65536) (by omega) (by omega) (by omega)),
    fld_ofNat _ _ v hN (field_at (4122 + t.toNat * 128) (v.toNat) (512 + b.toNat * 1 + m.toNat * 32) (by omega) (by omega) (by omega)),
    fld_ofNat _ _ b hN (field_at (4122 + t.toNat * 128 + v.toNat * 32768) (b.toNat) (16 + m.toNat * 1) (by omega) (by omega) (by omega)),
    fld_ofNat _ _ m hN (field_at (4122 + t.toNat * 128 + v.toNat * 32768 + b.toNat * 1048576) (m.toNat) (8) (by omega) (by omega) (by omega))]

theorem skinitD (t : BitVec 5) (a : BitVec 5) : Statement (.skinitD t a) := by
  intro _ _ _
  have ht := t.isLt
  have ha := a.isLt
  have hN : 0x101B + t.toNat * 128 + a.toNat * 32768 < 2 ^ 32 := by omega
  show decode (BitVec.ofNat 32 (0x101B + t.toNat * 128 + a.toNat * 32768)) = _
  rw [decode_skinitD _ (by rw [fldN_ofNat _ _ _ hN]; exact field_at (0) (27) (32 + t.toNat * 1 + a.toNat * 256) (by omega) (by omega) (by omega)) (by rw [fldN_ofNat _ _ _ hN]; exact field_at (4123 + t.toNat * 128 + a.toNat * 32768) (0) (0) (by omega) (by omega) (by omega)) (by rw [fldN_ofNat _ _ _ hN]; exact field_at (27 + t.toNat * 128) (1) (0 + a.toNat * 1) (by omega) (by omega) (by omega)) (by rw [fldN_ofNat _ _ _ hN]; exact field_at (4123 + t.toNat * 128 + a.toNat * 32768) (0) (0) (by omega) (by omega) (by omega)),
    fld_ofNat _ _ t hN (field_at (27) (t.toNat) (1 + a.toNat * 8) (by omega) (by omega) (by omega)),
    fld_ofNat _ _ a hN (field_at (4123 + t.toNat * 128) (a.toNat) (0) (by omega) (by omega) (by omega))]

theorem skinitH (t : BitVec 5) (a : BitVec 5) : Statement (.skinitH t a) := by
  intro _ _ _
  have ht := t.isLt
  have ha := a.isLt
  have hN : 0x201B + t.toNat * 128 + a.toNat * 32768 < 2 ^ 32 := by omega
  show decode (BitVec.ofNat 32 (0x201B + t.toNat * 128 + a.toNat * 32768)) = _
  rw [decode_skinitH _ (by rw [fldN_ofNat _ _ _ hN]; exact field_at (0) (27) (64 + t.toNat * 1 + a.toNat * 256) (by omega) (by omega) (by omega)) (by rw [fldN_ofNat _ _ _ hN]; exact field_at (8219 + t.toNat * 128 + a.toNat * 32768) (0) (0) (by omega) (by omega) (by omega)) (by rw [fldN_ofNat _ _ _ hN]; exact field_at (27 + t.toNat * 128) (2) (0 + a.toNat * 1) (by omega) (by omega) (by omega)) (by rw [fldN_ofNat _ _ _ hN]; exact field_at (8219 + t.toNat * 128 + a.toNat * 32768) (0) (0) (by omega) (by omega) (by omega)),
    fld_ofNat _ _ t hN (field_at (27) (t.toNat) (2 + a.toNat * 8) (by omega) (by omega) (by omega)),
    fld_ofNat _ _ a hN (field_at (8219 + t.toNat * 128) (a.toNat) (0) (by omega) (by omega) (by omega))]

theorem skinitQ (t : BitVec 5) (a : BitVec 5) (b : BitVec 5) : Statement (.skinitQ t a b) := by
  intro _ _ _
  have ht := t.isLt
  have ha := a.isLt
  have hb := b.isLt
  have hN : 0x301B + t.toNat * 128 + a.toNat * 32768 + b.toNat * 1048576 < 2 ^ 32 := by omega
  show decode (BitVec.ofNat 32 (0x301B + t.toNat * 128 + a.toNat * 32768 + b.toNat * 1048576)) = _
  rw [decode_skinitQ _ (by rw [fldN_ofNat _ _ _ hN]; exact field_at (0) (27) (96 + t.toNat * 1 + a.toNat * 256 + b.toNat * 8192) (by omega) (by omega) (by omega)) (by rw [fldN_ofNat _ _ _ hN]; exact field_at (12315 + t.toNat * 128 + a.toNat * 32768 + b.toNat * 1048576) (0) (0) (by omega) (by omega) (by omega)) (by rw [fldN_ofNat _ _ _ hN]; exact field_at (27 + t.toNat * 128) (3) (0 + a.toNat * 1 + b.toNat * 32) (by omega) (by omega) (by omega)),
    fld_ofNat _ _ t hN (field_at (27) (t.toNat) (3 + a.toNat * 8 + b.toNat * 256) (by omega) (by omega) (by omega)),
    fld_ofNat _ _ a hN (field_at (12315 + t.toNat * 128) (a.toNat) (0 + b.toNat * 1) (by omega) (by omega) (by omega)),
    fld_ofNat _ _ b hN (field_at (12315 + t.toNat * 128 + a.toNat * 32768) (b.toNat) (0) (by omega) (by omega) (by omega))]

theorem skqadd (m : BitVec 1) (a : BitVec 5) (b : BitVec 5) : Statement (.skqadd m a b) := by
  intro _ _ _
  have hm := m.isLt
  have ha := a.isLt
  have hb := b.isLt
  have hN : 0x200001B + m.toNat * 4096 + a.toNat * 32768 + b.toNat * 1048576 < 2 ^ 32 := by omega
  show decode (BitVec.ofNat 32 (0x200001B + m.toNat * 4096 + a.toNat * 32768 + b.toNat * 1048576)) = _
  rw [decode_skqadd _ (by rw [fldN_ofNat _ _ _ hN]; exact field_at (0) (27) (262144 + m.toNat * 32 + a.toNat * 256 + b.toNat * 8192) (by omega) (by omega) (by omega)) (by rw [fldN_ofNat _ _ _ hN]; exact field_at (27 + m.toNat * 4096 + a.toNat * 32768 + b.toNat * 1048576) (1) (0) (by omega) (by omega) (by omega)) (by rw [fldN_ofNat _ _ _ hN]; exact field_at (27) (0) (8192 + m.toNat * 1 + a.toNat * 8 + b.toNat * 256) (by omega) (by omega) (by omega)) (by rw [fldN_ofNat _ _ _ hN]; exact field_at (27 + m.toNat * 4096) (0) (1024 + a.toNat * 1 + b.toNat * 32) (by omega) (by omega) (by omega)),
    fld_ofNat _ _ m hN (field_at (27) (m.toNat) (4096 + a.toNat * 4 + b.toNat * 128) (by omega) (by omega) (by omega)),
    fld_ofNat _ _ a hN (field_at (27 + m.toNat * 4096) (a.toNat) (32 + b.toNat * 1) (by omega) (by omega) (by omega)),
    fld_ofNat _ _ b hN (field_at (27 + m.toNat * 4096 + a.toNat * 32768) (b.toNat) (1) (by omega) (by omega) (by omega))]

theorem skhadd (m : BitVec 1) (a : BitVec 5) (b : BitVec 5) : Statement (.skhadd m a b) := by
  intro _ _ _
  have hm := m.isLt
  have ha := a.isLt
  have hb := b.isLt
  have hN : 0x400001B + m.toNat * 4096 + a.toNat * 32768 + b.toNat * 1048576 < 2 ^ 32 := by omega
  show decode (BitVec.ofNat 32 (0x400001B + m.toNat * 4096 + a.toNat * 32768 + b.toNat * 1048576)) = _
  rw [decode_skhadd _ (by rw [fldN_ofNat _ _ _ hN]; exact field_at (0) (27) (524288 + m.toNat * 32 + a.toNat * 256 + b.toNat * 8192) (by omega) (by omega) (by omega)) (by rw [fldN_ofNat _ _ _ hN]; exact field_at (27 + m.toNat * 4096 + a.toNat * 32768 + b.toNat * 1048576) (2) (0) (by omega) (by omega) (by omega)) (by rw [fldN_ofNat _ _ _ hN]; exact field_at (27 + m.toNat * 4096) (0) (4096 + a.toNat * 2 + b.toNat * 64) (by omega) (by omega) (by omega)) (by rw [fldN_ofNat _ _ _ hN]; exact field_at (27) (0) (16384 + m.toNat * 1 + a.toNat * 8 + b.toNat * 256) (by omega) (by omega) (by omega)) (by rw [fldN_ofNat _ _ _ hN]; exact field_at (27 + m.toNat * 4096) (0) (2048 + a.toNat * 1 + b.toNat * 32) (by omega) (by omega) (by omega)),
    fld_ofNat _ _ m hN (field_at (27) (m.toNat) (8192 + a.toNat * 4 + b.toNat * 128) (by omega) (by omega) (by omega)),
    fld_ofNat _ _ a hN (field_at (27 + m.toNat * 4096) (a.toNat) (64 + b.toNat * 1) (by omega) (by omega) (by omega)),
    fld_ofNat _ _ b hN (field_at (27 + m.toNat * 4096 + a.toNat * 32768) (b.toNat) (2) (by omega) (by omega) (by omega))]

theorem skhaddW (w : BitVec 5) (m : BitVec 1) (a : BitVec 5) (b : BitVec 5) : Statement (.skhaddW w m a b) := by
  intro _ _ _
  have hw := w.isLt
  have hm := m.isLt
  have ha := a.isLt
  have hb := b.isLt
  have hN : 0x400201B + w.toNat * 128 + m.toNat * 4096 + a.toNat * 32768 + b.toNat * 1048576 < 2 ^ 32 := by omega
  show decode (BitVec.ofNat 32 (0x400201B + w.toNat * 128 + m.toNat * 4096 + a.toNat * 32768 + b.toNat * 1048576)) = _
  rw [decode_skhaddW _ (by rw [fldN_ofNat _ _ _ hN]; exact field_at (0) (27) (524352 + w.toNat * 1 + m.toNat * 32 + a.toNat * 256 + b.toNat * 8192) (by omega) (by omega) (by omega)) (by rw [fldN_ofNat _ _ _ hN]; exact field_at (8219 + w.toNat * 128 + m.toNat * 4096 + a.toNat * 32768 + b.toNat * 1048576) (2) (0) (by omega) (by omega) (by omega)) (by rw [fldN_ofNat _ _ _ hN, field_at (27 + w.toNat * 128 + m.toNat * 4096) (1) (4096 + a.toNat * 2 + b.toNat * 64) (by omega) (by omega) (by omega)]; omega) (by rw [fldN_ofNat _ _ _ hN]; exact field_at (8219 + w.toNat * 128 + m.toNat * 4096) (0) (2048 + a.toNat * 1 + b.toNat * 32) (by omega) (by omega) (by omega)),
    fld_ofNat _ _ w hN (field_at (27) (w.toNat) (16386 + m.toNat * 1 + a.toNat * 8 + b.toNat * 256) (by omega) (by omega) (by omega)),
    fld_ofNat _ _ m hN (field_at (27 + w.toNat * 128) (m.toNat) (8193 + a.toNat * 4 + b.toNat * 128) (by omega) (by omega) (by omega)),
    fld_ofNat _ _ a hN (field_at (8219 + w.toNat * 128 + m.toNat * 4096) (a.toNat) (64 + b.toNat * 1) (by omega) (by omega) (by omega)),
    fld_ofNat _ _ b hN (field_at (8219 + w.toNat * 128 + m.toNat * 4096 + a.toNat * 32768) (b.toNat) (2) (by omega) (by omega) (by omega))]

theorem skdadd (m : BitVec 1) (a : BitVec 5) (b : BitVec 5) : Statement (.skdadd m a b) := by
  intro _ _ _
  have hm := m.isLt
  have ha := a.isLt
  have hb := b.isLt
  have hN : 0x600001B + m.toNat * 4096 + a.toNat * 32768 + b.toNat * 1048576 < 2 ^ 32 := by omega
  show decode (BitVec.ofNat 32 (0x600001B + m.toNat * 4096 + a.toNat * 32768 + b.toNat * 1048576)) = _
  rw [decode_skdadd _ (by rw [fldN_ofNat _ _ _ hN]; exact field_at (0) (27) (786432 + m.toNat * 32 + a.toNat * 256 + b.toNat * 8192) (by omega) (by omega) (by omega)) (by rw [fldN_ofNat _ _ _ hN]; exact field_at (27 + m.toNat * 4096 + a.toNat * 32768 + b.toNat * 1048576) (3) (0) (by omega) (by omega) (by omega)) (by rw [fldN_ofNat _ _ _ hN]; exact field_at (27) (0) (24576 + m.toNat * 1 + a.toNat * 8 + b.toNat * 256) (by omega) (by omega) (by omega)) (by rw [fldN_ofNat _ _ _ hN]; exact field_at (27 + m.toNat * 4096) (0) (3072 + a.toNat * 1 + b.toNat * 32) (by omega) (by omega) (by omega)),
    fld_ofNat _ _ m hN (field_at (27) (m.toNat) (12288 + a.toNat * 4 + b.toNat * 128) (by omega) (by omega) (by omega)),
    fld_ofNat _ _ a hN (field_at (27 + m.toNat * 4096) (a.toNat) (96 + b.toNat * 1) (by omega) (by omega) (by omega)),
    fld_ofNat _ _ b hN (field_at (27 + m.toNat * 4096 + a.toNat * 32768) (b.toNat) (3) (by omega) (by omega) (by omega))]

theorem skmerge (a : BitVec 5) (b : BitVec 5) : Statement (.skmerge a b) := by
  intro _ _ _
  have ha := a.isLt
  have hb := b.isLt
  have hN : 0x800001B + a.toNat * 32768 + b.toNat * 1048576 < 2 ^ 32 := by omega
  show decode (BitVec.ofNat 32 (0x800001B + a.toNat * 32768 + b.toNat * 1048576)) = _
  rw [decode_skmerge _ (by rw [fldN_ofNat _ _ _ hN]; exact field_at (0) (27) (1048576 + a.toNat * 256 + b.toNat * 8192) (by omega) (by omega) (by omega)) (by rw [fldN_ofNat _ _ _ hN]; exact field_at (27 + a.toNat * 32768 + b.toNat * 1048576) (4) (0) (by omega) (by omega) (by omega)) (by rw [fldN_ofNat _ _ _ hN]; exact field_at (27) (0) (4096 + a.toNat * 1 + b.toNat * 32) (by omega) (by omega) (by omega)),
    fld_ofNat _ _ a hN (field_at (27) (a.toNat) (128 + b.toNat * 1) (by omega) (by omega) (by omega)),
    fld_ofNat _ _ b hN (field_at (27 + a.toNat * 32768) (b.toNat) (4) (by omega) (by omega) (by omega))]

theorem skqq (d : BitVec 5) (a : BitVec 5) (b : BitVec 5) : Statement (.skqq d a b) := by
  intro _ _ _
  have hd := d.isLt
  have ha := a.isLt
  have hb := b.isLt
  have hN : 0xA00001B + d.toNat * 128 + a.toNat * 32768 + b.toNat * 1048576 < 2 ^ 32 := by omega
  show decode (BitVec.ofNat 32 (0xA00001B + d.toNat * 128 + a.toNat * 32768 + b.toNat * 1048576)) = _
  rw [decode_skqq _ (by rw [fldN_ofNat _ _ _ hN]; exact field_at (0) (27) (1310720 + d.toNat * 1 + a.toNat * 256 + b.toNat * 8192) (by omega) (by omega) (by omega)) (by rw [fldN_ofNat _ _ _ hN]; exact field_at (27 + d.toNat * 128 + a.toNat * 32768 + b.toNat * 1048576) (5) (0) (by omega) (by omega) (by omega)) (by rw [fldN_ofNat _ _ _ hN]; exact field_at (27 + d.toNat * 128) (0) (5120 + a.toNat * 1 + b.toNat * 32) (by omega) (by omega) (by omega)),
    fld_ofNat _ _ d hN (field_at (27) (d.toNat) (40960 + a.toNat * 8 + b.toNat * 256) (by omega) (by omega) (by omega)),
    fld_ofNat _ _ a hN (field_at (27 + d.toNat * 128) (a.toNat) (160 + b.toNat * 1) (by omega) (by omega) (by omega)),
    fld_ofNat _ _ b hN (field_at (27 + d.toNat * 128 + a.toNat * 32768) (b.toNat) (5) (by omega) (by omega) (by omega))]

theorem skhtop (d : BitVec 5) (s : BitVec 2) (a : BitVec 5) (b : BitVec 5) : Statement (.skhtop d s a b) := by
  intro _ _ _
  have hd := d.isLt
  have hs := s.isLt
  have ha := a.isLt
  have hb := b.isLt
  have hN : 0xC00001B + d.toNat * 128 + s.toNat * 4096 + a.toNat * 32768 + b.toNat * 1048576 < 2 ^ 32 := by omega
  show decode (BitVec.ofNat 32 (0xC00001B + d.toNat * 128 + s.toNat * 4096 + a.toNat * 32768 + b.toNat * 1048576)) = _
  rw [decode_skhtop _ (by rw [fldN_ofNat _ _ _ hN]; exact field_at (0) (27) (1572864 + d.toNat * 1 + s.toNat * 32 + a.toNat * 256 + b.toNat * 8192) (by omega) (by omega) (by omega)) (by rw [fldN_ofNat _ _ _ hN]; exact field_at (27 + d.toNat * 128 + s.toNat * 4096 + a.toNat * 32768 + b.toNat * 1048576) (6) (0) (by omega) (by omega) (by omega)) (by rw [fldN_ofNat _ _ _ hN]; exact field_at (27 + d.toNat * 128 + s.toNat * 4096) (0) (6144 + a.toNat * 1 + b.toNat * 32) (by omega) (by omega) (by omega)),
    fld_ofNat _ _ d hN (field_at (27) (d.toNat) (49152 + s.toNat * 1 + a.toNat * 8 + b.toNat * 256) (by omega) (by omega) (by omega)),
    fld_ofNat _ _ s hN (field_at (27 + d.toNat * 128) (s.toNat) (12288 + a.toNat * 2 + b.toNat * 64) (by omega) (by omega) (by omega)),
    fld_ofNat _ _ a hN (field_at (27 + d.toNat * 128 + s.toNat * 4096) (a.toNat) (192 + b.toNat * 1) (by omega) (by omega) (by omega)),
    fld_ofNat _ _ b hN (field_at (27 + d.toNat * 128 + s.toNat * 4096 + a.toNat * 32768) (b.toNat) (6) (by omega) (by omega) (by omega))]

theorem skdcnt (d : BitVec 5) (a : BitVec 5) : Statement (.skdcnt d a) := by
  intro _ _ _
  have hd := d.isLt
  have ha := a.isLt
  have hN : 0xE00001B + d.toNat * 128 + a.toNat * 32768 < 2 ^ 32 := by omega
  show decode (BitVec.ofNat 32 (0xE00001B + d.toNat * 128 + a.toNat * 32768)) = _
  rw [decode_skdcnt _ (by rw [fldN_ofNat _ _ _ hN]; exact field_at (0) (27) (1835008 + d.toNat * 1 + a.toNat * 256) (by omega) (by omega) (by omega)) (by rw [fldN_ofNat _ _ _ hN]; exact field_at (27 + d.toNat * 128 + a.toNat * 32768) (7) (0) (by omega) (by omega) (by omega)) (by rw [fldN_ofNat _ _ _ hN]; exact field_at (27 + d.toNat * 128) (0) (7168 + a.toNat * 1) (by omega) (by omega) (by omega)) (by rw [fldN_ofNat _ _ _ hN]; exact field_at (27 + d.toNat * 128 + a.toNat * 32768) (0) (7) (by omega) (by omega) (by omega)),
    fld_ofNat _ _ d hN (field_at (27) (d.toNat) (57344 + a.toNat * 8) (by omega) (by omega) (by omega)),
    fld_ofNat _ _ a hN (field_at (27 + d.toNat * 128) (a.toNat) (224) (by omega) (by omega) (by omega))]

theorem vclipq (d : BitVec 5) (m : BitVec 1) (a : BitVec 5) (b : BitVec 5) : Statement (.vclipq d m a b) := by
  intro _ _ _
  have hd := d.isLt
  have hm := m.isLt
  have ha := a.isLt
  have hb := b.isLt
  have hN : 0x1000001B + d.toNat * 128 + m.toNat * 4096 + a.toNat * 32768 + b.toNat * 1048576 < 2 ^ 32 := by omega
  show decode (BitVec.ofNat 32 (0x1000001B + d.toNat * 128 + m.toNat * 4096 + a.toNat * 32768 + b.toNat * 1048576)) = _
  rw [decode_vclipq _ (by rw [fldN_ofNat _ _ _ hN]; exact field_at (0) (27) (2097152 + d.toNat * 1 + m.toNat * 32 + a.toNat * 256 + b.toNat * 8192) (by omega) (by omega) (by omega)) (by rw [fldN_ofNat _ _ _ hN]; exact field_at (27 + d.toNat * 128 + m.toNat * 4096 + a.toNat * 32768 + b.toNat * 1048576) (8) (0) (by omega) (by omega) (by omega)) (by rw [fldN_ofNat _ _ _ hN]; exact field_at (27 + d.toNat * 128 + m.toNat * 4096) (0) (8192 + a.toNat * 1 + b.toNat * 32) (by omega) (by omega) (by omega)),
    fld_ofNat _ _ d hN (field_at (27) (d.toNat) (65536 + m.toNat * 1 + a.toNat * 8 + b.toNat * 256) (by omega) (by omega) (by omega)),
    fld_ofNat _ _ m hN (field_at (27 + d.toNat * 128) (m.toNat) (32768 + a.toNat * 4 + b.toNat * 128) (by omega) (by omega) (by omega)),
    fld_ofNat _ _ a hN (field_at (27 + d.toNat * 128 + m.toNat * 4096) (a.toNat) (256 + b.toNat * 1) (by omega) (by omega) (by omega)),
    fld_ofNat _ _ b hN (field_at (27 + d.toNat * 128 + m.toNat * 4096 + a.toNat * 32768) (b.toNat) (8) (by omega) (by omega) (by omega))]

theorem vscaleq (d : BitVec 5) (m : BitVec 1) (a : BitVec 5) (b : BitVec 5) : Statement (.vscaleq d m a b) := by
  intro _ _ _
  have hd := d.isLt
  have hm := m.isLt
  have ha := a.isLt
  have hb := b.isLt
  have hN : 0x1200001B + d.toNat * 128 + m.toNat * 4096 + a.toNat * 32768 + b.toNat * 1048576 < 2 ^ 32 := by omega
  show decode (BitVec.ofNat 32 (0x1200001B + d.toNat * 128 + m.toNat * 4096 + a.toNat * 32768 + b.toNat * 1048576)) = _
  rw [decode_vscaleq _ (by rw [fldN_ofNat _ _ _ hN]; exact field_at (0) (27) (2359296 + d.toNat * 1 + m.toNat * 32 + a.toNat * 256 + b.toNat * 8192) (by omega) (by omega) (by omega)) (by rw [fldN_ofNat _ _ _ hN]; exact field_at (27 + d.toNat * 128 + m.toNat * 4096 + a.toNat * 32768 + b.toNat * 1048576) (9) (0) (by omega) (by omega) (by omega)) (by rw [fldN_ofNat _ _ _ hN]; exact field_at (27 + d.toNat * 128 + m.toNat * 4096) (0) (9216 + a.toNat * 1 + b.toNat * 32) (by omega) (by omega) (by omega)),
    fld_ofNat _ _ d hN (field_at (27) (d.toNat) (73728 + m.toNat * 1 + a.toNat * 8 + b.toNat * 256) (by omega) (by omega) (by omega)),
    fld_ofNat _ _ m hN (field_at (27 + d.toNat * 128) (m.toNat) (36864 + a.toNat * 4 + b.toNat * 128) (by omega) (by omega) (by omega)),
    fld_ofNat _ _ a hN (field_at (27 + d.toNat * 128 + m.toNat * 4096) (a.toNat) (288 + b.toNat * 1) (by omega) (by omega) (by omega)),
    fld_ofNat _ _ b hN (field_at (27 + d.toNat * 128 + m.toNat * 4096 + a.toNat * 32768) (b.toNat) (9) (by omega) (by omega) (by omega))]

theorem rld (d : BitVec 5) (z : BitVec 1) (a : BitVec 5) (t : BitVec 3) (q : BitVec 2) : Statement (.rld d z a t q) := by
  intro _ _ _
  have hd := d.isLt
  have hz := z.isLt
  have ha := a.isLt
  have ht := t.isLt
  have hq := q.isLt
  have hN : 0x1C + d.toNat * 128 + z.toNat * 4096 + a.toNat * 32768 + t.toNat * 1048576 + q.toNat * 8388608 < 2 ^ 32 := by omega
  show decode (BitVec.ofNat 32 (0x1C + d.toNat * 128 + z.toNat * 4096 + a.toNat * 32768 + t.toNat * 1048576 + q.toNat * 8388608)) = _
  rw [decode_rld _ (by rw [fldN_ofNat _ _ _ hN]; exact field_at (0) (28) (0 + d.toNat * 1 + z.toNat * 32 + a.toNat * 256 + t.toNat * 8192 + q.toNat * 65536) (by omega) (by omega) (by omega)) (by rw [fldN_ofNat _ _ _ hN]; exact field_at (28 + d.toNat * 128 + z.toNat * 4096 + a.toNat * 32768 + t.toNat * 1048576 + q.toNat * 8388608) (0) (0) (by omega) (by omega) (by omega)) (by rw [fldN_ofNat _ _ _ hN]; exact field_at (28 + d.toNat * 128 + z.toNat * 4096) (0) (0 + a.toNat * 1 + t.toNat * 32 + q.toNat * 256) (by omega) (by omega) (by omega)),
    fld_ofNat _ _ d hN (field_at (28) (d.toNat) (0 + z.toNat * 1 + a.toNat * 8 + t.toNat * 256 + q.toNat * 2048) (by omega) (by omega) (by omega)),
    fld_ofNat _ _ z hN (field_at (28 + d.toNat * 128) (z.toNat) (0 + a.toNat * 4 + t.toNat * 128 + q.toNat * 1024) (by omega) (by omega) (by omega)),
    fld_ofNat _ _ a hN (field_at (28 + d.toNat * 128 + z.toNat * 4096) (a.toNat) (0 + t.toNat * 1 + q.toNat * 8) (by omega) (by omega) (by omega)),
    fld_ofNat _ _ t hN (field_at (28 + d.toNat * 128 + z.toNat * 4096 + a.toNat * 32768) (t.toNat) (0 + q.toNat * 1) (by omega) (by omega) (by omega)),
    fld_ofNat _ _ q hN (field_at (28 + d.toNat * 128 + z.toNat * 4096 + a.toNat * 32768 + t.toNat * 1048576) (q.toNat) (0) (by omega) (by omega) (by omega))]

theorem rst (d : BitVec 5) (a : BitVec 5) (t : BitVec 3) (q : BitVec 2) : Statement (.rst d a t q) := by
  intro _ _ _
  have hd := d.isLt
  have ha := a.isLt
  have ht := t.isLt
  have hq := q.isLt
  have hN : 0x200001C + d.toNat * 128 + a.toNat * 32768 + t.toNat * 1048576 + q.toNat * 8388608 < 2 ^ 32 := by omega
  show decode (BitVec.ofNat 32 (0x200001C + d.toNat * 128 + a.toNat * 32768 + t.toNat * 1048576 + q.toNat * 8388608)) = _
  rw [decode_rst _ (by rw [fldN_ofNat _ _ _ hN]; exact field_at (0) (28) (262144 + d.toNat * 1 + a.toNat * 256 + t.toNat * 8192 + q.toNat * 65536) (by omega) (by omega) (by omega)) (by rw [fldN_ofNat _ _ _ hN]; exact field_at (28 + d.toNat * 128 + a.toNat * 32768 + t.toNat * 1048576 + q.toNat * 8388608) (1) (0) (by omega) (by omega) (by omega)) (by rw [fldN_ofNat _ _ _ hN]; exact field_at (28 + d.toNat * 128) (0) (1024 + a.toNat * 1 + t.toNat * 32 + q.toNat * 256) (by omega) (by omega) (by omega)),
    fld_ofNat _ _ d hN (field_at (28) (d.toNat) (8192 + a.toNat * 8 + t.toNat * 256 + q.toNat * 2048) (by omega) (by omega) (by omega)),
    fld_ofNat _ _ a hN (field_at (28 + d.toNat * 128) (a.toNat) (32 + t.toNat * 1 + q.toNat * 8) (by omega) (by omega) (by omega)),
    fld_ofNat _ _ t hN (field_at (28 + d.toNat * 128 + a.toNat * 32768) (t.toNat) (4 + q.toNat * 1) (by omega) (by omega) (by omega)),
    fld_ofNat _ _ q hN (field_at (28 + d.toNat * 128 + a.toNat * 32768 + t.toNat * 1048576) (q.toNat) (1) (by omega) (by omega) (by omega))]

theorem rstp (d : BitVec 5) (a : BitVec 5) (t : BitVec 3) (q : BitVec 2) : Statement (.rstp d a t q) := by
  intro _ _ _
  have hd := d.isLt
  have ha := a.isLt
  have ht := t.isLt
  have hq := q.isLt
  have hN : 0x400001C + d.toNat * 128 + a.toNat * 32768 + t.toNat * 1048576 + q.toNat * 8388608 < 2 ^ 32 := by omega
  show decode (BitVec.ofNat 32 (0x400001C + d.toNat * 128 + a.toNat * 32768 + t.toNat * 1048576 + q.toNat * 8388608)) = _
  rw [decode_rstp _ (by rw [fldN_ofNat _ _ _ hN]; exact field_at (0) (28) (524288 + d.toNat * 1 + a.toNat * 256 + t.toNat * 8192 + q.toNat * 65536) (by omega) (by omega) (by omega)) (by rw [fldN_ofNat _ _ _ hN]; exact field_at (28 + d.toNat * 128 + a.toNat * 32768 + t.toNat * 1048576 + q.toNat * 8388608) (2) (0) (by omega) (by omega) (by omega)) (by rw [fldN_ofNat _ _ _ hN]; exact field_at (28 + d.toNat * 128) (0) (2048 + a.toNat * 1 + t.toNat * 32 + q.toNat * 256) (by omega) (by omega) (by omega)),
    fld_ofNat _ _ d hN (field_at (28) (d.toNat) (16384 + a.toNat * 8 + t.toNat * 256 + q.toNat * 2048) (by omega) (by omega) (by omega)),
    fld_ofNat _ _ a hN (field_at (28 + d.toNat * 128) (a.toNat) (64 + t.toNat * 1 + q.toNat * 8) (by omega) (by omega) (by omega)),
    fld_ofNat _ _ t hN (field_at (28 + d.toNat * 128 + a.toNat * 32768) (t.toNat) (8 + q.toNat * 1) (by omega) (by omega) (by omega)),
    fld_ofNat _ _ q hN (field_at (28 + d.toNat * 128 + a.toNat * 32768 + t.toNat * 1048576) (q.toNat) (2) (by omega) (by omega) (by omega))]

theorem ramo (d : BitVec 5) (o : BitVec 4) (a : BitVec 5) (t : BitVec 3) (w : BitVec 1) : Statement (.ramo d o a t w) := by
  intro _ _ _
  have hd := d.isLt
  have ho := o.isLt
  have ha := a.isLt
  have ht := t.isLt
  have hw := w.isLt
  show decode (BitVec.ofNat 32 (0x600001C + d.toNat * 128 + o.toNat / 8 * 16777216 + o.toNat % 8 * 4096 + a.toNat * 32768 + t.toNat * 1048576 + w.toNat * 8388608)) = _
  have e1 := Nat.div_add_mod o.toNat 8
  have e2 : o.toNat % 8 < 8 := Nat.mod_lt _ (by decide)
  generalize o.toNat / 8 = q at e1 e2 ⊢
  generalize o.toNat % 8 = r at e1 e2 ⊢
  have hN : 0x600001C + d.toNat * 128 + q * 16777216 + r * 4096 + a.toNat * 32768 + t.toNat * 1048576 + w.toNat * 8388608 < 2 ^ 32 := by omega
  rw [decode_ramo _ (by rw [fldN_ofNat _ _ _ hN]; exact field_at (0) (28) (786432 + d.toNat * 1 + q * 131072 + r * 32 + a.toNat * 256 + t.toNat * 8192 + w.toNat * 65536) (by omega) (by omega) (by omega)) (by rw [fldN_ofNat _ _ _ hN]; exact field_at (28 + d.toNat * 128 + q * 16777216 + r * 4096 + a.toNat * 32768 + t.toNat * 1048576 + w.toNat * 8388608) (3) (0) (by omega) (by omega) (by omega)),
    fld_ofNat _ _ d hN (field_at (28) (d.toNat) (24576 + q * 4096 + r * 1 + a.toNat * 8 + t.toNat * 256 + w.toNat * 2048) (by omega) (by omega) (by omega)),
    show BitVec.ofNat 4 (fldN (BitVec.ofNat 32 (0x600001C + d.toNat * 128 + q * 16777216 + r * 4096 + a.toNat * 32768 + t.toNat * 1048576 + w.toNat * 8388608)) 24 1 * 8 + fldN (BitVec.ofNat 32 (0x600001C + d.toNat * 128 + q * 16777216 + r * 4096 + a.toNat * 32768 + t.toNat * 1048576 + w.toNat * 8388608)) 12 3) = o from BitVec.eq_of_toNat_eq (by rw [fldN_ofNat _ _ _ hN, fldN_ofNat _ _ _ hN, BitVec.toNat_ofNat, field_at (28 + d.toNat * 128 + r * 4096 + a.toNat * 32768 + t.toNat * 1048576 + w.toNat * 8388608) (q) (3) (by omega) (by omega) (by omega), field_at (28 + d.toNat * 128) (r) (3072 + q * 512 + a.toNat * 1 + t.toNat * 32 + w.toNat * 256) (by omega) (by omega) (by omega)]; omega),
    fld_ofNat _ _ a hN (field_at (28 + d.toNat * 128 + r * 4096) (a.toNat) (96 + q * 16 + t.toNat * 1 + w.toNat * 8) (by omega) (by omega) (by omega)),
    fld_ofNat _ _ t hN (field_at (28 + d.toNat * 128 + r * 4096 + a.toNat * 32768) (t.toNat) (12 + q * 2 + w.toNat * 1) (by omega) (by omega) (by omega)),
    fld_ofNat _ _ w hN (field_at (28 + d.toNat * 128 + r * 4096 + a.toNat * 32768 + t.toNat * 1048576) (w.toNat) (6 + q * 1) (by omega) (by omega) (by omega))]

theorem rcas (d : BitVec 5) (a : BitVec 5) (t : BitVec 3) : Statement (.rcas d a t) := by
  intro _ _ _
  have hd := d.isLt
  have ha := a.isLt
  have ht := t.isLt
  have hN : 0x800001C + d.toNat * 128 + a.toNat * 32768 + t.toNat * 1048576 < 2 ^ 32 := by omega
  show decode (BitVec.ofNat 32 (0x800001C + d.toNat * 128 + a.toNat * 32768 + t.toNat * 1048576)) = _
  rw [decode_rcas _ (by rw [fldN_ofNat _ _ _ hN]; exact field_at (0) (28) (1048576 + d.toNat * 1 + a.toNat * 256 + t.toNat * 8192) (by omega) (by omega) (by omega)) (by rw [fldN_ofNat _ _ _ hN]; exact field_at (28 + d.toNat * 128 + a.toNat * 32768 + t.toNat * 1048576) (4) (0) (by omega) (by omega) (by omega)) (by rw [fldN_ofNat _ _ _ hN]; exact field_at (28 + d.toNat * 128) (0) (4096 + a.toNat * 1 + t.toNat * 32) (by omega) (by omega) (by omega)) (by rw [fldN_ofNat _ _ _ hN]; exact field_at (28 + d.toNat * 128 + a.toNat * 32768 + t.toNat * 1048576) (0) (4) (by omega) (by omega) (by omega)),
    fld_ofNat _ _ d hN (field_at (28) (d.toNat) (32768 + a.toNat * 8 + t.toNat * 256) (by omega) (by omega) (by omega)),
    fld_ofNat _ _ a hN (field_at (28 + d.toNat * 128) (a.toNat) (128 + t.toNat * 1) (by omega) (by omega) (by omega)),
    fld_ofNat _ _ t hN (field_at (28 + d.toNat * 128 + a.toNat * 32768) (t.toNat) (16) (by omega) (by omega) (by omega))]

theorem send (d : BitVec 5) (k : BitVec 3) (a : BitVec 5) (t : BitVec 3) : Statement (.send d k a t) := by
  intro _ _ _
  have hd := d.isLt
  have hk := k.isLt
  have ha := a.isLt
  have ht := t.isLt
  have hN : 0xA00001C + d.toNat * 128 + k.toNat * 4096 + a.toNat * 32768 + t.toNat * 1048576 < 2 ^ 32 := by omega
  show decode (BitVec.ofNat 32 (0xA00001C + d.toNat * 128 + k.toNat * 4096 + a.toNat * 32768 + t.toNat * 1048576)) = _
  rw [decode_send _ (by rw [fldN_ofNat _ _ _ hN]; exact field_at (0) (28) (1310720 + d.toNat * 1 + k.toNat * 32 + a.toNat * 256 + t.toNat * 8192) (by omega) (by omega) (by omega)) (by rw [fldN_ofNat _ _ _ hN]; exact field_at (28 + d.toNat * 128 + k.toNat * 4096 + a.toNat * 32768 + t.toNat * 1048576) (5) (0) (by omega) (by omega) (by omega)) (by rw [fldN_ofNat _ _ _ hN]; exact field_at (28 + d.toNat * 128 + k.toNat * 4096 + a.toNat * 32768 + t.toNat * 1048576) (0) (5) (by omega) (by omega) (by omega)),
    fld_ofNat _ _ d hN (field_at (28) (d.toNat) (40960 + k.toNat * 1 + a.toNat * 8 + t.toNat * 256) (by omega) (by omega) (by omega)),
    fld_ofNat _ _ k hN (field_at (28 + d.toNat * 128) (k.toNat) (5120 + a.toNat * 1 + t.toNat * 32) (by omega) (by omega) (by omega)),
    fld_ofNat _ _ a hN (field_at (28 + d.toNat * 128 + k.toNat * 4096) (a.toNat) (160 + t.toNat * 1) (by omega) (by omega) (by omega)),
    fld_ofNat _ _ t hN (field_at (28 + d.toNat * 128 + k.toNat * 4096 + a.toNat * 32768) (t.toNat) (20) (by omega) (by omega) (by omega))]

theorem rnarrow (r : BitVec 4) (x : BitVec 1) (t : BitVec 3) (a : BitVec 5) (s : BitVec 3) : Statement (.rnarrow r x t a s) := by
  intro _ _ _
  have hr := r.isLt
  have hx := x.isLt
  have ht := t.isLt
  have ha := a.isLt
  have hs := s.isLt
  have hN : 0xC00001C + r.toNat * 128 + x.toNat * 2048 + t.toNat * 4096 + a.toNat * 32768 + s.toNat * 1048576 < 2 ^ 32 := by omega
  show decode (BitVec.ofNat 32 (0xC00001C + r.toNat * 128 + x.toNat * 2048 + t.toNat * 4096 + a.toNat * 32768 + s.toNat * 1048576)) = _
  rw [decode_rnarrow _ (by rw [fldN_ofNat _ _ _ hN]; exact field_at (0) (28) (1572864 + r.toNat * 1 + x.toNat * 16 + t.toNat * 32 + a.toNat * 256 + s.toNat * 8192) (by omega) (by omega) (by omega)) (by rw [fldN_ofNat _ _ _ hN]; exact field_at (28 + r.toNat * 128 + x.toNat * 2048 + t.toNat * 4096 + a.toNat * 32768 + s.toNat * 1048576) (6) (0) (by omega) (by omega) (by omega)) (by rw [fldN_ofNat _ _ _ hN]; exact field_at (28 + r.toNat * 128 + x.toNat * 2048 + t.toNat * 4096 + a.toNat * 32768 + s.toNat * 1048576) (0) (6) (by omega) (by omega) (by omega)),
    fld_ofNat _ _ r hN (field_at (28) (r.toNat) (98304 + x.toNat * 1 + t.toNat * 2 + a.toNat * 16 + s.toNat * 512) (by omega) (by omega) (by omega)),
    fld_ofNat _ _ x hN (field_at (28 + r.toNat * 128) (x.toNat) (49152 + t.toNat * 1 + a.toNat * 8 + s.toNat * 256) (by omega) (by omega) (by omega)),
    fld_ofNat _ _ t hN (field_at (28 + r.toNat * 128 + x.toNat * 2048) (t.toNat) (6144 + a.toNat * 1 + s.toNat * 32) (by omega) (by omega) (by omega)),
    fld_ofNat _ _ a hN (field_at (28 + r.toNat * 128 + x.toNat * 2048 + t.toNat * 4096) (a.toNat) (192 + s.toNat * 1) (by omega) (by omega) (by omega)),
    fld_ofNat _ _ s hN (field_at (28 + r.toNat * 128 + x.toNat * 2048 + t.toNat * 4096 + a.toNat * 32768) (s.toNat) (24) (by omega) (by omega) (by omega))]

theorem rtld (a : BitVec 5) (t : BitVec 3) : Statement (.rtld a t) := by
  intro _ _ _
  have ha := a.isLt
  have ht := t.isLt
  have hN : 0xE00001C + a.toNat * 32768 + t.toNat * 1048576 < 2 ^ 32 := by omega
  show decode (BitVec.ofNat 32 (0xE00001C + a.toNat * 32768 + t.toNat * 1048576)) = _
  rw [decode_rtld _ (by rw [fldN_ofNat _ _ _ hN]; exact field_at (0) (28) (1835008 + a.toNat * 256 + t.toNat * 8192) (by omega) (by omega) (by omega)) (by rw [fldN_ofNat _ _ _ hN]; exact field_at (28 + a.toNat * 32768 + t.toNat * 1048576) (7) (0) (by omega) (by omega) (by omega)) (by rw [fldN_ofNat _ _ _ hN]; exact field_at (28) (0) (7168 + a.toNat * 1 + t.toNat * 32) (by omega) (by omega) (by omega)) (by rw [fldN_ofNat _ _ _ hN]; exact field_at (28 + a.toNat * 32768 + t.toNat * 1048576) (0) (7) (by omega) (by omega) (by omega)),
    fld_ofNat _ _ a hN (field_at (28) (a.toNat) (224 + t.toNat * 1) (by omega) (by omega) (by omega)),
    fld_ofNat _ _ t hN (field_at (28 + a.toNat * 32768) (t.toNat) (28) (by omega) (by omega) (by omega))]

theorem rtst (a : BitVec 5) (t : BitVec 3) : Statement (.rtst a t) := by
  intro _ _ _
  have ha := a.isLt
  have ht := t.isLt
  have hN : 0x1000001C + a.toNat * 32768 + t.toNat * 1048576 < 2 ^ 32 := by omega
  show decode (BitVec.ofNat 32 (0x1000001C + a.toNat * 32768 + t.toNat * 1048576)) = _
  rw [decode_rtst _ (by rw [fldN_ofNat _ _ _ hN]; exact field_at (0) (28) (2097152 + a.toNat * 256 + t.toNat * 8192) (by omega) (by omega) (by omega)) (by rw [fldN_ofNat _ _ _ hN]; exact field_at (28 + a.toNat * 32768 + t.toNat * 1048576) (8) (0) (by omega) (by omega) (by omega)) (by rw [fldN_ofNat _ _ _ hN]; exact field_at (28) (0) (8192 + a.toNat * 1 + t.toNat * 32) (by omega) (by omega) (by omega)) (by rw [fldN_ofNat _ _ _ hN]; exact field_at (28 + a.toNat * 32768 + t.toNat * 1048576) (0) (8) (by omega) (by omega) (by omega)),
    fld_ofNat _ _ a hN (field_at (28) (a.toNat) (256 + t.toNat * 1) (by omega) (by omega) (by omega)),
    fld_ofNat _ _ t hN (field_at (28 + a.toNat * 32768) (t.toNat) (32) (by omega) (by omega) (by omega))]

theorem rmov (t : BitVec 3) (s : BitVec 3) : Statement (.rmov t s) := by
  intro _ _ _
  have ht := t.isLt
  have hs := s.isLt
  have hN : 0x1200001C + t.toNat * 4096 + s.toNat * 1048576 < 2 ^ 32 := by omega
  show decode (BitVec.ofNat 32 (0x1200001C + t.toNat * 4096 + s.toNat * 1048576)) = _
  rw [decode_rmov _ (by rw [fldN_ofNat _ _ _ hN]; exact field_at (0) (28) (2359296 + t.toNat * 32 + s.toNat * 8192) (by omega) (by omega) (by omega)) (by rw [fldN_ofNat _ _ _ hN]; exact field_at (28 + t.toNat * 4096 + s.toNat * 1048576) (9) (0) (by omega) (by omega) (by omega)) (by rw [fldN_ofNat _ _ _ hN]; exact field_at (28) (0) (73728 + t.toNat * 1 + s.toNat * 256) (by omega) (by omega) (by omega)) (by rw [fldN_ofNat _ _ _ hN]; exact field_at (28 + t.toNat * 4096) (0) (288 + s.toNat * 1) (by omega) (by omega) (by omega)) (by rw [fldN_ofNat _ _ _ hN]; exact field_at (28 + t.toNat * 4096 + s.toNat * 1048576) (0) (9) (by omega) (by omega) (by omega)),
    fld_ofNat _ _ t hN (field_at (28) (t.toNat) (9216 + s.toNat * 32) (by omega) (by omega) (by omega)),
    fld_ofNat _ _ s hN (field_at (28 + t.toNat * 4096) (s.toNat) (36) (by omega) (by omega) (by omega))]

theorem rrevoke (d : BitVec 5) : Statement (.rrevoke d) := by
  intro _ _ _
  have hd := d.isLt
  have hN : 0x1400001C + d.toNat * 128 < 2 ^ 32 := by omega
  show decode (BitVec.ofNat 32 (0x1400001C + d.toNat * 128)) = _
  rw [decode_rrevoke _ (by rw [fldN_ofNat _ _ _ hN]; exact field_at (0) (28) (2621440 + d.toNat * 1) (by omega) (by omega) (by omega)) (by rw [fldN_ofNat _ _ _ hN]; exact field_at (28 + d.toNat * 128) (10) (0) (by omega) (by omega) (by omega)) (by rw [fldN_ofNat _ _ _ hN]; exact field_at (28 + d.toNat * 128) (0) (10) (by omega) (by omega) (by omega)),
    fld_ofNat _ _ d hN (field_at (28) (d.toNat) (81920) (by omega) (by omega) (by omega))]

theorem rstm (d : BitVec 5) (a : BitVec 5) (t : BitVec 3) (q : BitVec 2) : Statement (.rstm d a t q) := by
  intro _ _ _
  have hd := d.isLt
  have ha := a.isLt
  have ht := t.isLt
  have hq := q.isLt
  have hN : 0x1600001C + d.toNat * 128 + a.toNat * 32768 + t.toNat * 1048576 + q.toNat * 8388608 < 2 ^ 32 := by omega
  show decode (BitVec.ofNat 32 (0x1600001C + d.toNat * 128 + a.toNat * 32768 + t.toNat * 1048576 + q.toNat * 8388608)) = _
  rw [decode_rstm _ (by rw [fldN_ofNat _ _ _ hN]; exact field_at (0) (28) (2883584 + d.toNat * 1 + a.toNat * 256 + t.toNat * 8192 + q.toNat * 65536) (by omega) (by omega) (by omega)) (by rw [fldN_ofNat _ _ _ hN]; exact field_at (28 + d.toNat * 128 + a.toNat * 32768 + t.toNat * 1048576 + q.toNat * 8388608) (11) (0) (by omega) (by omega) (by omega)) (by rw [fldN_ofNat _ _ _ hN]; exact field_at (28 + d.toNat * 128) (0) (11264 + a.toNat * 1 + t.toNat * 32 + q.toNat * 256) (by omega) (by omega) (by omega)),
    fld_ofNat _ _ d hN (field_at (28) (d.toNat) (90112 + a.toNat * 8 + t.toNat * 256 + q.toNat * 2048) (by omega) (by omega) (by omega)),
    fld_ofNat _ _ a hN (field_at (28 + d.toNat * 128) (a.toNat) (352 + t.toNat * 1 + q.toNat * 8) (by omega) (by omega) (by omega)),
    fld_ofNat _ _ t hN (field_at (28 + d.toNat * 128 + a.toNat * 32768) (t.toNat) (44 + q.toNat * 1) (by omega) (by omega) (by omega)),
    fld_ofNat _ _ q hN (field_at (28 + d.toNat * 128 + a.toNat * 32768 + t.toNat * 1048576) (q.toNat) (11) (by omega) (by omega) (by omega))]

theorem vstxr (d : BitVec 5) (a : BitVec 5) (b : BitVec 5) (m : BitVec 1) : Statement (.vstxr d a b m) := by
  intro _ _ _
  have hd := d.isLt
  have ha := a.isLt
  have hb := b.isLt
  have hm := m.isLt
  have hN : 0x1D + d.toNat * 128 + a.toNat * 32768 + b.toNat * 1048576 + m.toNat * 33554432 < 2 ^ 32 := by omega
  show decode (BitVec.ofNat 32 (0x1D + d.toNat * 128 + a.toNat * 32768 + b.toNat * 1048576 + m.toNat * 33554432)) = _
  rw [decode_vstxr _ (by rw [fldN_ofNat _ _ _ hN]; exact field_at (0) (29) (0 + d.toNat * 1 + a.toNat * 256 + b.toNat * 8192 + m.toNat * 262144) (by omega) (by omega) (by omega)) (by rw [fldN_ofNat _ _ _ hN]; exact field_at (29 + d.toNat * 128 + a.toNat * 32768 + b.toNat * 1048576 + m.toNat * 33554432) (0) (0) (by omega) (by omega) (by omega)) (by rw [fldN_ofNat _ _ _ hN]; exact field_at (29 + d.toNat * 128) (0) (0 + a.toNat * 1 + b.toNat * 32 + m.toNat * 1024) (by omega) (by omega) (by omega)),
    fld_ofNat _ _ d hN (field_at (29) (d.toNat) (0 + a.toNat * 8 + b.toNat * 256 + m.toNat * 8192) (by omega) (by omega) (by omega)),
    fld_ofNat _ _ a hN (field_at (29 + d.toNat * 128) (a.toNat) (0 + b.toNat * 1 + m.toNat * 32) (by omega) (by omega) (by omega)),
    fld_ofNat _ _ b hN (field_at (29 + d.toNat * 128 + a.toNat * 32768) (b.toNat) (0 + m.toNat * 1) (by omega) (by omega) (by omega)),
    fld_ofNat _ _ m hN (field_at (29 + d.toNat * 128 + a.toNat * 32768 + b.toNat * 1048576) (m.toNat) (0) (by omega) (by omega) (by omega))]

theorem collbegin (d : BitVec 5) (o : BitVec 2) (a : BitVec 5) (b : BitVec 5) : Statement (.collbegin d o a b) := by
  intro _ _ _
  have hd := d.isLt
  have ho := o.isLt
  have ha := a.isLt
  have hb := b.isLt
  have hN : 0x400001D + d.toNat * 128 + o.toNat * 4096 + a.toNat * 32768 + b.toNat * 1048576 < 2 ^ 32 := by omega
  show decode (BitVec.ofNat 32 (0x400001D + d.toNat * 128 + o.toNat * 4096 + a.toNat * 32768 + b.toNat * 1048576)) = _
  rw [decode_collbegin _ (by rw [fldN_ofNat _ _ _ hN]; exact field_at (0) (29) (524288 + d.toNat * 1 + o.toNat * 32 + a.toNat * 256 + b.toNat * 8192) (by omega) (by omega) (by omega)) (by rw [fldN_ofNat _ _ _ hN]; exact field_at (29 + d.toNat * 128 + o.toNat * 4096 + a.toNat * 32768 + b.toNat * 1048576) (1) (0) (by omega) (by omega) (by omega)) (by rw [fldN_ofNat _ _ _ hN]; exact field_at (29 + d.toNat * 128 + o.toNat * 4096) (0) (2048 + a.toNat * 1 + b.toNat * 32) (by omega) (by omega) (by omega)) (by rw [fldN_ofNat _ _ _ hN]; exact field_at (29 + d.toNat * 128 + o.toNat * 4096 + a.toNat * 32768 + b.toNat * 1048576) (0) (1) (by omega) (by omega) (by omega)),
    fld_ofNat _ _ d hN (field_at (29) (d.toNat) (16384 + o.toNat * 1 + a.toNat * 8 + b.toNat * 256) (by omega) (by omega) (by omega)),
    fld_ofNat _ _ o hN (field_at (29 + d.toNat * 128) (o.toNat) (4096 + a.toNat * 2 + b.toNat * 64) (by omega) (by omega) (by omega)),
    fld_ofNat _ _ a hN (field_at (29 + d.toNat * 128 + o.toNat * 4096) (a.toNat) (64 + b.toNat * 1) (by omega) (by omega) (by omega)),
    fld_ofNat _ _ b hN (field_at (29 + d.toNat * 128 + o.toNat * 4096 + a.toNat * 32768) (b.toNat) (2) (by omega) (by omega) (by omega))]

theorem collend (d : BitVec 5) (o : BitVec 2) (a : BitVec 5) (m : BitVec 1) : Statement (.collend d o a m) := by
  intro _ hwf _
  have ho : o.toNat ≠ 0 := by
    intro h0
    have : o = 0 := BitVec.eq_of_toNat_eq h0
    subst this; exact absurd hwf (by simp [Instr.wellFormed, foldOp])
  have hd := d.isLt
  have ho := o.isLt
  have ha := a.isLt
  have hm := m.isLt
  have hN : 0x800001D + d.toNat * 128 + o.toNat * 4096 + a.toNat * 32768 + m.toNat * 33554432 < 2 ^ 32 := by omega
  show decode (BitVec.ofNat 32 (0x800001D + d.toNat * 128 + o.toNat * 4096 + a.toNat * 32768 + m.toNat * 33554432)) = _
  rw [decode_collend _ (by rw [fldN_ofNat _ _ _ hN]; exact field_at (0) (29) (1048576 + d.toNat * 1 + o.toNat * 32 + a.toNat * 256 + m.toNat * 262144) (by omega) (by omega) (by omega)) (by rw [fldN_ofNat _ _ _ hN]; exact field_at (29 + d.toNat * 128 + o.toNat * 4096 + a.toNat * 32768 + m.toNat * 33554432) (2) (0) (by omega) (by omega) (by omega)) (by rw [fldN_ofNat _ _ _ hN, field_at (29 + d.toNat * 128) (o.toNat) (8192 + a.toNat * 2 + m.toNat * 2048) (by omega) (by omega) (by omega)]; omega) (by rw [fldN_ofNat _ _ _ hN]; exact field_at (29 + d.toNat * 128 + o.toNat * 4096) (0) (4096 + a.toNat * 1 + m.toNat * 1024) (by omega) (by omega) (by omega)) (by rw [fldN_ofNat _ _ _ hN]; exact field_at (29 + d.toNat * 128 + o.toNat * 4096 + a.toNat * 32768) (0) (4 + m.toNat * 1) (by omega) (by omega) (by omega)),
    fld_ofNat _ _ d hN (field_at (29) (d.toNat) (32768 + o.toNat * 1 + a.toNat * 8 + m.toNat * 8192) (by omega) (by omega) (by omega)),
    fld_ofNat _ _ o hN (field_at (29 + d.toNat * 128) (o.toNat) (8192 + a.toNat * 2 + m.toNat * 2048) (by omega) (by omega) (by omega)),
    fld_ofNat _ _ a hN (field_at (29 + d.toNat * 128 + o.toNat * 4096) (a.toNat) (128 + m.toNat * 32) (by omega) (by omega) (by omega)),
    fld_ofNat _ _ m hN (field_at (29 + d.toNat * 128 + o.toNat * 4096 + a.toNat * 32768) (m.toNat) (2) (by omega) (by omega) (by omega))]

theorem collendExch (a : BitVec 5) (m : BitVec 1) : Statement (.collendExch a m) := by
  intro _ _ _
  have ha := a.isLt
  have hm := m.isLt
  have hN : 0x800001D + a.toNat * 32768 + m.toNat * 33554432 < 2 ^ 32 := by omega
  show decode (BitVec.ofNat 32 (0x800001D + a.toNat * 32768 + m.toNat * 33554432)) = _
  rw [decode_collendExch _ (by rw [fldN_ofNat _ _ _ hN]; exact field_at (0) (29) (1048576 + a.toNat * 256 + m.toNat * 262144) (by omega) (by omega) (by omega)) (by rw [fldN_ofNat _ _ _ hN]; exact field_at (29 + a.toNat * 32768 + m.toNat * 33554432) (2) (0) (by omega) (by omega) (by omega)) (by rw [fldN_ofNat _ _ _ hN]; exact field_at (29) (0) (8192 + a.toNat * 2 + m.toNat * 2048) (by omega) (by omega) (by omega)) (by rw [fldN_ofNat _ _ _ hN]; exact field_at (29) (0) (32768 + a.toNat * 8 + m.toNat * 8192) (by omega) (by omega) (by omega)) (by rw [fldN_ofNat _ _ _ hN]; exact field_at (29) (0) (4096 + a.toNat * 1 + m.toNat * 1024) (by omega) (by omega) (by omega)) (by rw [fldN_ofNat _ _ _ hN]; exact field_at (29 + a.toNat * 32768) (0) (4 + m.toNat * 1) (by omega) (by omega) (by omega)),
    fld_ofNat _ _ a hN (field_at (29) (a.toNat) (128 + m.toNat * 32) (by omega) (by omega) (by omega)),
    fld_ofNat _ _ m hN (field_at (29 + a.toNat * 32768) (m.toNat) (2) (by omega) (by omega) (by omega))]

theorem collabort (a : BitVec 5) : Statement (.collabort a) := by
  intro _ _ _
  have ha := a.isLt
  have hN : 0xC00001D + a.toNat * 32768 < 2 ^ 32 := by omega
  show decode (BitVec.ofNat 32 (0xC00001D + a.toNat * 32768)) = _
  rw [decode_collabort _ (by rw [fldN_ofNat _ _ _ hN]; exact field_at (0) (29) (1572864 + a.toNat * 256) (by omega) (by omega) (by omega)) (by rw [fldN_ofNat _ _ _ hN]; exact field_at (29 + a.toNat * 32768) (3) (0) (by omega) (by omega) (by omega)) (by rw [fldN_ofNat _ _ _ hN]; exact field_at (29) (0) (6144 + a.toNat * 1) (by omega) (by omega) (by omega)) (by rw [fldN_ofNat _ _ _ hN]; exact field_at (29 + a.toNat * 32768) (0) (3) (by omega) (by omega) (by omega)),
    fld_ofNat _ _ a hN (field_at (29) (a.toNat) (192) (by omega) (by omega) (by omega))]

theorem illegalWord (w : BitVec 32) : Statement (.illegalWord w) := by
  intro _ _ h
  have e := h w rfl
  show decode w = _
  unfold decode; rw [e]

theorem pwrgoodLow : Statement .pwrgoodLow := fun h => nomatch h

theorem pwrgoodRise : Statement .pwrgoodRise := fun h => nomatch h

theorem perstAssert : Statement .perstAssert := fun h => nomatch h

theorem perstDeassert : Statement .perstDeassert := fun h => nomatch h

theorem identityPhase (reconOk : Bool) : Statement (.identityPhase reconOk) := fun h => nomatch h

theorem imagePhase (counterOk : Bool) : Statement (.imagePhase counterOk) := fun h => nomatch h

theorem diesPhase (fail : FailCode) : Statement (.diesPhase fail) := fun h => nomatch h

theorem firmwarePhase (fail : FailCode) : Statement (.firmwarePhase fail) := fun h => nomatch h

theorem storagePhase (drives : BitVec 4) : Statement (.storagePhase drives) := fun h => nomatch h

theorem ready : Statement .ready := fun h => nomatch h

theorem phaseTimeout : Statement .phaseTimeout := fun h => nomatch h

theorem minVersionRaise : Statement .minVersionRaise := fun h => nomatch h

theorem configRequest (elapsed100ms : Bool) (place : CfgPlace) : Statement (.configRequest elapsed100ms place) := fun h => nomatch h

theorem currentGovernorSample (die : BitVec 3) (bubbles : Nat) : Statement (.currentGovernorSample die bubbles) := fun h => nomatch h

theorem vcoreDroop (dies : BitVec 8) : Statement (.vcoreDroop dies) := fun h => nomatch h

theorem thermalSample (die : BitVec 3) (degC : Nat) : Statement (.thermalSample die degC) := fun h => nomatch h

theorem firmwareWatchdog : Statement .firmwareWatchdog := fun h => nomatch h

theorem patrolScrub (target : ScrubTarget) (found : EccOutcome) : Statement (.patrolScrub target found) := fun h => nomatch h

theorem pldmMonitor : Statement .pldmMonitor := fun h => nomatch h

theorem pldmFirmwareUpdate (slotB : Bool) (img : FlashImage) : Statement (.pldmFirmwareUpdate slotB img) := fun h => nomatch h

theorem linkEnable (p : BitVec 4) (signal : Bool) : Statement (.linkEnable p signal) := fun h => nomatch h

theorem linkTrained (p : BitVec 4) : Statement (.linkTrained p) := fun h => nomatch h

theorem trainTimeout (p : BitVec 4) : Statement (.trainTimeout p) := fun h => nomatch h

theorem trainRetry (p : BitVec 4) (signal : Bool) : Statement (.trainRetry p signal) := fun h => nomatch h

theorem authEstablished (l : LinkRef) (peerId : DevId) (peer : PeerAuth) : Statement (.authEstablished l peerId peer) := fun h => nomatch h

theorem authFail (l : LinkRef) : Statement (.authFail l) := fun h => nomatch h

theorem authTimeout (l : LinkRef) : Statement (.authTimeout l) := fun h => nomatch h

theorem linkSignalLoss (p : BitVec 4) : Statement (.linkSignalLoss p) := fun h => nomatch h

theorem linkHeartbeatTimeout (l : LinkRef) : Statement (.linkHeartbeatTimeout l) := fun h => nomatch h

theorem linkHeartbeatSend (l : LinkRef) : Statement (.linkHeartbeatSend l) := fun h => nomatch h

theorem linkKeyUpdate (l : LinkRef) : Statement (.linkKeyUpdate l) := fun h => nomatch h

theorem linkDisable (l : LinkRef) : Statement (.linkDisable l) := fun h => nomatch h

theorem linkReenable (l : LinkRef) : Statement (.linkReenable l) := fun h => nomatch h

theorem frameSend (l : LinkRef) : Statement (.frameSend l) := fun h => nomatch h

theorem frameReceive (p : BitVec 4) (f : Frame) (tagOk : Bool) : Statement (.frameReceive p f tagOk) := fun h => nomatch h

theorem switchRequest (k : Nat) : Statement (.switchRequest k) := fun h => nomatch h

theorem switchReply (k : Nat) : Statement (.switchReply k) := fun h => nomatch h

theorem multicastTimeout (k : Nat) : Statement (.multicastTimeout k) := fun h => nomatch h

theorem requestTimeout (core : Nat) (qtag : BitVec 16) : Statement (.requestTimeout core qtag) := fun h => nomatch h

theorem flitAge : Statement .flitAge := fun h => nomatch h

theorem requestAdmission (k : Nat) : Statement (.requestAdmission k) := fun h => nomatch h

theorem retry (k : Nat) : Statement (.retry k) := fun h => nomatch h

theorem reinject (k : Nat) : Statement (.reinject k) := fun h => nomatch h

theorem backnote (k : Nat) : Statement (.backnote k) := fun h => nomatch h

theorem gapHalve (core : Nat) (slot : BitVec 3) (rt : BitVec 3) : Statement (.gapHalve core slot rt) := fun h => nomatch h

theorem peerEntryWrite (eth : BitVec 2) (idx : BitVec 5) (val : BitVec 128) : Statement (.peerEntryWrite eth idx val) := fun h => nomatch h

theorem ethFrameReceive (eth : BitVec 2) (idx : BitVec 5) (frames : List (Frame × Bool)) : Statement (.ethFrameReceive eth idx frames) := fun h => nomatch h

theorem ethReplayTimeout (eth : BitVec 2) (idx : BitVec 5) : Statement (.ethReplayTimeout eth idx) := fun h => nomatch h

theorem ethReauth (eth : BitVec 2) (idx : BitVec 5) : Statement (.ethReauth eth idx) := fun h => nomatch h

theorem keyInstall (slot : BitVec 4) (key : BitVec 256) : Statement (.keyInstall slot key) := fun h => nomatch h

theorem keyActivate (slot : BitVec 4) : Statement (.keyActivate slot) := fun h => nomatch h

theorem keyRetire (slot : BitVec 4) : Statement (.keyRetire slot) := fun h => nomatch h

theorem keyRotation : Statement .keyRotation := fun h => nomatch h

theorem wrapNotice (ctr : CounterRef) : Statement (.wrapNotice ctr) := fun h => nomatch h

theorem revocationComplete (k : Nat) : Statement (.revocationComplete k) := fun h => nomatch h

theorem linkMap (src : DevId) (report : MapReport) : Statement (.linkMap src report) := fun h => nomatch h

theorem idAssign (lead : DevId) (table : List (DevId × BitVec 16)) : Statement (.idAssign lead table) := fun h => nomatch h

theorem leadDepart (lead : DevId) : Statement (.leadDepart lead) := fun h => nomatch h

theorem domainMerge (otherLead : DevId) : Statement (.domainMerge otherLead) := fun h => nomatch h

theorem mint (k : Nat) : Statement (.mint k) := fun h => nomatch h

theorem mintm (k : Nat) : Statement (.mintm k) := fun h => nomatch h

theorem revoke (k : Nat) : Statement (.revoke k) := fun h => nomatch h

theorem openm (k : Nat) : Statement (.openm k) := fun h => nomatch h

theorem query (k : Nat) : Statement (.query k) := fun h => nomatch h

theorem leafConfirm (asker : DevId) (gkey : Word) (tunit : BitVec 12) (base : BitVec 48) : Statement (.leafConfirm asker gkey tunit base) := fun h => nomatch h

theorem loadRequest (k : Nat) : Statement (.loadRequest k) := fun h => nomatch h

theorem storeRequest (k : Nat) : Statement (.storeRequest k) := fun h => nomatch h

theorem pstoreRequest (k : Nat) : Statement (.pstoreRequest k) := fun h => nomatch h

theorem atomicRequest (k : Nat) : Statement (.atomicRequest k) := fun h => nomatch h

theorem casRequest (k : Nat) : Statement (.casRequest k) := fun h => nomatch h

theorem sendRequest (k : Nat) : Statement (.sendRequest k) := fun h => nomatch h

theorem putRequest (k : Nat) : Statement (.putRequest k) := fun h => nomatch h

theorem getRequest (k : Nat) : Statement (.getRequest k) := fun h => nomatch h

theorem strdataRequest (k : Nat) : Statement (.strdataRequest k) := fun h => nomatch h

theorem mstoreRequest (k : Nat) : Statement (.mstoreRequest k) := fun h => nomatch h

theorem atomicRetransmit (core : Nat) (qtag : BitVec 16) : Statement (.atomicRetransmit core qtag) := fun h => nomatch h

theorem dataReply (k : Nat) : Statement (.dataReply k) := fun h => nomatch h

theorem ackReply (k : Nat) : Statement (.ackReply k) := fun h => nomatch h

theorem errorReply (k : Nat) : Statement (.errorReply k) := fun h => nomatch h

theorem mackReply (k : Nat) : Statement (.mackReply k) := fun h => nomatch h

theorem faultRecord (k : Nat) : Statement (.faultRecord k) := fun h => nomatch h

theorem nvmeCompletion (cid : Nat) (nvst : BitVec 16) (dnr : Bool) : Statement (.nvmeCompletion cid nvst dnr) := fun h => nomatch h

theorem busyRangeClear (k : Nat) : Statement (.busyRangeClear k) := fun h => nomatch h

theorem nvmeTimeout (cid : Nat) (d : BitVec 2) : Statement (.nvmeTimeout cid d) := fun h => nomatch h

theorem controllerReadyTimeout (drive : BitVec 2) : Statement (.controllerReadyTimeout drive) := fun h => nomatch h

theorem driveInboundRequest (drive : BitVec 2) (pa : Nat) (val : Option Byte) : Statement (.driveInboundRequest drive pa val) := fun h => nomatch h

theorem writeback (k : Nat) : Statement (.writeback k) := fun h => nomatch h

theorem prefetch (k : Nat) : Statement (.prefetch k) := fun h => nomatch h

theorem trim (k : Nat) : Statement (.trim k) := fun h => nomatch h

theorem flush (k : Nat) : Statement (.flush k) := fun h => nomatch h

theorem slotset (k : Nat) : Statement (.slotset k) := fun h => nomatch h

theorem slotclr (k : Nat) : Statement (.slotclr k) := fun h => nomatch h

theorem resume (k : Nat) : Statement (.resume k) := fun h => nomatch h

theorem siphonMessageDeliver (k : Nat) : Statement (.siphonMessageDeliver k) := fun h => nomatch h

theorem tailWrite (fn : BitVec 6) (val : BitVec 32) : Statement (.tailWrite fn val) := fun h => nomatch h

theorem cplheadWrite (fn : BitVec 6) (val : BitVec 32) : Statement (.cplheadWrite fn val) := fun h => nomatch h

theorem ringConfigWrite (fn : BitVec 6) (off : BitVec 14) (wide : Bool) (val : Word) : Statement (.ringConfigWrite fn off wide val) := fun h => nomatch h

theorem registerWrite (fn : BitVec 6) (off : BitVec 14) (wide : Bool) (val : Word) : Statement (.registerWrite fn off wide val) := fun h => nomatch h

theorem configSpaceChange (change : SpaceChange) : Statement (.configSpaceChange change) := fun h => nomatch h

theorem functionLevelReset (fn : BitVec 6) : Statement (.functionLevelReset fn) := fun h => nomatch h

theorem ideError (fn : BitVec 6) : Statement (.ideError fn) := fun h => nomatch h

theorem ringEntry (fn : BitVec 6) (e : RingEntry) (tagOk : Bool) : Statement (.ringEntry fn e tagOk) := fun h => nomatch h

theorem dmaError (fn : BitVec 6) : Statement (.dmaError fn) := fun h => nomatch h

theorem completionWrite (fn : BitVec 6) : Statement (.completionWrite fn) := fun h => nomatch h

theorem scrubComplete (fn : BitVec 6) : Statement (.scrubComplete fn) := fun h => nomatch h

theorem lockInterfaceRequest (fn : BitVec 6) (secured : Bool) : Statement (.lockInterfaceRequest fn secured) := fun h => nomatch h

theorem startInterfaceRequest (fn : BitVec 6) (secured : Bool) (nonce : BitVec 256) : Statement (.startInterfaceRequest fn secured nonce) := fun h => nomatch h

theorem stopInterfaceRequest (fn : BitVec 6) (secured : Bool) : Statement (.stopInterfaceRequest fn secured) := fun h => nomatch h

theorem getDeviceInterfaceState (fn : BitVec 6) (secured : Bool) : Statement (.getDeviceInterfaceState fn secured) := fun h => nomatch h

theorem getDeviceInterfaceReport (fn : BitVec 6) (secured : Bool) : Statement (.getDeviceInterfaceReport fn secured) := fun h => nomatch h

theorem keyExchange (fn : BitVec 6) (ok : Bool) : Statement (.keyExchange fn ok) := fun h => nomatch h

theorem endSession (fn : BitVec 6) : Statement (.endSession fn) := fun h => nomatch h

theorem keyUpdate (fn : BitVec 6) (reqToRsp : Bool) (rspToReq : Bool) : Statement (.keyUpdate fn reqToRsp rspToReq) := fun h => nomatch h

theorem heartbeat (fn : BitVec 6) (verified : Bool) : Statement (.heartbeat fn verified) := fun h => nomatch h

theorem sessionTimeout (fn : BitVec 6) : Statement (.sessionTimeout fn) := fun h => nomatch h

theorem getMeasurements (fn : BitVec 6) (index : Byte) (signed : Bool) : Statement (.getMeasurements fn index signed) := fun h => nomatch h

theorem getCertificate (fn : BitVec 6) (certSlot : Byte) : Statement (.getCertificate fn certSlot) := fun h => nomatch h

theorem challenge (fn : BitVec 6) (nonce : BitVec 256) : Statement (.challenge fn nonce) := fun h => nomatch h

theorem keyProg (fn : BitVec 6) (secured : Bool) (keySet : StreamSet) (key : BitVec 256) : Statement (.keyProg fn secured keySet key) := fun h => nomatch h

theorem kSetGo (fn : BitVec 6) (secured : Bool) (keySet : StreamSet) : Statement (.kSetGo fn secured keySet) := fun h => nomatch h

theorem kSetStop (fn : BitVec 6) (secured : Bool) (keySet : StreamSet) : Statement (.kSetStop fn secured keySet) := fun h => nomatch h

theorem enclParam (fn : BitVec 6) (secured : Bool) (count : Nat) (storageKey : BitVec 256) (key0 : Bool) : Statement (.enclParam fn secured count storageKey key0) := fun h => nomatch h

theorem enclQuery (fn : BitVec 6) (secured : Bool) : Statement (.enclQuery fn secured) := fun h => nomatch h

theorem launchValidate (k : Nat) : Statement (.launchValidate k) := fun h => nomatch h

theorem placeLaunch (queue : BitVec 5) (pl : Placement) : Statement (.placeLaunch queue pl) := fun h => nomatch h

theorem resumeLaunch (launch : BitVec 32) : Statement (.resumeLaunch launch) := fun h => nomatch h

theorem priorityPreempt (queue : BitVec 5) (pl : Placement) (victims : List (BitVec 32)) : Statement (.priorityPreempt queue pl victims) := fun h => nomatch h

theorem enclaveSwitch (core : Nat) (encl : Byte) : Statement (.enclaveSwitch core encl) := fun h => nomatch h

theorem launchComplete (launch : BitVec 32) : Statement (.launchComplete launch) := fun h => nomatch h

theorem chargeDecay (core : Nat) : Statement (.chargeDecay core) := fun h => nomatch h

theorem chargeReport (core : Nat) : Statement (.chargeReport core) := fun h => nomatch h

theorem sluiceChargeDecay : Statement .sluiceChargeDecay := fun h => nomatch h

theorem stripEnd (core : Nat) (group : BitVec 2) : Statement (.stripEnd core group) := fun h => nomatch h

theorem pumpRepetition (core : Nat) (slot : BitVec 3) : Statement (.pumpRepetition core slot) := fun h => nomatch h

theorem streamFetch (core : Nat) (slot : BitVec 3) (stream : BitVec 3) (n : Nat) : Statement (.streamFetch core slot stream n) := fun h => nomatch h

theorem copyPacket (core : Nat) : Statement (.copyPacket core) := fun h => nomatch h

theorem weirApply (place : WeirPlace) : Statement (.weirApply place) := fun h => nomatch h

theorem collAbortSend (core : Nat) (slot : BitVec 3) (launch : BitVec 32) : Statement (.collAbortSend core slot launch) := fun h => nomatch h

theorem timecmpReached (core : Nat) (slot : BitVec 3) : Statement (.timecmpReached core slot) := fun h => nomatch h

theorem interruptTake (core : Nat) (slot : BitVec 3) : Statement (.interruptTake core slot) := fun h => nomatch h

theorem deferredTrap (core : Nat) (slot : BitVec 3) : Statement (.deferredTrap core slot) := fun h => nomatch h

theorem signalDetect (p : BitVec 4) : Statement (.signalDetect p) := fun h => nomatch h

theorem routerCycle : Statement .routerCycle := fun h => nomatch h

theorem injectionGapPassed (core : Nat) (slot : BitVec 3) (rt : BitVec 3) : Statement (.injectionGapPassed core slot rt) := fun h => nomatch h

theorem controllerReady (drive : BitVec 2) : Statement (.controllerReady drive) := fun h => nomatch h

theorem installAck (src : DevId) (slot : BitVec 4) : Statement (.installAck src slot) := fun h => nomatch h

theorem leafConfirmationReceived (k : Nat) (leaf : Nat) (isOpen : Bool) (eg : BitVec 16) : Statement (.leafConfirmationReceived k leaf isOpen eg) := fun h => nomatch h

theorem coreReset (core : Nat) : Statement (.coreReset core) := fun h => nomatch h

end Sys2Proof.Laws.RoundTrip
end

