-- ==== Sys2Proof/Safety.lean ====
section
/-! DEFINITION. What a safe run means, in the terms that statements use: the shapes of a result, and what an instruction leaves
unchanged. -/

set_option Elab.async false

namespace Sys2Proof.Safety

open Sys2Proof.Machine

/-! ## Invariants -/

/-- Storage stands in its canonical form: addresses strictly rising, nothing listed that an unlisted address reads as. -/
def StorageWf (s : State) : Prop := s.mem.wf = true

/-! ## Results of an instruction -/

/-- The instruction retired: the next one follows it, and INSTRET has counted it (12_encoding.md R328, 07_core.md R206). A hart that trapped
or waits is not such a state. -/
def Retired (s t : State) : Prop := t.h.pc = s.h.pc + 4 ∧ t.h.csr.instret = s.h.csr.instret + 1

/-- A scalar result `v` went to register `d`: p1 to p15 hold it, p0 discards it, and a core-shared register takes it `lat` cycles after issue;
every other scalar register reads as before (07_core.md R174, R176; 12_encoding.md R316). -/
def Wrote (d : Reg) (v : Word) (lat : Nat) (s t : State) : Prop :=
  (∀ r : Reg, t.x r = if r = d ∧ r.toNat ≠ 0 ∧ r.toNat < 16 then v else s.x r) ∧
  t.c.cpend = s.c.cpend ++
    (if 16 ≤ d.toNat then [⟨s.h.lslot, BitVec.ofNat 4 d.toNat, v, s.c.cycle + BitVec.ofNat 64 lat, s.h.slot⟩] else [])

/-- Nothing but the pc, p0 to p15, INSTRET, FFLAGS, SRSEED, the cycle of the next issue with what it waits for, and the pending core-shared writes differs:
all of memory, every other control register, the vector state and the rest of the package are as before. -/
def ScalarFrame (s t : State) : Prop :=
  t = { s with
    h := { s.h with
      pc := t.h.pc
      p := t.h.p
      nextIssue := t.h.nextIssue
      onReply := t.h.onReply
      csr := { s.h.csr with instret := t.h.csr.instret, fflags := t.h.csr.fflags, srseed := t.h.csr.srseed } }
    c := { s.c with cpend := t.c.cpend } }

/-- When the hart issues again: at its next visit after a result at `t + 7`; after a slower one not before the cycle that follows it
(07_core.md R174). -/
def Paced (lat : Nat) (s t : State) : Prop :=
  if lat = 7 then t.h.nextIssue = s.h.nextIssue ∧ t.h.onReply = s.h.onReply
  else t.h.nextIssue = s.c.cycle + BitVec.ofNat 64 (lat + 1) ∧ t.h.onReply = false

/-- A reply that comes `lateBy` cycles after the earliest it can keeps the hart from issuing until the cycle after it (07_core.md R174). -/
def Replied (s t : State) : Prop :=
  if s.lateBy = 0 then t.h.nextIssue = s.h.nextIssue ∧ t.h.onReply = s.h.onReply
  else t.h.nextIssue = s.c.cycle + BitVec.ofNat 64 (8 + s.lateBy) ∧ t.h.onReply = true

/-- The floating-point flags and the stochastic count are as before. -/
def FlagsKept (s t : State) : Prop := t.h.csr.fflags = s.h.csr.fflags ∧ t.h.csr.srseed = s.h.csr.srseed

/-- The instruction `i` retires with the scalar result `v` in `d`, written `lat` cycles after issue; the hart issues again at the next
visit after that (07_core.md R174). Nothing else changes. -/
def Computes (i : Instr) (d : Reg) (v : Word) (lat : Nat) (s : State) : Prop :=
  ∃ t, exec i s = .next t ∧ Retired s t ∧ Wrote d v lat s t ∧ ScalarFrame s t ∧ FlagsKept s t ∧ Paced lat s t

/-- The instruction `i` retires with the result `v` in `d`, accrues the flags `fl`, and counts in SRSEED when it executes under SR
(11_arithmetic.md R303, R305). Nothing else changes. -/
def Sr (i : Instr) (d : Reg) (v : Word) (fl : Flg) (s : State) : Prop :=
  ∃ t, exec i s = .next t ∧ Retired s t ∧ Wrote d v 7 s t ∧ ScalarFrame s t ∧ t.h.csr.fflags = s.h.csr.fflags ||| fl ∧
    t.h.csr.srseed = (if s.h.csr.frm = 5 then s.h.csr.srseed + BitVec.ofNat 64 (2 ^ 48) else s.h.csr.srseed) ∧ Paced 7 s t

/-- The rounded operation `i` retires with the code and the flags `z`, its result written `lat` cycles after issue. Nothing else changes. -/
def Rounds (i : Instr) (d : Reg) (z : Nat × Flg) (lat : Nat) (s : State) : Prop :=
  ∃ t, exec i s = .next t ∧ Retired s t ∧ Wrote d (BitVec.ofNat 64 z.1) lat s t ∧ ScalarFrame s t ∧
    t.h.csr.fflags = s.h.csr.fflags ||| z.2 ∧
    t.h.csr.srseed = (if s.h.csr.frm = 5 then s.h.csr.srseed + BitVec.ofNat 64 (2 ^ 48) else s.h.csr.srseed) ∧ Paced lat s t

/-- The operation `i`, which does not round, retires with the result `v` in `d` and accrues the flags `fl`. Nothing else changes. -/
def Flags (i : Instr) (d : Reg) (v : Word) (fl : Flg) (s : State) : Prop :=
  ∃ t, exec i s = .next t ∧ Retired s t ∧ Wrote d v 7 s t ∧ ScalarFrame s t ∧ t.h.csr.fflags = s.h.csr.fflags ||| fl ∧
    t.h.csr.srseed = s.h.csr.srseed ∧ Paced 7 s t

/-! ## Storage -/

/-- One byte of storage: the scratchpad byte, or the plaintext byte of HBM, at a location. -/
def byteAt (s : State) : Loc → Byte
  | .spad core off => cellGet s.mem.spad (spadKey core off)
  | .hbm pa _ => cellGet s.mem.hbm pa

/-- Two locations are the same byte of storage. -/
def sameByte : Loc → Loc → Bool
  | .spad core off, .spad core' off' => spadKey core off == spadKey core' off'
  | .hbm pa _, .hbm pa' _ => pa == pa'
  | _, _ => false

/-- The `n` bytes from a location as a little-endian number (12_encoding.md R328). -/
def bytesNat (s : State) : Loc → Nat → Nat
  | _, 0 => 0
  | l, n + 1 => (byteAt s l).toNat + 256 * bytesNat s (l.plus 1) n

/-- The `n` bytes from `l` hold the low bytes of `v`, little-endian, and every other byte of storage reads as before. -/
def Stored (l : Loc) (n v : Nat) (s t : State) : Prop :=
  (∀ k < n, byteAt t (l.plus k) = BitVec.ofNat 8 (v / 2 ^ (8 * k))) ∧
  ∀ l', (∀ k < n, sameByte (l.plus k) l' = false) → byteAt t l' = byteAt s l'

/-- Every byte of storage reads as before. -/
def BytesKept (s t : State) : Prop := ∀ l, byteAt t l = byteAt s l

/-- The full/empty bits, and the harts parked on words and on sync words, are as before. -/
def FullKept (s t : State) : Prop := t.mem.full = s.mem.full ∧ t.mem.feWait = s.mem.feWait ∧ t.mem.syncWait = s.mem.syncWait

/-- The hart has no marked access outstanding, and no held status of one (09_ordering.md R246 to R248). -/
def Unmarked (s : State) : Prop := s.h.marked = [] ∧ s.remoteMarked = 0 ∧ s.h.mstat = none

/-- The hart has no RLX window open, no marked access outstanding, and no held status of one (09_ordering.md R245 to R248). -/
def Quiet (s : State) : Prop := s.h.rlx = 0 ∧ Unmarked s

/-- No vector memory instruction in the hart's queue accesses these `n` bytes with one of the two storing, so the access waits for none of them
(09_ordering.md R249). -/
def Free (s : State) (l : Loc) (n : Nat) (stores : Bool) : Prop :=
  ∀ e ∈ s.h.vec.vq, stores = true ∨ e.wr = true → ∀ x ∈ e.spots.getD [], ∀ p ∈ x.2, p.loc.overlaps p.n l n = false

/-- A plain access of the hart to the aligned `n` bytes at `va` passes every check, lands at `l`, waits for no vector access, and finds no poison
(08_memory.md R227, 09_ordering.md R249, 01_package.md R27). -/
def Reaches (s : State) (va : Word) (n : Nat) (k : AccKind) (l : Loc) : Prop :=
  Quiet s ∧ (∃ f, s.check va n n k = .ok ⟨l, f⟩) ∧ Free s l n (k != .load) ∧ (s.readLoc l n).isSome = true

/-- Besides storage, which each statement gives: nothing but the pc, p0 to p15, INSTRET, FFLAGS, SRSEED, the cycle of the next issue with what it waits for,
the pending core-shared writes, the event counters and the translation buffers differs. -/
def AccessFrame (s t : State) : Prop :=
  t = { s with
    h := { s.h with
      pc := t.h.pc
      p := t.h.p
      nextIssue := t.h.nextIssue
      onReply := t.h.onReply
      csr := { s.h.csr with instret := t.h.csr.instret, fflags := t.h.csr.fflags, srseed := t.h.csr.srseed } }
    c := { s.c with cpend := t.c.cpend, evc := t.c.evc, tlb := t.c.tlb }
    mem := t.mem
    draws := t.draws }

/-- The low `8 n` bits of a number, sign-extended or zero-extended to a register. -/
def extended (signed : Bool) (n v : Nat) : Word :=
  if signed && decide (2 ^ (8 * n - 1) ≤ v % 2 ^ (8 * n)) then BitVec.ofInt 64 ((v % 2 ^ (8 * n) : Nat) - 2 ^ (8 * n) : Int)
  else BitVec.ofNat 64 (v % 2 ^ (8 * n))

/-- The load `j` retires with the `n` bytes at `l` in `d`; all of storage is as before. -/
def Loads (j : Instr) (d : Reg) (signed : Bool) (n : Nat) (l : Loc) (s : State) : Prop :=
  ∃ t, exec j s = .next t ∧ Retired s t ∧ Wrote d (extended signed n (bytesNat s l n)) (7 + s.lateBy) s t ∧ t.mem = s.mem ∧ FlagsKept s t ∧ AccessFrame s t ∧
    Replied s t

/-- The store `j` retires with the low bytes of `v` at `l`; every other byte, every full/empty bit and every register is as before. -/
def Stores (j : Instr) (n : Nat) (v : Word) (l : Loc) (s : State) : Prop :=
  ∃ t, exec j s = .next t ∧ Retired s t ∧ Stored l n v.toNat s t ∧ FullKept s t ∧ (∀ r, t.x r = s.x r) ∧ t.c.cpend = s.c.cpend ∧
    FlagsKept s t ∧ AccessFrame s t ∧ Replied s t

/-- The atomic `j` retires with the new value at `l` and the old one in `d`; every other byte and every full/empty bit is as before. -/
def Swaps (j : Instr) (d : Reg) (signed : Bool) (n : Nat) (new : Nat) (l : Loc) (s : State) : Prop :=
  ∃ t, exec j s = .next t ∧ Retired s t ∧ Stored l n new s t ∧ FullKept s t ∧ Wrote d (extended signed n (bytesNat s l n)) (7 + s.lateBy) s t ∧
    FlagsKept s t ∧ AccessFrame s t ∧ Replied s t

/-- The scalar memory instructions: address, size and kind of the access (13_isa_scalar.md R329, R330, R334, R344). -/
def scalarAccessOf (s : State) : Instr → Option (Word × Nat × AccKind)
  | .lb _ a i => some (s.x a + BitVec.ofInt 64 i.toInt, 1, .load)
  | .lbu _ a i => some (s.x a + BitVec.ofInt 64 i.toInt, 1, .load)
  | .lh _ a i => some (s.x a + BitVec.ofInt 64 i.toInt, 2, .load)
  | .lhu _ a i => some (s.x a + BitVec.ofInt 64 i.toInt, 2, .load)
  | .lw _ a i => some (s.x a + BitVec.ofInt 64 i.toInt, 4, .load)
  | .lwu _ a i => some (s.x a + BitVec.ofInt 64 i.toInt, 4, .load)
  | .ld _ a i => some (s.x a + BitVec.ofInt 64 i.toInt, 8, .load)
  | .sb a _ i => some (s.x a + BitVec.ofInt 64 i.toInt, 1, .store)
  | .sh a _ i => some (s.x a + BitVec.ofInt 64 i.toInt, 2, .store)
  | .sw a _ i => some (s.x a + BitVec.ofInt 64 i.toInt, 4, .store)
  | .sd a _ i => some (s.x a + BitVec.ofInt 64 i.toInt, 8, .store)
  | .amoadd _ w a _ => some (s.x a, amoSize w, .atomic)
  | .amoand _ w a _ => some (s.x a, amoSize w, .atomic)
  | .amoor _ w a _ => some (s.x a, amoSize w, .atomic)
  | .amoxor _ w a _ => some (s.x a, amoSize w, .atomic)
  | .amomin _ w a _ => some (s.x a, amoSize w, .atomic)
  | .amomax _ w a _ => some (s.x a, amoSize w, .atomic)
  | .amominu _ w a _ => some (s.x a, amoSize w, .atomic)
  | .amomaxu _ w a _ => some (s.x a, amoSize w, .atomic)
  | .amoswap _ w a _ => some (s.x a, amoSize w, .atomic)
  | .cas _ w a _ => some (s.x a, amoSize w, .atomic)
  | .amofadd _ w a _ => some (s.x a, amoSize w, .atomic)
  | _ => none

/-! ## Control, waiting and control registers -/

/-- The instruction retires with no effect beside the one `s` already holds. -/
def onward (s : State) : State :=
  { s with h := { s.h with pc := s.h.pc + 4, csr := { s.h.csr with instret := s.h.csr.instret + 1 } } }

/-- No engine command of the hart of a tier up to `scope` is outstanding: no copy, no sketch operation, no LAUNCH push or Siphon command, no strip
(09_ordering.md R257, R259). -/
def Drained (s : State) (scope : Nat) : Prop :=
  (∀ k ∈ s.c.copies, k.slot = s.h.slot → k.launch = s.h.launch → scope < k.tier.num) ∧
  (∀ c ∈ s.c :: s.cores, ∀ w ∈ c.weir, w.hcore = s.h.core → w.slot = s.h.slot → w.launch = s.h.launch → scope < w.tier.num) ∧
  (4 ≤ scope → (∀ q ∈ s.hst.inbox, q.origin ≠ .mailbox s.h.core s.h.slot s.h.launch) ∧
    ∀ q ∈ s.sip.sq, ¬ (q.core = s.h.core ∧ q.slot = s.h.slot ∧ q.launch = s.h.launch)) ∧
  (∀ r ∈ s.c.reqs, r.slot = s.h.slot → r.launch = s.h.launch → r.kind = .strip ∨ r.kind = .collPut ∨ r.kind = .collSync → scope < r.tier.num) ∧
  (∀ e ∈ s.h.vec.vq, ∀ t ∈ e.sends, scope < t) ∧ (4 ≤ scope → s.h.vec.pump.state = 2 → ∀ b ∈ s.h.vec.binds.toList, b.kind ≠ 3)

/-- No vector memory access of the hart of a tier up to `scope` waits in its vector queue or behind its Pump (09_ordering.md R259). -/
def VectorDone (s : State) (scope : Nat) : Prop :=
  (∀ e ∈ s.h.vec.vq, e.streams = false ∧ ∀ t ∈ e.tiers, scope < t) ∧
  (s.h.vec.pump.state = 2 → ∀ b ∈ s.h.vec.binds.toList, b.kind ≠ 1 ∧ b.kind ≠ 2 ∧ b.kind ≠ 3)

/-- MDELEG sends the cause to supervisor level, for a hart below monitor level: exceptions at bits 0 to 31, interrupts at bits 32 on (10_traps.md R270). -/
def Delegated (code : Byte) (s : State) : Prop :=
  s.h.level ≠ .monitor ∧ s.c.mdeleg.getLsbD (if code.toNat < 0x80 then code.toNat else code.toNat - 0x60) = true

/-- The handler that a synchronous trap goes to exists and does not run already (10_traps.md R271). -/
def Handled (code : Byte) (s : State) : Prop :=
  (Delegated code s → s.h.csr.stvec.getLsbD 0 = true ∧ s.h.csr.sstatus.getLsbD 3 = false) ∧
  (¬ Delegated code s → s.h.csr.mtvec.getLsbD 0 = true ∧ s.h.csr.mstatus.getLsbD 4 = false)

/-- The synchronous trap `t` of the instruction at `epc` has been taken (10_traps.md R271): the registers of the level entered hold the pc, the cause
and the value; the status keeps IE as PIE and the level as PP, and TH stands; nothing else changes but the level, the pc, FM's arming, and a replaying Pump, which is
suspended. -/
def Entered (t : Trap) (epc : Word) (s u : State) : Prop :=
  (Delegated t.code s → u.h.level = .supervisor ∧ u.h.pc.toNat = s.h.csr.stvec.toNat / 4 % 2 ^ 46 * 4 ∧
    u.h.csr.sepc = epc &&& 0x0000FFFFFFFFFFFC#64 ∧ u.h.csr.scause = t.code.setWidth 64 ∧ u.h.csr.stval = t.val ∧
    u.h.csr.sstatus.getLsbD 0 = false ∧ u.h.csr.sstatus.getLsbD 1 = s.h.csr.sstatus.getLsbD 0 ∧
    u.h.csr.sstatus.getLsbD 2 = decide (s.h.level = .supervisor) ∧ u.h.csr.sstatus.getLsbD 3 = true ∧ u.h.csr.sstatus.getLsbD 4 = false ∧
    u.h.csr.sstatus.toNat / 32 = s.h.csr.sstatus.toNat / 32 ∧
    u.h.csr = { s.h.csr with sepc := u.h.csr.sepc, scause := u.h.csr.scause, stval := u.h.csr.stval, sstatus := u.h.csr.sstatus }) ∧
  (¬ Delegated t.code s → u.h.level = .monitor ∧ u.h.pc.toNat = s.h.csr.mtvec.toNat / 4 % 2 ^ 46 * 4 ∧
    u.h.csr.mepc = epc &&& 0x0000FFFFFFFFFFFC#64 ∧ u.h.csr.mcause = t.code.setWidth 64 ∧ u.h.csr.mtval = t.val ∧
    u.h.csr.mstatus.getLsbD 0 = false ∧ u.h.csr.mstatus.getLsbD 1 = s.h.csr.mstatus.getLsbD 0 ∧
    u.h.csr.mstatus.toNat / 4 % 4 = s.h.level.num ∧ u.h.csr.mstatus.getLsbD 4 = true ∧
    u.h.csr = { s.h.csr with mepc := u.h.csr.mepc, mcause := u.h.csr.mcause, mtval := u.h.csr.mtval, mstatus := u.h.csr.mstatus }) ∧
  u = { s with h := { s.h with level := u.h.level, pc := u.h.pc, csr := u.h.csr, vec := { s.h.vec with
    fmArmed := false, pump := if s.h.vec.pump.state = 2 then { s.h.vec.pump with state := 3 } else s.h.vec.pump } } }

/-- The control register addresses that R320 assigns. -/
def csrMap : List Nat :=
  List.range' 0x000 18 ++ List.range' 0x018 8 ++ List.range' 0x100 14 ++ List.range' 0x300 11 ++ List.range' 0x310 16

/-- A CSR instruction: its destination, its address, whether it makes a write, and the value it writes for an old one (13_isa_scalar.md R347). -/
def csrForm (s : State) : Instr → Option (Reg × Nat × Bool × (Word → Word))
  | .csrrw d a c => some (d, c.toNat, true, fun _ => s.x a)
  | .csrrs d a c => some (d, c.toNat, decide (a ≠ 0), fun old => old ||| s.x a)
  | .csrrc d a c => some (d, c.toNat, decide (a ≠ 0), fun old => old &&& ~~~(s.x a))
  | .csrrwi d z c => some (d, c.toNat, true, fun _ => z.setWidth 64)
  | .csrrsi d z c => some (d, c.toNat, decide (z ≠ 0), fun old => old ||| z.setWidth 64)
  | .csrrci d z c => some (d, c.toNat, decide (z ≠ 0), fun old => old &&& ~~~(z.setWidth 64))
  | _ => none

/-- The level allows the access, no window is open, and nothing makes it wait (10_traps.md R265, 07_core.md R190, R207). -/
def CsrOpen (s : State) (a : Nat) (w : Bool) : Prop :=
  s.h.rlx = 0 ∧ (a ≤ 0x009 ∨ a = 0x00B → s.vecBusy = false) ∧
    (if 0x018 ≤ a ∧ a ≤ 0x01F then s.h.level ≠ .user ∨ (w = false ∧ s.c.meven.getLsbD 8 = true) else a / 256 ≤ s.h.level.num)

/-- The control registers whose write keeps a fixed set of bits, with the set; 0 stands for a read-only register (12_encoding.md R320). -/
def csrMasks : List (Nat × Word) :=
  [(0x000, 0), (0x001, 0), (0x003, 0), (0x006, 0), (0x00A, 0), (0x00C, 0), (0x00D, 0), (0x00E, 0), (0x00F, 0), (0x010, 0)] ++
  [(0x002, 0x3FFFFF#64), (0x007, 0x3FFFFFFFFFFFFFFF#64), (0x009, 31#64), (0x00B, BitVec.allOnes 64)] ++
  (List.range' 0x018 8).map (fun a => (a, BitVec.allOnes 64)) ++
  [(0x101, 0x0000FFFFFFFFFFFD#64), (0x102, 0x0000FFFFFFFFFFFC#64), (0x103, 0xFF#64), (0x104, BitVec.allOnes 64), (0x105, BitVec.allOnes 64)] ++
  [(0x109, 0x1E#64), (0x10B, 0x0000FFFFFFFFFFC1#64), (0x10D, BitVec.allOnes 64)] ++
  [(0x301, 0x0000FFFFFFFFFFFD#64), (0x302, 0x0000FFFFFFFFFFFC#64), (0x303, 0xFF#64), (0x304, BitVec.allOnes 64), (0x305, BitVec.allOnes 64)] ++
  [(0x306, 0x0000001E03DFFFFE#64), (0x307, BitVec.allOnes 64), (0x308, 0xFF#64), (0x309, 0x1FF#64), (0x30A, 0x0000FFFFFFF00001#64)] ++
  (List.range' 0x310 16).map (fun a => (a, 0xFFFFFFFFF7FFFFFF#64))

/-! ## Vector instructions -/

/-- The hart is a vector thread with vector state, nothing of it waits, the schedule does not have this instruction wait or stop between element groups, and
one that names a stream finds no marked access outstanding (14_isa_vector.md R361, 07_core.md R175, 09_ordering.md R249, R252; 10_traps.md R277, R280). -/
def VecReady (s : State) : Prop :=
  s.h.vthread = true ∧ s.h.csr.sstatus.toNat / 32 ≠ 0 ∧ s.vecLater = false ∧ s.cutNow = none ∧ (s.boundKinds = [] ∨ Unmarked s)

/-- Active(i) of R328: at or above VSTART, below VL, and under a mask with its bit of v0 set; v0 tagged NONE holds no bit. -/
def Active (s : State) (m : Bool) (i : Nat) : Bool :=
  decide (s.vstart ≤ i) && decide (i < s.vl) && (!m || ((s.vreg 0).tag != 0 && (s.vreg 0).bits.testBit i))

/-- Element `i` of the group of `w`-bit elements at register `n` (14_isa_vector.md R363); a register tagged NONE holds zero bytes. -/
def elemAt (s : State) (n w i : Nat) : Nat := s.regBits n (s.group w) / 2 ^ (w * i) % 2 ^ w

/-- A group of `w`-bit elements at register `n` satisfies R363. -/
def Fits (s : State) (n w : Nat) : Prop :=
  if w = 1 then n < s.declared ∧ s.vl ≤ 8 * s.vlenb else s.group w ≤ 8 ∧ n % s.group w = 0 ∧ n + s.group w ≤ s.declared

/-- The destination group of `dw`-bit results at `d` coincides with the source group at `a` or does not meet it (14_isa_vector.md R366). -/
def Clear (s : State) (d dw a aw : Nat) : Prop := (d = a ∧ dw = aw) ∨ d + s.group dw ≤ a ∨ a + s.group aw ≤ d

/-- Register `r` has no stream binding. -/
def Unbound (s : State) (r : Nat) : Prop := (s.h.binding r).kind = 0

/-- The vector operand at register `n` is an unbound group of one tag `t`, read in width `w` (14_isa_vector.md R363, R364). -/
def Operand (s : State) (n t w : Nat) : Prop :=
  Unbound s n ∧ Fits s n w ∧ ∀ j < s.group w, (s.vreg (n + j)).tag.toNat = t

/-- The width that an operand tagged `t` is read in when the operation's tag is `p`. -/
def readWidth (t p : Nat) : Nat := tagWidth (if t = 0 then p else t)

/-- The destination of `dw`-bit results is an unbound group that R363 and R316 allow: under a mask it is not v0, unless the results are a mask. -/
def Destination (s : State) (d dw : Nat) (m : Bool) : Prop :=
  Unbound s d ∧ Fits s d dw ∧ (m = true → s.vl ≤ 8 * s.vlenb ∧ (d ≠ 0 ∨ dw = 1))

/-- Besides the vector registers: nothing but the pc, INSTRET, FFLAGS, SRSEED, VSTART, VDIRTY, SSTATUS.VS, the event counters and the queue charges
differs, and VSTART is 0. -/
def VecFrame (s t : State) : Prop :=
  t = { s with
    h := { s.h with
      pc := s.h.pc + 4
      csr := { s.h.csr with
        instret := s.h.csr.instret + 1, fflags := t.h.csr.fflags, srseed := t.h.csr.srseed, vstart := 0
        vdirty := t.h.csr.vdirty, sstatus := t.h.csr.sstatus }
      vec := { s.h.vec with v := t.h.vec.v } }
    c := { s.c with evc := t.c.evc, charge := t.c.charge, unreported := t.c.unreported } } ∧
  t.h.csr.sstatus.toNat % 32 = s.h.csr.sstatus.toNat % 32

/-- The flags that the active elements raise. -/
def vecFlags (s : State) (m : Bool) (f : Nat → Nat × Flg) : Flg :=
  (List.range s.vl).foldl (fun acc i => if Active s m i then acc ||| (f i).2 else acc) 0

/-- Vector registers after a result of tag `tag` in the group at `d`: every active element holds the result `f`, every other element of the group and every other
register is as before; when an element was performed the group carries the tag, its VDIRTY bits are set and VS is Dirty, and otherwise
nothing of that changes (14_isa_vector.md R364, 10_traps.md R276, R278). -/
def VecWrote (s t : State) (d tag : Nat) (m : Bool) (f : Nat → Nat × Flg) : Prop :=
  let w := tagWidth tag
  let g := s.group w
  (∀ i, w * (i + 1) ≤ 8 * s.vlenb * g → elemAt t d w i = if Active s m i then (f i).1 % 2 ^ w else elemAt s d w i) ∧
  (∀ n, n < d ∨ d + g ≤ n → t.vreg n = s.vreg n ∧ t.h.csr.vdirty.getLsbD n = s.h.csr.vdirty.getLsbD n) ∧
  ((∃ i, Active s m i = true) → t.h.csr.sstatus.toNat / 32 = 3 ∧
    ∀ j < g, (t.vreg (d + j)).tag.toNat = tag ∧ t.h.csr.vdirty.getLsbD (d + j) = true) ∧
  ((∀ i, Active s m i = false) → t.h.vec.v = s.h.vec.v ∧ t.h.csr.vdirty = s.h.csr.vdirty ∧ t.h.csr.sstatus = s.h.csr.sstatus)

/-- The vector instruction `i` retires with the results `f` of tag `tag` in the group at `d`, and accrues the flags of its active elements; SRSEED
counts it when it rounded under SR; with VSTART at or above VL nothing is performed. All of memory, every scalar register and the rest of the state are as before. -/
def VecComputes (i : Instr) (d : Reg) (tag : Nat) (m : Bool) (rounds : Bool) (f : Nat → Nat × Flg) (s : State) : Prop :=
  ∃ t, exec i s = .next t ∧ VecWrote s t d.toNat tag m f ∧ t.h.csr.fflags = s.h.csr.fflags ||| vecFlags s m f ∧
    t.h.csr.srseed = (if rounds = true ∧ s.h.csr.frm = 5 ∧ s.vstart < s.vl then s.h.csr.srseed + BitVec.ofNat 64 (2 ^ 48) else s.h.csr.srseed) ∧
    VecFrame s t

/-- The second operand of an element-wise instruction by kind (14_isa_vector.md R365): `tb` its tag and `vb` its elements, with VA's tag `ta` and the promoted
tag `p`. -/
def SecondIs (s : State) (k : BitVec 3) (ta p : Nat) (b : Reg) (tb : Nat) (vb : Nat → Nat) : Prop :=
  let st := if ta = 0 then s.vtag else ta
  (k = 0 ∧ Operand s b.toNat tb (readWidth tb p) ∧ vb = fun i => elemAt s b.toNat (readWidth tb p) i) ∨
  (k = 1 ∧ tb = st ∧ vb = fun _ => (s.x b).toNat % 2 ^ tagWidth st) ∨
  (k = 2 ∧ tb = st ∧ ∃ c, viCode s.q st b = some c ∧ vb = fun _ => c)

/-- An element-wise instruction: its fields, whether VD is a third operand, and its element on integers of a tag, on codes of a floating tag, and on residues,
for the tags it accepts; whether the floating form rounds (14_isa_vector.md R376). -/
structure VecOp where
  d : Reg
  k : BitVec 3
  a : Reg
  b : Reg
  m : BitVec 1
  unary : Bool
  third : Bool
  rounds : Bool
  int : Option (Nat → Int → Int → Int → Int)
  fp : Option (Nat → Rnd → Nat → Nat → Nat → Nat → Nat × Flg)
  z : Option (Int → Int → Int → Int)

/-- Least and greatest integer of a tag (11_arithmetic.md R291). -/
def intRange (p : Nat) : Int × Int :=
  if tagSigned p then (-2 ^ (tagWidth p - 1), 2 ^ (tagWidth p - 1) - 1) else (0, 2 ^ tagWidth p - 1)

/-- The low bits of an integer of a tag, as a number. -/
def codeOf (p : Nat) (a : Int) : Nat := (a % 2 ^ tagWidth p).toNat

/-- The element-wise instructions of R376 but the shifts. -/
def vecOp : Instr → Option VecOp
  | .vadd d k a b m => some ⟨d, k, a, b, m, false, false, true, some fun _ x y _ => x + y, some fun p r i x y _ => fAdd p r i x y, some fun x y _ => x + y⟩
  | .vsub d k a b m => some ⟨d, k, a, b, m, false, false, true, some fun _ x y _ => x - y, some fun p r i x y _ => fSub p r i x y, some fun x y _ => x - y⟩
  | .vmul d k a b m => some ⟨d, k, a, b, m, false, false, true, some fun _ x y _ => x * y, some fun p r i x y _ => fMul p r i x y, some fun x y _ => x * y⟩
  | .vmulh d k a b m => some ⟨d, k, a, b, m, false, false, false, some fun p x y _ => x * y / 2 ^ tagWidth p, none, none⟩
  | .vmadd d k a b m => some ⟨d, k, a, b, m, false, true, true, some fun _ x y z => x * y + z, some fun p r i x y z => fFma p r i false x y z,
      some fun x y z => x * y + z⟩
  | .vnmsub d k a b m => some ⟨d, k, a, b, m, false, true, true, some fun _ x y z => z - x * y, some fun p r i x y z => fFma p r i true x y z,
      some fun x y z => z - x * y⟩
  | .vdiv d k a b m => some ⟨d, k, a, b, m, false, false, true, some fun _ x y _ => if y = 0 then -1 else x.tdiv y,
      some fun p r i x y _ => fDiv p r i x y, none⟩
  | .vrem d k a b m => some ⟨d, k, a, b, m, false, false, false, some fun _ x y _ => if y = 0 then x else x.tmod y, none, none⟩
  | .vmin d k a b m => some ⟨d, k, a, b, m, false, false, false, some fun _ x y _ => min x y, some fun p _ _ x y _ => fMinMax p false x y, none⟩
  | .vmax d k a b m => some ⟨d, k, a, b, m, false, false, false, some fun _ x y _ => max x y, some fun p _ _ x y _ => fMinMax p true x y, none⟩
  | .vabs d a m => some ⟨d, 0, a, 0, m, true, false, false, some fun _ x _ _ => x.natAbs,
      some fun p _ _ x _ _ => (if p = tE3M5 then x else x % 2 ^ (tagWidth p - 1), 0), none⟩
  | .vneg d a m => some ⟨d, 0, a, 0, m, true, false, false, some fun _ x _ _ => -x,
      some fun p _ _ x _ _ => if p = tE3M5 then fRound p rne 0 (fDecode p x).neg else (x ^^^ 2 ^ (tagWidth p - 1), 0), some fun x _ _ => -x⟩
  | .vsqrt d a m => some ⟨d, 0, a, 0, m, true, false, true, none, some fun p r i x _ _ => fSqrt p r i x, none⟩
  | .vand d k a b m => some ⟨d, k, a, b, m, false, false, false, some fun p x y _ => (codeOf p x &&& codeOf p y : Nat), none, none⟩
  | .vor d k a b m => some ⟨d, k, a, b, m, false, false, false, some fun p x y _ => (codeOf p x ||| codeOf p y : Nat), none, none⟩
  | .vxor d k a b m => some ⟨d, k, a, b, m, false, false, false, some fun p x y _ => (codeOf p x ^^^ codeOf p y : Nat), none, none⟩
  | .vsadd d k a b m => some ⟨d, k, a, b, m, false, false, false, some fun p x y _ => max (intRange p).1 (min (intRange p).2 (x + y)), none, none⟩
  | .vssub d k a b m => some ⟨d, k, a, b, m, false, false, false, some fun p x y _ => max (intRange p).1 (min (intRange p).2 (x - y)), none, none⟩
  | _ => none

/-- The operation accepts the promoted tag, and a residue operation has a modulus (14_isa_vector.md R376, 11_arithmetic.md R299). -/
def VecOp.accepts (o : VecOp) (s : State) (p : Nat) : Prop :=
  (tagInt p = true ∧ o.int.isSome = true) ∨ (tagFloat p = true ∧ o.fp.isSome = true) ∨
    (p = tZ64 ∧ o.z.isSome = true ∧ s.h.csr.modq.toNat % 2 ^ 62 % 2 = 1 ∧ 3 ≤ s.h.csr.modq.toNat % 2 ^ 62)

/-- Element `i` of the operation in the promoted tag, from the operands' codes there. -/
def VecOp.elem (o : VecOp) (s : State) (p i x y z : Nat) : Nat × Flg :=
  if tagInt p then (codeOf p ((o.int.getD fun _ _ _ _ => 0) p (intOf p x) (intOf p y) (intOf p z)), 0)
  else if p = tZ64 then ((((o.z.getD fun _ _ _ => 0) x y z) % (s.h.csr.modq.toNat % 2 ^ 62 : Nat)).toNat, 0)
  else (o.fp.getD fun _ _ _ _ _ _ => (0, 0)) p ⟨s.h.csr.frm.toNat, s.h.csr.srseed⟩ i x y z

/-- The shifts of R376 on a width, a code and a count. -/
def vecShift : Instr → Option (Reg × BitVec 3 × Reg × Reg × BitVec 1 × (Nat → Nat → Nat → Nat))
  | .vsll d k a b m => some (d, k, a, b, m, fun _ x n => x * 2 ^ n)
  | .vsrl d k a b m => some (d, k, a, b, m, fun _ x n => x / 2 ^ n)
  | .vsra d k a b m => some (d, k, a, b, m, fun w x n => ((if 2 ^ (w - 1) ≤ x then (x : Int) - 2 ^ w else x) / 2 ^ n % 2 ^ w).toNat)
  | _ => none

/-- The compares of R377: the relation on an order of -1, 0 and 1, whether a quiet NaN is silent (EQ and NE), and what a NaN gives. -/
def vecCompare : Instr → Option (Reg × BitVec 3 × Reg × Reg × BitVec 1 × (Int → Bool) × Bool × Nat)
  | .vcmpeq d k a b m => some (d, k, a, b, m, fun c => c == 0, true, 0)
  | .vcmpne d k a b m => some (d, k, a, b, m, fun c => c != 0, true, 1)
  | .vcmplt d k a b m => some (d, k, a, b, m, fun c => c == -1, false, 0)
  | .vcmple d k a b m => some (d, k, a, b, m, fun c => c != 1, false, 0)
  | .vcmpgt d k a b m => some (d, k, a, b, m, fun c => c == 1, false, 0)
  | .vcmpge d k a b m => some (d, k, a, b, m, fun c => c != -1, false, 0)
  | _ => none

/-- The instructions that only a hart with vector state may issue (14_isa_vector.md R361, 15_isa_vmem.md R385, 16_isa_tile.md R406, 17_isa_summaries.md R429,
18_isa_fabric.md R446). -/
def vectorWord : Instr → Bool
  | .setvli .. | .setvl .. | .vtag .. | .vfmx .. | .pump .. | .pumpstop .. | .vadd .. | .vsub .. | .vmul .. | .vmulh .. | .vmadd ..
  | .vnmsub .. | .vdiv .. | .vrem .. | .vmin .. | .vmax .. | .vabs .. | .vneg .. | .vsqrt .. | .vand .. | .vor .. | .vxor .. | .vsll ..
  | .vsrl .. | .vsra .. | .vsadd .. | .vssub .. | .vcmpeq .. | .vcmpne .. | .vcmplt .. | .vcmple .. | .vcmpgt .. | .vcmpge .. | .mand ..
  | .mor .. | .mxor .. | .mandn .. | .mpopc .. | .mfirst .. | .miota .. | .vmv .. | .vmvx .. | .vmvs .. | .vid .. | .vsel ..
  | .vcompress .. | .vslideup .. | .vslidedn .. | .vperm .. | .vcvt .. | .vqsf4 .. | .vredsum .. | .vredmax .. | .vredmin .. | .vreddot ..
  | .vexp2 .. | .vlog2 .. | .vrcp .. | .vrsqrt .. | .vtanh .. | .vsigm .. | .vmodadd .. | .vmodsub .. | .vmodmul .. | .vmodred ..
  | .vbflyct .. | .vbflygs .. | .vld .. | .vlds .. | .vldx .. | .vfill .. | .vst .. | .vsts .. | .vstx .. | .vscadd .. | .vspill ..
  | .stbind .. | .strbind .. | .stfbind .. | .stunbind .. | .cpy .. | .opa .. | .ops .. | .opam .. | .tzero .. | .tld .. | .tst ..
  | .trdrow .. | .twrrow .. | .tepi .. | .skqadd .. | .skhadd .. | .skhaddW .. | .skdadd .. | .vclipq .. | .vscaleq .. | .vstxr ..
  | .collbegin .. | .collend .. | .collendExch .. | .collabort .. => true
  | _ => false

/-- A scalar result of a vector instruction: it retires with `v` in `d` and VSTART 0; nothing else changes but the cycle of the next issue, the event counters
and the queue charges. -/
def VecScalar (i : Instr) (d : Reg) (v : Word) (s : State) : Prop :=
  ∃ t, exec i s = .next t ∧ Retired s t ∧ Wrote d v (7 + s.lateBy) s t ∧ Replied s t ∧
    t = { s with
      h := { s.h with
        pc := t.h.pc
        p := t.h.p
        nextIssue := t.h.nextIssue
        onReply := t.h.onReply
        csr := { s.h.csr with instret := t.h.csr.instret, vstart := 0 } }
      c := { s.c with cpend := t.c.cpend, evc := t.c.evc, charge := t.c.charge, unreported := t.c.unreported } }

/-- The `g` registers from `d` on carry the tag, hold the elements `f` and are dirty; every other vector register is as before
(14_isa_vector.md R364, 10_traps.md R276, R278). -/
def GroupWrote (s t : State) (d g tag : Nat) (f : Nat → Nat) : Prop :=
  let w := tagWidth tag
  (∀ i, w * (i + 1) ≤ 8 * s.vlenb * g → t.regBits d g / 2 ^ (w * i) % 2 ^ w = f i % 2 ^ w) ∧
  (∀ n, n < d ∨ d + g ≤ n → t.vreg n = s.vreg n ∧ t.h.csr.vdirty.getLsbD n = s.h.csr.vdirty.getLsbD n) ∧
  (∀ j < g, (t.vreg (d + j)).tag.toNat = tag ∧ t.h.csr.vdirty.getLsbD (d + j) = true) ∧ t.h.csr.sstatus.toNat / 32 = 3

/-- Element `i` of `w` bits of the one register `d`. -/
def regElem (s : State) (d w i : Nat) : Nat := s.regBits d 1 / 2 ^ (w * i) % 2 ^ w

/-- Two register ranges, `g` registers from `d` on and `k` from `a` on, do not meet. -/
def Apart (d g a k : Nat) : Prop := d + g ≤ a ∨ a + k ≤ d

/-- An SF4 operand at `n`: its codes carry SF4, and its scale group behind them E3M5 or NONE (11_arithmetic.md R298). -/
def Pair (s : State) (n : Nat) : Prop :=
  Operand s n tSF4 4 ∧ n + 2 * s.group 4 ≤ s.declared ∧
    ∀ j < s.group 4, (s.vreg (n + s.group 4 + j)).tag.toNat = tE3M5 ∨ (s.vreg (n + s.group 4 + j)).tag = 0

/-- Micro-scale `k` of an SF4 operand at `n`. -/
def scaleAt (s : State) (n k : Nat) : Nat := s.regBits (n + s.group 4) (s.group 4) / 2 ^ (8 * k) % 256

/-- Some element of the block of 8 with number `k` is active. -/
def Block (s : State) (m : Bool) (k : Nat) : Prop := ∃ j < 8, Active s m (8 * k + j) = true

/-- An SF4 result in the pair of groups at `d`, when an element is active: the active elements hold their codes, the blocks with an active element their scales, and every
other code, scale and register is as before (11_arithmetic.md R298, 14_isa_vector.md R381). -/
def PairWrote (s t : State) (d : Nat) (m : Bool) (code scale : Nat → Nat) : Prop :=
  let g := s.group 4
  (∀ i, 4 * (i + 1) ≤ 8 * s.vlenb * g → elemAt t d 4 i = if Active s m i then code i % 16 else elemAt s d 4 i) ∧
  (∀ k, 8 * (k + 1) ≤ 8 * s.vlenb * g → (Block s m k → scaleAt t d k = scale k % 256) ∧ (¬ Block s m k → scaleAt t d k = scaleAt s d k)) ∧
  (∀ n, n < d ∨ d + 2 * g ≤ n → t.vreg n = s.vreg n) ∧
  ∀ j < g, (t.vreg (d + j)).tag.toNat = tSF4 ∧ (t.vreg (d + g + j)).tag.toNat = tE3M5

/-- The instruction writes the one value `z` in tag `t` to element 0 of register `d`, and keeps the register's other bytes: a reduction (14_isa_vector.md R382). -/
def Reduces (i : Instr) (d : Reg) (t : Nat) (rounds : Bool) (z : Nat × Flg) (s : State) : Prop :=
  ∃ u, exec i s = .next u ∧ VecFrame s u ∧ GroupWrote s u d.toNat 1 t (fun n => if n = 0 then z.1 else regElem s d.toNat (tagWidth t) n) ∧
    u.h.csr.fflags = s.h.csr.fflags ||| z.2 ∧
    u.h.csr.srseed = if rounds = true ∧ s.h.csr.frm = 5 then s.h.csr.srseed + BitVec.ofNat 64 (2 ^ 48) else s.h.csr.srseed

/-- The special functions: their registers, and the value with its flags (14_isa_vector.md R383). -/
def vecSpecial : Instr → Option (Reg × Reg × BitVec 1 × (FVal → FVal × Flg))
  | .vexp2 d a m => some (d, a, m, fun v => (exp2Val v, 0))
  | .vlog2 d a m => some (d, a, m, log2Val)
  | .vrcp d a m => some (d, a, m, FVal.div (.num false 1 0 false))
  | .vrsqrt d a m => some (d, a, m, rsqrtVal)
  | .vtanh d a m => some (d, a, m, fun v => (tanhVal v, 0))
  | .vsigm d a m => some (d, a, m, fun v => (sigmVal v, 0))
  | _ => none

/-- The modular instructions with one result: their fields, whether they have a second operand, and the integer they reduce (14_isa_vector.md R384). -/
def vecModular : Instr → Option (Reg × BitVec 3 × Reg × Reg × BitVec 1 × Bool × (Int → Int → Int))
  | .vmodadd d k a b m => some (d, k, a, b, m, true, fun x y => x + y)
  | .vmodsub d k a b m => some (d, k, a, b, m, true, fun x y => x - y)
  | .vmodmul d k a b m => some (d, k, a, b, m, true, fun x y => x * y)
  | .vmodred d a m => some (d, 0, a, 0, m, false, fun x _ => x)
  | _ => none

/-- The butterflies: the new `x` and `y` from `x`, `y` and the twiddle `w` (14_isa_vector.md R384). -/
def vecButterfly : Instr → Option (Reg × BitVec 3 × Reg × Reg × BitVec 1 × (Int → Int → Int → Int × Int))
  | .vbflyct d k a b m => some (d, k, a, b, m, fun x y w => (x + w * y, x - w * y))
  | .vbflygs d k a b m => some (d, k, a, b, m, fun x y w => (x + y, (x - y) * w))
  | _ => none

/-- An element of an integer tag, Z64 or NONE as an integer (11_arithmetic.md R300). -/
def residueOf (t c : Nat) : Int := if t = 0 then 0 else if t = tZ64 then (c : Int) else intOf t c

/-! ## Vector memory -/

/-- A vector memory instruction may start: a ready hart, no marked access outstanding, and no FM armed by a batch fault (08_memory.md R229, 09_ordering.md R247). -/
def MemReady (s : State) : Prop := VecReady s ∧ Quiet s ∧ s.h.vec.fmArmed = false ∧ s.vstart < s.vl

/-- The access of every active element, `n` aligned bytes at its address, passes its checks, lands at its place, and finds no poison (08_memory.md R227). -/
def Lands (s : State) (k : AccKind) (act : Nat → Bool) (addr : Nat → Word) (n : Nat) (loc : Nat → Loc) : Prop :=
  ∀ i, act i = true → (∃ f, s.check (addr i) n n k = .ok ⟨loc i, f⟩) ∧ (s.readLoc (loc i) n).isSome = true

/-- Besides the vector registers and storage, which each statement gives: nothing but the pc, INSTRET, FFLAGS, SRSEED, VSTART, VDIRTY, SSTATUS.VS, the cycle of the
next issue, the event counters, the queue charges and the translation buffers differs; VSTART is 0. -/
def VecMemFrame (s t : State) : Prop :=
  t = { s with
    h := { s.h with
      pc := s.h.pc + 4
      nextIssue := t.h.nextIssue
      onReply := t.h.onReply
      csr := { s.h.csr with
        instret := s.h.csr.instret + 1, fflags := t.h.csr.fflags, srseed := t.h.csr.srseed, vstart := 0
        vdirty := t.h.csr.vdirty, sstatus := t.h.csr.sstatus }
      vec := { s.h.vec with v := t.h.vec.v } }
    c := { s.c with evc := t.c.evc, charge := t.c.charge, unreported := t.c.unreported, tlb := t.c.tlb }
    mem := t.mem
    draws := t.draws } ∧
  t.h.csr.sstatus.toNat % 32 = s.h.csr.sstatus.toNat % 32 ∧ Replied s t

/-- The vector load `j` retires with the elements `f` in the group at `d`; all of storage is as before. -/
def VecLoads (j : Instr) (d : Reg) (tag : Nat) (m : Bool) (f : Nat → Nat) (s : State) : Prop :=
  ∃ t, exec j s = .next t ∧ VecWrote s t d.toNat tag m (fun i => (f i, 0)) ∧ t.mem = s.mem ∧ FlagsKept s t ∧ VecMemFrame s t

/-- The `n` bytes of every active element hold its value, little-endian, where no higher active element covers the byte (09_ordering.md R250); every other byte of
storage and every full/empty bit is as before. -/
def VecStored (s t : State) (act : Nat → Bool) (n : Nat) (loc : Nat → Loc) (val : Nat → Nat) : Prop :=
  (∀ i, act i = true → ∀ k < n, (∀ j, i < j → act j = true → ∀ r < n, sameByte ((loc j).plus r) ((loc i).plus k) = false) →
    byteAt t ((loc i).plus k) = BitVec.ofNat 8 (val i / 2 ^ (8 * k))) ∧
  (∀ l, (∀ i, act i = true → ∀ k < n, sameByte ((loc i).plus k) l = false) → byteAt t l = byteAt s l) ∧ FullKept s t

/-- The vector store `j` retires with its active elements stored; every register is as before. -/
def VecStores (j : Instr) (act : Nat → Bool) (n : Nat) (loc : Nat → Loc) (val : Nat → Nat) (s : State) : Prop :=
  ∃ t, exec j s = .next t ∧ VecStored s t act n loc val ∧ VecMemFrame s t ∧ FlagsKept s t ∧ t.h.vec.v = s.h.vec.v ∧
    t.h.csr.vdirty = s.h.csr.vdirty ∧ t.h.csr.sstatus = s.h.csr.sstatus

/-- The offset that element `i` of an index group tagged `t` gives (15_isa_vmem.md R387). -/
def offsetOf (s : State) (t w n i : Nat) : Word :=
  if t = 0 then 0 else if tagSigned t then BitVec.ofInt 64 (intOf t (elemAt s n w i)) else BitVec.ofNat 64 (elemAt s n w i)

/-! ## Instruction words (12_encoding.md R315) -/

/-- A-form word. -/
def wordA (f7 b a f3 d major : Nat) : IWord := BitVec.ofNat 32 (f7 * 2 ^ 25 + b * 2 ^ 20 + a * 2 ^ 15 + f3 * 2 ^ 12 + d * 2 ^ 7 + major)

/-- I-form word. -/
def wordI (imm a f3 d major : Nat) : IWord := BitVec.ofNat 32 (imm * 2 ^ 20 + a * 2 ^ 15 + f3 * 2 ^ 12 + d * 2 ^ 7 + major)

/-- S- and B-form word. -/
def wordS (imm b a f3 major : Nat) : IWord :=
  BitVec.ofNat 32 (imm / 32 * 2 ^ 25 + b * 2 ^ 20 + a * 2 ^ 15 + f3 * 2 ^ 12 + imm % 32 * 2 ^ 7 + major)

/-- U- and J-form word. -/
def wordU (imm d major : Nat) : IWord := BitVec.ofNat 32 (imm * 2 ^ 12 + d * 2 ^ 7 + major)

/-! ## Bring-up and health -/

/-- A package reset: every register is at its reset value. The flash, the counter of key serials and what the drives hold stay; so do the
bytes of storage, under keys that are gone; after cold reset their contents are undefined until bring-up overwrites them. -/
def Restarted (cold : Bool) (s t : State) : Prop :=
  t.h = Hart.reset ∧ t.c = Core.reset 0 ∧ t.harts = [] ∧ t.cores = [] ∧ t.fab = Fabric.reset ∧
  t.mem = { s.mem with feWait := [], syncWait := [] } ∧ t.sip = { Siphon.reset with blocks := s.sip.blocks } ∧
  t.hst = { HostSide.reset with nextSerial := s.hst.nextSerial } ∧
  t.pkg = { Pkg.reset with
    booting := false, pwrgood := t.pkg.pwrgood, perst := t.pkg.perst, helper := s.pkg.helper, slotA := s.pkg.slotA
    slotB := s.pkg.slotB, cert := s.pkg.cert, minVersion := s.pkg.minVersion, undefStore := cold || s.pkg.undefStore }

/-- Bring-up is in phase `n`; a package right after reset goes on with phase 1. -/
def InPhase (s : State) (n : Nat) : Prop :=
  s.pkg.booting = true ∧ (fldN s.pkg.bootstat 1 3 = n ∨ (n = 1 ∧ fldN s.pkg.bootstat 1 3 = 0))

/-- The state in which bring-up has stopped in phase `n` with a failure code. -/
def Halted (s : State) (n code : Nat) : State :=
  { s with pkg := { s.pkg with
      bootstat := putBits (putBits (putBits s.pkg.bootstat 1 3 n) 4 1 1) 8 8 code
      booting := false
      imgEnded := s.pkg.imgEnded || decide (n ≤ 2) } }

/-- The image that the boot ROM runs: slot A (`b` 0) if its checks pass, else slot B (`b` 1) if its checks pass. -/
def Chosen (s : State) (g : FlashImage) (b : Nat) : Prop :=
  let ok (i : FlashImage) : Prop := i.sigOk = true ∧ s.pkg.minVersion ≤ i.secver
  ok g ∧ ((b = 0 ∧ s.pkg.slotA = some g) ∨ (b = 1 ∧ s.pkg.slotB = some g ∧ ∀ a, s.pkg.slotA = some a → ¬ ok a))

/-- The package has entered FAULT with a failure code: READY clear, PHASE 7, the error reported, every interface in ERROR, no launch waiting. -/
def Faulted (s t : State) (code : Nat) : Prop :=
  t.pkg = { s.pkg with
    bootstat := putBits (putBits (putBits s.pkg.bootstat 0 1 0) 1 3 7) 8 8 code
    fault := true, booting := false, aer := true } ∧
  t.hst.inbox = [] ∧ (∀ q : Fin 32, t.hst.waiting.get q = []) ∧ ∀ fn ∈ s.interfaces, (t.func fn).tstate = .error

/-! ## Links -/

/-- The link is one of the package's: a fabric port, or a peer entry that was written. -/
def HasLink (s : State) (l : LinkRef) : Prop :=
  match l with
  | .port _ => True
  | .peer e i => s.peer? e i ≠ none

/-- A link whose session is over: DOWN, with the enable, the attempts, SLOTOK, the last peer and the far end kept. -/
def SessionOver (k : Link) : Link :=
  { Link.reset with enabled := k.enabled, attempts := k.attempts, slotok := k.slotok, peer := k.peer, far := k.far }

/-- The packets that a link holds and that are not wholly acknowledged: those whose beats it sent in part or in whole, and those of its egress queues. -/
def Held (k : Link) : List Packet :=
  let b := k.ackBeats ++ k.replay.flatMap Frame.beats ++ k.txBeats
  (takePackets (b.length + 1) b).1 ++ k.egress.map Prod.snd

/-- The state in which a link has left UP: its session is over, and every packet that it held is answered. -/
def Severed (s : State) (l : LinkRef) : State :=
  (Held (s.link l)).foldl (fun s p => s.unreachQueued l p) (s.setLink l (SessionOver (s.link l)))

/-- A frame of at most 29 beats verifies, carries a session message if it is a control frame, and is the next one in its key phase. -/
def Expected (k : Link) (f : Frame) (ok : Bool) : Prop :=
  ok = true ∧ f.beats.length ≤ 29 ∧ f.kph = k.rxPh ∧ f.fseq.toNat = k.rxSeq ∧ (f.ctrl = true → f.spdm = true)

/-! ## Requests and replies -/

/-- The event that serves a request of one operation at its target, for the packet at position `k`. -/
def ServedBy (e : Instr) (k op : Nat) : Prop :=
  (e = .loadRequest k ∧ op = 1) ∨ (e = .storeRequest k ∧ op = 2) ∨ (e = .pstoreRequest k ∧ op = 3) ∨ (e = .atomicRequest k ∧ op = 4) ∨
  (e = .casRequest k ∧ op = 5) ∨ (e = .sendRequest k ∧ op = 6) ∨ (e = .putRequest k ∧ op = 7) ∨ (e = .getRequest k ∧ op = 8) ∨
  (e = .strdataRequest k ∧ op = 9) ∨ (e = .mstoreRequest k ∧ op = 10)

/-- The end of a request that a hart waits for: a result for `rd`, or the trap of a refusal; a marked one holds its refusal. -/
def EndedAccess (s : State) (n : Nat) (r : Req) (st : Nat) (rd : Reg) (v : Word) : State :=
  if st = 0 then
    (if r.marked then (match s.findHart n r.slot r.launch with
      | none => s
      | some h => s.deliver h rd v)
    else s.wakeWith n r.slot r.launch rd v)
  else if r.marked then s.onSender n r fun h => { h with mstat := h.mstat.or (some ⟨r.tier, refusalTrap r.pkt st⟩) }
  else s.trapWaiting n r.slot r.launch (refusalTrap r.pkt st)

/-- The end of a posted access or strip: one fewer of its tier to wait for; the first failing status is held. -/
def EndedPosted (s : State) (n : Nat) (r : Req) (st : Nat) : State :=
  s.onSender n r fun h => { h.postLess r.tier with
    pstat := if st = 0 then h.pstat else h.pstat.or (some ⟨r.tier, refusalTrap r.pkt st⟩) }

/-- What the end of a request does, for each kind of request: `st` is the reply's status and `d` its payload. -/
def Ended (s : State) (n : Nat) (r : Req) (st : Nat) (d : List Byte) : State :=
  match r.kind with
  | .load rd size signed => EndedAccess s n r st rd (extend signed size (dataNat d))
  | .store => EndedAccess s n r st 0 0
  | .atomic rd size => EndedAccess s n r st rd (extend true size (dataNat d))
  | .cas rd => EndedAccess s n r st rd (BitVec.ofNat 64 (dataNat d))
  | .send rd => if st = stFull then EndedAccess s n r 0 rd 7 else EndedAccess s n r st rd 0
  | .mstore rd => EndedAccess s n r 0 rd (if st = 0 then BitVec.ofNat 64 (dataNat d) else BitVec.ofNat 64 (2 ^ r.pkt.route.leaves - 1))
  | .svc rd drt =>
    let i : Fin 8 := ⟨drt.toNat, drt.isLt⟩
    let won := st = 0 ∧ dataNat d % 256 = 0
    let u := if won then s.onSender n r fun h => { h with rt := h.rt.set i (RouteVal.ofNat (dataNat (d.drop 16))) } else s
    EndedAccess u n r st rd (BitVec.ofNat 64 (dataNat d % 256))
  | .posted => EndedPosted s n r st
  | .strip => EndedPosted s n r st
  | .collPut => EndedPosted s n r st
  | .collSync => if st = 0 then s else s.onSender n r fun h => { h with pstat := h.pstat.or (some ⟨r.tier, refusalTrap r.pkt st⟩) }
  | .collAbort => s
  | .copyPut id a m => (s.focusCore n).copyPutDone id a m st
  | .copyGet id a m => (s.focusCore n).copyGetDone id a m st d
  | .engSync id => (s.focusCore n).copySyncDone id st

/-- The event that answers a service request with an operation; MINT also answers the reserved ones. -/
def SvcEvent (e : Instr) (k sop : Nat) : Prop :=
  (e = .mintm k ∧ sop = 2) ∨ (e = .revoke k ∧ sop = 3) ∨ (e = .openm k ∧ sop = 4) ∨ (e = .query k ∧ sop = 5) ∨
  (e = .mint k ∧ (sop < 2 ∨ 5 < sop))

/-! ## The Siphon -/

/-- `t` is `s` with the commands added that move `n` blocks from `lba` on: none names more than the drive takes at once, and together they name
each block of the range once, in order. -/
def Issued (s t : State) (d : BitVec 2) (nsid lba n : Nat) (use : NvmeUse) (xfer : Nat) : Prop :=
  ∃ cs : List NvmeCmd, t = { s with sip := { s.sip with cmds := s.sip.cmds ++ cs, nextCid := s.sip.nextCid + cs.length } } ∧
    cs.map (·.cid) = List.range' s.sip.nextCid cs.length ∧ (cs.flatMap fun c => List.range' c.lba c.n) = List.range' lba n ∧
    ∀ c ∈ cs, c.drive = d ∧ c.nsid = nsid ∧ c.n ≤ s.maxBlocks d ∧ c.use = use ∧ c.xfer = xfer ∧ c.retried = false ∧ c.bad = none ∧ c.since = s.sip.cycle

/-- What the end of a command does to the blocks that it names: a Write puts them, or leaves them undefined when it failed; a deallocation leaves
them undefined. -/
def BlocksAfter (s : State) (c : NvmeCmd) (ok : Bool) : State :=
  match c.use with
  | .write _ bs =>
    if ok then (s.forgetBlocks c.drive c.nsid c.lba c.n).putBlocks (bs.filter fun b => decide (c.lba ≤ b.lba) && decide (b.lba < c.lba + c.n))
    else s.forgetBlocks c.drive c.nsid c.lba c.n
  | .trim _ lba n nsid => s.forgetBlocks c.drive nsid lba n
  | .flush _ => s
  | .fault _ _ _ => s

/-- The event that carries out a command with an operation; WRITEBACK also answers the reserved ones. -/
def CommandEvent (e : Instr) (k op : Nat) : Prop :=
  (e = .writeback k ∧ (op = 1 ∨ op = 0 ∨ 7 < op)) ∨ (e = .prefetch k ∧ op = 2) ∨ (e = .trim k ∧ op = 3) ∨ (e = .flush k ∧ op = 4) ∨
  (e = .slotset k ∧ op = 5) ∨ (e = .slotclr k ∧ op = 6) ∨ (e = .resume k ∧ op = 7)

/-- The command with a number, if it still waits, completes as it was stopped: with success when nothing stopped it. -/
def AnsweredAs (s : State) (id : Nat) : State :=
  match s.sqCmd id with
  | none => s
  | some q => match q.fail with
    | none => s.complete q 0 0 0
    | some g => s.complete q g.1 g.2.1 g.2.2

/-! ## The host interface -/

/-- A message that needs the bound session of a function, by whether it came in it. -/
def SessionEvent (e : Bool → Instr) (fn : BitVec 6) : Prop :=
  e = .lockInterfaceRequest fn ∨ (∃ x, e = fun b => .startInterfaceRequest fn b x) ∨ e = .stopInterfaceRequest fn ∨
  e = .getDeviceInterfaceState fn ∨ e = .getDeviceInterfaceReport fn ∨ (∃ k x, e = fun b => .keyProg fn b k x) ∨
  (∃ k, e = fun b => .kSetGo fn b k) ∨ (∃ k, e = fun b => .kSetStop fn b k) ∨ (∃ n x k, e = fun b => .enclParam fn b n x k) ∨
  e = .enclQuery fn

/-! ## The step -/

/-- The hart whose slot is due on the core in focus issues at this visit; `u` is the state with the core-shared writes that have fallen due and
that hart in focus. No bubble, interrupt or deferred trap comes before it. -/
def Due (s u : State) : Prop :=
  s.pkg.fault = false ∧ ({ s with c := s.c.settle } : State).focusSlot s.c.id ({ s with c := s.c.settle } : State).dueSlot = some u ∧
  u.governed = false ∧ u.launchEnded = false ∧ u.h.run = .ready ∧ u.h.nextIssue ≤ u.c.cycle ∧ u.h.deferred = none ∧ u.interruptNow = none

end Sys2Proof.Safety
end

