-- ==== Sys2Proof/Certificates/Slice0/Obligations.lean ====
section
/-! DEFINITION. The statements for the provers. Each docstring names the rules that the statement formalises. -/

set_option Elab.async false


open Sys2Proof Sys2Proof.Machine Sys2Proof.Safety

/-! ## Scalar integer instructions -/

/-- Every OPI instruction retires with the result that the table of R331 gives, in any destination, and changes nothing else; its word is
that of R331. Every OPR instruction but the divisions and MULMOD retires with the result that the table of R332 gives, in any destination,
and changes nothing else. CLZ, CTZ and POPC are given by what their result counts. DIV, DIVU, REM and REMU give the quotient and the
remainder of R292 at w = 64, the cases of divisor 0 and of the most negative value by −1 among them, 31 cycles after issue. MULMOD gives
the residue 23 cycles after issue; when MODQ.Q is even or below 3 it raises ILLEGAL instead and writes nothing. -/
def Obligations.IntegerResults : Prop :=
  (∀ (s : State) (d a : Reg) (i : BitVec 12) (sh : BitVec 6),
     (Computes (.addi d a i) d (s.x a + BitVec.ofInt 64 i.toInt) 7 s ∧
       decode (wordI i.toNat a.toNat 0 d.toNat 0x01) = .addi d a i) ∧
     (Computes (.andi d a i) d (s.x a &&& BitVec.ofInt 64 i.toInt) 7 s ∧
       decode (wordI i.toNat a.toNat 1 d.toNat 0x01) = .andi d a i) ∧
     (Computes (.ori d a i) d (s.x a ||| BitVec.ofInt 64 i.toInt) 7 s ∧
       decode (wordI i.toNat a.toNat 2 d.toNat 0x01) = .ori d a i) ∧
     (Computes (.xori d a i) d (s.x a ^^^ BitVec.ofInt 64 i.toInt) 7 s ∧
       decode (wordI i.toNat a.toNat 3 d.toNat 0x01) = .xori d a i) ∧
     (Computes (.slti d a i) d (if (s.x a).toInt < i.toInt then 1 else 0) 7 s ∧
       decode (wordI i.toNat a.toNat 4 d.toNat 0x01) = .slti d a i) ∧
     (Computes (.sltiu d a i) d (if (s.x a).toNat < (BitVec.ofInt 64 i.toInt).toNat then 1 else 0) 7 s ∧
       decode (wordI i.toNat a.toNat 5 d.toNat 0x01) = .sltiu d a i) ∧
     (Computes (.slli d a sh) d (BitVec.ofNat 64 ((s.x a).toNat * 2 ^ sh.toNat)) 7 s ∧
       decode (wordI sh.toNat a.toNat 6 d.toNat 0x01) = .slli d a sh) ∧
     (Computes (.srli d a sh) d (BitVec.ofNat 64 ((s.x a).toNat / 2 ^ sh.toNat)) 7 s ∧
       decode (wordI (64 + sh.toNat) a.toNat 6 d.toNat 0x01) = .srli d a sh) ∧
     (Computes (.srai d a sh) d (BitVec.ofInt 64 ((s.x a).toInt / 2 ^ sh.toNat)) 7 s ∧
       decode (wordI (128 + sh.toNat) a.toNat 6 d.toNat 0x01) = .srai d a sh)) ∧
  (∀ (s : State) (d a b : Reg),
     Computes (.add d a b) d (BitVec.ofNat 64 ((s.x a).toNat + (s.x b).toNat)) 7 s ∧
     Computes (.sub d a b) d (BitVec.ofInt 64 ((s.x a).toInt - (s.x b).toInt)) 7 s ∧
     Computes (.and d a b) d (s.x a &&& s.x b) 7 s ∧
     Computes (.or d a b) d (s.x a ||| s.x b) 7 s ∧
     Computes (.xor d a b) d (s.x a ^^^ s.x b) 7 s ∧
     Computes (.sll d a b) d (BitVec.ofNat 64 ((s.x a).toNat * 2 ^ ((s.x b).toNat % 64))) 7 s ∧
     Computes (.srl d a b) d (BitVec.ofNat 64 ((s.x a).toNat / 2 ^ ((s.x b).toNat % 64))) 7 s ∧
     Computes (.sra d a b) d (BitVec.ofInt 64 ((s.x a).toInt / 2 ^ ((s.x b).toNat % 64))) 7 s ∧
     Computes (.slt d a b) d (if (s.x a).toInt < (s.x b).toInt then 1 else 0) 7 s ∧
     Computes (.sltu d a b) d (if (s.x a).toNat < (s.x b).toNat then 1 else 0) 7 s ∧
     Computes (.mul d a b) d (BitVec.ofNat 64 ((s.x a).toNat * (s.x b).toNat)) 7 s ∧
     Computes (.mulh d a b) d (BitVec.ofInt 64 ((s.x a).toInt * (s.x b).toInt / 2 ^ 64)) 7 s ∧
     Computes (.mulhu d a b) d (BitVec.ofNat 64 ((s.x a).toNat * (s.x b).toNat / 2 ^ 64)) 7 s ∧
     Computes (.min d a b) d (BitVec.ofInt 64 (min (s.x a).toInt (s.x b).toInt)) 7 s ∧
     Computes (.max d a b) d (BitVec.ofInt 64 (max (s.x a).toInt (s.x b).toInt)) 7 s ∧
     Computes (.minu d a b) d (BitVec.ofNat 64 (min (s.x a).toNat (s.x b).toNat)) 7 s ∧
     Computes (.maxu d a b) d (BitVec.ofNat 64 (max (s.x a).toNat (s.x b).toNat)) 7 s ∧
     (∃ n ≤ 64, Computes (.clz d a) d (BitVec.ofNat 64 n) 7 s ∧ (s.x a).toNat < 2 ^ (64 - n) ∧ (n < 64 → 2 ^ (63 - n) ≤ (s.x a).toNat)) ∧
     (∃ n ≤ 64, Computes (.ctz d a) d (BitVec.ofNat 64 n) 7 s ∧ 2 ^ n ∣ (s.x a).toNat ∧ (n < 64 → (s.x a).getLsbD n = true)) ∧
     Computes (.popc d a) d (BitVec.ofNat 64 ((List.range 64).map fun i => if (s.x a).getLsbD i then 1 else 0).sum) 7 s) ∧
  (∀ (s : State) (d a b : Reg),
     Computes (.div d a b) d
       (if (s.x b).toInt = 0 then BitVec.ofInt 64 (-1)
        else if (s.x a).toInt = -2 ^ 63 ∧ (s.x b).toInt = -1 then BitVec.ofInt 64 (-2 ^ 63)
        else BitVec.ofInt 64 ((s.x a).toInt.tdiv (s.x b).toInt)) 31 s ∧
     Computes (.divu d a b) d
       (if (s.x b).toNat = 0 then BitVec.ofNat 64 (2 ^ 64 - 1) else BitVec.ofNat 64 ((s.x a).toNat / (s.x b).toNat)) 31 s ∧
     Computes (.rem d a b) d
       (if (s.x b).toInt = 0 then s.x a
        else if (s.x a).toInt = -2 ^ 63 ∧ (s.x b).toInt = -1 then 0
        else BitVec.ofInt 64 ((s.x a).toInt.tmod (s.x b).toInt)) 31 s ∧
     Computes (.remu d a b) d
       (if (s.x b).toNat = 0 then s.x a else BitVec.ofNat 64 ((s.x a).toNat % (s.x b).toNat)) 31 s ∧
     (if fldN s.h.csr.modq 0 62 % 2 = 0 ∨ fldN s.h.csr.modq 0 62 < 3 then
       exec (.mulmod d a b) s = .next (s.raise ⟨0x01, s.h.word.setWidth 64⟩)
      else Computes (.mulmod d a b) d (BitVec.ofNat 64 ((s.x a).toNat * (s.x b).toNat % fldN s.h.csr.modq 0 62)) 23 s))

/-- LUI and AUIPC write what R333 says, and their words are those of R333. The branches continue at PC + 4 × Sext(IMM, 12) exactly when
the condition of R336 holds, and at PC + 4 otherwise; JAL and JALR write PC + 4 and continue at their target; JALR to a target that is no
multiple of 4 raises MISALIGN with the target and writes nothing. Nothing but the pc, the destination and INSTRET changes. -/
def Obligations.UpperAndBranchResults : Prop :=
  (∀ (s : State) (d : Reg) (i : BitVec 20),
     Computes (.lui d i) d (BitVec.ofInt 64 (i.toInt * 4096)) 7 s ∧
     Computes (.auipc d i) d (s.h.pc + BitVec.ofInt 64 (i.toInt * 4096)) 7 s ∧
     decode (wordU i.toNat d.toNat 0x03) = .lui d i ∧ decode (wordU i.toNat d.toNat 0x04) = .auipc d i) ∧
  (∀ (s : State) (d a b : Reg) (i : BitVec 12) (o : BitVec 20),
     let goes (j : Instr) (pc : Word) : Prop :=
       ∃ t, exec j s = .next t ∧ t.h.pc = pc ∧ t.h.csr.instret = s.h.csr.instret + 1 ∧
         t = { s with h := { s.h with pc := t.h.pc, csr := { s.h.csr with instret := t.h.csr.instret } } }
     let links (j : Instr) (pc : Word) : Prop :=
       ∃ t, exec j s = .next t ∧ t.h.pc = pc ∧ t.h.csr.instret = s.h.csr.instret + 1 ∧ Wrote d (s.h.pc + 4) 7 s t ∧
         ScalarFrame s t ∧ FlagsKept s t ∧ Paced 7 s t
     let dest : Word := s.h.pc + BitVec.ofInt 64 (4 * i.toInt)
     goes (.beq a b i) (if s.x a = s.x b then dest else s.h.pc + 4) ∧
     goes (.bne a b i) (if s.x a ≠ s.x b then dest else s.h.pc + 4) ∧
     goes (.blt a b i) (if (s.x a).toInt < (s.x b).toInt then dest else s.h.pc + 4) ∧
     goes (.bge a b i) (if (s.x b).toInt ≤ (s.x a).toInt then dest else s.h.pc + 4) ∧
     goes (.bltu a b i) (if (s.x a).toNat < (s.x b).toNat then dest else s.h.pc + 4) ∧
     goes (.bgeu a b i) (if (s.x b).toNat ≤ (s.x a).toNat then dest else s.h.pc + 4) ∧
     links (.jal d o) (s.h.pc + BitVec.ofInt 64 (4 * o.toInt)) ∧
     (let t : Word := s.x a + BitVec.ofInt 64 i.toInt
      if t.toNat % 4 = 0 then links (.jalr d a i) t else exec (.jalr d a i) s = .next (s.raise ⟨0x03, t⟩)) ∧
     decode (wordS i.toNat b.toNat a.toNat 0 0x07) = .beq a b i ∧ decode (wordS i.toNat b.toNat a.toNat 1 0x07) = .bne a b i ∧
     decode (wordS i.toNat b.toNat a.toNat 2 0x07) = .blt a b i ∧ decode (wordS i.toNat b.toNat a.toNat 3 0x07) = .bge a b i ∧
     decode (wordS i.toNat b.toNat a.toNat 4 0x07) = .bltu a b i ∧ decode (wordS i.toNat b.toNat a.toNat 5 0x07) = .bgeu a b i ∧
     decode (wordU o.toNat d.toNat 0x08) = .jal d o ∧ decode (wordI i.toNat a.toNat 0 d.toNat 0x09) = .jalr d a i)

/-! ## Scalar memory instructions -/

/-- A plain load whose checks pass, of bytes that are not poison and that no queued vector store writes, retires with the bytes at its address,
extended as R334 says, in any destination; storage is as before. The result comes 7 cycles after issue, or as many later as the reply is late, and
the hart issues again in the cycle after (R174). -/
def Obligations.LoadResults : Prop :=
  ∀ (s : State) (d a : Reg) (i : BitVec 12) (l : Loc),
    let va : Word := s.x a + BitVec.ofInt 64 i.toInt
    (Reaches s va 1 .load l → Loads (.lb d a i) d true 1 l s ∧ Loads (.lbu d a i) d false 1 l s) ∧
    (Reaches s va 2 .load l → Loads (.lh d a i) d true 2 l s ∧ Loads (.lhu d a i) d false 2 l s) ∧
    (Reaches s va 4 .load l → Loads (.lw d a i) d true 4 l s ∧ Loads (.lwu d a i) d false 4 l s) ∧
    (Reaches s va 8 .load l → Loads (.ld d a i) d true 8 l s)

/-- A plain store whose checks pass, to bytes that are not poison and that no queued vector instruction accesses, in storage of canonical form,
retires with the low bytes of its source at its address, and every other byte of storage reads as before; no full/empty bit changes (R334, R335). -/
def Obligations.StoreResults : Prop :=
  ∀ (s : State) (a b : Reg) (i : BitVec 12) (l : Loc), StorageWf s →
    let va : Word := s.x a + BitVec.ofInt 64 i.toInt
    (Reaches s va 1 .store l → Stores (.sb a b i) 1 (s.x b) l s) ∧
    (Reaches s va 2 .store l → Stores (.sh a b i) 2 (s.x b) l s) ∧
    (Reaches s va 4 .store l → Stores (.sw a b i) 4 (s.x b) l s) ∧
    (Reaches s va 8 .store l → Stores (.sd a b i) 8 (s.x b) l s)

/-- The atomics of R344: an atomic whose checks pass, on bytes that are not poison and that no queued vector instruction accesses, in storage of
canonical form, returns the old value, sign-extended, and leaves the new value of the table; CAS compares with its destination register. AMOFADD returns the old value, zero-extended, stores the rounded sum, accrues its flags, and
counts in SRSEED under SR (R344, R303, R305). -/
def Obligations.AtomicResults : Prop :=
  (∀ (s : State) (d a b : Reg) (w : BitVec 1) (l : Loc), StorageWf s →
     let n : Nat := if w = 1 then 8 else 4
     let m : Nat := 2 ^ (8 * n)
     let old : Nat := bytesNat s l n
     let src : Nat := (s.x b).toNat % m
     let int (v : Nat) : Int := (extended true n v).toInt
     Reaches s (s.x a) n .atomic l →
       Swaps (.amoadd d w a b) d true n ((old + src) % m) l s ∧
       Swaps (.amoand d w a b) d true n (old &&& src) l s ∧
       Swaps (.amoor d w a b) d true n (old ||| src) l s ∧
       Swaps (.amoxor d w a b) d true n (old ^^^ src) l s ∧
       Swaps (.amomin d w a b) d true n (if int src < int old then src else old) l s ∧
       Swaps (.amomax d w a b) d true n (if int old < int src then src else old) l s ∧
       Swaps (.amominu d w a b) d true n (min old src) l s ∧
       Swaps (.amomaxu d w a b) d true n (max old src) l s ∧
       Swaps (.amoswap d w a b) d true n src l s ∧
       Swaps (.cas d w a b) d true n (if old = (s.x d).toNat % m then src else old) l s) ∧
  (∀ (s : State) (d a b : Reg) (w : BitVec 1) (l : Loc), StorageWf s →
     let n : Nat := if w = 1 then 8 else 4
     let z : Nat × Flg := fAdd (if w = 1 then tF64 else tF32) s.rnd 0 (bytesNat s l n) ((s.x b).toNat % 2 ^ (8 * n))
     Reaches s (s.x a) n .atomic l →
       ∃ t, exec (.amofadd d w a b) s = .next t ∧ Retired s t ∧ Stored l n z.1 s t ∧ FullKept s t ∧
         Wrote d (extended false n (bytesNat s l n)) (7 + s.lateBy) s t ∧ t.h.csr.fflags = s.h.csr.fflags ||| z.2 ∧
         t.h.csr.srseed = (if s.h.csr.frm = 5 then s.h.csr.srseed + BitVec.ofNat 64 (2 ^ 48) else s.h.csr.srseed) ∧ AccessFrame s t ∧ Replied s t)

/-- A load, store or atomic, with no marked access outstanding, whose address is not a multiple of its size raises MISALIGN with the address, and
one that fails another precise check raises that check's cause, with no other effect. A load or atomic that finds poison raises POISON with the
address; of storage only the mark on the lines that it found bad changes, and no register (R330, R334, R345). -/
def Obligations.MemoryTraps : Prop :=
  ∀ (s : State) (j : Instr) (va : Word) (n : Nat) (k : AccKind), Quiet s → scalarAccessOf s j = some (va, n, k) →
    (va.toNat % n ≠ 0 → exec j s = .next (s.raise ⟨0x03, va⟩)) ∧
    (∀ c, s.check va n n k = .error (.trap c) → exec j s = .next (s.raise c)) ∧
    (∀ l f, s.check va n n k = .ok ⟨l, f⟩ → k ≠ .store → Free s l n (k != .load) → s.readLoc l n = none →
      ∃ u, exec j s = .next (u.raise ⟨0x14, va⟩) ∧ u.h = s.h ∧ u.mem = { s.mem with hpoison := u.mem.hpoison } ∧ AccessFrame s u)

/-- The full/empty instructions on a scratchpad word that they reach and that no queued vector instruction accesses, with no marked access
outstanding and storage in canonical form (R342): LDFE and LDFF on a full and on an empty word, STEF on a full word; STEF on an empty word and STF,
where no hart is parked on the word or on a ring; FECLR and FEPEEK. A store of STF that fills a word serves the one hart parked there by LDFE: the
hart takes the value and goes on, and the word is empty again; a hart parked by LDFF takes the value and the word stays full. -/
def Obligations.FullEmptyResults : Prop :=
  (∀ (s : State) (d a b : Reg) (core off : Nat),
     let w : Nat := spadKey core off / 8
     let l : Loc := .spad core off
     let noneParked : Prop := (∀ f ∈ s.mem.feWait, feWord f.core f.off ≠ w) ∧
       ∀ g ∈ s.harts, g.run = .parkedFE → ∃ f ∈ s.mem.feWait, f.hcore = g.core ∧ f.slot = g.slot ∧ f.launch = g.launch
     let parks (j : Instr) (empties : Bool) : Prop :=
       ∃ t, exec j s = .next t ∧ t.h = { s.h with run := .parkedFE } ∧ AccessFrame s { t with h := s.h } ∧
         t.mem = { s.mem with feWait := s.mem.feWait ++ [⟨core, off, s.h.core, s.h.slot, s.h.launch, d, empties⟩] }
     let fills (t : State) : Prop :=
       Stored l 8 (s.x b).toNat s t ∧ t.mem.feWait = s.mem.feWait ∧ ∀ x, t.mem.isFull x = (decide (x = w) || s.mem.isFull x)
     let empties (t : State) : Prop :=
       BytesKept s t ∧ t.mem.feWait = s.mem.feWait ∧ ∀ x, t.mem.isFull x = (!decide (x = w) && s.mem.isFull x)
     StorageWf s → Quiet s → s.h.run = .ready → Free s l 8 true →
     ((∃ f, s.check (s.x a) 8 8 .load = .ok ⟨l, f⟩) →
       (s.mem.wordsClean (spadKey core off) 8 = true → s.mem.isFull w = true →
         (∃ t, exec (.ldfe d a) s = .next t ∧ Retired s t ∧ Wrote d (BitVec.ofNat 64 (bytesNat s l 8)) (7 + s.lateBy) s t ∧ empties t ∧ AccessFrame s t) ∧
         (∃ t, exec (.ldff d a) s = .next t ∧ Retired s t ∧ Wrote d (BitVec.ofNat 64 (bytesNat s l 8)) (7 + s.lateBy) s t ∧ t.mem = s.mem ∧ AccessFrame s t)) ∧
       (s.mem.wordsClean (spadKey core off) 8 = true → s.mem.isFull w = false → parks (.ldfe d a) true ∧ parks (.ldff d a) false) ∧
       (∃ t, exec (.feclr a) s = .next t ∧ Retired s t ∧ (∀ r, t.x r = s.x r) ∧ empties t ∧ AccessFrame s t) ∧
       (∃ t, exec (.fepeek d a) s = .next t ∧ Retired s t ∧ Wrote d (if s.mem.isFull w then 1 else 0) (7 + s.lateBy) s t ∧ t.mem = s.mem ∧ AccessFrame s t)) ∧
     ((∃ f, s.check (s.x a) 8 8 .atomic = .ok ⟨l, f⟩) →
       (s.mem.isFull w = true → ∃ t, exec (.stef d a b) s = .next t ∧ Retired s t ∧ Wrote d 0 (7 + s.lateBy) s t ∧ t.mem = s.mem ∧ AccessFrame s t) ∧
       (s.mem.isFull w = false → noneParked → ∃ t, exec (.stef d a b) s = .next t ∧ Retired s t ∧ Wrote d 1 (7 + s.lateBy) s t ∧ fills t ∧
         t.harts = s.harts) ∧
       (noneParked → ∃ t, exec (.stf a b) s = .next t ∧ Retired s t ∧ (∀ r, t.x r = s.x r) ∧ fills t ∧ t.harts = s.harts))) ∧
  (∀ (s : State) (a b : Reg) (core off : Nat) (g : Hart) (rd : Reg) (empties : Bool),
     let w : Nat := spadKey core off / 8
     let l : Loc := .spad core off
     StorageWf s → Quiet s → s.h.run = .ready → Free s l 8 true → 0 < s.h.launch.toNat → 0 < g.launch.toNat →
     (∃ f, s.check (s.x a) 8 8 .atomic = .ok ⟨l, f⟩) →
     s.harts = [g] → g.run = .parkedFE → s.h.isHart g.core g.slot g.launch = false → 0 < rd.toNat → rd.toNat < 16 → s.mem.isFull w = false → off % 8 = 0 →
     s.mem.feWait = [⟨core, off, g.core, g.slot, g.launch, rd, empties⟩] →
       ∃ t g', exec (.stf a b) s = .next t ∧ Retired s t ∧ Stored l 8 (s.x b).toNat s t ∧ t.mem.feWait = [] ∧
         t.mem.isFull w = (!empties) ∧ t.harts = [g'] ∧ g'.run = .ready ∧ g'.pc = g.pc + 4 ∧ g'.p.toList[rd.toNat]? = some (s.x b))

/-! ## FENCE, RLX and PGLOBAL -/

/-- FENCE at a scope of R259, with no marked access outstanding: it waits while a queued vector memory access, an engine command of the hart or a
posted access of a covered tier is outstanding and the set names its kind; otherwise, with p in the set, it raises a held status of a covered tier;
and otherwise it retires with no other effect. A scope code of 6 or 7 raises ILLEGAL. RLX opens a window of n accesses, its field holding n − 1,
and changes nothing else (R245). Inside a window LD, when it passes its checks, no queued vector store writes its bytes and fewer than 16 marked
accesses are outstanding, is marked and retires at once, and takes one count. -/
def Obligations.OrderingResults : Prop :=
  (∀ (s : State) (sc : BitVec 3) (v e p : BitVec 1), Quiet s →
     (6 ≤ sc.toNat → exec (.fence sc v e p) s = .next (s.raise ⟨0x01, s.h.word.setWidth 64⟩)) ∧
     (sc.toNat ≤ 5 →
       (v = 1 → ¬ VectorDone s sc.toNat → exec (.fence sc v e p) s = .next s) ∧
       (e = 1 → ¬ Drained s sc.toNat → exec (.fence sc v e p) s = .next s) ∧
       (p = 1 → (∃ j : Fin 6, j.val ≤ sc.toNat ∧ s.h.post.get j ≠ 0) → exec (.fence sc v e p) s = .next s) ∧
       ((v = 1 → VectorDone s sc.toNat) → (e = 1 → Drained s sc.toNat) → (p = 1 → ∀ j : Fin 6, j.val ≤ sc.toNat → s.h.post.get j = 0) →
         (∀ st, p = 1 → s.h.pstat = some st → st.tier.num ≤ sc.toNat →
           exec (.fence sc v e p) s = .next (({ s with h := { s.h with pstat := none } } : State).raise st.trap)) ∧
         ((p = 1 → ∀ st, s.h.pstat = some st → sc.toNat < st.tier.num) → exec (.fence sc v e p) s = .next (onward s))))) ∧
  (∀ (s : State) (n : BitVec 4) (d a : Reg) (i : BitVec 12) (l : Loc),
     exec (.rlx n) s = .next (onward { s with h := { s.h with rlx := n.toNat + 1 } }) ∧
     (0 < s.h.rlx → s.h.marked.length + s.remoteMarked < 16 →
       (∃ f, s.check (s.x a + BitVec.ofInt 64 i.toInt) 8 8 .load = .ok ⟨l, f⟩) → Free s l 8 false →
       ∃ t, exec (.ld d a i) s = .next t ∧ Retired s t ∧ t.h.rlx = s.h.rlx - 1 ∧ (∀ r, t.x r = s.x r) ∧ t.mem = s.mem ∧
         t.h.marked = s.h.marked ++ [⟨.load 8 true, l, s.x a + BitVec.ofInt 64 i.toInt, 0, d, s.c.cycle⟩]))

/-- PGLOBAL turns an address of the hart's own area, one past its end included, into the cluster-window address of the same byte, leaves
any other address as it is, and raises WINDOW for the rest of the window of 256 KiB (R213). `rbase`, SPRES and PRIVSZ are those of the
hart's launch. -/
def Obligations.PointerResults : Prop :=
  ∀ (s : State) (d a : Reg) (l : Launch), s.hst.launches.find? (·.id == s.h.launch) = some l →
    let size : Nat := (pktWord l.words 6).toNat / 2 ^ 33 % 2 ^ 7 * 4096
    let spres : Nat := (pktWord l.words 6).toNat / 2 ^ 23 % 2 ^ 9 * 4096
    let i : Nat := s.h.slot.toNat - l.firstSlot.toNat
    let n : Nat := (s.x a).toNat
    if 0xFF0000000000 ≤ n ∧ n ≤ 0xFF0000000000 + size then
      Computes (.pglobal d a) d
        (BitVec.ofNat 64 (0xF00000000000 + s.c.id % 128 * 0x140000 + l.rbase + spres + i * size + (n - 0xFF0000000000))) 7 s
    else if 0xFF0000000000 ≤ n ∧ n ≤ 0xFF000003FFFF then exec (.pglobal d a) s = .next (s.raise ⟨0x08, s.x a⟩)
    else Computes (.pglobal d a) d (s.x a) 7 s

/-! ## Control registers -/

/-- A CSR instruction on an address that the map does not assign raises ILLEGAL, and one below the address's level raises PRIV; an event
counter is read at user level only where MEVEN.UREAD allows it, and never written there. Neither has another effect. An access to the vector
and arithmetic registers waits while vector instructions of the hart are in progress. With no window open, a CSR instruction that makes no write
gives the register's value to its destination and changes nothing else; HARTID, SIP, PUMPST, VL, VTYPE, the limits, CYCLE, INSTRET, RANK and
LAUNCHID read as given here. -/
def Obligations.CsrReads : Prop :=
  (∀ (s : State) (j : Instr) (d : Reg) (a : Nat) (w : Bool) (new : Word → Word), csrForm s j = some (d, a, w, new) →
     (a ∉ csrMap → exec j s = .next (s.raise ⟨0x01, s.h.word.setWidth 64⟩)) ∧
     (a ∈ csrMap → a < 0x018 ∨ 0x020 ≤ a → s.h.level.num < a / 256 → exec j s = .next (s.raise ⟨0x02, s.h.word.setWidth 64⟩)) ∧
     (0x018 ≤ a → a ≤ 0x01F → s.h.level = .user → w = true ∨ s.c.meven.getLsbD 8 = false →
       exec j s = .next (s.raise ⟨0x02, s.h.word.setWidth 64⟩)) ∧
     (a ≤ 0x009 ∨ a = 0x00B → s.vecBusy = true → exec j s = .next s)) ∧
  ((∀ (s : State) (j : Instr) (d : Reg) (a : Nat) (new : Word → Word) (old : Word), csrForm s j = some (d, a, false, new) → CsrOpen s a false →
     s.csrRead a = some old → Computes j d old 7 s) ∧
   (∀ s : State,
     (∀ a, (s.csrRead a).isSome = decide (a ∈ csrMap)) ∧
     s.csrRead 0x000 = some (s.h.csr.vl.setWidth 64) ∧ s.csrRead 0x001 = some (s.h.csr.vtype.setWidth 64) ∧
     s.csrRead 0x006 = some 0x0000080810202040#64 ∧ s.csrRead 0x010 = some s.c.cycle ∧ s.csrRead 0x011 = some s.h.csr.instret ∧
     s.csrRead 0x00D = some (s.h.rank.setWidth 64) ∧ s.csrRead 0x00E = some (s.h.launch.setWidth 64) ∧
     (s.h.core < 4096 → ∃ v, s.csrRead 0x00C = some v ∧ fldN v 0 3 = s.h.slot.toNat ∧ v.getLsbD 3 = s.h.lslot ∧ fldN v 4 7 = s.h.core % 128 ∧
       fldN v 11 5 = s.h.core / 128 ∧ fldN v 16 16 = s.fab.pkgId.toNat ∧ fldN v 32 32 = 0) ∧
     (∃ v, s.csrRead 0x10A = some v ∧ v.getLsbD 1 = decide (s.h.csr.timecmp ≤ s.c.cycle) ∧ v.getLsbD 2 = s.h.csr.sipPreempt ∧
       v.getLsbD 4 = !s.myMail.isEmpty ∧ v.getLsbD 0 = false ∧ fldN v 5 59 = 0) ∧
     (∃ v, s.csrRead 0x00A = some v ∧ fldN v 0 16 = s.h.vec.pump.rem.toNat ∧ fldN v 16 4 = s.h.vec.pump.len.toNat ∧
       fldN v 20 4 = s.h.vec.pump.idx.toNat ∧ fldN v 24 3 = s.h.vec.pump.smask.toNat ∧ fldN v 27 2 = s.h.vec.pump.step.toNat ∧
       fldN v 29 2 = s.h.vec.pump.wrap.toNat ∧ fldN v 32 2 = s.h.vec.pump.state.toNat ∧ fldN v 34 5 = s.h.vec.pump.off.toNat)))

/-- Every form of CSR instruction that writes a register of the table `csrMasks`, at a level that may and with no window open, leaves there the
written value in the register's own bits, gives the old value to its destination, and changes no other control register and nothing else; a write to
a read-only register of the table changes nothing. SIP is left out of the comparison: MAILBOX and TIMER there follow from other registers. The control
registers whose write is more than a mask: VREGS, FRM and VLCAP keep their value against a reserved one, VDIRTY takes the bits of declared registers,
SIP clears PREEMPT alone, SSTATUS.VS changes as R276 lists and 0 discards the vector state, SEVSEL takes a reserved code as 0, MSTATUS keeps PP against
the level that does not exist, SATP takes an owned ASID with ROOT and RCNT of the table and raises PRIV otherwise, FRAMEPOOL raises PRIV for a key id
that MKEYID does not hold. -/
def Obligations.CsrWrites : Prop :=
  (∀ (s : State) (j : Instr) (d : Reg) (a : Nat) (m : Word) (new : Word → Word) (old : Word), csrForm s j = some (d, a, true, new) →
     (a, m) ∈ csrMasks → CsrOpen s a true → s.csrRead a = some old →
       ∃ t, exec j s = .next t ∧ Retired s t ∧ Wrote d old 7 s t ∧ t.csrRead a = some (if m = 0 then old else new old &&& m) ∧
         (∀ b, b ≠ a → b ≠ 0x011 → b ≠ 0x10A → t.csrRead b = s.csrRead b) ∧ t.mem = s.mem ∧ t.h.vec = s.h.vec ∧ t.h.rt = s.h.rt ∧
         t.h.level = s.h.level ∧ t.harts = s.harts ∧ t.cores = s.cores ∧ t.fab = s.fab ∧ t.hst = s.hst ∧ t.sip = s.sip ∧ t.pkg = s.pkg) ∧
  (∀ (s : State) (d a : Reg), s.h.rlx = 0 → s.vecBusy = false →
     let v : Word := s.x a
     let writes (c : BitVec 12) (u : State) : Prop :=
       ∃ t, exec (.csrrw d a c) s = .next t ∧ t.h.csr = { u.h.csr with instret := s.h.csr.instret + 1 } ∧ t.h.pc = s.h.pc + 4 ∧ t.mem = s.mem ∧
         t.h.vec = u.h.vec ∧ ∃ old, s.csrRead c.toNat = some old ∧ Wrote d old 7 s t
     writes 0x005 (if v.toNat % 4 = 3 then s else s.setCsr { s.h.csr with nreg := v.setWidth 2 }) ∧
     writes 0x004 (s.setCsr { s.h.csr with vdirty := v.setWidth 32 &&& BitVec.ofNat 32 (2 ^ (32 / 2 ^ s.h.csr.declared.toNat) - 1) }) ∧
     writes 0x008 (if 6 ≤ v.toNat % 8 then s else s.setCsr { s.h.csr with frm := v.setWidth 3 }) ∧
     (s.h.level ≠ .user →
       writes 0x107 (if 10 ≤ v.toNat % 16 then s else s.setCsr { s.h.csr with vlcap := v.setWidth 4 }) ∧
       writes 0x10A (if v.getLsbD 2 then s.setCsr { s.h.csr with sipPreempt := false } else s) ∧
       (let vs : Nat := s.h.csr.sstatus.toNat / 32
        let new : Nat := v.toNat / 32 % 4
        new ≠ 0 → writes 0x100 (s.setCsr { s.h.csr with
          sstatus := BitVec.ofNat 7 (v.toNat % 32 + 32 * (if vs = 0 ∨ (vs = 3 ∧ new = 2) then new else vs)) })) ∧
       (v.toNat / 32 % 4 = 0 → s.h.vec.pump.state = 0 → s.h.vec.vq = [] →
         writes 0x100 { s with h := { s.h with
           csr := { s.h.csr with sstatus := v.setWidth 7, vdirty := 0 }
           vec := { s.h.vec with v := s.h.vec.v.map fun r => ⟨0, r.bits⟩, t := Vector.replicate 4 ⟨0, false, 0⟩, fm := 0, fmArmed := false } } }) ∧
       (∃ t, exec (.csrrw d a 0x108) s = .next t ∧ Retired s t ∧ Wrote d s.c.sevsel 7 s t ∧ t.mem = s.mem ∧ t.h.vec = s.h.vec ∧
         t.c = { s.c with sevsel := t.c.sevsel, cpend := t.c.cpend } ∧
         ∀ k < 8, fldN t.c.sevsel (8 * k) 8 = if 0x12 < fldN v (8 * k) 8 then 0 else fldN v (8 * k) 8) ∧
       (if v.getLsbD 0 = true ∧ s.c.mkeyid.getLsbD (v.toNat / 64 % 64) = false then
          exec (.csrrw d a 0x10C) s = .next (s.raise ⟨0x02, s.h.word.setWidth 64⟩)
        else writes 0x10C (s.setCsr { s.h.csr with framepool := v &&& 0x0000FFFFFFFFFFC1#64 })) ∧
       (let asid : Nat := v.toNat / 2 ^ 48
        let e : Word := s.asidLo asid
        if s.c.asidtab.getLsbD 0 ∧ e.getLsbD 0 ∧ s.asidEncl asid = s.c.mencl then
          writes 0x106 (s.setCsr { s.h.csr with
            satp := BitVec.ofNat 64 (asid * 2 ^ 48 + e.toNat / 2 ^ 12 % 2 ^ 36 * 2 ^ 12 + e.toNat / 2 ^ 56) })
        else exec (.csrrw d a 0x106) s = .next (s.raise ⟨0x02, s.h.word.setWidth 64⟩))) ∧
     (s.h.level = .monitor →
       ∃ c, writes 0x300 (s.setCsr { s.h.csr with mstatus := c }) ∧ c.getLsbD 0 = v.getLsbD 0 ∧ c.getLsbD 1 = v.getLsbD 1 ∧
         c.getLsbD 4 = v.getLsbD 4 ∧ c.toNat / 4 % 4 = if v.toNat / 4 % 4 = 2 then s.h.csr.mstatus.toNat / 4 % 4 else v.toNat / 4 % 4))

/-! ## Traps and system instructions -/

/-- A synchronous trap of a hart whose handler may run is taken at the level that MDELEG chooses, and changes what R271 says and nothing
else: the saved pc, cause, value and status, the level, the pc, FM's arming, and the state of a Pump that was replaying. A trap that no
handler takes retires the hart, and its launch ends TRAPPED with the cause unless it ends otherwise already (R171, R271). -/
def Obligations.TrapEntry : Prop :=
  (∀ (s : State) (t : Trap), Handled t.code s → Entered t s.h.pc s (s.raise t)) ∧
  (∀ (s : State) (t : Trap), ¬ Handled t.code s →
     let u := s.raise t
     u.h.run = .retired ∧ u.h.endCause = some t.code ∧ u.h.level = s.h.level ∧ u.h.csr = s.h.csr ∧ u.h.p = s.h.p ∧ u.mem = s.mem ∧
       u.harts = s.harts ∧ u.c = s.c ∧
       u.hst.launches = s.hst.launches.map fun l => if l.id = s.h.launch ∧ l.endStat = none then { l with endStat := some (4, t.code) } else l)

/-- ECALL and EBREAK take their traps (R350): the pc saved is that of the instruction. ECALL at monitor level raises ILLEGAL. A call to
the monitor may change the supervisor vector that the monitor keeps for the enclave, and nothing else beside the entry. SRET and MRET
return as R272 says: pc, level and status from the saved ones, INSTRET, ArmFM, and a suspended Pump resumes; nothing else changes. SRET at
user level and MRET below monitor level raise PRIV. -/
def Obligations.TrapInstructions : Prop :=
  (∀ s : State, s.h.rlx = 0 →
     (s.h.level = .user → Handled 0x11 s → ∃ t, exec .ecall s = .next t ∧ Entered ⟨0x11, 0⟩ s.h.pc s t) ∧
     (s.h.level = .supervisor → Handled 0x12 s → ∃ t, exec .ecall s = .next t ∧ t.h.csr.instret = s.h.csr.instret ∧
       ∃ u, Entered ⟨0x12, 0⟩ s.h.pc u t ∧ u = { s with draws := u.draws, hst := { s.hst with enclaves := u.hst.enclaves } }) ∧
     (s.h.level = .monitor → Handled 0x01 s → ∃ t, exec .ecall s = .next t ∧ Entered ⟨0x01, s.h.word.setWidth 64⟩ s.h.pc s t) ∧
     (Handled 0x13 s → ∃ t, exec .ebreak s = .next t ∧ Entered ⟨0x13, 0⟩ s.h.pc s t)) ∧
  (∀ s : State, s.h.rlx = 0 →
     let pump : Pump := if s.h.vec.pump.state = 3 then { s.h.vec.pump with state := 2 } else s.h.vec.pump
     let back (t : State) (lv : Level) (pc : Word) : Prop :=
       t = { s with h := { s.h with
         level := lv
         pc := pc
         vec := { s.h.vec with pump := pump, fmArmed := decide (s.h.vec.fm ≠ 0) }
         csr := { s.h.csr with sstatus := t.h.csr.sstatus, mstatus := t.h.csr.mstatus, instret := s.h.csr.instret + 1 } } }
     (s.h.level ≠ .user → ∃ t, exec .sret s = .next t ∧
       back t (if s.h.csr.sstatus.getLsbD 2 then .supervisor else .user) s.h.csr.sepc ∧ t.h.csr.mstatus = s.h.csr.mstatus ∧
       t.h.csr.sstatus.getLsbD 0 = s.h.csr.sstatus.getLsbD 1 ∧ t.h.csr.sstatus.getLsbD 1 = true ∧
       t.h.csr.sstatus.getLsbD 2 = s.h.csr.sstatus.getLsbD 2 ∧ t.h.csr.sstatus.getLsbD 3 = false ∧ t.h.csr.sstatus.getLsbD 4 = false ∧
       t.h.csr.sstatus.toNat / 32 = s.h.csr.sstatus.toNat / 32) ∧
     (s.h.level = .monitor → ∃ t, exec .mret s = .next t ∧
       back t (if s.h.csr.mstatus.toNat / 4 % 4 = 0 then .user else if s.h.csr.mstatus.toNat / 4 % 4 = 1 then .supervisor else .monitor) s.h.csr.mepc ∧
       t.h.csr.sstatus = s.h.csr.sstatus ∧ t.h.csr.mstatus.getLsbD 0 = s.h.csr.mstatus.getLsbD 1 ∧ t.h.csr.mstatus.getLsbD 1 = true ∧
       t.h.csr.mstatus.toNat / 4 % 4 = s.h.csr.mstatus.toNat / 4 % 4 ∧ t.h.csr.mstatus.getLsbD 4 = false) ∧
     (s.h.level = .user → exec .sret s = .next (s.raise ⟨0x02, s.h.word.setWidth 64⟩)) ∧
     (s.h.level ≠ .monitor → exec .mret s = .next (s.raise ⟨0x02, s.h.word.setWidth 64⟩)))

/-- With no marked access outstanding: WAITMSG retires when the mailbox holds a message and parks otherwise (R352); POPMSG, when the checks of its 16
bytes pass and no queued vector instruction accesses them, moves the oldest message there and gives 1, or gives 0 when there is none; YIELD retires and
makes the hart's next visit a bubble (R354). HDONE of a hart with nothing outstanding retires it, at any level, its vector queue empty and its Pump
IDLE or SUSPENDED. BAR: at `.hart` it retires at once; at `.core` and `.clus` a hart that has not arrived yet parks while a participant of the group is
missing, and the last arrival retires and releases all of them; at another scope, or in a hart with a split index, it raises ILLEGAL. -/
def Obligations.WaitResults : Prop :=
  (∀ (s : State) (d a : Reg) (l : Loc), Quiet s →
     (s.myMail ≠ [] → exec .waitmsg s = .next (onward s)) ∧
     (s.myMail = [] → exec .waitmsg s = .next { s with h := { s.h with run := .parkedMbox } }) ∧
     exec .yield s = .next (onward { s with h := { s.h with nextIssue := s.c.cycle + 16, onReply := false } }) ∧
     (StorageWf s → (∃ f, s.check (s.x a) 16 16 .store = .ok ⟨l, f⟩) → (s.readLoc l 16).isSome = true →
       (s.myMail = [] → ∃ t, exec (.popmsg d a) s = .next t ∧ Retired s t ∧ Wrote d 0 (7 + s.lateBy) s t ∧ t.mem = s.mem ∧ t.hst = s.hst) ∧
       ∀ m r, s.myMail = m :: r → Free s l 16 true → ∃ t, exec (.popmsg d a) s = .next t ∧ Retired s t ∧ Wrote d 1 (7 + s.lateBy) s t ∧ Stored l 16 m.toNat s t ∧
         FullKept s t ∧ t.myMail = r ∧ ∀ core slot launch, ¬ (core = s.h.core ∧ slot = s.h.slot ∧ launch = s.h.launch) →
           t.mail core slot launch = s.mail core slot launch)) ∧
  (∀ s : State, Quiet s → Drained s 5 → (∀ j, s.h.post.get j = 0) → s.h.pstat = none →
     s.h.vec.pump.state = 0 ∨ s.h.vec.pump.state = 3 → s.h.vec.vq = [] → (∀ g ∈ s.harts, g.isHart s.h.core s.h.slot s.h.launch = false) →
       ∃ t, exec .hdone s = .next t ∧ t.h.run = .retired ∧ t.h.csr.instret = s.h.csr.instret + 1 ∧ t.h.p = s.h.p ∧ BytesKept s t ∧
         (s.h.csr.splitst.toNat / 4 % 4 = 0 → t.c = s.c)) ∧
  (∀ (s : State) (sc : BitVec 5), Quiet s → s.h.run = .ready →
     let group (g : Hart) : Prop :=
       g.launch = s.h.launch ∧ (if sc = 1 then g.core = s.h.core else g.core / 128 = s.h.core / 128) ∧ g.run ≠ .retired ∧ g.csr.splitst.toNat % 4 = 0
     let scope : Tier := if sc = 1 then .core else .clus
     let leave (g : Hart) : Hart :=
       if g.run = .parkedBar then { g with barWait := none, run := .ready, pc := g.pc + 4, csr := { g.csr with instret := g.csr.instret + 1 } }
       else { g with barWait := none, barDone := true }
     (sc = 0 → exec (.bar sc) s = .next (onward s)) ∧
     (3 ≤ sc.toNat → exec (.bar sc) s = .next (s.raise ⟨0x01, s.h.word.setWidth 64⟩)) ∧
     (sc = 1 ∨ sc = 2 → s.h.csr.splitst.toNat % 4 ≠ 0 → exec (.bar sc) s = .next (s.raise ⟨0x01, s.h.word.setWidth 64⟩)) ∧
     (sc = 1 ∨ sc = 2 → s.h.csr.splitst.toNat % 4 = 0 → s.h.barDone = false → s.vecBusy = false → s.h.launch ≠ 0 →
       ((∃ g ∈ s.harts, group g ∧ g.barWait ≠ some scope) →
         exec (.bar sc) s = .next { s with h := { s.h with barWait := some scope, run := .parkedBar } }) ∧
       ((∀ g ∈ s.harts, group g → g.barWait = some scope) →
         ∃ t, exec (.bar sc) s = .next t ∧ Retired s t ∧ t.h.barWait = none ∧ t.h.run = .ready ∧ t.h.p = s.h.p ∧ t.mem = s.mem ∧ t.c = s.c ∧
           t.harts.length = s.harts.length ∧ ∀ (i : Nat) (g : Hart), s.harts[i]? = some g → ∃ g' : Hart, t.harts[i]? = some g' ∧ (group g → g' = leave g) ∧ (¬ group g → g' = g))))

/-- LAUNCH and SQPUSH, with no marked access outstanding, when the checks of their record pass and no queued vector store writes it: LAUNCH gives the
record to the Sluice and gives 1, or gives 0 when 4 of the hart's pushes are open; SQPUSH gives it to the Siphon and gives 1, or gives 0 when 16 of the
hart's commands are open, and pushes nothing. SQPUSH raises PRIV at user level, and GUARD for a record outside the two windows. TLBINV raises PRIV at
user level, or for one ASID that the enclave does not own; otherwise it retires, every core drops the translations of the chosen pages of the chosen ASIDs
and no other, and with ALLPAGE FI is set in the entry of each chosen ASID and no other byte changes (R359). ASIDSET raises PRIV at user level, for an
ASID that the enclave does not own, and for a key that MKEYID does not hold, and ASID_WRAP when the reuse count is 255 and FI is clear; otherwise it
retires, the entry holds the next reuse count, the new root and the new key, and every hart that names the ASID has SATP reloaded. Storage is canonical, and
the entries that are written read under key id 0. -/
def Obligations.MonitorCommands : Prop :=
  (∀ (s : State) (d a : Reg) (l : Loc), Quiet s →
     let va : Word := s.x a
     let windows : Prop :=
       (0xF00000000000 ≤ va.toNat ∧ va.toNat < 0xF00000000000 + 0xA000000) ∨ 0xFF0000000000 ≤ va.toNat
     let frame (t : State) : Prop := Retired s t ∧ t.mem = s.mem ∧ t.harts = s.harts ∧ t.fab = s.fab
     (s.h.level = .user → exec (.sqpush d a) s = .next (s.raise ⟨0x02, s.h.word.setWidth 64⟩)) ∧
     (s.h.level ≠ .user → va.toNat % 64 = 0 → ¬ windows → exec (.sqpush d a) s = .next (s.raise ⟨0x07, va⟩)) ∧
     ((∃ f, s.check va 64 64 .load = .ok ⟨l, f⟩) → (s.readLoc l 64).isSome = true → Free s l 64 false →
       (s.launchesOpen < 4 → ∃ t, exec (.launch d a) s = .next t ∧ frame t ∧ Wrote d 1 (7 + s.lateBy) s t ∧ t.sip = s.sip ∧
         ∃ q, t.hst = { s.hst with inbox := s.hst.inbox ++ [q] } ∧ q.encl = s.c.mencl ∧ q.origin = .mailbox s.h.core s.h.slot s.h.launch ∧
           q.words.length = 8 ∧ ∀ i < 8, (q.words.getD i 0).toNat = bytesNat s (l.plus (8 * i)) 8) ∧
       (4 ≤ s.launchesOpen → ∃ t, exec (.launch d a) s = .next t ∧ frame t ∧ Wrote d 0 (7 + s.lateBy) s t ∧ t.hst = s.hst ∧ t.sip = s.sip) ∧
       (s.h.level ≠ .user → windows →
         (s.sqPending < 16 → ∃ t, exec (.sqpush d a) s = .next t ∧ frame t ∧ Wrote d 1 (7 + s.lateBy) s t ∧ t.hst = s.hst ∧
           ∃ q, t.sip = { s.sip with sq := s.sip.sq ++ [q], nextSq := s.sip.nextSq + 1 } ∧ q.encl = s.c.mencl ∧ q.core = s.h.core ∧ q.slot = s.h.slot ∧
             q.launch = s.h.launch ∧ q.asid.toNat = s.h.csr.satp.toNat / 2 ^ 48 ∧ q.started = false ∧
             q.rec_.length = 64 ∧ ∀ i < 64, q.rec_.getD i 0 = byteAt s (l.plus i)) ∧
         (16 ≤ s.sqPending → ∃ t, exec (.sqpush d a) s = .next t ∧ frame t ∧ Wrote d 0 (7 + s.lateBy) s t ∧ t.hst = s.hst ∧ t.sip = s.sip)))) ∧
  (∀ (s : State) (r a : Reg), s.h.rlx = 0 → StorageWf s →
     let asid : Nat := (s.x r).toNat % 2 ^ 16
     let e : Word := s.asidLo asid
     let owned : Prop := s.c.asidtab.getLsbD 0 = true ∧ e.getLsbD 0 = true ∧ s.asidEncl asid = s.c.mencl
     let entry (n : Nat) : Loc := .hbm (s.c.asidtab.toNat / 2 ^ 20 % 2 ^ 28 * 2 ^ 20 + 16 * n) 0
     let allAsid : Bool := (s.x r).getLsbD 16
     let allPage : Bool := (s.x r).getLsbD 17
     let chosen (n : Nat) : Prop := if allAsid = true then s.c.asidtab.getLsbD 0 = true ∧ s.asidEncl n = s.c.mencl else n = asid
     let hits (x : TlbEntry) : Prop := chosen x.asid.toNat ∧ (allPage = true ∨ (x.va ≤ (s.x a).toNat ∧ (s.x a).toNat < x.va + x.size))
     let key : Nat := (s.x a).toNat / 2 ^ 48 % 64
     (s.h.level = .user → exec (.tlbinv r a) s = .next (s.raise ⟨0x02, s.h.word.setWidth 64⟩) ∧
       exec (.asidset r a) s = .next (s.raise ⟨0x02, s.h.word.setWidth 64⟩)) ∧
     (s.h.level ≠ .user → ¬ owned → allAsid = false → exec (.tlbinv r a) s = .next (s.raise ⟨0x02, s.h.word.setWidth 64⟩)) ∧
     (s.h.level ≠ .user → ¬ owned ∨ s.c.mkeyid.getLsbD key = false → exec (.asidset r a) s = .next (s.raise ⟨0x02, s.h.word.setWidth 64⟩)) ∧
     (s.h.level ≠ .user → allAsid = true ∨ owned →
       ∃ t, exec (.tlbinv r a) s = .next t ∧ Retired s t ∧ t.h.p = s.h.p ∧ (allPage = false → t.mem = s.mem) ∧
         (allPage = true → FullKept s t ∧
           (∀ n < 65536, chosen n → (s.readLoc (entry n) 8).isSome = true → ∀ k < 8,
             byteAt t ((entry n).plus k) = BitVec.ofNat 8 (((s.asidLo n).toNat ||| 2) / 2 ^ (8 * k))) ∧
           ∀ l, (∀ n < 65536, chosen n → ∀ k < 8, sameByte ((entry n).plus k) l = false) → byteAt t l = byteAt s l) ∧
         (∀ x, x ∈ t.c.tlb ↔ x ∈ s.c.tlb ∧ ¬ hits x) ∧ t.cores.length = s.cores.length ∧
         ∀ (i : Nat) (c : Core), s.cores[i]? = some c → ∃ c' : Core, t.cores[i]? = some c' ∧ ∀ x, x ∈ c'.tlb ↔ x ∈ c.tlb ∧ ¬ hits x) ∧
     (s.h.level ≠ .user → owned → s.c.mkeyid.getLsbD key = true → (s.readLoc (entry asid) 8).isSome = true →
       (e.toNat / 2 ^ 56 = 255 → e.getLsbD 1 = false → exec (.asidset r a) s = .next (s.raise ⟨0x19, BitVec.ofNat 64 asid⟩)) ∧
       (e.toNat / 2 ^ 56 ≠ 255 ∨ e.getLsbD 1 = true →
         let satp : Nat := asid * 2 ^ 48 + (s.x a).toNat / 2 ^ 12 % 2 ^ 36 * 2 ^ 12 + (e.toNat / 2 ^ 56 + 1) % 256
         ∃ t, exec (.asidset r a) s = .next t ∧ Retired s t ∧ t.h.p = s.h.p ∧ FullKept s t ∧ (∃ n, Stored (entry asid) 8 n s t ∧ n < 2 ^ 64 ∧
           n % 2 = 1 ∧ n / 2 ^ 12 % 2 ^ 36 = (s.x a).toNat / 2 ^ 12 % 2 ^ 36 ∧ n / 2 ^ 48 % 64 = key ∧ n / 2 ^ 56 = (e.toNat / 2 ^ 56 + 1) % 256 ∧
           (n / 2 % 2 = 1 ↔ e.getLsbD 1 = true ∧ e.toNat / 2 ^ 56 ≠ 255)) ∧
           (s.h.launch ≠ 0 → s.h.csr.satp.toNat / 2 ^ 48 = asid → t.h.csr.satp.toNat = satp) ∧ t.harts.length = s.harts.length ∧
           ∀ (i : Nat) (g : Hart), s.harts[i]? = some g → ∃ g' : Hart, t.harts[i]? = some g' ∧
             (g.csr.satp.toNat / 2 ^ 48 = asid → g'.csr.satp.toNat = satp) ∧ (g.csr.satp.toNat / 2 ^ 48 ≠ asid → g' = g))))

/-! ## Scalar floating point -/

/-- RoundTo of a value that the format holds gives its code and raises no flag, in every floating format, rounding mode and stochastic
draw (R294, R301): reading a code and rounding back is the identity but for NaNs. The rounded scalar operations of R339 round once under
FRM with index 0, write their result at t + 7, or at t + 39 (F64) and t + 23 for FDIV and FSQRT, accrue their flags, and count in SRSEED
under SR; no other state changes. -/
def Obligations.FloatArithmetic : Prop :=
  (∀ (t b i : Nat) (r : Rnd), tagFloat t = true → b < 2 ^ tagWidth t → fDecode t b ≠ .nan → fRound t r i (fDecode t b) = (b, 0)) ∧
  (∀ (s : State) (d a b : Reg) (f : BitVec 2),
     let t : Nat := if f = 0 then tF32 else if f = 1 then tF64 else if f = 2 then tF16 else tBF16
     let w : Nat := if f = 0 then 32 else if f = 1 then 64 else 16
     let r : Rnd := ⟨s.h.csr.frm.toNat, s.h.csr.srseed⟩
     let v (x : Reg) : Nat := (s.x x).toNat % 2 ^ w
     let slow : Nat := if f = 1 then 39 else 23
     Rounds (.fadd d f a b) d (fAdd t r 0 (v a) (v b)) 7 s ∧
     Rounds (.fsub d f a b) d (fSub t r 0 (v a) (v b)) 7 s ∧
     Rounds (.fmul d f a b) d (fMul t r 0 (v a) (v b)) 7 s ∧
     Rounds (.fdiv d f a b) d (fDiv t r 0 (v a) (v b)) slow s ∧
     Rounds (.fsqrt d f a) d (fSqrt t r 0 (v a)) slow s ∧
     Rounds (.fmac d f a b) d (fFma t r 0 false (v a) (v b) (v d)) 7 s)

/-- FMIN and FMAX give one of their operands, or the canonical NaN for two NaNs; FEQ, FLT and FLE give 1 or 0, and NV for a NaN beside FLT
and FLE alone; FCLASS gives one class bit; FSGNJ, FSGNJN and FSGNJX move the sign bit (R294, R339, R341). The scalar conversions of R339
and R340: an integer of the selected type rounded to the format, the value rounded to the selected integer type and clamped (R292), and
another format's value rounded; a reserved selector, or FCVTFF from the format itself, raises ILLEGAL. -/
def Obligations.FloatConversions : Prop :=
  (∀ (s : State) (d a b : Reg) (f : BitVec 2),
     let t : Nat := if f = 0 then tF32 else if f = 1 then tF64 else if f = 2 then tF16 else tBF16
     let w : Nat := if f = 0 then 32 else if f = 1 then 64 else 16
     let v (x : Reg) : Nat := (s.x x).toNat % 2 ^ w
     let x := fDecode t (v a)
     let y := fDecode t (v b)
     let signals : Flg := fSnanFlag t (v a) ||| fSnanFlag t (v b)
     let sign (neg : Bool) : Word := BitVec.ofNat 64 (v a % 2 ^ (w - 1) + if neg then 2 ^ (w - 1) else 0)
     let neg (x : Reg) : Bool := (s.x x).getLsbD (w - 1)
     (∃ z, Flags (.fmin d f a b) d (BitVec.ofNat 64 z) signals s ∧ (x = .nan → y = .nan → z = (fmtOf t).nanBits) ∧
       (x = .nan → y ≠ .nan → z = v b) ∧ (x ≠ .nan → y = .nan → z = v a) ∧
       (x ≠ .nan → y ≠ .nan → (x.cmp y = -1 → z = v a) ∧ (x.cmp y = 1 → z = v b) ∧ (x.cmp y = 0 → z = if neg b then v b else v a))) ∧
     (∃ z, Flags (.fmax d f a b) d (BitVec.ofNat 64 z) signals s ∧ (x = .nan → y = .nan → z = (fmtOf t).nanBits) ∧
       (x = .nan → y ≠ .nan → z = v b) ∧ (x ≠ .nan → y = .nan → z = v a) ∧
       (x ≠ .nan → y ≠ .nan → (x.cmp y = -1 → z = v b) ∧ (x.cmp y = 1 → z = v a) ∧ (x.cmp y = 0 → z = if neg a then v b else v a))) ∧
     Flags (.feq d f a b) d (if x ≠ .nan ∧ y ≠ .nan ∧ x.cmp y = 0 then 1 else 0) 0 s ∧
     Flags (.flt d f a b) d (if x ≠ .nan ∧ y ≠ .nan ∧ x.cmp y = -1 then 1 else 0) (if x = .nan ∨ y = .nan then 16 else 0) s ∧
     Flags (.fle d f a b) d (if x ≠ .nan ∧ y ≠ .nan ∧ x.cmp y ≠ 1 then 1 else 0) (if x = .nan ∨ y = .nan then 16 else 0) s ∧
     (∃ k ≤ 9, Computes (.fclass d f a) d (BitVec.ofNat 64 (2 ^ k)) 7 s ∧ (k = 0 ↔ x = .inf true) ∧ (k = 7 ↔ x = .inf false) ∧
       (k = 8 ∨ k = 9 ↔ x = .nan) ∧ (k = 8 ↔ fSignalling t (v a) = true) ∧ (k = 3 ↔ v a = 2 ^ (w - 1)) ∧ (k = 4 ↔ v a = 0) ∧
       (k = 1 ∨ k = 2 → neg a = true) ∧ (k = 5 ∨ k = 6 → neg a = false)) ∧
     Computes (.fsgnj d f a b) d (sign (neg b)) 7 s ∧
     Computes (.fsgnjn d f a b) d (sign (!neg b)) 7 s ∧
     Computes (.fsgnjx d f a b) d (sign (neg a != neg b)) 7 s) ∧
  (∀ (s : State) (d a sel : Reg) (f : BitVec 2),
     let tag (n : Nat) : Nat := if n = 0 then tF32 else if n = 1 then tF64 else if n = 2 then tF16 else tBF16
     let width (n : Nat) : Nat := if n = 0 then 32 else if n = 1 then 64 else 16
     let r : Rnd := ⟨s.h.csr.frm.toNat, s.h.csr.srseed⟩
     let int : Int := if sel = 0 then (s.x a).toInt else if sel = 1 then (s.x a).toNat else if sel = 2 then ((s.x a).setWidth 32).toInt
       else ((s.x a).setWidth 32).toNat
     let x : FVal := fDecode (tag f.toNat) ((s.x a).toNat % 2 ^ width f.toNat)
     let nv : Flg := fSnanFlag (tag f.toNat) ((s.x a).toNat % 2 ^ width f.toNat)
     let illegal (j : Instr) : Prop := exec j s = .next (s.raise ⟨0x01, s.h.word.setWidth 64⟩)
     (4 ≤ sel.toNat → illegal (.fcvtif d f a sel) ∧ illegal (.fcvtfi d f a sel) ∧ illegal (.fcvtff d f a sel)) ∧
     (sel.toNat = f.toNat → illegal (.fcvtff d f a sel)) ∧
     (sel.toNat < 4 → Rounds (.fcvtif d f a sel) d (fRound (tag f.toNat) r 0 (.ofInt int)) 7 s) ∧
     (sel.toNat < 4 → sel.toNat ≠ f.toNat →
       Rounds (.fcvtff d f a sel) d (convTag (tag sel.toNat) (tag f.toNat) r 0 ((s.x a).toNat % 2 ^ width sel.toNat)) 7 s) ∧
     (sel = 0 → ∃ z, Sr (.fcvtfi d f a sel) d (BitVec.ofNat 64 z.1) (z.2 ||| nv) s ∧ z = fToInt true 64 r 0 x) ∧
     (sel = 1 → ∃ z, Sr (.fcvtfi d f a sel) d (BitVec.ofNat 64 z.1) (z.2 ||| nv) s ∧ z = fToInt false 64 r 0 x) ∧
     (sel = 2 → ∃ z, Sr (.fcvtfi d f a sel) d ((BitVec.ofNat 32 z.1).signExtend 64) (z.2 ||| nv) s ∧ z = fToInt true 32 r 0 x) ∧
     (sel = 3 → ∃ z, Sr (.fcvtfi d f a sel) d (BitVec.ofNat 64 z.1) (z.2 ||| nv) s ∧ z = fToInt false 32 r 0 x))

/-! ## Vector configuration, splits and the Pump -/

/-- SETVLI and SETVL, with no vector instruction of the hart in progress, set VLENB, VTYPE, VL, the declared count and VSTART, with VLMAX for RA = p0, give VL,
and discard the vector registers when the register length changes; with a Pump SUSPENDED such a change raises ILLEGAL. VFMX gives the VLMAX that they would
find, or 0 for a reserved tag. VTAG gives every register of the group a tag and keeps its bytes; NONE makes the group dead. -/
def Obligations.StripConfiguration : Prop :=
  (∀ (s : State) (d a b t : Reg) (g : BitVec 2), s.h.vthread = true → s.h.csr.sstatus.toNat / 32 ≠ 0 →
     let count : Nat := 32 / 2 ^ s.h.csr.nreg.toNat
     let len : Nat := min (2 ^ (s.h.csr.vlcap.toNat + 6)) (262144 / (s.c.split * count))
     let most (vt : Nat) : Nat := len * 8 * 2 ^ (vt / 32) / (if tagWidth (vt % 32) = 0 then 64 else tagWidth (vt % 32))
     let sets (j : Instr) (vt : BitVec 7) : Prop :=
       let vl : Nat := if a = 0 then most vt.toNat else min (s.x a).toNat (most vt.toNat)
       ∃ u, exec j s = .next u ∧ Retired s u ∧ Wrote d (BitVec.ofNat 64 vl) 7 s u ∧ u.h.csr.vl = BitVec.ofNat 22 vl ∧ u.h.csr.vtype = vt ∧
         u.h.csr.vlenb = BitVec.ofNat 64 len ∧ u.h.csr.declared = s.h.csr.nreg ∧ u.h.csr.vstart = 0 ∧ u.mem = s.mem ∧
         (len ≠ s.vlenb → (∀ n, (u.vreg n).tag = 0) ∧ u.h.csr.vdirty = 0) ∧
         (len = s.vlenb → (∀ n, n < count → u.vreg n = s.vreg n) ∧ (∀ n, count ≤ n → (u.vreg n).tag = 0))
     (s.vecBusy = false → (len = s.vlenb ∨ s.h.vec.pump.state ≠ 3) →
       sets (.setvli d a t g) (g ++ t) ∧ sets (.setvl d a b) ((s.x b).setWidth 7)) ∧
     (s.vecBusy = false → len ≠ s.vlenb → s.h.vec.pump.state = 3 →
       exec (.setvli d a t g) s = .next (s.raise ⟨0x01, s.h.word.setWidth 64⟩) ∧
       exec (.setvl d a b) s = .next (s.raise ⟨0x01, s.h.word.setWidth 64⟩)) ∧
     Computes (.vfmx d b) d (if 0x14 ≤ (s.x b).toNat % 32 then 0 else BitVec.ofNat 64 (most ((s.x b).toNat % 128))) 7 s) ∧
  (∀ (s : State) (d t : Reg), VecReady s → t.toNat < 0x14 → Unbound s d.toNat →
     let w : Nat := if t = 0 then 64 else tagWidth t.toNat
     let g : Nat := s.group w
     Fits s d.toNat w →
       ∃ u, exec (.vtag d t) s = .next u ∧ Retired s u ∧ u.h.csr.vstart = 0 ∧ u.h.p = s.h.p ∧ u.mem = s.mem ∧ u.h.csr.fflags = s.h.csr.fflags ∧
         (∀ n, n < d.toNat ∨ d.toNat + g ≤ n → u.vreg n = s.vreg n ∧ u.h.csr.vdirty.getLsbD n = s.h.csr.vdirty.getLsbD n) ∧
         (∀ n, d.toNat ≤ n → n < d.toNat + g → (u.vreg n).tag.toNat = t.toNat ∧ u.h.csr.vdirty.getLsbD n = decide (t ≠ 0)) ∧
         (t ≠ 0 → ∀ i, w * (i + 1) ≤ 8 * s.vlenb * g → elemAt u d.toNat w i = elemAt s d.toNat w i))

/-- A vector instruction of a scalar hart raises ILLEGAL, and with VS Off it raises VFIRST (R361, R277); neither has an effect. The
instructions are named by `vectorWord`. -/
def Obligations.VectorGate : Prop :=
  ∀ (s : State) (i : Instr), vectorWord i = true →
    (s.h.vthread = false → exec i s = .next (s.raise ⟨0x01, s.h.word.setWidth 64⟩)) ∧
    (i.wellFormed = true → s.h.vthread = true → s.h.csr.sstatus.toNat / 32 = 0 → exec i s = .next (s.raise ⟨0x0E, s.h.word.setWidth 64⟩))

/-- LSPLIT, with no marked access outstanding and no vector instruction of the hart in progress. Where the hart is a vector thread outside a split, the only
one of its launch slot, n − 1 slots of the allotment are free, and the vector threads fit the split of the core or no other launch is seated there, it gives
n, and the lowest free slots hold new harts with split indices 1 to n − 1, each ready at the entry address with p1 to p13 and the route registers of the
splitter, p14 at the top of its own area, p15 zero and VS Initial; the splitter is index 0 with its vector state discarded. Elsewhere it gives 0 and changes
nothing else. A misaligned entry raises MISALIGN, a split code other than 1 and 2 ILLEGAL. LMERGE outside a split raises ILLEGAL. With nothing of the hart
outstanding, a participant other than index 0 retires, and a hart parked at LMERGE as index 0, whose last partner it is, goes on; index 0 parks while another
participant has not retired, and otherwise goes on with its vector state discarded and no split, and T of a core that its launch has alone becomes the
launch's remaining vector threads, rounded up to 1, 2 or 4. -/
def Obligations.SplitResults : Prop :=
  (∀ (s : State) (d a k : Reg) (l : Launch), s.h.rlx = 0 → s.h.marked = [] → s.remoteMarked = 0 → s.vecBusy = false → s.h.vec.pump.state ≠ 3 →
     s.hst.launches.find? (·.id == s.h.launch) = some l → s.h.core = s.c.id → l.firstSlot.toNat + l.allot ≤ 8 → s.h.launch ≠ 0 →
     let n : Nat := 2 ^ k.toNat
     let own : Nat := (pktWord l.words 6).toNat / 2 ^ 33 % 2 ^ 7 * 4096
     let slots : List (BitVec 3) := ((List.range l.allot).map fun i => l.firstSlot + BitVec.ofNat 3 i).filter fun q =>
       !(s.allHarts.any fun h => h.core == s.h.core && h.slot == q && h.launch == s.h.launch && h.run != .retired)
     let threads (mine : Bool) : Nat :=
       (s.allHarts.filter fun h => h.core == s.h.core && h.seated && h.vthread && h.run != .retired && (h.launch == s.h.launch) == mine).length
     let alone : Bool := !(s.allHarts.any fun h => h.core == s.h.core && h.seated && h.launch != s.h.launch)
     let allowed : Prop := s.h.vthread = true ∧ s.h.csr.splitst.toNat / 4 % 4 = 0 ∧ threads true = 1 ∧ n ≤ slots.length + 1 ∧
       (alone = true ∨ n + threads false ≤ s.c.split)
     let st : Nat := (if n = 2 then 4 else 8) + 16 * s.h.slot.toNat
     (k ≠ 1 → k ≠ 2 → exec (.lsplit d a k) s = .next (s.raise ⟨0x01, s.h.word.setWidth 64⟩)) ∧
     (k = 1 ∨ k = 2 →
       ((s.x a).toNat % 4 ≠ 0 → exec (.lsplit d a k) s = .next (s.raise ⟨0x03, s.x a⟩)) ∧
       ((s.x a).toNat % 4 = 0 → ¬ allowed → Computes (.lsplit d a k) d 0 7 s) ∧
       ((s.x a).toNat % 4 = 0 → allowed →
         ∃ t, exec (.lsplit d a k) s = .next t ∧ Retired s t ∧ Wrote d (BitVec.ofNat 64 n) 7 s t ∧ t.mem = s.mem ∧
           t.h.csr.splitst.toNat = st ∧ (∀ r, (t.vreg r).tag = 0) ∧ t.h.csr.vl = 0 ∧ t.h.csr.vdirty = 0 ∧
           (alone = true → t.c.split = n) ∧ (alone = false → t.c.split = s.c.split) ∧
           ∀ (i : Nat) (q : BitVec 3), i + 1 < n → slots[i]? = some q → ∃ h ∈ t.harts, h.core = s.h.core ∧ h.slot = q ∧ h.launch = s.h.launch ∧
             h.pc = s.x a ∧ h.run = .ready ∧ h.level = .user ∧ h.vthread = true ∧ h.csr.splitst.toNat = i + 1 + st ∧ h.csr.sstatus.toNat / 32 = 1 ∧
             h.rt = s.h.rt ∧ ∀ j : Fin 16, h.p.get j = if j.val = 14 then BitVec.ofNat 64 (0xFF0000000000 + own) else if j.val = 15 then 0 else s.h.p.get j))) ∧
  (∀ s : State, Quiet s → s.h.vec.vq = [] → s.h.vec.pump.state ≠ 2 → Drained s 5 → s.h.launch ≠ 0 →
     (∀ g ∈ s.harts, g.isHart s.h.core s.h.slot s.h.launch = false) →
     let idx : Nat := s.h.csr.splitst.toNat % 4
     let partner (g : Hart) : Prop := g.core = s.h.core ∧ g.launch = s.h.launch ∧ g.csr.splitst.toNat / 4 % 4 ≠ 0 ∧
       g.csr.splitst.toNat / 16 % 8 = s.h.csr.splitst.toNat / 16 % 8
     let done : Prop := ∀ g ∈ s.harts, g.slot ≠ s.h.slot → partner g → g.run = .retired
     (s.h.csr.splitst.toNat / 4 % 4 = 0 → exec .lmerge s = .next (s.raise ⟨0x01, s.h.word.setWidth 64⟩)) ∧
     (s.h.csr.splitst.toNat / 4 % 4 ≠ 0 →
       (idx ≠ 0 → (∀ j, s.h.post.get j = 0) → ∃ t, exec .lmerge s = .next t ∧ t.h.run = .retired ∧ (∀ r, (t.vreg r).tag = 0) ∧ BytesKept s t ∧
         ∀ g, s.harts = [g] → g.mergeWait = true → partner g → g.barWait = none → g.slot ≠ s.h.slot →
           ∃ g', t.harts = [g'] ∧ g'.run = .ready ∧ g'.pc = g.pc + 4 ∧ g'.csr.splitst = 0 ∧ g'.mergeWait = false) ∧
       (idx = 0 → ¬ done → exec .lmerge s = .next { s with h := { s.h with
         run := .parkedBar
         mergeWait := true
         vec := { s.h.vec with pump := if s.h.vec.pump.state = 3 then ⟨[], 0, 0, 0, 0, 0, 0, 0, 0, false⟩ else s.h.vec.pump } } }) ∧
       (idx = 0 → done → ∃ t, exec .lmerge s = .next t ∧ Retired s t ∧ t.h.csr.splitst = 0 ∧ t.h.csr.vl = 0 ∧ (∀ r, (t.vreg r).tag = 0) ∧
         t.mem = s.mem ∧ t.harts = s.harts ∧
         (s.h.core = s.c.id → (∀ g ∈ s.harts, g.core = s.h.core → g.seated = true → g.launch = s.h.launch) →
           let r : Nat := (s.allHarts.filter fun h => h.core == s.h.core && h.seated && h.vthread && h.run != .retired && h.launch == s.h.launch).length
           t.c.split = if r ≤ 1 then 1 else if r ≤ 2 then 2 else 4))))

/-- PUMP, in a vector thread with vector state and no vector instruction in progress, puts the Pump into capture with its fields; a count above 65,535, or a
Pump SUSPENDED, raises ILLEGAL. PUMPSTOP makes a replay end with the repetition in progress, drops a suspended one with VSTART 0, and does nothing for a Pump
IDLE. While the Pump captures and no marked access is outstanding, the word that the hart issues is captured and counts as retired when `mayCapture` allows
it: after the last one the replay starts, or, for a count of 0, the Pump is IDLE; another word raises ILLEGAL and leaves the Pump IDLE. -/
def Obligations.PumpResults : Prop :=
  ∀ (s : State) (n : BitVec 4) (m : BitVec 3) (a : Reg) (st w : BitVec 2), s.h.vthread = true → s.h.csr.sstatus.toNat / 32 ≠ 0 →
    let p : Pump := s.h.vec.pump
    let idle : Pump := ⟨[], 0, 0, 0, 0, 0, 0, 0, 0, false⟩
    let with_ (q : Pump) (vstart : BitVec 22) : State :=
      onward { s with h := { s.h with vec := { s.h.vec with pump := q }, csr := { s.h.csr with vstart := vstart } } }
    (s.vecBusy = false → p.state ≠ 3 → (s.x a).toNat ≤ 65535 → exec (.pump n m a st w) s =
      .next (with_ ⟨[], (s.x a).setWidth 16, n, 0, m, st, w, 1, 0, false⟩ s.h.csr.vstart)) ∧
    (s.vecBusy = false → p.state = 3 ∨ 65535 < (s.x a).toNat →
      exec (.pump n m a st w) s = .next (s.raise ⟨0x01, s.h.word.setWidth 64⟩)) ∧
    (p.state = 2 → exec .pumpstop s = .next (with_ { p with rem := 1, stopping := true } s.h.csr.vstart)) ∧
    (p.state = 3 → exec .pumpstop s = .next (with_ idle 0)) ∧
    (p.state = 0 → exec .pumpstop s = .next (onward s)) ∧
    ∀ x : IWord, p.state = 1 → Unmarked s → s.h.vec.fmArmed = false →
      (s.mayCapture x = true →
        ∃ u, s.issueWord x = .over u ∧ Retired s u ∧ u.mem = s.mem ∧ u.h.p = s.h.p ∧ u.h.vec = { s.h.vec with pump := u.h.vec.pump } ∧
          (p.words.length < p.len.toNat → u.h.vec.pump = { p with words := u.h.vec.pump.words } ∧
            u.h.vec.pump.words.map VqEntry.word = p.words.map VqEntry.word ++ [x]) ∧
          (p.words.length = p.len.toNat → p.rem ≠ 0 → u.h.vec.pump = { p with words := u.h.vec.pump.words, state := 2 } ∧
            u.h.vec.pump.words.map VqEntry.word = p.words.map VqEntry.word ++ [x]) ∧
          (p.words.length = p.len.toNat → p.rem = 0 → u.h.vec.pump = idle)) ∧
      (s.mayCapture x = false → ∃ v : State, s.issueWord x = .over (v.raise ⟨0x01, x.setWidth 64⟩) ∧ v.h.vec.pump = idle ∧ v.h.pc = s.h.pc ∧ v.h.p = s.h.p ∧
        v.mem = s.mem)

/-! ## Element-wise vector instructions -/

/-- Every instruction of R376 but the shifts, in every operand kind it takes, writes its element in the promoted tag of its operands for
every active element, and changes nothing else but the flags, the count of stochastic roundings, and the strip's own registers. VSLL, VSRL
and VSRA shift the elements of an integer tag by a count taken modulo the width, from an integer or NONE group, a scalar, or an immediate
of 0 to 31 (R376). -/
def Obligations.VectorArithmetic : Prop :=
  (∀ (s : State) (i : Instr) (o : VecOp) (ta tb td p : Nat) (vb : Nat → Nat), vecOp i = some o → VecReady s →
     let q : Nat := s.h.csr.modq.toNat % 2 ^ 62
     let wa : Nat := readWidth ta p
     let wd : Nat := readWidth td p
     Operand s o.a.toNat ta wa → (o.unary = false → SecondIs s o.k ta p o.b tb vb) → (o.third = true → o.k ≠ 2 ∧ Operand s o.d.toNat td wd) →
     promoteAll s.vtag ([ta] ++ (if o.unary = false ∧ o.k = 0 then [tb] else []) ++ (if o.third then [td] else []) ++
       (if o.unary = false ∧ o.k ≠ 0 then [tb] else [])) = some p →
     o.accepts s p → Destination s o.d.toNat (tagWidth p) (o.m = 1) → Clear s o.d.toNat (tagWidth p) o.a.toNat wa →
     (o.unary = false → o.k = 0 → Clear s o.d.toNat (tagWidth p) o.b.toNat (readWidth tb p)) →
       VecComputes i o.d p (o.m = 1) (o.rounds && tagFloat p)
         (fun n => o.elem s p n (promoteElem q ta p (elemAt s o.a.toNat wa n)) (promoteElem q tb p (vb n))
           (promoteElem q td p (elemAt s o.d.toNat wd n))) s) ∧
  (∀ (s : State) (i : Instr) (d a b : Reg) (k : BitVec 3) (m : BitVec 1) (f : Nat → Nat → Nat → Nat) (ta tb : Nat),
     vecShift i = some (d, k, a, b, m, f) → VecReady s →
     let p : Nat := if ta = 0 then s.vtag else ta
     let w : Nat := tagWidth p
     let count (n : Nat) : Nat := (if k = 0 then (if tb = 0 then 0 else elemAt s b.toNat (readWidth tb p) n) else if k = 1 then (s.x b).toNat else b.toNat) % w
     tagInt p = true → k.toNat ≤ 2 → Operand s a.toNat ta w → (k = 0 → (tb = 0 ∨ tagInt tb = true) ∧ Operand s b.toNat tb (readWidth tb p)) →
     Destination s d.toNat w (m = 1) → Clear s d.toNat w a.toNat w → (k = 0 → Clear s d.toNat w b.toNat (readWidth tb p)) →
       VecComputes i d p (m = 1) false (fun n => (f w (if ta = 0 then 0 else elemAt s a.toNat w n) (count n), 0)) s)

/-- The compares write a mask: a relation of the elements in the promoted tag, where a NaN makes NE alone true, and raises NV unless it is
quiet beside EQ or NE; residues compare for EQ and NE only (R377). -/
def Obligations.VectorCompares : Prop :=
  ∀ (s : State) (i : Instr) (d a b : Reg) (k : BitVec 3) (m : BitVec 1) (rel : Int → Bool) (eqLike : Bool) (onNan ta tb p : Nat) (vb : Nat → Nat),
    vecCompare i = some (d, k, a, b, m, rel, eqLike, onNan) → VecReady s →
    let q : Nat := s.h.csr.modq.toNat % 2 ^ 62
    let wa : Nat := readWidth ta p
    let bit (c : Bool) : Nat := if c then 1 else 0
    let order (x y : Int) : Int := if x < y then -1 else if x = y then 0 else 1
    Operand s a.toNat ta wa → SecondIs s k ta p b tb vb → promoteAll s.vtag [ta, tb] = some p →
    (tagInt p = true ∨ tagFloat p = true ∨ (p = tZ64 ∧ eqLike = true ∧ q % 2 = 1 ∧ 3 ≤ q)) → Destination s d.toNat 1 (m = 1) →
    Clear s d.toNat 1 a.toNat wa → (k = 0 → Clear s d.toNat 1 b.toNat (readWidth tb p)) →
      VecComputes i d tMask (m = 1) false (fun n =>
        let x : Nat := promoteElem q ta p (elemAt s a.toNat wa n)
        let y : Nat := promoteElem q tb p (vb n)
        if tagInt p then (bit (rel (order (intOf p x) (intOf p y))), 0)
        else if p = tZ64 then (bit (rel (order (x % q : Nat) (y % q : Nat))), 0)
        else if fDecode p x = .nan ∨ fDecode p y = .nan then (onNan, if eqLike then fSnanFlag p x ||| fSnanFlag p y else 16)
        else (bit (rel ((fDecode p x).cmp (fDecode p y))), 0)) s

/-! ## Masks, moves, permutes, conversion and quantisation -/

/-- MAND, MOR, MXOR and MANDN combine mask registers bit by bit; MPOPC and MFIRST give the number of active set bits and the lowest one,
or -1; MIOTA gives each active element the number of active set bits below it (R378). -/
def Obligations.MaskResults : Prop :=
  ∀ (s : State) (d a b : Reg) (m : BitVec 1), VecReady s →
    let mask (n : Reg) : Prop := Unbound s n.toNat ∧ Fits s n.toNat 1 ∧ ((s.vreg n.toNat).tag = 0 ∨ (s.vreg n.toNat).tag.toNat = tMask)
    let bit (n : Reg) (i : Nat) : Bool := (s.vreg n.toNat).tag != 0 && (s.vreg n.toNat).bits.testBit i
    let combines (j : Instr) (f : Bool → Bool → Bool) : Prop :=
      VecComputes j d tMask (m = 1) false (fun i => (if f (bit a i) (bit b i) then 1 else 0, 0)) s
    let set : List Nat := (List.range s.vl).filter fun i => Active s (m = 1) i && bit a i
    mask a →
      (mask b → Destination s d.toNat 1 (m = 1) →
        combines (.mand d a b m) (fun x y => x && y) ∧ combines (.mor d a b m) (fun x y => x || y) ∧
        combines (.mxor d a b m) (fun x y => x != y) ∧ combines (.mandn d a b m) (fun x y => x && !y)) ∧
      (s.vstart = 0 →
        VecScalar (.mpopc d a m) d (BitVec.ofNat 64 set.length) s ∧
        VecScalar (.mfirst d a m) d (if set.isEmpty then BitVec.allOnes 64 else BitVec.ofNat 64 (set.headD 0)) s ∧
        (tagInt s.vtag = true → Destination s d.toNat (tagWidth s.vtag) (m = 1) → Apart d.toNat (s.group (tagWidth s.vtag)) a.toNat 1 →
          VecComputes (.miota d a m) d s.vtag (m = 1) false (fun i => ((set.filter (fun j => decide (j < i))).length, 0)) s))

/-- VMV copies a group with its tag, or fills one with a scalar or an immediate read in VTYPE.TAG; VMVX gives one element as a scalar and
VMVS writes element 0; VID numbers the elements; VSEL chooses between two operands by v0 (R379). The slides and VPERM gather elements of a
group by position, with zero from outside the strip; VCOMPRESS packs the active elements from element 0 up. None of them starts inside the
strip, and the destination meets no source (R379, R366). -/
def Obligations.MoveResults : Prop :=
  (∀ (s : State) (d a b : Reg) (m : BitVec 1), VecReady s →
     let q : Nat := s.h.csr.modq.toNat % 2 ^ 62
     let residues (t : Nat) : Prop := t = tZ64 → q % 2 = 1 ∧ 3 ≤ q
     (∀ ta : Nat, let t : Nat := if ta = 0 then s.vtag else ta
       let w : Nat := tagWidth t
       w ≠ 0 → t ≠ tSF4 → Operand s a.toNat ta w → Destination s d.toNat w (m = 1) → Clear s d.toNat w a.toNat w →
         VecComputes (.vmv d 0 a 0 m) d t (m = 1) false (fun i => (if ta = 0 then 0 else elemAt s a.toNat w i, 0)) s) ∧
     (Pair s a.toNat → Unbound s d.toNat → Fits s d.toNat 4 → d.toNat + 2 * s.group 4 ≤ s.declared → (m = 1 → s.vl ≤ 8 * s.vlenb ∧ d ≠ 0) →
       (d = a ∨ Apart d.toNat (2 * s.group 4) a.toNat (2 * s.group 4)) → (∃ i, Active s (m = 1) i = true) →
         ∃ u, exec (.vmv d 0 a 0 m) s = .next u ∧ PairWrote s u d.toNat (m = 1) (elemAt s a.toNat 4) (scaleAt s a.toNat) ∧ VecFrame s u ∧
           u.h.csr.fflags = s.h.csr.fflags) ∧
     (let t : Nat := s.vtag
       let w : Nat := tagWidth t
       w ≠ 0 → t ≠ tSF4 → residues t → Destination s d.toNat w (m = 1) →
         VecComputes (.vmv d 1 0 b m) d t (m = 1) false (fun _ => ((s.x b).toNat, 0)) s ∧
         (∀ c, viCode q t b = some c → VecComputes (.vmv d 2 0 b m) d t (m = 1) false (fun _ => (c, 0)) s) ∧
         (tagInt t = true ∨ t = tZ64 → VecComputes (.vid d m) d t (m = 1) false (fun i => (if t = tZ64 then i % q else i, 0)) s)) ∧
     (∀ (k : BitVec 3) (ta : Nat), let w : Nat := readWidth ta s.vtag
       let j : Nat := if k = 1 then (s.x b).toNat else b.toNat
       let c : Nat := if ta = 0 ∨ s.vl ≤ j then 0 else elemAt s a.toNat w j
       k = 1 ∨ k = 2 → w ≠ 0 → ta ≠ tSF4 → (ta = 0 → s.vtag ≠ tSF4) → Operand s a.toNat ta w →
         VecScalar (.vmvx d k a b) d (if tagSigned ta ∧ 2 ^ (w - 1) ≤ c then BitVec.ofInt 64 ((c : Int) - 2 ^ w) else BitVec.ofNat 64 c) s) ∧
     (let t : Nat := if (s.vreg d.toNat).tag = 0 then s.vtag else (s.vreg d.toNat).tag.toNat
       let w : Nat := tagWidth t
       w ≠ 0 → t ≠ tSF4 → Unbound s d.toNat → d.toNat < s.declared →
         ∃ u, exec (.vmvs d b) s = .next u ∧ VecFrame s u ∧ u.h.csr.fflags = s.h.csr.fflags ∧ u.h.csr.srseed = s.h.csr.srseed ∧
           GroupWrote s u d.toNat 1 t (fun i => if i = 0 then (s.x b).toNat % 2 ^ w else regElem s d.toNat w i)) ∧
     ∀ (k : BitVec 3) (ta tb p : Nat) (vb : Nat → Nat),
       Operand s a.toNat ta (readWidth ta p) → SecondIs s k ta p b tb vb → promoteAll s.vtag [ta, tb] = some p → tagWidth p ≠ 0 → p ≠ tSF4 →
       residues p → Destination s d.toNat (tagWidth p) false → s.vl ≤ 8 * s.vlenb → (d ≠ 0 ∨ p = tMask) →
       Clear s d.toNat (tagWidth p) a.toNat (readWidth ta p) → (k = 0 → Clear s d.toNat (tagWidth p) b.toNat (readWidth tb p)) →
         VecComputes (.vsel d k a b) d p false false (fun i =>
           (if (s.vreg 0).tag != 0 && (s.vreg 0).bits.testBit i then promoteElem q ta p (elemAt s a.toNat (readWidth ta p) i)
             else promoteElem q tb p (vb i), 0)) s) ∧
  (∀ (s : State) (d a b : Reg) (m : BitVec 1) (ta : Nat), VecReady s → s.vstart = 0 →
     let t : Nat := if ta = 0 then s.vtag else ta
     let w : Nat := tagWidth t
     let g : Nat := s.group w
     let at_ (j : Nat) : Nat := if ta = 0 ∨ s.vl ≤ j then 0 else elemAt s a.toNat w j
     w ≠ 0 → t ≠ tSF4 → Operand s a.toNat ta w → Apart d.toNat g a.toNat g → Destination s d.toNat w (m = 1) →
       (∀ k : BitVec 3, k = 1 ∨ k = 2 →
         let n : Nat := if k = 1 then (s.x b).toNat else b.toNat
         VecComputes (.vslideup d k a b m) d t (m = 1) false (fun i => (if n ≤ i then at_ (i - n) else elemAt s d.toNat w i, 0)) s ∧
         VecComputes (.vslidedn d k a b m) d t (m = 1) false (fun i => (at_ (i + n), 0)) s) ∧
       (∀ tb : Nat, tb = 0 ∨ tagInt tb = true → Operand s b.toNat tb (readWidth tb t) → Apart d.toNat g b.toNat (s.group (readWidth tb t)) →
         VecComputes (.vperm d a b m) d t (m = 1) false (fun i => (at_ (if tb = 0 then 0 else elemAt s b.toNat (readWidth tb t) i), 0)) s) ∧
       (m = 1 →
         let js : List Nat := (List.range s.vl).filter fun i => Active s true i
         ∃ u, exec (.vcompress d a) s = .next u ∧ VecFrame s u ∧ u.h.csr.fflags = s.h.csr.fflags ∧ u.h.csr.srseed = s.h.csr.srseed ∧
           (js = [] → u.h.vec.v = s.h.vec.v) ∧
           (js ≠ [] → GroupWrote s u d.toNat g t (fun i => match js[i]? with
             | some j => if ta = 0 then 0 else elemAt s a.toNat w j
             | none => elemAt s d.toNat w i))))

/-- VCVT converts each active element to the target tag by the table of R380, with the flags of R292 and R294. VQSF4 gives each block of 8
with an active element the micro-scale that takes the largest active magnitude to 6 at most, rounded up, and each active element its code
under it (R381). -/
def Obligations.ConversionResults : Prop :=
  ∀ (s : State) (d a b : Reg) (m : BitVec 1) (ta : Nat), VecReady s →
    let r : Rnd := ⟨s.h.csr.frm.toNat, s.h.csr.srseed⟩
    let q : Nat := s.h.csr.modq.toNat % 2 ^ 62
    (∀ tg : Reg, let t : Nat := tg.toNat
      let w : Nat := readWidth ta t
      let ofInt (i : Nat) (z : Int) : Nat × Flg :=
        if t = tMask then (if z = 0 then 0 else 1, 0) else if tagFloat t then fRound t r i (.ofInt z)
        else if t = tZ64 then ((z % (q : Int)).toNat, 0) else (codeOf t z, 0)
      let ofVal (i : Nat) (v : FVal) (snan : Flg) : Nat × Flg :=
        if t = tMask then (if v.nonzero then 1 else 0, 0) else if tagFloat t then ((fRound t r i v).1, (fRound t r i v).2 ||| snan)
        else if t = tZ64 then fpToZ r q i v else ((fToInt (tagSigned t) (tagWidth t) r i v).1, (fToInt (tagSigned t) (tagWidth t) r i v).2 ||| snan)
      let result (i : Nat) : Nat × Flg :=
        let c : Nat := elemAt s a.toNat w i
        if ta = 0 then (0, 0) else if ta = tSF4 then ofVal i (sf4Val c (scaleAt s a.toNat (i / 8))) 0
        else if tagFloat ta then ofVal i (fDecode ta c) (fSnanFlag ta c) else if ta = tZ64 then ofInt i (c % q : Nat) else ofInt i (intOf ta c)
      t ≠ 0 → t ≠ tSF4 → t < 0x14 → (ta ≠ tSF4 → Operand s a.toNat ta w) → (ta = tSF4 → Pair s a.toNat) → (ta = tZ64 ∨ t = tZ64 → q % 2 = 1 ∧ 3 ≤ q) →
      Destination s d.toNat (tagWidth t) (m = 1) →
      (ta ≠ tSF4 → Clear s d.toNat (tagWidth t) a.toNat w) → (ta = tSF4 → Apart d.toNat (s.group (tagWidth t)) a.toNat (2 * s.group 4)) →
        VecComputes (.vcvt d a tg m) d t (m = 1) (t ≠ tMask && (tagFloat t || tagFloat ta || ta == tSF4)) result s) ∧
    (ta = tF16 ∨ ta = tBF16 ∨ ta = tF32 ∨ ta = tF64 → s.vstart % 8 = 0 → Operand s a.toNat ta (tagWidth ta) → Unbound s d.toNat → Fits s d.toNat 4 →
      d.toNat + 2 * s.group 4 ≤ s.declared → (m = 1 → s.vl ≤ 8 * s.vlenb ∧ d ≠ 0) → Apart d.toNat (2 * s.group 4) a.toNat (s.group (tagWidth ta)) →
      (∃ i, Active s (m = 1) i = true) →
        let band : FVal := fDecode tBF16 ((s.x b).toNat % 2 ^ 16)
        let val (i : Nat) : FVal := fDecode ta (elemAt s a.toNat (tagWidth ta) i)
        let scale (k : Nat) : Nat := (quantScale band (fun i => Active s (m = 1) i) val k).1
        ∃ u, exec (.vqsf4 d a b m) s = .next u ∧ PairWrote s u d.toNat (m = 1) (fun i => (quantCode r band val (scale (i / 8)) i).1) scale ∧
          VecFrame s u ∧ u.h.csr.srseed = if s.h.csr.frm = 5 then s.h.csr.srseed + BitVec.ofNat 64 (2 ^ 48) else s.h.csr.srseed)

/-! ## Reductions, special functions and modular arithmetic -/

/-- The reductions write element 0 of one register: on integers and residues the sum, the greatest, the least, or the sum of products of
the active elements, on floating tags the tree of R307, and on SF4 the block sums of R309; with no active element the identity (R382). -/
def Obligations.ReductionResults : Prop :=
  ∀ (s : State) (d a b : Reg) (m : BitVec 1) (ta tb p : Nat), VecReady s → s.vstart = 0 → Unbound s d.toNat → d.toNat < s.declared →
    (m = 1 → s.vl ≤ 8 * s.vlenb ∧ d ≠ 0) →
    let r : Rnd := ⟨s.h.csr.frm.toNat, s.h.csr.srseed⟩
    let q : Nat := s.h.csr.modq.toNat % 2 ^ 62
    let on : List Nat := (List.range s.vl).filter fun i => Active s (m = 1) i
    let x (i : Nat) : Nat := promoteElem q ta p (elemAt s a.toNat (readWidth ta p) i)
    let y (i : Nat) : Nat := promoteElem q tb p (elemAt s b.toNat (readWidth tb p) i)
    let leaves : List (Option Nat) := (List.range s.vl).map fun i => if Active s (m = 1) i then some (x i) else none
    let residues : Prop := q % 2 = 1 ∧ 3 ≤ q
    (promoteAll s.vtag [ta] = some p → Operand s a.toNat ta (readWidth ta p) → Apart d.toNat 1 a.toNat (s.group (readWidth ta p)) →
      (tagInt p = true → Reduces (.vredsum d a m) d p false (codeOf p ((on.map fun i => intOf p (x i)).sum), 0) s ∧
        Reduces (.vredmax d a m) d p false (codeOf p ((on.map fun i => intOf p (x i)).foldl max (intRange p).1), 0) s ∧
        Reduces (.vredmin d a m) d p false (codeOf p ((on.map fun i => intOf p (x i)).foldl min (intRange p).2), 0) s) ∧
      (p = tZ64 → residues → Reduces (.vredsum d a m) d p false ((on.map x).sum % q, 0) s) ∧
      (tagFloat p = true →
        (let z : Option Nat × Flg := treeReduce (fun i u v => fAdd p r i u v) leaves;
          Reduces (.vredsum d a m) d p true (z.1.getD 0, z.2) s) ∧
        (let z : Option Nat × Flg := treeReduce (fun _ u v => fMinMax p true u v) leaves;
          Reduces (.vredmax d a m) d p false (z.1.getD (extremeCode p true), z.2) s) ∧
        (let z : Option Nat × Flg := treeReduce (fun _ u v => fMinMax p false u v) leaves;
          Reduces (.vredmin d a m) d p false (z.1.getD (extremeCode p false), z.2) s))) ∧
    (promoteAll s.vtag [ta, tb] = some p → p ≠ tSF4 → Operand s a.toNat ta (readWidth ta p) → Operand s b.toNat tb (readWidth tb p) →
      Apart d.toNat 1 a.toNat (s.group (readWidth ta p)) → Apart d.toNat 1 b.toNat (s.group (readWidth tb p)) →
      (tagInt p = true → Reduces (.vreddot d a b m) d (accTag p) false (codeOf (accTag p) ((on.map fun i => intOf p (x i) * intOf p (y i)).sum), 0) s) ∧
      (p = tZ64 → residues → Reduces (.vreddot d a b m) d p false ((on.map fun i => x i * y i).sum % q, 0) s) ∧
      (tagFloat p = true → Reduces (.vreddot d a b m) d (accTag p) true
        (dotFloat p (accTag p) r ((List.range s.vl).map fun i => if Active s (m = 1) i then some (x i, y i) else none)) s)) ∧
    (Pair s a.toNat → Pair s b.toNat → Apart d.toNat 1 a.toNat (2 * s.group 4) → Apart d.toNat 1 b.toNat (2 * s.group 4) →
      let v (n : Reg) (i : Nat) : FVal := sf4Val (elemAt s n.toNat 4 i) (scaleAt s n.toNat (i / 8))
      Reduces (.vreddot d a b m) d tF32 true (sf4Dot r (fun i => Active s (m = 1) i) (v a) (v b) 0x3F80 0x3F80 s.vl ((s.vl + 127) / 128) 0 0 0) s)

/-- The special functions of F16, BF16, F32 and F64 round the value of their function once, and give the special values of R383's table
with its flags. -/
def Obligations.SpecialFunctions : Prop :=
  (∀ (s : State) (i : Instr) (d a : Reg) (m : BitVec 1) (f : FVal → FVal × Flg) (ta : Nat), vecSpecial i = some (d, a, m, f) → VecReady s →
    let p : Nat := if ta = 0 then s.vtag else ta
    let r : Rnd := ⟨s.h.csr.frm.toNat, s.h.csr.srseed⟩
    p = tF16 ∨ p = tBF16 ∨ p = tF32 ∨ p = tF64 → Operand s a.toNat ta (tagWidth p) → Destination s d.toNat (tagWidth p) (m = 1) →
    Clear s d.toNat (tagWidth p) a.toNat (tagWidth p) →
      VecComputes i d p (m = 1) true (fun n =>
        let c : Nat := if ta = 0 then 0 else elemAt s a.toNat (tagWidth p) n
        ((fRound p r n (f (fDecode p c)).1).1, fSnanFlag p c ||| (f (fDecode p c)).2 ||| (fRound p r n (f (fDecode p c)).1).2)) s) ∧
  (let zero (neg : Bool) (e : Int) : FVal := .num neg 0 e false
    let one : FVal := .num false 1 0 false
    let least (f : FVal → FVal × Flg) : Prop := f .nan = (.nan, 0)
    (∀ neg e, exp2Val (zero neg e) = one ∧ (log2Val (zero neg e)) = (.inf true, 8) ∧ FVal.div one (zero neg e) = (.inf neg, 8) ∧
      rsqrtVal (zero neg e) = (.inf neg, 8) ∧ tanhVal (zero neg e) = .num neg 0 0 false ∧ sigmVal (zero neg e) = .num false 1 (-1) false) ∧
    least (fun v => (exp2Val v, 0)) ∧ least log2Val ∧ least (FVal.div one) ∧ least rsqrtVal ∧ least (fun v => (tanhVal v, 0)) ∧ least (fun v => (sigmVal v, 0)) ∧
    exp2Val (.inf true) = zero false 0 ∧ exp2Val (.inf false) = .inf false ∧ log2Val (.inf true) = (.nan, 16) ∧ log2Val (.inf false) = (.inf false, 0) ∧
    rsqrtVal (.inf true) = (.nan, 16) ∧ tanhVal (.inf true) = .num true 1 0 false ∧ tanhVal (.inf false) = one ∧
    sigmVal (.inf false) = one ∧
    ∀ (k : Nat) (e : Int), log2Val (.num true (k + 1) e false) = (.nan, 16) ∧ rsqrtVal (.num true (k + 1) e false) = (.nan, 16) ∧
      exp2Val (.num false k 0 false) = (if 131072 ≤ k then .num false 1 131072 true else .num false 1 k false))

/-- The modular instructions read integers and residues, and write residues modulo an odd q of 3 or more in Z64; the butterflies write
both groups from what both held before (R384). -/
def Obligations.ModularResults : Prop :=
  ∀ (s : State) (i : Instr) (d a b : Reg) (k : BitVec 3) (m : BitVec 1) (ta tb td : Nat) (vb : Nat → Nat), VecReady s →
    let q : Nat := s.h.csr.modq.toNat % 2 ^ 62
    let wa : Nat := readWidth ta s.vtag
    let held (t : Nat) : Prop := t = 0 ∨ tagInt t = true ∨ t = tZ64
    q % 2 = 1 → 3 ≤ q → held ta → held tb → Operand s a.toNat ta wa → Destination s d.toNat 64 (m = 1) →
    (∀ (two : Bool) (f : Int → Int → Int), vecModular i = some (d, k, a, b, m, two, f) → Clear s d.toNat 64 a.toNat wa → (ta = 0 → tagWidth s.vtag ≠ 0) →
      (two = true → SecondIs s k ta s.vtag b tb vb ∧ (k = 0 → Clear s d.toNat 64 b.toNat (readWidth tb s.vtag) ∧ (tb = 0 → tagWidth s.vtag ≠ 0))) →
      (two = true → k ≠ 0 → tb ≠ 0) →
        VecComputes i d tZ64 (m = 1) false (fun n => ((f (residueOf ta (elemAt s a.toNat wa n)) (residueOf tb (vb n)) % (q : Int)).toNat, 0)) s) ∧
    (∀ f : Int → Int → Int → Int × Int, vecButterfly i = some (d, k, a, b, m, f) → k ≠ 2 → held td → SecondIs s k ta s.vtag b tb vb →
      wa = 64 → readWidth td s.vtag = 64 → Operand s d.toNat td 64 → Destination s a.toNat 64 (m = 1) → Apart d.toNat (s.group 64) a.toNat (s.group 64) →
      (k = 0 → Clear s d.toNat 64 b.toNat (readWidth tb s.vtag) ∧ Clear s a.toNat 64 b.toNat (readWidth tb s.vtag) ∧ (tb = 0 → tagWidth s.vtag ≠ 0)) →
      (k = 1 → tb ≠ 0) →
        let z (n : Nat) : Int × Int := f (residueOf td (elemAt s d.toNat 64 n)) (residueOf ta (elemAt s a.toNat 64 n)) (residueOf tb (vb n))
        let holds (u : State) (r : Reg) (v : Int × Int → Int) : Prop :=
          (∀ n, 64 * (n + 1) ≤ 8 * s.vlenb * s.group 64 →
            elemAt u r.toNat 64 n = if Active s (m = 1) n then (v (z n) % (q : Int)).toNat else elemAt s r.toNat 64 n) ∧
          ((∃ n, Active s (m = 1) n = true) → ∀ j < s.group 64, (u.vreg (r.toNat + j)).tag.toNat = tZ64 ∧ u.h.csr.vdirty.getLsbD (r.toNat + j) = true)
        ∃ u, exec i s = .next u ∧ VecFrame s u ∧ u.h.csr.fflags = s.h.csr.fflags ∧ u.h.csr.srseed = s.h.csr.srseed ∧
          holds u d Prod.fst ∧ holds u a Prod.snd ∧
          ∀ n, (n < d.toNat ∨ d.toNat + s.group 64 ≤ n) → (n < a.toNat ∨ a.toNat + s.group 64 ≤ n) → u.vreg n = s.vreg n)

/-! ## Vector memory instructions -/

/-- VLD, VLDS and VLDX load the active elements from the addresses of R387 into a group of the operating tag, sub-byte elements by R388
and SF4 with its micro-scales; VFILL loads one register from a record (R390). Storage is as before. -/
def Obligations.VectorLoads : Prop :=
  ∀ (s : State) (d a b : Reg) (m : BitVec 1) (loc : Nat → Loc), StorageWf s → MemReady s →
    let t : Nat := s.vtag
    let w : Nat := tagWidth t
    let n : Nat := if w < 8 then 1 else w / 8
    let act (i : Nat) : Bool := Active s (m = 1) i
    let element (i : Nat) : Nat := bytesNat s (loc i) n / 2 ^ (if w < 8 then w * i % 8 else 0)
    (w ≠ 0 → t ≠ tSF4 → Destination s d.toNat w (m = 1) →
      (Lands s .load act (fun i => s.x a + BitVec.ofNat 64 (i * w / 8)) n loc → VecLoads (.vld d a m) d t (m = 1) element s) ∧
      (8 ≤ w → Lands s .load act (fun i => s.x a + BitVec.ofNat 64 i * s.x b) n loc → VecLoads (.vlds d a b m) d t (m = 1) element s) ∧
      ∀ tb : Nat, 8 ≤ w → tb = 0 ∨ tagInt tb = true → Operand s b.toNat tb (readWidth tb t) →
        Apart d.toNat (s.group w) b.toNat (s.group (readWidth tb t)) →
        Lands s .load act (fun i => s.x a + offsetOf s tb (readWidth tb t) b.toNat i) n loc → VecLoads (.vldx d a b m) d t (m = 1) element s) ∧
    (t = tSF4 → Unbound s d.toNat → Fits s d.toNat 4 → d.toNat + 2 * s.group 4 ≤ s.declared → (m = 1 → s.vl ≤ 8 * s.vlenb ∧ d ≠ 0) → (∃ i, act i = true) →
      (s.x a).toNat % 16 = 0 → ∀ at_ : Nat → Loc,
      Lands s .load act (fun i => s.x a + BitVec.ofNat 64 (80 * (i / 128)) + BitVec.ofNat 64 (i % 128 / 2)) 1 loc →
      Lands s .load act (fun i => s.x a + BitVec.ofNat 64 (80 * (i / 128)) + BitVec.ofNat 64 (64 + i % 128 / 8)) 1 (fun i => at_ (i / 8)) →
        ∃ u, exec (.vld d a m) s = .next u ∧ PairWrote s u d.toNat (m = 1) (fun i => (byteAt s (loc i)).toNat / 2 ^ (4 * (i % 2)))
          (fun k => (byteAt s (at_ k)).toNat) ∧ u.mem = s.mem ∧ FlagsKept s u ∧ VecMemFrame s u) ∧
    ∀ (l : Loc) (f : Option TlbEntry) (len tag : Nat) (rest : Nat), s.vstart = 0 → Unbound s d.toNat → d.toNat < s.declared → (s.x a).toNat % 64 = 0 →
      s.check (s.x a) 16 1 .load = .ok ⟨l, f⟩ → (s.readLoc l 16).isSome = true → bytesNat s l 8 = len + tag * 2 ^ 32 + rest * 2 ^ 40 → rest < 256 →
      0 < len → len < 2 ^ 32 → len % 64 = 0 → len ≤ s.vlenb → 0 < tag → tag < 0x14 →
      Lands (s.fill f) .load (fun i => decide (i < len / 8)) (fun i => s.x a + BitVec.ofNat 64 (16 + 8 * i)) 8 loc →
        ∃ u, exec (.vfill d a) s = .next u ∧ u.mem = s.mem ∧ FlagsKept s u ∧ VecMemFrame s u ∧ (u.vreg d.toNat).tag.toNat = tag ∧
          u.h.csr.vdirty.getLsbD d.toNat = true ∧
          (∀ i, 8 * (i + 1) ≤ s.vlenb → regElem u d.toNat 64 i = if i < len / 8 then bytesNat s (loc i) 8 else 0) ∧
          ∀ r, r ≠ d.toNat → u.vreg r = s.vreg r

/-- VST, VSTS and VSTX store the active elements of a group at the addresses of R387, the higher element winning a shared byte (R250); VST
stores sub-byte elements beside their neighbours (R388). VSPILL writes a register as a record with its header (R390, R286). VSCADD gives
each distinct address one update by the sum of its elements, taken in order (R389, R310). -/
def Obligations.VectorStores : Prop :=
  ∀ (s : State) (d a b : Reg) (m : BitVec 1) (ta : Nat) (loc : Nat → Loc), StorageWf s → MemReady s →
    let t : Nat := if ta = 0 then s.vtag else ta
    let w : Nat := tagWidth t
    let n : Nat := w / 8
    let q : Nat := s.h.csr.modq.toNat % 2 ^ 62
    let act (i : Nat) : Bool := Active s (m = 1) i
    let code (i : Nat) : Nat := if ta = 0 then 0 else elemAt s d.toNat w i
    (w ≠ 0 → t ≠ tSF4 → Operand s d.toNat ta w → (m = 1 → s.vl ≤ 8 * s.vlenb) →
      (8 ≤ w →
        (Lands s .store act (fun i => s.x a + BitVec.ofNat 64 (i * n)) n loc → VecStores (.vst d a m) act n loc code s) ∧
        (Lands s .store act (fun i => s.x a + BitVec.ofNat 64 i * s.x b) n loc → VecStores (.vsts d a b m) act n loc code s) ∧
        ∀ tb : Nat, tb = 0 ∨ tagInt tb = true → Operand s b.toNat tb (readWidth tb t) →
          (Lands s .store act (fun i => s.x a + offsetOf s tb (readWidth tb t) b.toNat i) n loc → VecStores (.vstx d a b m) act n loc code s) ∧
          (let addr (i : Nat) : Word := s.x a + offsetOf s tb (readWidth tb t) b.toNat i
            let value (i : Nat) : Nat := if t = tZ64 then code i % q else code i
            let sharers (i : Nat) : List Nat := (List.range s.vl).filter fun j => (m ≠ 1 || s.maskBit j) && addr j == addr i
            let merged (i : Nat) : Nat := (sharers i).tail.foldl (fun z j => (sumCodes t q s.rnd j z (value j)).1) (value i)
            scaddTag t = true → (t = tZ64 → q % 2 = 1 ∧ 3 ≤ q) → s.vstart = 0 → Lands s .atomic act addr n loc →
            (∀ i j, act i = true → act j = true → addr i ≠ addr j → ∀ k < n, ∀ r < n, sameByte ((loc i).plus k) ((loc j).plus r) = false) →
              ∃ u, exec (.vscadd d a b m) s = .next u ∧ VecMemFrame s u ∧ FullKept s u ∧ u.h.vec.v = s.h.vec.v ∧
                (∀ i, act i = true → (sharers i).head? = some i → ∀ k < n, byteAt u ((loc i).plus k) =
                  BitVec.ofNat 8 ((sumCodes t q s.rnd (2 ^ 32 + i) (if t = tZ64 then bytesNat s (loc i) n % q else bytesNat s (loc i) n) (merged i)).1 / 2 ^ (8 * k))) ∧
                ∀ l, (∀ i, act i = true → ∀ k < n, sameByte ((loc i).plus k) l = false) → byteAt u l = byteAt s l)) ∧
      (w < 8 → (∀ i j, act i = true → act j = true → i * w / 8 ≠ j * w / 8 → sameByte (loc i) (loc j) = false) →
        Lands s .store act (fun i => s.x a + BitVec.ofNat 64 (i * w / 8)) 1 loc →
          ∃ u, exec (.vst d a m) s = .next u ∧ VecMemFrame s u ∧ FullKept s u ∧ FlagsKept s u ∧ u.h.vec.v = s.h.vec.v ∧
            (∀ i j, act i = true → i * w / 8 = j * w / 8 →
              (byteAt u (loc i)).toNat / 2 ^ (w * j % 8) % 2 ^ w = if act j then code j else (byteAt s (loc i)).toNat / 2 ^ (w * j % 8) % 2 ^ w) ∧
            ∀ l, (∀ i, act i = true → sameByte (loc i) l = false) → byteAt u l = byteAt s l)) ∧
    ∀ head : Nat → Loc, let r : VReg := s.vreg d.toNat
      let tag : Nat := r.tag.toNat
      let len : Nat := if tag = 0 then 0 else min s.vlenb (64 * (((s.vl * tagWidth tag + 7) / 8 + 63) / 64))
      s.vstart = 0 → Unbound s d.toNat → d.toNat < s.declared → (s.x a).toNat % 64 = 0 → s.vlenb % 64 = 0 →
      Lands s .store (fun i => decide (i < 2)) (fun i => s.x a + BitVec.ofNat 64 (8 * i)) 8 head →
      Lands s .store (fun i => decide (i < len / 8)) (fun i => s.x a + BitVec.ofNat 64 (16 + 8 * i)) 8 loc →
      (∀ i j, i < 2 → (j < 2 → i ≠ j → ∀ k < 8, ∀ e < 8, sameByte ((head i).plus k) ((head j).plus e) = false) ∧
        (j < len / 8 → ∀ k < 8, ∀ e < 8, sameByte ((head i).plus k) ((loc j).plus e) = false)) →
      (∀ i j, i < j → j < len / 8 → ∀ k < 8, ∀ e < 8, sameByte ((loc i).plus k) ((loc j).plus e) = false) →
        ∃ u, exec (.vspill d a) s = .next u ∧ VecMemFrame s u ∧ FullKept s u ∧ FlagsKept s u ∧ u.h.vec.v = s.h.vec.v ∧
          bytesNat u (head 0) 8 = len + tag * 2 ^ 32 + d.toNat * 2 ^ 40 ∧ bytesNat u (head 1) 8 = s.vlenb ∧
          (∀ i, i < len / 8 → bytesNat u (loc i) 8 = regElem s d.toNat 64 i) ∧
          ∀ l, (∀ i k, k < 8 → (i < 2 → sameByte ((head i).plus k) l = false) ∧ (i < len / 8 → sameByte ((loc i).plus k) l = false)) → byteAt u l = byteAt s l

/-! ## Tiles -/

/-- OPA and OPS add or subtract the outer product of two strips to every accumulator of a tile, each rounded once, by the positions that
the operand kind gives; OPAM only where both mask bits are set (R407, R408). TZERO makes the tile NONE (R410). TLD and TST move a tile
between its accumulators and rows of memory at a pitch (R411); TRDROW and TWRROW move a row or a column between a tile and a strip (R412);
TEPI scales and converts every accumulator into a strip (R413). -/
def Obligations.TileResults : Prop :=
  (∀ (s : State) (t : BitVec 2) (k : BitVec 3) (a b : Reg) (ta tb p l acc sa : Nat), VecReady s → s.vstart = 0 →
     let w : Nat := 8 * sa
     let q : Nat := s.h.csr.modq.toNat % 2 ^ 62
     let r : Rnd := ⟨s.h.csr.frm.toNat, s.h.csr.srseed⟩
     let step : Nat := s.vl / l
     let row (e : Nat) : Nat := e / l * if k = 3 ∨ k = 5 then step else 1
     let col (e : Nat) : Nat := e % l * if k = 4 ∨ k = 5 then step else 1
     let old (e : Nat) : Nat := (s.tile t).data / 2 ^ (w * e) % 2 ^ w
     let others (u : State) : Prop := (∀ x, x ≠ t → u.tile x = s.tile x) ∧ (u.tile t).dirty = true ∧ u.h.csr.sstatus.toNat / 32 = 3 ∧ u.h.csr.vdirty = s.h.csr.vdirty ∧
       VecFrame s { u with h := { u.h with vec := { u.h.vec with t := s.h.vec.t } } } ∧ u.h.vec.v = s.h.vec.v
     (∃ u, exec (.tzero t) s = .next u ∧ others u ∧ (u.tile t).tag = 0 ∧ (u.tile t).bits = 0 ∧ FlagsKept s u) ∧
     (tileShape p = some (l, acc, sa) → (p = tSF4 ∨ p = tF4 → k = 0) → k = 0 ∨ k = 3 ∨ k = 4 ∨ k = 5 → 0 < s.vl → s.vl % l = 0 →
       (s.tile t).tag = 0 ∨ (s.tile t).tag.toNat = p → (p = tZ64 → q % 2 = 1 ∧ 3 ≤ q) →
       ((p ≠ tSF4 ∧ Operand s a.toNat ta (tagWidth p) ∧ Operand s b.toNat tb (tagWidth p) ∧ (ta = p ∨ ta = 0) ∧ (tb = p ∨ tb = 0) ∧
           (ta = 0 ∧ tb = 0 → s.vtag = p)) ∨ (p = tSF4 ∧ ta = p ∧ tb = p ∧ Pair s a.toNat ∧ Pair s b.toNat)) →
       let int (n : Reg) (tag i : Nat) : Int :=
         if tag = 0 then 0 else if p = tZ64 then (elemAt s n.toNat (tagWidth p) i % q : Nat) else intOf p (elemAt s n.toNat (tagWidth p) i)
       let val (n : Reg) (tag i : Nat) : FVal := if tag = 0 then .num false 0 0 false
         else if p = tSF4 then sf4Val (elemAt s n.toNat 4 i) (scaleAt s n.toNat (i / 8)) else fDecode p (elemAt s n.toNat (tagWidth p) i)
       let new (neg : Bool) (e : Nat) : Nat :=
         if acc = tS32 then codeOf tS32 (intOf tS32 (old e) + (if neg then -1 else 1) * (int a ta (row e) * int b tb (col e)))
         else if acc = tZ64 then (((old e : Int) + (if neg then -1 else 1) * (int a ta (row e) * int b tb (col e))) % (q : Int)).toNat
         else
           let m : FVal := (FVal.mul (val a ta (row e)) (val b tb (col e))).1;
           (fRound acc r e (FVal.add r.mode (fDecode acc (old e)) (if neg then m.neg else m)).1).1
       let does (j : Instr) (neg : Bool) (on : Nat → Bool) : Prop :=
         ∃ u, exec j s = .next u ∧ others u ∧ (u.tile t).tag.toNat = p ∧
           (∀ e, e < l * l → (u.tile t).data / 2 ^ (w * e) % 2 ^ w = if on e then new neg e else old e) ∧
           (acc = tS32 ∨ acc = tZ64 → FlagsKept s u) ∧
           (acc = tF32 ∨ acc = tF64 → u.h.csr.srseed = if s.h.csr.frm = 5 then s.h.csr.srseed + BitVec.ofNat 64 (2 ^ 48) else s.h.csr.srseed)
       does (.opa t k a b) false (fun _ => true) ∧ does (.ops t k a b) true (fun _ => true) ∧
       (s.vl ≤ 8 * s.vlenb → (s.vreg 0).tag = 0 ∨ (s.vreg 0).tag.toNat = tMask →
         does (.opam t k a b) false (fun e => s.maskBit (e / l) && s.maskBit (l + e % l))))) ∧
  (∀ (s : State) (t : BitVec 2) (k : BitVec 3) (v a b : Reg) (m : BitVec 1) (tag l acc sa : Nat), VecReady s → tileShape tag = some (l, acc, sa) →
     let w : Nat := 8 * sa
     let q : Nat := s.h.csr.modq.toNat % 2 ^ 62
     let r : Rnd := ⟨s.h.csr.frm.toNat, s.h.csr.srseed⟩
     let held (e : Nat) : Nat := (s.tile t).data / 2 ^ (w * e) % 2 ^ w
     let shaped : Prop := (if (s.tile t).tag = 0 then s.vtag else (s.tile t).tag.toNat) = tag
     let addr (e : Nat) : Word := s.x a + BitVec.ofNat 64 (e / l) * s.x b + BitVec.ofNat 64 (e % l * sa)
     let all (e : Nat) : Bool := decide (e < l * l)
     let keepsTiles (u : State) : State := { u with h := { u.h with vec := { u.h.vec with t := s.h.vec.t } } }
     let others (u : State) : Prop := (∀ x, x ≠ t → u.tile x = s.tile x) ∧ (u.tile t).dirty = true ∧ (u.tile t).tag.toNat = tag ∧ u.h.csr.sstatus.toNat / 32 = 3 ∧
       u.h.csr.vdirty = s.h.csr.vdirty ∧ u.h.vec.v = s.h.vec.v ∧ FlagsKept s u
     (∀ loc : Nat → Loc, StorageWf s → Quiet s → s.h.vec.fmArmed = false → s.vstart = 0 → l * l ≤ 16 * s.vlenb →
       (s.vtag = tag → Lands s .load all addr sa loc →
         ∃ u, exec (.tld t a b) s = .next u ∧ others u ∧ u.mem = s.mem ∧ VecMemFrame s (keepsTiles u) ∧
           ∀ e, e < l * l → (u.tile t).data / 2 ^ (w * e) % 2 ^ w = bytesNat s (loc e) sa) ∧
       (shaped → Lands s .store all addr sa loc → VecStores (.tst t a b) all sa loc held s)) ∧
     (shaped → s.vl = l → k = 1 ∨ k = 2 ∨ k = 3 ∨ k = 4 →
       let n : Nat := if k = 1 ∨ k = 3 then (s.x b).toNat else b.toNat
       let index (j : Nat) : Nat := if k = 1 ∨ k = 2 then n * l + j else j * l + n
       n < l →
         (Destination s v.toNat w (m = 1) → VecComputes (.trdrow t k v b m) v acc (m = 1) false (fun j => (held (index j), 0)) s) ∧
         ∀ ta : Nat, ta = acc ∨ ta = 0 → Operand s v.toNat ta w → (m = 1 → s.vl ≤ 8 * s.vlenb) → s.vstart < s.vl →
           ∃ u, exec (.twrrow t k v b m) s = .next u ∧ others u ∧ VecFrame s (keepsTiles u) ∧
             (∀ j, j < l → (u.tile t).data / 2 ^ (w * index j) % 2 ^ w =
               if Active s (m = 1) j then (if ta = 0 then 0 else elemAt s v.toNat w j) else held (index j)) ∧
             ∀ e, e < l * l → (∀ j, j < l → e ≠ index j) → (u.tile t).data / 2 ^ (w * e) % 2 ^ w = held e) ∧
     (let o : Nat := s.vtag;
       o ≠ 0 → o ≠ tMask → o ≠ tSF4 → o < 0x14 → (s.tile t).tag.toNat = tag → s.vl = l * l → (acc = tZ64 ∨ o = tZ64 → q % 2 = 1 ∧ 3 ≤ q) →
       Destination s v.toNat (tagWidth o) (m = 1) →
         VecComputes (.tepi t v b m) v o (m = 1) (tagFloat acc || tagFloat o) (fun e =>
           if acc = tF32 ∨ acc = tF64 then
             let s1 : Nat := (s.x b).toNat % 2 ^ 16
             let s2 : Nat := (s.x b).toNat / 2 ^ 16 % 2 ^ 16
             let m1 : FVal × Flg := FVal.mul (fDecode acc (held e)) (fDecode tBF16 s1)
             let m2 : FVal × Flg := FVal.mul m1.1 (fDecode tBF16 s2)
             ((cvtVal r q o e m2.1 0).1, fSnanFlag acc (held e) ||| fSnanFlag tBF16 s1 ||| fSnanFlag tBF16 s2 ||| m1.2 ||| m2.2 ||| (cvtVal r q o e m2.1 0).2)
           else cvtElem r q acc o e (held e) 0) s))

/-! ## Streams, copies and sync words -/

/-- STBIND, STRBIND and STFBIND, in a vector thread with nothing outstanding, of a register among v24 to v31 that is declared, when the checks of their record
pass. A register that is bound, a record of another kind, and one with a nonzero reserved field raise STREAM. STBIND: a record that keeps the conditions of
R393, over at most 1,024 pages that all translate, binds a memory stream with its pages pinned and makes the register's tag OTAG; one that breaks them, or
more pages, raises STREAM. STRBIND: a record that keeps the conditions of R395 binds a ring of the launch's own reservation and makes the tag OTAG; one that
breaks them raises STREAM, and a poisoned descriptor POISON. STFBIND: a record that keeps the conditions of R396 binds an outbound stream and puts the
member's route into its route register; one that breaks them raises STREAM. STUNBIND ends a binding and makes the register NONE, and does nothing to a register
without one. Nothing else changes but VDIRTY's bit of the register, VS and the translation buffers. -/
def Obligations.StreamBindings : Prop :=
  ∀ (s : State) (d a : Reg) (l : Loc) (f : Option TlbEntry), VecReady s → Quiet s → 24 ≤ d.toNat → d.toNat < s.declared →
    let r : Nat := bytesNat s l 64
    let field (o n : Nat) : Nat := r / 2 ^ (8 * o) % 2 ^ (8 * n)
    let s1 : State := s.fill f
    let bound (u : State) (b : Binding) (tag : BitVec 5) : Prop :=
      u.h.binding d.toNat = b ∧ (∀ n, n < 32 → n ≠ d.toNat → u.h.binding n = s.h.binding n ∧ u.vreg n = s.vreg n) ∧ (u.vreg d.toNat).tag = tag ∧
        (u.vreg d.toNat).bits = (s.vreg d.toNat).bits ∧ (∀ n, u.h.csr.vdirty.getLsbD n = (s.h.csr.vdirty.getLsbD n && decide (n ≠ d.toNat))) ∧
        u.h.csr.sstatus.toNat = s.h.csr.sstatus.toNat % 32 + 96 ∧ u.h.p = s.h.p ∧ u.mem = s.mem ∧ u.h.csr.vl = s.h.csr.vl ∧ FlagsKept s u
    let stops (j : Instr) : Prop := exec j s = .next (s1.raise ⟨0x10, s.h.word.setWidth 64⟩)
    let common : Prop := (s.h.binding d.toNat).kind = 0 ∧ field 40 8 = 0 ∧ field 60 4 = 0
    ((s.h.binding d.toNat).kind ≠ 0 → ∃ u, exec (.stunbind d) s = .next u ∧ Retired s u ∧ bound u Binding.none 0) ∧
    ((s.h.binding d.toNat).kind = 0 → exec (.stunbind d) s = .next (onward s)) ∧
    (s.check (s.x a) 64 64 .load = .ok ⟨l, f⟩ → (s.readLoc l 64).isSome = true → Free s l 64 false →
      (¬ common → stops (.stbind d a) ∧ stops (.strbind d a) ∧ stops (.stfbind d a)) ∧
      (field 0 1 ≠ 1 → stops (.stbind d a)) ∧ (field 0 1 ≠ 2 → stops (.strbind d a)) ∧ (field 0 1 ≠ 3 → stops (.stfbind d a)) ∧
      (common →
        (let otag : Nat := field 1 1
          let sfmt : Nat := field 2 1
          let w : Nat := tagWidth sfmt
          let b : Binding := ⟨1, BitVec.ofNat 5 otag, BitVec.ofNat 5 sfmt, 0, BitVec.ofNat 32 (field 4 4), BitVec.ofNat 64 (field 8 8), BitVec.ofNat 64 (field 16 8),
            BitVec.ofNat 64 (field 24 8), BitVec.ofNat 64 (field 32 8), BitVec.ofNat 64 (field 48 8), 0, [], []⟩
          let good : Prop := otag < 0x14 ∧ 2 ≤ sfmt ∧ sfmt < 0x14 ∧ field 3 1 = 0 ∧ field 56 4 = 0 ∧ streamTag sfmt otag = true ∧
            (s.launch? s.h.launch).map (fun l => shapeCist l.words) = some true ∧ (if w < 8 then field 24 8 = 0 else field 24 8 % (w / 8) = 0) ∧
            (if sfmt = tSF4 then field 8 8 % 16 = 0 ∧ field 4 4 % 128 = 0 else field 4 4 = 0 ∧ field 32 8 = 0 ∧ (8 ≤ w → field 8 8 % (w / 8) = 0)) ∧
            0 < field 16 8 ∧ field 16 8 ≤ 2 ^ 40 ∧ field 48 8 < 2 ^ 40
          field 0 1 = 1 → (∀ j, s.h.post.get j = 0) →
            (¬ good → stops (.stbind d a)) ∧
            ∀ pins : List PageMap, good → s1.pinStream b (field 16 8) 0 ⟨[], [], none⟩ = ⟨pins, [], none⟩ →
              (1024 < pins.length → stops (.stbind d a)) ∧
              (pins.length ≤ 1024 →
                ∃ u, exec (.stbind d a) s = .next u ∧ Retired s u ∧ bound u { b with pins := pins } (BitVec.ofNat 5 otag) ∧ u.h.rt = s.h.rt)) ∧
        (let otag : Nat := field 1 1
          let good : Prop := 2 ≤ otag ∧ otag < 0x14 ∧ otag ≠ tSF4 ∧ r = 2 + otag * 2 ^ 8 + field 8 8 * 2 ^ 64 ∧ field 8 8 % 64 = 0
          field 0 1 = 2 →
            (¬ good ∨ s.reservationOff (field 8 8) 64 = none → stops (.strbind d a)) ∧
            ∀ (o : Nat) (ln : Launch), good → s.reservationOff (field 8 8) 64 = some (o, ln) →
              (s.readLoc (.spad s.c.id o) 64 = none → exec (.strbind d a) s = .next (s1.raise ⟨0x14, BitVec.ofNat 64 (field 8 8)⟩)) ∧
              ∀ desc : Nat, s.readLoc (.spad s.c.id o) 64 = some desc →
                (ringMalformed desc (shapeSpres ln.words) = true → stops (.strbind d a)) ∧
                (ringMalformed desc (shapeSpres ln.words) = false →
                  ∃ u, exec (.strbind d a) s = .next u ∧ Retired s u ∧
                    bound u ⟨2, BitVec.ofNat 5 otag, 0, 0, 0, BitVec.ofNat 64 (field 8 8), 0, 0, 0, 0, 0, [], []⟩ (BitVec.ofNat 5 otag) ∧ u.h.rt = s.h.rt)) ∧
        (let rank : Nat := field 16 8
          let esz : Nat := field 24 8
          let rtreg : BitVec 3 := BitVec.ofNat 3 (field 3 1)
          let at_ : Word := BitVec.ofNat 64 (field 8 8)
          let good : Prop := field 1 2 = 0 ∧ field 3 1 < 8 ∧ field 4 4 = 0 ∧ field 18 6 = 0 ∧ field 28 4 = 0 ∧ field 32 8 = 0 ∧ field 48 8 = 0 ∧
            field 8 8 % 64 = 0 ∧ esz % 64 = 0 ∧ 64 ≤ esz ∧ esz ≤ 32768
          field 0 1 = 3 →
            (¬ good ∨ s1.windowRead at_ 64 = none → stops (.stfbind d a)) ∧
            ∀ hd : Nat, good → s1.windowRead at_ 64 = some (.ok hd) →
              (hd % 2 ^ 16 ≤ rank ∨ s1.windowRead (at_ + BitVec.ofNat 64 (64 + 32 * rank)) 32 = none → stops (.stfbind d a)) ∧
              ∀ v : Nat, rank < hd % 2 ^ 16 → s1.windowRead (at_ + BitVec.ofNat 64 (64 + 32 * rank)) 32 = some (.ok v) →
                ((RouteVal.ofNat v).rights / 2 % 2 = 0 ∨ (RouteVal.ofNat v).tkind ≠ 4 → stops (.stfbind d a)) ∧
                ((RouteVal.ofNat v).rights / 2 % 2 = 1 → (RouteVal.ofNat v).tkind = 4 →
                  ∃ u, exec (.stfbind d a) s = .next u ∧ Retired s u ∧ (∀ x, u.rt x = if x = rtreg then RouteVal.ofNat v else s.rt x) ∧
                    bound u ⟨3, 0, 0, rtreg, 0, at_, BitVec.ofNat 64 rank, BitVec.ofNat 64 esz, 0, 0, BitVec.ofNat 32 (field 56 4), [], []⟩ (s.vreg d.toNat).tag))))

/-- SYNCARM, on a sync word that it reaches, gives its GEN, sets TARGET and ARMED, and passes what has been counted already into whole generations; with
TARGET 0 it disarms the word; where GEN advances, the SYNCWAIT of the one hart parked on the word completes with the new GEN. SYNCWAIT gives a GEN that
differs from the operand, and otherwise parks the hart on the word. CPY, in a vector thread with nothing outstanding, when the checks of its record and its
layout pass, and, for a record that is not malformed, those of both sides: it pushes one copy command with the fields of the record and the layout and gives
its fresh nonzero id; with no room for the command it gives 0 and pushes nothing. A malformed record, or a local side of more than 1,024 pages, is pushed as
malformed. -/
def Obligations.CopyResults : Prop :=
  (∀ (s : State) (d a b : Reg) (core off : Nat), StorageWf s → s.h.run = .ready → Reaches s (s.x a) 16 .atomic (.spad core off) →
     let l : Loc := .spad core off
     let word (i : Nat) : Nat := bytesNat s (l.plus (4 * i)) 4
     let t : Nat := (s.x b).toNat % 2 ^ 32
     let new (i : Nat) : Nat :=
       if i = 0 then t else if t = 0 then (if i = 3 then 0 else word i)
       else if i = 1 then word 1 % t else if i = 2 then (word 2 + word 1 / t) % 2 ^ 32 else 1
     let armed (u : State) : Prop := exec (.syncarm d a b) s = .next u ∧ Retired s u ∧ Wrote d (BitVec.ofNat 64 (word 2)) (7 + s.lateBy) s u ∧
       Stored l 16 (new 0 + 2 ^ 32 * new 1 + 2 ^ 64 * new 2 + 2 ^ 96 * new 3) s u ∧ u.mem.full = s.mem.full ∧ u.mem.feWait = s.mem.feWait ∧ FlagsKept s u
     (new 2 = word 2 ∨ (∀ f ∈ s.mem.syncWait, ¬ (f.core = core ∧ f.off = off)) → ∃ u, armed u ∧ u.mem.syncWait = s.mem.syncWait ∧ AccessFrame s u) ∧
     (∀ (g : Hart) (rd : Reg), new 2 ≠ word 2 → s.harts = [g] → g.launch ≠ 0 → s.h.isHart g.core g.slot g.launch = false → 0 < rd.toNat → rd.toNat < 16 →
       s.mem.syncWait = [⟨core, off, g.core, g.slot, g.launch, rd, word 2⟩] →
         ∃ u g', armed u ∧ u.mem.syncWait = [] ∧ u.harts = [g'] ∧ g'.run = .ready ∧ g'.pc = g.pc + 4 ∧
           g'.p.toList[rd.toNat]? = some (BitVec.ofNat 64 (new 2))) ∧
     (word 2 ≠ t → ∃ u, exec (.syncwait d a b) s = .next u ∧ Retired s u ∧ Wrote d (BitVec.ofNat 64 (word 2)) (7 + s.lateBy) s u ∧ u.mem = s.mem ∧ FlagsKept s u ∧
       AccessFrame s u) ∧
     (word 2 = t → ∃ u, exec (.syncwait d a b) s = .next u ∧ u.h = { s.h with run := .parkedSync } ∧ u.harts = s.harts ∧
       u.mem = { s.mem with syncWait := s.mem.syncWait ++ [⟨core, off, s.h.core, s.h.slot, s.h.launch, d, word 2⟩] })) ∧
  (∀ (s : State) (d a v : Reg) (l : Loc) (f : Option TlbEntry), VecReady s → Quiet s → v.toNat % s.gmul = 0 → v.toNat + s.gmul ≤ s.declared → Unbound s v.toNat →
     s.check (s.x a) 64 64 .load = .ok ⟨l, f⟩ → (s.readLoc l 64).isSome = true → Free s l 64 false →
     let r : Nat := bytesNat s l 64
     let field (o n : Nat) : Nat := r / 2 ^ (8 * o) % 2 ^ (8 * n)
     let s1 : State := s.fill f
     let room : Prop := s.c.copies.length + s.heldCopyIds.length < 48 ∧ s.copyPlaces s.h.slot < 16
     let flat : Bool := decide (field 18 1 / 4 % 2 = 1)
     let ldst : Bool := decide (field 18 1 % 2 = 1)
     let sync : Bool := decide (field 18 1 / 2 % 2 = 1)
     let srem : Bool := decide (field 16 1 / 8 % 2 = 1)
     let drem : Bool := decide (field 17 1 / 8 % 2 = 1)
     let shape : CopyShape := copyShape flat (field 20 4)
       ((List.range s.vl).map fun i => s.regBits v.toNat s.gmul / 2 ^ (64 * i) % 2 ^ 64)
     let src : List (Nat × Nat) := sidePieces (field 0 8) (!ldst) shape (shape.total + 1) 0
     let dst : List (Nat × Nat) := sidePieces (field 8 8) ldst shape (shape.total + 1) 0
     let pushes (is : CopyCmd → Prop) : Prop :=
       (room → ∃ u k, exec (.cpy d a v) s = .next u ∧ Retired s u ∧ Wrote d (k.id.setWidth 64) 7 s u ∧
         u.c.copies = s.c.copies ++ [k] ∧ k.id ≠ 0 ∧ (∀ j ∈ s.c.copies, j.id ≠ k.id) ∧ k.id ∉ s.heldCopyIds ∧ k.slot = s.h.slot ∧ k.launch = s.h.launch ∧ k.next = 0 ∧ k.done = [] ∧
         k.failures = [] ∧ u.mem = s.mem ∧ u.h.vec = s.h.vec ∧ FlagsKept s u ∧ is k) ∧
       (¬ room → ∃ u, exec (.cpy d a v) s = .next u ∧ Retired s u ∧ Wrote d 0 7 s u ∧
         u.c.copies = s.c.copies ∧ u.mem = s.mem ∧ AccessFrame s u)
     (flat = false → ((s.vreg v.toNat).tag.toNat = tS64 ∨ (s.vreg v.toNat).tag.toNat = tN64) ∧ 0 < s.vl ∧ s.vl ≤ 8) →
       (copyMalformed r flat shape (s.rt (BitVec.ofNat 3 (field 17 1))) = true → pushes fun k => k.malformed = true) ∧
       (∀ (pins : List PageMap) (sl : Option Loc), copyMalformed r flat shape (s.rt (BitVec.ofNat 3 (field 17 1))) = false →
         (let p1 : Pinning := if srem then ⟨[], [], none⟩ else s1.pinSide .load src ⟨[], [], none⟩;
           let p2 : Pinning := if drem then p1 else s1.pinSide .store dst p1;
           (if sync && !drem then s1.pinOne .atomic p2 (BitVec.ofNat 64 (field 24 8)) 16 else p2) = ⟨pins, [], none⟩) →
         (1024 < pins.length → pushes fun k => k.malformed = true) ∧ (pins.length ≤ 1024 →
         (if sync && !drem then ∃ core off e, sl = some (.spad core off) ∧ s1.checkAt (BitVec.ofNat 64 (field 24 8)) 16 .atomic s.h.level = .ok ⟨.spad core off, e⟩
           else sl = none) →
         (srem = true → ∀ x ∈ src, s1.sourceCheck (s.rt (BitVec.ofNat 3 (field 16 1))) (BitVec.ofNat 3 (field 16 1)) 8 x.1 x.2 = none) →
         (drem = true → (∀ x ∈ dst, s1.sourceCheck (s.rt (BitVec.ofNat 3 (field 17 1))) (BitVec.ofNat 3 (field 17 1)) 7 x.1 x.2 = none) ∧
           (sync = true → s1.sourceCheck (s.rt (BitVec.ofNat 3 (field 17 1))) (BitVec.ofNat 3 (field 17 1)) 4 (field 24 8) 16 = none)) →
           pushes fun k => k.malformed = false ∧ k.src = field 0 8 ∧ k.dst = field 8 8 ∧ k.srem = srem ∧ k.drem = drem ∧ k.ldst = ldst ∧ k.pins = pins ∧ k.sync = sl ∧
             k.syncRemote = (if sync && drem then some (field 24 8) else none) ∧ k.extents = shape.extents ∧ k.strides = shape.strides ∧ k.total = shape.total ∧
             (srem = true → k.sroute = s.rt (BitVec.ofNat 3 (field 16 1))) ∧ (drem = true → k.droute = s.rt (BitVec.ofNat 3 (field 17 1))))))

/-! ## Sketches -/

/-- With no marked access outstanding, VSTART 0, and, for an update, fewer than 8 operations of the hart to be applied: SKINIT, the adds and SKMERGE, when the
checks of their sketches pass, hand one operation to the Weir of the sketch's core, with the elements that are active at issue, and change no storage
themselves. Applied to storage, SKINIT's operation leaves the sketch with its header and zeros. The queries apply what is queued on their sketch and then,
when its header is valid and nothing of it is poisoned, give their result: SKQQ the quantile of a fraction, SKHTOP a field of the entry at a rank, SKDCNT the
distinct count; VCLIPQ clips a group between two quantiles and VSCALEQ scales it by them. -/
def Obligations.SketchResults : Prop :=
  (∀ (s : State) (t a b w : Reg) (m : BitVec 1) (key : Nat), Quiet s → s.vstart = 0 → s.weirMine < 8 →
     let va : Word := s.x a
     let pushes (j : Instr) (kind arg : Nat) (elems weights : List Nat) : Prop :=
       ∃ u, exec j s = .next u ∧ Retired s u ∧ u.mem = s.mem ∧ u.h.p = s.h.p ∧ u.h.vec.v = s.h.vec.v ∧ FlagsKept s u ∧
         ∀ n, (u.core n).weir = (s.core n).weir ++ if n = key / spadSize then [⟨s.h.core, s.h.slot, s.h.launch, kind, key, arg, elems, weights, s.tierOf va (.spad (key / spadSize) 0)⟩] else []
     let init (j : Instr) (kind seed : Nat) : Prop :=
       sketchTagOk kind t = true → s.sketchAt va (sketchSize kind) .atomic = .ok key → s.initClash key (sketchSize kind) = false →
         pushes j kind (t.toNat + 32 * seed) [] []
     let adds (j : Instr) (op kind : Nat) (weighted : Bool) : Prop :=
       ∀ tb tw tag : Nat, VecReady s → (m = 1 → s.vl ≤ 8 * s.vlenb) → Operand s b.toNat tb (readWidth tb s.vtag) → tb = 0 ∨ tb = tag →
         sketchTagOk kind (BitVec.ofNat 5 tag) = true → (weighted = true → Operand s w.toNat tw (readWidth tw s.vtag) ∧ (tw = 0 ∨ tagUnsigned tw = true)) →
         s.sketchAt va (sketchSize kind) .atomic = .ok key → (s.weirAhead key).sketchCheck kind key = .ok tag →
         let on : List Nat := (List.range s.vl).filter fun i => Active s (m = 1) i
         pushes j op tag (on.map fun i => if tb = 0 then 0 else elemAt s b.toNat (tagWidth tb) i)
           (on.map fun i => if weighted then (if tw = 0 then 0 else elemAt s w.toNat (tagWidth tw) i) else 1)
     init (.skinitD t a) 1 0 ∧ init (.skinitH t a) 2 0 ∧ init (.skinitQ t a b) 3 (s.x b).toNat ∧
     adds (.skqadd m a b) 5 3 false ∧ adds (.skhadd m a b) 6 2 false ∧ adds (.skhaddW w m a b) 6 2 true ∧ adds (.skdadd m a b) 7 1 false ∧
     (∀ (kind tag src ks kd : Nat), s.sketchAt va 64 .load = .ok kd → s.mem.rd kd 1 = some kind → s.sketchAt (s.x b) 64 .load = .ok ks → s.mem.rd ks 1 = some kind →
       kind = 1 ∨ kind = 2 ∨ kind = 3 → s.sketchAt va (sketchSize kind) .atomic = .ok key → s.sketchAt (s.x b) (sketchSize kind) .load = .ok src →
       (s.weirAhead key).sketchCheck kind key = .ok tag → s.mem.sketchCheck kind src = .ok tag →
       key + sketchSize kind ≤ src ∨ src + sketchSize kind ≤ key → pushes (.skmerge a b) (10 + kind) src [] []) ∧
     ∀ (o : WeirOp), (o.kind = 1 ∨ o.kind = 2 ∨ o.kind = 3) → o.sketch % 64 = 0 → s.mem.wf = true →
       ∀ i, i < sketchSize o.kind → (cellGet (o.apply s.mem).spad (o.sketch + i)).toNat =
         if i = 0 then o.kind else if i = 1 then o.arg % 32 else if i = 2 then 1
         else if o.kind = 3 ∧ 16 ≤ i ∧ i < 24 then o.arg / 32 / 2 ^ (8 * (i - 16)) % 256 else 0) ∧
  (∀ (s : State) (d a b : Reg) (key : Nat), Quiet s → s.vstart = 0 →
     let mem : Mem := s.weirAhead key
     let gives (j : Instr) (kind tag : Nat) (v : Word) : Prop :=
       s.sketchAt (s.x a) (sketchSize kind) .load = .ok key → mem.sketchCheck kind key = .ok tag →
         ∃ u, exec j s = .next u ∧ Retired s u ∧ Wrote d v (7 + s.lateBy) s u ∧ u.mem = mem ∧ FlagsKept s u ∧
           u.h.vec = s.h.vec ∧ ∀ n, (u.core n).weir = (s.core n).weir.filter fun o => n ≠ key / spadSize ∨ o.sketch ≠ key
     let code (tag c : Nat) : Word := if tag = tS32 ∧ 2 ^ 31 ≤ orderDecode tag c then BitVec.ofInt 64 ((orderDecode tag c : Int) - 2 ^ 32) else BitVec.ofNat 64 (orderDecode tag c)
     (∀ (tag : Nat) (items : List (Nat × Nat)), mem.qSorted key = some items →
       gives (.skqq d a b) 3 tag (match qQuantile items ((s.x b).toNat % 2 ^ 32) with
         | some c => code tag c
         | none => 0)) ∧
     (∀ (tag : Nat) (es : List HEntry), mem.hAll key = some es →
       let pick (f : HEntry → Nat) : Word := match (sortBy hBefore es)[(s.x b).toNat]? with
         | some e => BitVec.ofNat 64 (f e)
         | none => 0
       gives (.skhtop d 0 a b) 2 tag (pick fun e => e.1) ∧ gives (.skhtop d 1 a b) 2 tag (pick fun e => e.2.1) ∧
         gives (.skhtop d 2 a b) 2 tag (pick fun e => e.2.2)) ∧
     (∀ tag v : Nat, mem.rd (key + 64) 4096 = some v →
       gives (.skdcnt d a) 1 tag (BitVec.ofNat 64 (dEstimate ((List.range 4096).map fun j => v / 2 ^ (8 * j) % 256)))) ∧
     ∀ (m : BitVec 1) (ta lo hi : Nat) (items : List (Nat × Nat)), let t : Nat := if ta = 0 then s.vtag else ta
       let w : Nat := tagWidth t
       let r : Rnd := ⟨s.h.csr.frm.toNat, s.h.csr.srseed⟩
       let x (i : Nat) : Nat := if ta = 0 then 0 else elemAt s d.toNat w i
       let writes (j : Instr) (tag : Nat) (rounds : Bool) (f : Nat → Nat × Flg) : Prop :=
         ∃ u, exec j s = .next u ∧ VecWrote s u d.toNat tag (m = 1) f ∧ u.h.csr.fflags = s.h.csr.fflags ||| vecFlags s (m = 1) f ∧ u.mem = mem ∧
           u.h.csr.srseed = (if rounds = true ∧ s.h.csr.frm = 5 ∧ s.vstart < s.vl then s.h.csr.srseed + BitVec.ofNat 64 (2 ^ 48) else s.h.csr.srseed) ∧
           Retired s u ∧ u.h.csr.vstart = 0 ∧ u.h.p = s.h.p ∧ (∀ n, (u.core n).weir = (s.core n).weir.filter fun o => n ≠ key / spadSize ∨ o.sketch ≠ key)
       VecReady s → t = tS32 ∨ t = tN32 ∨ t = tBF16 ∨ t = tF32 → Operand s d.toNat ta w → Destination s d.toNat w (m = 1) →
       s.sketchAt (s.x a) (sketchSize 3) .load = .ok key → mem.sketchCheck 3 key = .ok t → mem.qSorted key = some items →
       qQuantile items ((s.x b).toNat % 2 ^ 32) = some lo → qQuantile items ((s.x b).toNat / 2 ^ 32 % 2 ^ 32) = some hi →
         writes (.vclipq d m a b) t false (fun i => (let c : Nat := orderCode t (x i)
           if qNan t (x i) then x i else if c < min lo hi then orderDecode t (min lo hi) else if max lo hi < c then orderDecode t (max lo hi) else x i, 0)) ∧
         writes (.vscaleq d m a b) (if t = tBF16 then tBF16 else tF32) true (fun i =>
           let low : FVal := valOf t (orderDecode t lo)
           let n : FVal × Flg := FVal.add 0 (valOf t (x i)) low.neg
           let g : FVal × Flg := FVal.add 0 (valOf t (orderDecode t hi)) low.neg
           let q : FVal × Flg := FVal.div n.1 g.1
           let z : Nat × Flg := fRound (if t = tBF16 then tBF16 else tF32) r i q.1
           (z.1, (if tagFloat t then fSnanFlag t (x i) else 0) ||| n.2 ||| g.2 ||| q.2 ||| z.2)))

/-! ## Routes and collectives -/

/-- With no marked access outstanding, and where the source's checks pass and the gap and the reply store let it be injected: RLD, RST, RAMO, RCAS, RSTM and
SEND send one request and wait; when its reply comes with status OK, the instruction retires with its result. Inside an RLX window the first four retire at
once, where no outstanding marked request of the route register overlaps. RSTP is posted and retires at once. A misaligned offset raises MISALIGN and a malformed
route ROUTE_TAG, for the first four outside a window; a service request at user level raises PRIV. RREVOKE takes the next generation of its core's endpoint,
waits, and retires with it when the revocation completes; at user level it raises PRIV. RNARROW derives a route of a smaller window with fewer rights, sealed
under the same key; RTLD and RTST move the 32 bytes of a route between a route register and storage that they reach, and RTST of a route with DLG 0 raises
ROUTE_BOUNDS; RMOV copies a route register. -/
def Obligations.RouteResults : Prop :=
  (∀ (s : State) (d a : Reg) (t : BitVec 3) (q : BitVec 2) (z : BitVec 1), s.h.marked = [] → s.remoteMarked = 0 → s.h.mstat = none →
     let rt : RouteVal := s.rt t
     let va : Word := s.x a
     let n : Nat := 2 ^ q.toNat
     let passes (op off len : Nat) : Prop :=
       rt.malformed = false ∧ ¬ (rt.kind = 2 ∧ s.h.level = .user) ∧ (rt.kind = 1 ↔ op = 0x0A) ∧ off + len ≤ rt.len ∧
         rt.rights / opRight op % 2 = 1 ∧ (rt.eth = true → opEth op = true)
     let request (u : State) (op off len : Nat) (data : List Byte) (kind : ReqKind) (marked : Bool) : Prop :=
       ∃ (r : Req) (i : NetItem), u.c.reqs = s.c.reqs ++ [r] ∧ u.fab.net = s.fab.net ++ [i] ∧ i.pkt = r.pkt ∧ i.pos = .inject ∧ i.reply = false ∧
         i.src = coreEndpoint s.c.id ∧ r.slot = s.h.slot ∧ r.launch = s.h.launch ∧ r.rtreg = t ∧ r.kind = kind ∧ r.marked = marked ∧
         r.tier = (if rt.kind ≠ 1 ∧ rt.hc = 0 then .pkg else .dom) ∧ r.pkt.route = rt ∧ r.pkt.data = data ∧ r.pkt.op = op ∧ r.pkt.offset = off % 2 ^ 32 ∧
         r.pkt.len = len ∧ r.pkt.rtreg = t.toNat ∧ r.pkt.hslot = s.h.slot.toNat ∧ r.pkt.qtag = r.qtag.toNat ∧
         (op = 4 ∨ op = 5 → r.pkt.aseq = s.h.aseq.toNat ∧ u.h.aseq = s.h.aseq + 1) ∧ (op ≠ 4 → op ≠ 5 → u.h.aseq = s.h.aseq) ∧ u.mem = s.mem
     let retires (u : State) (ev : Nat → Instr) (rop : Nat) (rd : Reg) (res : List Byte → Word) : Prop :=
       s.h.launch ≠ 0 → s.h.core = s.c.id → (∀ r ∈ s.c.reqs, r.qtag.toNat % 2 ^ 15 ≠ s.c.qtag.toNat % 2 ^ 15) →
         ∀ i : NetItem, i.pos = .arrived → i.reply = true → i.pkt.op = rop → i.pkt.score = s.c.id → i.pkt.qtag % 2 ^ 15 = s.c.qtag.toNat % 2 ^ 15 →
           i.pkt.status = 0 → ∃ v, exec (ev u.fab.net.length) { u with fab := { u.fab with net := u.fab.net ++ [i] } } = .next v ∧ v.h.run = .ready ∧
             Retired s v ∧ Wrote rd (res i.pkt.data) 0 s v ∧ v.mem = s.mem
     let waits (j : Instr) (op off align aw len : Nat) (data : List Byte) (kind : ReqKind) (ev : Nat → Instr) (rop : Nat) (rd : Reg) (res : List Byte → Word) :
         Prop :=
       s.mayInject t = true → s.h.rlx = 0 → (rt.base + off) % align = 0 → passes op off aw →
         ∃ u, exec j s = .next u ∧ request u op off len data kind false ∧ u.h = { s.h with run := .memWait, aseq := u.h.aseq, gap := u.h.gap } ∧
           retires u ev rop rd res
     let marks (j : Instr) (op off align aw len : Nat) (data : List Byte) (kind : ReqKind) : Prop :=
       s.mayInject t = true → s.h.rlx ≠ 0 → (rt.base + off) % align = 0 → passes op off aw → s.markedOverlap t off aw = false →
         ∃ u, exec j s = .next u ∧ request u op off len data kind true ∧ Retired s u ∧ u.h.rlx = s.h.rlx - 1 ∧ u.h.p = s.h.p
     let both (j : Instr) (op align aw len : Nat) (data : List Byte) (kind : ReqKind) (ev : Nat → Instr) (rop : Nat) (rd : Reg) (res : List Byte → Word) : Prop :=
       waits j op va.toNat align aw len data kind ev rop rd res ∧ marks j op va.toNat align aw len data kind ∧
         (s.h.rlx = 0 → (rt.base + va.toNat) % align ≠ 0 → exec j s = .next (s.raise ⟨0x03, va⟩)) ∧
         (s.h.rlx = 0 → (rt.base + va.toNat) % align = 0 → rt.malformed = true → exec j s = .next (s.raise ⟨0x09, BitVec.ofNat 64 (va.toNat % 2 ^ 33 + 9 * 2 ^ 33 + t.toNat * 2 ^ 37 + 2 ^ 40)⟩))
     both (.rst d a t q) 2 n n n (bytesOf (s.x d).toNat n) .store .ackReply 0x21 0 (fun _ => 0) ∧
     (z = 0 ∨ q ≠ 3 → both (.rld d z a t q) 1 n n n [] (.load d n (z = 0)) .dataReply 0x20 d (fun b => extended (z = 0) n (dataNat b))) ∧
     (∀ (o : BitVec 4) (w : BitVec 1), ramoOp o w = true → (o = 10 → (s.x d).toNat < 2 ^ 32 ∧ va.toNat % 16 = 0) →
       let wid : Nat := if w = 1 then 8 else 4
       let mode : Nat := if o = 9 ∧ s.h.csr.frm.toNat ≠ 5 then s.h.csr.frm.toNat else 0
       both (.ramo d o a t w) 4 wid (if o.toNat < 10 then wid else if o = 10 then 16 else 64) 16
         (bytesOf (o.toNat + 2 ^ 8 * wid + 2 ^ 16 * mode + 2 ^ 64 * ((s.x d).toNat % 2 ^ (8 * wid))) 16) (if o = 9 then .load d wid false else .atomic d wid)
         .dataReply 0x20 d (fun b => extended (o ≠ 9) wid (dataNat b))) ∧
     (casPair d = true → both (.rcas d a t) 5 8 8 16 (bytesOf ((s.x d).toNat + 2 ^ 64 * (s.x (d + 1)).toNat) 16) (.cas d)
       .dataReply 0x20 d (fun b => BitVec.ofNat 64 (dataNat b))) ∧
     waits (.rstm d a t q) 0x0A va.toNat n n n (bytesOf (s.x d).toNat n) (.mstore d) .mackReply 0x23 d (fun b => BitVec.ofNat 64 (dataNat b)) ∧
     (s.mayInject t = true → s.h.rlx = 0 → (rt.base + va.toNat) % n = 0 → passes 3 va.toNat n →
       ∃ u, exec (.rstp d a t q) s = .next u ∧ request u 3 va.toNat n (bytesOf (s.x d).toNat n) .posted false ∧ Retired s u ∧ u.h.p = s.h.p ∧
         ∀ i : Fin 6, u.h.post.get i = s.h.post.get i + if i.val = (if rt.kind ≠ 1 ∧ rt.hc = 0 then Tier.pkg else Tier.dom).num then 1 else 0) ∧
     (∀ (k : BitVec 3) (l : Loc), s.h.rlx = 0 →
       (rt.kind ≠ 2 → s.check va 16 16 .load = .ok ⟨l, none⟩ → (s.readLoc l 16).isSome = true → Free s l 16 false →
         waits (.send d k a t) 6 (16 * k.toNat) 1 16 16 (bytesOf (bytesNat s l 16) 16) (.send d) .ackReply 0x21 d (fun _ => 0)) ∧
       (rt.kind = 2 → k = 0 → s.check va 64 64 .load = .ok ⟨l, none⟩ → (s.readLoc l 64).isSome = true → Free s l 64 false →
         waits (.send d k a t) 0x10 0 1 64 64 (bytesOf (bytesNat s l 64) 64) (.svc d (BitVec.ofNat 3 (bytesNat s l 64 / 2 ^ 8)))
           .dataReply 0x20 d (fun b => BitVec.ofNat 64 (dataNat b % 256))) ∧
       (rt.kind = 2 → rt.malformed = false → s.h.level = .user → exec (.send d k a t) s = .next (s.raise ⟨0x02, s.h.word.setWidth 64⟩))) ∧
     (s.h.level = .user → exec (.rrevoke d) s = .next (s.raise ⟨0x02, s.h.word.setWidth 64⟩)) ∧
     (s.h.level ≠ .user → s.h.core = s.c.id → ∃ u, exec (.rrevoke d) s = .next u ∧ u.h = { s.h with run := .memWait } ∧ u.mem = s.mem ∧
       u.fab.revs = s.fab.revs ++ [⟨.core s.c.id, s.c.ctr.ng, some (s.h.core, s.h.slot, s.h.launch, d)⟩] ∧
       (s.c.ctr.ng ≠ 0xFFFF → u.c.ctr.ng = s.c.ctr.ng + 1 ∧ u.c.ctr.l = s.c.ctr.l) ∧ (s.c.ctr.ng = 0xFFFF → u.c.ctr.ng = 0) ∧
       (s.h.launch ≠ 0 → ∃ v, exec (.revocationComplete s.fab.revs.length) u = .next v ∧ v.h.run = .ready ∧ Retired s v ∧
         Wrote d (s.c.ctr.ng.setWidth 64) 0 s v ∧ v.mem = s.mem))) ∧
  (∀ (s : State) (a : Reg) (t r : BitVec 3) (l : Loc),
     let old : RouteVal := s.rt r
     let others (u : State) : Prop := ∀ x, x ≠ t → u.rt x = s.rt x
     (∃ u, exec (.rmov t r) s = .next u ∧ u.rt t = old ∧ others u ∧ Retired s u ∧ u.mem = s.mem ∧ u.h.p = s.h.p ∧ FlagsKept s u) ∧
     (∀ (w : BitVec 4) (x : BitVec 1), let off : Nat := (s.x a).toNat % 2 ^ 32
       let len : Nat := if (s.x a).toNat / 2 ^ 32 = 0 then 2 ^ 32 else (s.x a).toNat / 2 ^ 32
       let slot : KeySlot := s.fab.slots.get ⟨old.kslot.toNat, old.kslot.isLt⟩
       old.malformed = false → slot.state = .current → sealTag slot.key old = old.w3 → old.kind = 0 → off + len ≤ old.len →
       w.toNat &&& old.rights = w.toNat → (old.tkind = 2 → off % 16 = 0 ∧ len % 16 = 0) →
         ∃ u new, exec (.rnarrow w x t a r) s = .next u ∧ u.rt t = new ∧ others u ∧ Retired s u ∧ u.mem = s.mem ∧ u.h.p = s.h.p ∧
           new.w0 = old.w0 ∧ new.base = (old.base + off) % 2 ^ 48 ∧ new.tunit = old.tunit ∧ new.tkind = old.tkind ∧ new.len = len ∧ new.rights = w.toNat ∧
           new.gen = old.gen ∧ new.kslot = old.kslot ∧ new.rcls = old.rcls ∧ new.dlg = (old.dlg && x == 1) ∧ new.w3 = sealTag slot.key new) ∧
     (Reaches s (s.x a) 32 .load l →
       ∃ u, exec (.rtld a t) s = .next u ∧ Retired s u ∧ u.mem = s.mem ∧ others u ∧ u.h.p = s.h.p ∧
         u.rt t = ⟨BitVec.ofNat 64 (bytesNat s l 8), BitVec.ofNat 64 (bytesNat s (l.plus 8) 8), BitVec.ofNat 64 (bytesNat s (l.plus 16) 8),
           BitVec.ofNat 64 (bytesNat s (l.plus 24) 8)⟩) ∧
     (Quiet s → (s.rt t).dlg = false → exec (.rtst a t) s = .next (s.raise ⟨0x0A, BitVec.ofNat 64 (8 * 2 ^ 33 + t.toNat * 2 ^ 37 + 2 ^ 40)⟩)) ∧
     (StorageWf s → Reaches s (s.x a) 32 .store l → (s.rt t).dlg = true →
       ∃ u, exec (.rtst a t) s = .next u ∧ Retired s u ∧ FullKept s u ∧ u.h.rt = s.h.rt ∧ u.h.p = s.h.p ∧
         Stored l 32 ((s.rt t).w0.toNat + 2 ^ 64 * (s.rt t).w1.toNat + 2 ^ 128 * (s.rt t).w2.toNat + 2 ^ 192 * (s.rt t).w3.toNat) s u))

/-- In a vector thread with nothing outstanding, on a communicator whose header stands readable in the scratchpad. COLLBEGIN, with no collective open, a well-formed
header and no posted access outstanding, opens the next collective and gives its sequence number. VSTXR, where the checks of every active element pass, sends each
one as a PUT to its member and counts its bytes. COLLEND, once its totals are committed, its packets acknowledged and the header's count at the target, ends the
collective; a reduction writes the folds of the members' contributions. COLLABORT of an open collective closes it and owes its members the abort; with none
open it has no effect. -/
def Obligations.CollectiveResults : Prop :=
  ∀ (s : State) (d a b : Reg) (m : BitVec 1) (core off : Nat), VecReady s → Quiet s → StorageWf s →
    let va : Word := s.x a
    let l : Loc := .spad core off
    let h : Nat := bytesNat s l 64
    let field (o n : Nat) : Nat := h / 2 ^ (8 * o) % 2 ^ (8 * n)
    let header (k : AccKind) : Prop := 0x800000000000 ≤ va.toNat ∧ s.check va 64 64 k = .ok ⟨l, none⟩ ∧ (s.readLoc l 64).isSome = true
    (s.h.coll = none →
      exec (.collabort a) s = .next (onward s) ∧
      (∀ (o : BitVec 2) (w : BankWords), header .atomic → hdrBad h = false → s.postedOpen 5 = false → (BankWords.of h).openColl ((s.x b).toNat % 2 ^ 32) = some w →
        ∃ u, exec (.collbegin d o a b) s = .next u ∧ Retired s u ∧ Wrote d (BitVec.ofNat 64 ((field 4 4 + 1) % 2 ^ 32)) 7 s u ∧ FullKept s u ∧
          u.h.coll = some ⟨va, core, off, BitVec.ofNat 32 ((field 4 4 + 1) % 2 ^ 32), o, [], false, false⟩ ∧ bytesNat u (l.plus 4) 4 = (field 4 4 + 1) % 2 ^ 32 ∧
          bytesNat u (l.plus 16) 4 = (s.x b).toNat % 2 ^ 32 ∧ ∀ x, (∀ k < 64, sameByte (l.plus k) x = false) → byteAt u x = byteAt s x)) ∧
    (∀ c : OpenColl, s.h.coll = some c → c.comm = va → c.aborted = false → s.vstart = 0 →
      (header .load → ∃ u, exec (.collabort a) s = .next u ∧ Retired s u ∧ u.h.coll = none ∧ u.mem = s.mem ∧
        u.c.aborts = s.c.aborts ++ [⟨s.h.slot, s.h.launch, c.core, c.off, c.seq, 0⟩]) ∧
      (∀ (ta tb : Nat) (l : List Scatter), let t : Nat := if ta = 0 then s.vtag else ta
        let w : Nat := tagWidth t
        let ix (i : Nat) : Nat := if tb = 0 then 0 else elemAt s b.toNat 64 i
        let on : List Nat := (List.range s.vl).filter fun i => Active s (m = 1) i
        8 ≤ w → t ≠ tSF4 → Operand s d.toNat ta w → tb = tS64 ∨ tb = tN64 ∨ tb = 0 → Operand s b.toNat tb 64 → (m = 1 → s.vl ≤ 8 * s.vlenb) → header .load →
        s.scatterChecks va c h w ix (fun i => if ta = 0 then 0 else elemAt s d.toNat w i) on = .ok l →
          ∃ u sent, exec (.vstxr d a b m) s = .next u ∧ Retired s u ∧ u.mem = s.mem ∧ u.h.csr.vstart = 0 ∧ u.c.reqs = s.c.reqs ++ sent ∧ sent.length = on.length ∧
            (∀ (k i : Nat) (r : Req), sent[k]? = some r → on[k]? = some i → r.kind = .collPut ∧ r.pkt.op = 7 ∧ r.pkt.offset = ix i % 2 ^ 48 % 2 ^ 32 ∧ r.pkt.len = w / 8 ∧
              r.pkt.sseq = c.seq.toNat ∧ r.pkt.data = bytesOf (if ta = 0 then 0 else elemAt s d.toNat w i) (w / 8)) ∧
            (∃ c', u.h.coll = some c' ∧ c' = { c with totals := c'.totals } ∧
              ∀ member, ((c'.totals.filter (·.1 == member)).map Prod.snd).sum = ((c.totals.filter (·.1 == member)).map Prod.snd).sum +
                w / 8 * (on.filter fun i => ix i / 2 ^ 48 == member).length)) ∧
      (s.collPackets s.h.slot s.h.launch = false → s.h.pstat = none → c.committed = true → c.totals = [] → header .atomic → c.core = core → c.off = off →
        field 8 1 ≠ 2 → field 16 4 ≤ field 20 4 →
        (c.op = 0 → ∃ u, exec (.collendExch a m) s = .next u ∧ Retired s u ∧ u.h.coll = none ∧ bytesNat u (l.plus 8) 1 = 0 ∧ u.h.vec.v = s.h.vec.v) ∧
        (∀ fs : List (Nat × Nat × Flg), let t : Nat := s.vtag
          let nm : Nat := field 0 2
          let base : Word := va - BitVec.ofNat 64 (field 48 8) + BitVec.ofNat 64 (field 32 8) + BitVec.ofNat 64 (c.seq.toNat % 2 * nm * field 40 4)
          let s1 : State := { s with mem := s.mem.putSpad (spadKey core off) 64 (h / 2 ^ 72 * 2 ^ 72 + h % 2 ^ 64) }
          c.op ≠ 0 → s.h.collStage ≠ 0 → t < 0x14 → t ≠ tSF4 → t ≠ 0 → 8 ≤ tagWidth t → Destination s d.toNat (tagWidth t) (m = 1) →
          s1.foldAll c.op.toNat t base (field 40 4) nm ((List.range s.vl).filter fun i => Active s (m = 1) i) = .ok fs →
            ∃ u, exec (.collend d c.op a m) s = .next u ∧ Retired s u ∧ u.h.coll = none ∧ bytesNat u (l.plus 8) 1 = 0 ∧
              VecWrote s u d.toNat t (m = 1) (fun i => ((fs.find? (·.1 == i)).map Prod.snd).getD (0, 0)))))

/-- The resets and bring-up (01_package.md R17 to R24): a package reset puts every register at its reset value and keeps the flash, the two reset inputs, what the
drives hold and the bytes of storage, which are undefined after a cold one; bring-up starts when neither input holds it back; each phase does its work and
BOOTSTAT.PHASE shows the next one; a failure stops it with its FAILCODE, and an overrun with 0x04. When no bring-up runs, its events change nothing. -/
def Obligations.BringUpResults : Prop :=
  ∀ s : State,
    (∃ t, exec .pwrgoodLow s = .next t ∧ Restarted true s t ∧ t.pkg.pwrgood = false ∧ t.pkg.perst = s.pkg.perst) ∧
    (s.pkg.pwrgood = true → ∃ t, exec .perstAssert s = .next t ∧ Restarted false s t ∧ t.pkg.pwrgood = true ∧ t.pkg.perst = true) ∧
    (s.pkg.pwrgood = false → exec .perstAssert s = .next { s with pkg := { s.pkg with perst := true } }) ∧
    (s.pkg.pwrgood = false → exec .pwrgoodRise s = .next { s with pkg := { s.pkg with
      pwrgood := true, booting := s.pkg.booting || !s.pkg.perst
      bootstat := if s.pkg.perst then s.pkg.bootstat else putBits s.pkg.bootstat 1 3 1 } }) ∧
    (s.pkg.perst = true → exec .perstDeassert s = .next { s with pkg := { s.pkg with
      perst := false, booting := s.pkg.booting || s.pkg.pwrgood
      bootstat := if s.pkg.pwrgood then putBits s.pkg.bootstat 1 3 1 else s.pkg.bootstat } }) ∧
    (∀ ok, InPhase s 1 → exec (.identityPhase ok) s = .next (if s.pkg.helper && ok
      then { s with
        fab := { s.fab with myId := identity, lead := identity }
        pkg := { s.pkg with bootstat := putBits s.pkg.bootstat 1 3 2 } }
      else Halted s 1 0x01)) ∧
    (InPhase s 2 → exec (.imagePhase false) s = .next (Halted s 2 0x03)) ∧
    (∀ g b, InPhase s 2 → Chosen s g b → exec (.imagePhase true) s = .next { s with pkg := { s.pkg with
      image := some g, imgLoaded := true, imgEnded := true
      bootstat := putBits (putBits (putBits s.pkg.bootstat 5 1 b) 6 1 b) 1 3 3 } }) ∧
    (InPhase s 2 → (∀ g b, ¬ Chosen s g b) → exec (.imagePhase true) s = .next (Halted s 2 0x02)) ∧
    (InPhase s 3 → exec (.diesPhase none) s = .next { s with
      mem := Mem.reset
      hst := { s.hst with keySerial := s.hst.keySerial.set (0 : Fin 64) s.hst.nextSerial, nextSerial := s.hst.nextSerial + 1 }
      pkg := { s.pkg with undefStore := false, bootstat := putBits s.pkg.bootstat 1 3 4 } }) ∧
    (∀ c : Byte, InPhase s 3 → (16 ≤ c.toNat ∧ c.toNat ≤ 23) ∨ (32 ≤ c.toNat ∧ c.toNat ≤ 41) ∨ c.toNat = 48 →
      exec (.diesPhase (some c)) s = .next (Halted s 3 c.toNat)) ∧
    (InPhase s 4 → ∃ t, exec (.firmwarePhase none) s = .next t ∧ t.h = s.h ∧ t.harts = s.harts ∧ t.mem = s.mem ∧
      t.pkg = { s.pkg with measured := true, bootstat := putBits s.pkg.bootstat 1 3 5 } ∧ t.c.mdeleg = monitorDeleg ∧ (∀ c ∈ t.cores, c.mdeleg = monitorDeleg) ∧
      ((∀ i, (s.fab.slots.get i).state = .empty) → t.fab.slots.get 0 = ⟨.current, Config.routeKey s.draws⟩)) ∧
    (∀ c : Byte, InPhase s 4 → c = 0x50 ∨ c = 0x51 → exec (.firmwarePhase (some c)) s = .next (Halted s 4 c.toNat)) ∧
    (∀ d, InPhase s 5 → exec (.storagePhase d) s = .next { s with
      sip := { s.sip with drives := d, ns := reported d, mdts := Vector.ofFn fun i => Config.mdts i }
      pkg := { s.pkg with bootstat := putBits (putBits s.pkg.bootstat 16 4 d.toNat) 1 3 6 } }) ∧
    (InPhase s 6 → exec .ready s = .next { s with pkg := { s.pkg with bootstat := putBits s.pkg.bootstat 0 1 1, booting := false } }) ∧
    (∀ n, 1 ≤ n → n ≤ 5 → InPhase s n → exec .phaseTimeout s = .next (Halted s n 0x04)) ∧
    (s.pkg.booting = false → ∀ ok d c, exec (.identityPhase ok) s = .next s ∧ exec (.imagePhase ok) s = .next s ∧
      exec (.diesPhase c) s = .next s ∧ exec (.firmwarePhase c) s = .next s ∧ exec (.storagePhase d) s = .next s ∧
      exec .ready s = .next s ∧ exec .phaseTimeout s = .next s)

/-- Configuration requests, the version counter, the management path and core reset (01_package.md R19, R21, R24; 05_host.md R134;
03_routes.md R76): within 100 ms of reset, and until the Image phase has ended, a request gets Configuration Request Retry Status; afterwards the
identifiers, total of virtual functions and capability of the signed image, with BOOTSTAT, the security version, the soft-error counts and the device
identity, or those of the recovery identity. -/
def Obligations.ManagementResults : Prop :=
  ∀ s : State,
    (s.pkg.pwrgood = true → s.pkg.perst = false → ∀ elapsed part off,
      (elapsed = false ∨ s.pkg.imgEnded = false → exec (.configRequest elapsed ⟨part, off⟩) s = .next { s with out := .cfgRetry :: s.out }) ∧
      (elapsed = true → s.pkg.imgEnded = true → s.pkg.imgLoaded = false → ∃ v,
        exec (.configRequest elapsed ⟨part, off⟩) s = .next { s with out := .cfgRecovery part off v :: s.out } ∧
        (part = .header → off = 0 → v = BitVec.ofNat 64 (0x0FFF * 2 ^ 16 + Config.horvin.toNat)) ∧ (part = .sriov → v = 0) ∧
        (part = .dvsec → off = 0x0C → v = s.pkg.bootstat.setWidth 64)) ∧
      (elapsed = true → s.pkg.imgEnded = true → s.pkg.imgLoaded = true → ∀ g, s.pkg.image = some g → ∃ v,
        exec (.configRequest elapsed ⟨part, off⟩) s = .next { s with out := .cfgSigned part off v :: s.out } ∧
        (part = .header → off = 0 → v = BitVec.ofNat 64 (g.device.toNat * 2 ^ 16 + g.vendor.toNat)) ∧
        (part = .sriov → off = 0x0C → v = BitVec.ofNat 64 (min 63 g.totalVfs * 2 ^ 16 + min 63 g.totalVfs)) ∧
        (part = .dvsec → (off = 0x08 → v = 1) ∧ (off = 0x0C → v = s.pkg.bootstat.setWidth 64) ∧ (off = 0x10 → v = BitVec.ofNat 64 (g.secver % 2 ^ 32)) ∧
          (off = 0x14 → v = s.pkg.corrected.setWidth 64) ∧ (off = 0x18 → v = s.pkg.uncorrected.setWidth 64) ∧
          (∀ k < 16, off = 0x20 + 4 * k → v = BitVec.ofNat 64 (s.fab.myId / 2 ^ (32 * k) % 2 ^ 32))))) ∧
    (∀ g, s.pkg.image = some g → s.pkg.bootstat.getLsbD 0 = true →
      exec .minVersionRaise s = .next { s with pkg := { s.pkg with minVersion := max s.pkg.minVersion g.secver } }) ∧
    (s.pkg.pwrgood = true →
      (∃ w, exec .pldmMonitor s = .next { s with
        draws := s.draws + 1
        out := .pldm s.pkg.bootstat s.pkg.corrected s.pkg.uncorrected s.pkg.temp.toList w :: s.out }) ∧
      ∀ img, exec (.pldmFirmwareUpdate false img) s = .next { s with pkg := { s.pkg with slotA := some img } } ∧
        exec (.pldmFirmwareUpdate true img) s = .next { s with pkg := { s.pkg with slotB := some img } }) ∧
    (∀ n : Nat, (∀ l ∈ s.hst.launches, n ∉ l.cores) → exec (.coreReset n) s = .next s) ∧
    (∀ (n : Nat) l, s.hst.launches.filter (fun l => l.cores.contains n) = [l] →
      ∃ t g, exec (.coreReset n) s = .next t ∧ (g, t) = s.revokeCore n l.id ∧
        ∀ o ∈ t.fab.opens, ¬ (o.1 = n ∧ o.2.1 = l.id))

/-- Power, temperature and soft errors (01_package.md R13, R15, R26 to R29): the governor's bubbles are added to the die's cores and change nothing else; a
droop on one die is a machine check on its cores, which raises MCHECK with storage 7 at monitor level in a hart of a launch of the core's enclave and retires it;
from 100 °C a die is marked to issue at half rate until it is below 95 °C; a trip, a droop on several dies and a firmware stop are FAULT; a corrected error is
counted, an uncorrectable one is counted and poisons the word or line it hit. In FAULT an event that FAULT shuts out changes nothing. -/
def Obligations.HealthResults : Prop :=
  ∀ s : State,
    (∀ die k, ∃ t, exec (.currentGovernorSample die k) s = .next t ∧ t.h = s.h ∧ t.harts = s.harts ∧ t.mem = s.mem ∧ t.pkg = s.pkg ∧
      ∀ n, t.core n = if die.toNat * 512 ≤ n ∧ n < die.toNat * 512 + 512 then { s.core n with bubbles := (s.core n).bubbles + k }
        else s.core n) ∧
    exec (.vcoreDroop 0) s = .next s ∧
    (∀ d : Fin 8, exec (.vcoreDroop (BitVec.ofNat 8 (2 ^ d.val))) s = .next (s.mcheckDie d.val) ∧
      ((∀ h ∈ s.allHarts, h.core / 512 ≠ d.val) → s.mcheckDie d.val = s) ∧
      (∀ l, s.harts = [] → s.h.launch ≠ 0 → s.h.run ≠ .retired → s.h.core / 512 = d.val → s.launch? s.h.launch = some l → l.encl = (s.core s.h.core).mencl →
        let t := s.mcheckDie d.val
        t.h.run = .retired ∧ t.h.level = .monitor ∧ t.h.csr.mcause = 0x15 ∧ t.h.csr.mtval = 7 ∧ t.h.csr.mepc = s.h.pc &&& 0x0000FFFFFFFFFFFC#64)) ∧
    (∀ m a b, a ≠ b → a < 8 → b < 8 → m.getLsbD a = true → m.getLsbD b = true → s.pkg.fault = false →
      ∃ t, exec (.vcoreDroop m) s = .next t ∧ Faulted s t 0x41) ∧
    (∀ die c, c < 115 → exec (.thermalSample die c) s = .next { s with pkg := { s.pkg with
      temp := s.pkg.temp.set (⟨die.toNat, die.isLt⟩ : Fin 8) c
      halved := if 100 ≤ c then s.pkg.halved ||| BitVec.ofNat 8 (2 ^ die.toNat)
        else if c < 95 then s.pkg.halved &&& ~~~BitVec.ofNat 8 (2 ^ die.toNat) else s.pkg.halved } }) ∧
    (∀ die c, 115 ≤ c → s.pkg.fault = false → ∃ t, exec (.thermalSample die c) s = .next t ∧ Faulted { s with pkg := { s.pkg with
      temp := s.pkg.temp.set (⟨die.toNat, die.isLt⟩ : Fin 8) c
      halved := s.pkg.halved ||| BitVec.ofNat 8 (2 ^ die.toNat) } } t 0x40) ∧
    (s.pkg.fault = false → ∃ t, exec .firmwareWatchdog s = .next t ∧ Faulted s t 0x42) ∧
    (∀ x, exec (.patrolScrub x .clean) s = .next s) ∧
    (∀ pa, pa < paLimit →
      exec (.patrolScrub (.line pa) .corrected) s = .next { s with pkg := { s.pkg with corrected := satInc s.pkg.corrected } } ∧
      exec (.patrolScrub (.line pa) .uncorrectable) s = .next { s with
        pkg := { s.pkg with uncorrected := satInc s.pkg.uncorrected }
        mem := { s.mem with hpoison := setIns s.mem.hpoison (lineOf pa) } }) ∧
    (∀ n off, n < 4096 → off < spadSize →
      exec (.patrolScrub (.spad n off) .uncorrectable) s = .next { s with
        pkg := { s.pkg with uncorrected := satInc s.pkg.uncorrected }
        mem := { s.mem with spoison := setIns s.mem.spoison (spadKey n off / 8) } }) ∧
    (s.pkg.fault = true → ∀ i, inFault i = false → i.isWord = false → ∀ r,
      step { s with sched := .event i :: r } = .next { s with sched := r })

/-- The states of a link (02_fabric.md R34, R35, R62, R64; 03_routes.md R82): a port is enabled after READY if the signed image enables it; training starts with
the port enabled and signal on its lanes; a trained link authenticates; a peer that the signed image accepts makes it UP with a new session whose
counters start anew, and the package reports its links; the third failure in a row is FAILED; a link that leaves UP ends its session, and what it held is
answered (02_fabric.md R41). A written peer entry takes its fields and starts over. -/
def Obligations.LinkStates : Prop :=
  ∀ s : State,
    (∀ (p : BitVec 4), let l := LinkRef.port p; let k := s.link l
      (∀ sig, exec (.linkEnable p sig) s = .next (if s.portEnabled p.toNat = true then s.setLink l { k with
        enabled := true
        state := if k.state = .down ∧ sig = true then .train else k.state } else s)) ∧
      exec (.signalDetect p) s = .next (s.setLink l { k with state := if k.enabled = true ∧ k.state = .down then .train else k.state }) ∧
      (k.state = .train → exec (.linkTrained p) s = .next (s.setLink l { k with state := .auth }) ∧
        exec (.trainTimeout p) s = .next (s.setLink l { k with state := .down, retryDue := true })) ∧
      (k.state ≠ .train → exec (.linkTrained p) s = .next s ∧ exec (.trainTimeout p) s = .next s) ∧
      (k.retryDue = true → ∀ sig, exec (.trainRetry p sig) s = .next (s.setLink l { k with
        retryDue := false
        state := if k.enabled = true ∧ k.state = .down ∧ sig = true then .train else k.state })) ∧
      (k.state = .up → exec (.linkSignalLoss p) s = .next (Severed s l)) ∧
      (k.state ≠ .up → exec (.linkSignalLoss p) s = .next s)) ∧
    (∀ l, let k := s.link l
      (k.state = .auth →
        let failed : Link := { k with attempts := k.attempts + 1, state := if k.attempts < 2 then .down else .failed }
        (∀ d (a : PeerAuth), let u : State := { s with draws := s.draws + 1, out := .linkAuth l (decide (s.fab.myId < d)) s.pkg.cert :: s.out }
          let accepted : Prop := d ≠ s.fab.myId ∧ a.chainOk = true ∧ a.keyOk = true ∧ ∃ g, s.pkg.image = some g ∧ g.minPeerVer ≤ a.secver ∧
            a.monitor ∈ g.peerDigests
          (accepted → exec (.authEstablished l d a) s = .next (u.setLink l { Link.reset with
            state := .up, sid := s.draws, enabled := k.enabled, peer := some d, far := (a.hop, a.second)
            slotok := if k.peer = none ∨ k.peer = some d then k.slotok else 0 }).reportMap) ∧
          (¬ accepted → exec (.authEstablished l d a) s = .next (u.setLink l failed))) ∧
        exec (.authFail l) s = .next (s.setLink l failed) ∧ exec (.authTimeout l) s = .next (s.setLink l failed)) ∧
      (k.state ≠ .auth → ∀ d a, exec (.authEstablished l d a) s = .next s) ∧
      (k.state = .up →
        exec (.linkHeartbeatTimeout l) s = .next (Severed s l) ∧
        exec (.linkHeartbeatSend l) s = .next { s.setLink l { k with beatDue := true } with out := .spdmHeartbeat l :: s.out } ∧
        (k.txOld = false → exec (.linkKeyUpdate l) s = .next (s.setLink l { k with txLast := true }))) ∧
      (k.state ≠ .up → exec (.linkHeartbeatTimeout l) s = .next s ∧ exec (.linkHeartbeatSend l) s = .next s ∧
        exec (.linkKeyUpdate l) s = .next s) ∧
      (let u := if k.state = .up then Severed s l else s.setLink l (SessionOver k);
        exec (.linkDisable l) s = .next (u.setLink l { u.link l with enabled := false })) ∧
      (k.state = .failed → exec (.linkReenable l) s = .next (s.setLink l { k with state := .down, attempts := 0 })) ∧
      (k.state ≠ .failed → exec (.linkReenable l) s = .next s)) ∧
    (∀ (e : BitVec 2) (i : BitVec 5) p, s.peer? e i = some p → s.ethEnabled e = true → p.entry.getLsbD 0 = true → p.link.state = .down →
      exec (.ethReauth e i) s = .next (s.setLink (.peer e i) { p.link with state := .auth })) ∧
    (∀ (e : BitVec 2) (i : BitVec 5) v, e ≠ 3 → ∃ t p, exec (.peerEntryWrite e i v) s = .next t ∧ t.peer? e i = some p ∧
      p.entry = v &&& peerMask ∧ p.link.enabled = v.getLsbD 0 ∧ p.link.state = (if v.getLsbD 0 && s.ethEnabled e then .auth else .down))

/-- Frames (02_fabric.md R37 to R40, R61, R64). A link in AUTH sends a session message in the clear. A link that is UP, with credit and room in its replay buffer, with
nothing to replay and no update of the key barred by frames of the key before, sends one frame: numbered, with its acknowledgement, credit and NAK, a control
frame when a heartbeat is due, else up to 29 beats of the packets queued, none of them lost, and those of one rate class in their order; the frame waits for its
acknowledgement. A frame that is to be replayed goes out again as it was. The next expected frame that verifies is taken, and the packets that its beats
complete stand at the switch, a control frame having none; another one is discarded with NAK, and the eighth in a row ends the session. An Ethernet frame brings
1 to 4 of them in order, duplicates discarded; its replay timeout replays all, or ends the session as the eighth failure. -/
def Obligations.FrameResults : Prop :=
  ∀ s : State,
    (∀ l, (s.link l).state = .auth → exec (.frameSend l) s = .next { s with out := .linkSpdm l :: s.out }) ∧
    (∀ l, let k := s.link l
      let last : Bool := k.txLast || decide (k.txSeq + 1 = 2 ^ 36)
      HasLink s l → k.state = .up → k.resend = 0 → k.replay.length < replaySize l → (k.sent - k.credit).toNat < 64 → (last = true → k.txOld = false) →
      ∃ f w t es, exec (.frameSend l) s = .next t ∧ t.out = .frame l f w :: s.out ∧ f.fseq = BitVec.ofNat 64 k.txSeq ∧ f.kph = k.txPh ∧
        (∀ a, k.rxLast = some a → f.akph = a.1 ∧ f.ackseq = BitVec.ofNat 64 a.2) ∧ f.credit = k.freed ∧ f.nak = k.nak ∧
        f.ctrl = k.beatDue ∧ f.lastk = last ∧ f.beats.length ≤ 29 ∧ (k.beatDue = true → f.beats = []) ∧
        (t.link l).replay = k.replay ++ [f] ∧ (t.link l).sent = k.sent + 1 ∧ (t.link l).nak = false ∧ (t.link l).beatDue = false ∧
        (t.link l).txSeq = (if last then 0 else k.txSeq + 1) ∧ (t.link l).txPh = (if last then !k.txPh else k.txPh) ∧
        f.beats ++ (t.link l).txBeats = k.txBeats ++ es.flatMap (fun e => packetBeats e.2) ∧
        (∀ c, (es ++ (t.link l).egress).filter (fun e => e.1 == c) = k.egress.filter fun e => e.1 == c) ∧
        t.h = s.h ∧ t.mem = s.mem) ∧
    (∀ l f, let k := s.link l
      k.state = .up → k.resend ≠ 0 → k.replay[k.replay.length - k.resend]? = some f →
      ∃ w, exec (.frameSend l) s = .next { s.setLink l { k.dueUpdate with resend := k.resend - 1 } with out := .frame l f w :: s.out }) ∧
    (∀ p f ok, let l := LinkRef.port p; let k := s.link l
      k.state = .up →
      (Expected k f ok → ∃ t ps, exec (.frameReceive p f ok) s = .next t ∧
        (ps, (t.link l).rxBeats) = takePackets 30 (k.rxBeats ++ if f.ctrl then [] else f.beats) ∧
        (t.link l).fails = 0 ∧ (t.link l).freed = k.freed + 1 ∧ (t.link l).credit = f.credit ∧
        (t.link l).rxLast = some (f.kph, f.fseq.toNat) ∧
        (t.link l).rxSeq = (if f.lastk then 0 else f.fseq.toNat + 1) ∧ (t.link l).rxPh = (if f.lastk then !f.kph else f.kph) ∧
        t.fab.net.map (fun i => (i.pkt, i.pos)) = s.fab.net.map (fun i => (i.pkt, i.pos)) ++ ps.map fun q => (q, .atSwitch (some l))) ∧
      (¬ Expected k f ok → exec (.frameReceive p f ok) s = .next (if k.fails < 7
        then s.setLink l { k with fails := k.fails + 1, nak := true } else Severed s l))) ∧
    (∀ p f ok, (s.link (.port p)).state ≠ .up → exec (.frameReceive p f ok) s = .next s) ∧
    (∀ (e : BitVec 2) (i : BitVec 5) fs, 1 ≤ fs.length → fs.length ≤ 4 → exec (.ethFrameReceive e i fs) s = .next (fs.foldl (fun s x =>
      if (s.link (.peer e i)).duplicate x.1 then s else s.frameArrive (.peer e i) x.1 x.2) s)) ∧
    (∀ (e : BitVec 2) (i : BitVec 5), let l := LinkRef.peer e i; let k := s.link l
      k.state = .up → exec (.ethReplayTimeout e i) s = .next (if k.fails < 7
        then s.setLink l { k with fails := k.fails + 1, resend := k.replay.length } else Severed s l))

/-- The torus (02_fabric.md R51, R53). In a router cycle every flit in flight and every flit just injected either stands at its router, moves to a neighbour, or is
ejected at its destination; none is lost or made up. Once in 8 router cycles every flit in flight ages by one, to at most 255. A request whose first flit finds 10
free request flits is admitted; another one is discarded, and one RETRY notice goes to its source, which waits 64 times a power of two of its cycles and injects
the same transmission again. -/
def Obligations.TorusResults : Prop :=
  ∀ s : State,
    (let due : Prop := s.fab.aged + 8 ≤ s.fab.rcycle
     let old := if due then s.fab.flits.map (fun f => { f with age := if f.age < 255 then f.age + 1 else 255 }) else s.fab.flits
     let aged := if due then s.fab.aged + 8 else s.fab.aged
     let q := injectAll old (retag s.fab.net) []
     let r := routeAll (ranked (old ++ q.2)) []
     exec .flitAge s = .next { s with fab := { s.fab with flits := old, aged := aged } } ∧
     exec .routerCycle s = .next { s with fab := { s.fab with
       flits := r.1, net := (r.2.foldl (fun n f => takeFlit f n) q.1).map NetItem.settle, rcycle := s.fab.rcycle + 1, aged := aged } } ∧
     r.1.length + r.2.length = s.fab.flits.length + q.2.length ∧
     (∀ f ∈ r.2, f ∈ old ++ q.2 ∧ f.x = f.dx ∧ f.y = f.dy ∧ f.shared = f.dep) ∧
     (∀ f ∈ r.1, ∃ g ∈ old ++ q.2, f = g ∨ ∃ o < 4, f =
       { g with x := (g.at_.next o).x, y := (g.at_.next o).y, shared := (g.at_.next o).shared, dir := o })) ∧
    (∀ k i, s.fab.net[k]? = some i → i.reply = false → i.admitted = false → i.got ≠ [] → i.pos = .torus ∨ i.pos = .inject →
      (10 * (s.fab.net.filter fun j => j.admitted && j.dst == i.dst).length ≤ 502 →
        exec (.requestAdmission k) s = .next (s.setNet k ({ i with admitted := true } : NetItem).settle)) ∧
      (502 < 10 * (s.fab.net.filter fun j => j.admitted && j.dst == i.dst).length →
        ∃ t n, exec (.requestAdmission k) s = .next t ∧ n.pkt = i.pkt.reply 0x31 0 i.pkt.hopidx [] ∧ n.pos = .inject ∧ n.reply = true ∧
          n.src = i.dst ∧ n.dst = i.src ∧ n.ofTag = i.ptag ∧
          t = { s with fab := { s.fab with net := s.fab.net.set k { i with pos := .refusedTorus, got := [] } ++ [n] } })) ∧
    (∀ k n, s.fab.net[k]? = some n → n.pos = .arrived ∨ n.pos = .atSwitch none → n.pkt.op = 0x31 →
      ∃ t, exec (.retry k) s = .next t ∧ t.mem = s.mem ∧ t.fab.net = (s.fab.net.map fun i =>
        if i.pos = .refusedTorus ∧ i.src = n.dst ∧ i.ptag = n.ofTag then { i with
          pos := .backoff (s.clockOf i + 64 * 2 ^ min i.retries 8)
          retries := i.retries + 1 }
        else i).eraseIdx k) ∧
    (∀ k i due, s.fab.net[k]? = some i → i.pos = .backoff due → due ≤ s.clockOf i →
      exec (.reinject k) s = .next (s.setNet k { i with
        pos := .inject, sent := 0, got := [], admitted := false, ptag := freePtag s.fab.net i.src 256 0 })) ∧
    (∀ k i due, s.fab.net[k]? = some i → i.pos = .backoff due → s.clockOf i < due → exec (.reinject k) s = .next s)

/-- The switch (02_fabric.md R47, R48, R60). A request whose tag or form is wrong, or whose hop is not open to it, is answered with an ERROR from here; a unicast one
at the end of its hop list is delivered on the torus; another one goes into the queue of the link that its hop names, with the next HOPIDX. A reply goes to its
source core when HOPIDX is 0; one that arrives from elsewhere than its hop is discarded and counted, and a RETRY from a link is discarded. The copies of a merge
that are not answered in time count as failed, and its MACK goes back. -/
def Obligations.SwitchResults : Prop :=
  ∀ s : State,
    (∀ k i pin, s.fab.net[k]? = some i → i.pos = .atSwitch pin → i.reply = false →
      let p := arrivedFrom i.pkt pin
      let r := p.route
      let u := s.dropNet k
      let refused (st : Nat) : State := u.replyStep (p.reply 0x22 st p.hopidx [])
      let formed : Bool := u.tagOk r && !p.malformed && !r.malformed && opRequest p.op
      (u.tagOk r = false → exec (.switchRequest k) s = .next (refused stTag)) ∧
      (u.tagOk r = true → p.malformed = true ∨ r.malformed = true ∨ opRequest p.op = false →
        exec (.switchRequest k) s = .next (refused stMalformed)) ∧
      (formed = true → r.kind = 1 → exec (.switchRequest k) s = .next (u.multicastStep p pin i.encl)) ∧
      (formed = true → r.kind ≠ 1 → p.hopidx = r.hc →
        exec (.switchRequest k) s = .next (u.putNet p false (routeEndpoint r).switchOf (routeEndpoint r) 0 i.encl)) ∧
      (formed = true → r.kind ≠ 1 → p.hopidx ≠ r.hc →
        let h := r.hop p.hopidx
        let l := LinkRef.port (BitVec.ofNat 4 h)
        let e := LinkRef.peer (BitVec.ofNat 2 (h - 16)) (BitVec.ofNat 5 (r.hop (p.hopidx + 1)))
        (19 ≤ h → exec (.switchRequest k) s = .next (refused stMalformed)) ∧
        (h < 16 → u.mayLeave l r = false → exec (.switchRequest k) s = .next (refused stUnreach)) ∧
        (h < 16 → u.mayLeave l r = true →
          exec (.switchRequest k) s = .next ((u.enqueue l (p.setHopidx (p.hopidx + 1))).mark l p)) ∧
        (16 ≤ h → h < 19 → r.hc ≤ p.hopidx + 1 → exec (.switchRequest k) s = .next (refused stMalformed)) ∧
        (16 ≤ h → h < 19 → p.hopidx + 1 < r.hc → opEth p.op = false ∨ u.mayLeave e r = false →
          exec (.switchRequest k) s = .next (refused stUnreach)) ∧
        (16 ≤ h → h < 19 → p.hopidx + 1 < r.hc → opEth p.op = true → u.mayLeave e r = true →
          exec (.switchRequest k) s = .next (u.enqueue e (p.setHopidx (p.hopidx + 2)))))) ∧
    (∀ k i, s.fab.net[k]? = some i → i.pos = .atSwitch none → i.reply = true → i.pkt.op ≠ 0x31 → i.pkt.hopidx = 0 →
      exec (.switchReply k) s = .next (if i.pkt.spkg = s.fab.pkgId.toNat
        then (s.dropNet k).putNet i.pkt true (coreEndpoint i.pkt.score).switchOf (coreEndpoint i.pkt.score) i.pkt.score 0
        else s.dropNet k)) ∧
    (∀ k i l, s.fab.net[k]? = some i → i.pos = .atSwitch (some l) → i.reply = true →
      (i.pkt.op = 0x31 → exec (.switchReply k) s = .next (s.dropNet k)) ∧
      (i.pkt.op ≠ 0x31 → replyFrom i.pkt l = false → exec (.switchReply k) s = .next { s.dropNet k with
        fab := { (s.dropNet k).fab with badReplies := s.fab.badReplies + 1 } }) ∧
      (i.pkt.op ≠ 0x31 → replyFrom i.pkt l = true → i.pkt.route.kind ≠ 1 → exec (.switchReply k) s = .next ((s.dropNet k).replyStep i.pkt))) ∧
    (∀ k m, s.fab.mcast[k]? = some m → exec (.multicastTimeout k) s =
      .next (({ s with fab := { s.fab with mcast := s.fab.mcast.eraseIdx k } } : State).replyStep (m.pkt.reply 0x23 0 m.pkt.hopidx
        (bytesOf (m.pending.foldl (fun b q => b ||| BitVec.ofNat 64 (leafBits m q)) m.bitmap).toNat 8)))) ∧
    (∀ k, s.fab.mcast[k]? = none → exec (.multicastTimeout k) s = .next s)

/-- A request at its target (03_routes.md R74, R75, R88 to R91; 07_core.md R198, R200; 18_isa_fabric.md R438, R440; 19_programs_fabric.md R454). A request that the
checks refuse is answered with its status, the form first, then the tag, and, but for an atomic, the rights and the bounds; one that passes is performed and
answered: a read with DATA, a write with ACK after every byte is written, either with POISON where it cannot be made, a strip's bytes at their ring entry, a
message in its mailbox or FULL, and an atomic once, its reply recorded for a retransmission, which is answered from the record. -/
def Obligations.TargetResults : Prop :=
  ∀ (s : State) (k : Nat) (i : NetItem), s.fab.net[k]? = some i → i.pos = .arrived → i.reply = false →
    let p := i.pkt
    let d := dataNat p.data
    (∀ st, s.targetCheck p = .error st → ∀ e, ServedBy e k p.op → exec e s = .next (s.answer k i (some (.error st)))) ∧
    (p.malformed = true ∨ p.route.malformed = true → s.targetCheck p = .error stMalformed) ∧
    (p.malformed = false → p.route.malformed = false → s.tagOk p.route = false → s.targetCheck p = .error stTag) ∧
    (p.malformed = false → p.route.malformed = false → s.tagOk p.route = true → p.op ≠ 4 →
      (opAllowed p = false ∨ p.route.rights / opRight p.op % 2 = 0 → s.targetCheck p = .error stRights) ∧
      (opAllowed p = true → p.route.rights / opRight p.op % 2 = 1 → p.route.len < p.offset + accessWidth p →
        s.targetCheck p = .error stBounds)) ∧
    (∀ l, s.targetCheck p = .ok (.at_ l) →
      (∀ e, (e = .loadRequest k ∧ p.op = 1) ∨ (e = .getRequest k ∧ p.op = 8) →
        (∀ v, s.readLoc l p.len = some v → exec e s = .next (s.answer k i (some ⟨0x20, 0, bytesOf v p.len⟩))) ∧
        (s.readLoc l p.len = none → exec e s = .next ((s.spoil l p.len).answer k i (some (.error stPoison))))) ∧
      (∀ e, (e = .storeRequest k ∧ p.op = 2) ∨ (e = .pstoreRequest k ∧ p.op = 3) ∨ (e = .putRequest k ∧ p.op = 7) ∨
          (e = .mstoreRequest k ∧ p.op = 10) →
        (∀ u, s.writeLoc l p.len d = some u →
          exec e s = .next ((if p.op = 2 then u.fillStored p.len l else u).answer k i (some .ack))) ∧
        (s.writeLoc l p.len d = none → exec e s = .next ((s.spoil l p.len).answer k i (some (.error stPoison))))) ∧
      (∀ e, (e = .atomicRequest k ∧ p.op = 4) ∨ (e = .casRequest k ∧ p.op = 5) →
        let hit := (s.replayOf p.route).find? fun r => r.keyOf p && decide (r.qtag.toNat = p.qtag % 2 ^ 15)
        (∀ r, p.qtag / 2 ^ 15 % 2 = 1 → hit = some r →
          exec e s = .next (s.answer k i (some (atomicAnswer r.status.toNat r.result)))) ∧
        (p.qtag / 2 ^ 15 % 2 = 1 → hit = none →
          exec e s = .next ((s.record p true stReplay 0).answer k i (some (.error stReplay)))) ∧
        (∀ r, p.qtag / 2 ^ 15 % 2 = 0 → hit = some r → r.tomb = true → exec e s = .next (s.answer k i none)) ∧
        (∀ v u, p.qtag / 2 ^ 15 % 2 = 0 → (∀ r, hit = some r → r.tomb = false) → s.performAtomic p l = .ok (v, u) →
          exec e s = .next ((u.record p false 0 v).answer k i (some ⟨0x20, 0, bytesOf v.toNat 8⟩))) ∧
        (∀ st, p.qtag / 2 ^ 15 % 2 = 0 → (∀ r, hit = some r → r.tomb = false) → s.performAtomic p l = .error st →
          exec e s = .next (((s.spoil l (accessWidth p)).record p false st 0).answer k i (some (.error st)))))) ∧
    (∀ n off q v, s.targetCheck p = .ok (.ring n off q) → p.op = 9 → s.readLoc (.spad n off) 64 = some v →
      ringMalformed v (shapeSpres q.words) = false →
      let j := p.sseq % ringNent v
      let at_ := ringState q.rbase v j
      ∀ w u t, s.readLoc (.spad n at_) 8 = some w → s.mem.isFull (spadKey n at_ / 8) = false →
        w % 2 ^ 32 = 0 ∨ w / 2 ^ 32 = p.sseq → p.offset + p.len ≤ ringEsz v →
        s.writeLoc (.spad n (ringEntry q.rbase v j + p.offset)) p.len d = some u →
        u.writeLoc (.spad n at_) 8 ((w % 2 ^ 32 + p.len) % 2 ^ 32 + 2 ^ 32 * p.sseq) = some t →
        exec (.strdataRequest k) s = .next
          ((if w % 2 ^ 32 + p.len = ringEsz v then t.setFull (spadKey n at_ / 8) else t).answer k i (some .ack))) ∧
    (∀ n slot id, s.targetCheck p = .ok (.box n slot id) → p.op = 6 →
      ((s.mail n slot id).length < 12 →
        exec (.sendRequest k) s = .next ((s.mailArrive n slot id (userMessage p.data)).answer k i (some .ack))) ∧
      (12 ≤ (s.mail n slot id).length →
        exec (.sendRequest k) s = .next ((s.putCore ((s.core n).count 0x11 1)).answer k i (some (.error stFull)))))

/-- A reply at its source core (02_fabric.md R45; 03_routes.md R79, R92, R95; 18_isa_fabric.md R437 to R444): the request is no longer
outstanding, and the hart that sent it gets its result, the trap of the refusal, or, for a posted access, one access fewer to wait for and
the first failing status held. A reply that no request awaits is discarded. Without a reply a request that
has left its source ends after 2^22 cycles with UNREACH, and an atomic is sent again at 1, 2 and 3 times 2^20. A BACKNOTE doubles the injection gap of its
route register, 4,096 quiet cycles halve it, and a packet held at its source goes out once it may. -/
def Obligations.ReplyResults : Prop :=
  ∀ s : State,
    (∀ k i e, s.fab.net[k]? = some i → i.pos = .arrived → i.reply = true →
      (e = .dataReply k ∧ i.pkt.op = 0x20) ∨ (e = .ackReply k ∧ i.pkt.op = 0x21) ∨ (e = .errorReply k ∧ i.pkt.op = 0x22) ∨
        (e = .mackReply k ∧ i.pkt.op = 0x23) →
      let n := i.pkt.score
      let u := s.dropNet k
      ((u.core n).reqOf i.pkt.qtag = none → exec e s = .next u) ∧
      (∀ r, (u.core n).reqOf i.pkt.qtag = some r → exec e s = .next (Ended (u.dropReq n r) n r i.pkt.status i.pkt.data))) ∧
    (∀ n q, (s.core n).reqOf q.toNat = none → exec (.requestTimeout n q) s = .next s) ∧
    (∀ n q r, (s.core n).reqOf q.toNat = some r → s.stillWaiting n r = false →
      (2 ^ 22 ≤ (s.core n).cycle.toNat - r.injected.toNat → r.injected.toNat ≤ (s.core n).cycle.toNat →
        exec (.requestTimeout n q) s = .next (Ended (s.dropReq n r) n r stUnreach [])) ∧
      ((s.core n).cycle.toNat - r.injected.toNat < 2 ^ 22 → r.injected.toNat ≤ (s.core n).cycle.toNat →
        exec (.requestTimeout n q) s = .next s)) ∧
    (∀ q r, s.c.reqOf q.toNat = some r → r.pkt.op = 4 ∨ r.pkt.op = 5 → r.retrans < 3 → r.injected.toNat ≤ s.c.cycle.toNat →
      (r.retrans + 1) * 2 ^ 20 ≤ s.c.cycle.toNat - r.injected.toNat →
      ∃ t, exec (.atomicRetransmit s.c.id q) s = .next t ∧ t.mem = s.mem ∧ t.h = s.h ∧
        t.c = { s.c with reqs := s.c.reqs.map fun u => if u.qtag = r.qtag then { u with retrans := u.retrans + 1 } else u } ∧
        ∃ m, t.fab.net = s.fab.net ++ [m] ∧ m.pos = .inject ∧ m.reply = false ∧ m.src = coreEndpoint s.c.id ∧
          m.pkt = { r.pkt with c5 := r.pkt.c5 ||| BitVec.ofNat 64 (2 ^ 47) }) ∧
    (∀ k i h, s.fab.net[k]? = some i → i.pos = .arrived → i.reply = true → i.pkt.op = 0x30 → s.c.id = i.pkt.score →
      s.c.reqOf i.pkt.qtag = none → s.holder i.pkt.score (BitVec.ofNat 3 i.pkt.hslot) = some h →
      let x : BitVec 3 := BitVec.ofNat 3 i.pkt.rtreg
      let g := if (h.gapOf x).changed = some s.c.cycle ∧ (h.gapOf x).halved = true then (h.gapOf x).before else (h.gapOf x).g
      ∃ n : Gap, n.g.toNat = (if g = 0 then 16 else min 65536 (2 * g.toNat)) ∧ n.quietFrom = s.c.cycle ∧
        exec (.backnote k) s = .next ((({ s.dropNet k with c := s.c.count 0x0D 1 } : State)).putHart (h.setGap x n))) ∧
    (∀ n slot x h, s.holder n slot = some h → (h.gapOf x).g ≠ 0 →
      (4096 ≤ ((s.core n).cycle - (h.gapOf x).quietFrom).toNat →
        ∃ g : Gap, g.g.toNat = (if (h.gapOf x).g.toNat < 32 then 0 else (h.gapOf x).g.toNat / 2) ∧ g.quietFrom = (h.gapOf x).quietFrom + 4096 ∧
          exec (.gapHalve n slot x) s = .next (s.putHart (h.setGap x g))) ∧
      (((s.core n).cycle - (h.gapOf x).quietFrom).toNat < 4096 → exec (.gapHalve n slot x) s = .next s)) ∧
    (∀ n slot x, (∀ i ∈ s.fab.net, s.heldPacket n slot x i = false) → exec (.injectionGapPassed n slot x) s = .next s) ∧
    (∀ slot x k i r, s.fab.net.findIdx? (s.heldPacket s.c.id slot x) = some k → s.fab.net[k]? = some i → s.c.reqOf i.pkt.qtag = some r →
      let u : State := { s with
        fab := { s.fab with net := s.fab.net.set k { i with pos := .inject, ptag := freePtag s.fab.net i.src 256 0 } }
        c := { s.c with reqs := s.c.reqs.map fun q => if q.qtag = r.qtag then { q with injected := s.c.cycle } else q } }
      exec (.injectionGapPassed s.c.id slot x) s = .next (if r.kind = .strip then u.chargeGap r.slot r.launch x else u))

/-- Route keys and domains (03_routes.md R71, R72, R75, R77, R78, R81, R83). INSTALL from the lead fills an EMPTY slot, which is PENDING, sets its L bit at every
counter and is acknowledged; ACTIVATE makes it CURRENT and the one before ACCEPT; RETIRE empties a slot. As lead, with an EMPTY slot and none PENDING, the
Wellhead draws a key, installs it everywhere and activates it when every member has acknowledged. A package of no domain follows the lowest device of those
connected; the lead's table gives the identifiers; the lowest remaining device follows a lead that departs and rotates the keys; the domain with the higher lead
dissolves. A hart that revoked goes on with its generation. -/
def Obligations.KeyResults : Prop :=
  ∀ s : State,
    (s.fab.pkgId = 0 ∨ s.fab.lead = s.fab.myId → ∀ k key,
      exec (.keyInstall k key) s = .next s ∧ exec (.keyActivate k) s = .next s ∧ exec (.keyRetire k) s = .next s) ∧
    (s.fab.pkgId ≠ 0 → s.fab.lead ≠ s.fab.myId → ∀ k : BitVec 4,
      (∀ key, (s.keySlot k).state = .empty → ∃ t, exec (.keyInstall k key) s = .next t ∧
        (∀ j, t.keySlot j = if j = k then ⟨.pending, key⟩ else s.keySlot j) ∧
        (∀ n, (t.core n).ctr = { (s.core n).ctr with l := (s.core n).ctr.l ||| slotBit k }) ∧
        (∀ i : Fin 8, (t.fab.stackCtr.get i).l = (s.fab.stackCtr.get i).l ||| slotBit k) ∧ t.fab.wellCtr.l = s.fab.wellCtr.l ||| slotBit k ∧
        (∀ p, (t.link (.port p)).slotok = (s.link (.port p)).slotok ||| slotBit k) ∧
        t.out = .wellheadMsg s.fab.lead 4 k.toNat 0 :: s.out) ∧
      (∀ key, (s.keySlot k).state ≠ .empty → exec (.keyInstall k key) s = .next (if (s.keySlot k).key = key
        then { s with out := .wellheadMsg s.fab.lead 4 k.toNat 0 :: s.out } else s)) ∧
      ((s.keySlot k).state = .pending → ∃ t, exec (.keyActivate k) s = .next t ∧
        ∀ j, t.keySlot j = if j = k then ⟨.current, (s.keySlot k).key⟩
          else if s.currentSlot.map Fin.val = some j.toNat then ⟨.accept, (s.keySlot j).key⟩ else s.keySlot j) ∧
      ((s.keySlot k).state ≠ .pending → exec (.keyActivate k) s = .next s) ∧
      ((s.keySlot k).state = .accept → ∃ t, exec (.keyRetire k) s = .next t ∧
        ∀ j, t.keySlot j = if j = k then ⟨.empty, 0⟩ else s.keySlot j) ∧
      ((s.keySlot k).state ≠ .accept → exec (.keyRetire k) s = .next s)) ∧
    (s.fab.lead ≠ s.fab.myId ∨ (s.slotIn .pending).isSome = true → exec .keyRotation s = .next s) ∧
    (∀ k, s.fab.lead = s.fab.myId → s.slotIn .pending = none → s.slotIn .empty = some k → ∃ t, exec .keyRotation s = .next t ∧
      t.draws = s.draws + 1 ∧ (∀ x, x ∈ t.fab.installWait ↔ x ∈ s.fab.installWait ∨ x.1 = k ∧ x.2 ∈ s.others) ∧ (t.keySlot k).key = Config.routeKey s.draws ∧
      ((∃ x ∈ t.fab.installWait, x.1 = k) → (t.keySlot k).state = .pending) ∧ ((∀ x ∈ t.fab.installWait, x.1 ≠ k) → (t.keySlot k).state = .current)) ∧
    (∀ src k, (k, src) ∉ s.fab.installWait → exec (.installAck src k) s = .next s) ∧
    (∀ src k, (k, src) ∈ s.fab.installWait → ∃ t, exec (.installAck src k) s = .next t ∧
      t.fab.installWait = s.fab.installWait.filter (fun x => x != (k, src)) ∧
      (t.keySlot k).key = (s.keySlot k).key ∧
      ((∃ x ∈ t.fab.installWait, x.1 = k) → t.fab.slots = s.fab.slots) ∧
      ((∀ x ∈ t.fab.installWait, x.1 ≠ k) → (s.keySlot k).state = .pending → (t.keySlot k).state = .current)) ∧
    (∀ c, c ∉ s.fab.wraps → exec (.wrapNotice c) s = .next s) ∧
    (∀ c, c ∈ s.fab.wraps → let u : State := { s with fab := { s.fab with wraps := s.fab.wraps.filter (fun x => x != c) } }
      (s.fab.lead ≠ s.fab.myId → exec (.wrapNotice c) s = .next { u with out := .wellheadMsg s.fab.lead 5 0 0 :: s.out }) ∧
      (s.fab.lead = s.fab.myId → s.slotIn .pending = none → exec (.wrapNotice c) s = exec .keyRotation u)) ∧
    (∀ k r, s.fab.revs[k]? = some r → let u : State := { s with fab := { s.fab with revs := s.fab.revs.eraseIdx k } }
      exec (.revocationComplete k) s = .next (match r.waiter with
        | none => u
        | some w => u.wakeWith w.1 w.2.1 w.2.2.1 w.2.2.2 (r.gen.setWidth 64))) ∧
    (∀ src pkg m, ∃ t, exec (.linkMap src ⟨pkg, m⟩) s = .next t ∧
      (∀ l, l ∈ t.fab.map ↔ (l ∈ s.fab.map ∧ l.src ≠ src) ∨ (l ∈ m ∧ l.src = src)) ∧
      (s.fab.pkgId = 0 → t.fab.lead ∈ t.members ∧ ∀ d ∈ t.members, t.fab.lead ≤ d) ∧ (s.fab.pkgId ≠ 0 → t.fab.lead = s.fab.lead) ∧
      (t.fab.lead ≠ s.fab.myId → t.out = .announce src pkg m :: s.out)) ∧
    (∀ lead table, (s.fab.lead < lead → exec (.idAssign lead table) s = .next s) ∧
      (¬ s.fab.lead < lead → ∃ t, exec (.idAssign lead table) s = .next t ∧ t.fab.lead = lead ∧ t.fab.table = table ∧ t.fab.pkgId = idOf table s.fab.myId ∧
        (s.fab.pkgId = 0 ∨ lead < s.fab.lead → ∀ k, t.keySlot k = ⟨.empty, 0⟩) ∧
        (s.fab.pkgId ≠ 0 → lead = s.fab.lead → t.fab.slots = s.fab.slots))) ∧
    (∀ d, s.fab.lead ≠ d ∨ d = s.fab.myId → exec (.leadDepart d) s = .next s) ∧
    (∀ d, s.fab.lead = d → d ≠ s.fab.myId →
      let u : State := { s with fab := { s.fab with
        map := s.fab.map.filter fun l => l.src != d && l.dst != d
        installWait := s.fab.installWait.filter fun x => x.2 != d } }
      let n := lowestDev u.members s.fab.myId
      let v : State := { u with fab := { u.fab with lead := n } }
      (n ≠ s.fab.myId → exec (.leadDepart d) s = .next v) ∧
      (n = s.fab.myId → s.slotIn .pending = none → exec (.leadDepart d) s = exec .keyRotation v) ∧
      (n = s.fab.myId → s.slotIn .pending ≠ none → ∃ t, exec (.leadDepart d) s = .next t ∧ t.fab.lead = n ∧ t.fab.table = s.fab.table)) ∧
    (∀ d, ¬ d < s.fab.lead → exec (.domainMerge d) s = .next s) ∧
    (∀ d, d < s.fab.lead → ∃ t, exec (.domainMerge d) s = .next t ∧ (∀ k, t.keySlot k = ⟨.empty, 0⟩) ∧ t.fab.pkgId = 0 ∧ t.fab.table = [] ∧
      t.fab.lead = d)

/-- Service requests (03_routes.md R79, R80, R84): after the endpoint's checks a request with a reserved field is answered BADREQ; a
window that the requester's enclave does not own DENIED; a path that does not exist NOPATH; without a CURRENT slot BUSY; a route that is
minted has the endpoint's generation and the CURRENT slot, sealed. REVOKE issues a new generation, OPENM marks the reservation, QUERY
gives the identifier and the slot, and MINTM asks every leaf and answers GENDIFF unless all confirm with one generation. -/
def Obligations.ServiceResults : Prop :=
  ∀ (s : State),
    (∀ (k : Nat) (i : NetItem), s.fab.net[k]? = some i → i.pos = .arrived → i.reply = false → i.pkt.op = 0x10 →
      let q := dataNat i.pkt.data
      let w := svcWindow q
      let said (u : State) (st v : Nat) : State := u.answer k i (some (svcAnswer st v))
      (∀ e, SvcEvent e k (svcSop q) →
        (∀ st, s.wellCheck i.pkt = some st → exec e s = .next (s.answer k i (some (.error st)))) ∧
        (s.wellCheck i.pkt = none → i.pkt.data.length ≠ 64 ∨ svcReserved q = true → exec e s = .next (said s 3 0))) ∧
      (s.wellCheck i.pkt = none → i.pkt.data.length = 64 → svcReserved q = false →
        (svcSop q = 1 →
          (w.targetBad = true → exec (.mint k) s = .next (said s 3 0)) ∧
          (svcEth q = true → svcRights q % 2 = 1 ∨ w.tkind = 3 ∨ w.tkind = 4 → exec (.mint k) s = .next (said s 3 0)) ∧
          (w.targetBad = false → (svcEth q = true → svcRights q % 2 = 0 ∧ w.tkind ≠ 3 ∧ w.tkind ≠ 4) →
            (s.owned i.encl w = none → exec (.mint k) s = .next (said s 1 0)) ∧
            (∀ o, s.owned i.encl w = some o →
              (s.pathFrom (BitVec.ofNat 16 (recField q 4 2)) (svcPath q) (svcEth q) = none → exec (.mint k) s = .next (said s 2 0)) ∧
              (∀ hops, s.pathFrom (BitVec.ofNat 16 (recField q 4 2)) (svcPath q) (svcEth q) = some hops →
                (s.currentSlot = none → exec (.mint k) s = .next (said s 5 0)) ∧
                (∀ c, s.currentSlot = some c → (s.counterOf o).l.getLsbD c.val = false → exec (.mint k) s = .next (said s 5 0)) ∧
                (∀ c, s.currentSlot = some c → (s.counterOf o).l.getLsbD c.val = true →
                  exec (.mint k) s = .next (said s 0 (s.sealUnder c ⟨hopWord hops, w.w1,
                    mintWord2 q (svcRights q) (svcDlg q) o.gen, 0⟩).toNat)))))) ∧
        (svcSop q = 3 → w.targetBad = false →
          (s.owned i.encl w = none → exec (.revoke k) s = .next (said s 1 0)) ∧
          (∀ n l g, s.owned i.encl w = some (.launch n l g) →
            exec (.revoke k) s = .next (said ((s.revokeCore n l.id).2.revoking ⟨.core n, (s.core n).ctr.ng, none⟩) 0 0)) ∧
          (∀ h, s.owned i.encl w = some (.hbm h) →
            exec (.revoke k) s = .next (said ((s.revokeHbm h).2.revoking ⟨.stack h.stack, (s.counterOf (.hbm h)).ng, none⟩) 0 0))) ∧
        (svcSop q = 4 → w.targetBad = false →
          (w.tkind ≠ 0 → exec (.openm k) s = .next (said s 1 0)) ∧
          (w.tkind = 0 → s.owned i.encl w = none → exec (.openm k) s = .next (said s 1 0)) ∧
          (∀ n l g, w.tkind = 0 → s.owned i.encl w = some (.launch n l g) → ∃ u : State, exec (.openm k) s = .next (said u 0 0) ∧
            (n, l.id, BitVec.ofNat 64 (recField q 32 8)) ∈ u.fab.opens ∧ ∀ o ∈ s.fab.opens, o ∈ u.fab.opens)) ∧
        (svcSop q = 5 →
          (s.currentSlot = none → exec (.query k) s = .next (said s 5 0)) ∧
          (∀ c, s.currentSlot = some c → exec (.query k) s = .next (said s 0 (s.fab.pkgId.toNat + 2 ^ 16 * c.val)))) ∧
        (svcSop q = 2 → let r := svcShape q
          (w.targetBad = true ∨ r.kind ≠ 1 ∨ r.malformed = true → exec (.mintm k) s = .next (said s 3 0)) ∧
          (w.targetBad = false → r.kind = 1 → r.malformed = false → r.tkind ≠ 0 → exec (.mintm k) s = .next (said s 1 0)) ∧
          (w.targetBad = false → r.kind = 1 → r.malformed = false → r.tkind = 0 → s.currentSlot = none →
            exec (.mintm k) s = .next (said s 5 0)) ∧
          (w.targetBad = false → r.kind = 1 → r.malformed = false → r.tkind = 0 → s.currentSlot ≠ none →
            (∀ d ∈ s.leafPackages r, d ≠ none) → s.leafPackages r ≠ [] →
            ∃ t, exec (.mintm k) s = .next t ∧
              t.out = ((s.leafPackages r).map fun d => OutMsg.wellheadMsg (d.getD 0) 6 (recField q 32 8) (recField q 8 8)).reverse ++ s.out ∧
              t.fab.mintms = s.fab.mintms ++ [⟨i, (s.leafPackages r).length, []⟩])))) ∧
    (∀ d g (n : BitVec 12) (b : BitVec 48),
      (s.reservationAt n.toNat b.toNat = none → exec (.leafConfirm d g n b) s = .next { s with out := .leafAnswer d false 0 :: s.out }) ∧
      (∀ l eg, s.reservationAt n.toNat b.toNat = some l → l.eg? n.toNat = some eg →
        exec (.leafConfirm d g n b) s = .next { s with
          out := .leafAnswer d (s.fab.opens.contains (n.toNat, l.id, g)) eg :: s.out })) ∧
    (∀ k leaf o eg m, s.fab.mintms[k]? = some m → leaf < m.leaves → (∀ a ∈ m.answers, a.1 ≠ leaf) →
      let u : State := { s with fab := { s.fab with mintms := s.fab.mintms.eraseIdx k } }
      let m' : PendingMintm := { m with answers := (leaf, o, eg) :: m.answers }
      let q := dataNat m.item.pkt.data
      (m'.answers.length < m.leaves → exec (.leafConfirmationReceived k leaf o eg) s =
        .next { u with fab := { u.fab with mintms := u.fab.mintms ++ [m'] } }) ∧
      (m.leaves ≤ m'.answers.length → (∃ a ∈ m'.answers, a.2.1 = false ∨ a.2.2 ≠ eg) →
        exec (.leafConfirmationReceived k leaf o eg) s = .next (u.answerLater m.item (svcAnswer 4 0))) ∧
      (∀ c, m.leaves ≤ m'.answers.length → (∀ a ∈ m'.answers, a.2.1 = true ∧ a.2.2 = eg) → s.currentSlot = some c →
        exec (.leafConfirmationReceived k leaf o eg) s = .next (u.answerLater m.item
          (svcAnswer 0 (s.sealUnder c { svcShape q with w2 := mintWord2 q 2 0 eg }).toNat))))

/-- The Siphon's service (04_storage.md R97, R98, R103 to R107, R111). A fault that cannot be served fails with its reason. One whose blocks
are free, whose drive answers and that no fault before it in the order of arrival could be served in place of marks its blocks busy; with a frame it
becomes Reads that the drive takes, without one it waits, its blocks busy. The last command of a transfer ends it: with its effect, or with the first
failure. A command that fails is issued once more unless the drive forbids it; after 2 s it fails with TIMEOUT, and the third timeout of a drive within
60 s resets its controller, which is failed 10 s later. A drive reaches only its port's share of the firmware region. -/
def Obligations.StorageService : Prop :=
  ∀ s : State,
    (∀ k, s.sip.faults[k]? = none → exec (.faultRecord k) s = .next s) ∧
    (∀ k f, s.sip.faults[k]? = some f →
      let n := classSpan (leafClass f.leaf)
      let gone : State := { s with sip := { s.sip with
        faults := s.sip.faults.eraseIdx k, busy := s.sip.busy.filter fun b => b.owner != f.seq } }
      (∀ st, s.unserviceable f = some st → exec (.faultRecord k) s = .next (gone.serviceFail f st 0 (leafClass f.leaf)
        (((s.slot? (leafDrive f.leaf) (leafSlot f.leaf)).map (fun t => t.base)).getD 0 + f.blk))) ∧
      (∀ t, s.unserviceable f = none → s.slot? (leafDrive f.leaf) (leafSlot f.leaf) = some t →
        let lba := t.base + f.blk
        let first : Prop := s.driveHeld t.drive = false ∧ s.isBusy t.drive t.nsid lba n = false ∧
          s.waitsBefore f.seq t.drive t.nsid lba n = false ∧ s.faultsInFlight none < 1024 ∧ s.faultsInFlight (some t.drive) < 256 ∧
          ∀ g ∈ s.sip.faults.take k, s.mayStart g = false
        let m : State := if f.marked then s else { s with sip := { s.sip with
          faults := s.sip.faults.set k { f with marked := true }, busy := s.sip.busy ++ [⟨t.drive, t.nsid, lba, n, f.seq⟩] } }
        let goes : Prop := if f.marked then s.driveHeld t.drive = false else first
        (¬ goes → exec (.faultRecord k) s = .next s) ∧
        (∀ u, goes → m.takeFrame f.encl (leafClass f.leaf) = (u, none) → exec (.faultRecord k) s = .next u) ∧
        (∀ u a, goes → m.takeFrame f.encl (leafClass f.leaf) = (u, some a) → ∃ v, exec (.faultRecord k) s = .next v ∧
          Issued { u with sip := { u.sip with faults := u.sip.faults.eraseIdx k } } v t.drive t.nsid lba n
            (.fault (if f.marked then f else { f with marked := true }) a (classSize (leafClass f.leaf))) f.seq))) ∧
    (∀ cid c, s.sip.cmds.find? (fun c => c.cid == cid) = some c →
      let left := s.sip.cmds.filter fun x => x.cid != cid
      let u (ok : Bool) : State := BlocksAfter { s with sip := { s.sip with cmds := left } } c ok
      let done (w : State) : State := match c.use with
        | .fault f a _ => w.readDone c f a
        | .write id _ => AnsweredAs w id
        | .trim id _ _ _ => AnsweredAs w id
        | .flush id => AnsweredAs w id
      let noted (ok : Bool) (b : Option (Byte × BitVec 16 × Nat)) : State := { u ok with sip := { (u ok).sip with
        cmds := left.map fun x => if x.xfer = c.xfer then { x with bad := b } else x } }
      let last : Prop := ∀ x ∈ left, x.xfer ≠ c.xfer
      (∀ x, (last → c.bad = none → exec (.nvmeCompletion cid 0 x) s = .next (done (u true))) ∧
        (∀ b, last → c.bad = some b → exec (.nvmeCompletion cid 0 x) s = .next ((u true).cmdFail c b.1 b.2.1 b.2.2)) ∧
        (¬ last → exec (.nvmeCompletion cid 0 x) s = .next (noted true c.bad))) ∧
      (∀ v, v ≠ 0 → c.retried = false → exec (.nvmeCompletion cid v false) s = .next { s with sip := { s.sip with
        cmds := s.sip.cmds.map fun x => if x.cid = cid then { x with retried := true, since := s.sip.cycle } else x } }) ∧
      (∀ v x, v ≠ 0 → x = true ∨ c.retried = true →
        let b := c.bad.getD (3, v, c.lba)
        (last → exec (.nvmeCompletion cid v x) s = .next ((u false).cmdFail c b.1 b.2.1 b.2.2)) ∧
        (¬ last → exec (.nvmeCompletion cid v x) s = .next (noted false (some b)))) ∧
      (s.sip.cycle < c.since + 2000000000 → exec (.nvmeTimeout cid c.drive) s = .next s) ∧
      (c.since + 2000000000 ≤ s.sip.cycle →
        let b := c.bad.getD (4, 0, c.lba)
        let w := if left.any (fun x => x.xfer == c.xfer) then noted false (some b) else (u false).cmdFail c b.1 b.2.1 b.2.2
        let mine := (c.drive, w.sip.cycle) :: w.sip.timeouts.filter fun t => t.1 == c.drive && decide (w.sip.cycle < t.2 + 60000000000)
        (mine.length < 3 → exec (.nvmeTimeout cid c.drive) s = .next { w with sip := { w.sip with
          timeouts := mine ++ w.sip.timeouts.filter fun t => t.1 != c.drive } }) ∧
        (3 ≤ mine.length → ∃ t, exec (.nvmeTimeout cid c.drive) s = .next t ∧ t.sip.resetting.getLsbD c.drive.toNat = true ∧
          ∀ x ∈ t.sip.cmds, x.drive ≠ c.drive))) ∧
    (∀ k b, s.sip.busy[k]? = some b →
      let used : Prop := (∃ c ∈ s.sip.cmds, c.xfer = b.owner) ∨ ∃ f ∈ s.sip.faults, f.marked = true ∧ f.seq = b.owner
      (used → exec (.busyRangeClear k) s = .next s) ∧
      (¬ used → exec (.busyRangeClear k) s = .next { s with sip := { s.sip with busy := s.sip.busy.eraseIdx k } })) ∧
    (∀ d, exec (.controllerReady d) s = .next { s with sip := { s.sip with resetting := s.sip.resetting &&& ~~~driveBit d } }) ∧
    (∀ d, let i : Fin 4 := ⟨BitVec.toNat d, d.isLt⟩
      (s.driveHeld d = false ∨ s.sip.cycle < s.sip.resetAt.get i + 10000000000 → exec (.controllerReadyTimeout d) s = .next s) ∧
      (s.driveHeld d = true → s.sip.resetAt.get i + 10000000000 ≤ s.sip.cycle → ∃ t, exec (.controllerReadyTimeout d) s = .next t ∧
        t.sip.resetting.getLsbD d.toNat = false ∧ t.sip.drives.getLsbD d.toNat = false ∧ t.pkg.bootstat.getLsbD (16 + d.toNat) = false ∧
        (∀ x ∈ t.sip.cmds, x.drive ≠ d))) ∧
    (∀ d pa v, let i : Fin 4 := ⟨BitVec.toNat d, d.isLt⟩
      (inFirmware pa = false ∨ Config.portShare d.toNat pa = false →
        exec (.driveInboundRequest d pa v) s = .next { s with
          sip := { s.sip with inboundRefused := s.sip.inboundRefused.set i (s.sip.inboundRefused.get i + 1) }
          out := .driveUr d :: s.out }) ∧
      (inFirmware pa = true → Config.portShare d.toNat pa = true →
        exec (.driveInboundRequest d pa none) s = .next { s with out := .driveRead d pa ((s.readHbm pa 1 0).map (BitVec.ofNat 8)) :: s.out } ∧
        ∀ b u, v = some b → s.writeLoc (.hbm pa 0) 1 b.toNat = some u → exec (.driveInboundRequest d pa v) s = .next u))

/-- The Siphon's commands (04_storage.md R108 to R110, R460). A command is answered once: with the first condition of R460 that it meets,
or after its effect. PREFETCH asks for its absent pages, WRITEBACK and TRIM and FLUSH use the drive, SLOTSET binds a slot, SLOTCLR clears
it when no block is busy, RESUME has the pool's tails read again; a held message enters its mailbox when there is room. -/
def Obligations.StorageCommands : Prop :=
  ∀ (s : State),
    (∀ (k : Nat) (q : SqCmd), s.sip.sq[k]? = some q → q.started = false → s.cmdFree q = true →
      (∀ e st, CommandEvent e k q.op → s.sqRefused q = some st → exec e s = .next (s.complete q st 0 0)) ∧
      (s.sqRefused q = none →
        (q.op = 2 → let rs := s.prefetchRecs q
          (rs = [] → exec (.prefetch k) s = .next (s.complete q 0 0 0)) ∧
          (rs ≠ [] → let u := s.putSq { q with started := true, pagesLeft := rs.length }
            exec (.prefetch k) s = .next { u with sip := rs.foldl Siphon.addFault u.sip })) ∧
        (∀ t, s.slot? q.drive q.slotIdx = some t →
          let lba := t.base + q.blk
          let open_ : Prop := s.isBusy q.drive t.nsid lba q.count = false ∧ s.waitsBefore q.id q.drive t.nsid lba q.count = false ∧ s.driveHeld q.drive = false
          (q.op = 1 → open_ →
            let g := gatherWb q t q.count 0 ⟨s, [], none⟩
            let q1 : SqCmd := { q with started := true, fail := g.stop }
            (g.blocks = [] → exec (.writeback k) s = .next (match g.stop with
              | none => g.st.complete q1 0 0 0
              | some f => g.st.complete q1 f.1 f.2.1 f.2.2)) ∧
            (g.blocks ≠ [] → ∃ v, exec (.writeback k) s = .next v ∧
              Issued ((g.st.putSq q1).markBusy q.drive t.nsid lba g.blocks.length q.id) v q.drive t.nsid lba g.blocks.length (.write q.id g.blocks) q.id)) ∧
          (q.op = 3 → open_ → exec (.trim k) s = .next
            (((s.putSq { q with started := true }).markBusy q.drive t.nsid lba q.count q.id).issueCmd q.drive t.nsid lba q.count
              (.trim q.id lba q.count t.nsid) q.id)) ∧
          (q.op = 1 → ¬ open_ → exec (.writeback k) s = .next s) ∧
          (q.op = 3 → ¬ open_ → exec (.trim k) s = .next s) ∧
          (q.op = 4 → s.driveHeld q.drive = false → exec (.flush k) s = .next
            ((s.putSq { q with started := true }).issueCmd q.drive t.nsid 0 0 (.flush q.id) q.id)) ∧
          (q.op = 4 → s.driveHeld q.drive = true → exec (.flush k) s = .next s) ∧
          (q.op = 6 → (∀ b ∈ s.sip.busy, t.meets b = false) → exec (.slotclr k) s =
            .next (({ s with sip := { s.sip with slots := s.sip.slots.erase t } } : State).complete q 0 0 0)) ∧
          (q.op = 6 → (∃ b ∈ s.sip.busy, t.meets b = true) → exec (.slotclr k) s = .next s)) ∧
        (q.op = 6 → s.slot? q.drive q.slotIdx = none → exec (.slotclr k) s = .next (s.complete q 0 0 0)) ∧
        (q.op = 5 → exec (.slotset k) s = .next (({ s with sip := { s.sip with
          slots := ⟨q.drive, q.slotIdx, q.encl, q.blk, q.va, q.nblk, q.flg.testBit 1⟩ ::
            s.sip.slots.filter fun u => !(u.drive == q.drive && u.idx == q.slotIdx) } } : State).complete q 0 0 0)) ∧
        (q.op = 7 → s.pool? q.encl = none → exec (.resume k) s = .next (s.complete q 0 0 0)) ∧
        (∀ p, q.op = 7 → s.pool? q.encl = some p → exec (.resume k) s = .next ((s.putPool { p with emptySent := 0 }).complete q 0 0 0)))) ∧
    (∀ k, s.hst.heldMsgs[k]? = none → exec (.siphonMessageDeliver k) s = .next s) ∧
    (∀ k m, s.hst.heldMsgs[k]? = some m →
      ((s.mail m.core m.slot m.launch).length < 16 → ∃ f ∈ s.hst.heldMsgs, f.core = m.core ∧ f.slot = m.slot ∧ f.launch = m.launch ∧
        exec (.siphonMessageDeliver k) s = .next (({ s with hst := { s.hst with heldMsgs := s.hst.heldMsgs.erase f } } : State).mailArrive
          m.core m.slot m.launch f.msg)) ∧
      (16 ≤ (s.mail m.core m.slot m.launch).length → exec (.siphonMessageDeliver k) s = .next s))

/-- The host's registers and rings (05_host.md R116 to R121, R128 to R131; 06_execution.md R152). A naturally aligned read is answered in every state. The ring registers are written in
CONFIG_UNLOCKED only, with their indexes zeroed; a write while locked is ERROR. TAIL and CPLHEAD are written in every state but ERROR. An
entry is checked in order: its function and reserved bytes, duplicates, the key limit, gaps, its tag; one that passes goes to the Sluice.
A completion goes to the slot at CPLTAIL while there is room, sealed under CSEQ and the key phase, and is signalled. -/
def Obligations.HostRings : Prop :=
  ∀ (s : State) (fn : BitVec 6), let f := s.func fn
    (s.vfOk fn = false → ∀ v off w x, exec (.tailWrite fn v) s = .next { s with out := .unsupported fn :: s.out } ∧
      exec (.cplheadWrite fn v) s = .next { s with out := .unsupported fn :: s.out } ∧
      exec (.ringConfigWrite fn off w x) s = .next { s with out := .unsupported fn :: s.out }) ∧
    (s.vfOk fn = true →
      (f.tstate = .error → ∀ v, exec (.tailWrite fn v) s = .next s ∧ exec (.cplheadWrite fn v) s = .next s) ∧
      (f.tstate ≠ .error → ∀ v,
        exec (.cplheadWrite fn v) s = .next (s.putFunc { f with cplhead := v }) ∧
        exec (.tailWrite fn v) s = .next (s.putFunc (if f.rst = 2 ∧ f.resumeOk = true
          then { f with tail := v, rst := 1, hcause := 0, resumeOk := false } else { f with tail := v }))) ∧
      (∀ x, f.tstate = .unlocked →
        exec (.ringConfigWrite fn 0x00 true x) s = .next (s.putFunc { f with ringbase := x, head := 0, tail := 0 }) ∧
        exec (.ringConfigWrite fn 0x08 true x) s = .next (s.putFunc { f with ringlog := x.setWidth 5, head := 0, tail := 0 }) ∧
        exec (.ringConfigWrite fn 0x10 true x) s = .next (s.putFunc { f with cplbase := x, cpltail := 0, cplhead := 0 }) ∧
        exec (.ringConfigWrite fn 0x18 true x) s = .next (s.putFunc { f with cpllog := x.setWidth 5, cpltail := 0, cplhead := 0 })) ∧
      (∀ (off : BitVec 14) x, off.toNat < 0x20 → off.toNat % 8 = 0 →
        (f.tstate = .locked ∨ f.tstate = .run → exec (.ringConfigWrite fn off true x) s = .next (s.toError f none true)) ∧
        (f.tstate = .error → exec (.ringConfigWrite fn off true x) s = .next s) ∧
        exec (.registerWrite fn off true x) s = exec (.ringConfigWrite fn off true x) s)) ∧
    (s.isReady = true → ∀ (q : Fin 32) (off : BitVec 14) x, off.toNat = 0x2000 + 8 * q.val →
      let v := BitVec.ofNat 11 (if x.toNat % 256 = 0 then x.toNat % 2048 + 1 else x.toNat % 2048)
      exec (.registerWrite 0 off true x) s = .next { s with hst := { s.hst with queues := s.hst.queues.set q v } }) ∧
    (s.vfOk fn = true → f.tstate = .locked ∨ f.tstate = .run →
      (∀ bar, let g := { f with bar := bar.getD f.bar }
        exec (.configSpaceChange ⟨fn, bar⟩) s =
          .next (({ s.putFunc g with draws := s.draws + 1 } : State).toError g none (!Config.msixOff s.draws))) ∧
      ∃ t, exec (.functionLevelReset fn) s = .next t ∧ (t.func fn).tstate = .error ∧ (t.func fn).rst = 2 ∧ (t.func fn).scrub = true ∧
        (t.func fn).ringbase = 0 ∧ (t.func fn).tail = 0 ∧ (t.func fn).head = 0 ∧ (t.func fn).cpltail = 0 ∧ (t.func fn).cplhead = 0) ∧
    (f.isLocked = true → exec (.ideError fn) s = .next (s.toError f none true)) ∧
    (f.isLocked = false → exec (.ideError fn) s = .next s) ∧
    (f.tstate = .run → exec (.dmaError fn) s = .next (s.toError f (some 4) true)) ∧
    (∀ e ok, f.fetches = false → exec (.ringEntry fn e ok) s = .next s) ∧
    (f.fetches = true →
      let u : State := { s with out := .ringFetch fn true f.entryAddr :: s.out }
      let right (e : RingEntry) : Prop := e.fn = f.fn.setWidth 16 ∧ e.rsvZero = true
      (∀ e ok, ¬ right e → exec (.ringEntry fn e ok) s = .next (u.toError f (some 5) true)) ∧
      (∀ e ok, right e → e.seq < f.eseq → ∃ n, exec (.ringEntry fn e ok) s = .next (u.putFunc { f with dupcnt := n, head := f.head + 1 }) ∧
        n.toNat = min (f.dupcnt.toNat + 1) (2 ^ 32 - 1)) ∧
      (∀ e ok, right e → f.eseq ≤ e.seq → f.eseq = 0x100000000#64 → exec (.ringEntry fn e ok) s =
        .next { u.putFunc { f with rst := 2, hcause := 3, resumeOk := false } with out := .msix f.fn 1 true :: u.out }) ∧
      (∀ e ok, right e → f.eseq ≠ 0x100000000#64 → f.eseq < e.seq → exec (.ringEntry fn e ok) s = .next (u.toError f (some 1) true)) ∧
      (∀ e, right e → f.eseq ≠ 0x100000000#64 → e.seq = f.eseq → exec (.ringEntry fn e false) s = .next (u.toError f (some 2) true)) ∧
      (∀ e, right e → f.eseq ≠ 0x100000000#64 → e.seq = f.eseq → ∃ t, exec (.ringEntry fn e true) s = .next t ∧
        t.func f.fn = { f with head := f.head + 1, eseq := f.eseq + 1 } ∧
        t.hst.inbox = s.hst.inbox ++ [⟨(List.range 8).map fun i => e.packet.getD i 0, f.encl, .ring f.fn e.seq, ⟨0, 0⟩, s.hst.cycle⟩])) ∧
    (f.held = [] → exec (.completionWrite fn) s = .next s) ∧
    (∀ b r, f.held = b :: r → f.tstate = .run → (f.cpltail - f.cplhead).toNat < 2 ^ f.cpllog.toNat → f.kphFlip = true ∨ f.cseq ≠ 0x100000000#64 →
      let g := if f.kphFlip then { f with cseq := 0, kph := !f.kph, kphFlip := false, rspKeys := f.rspKeys + 1 } else f
      let head : List Byte := bytesOf g.cseq.toNat 8 ++ [if g.kph then 1 else 0] ++ List.replicate 7 0
      let body : List Byte := bytesOf b.ctag.toNat 4 ++ bytesOf b.launch.toNat 4 ++ [b.lstat, b.cause] ++ List.replicate 6 0 ++
        bytesOf b.pseq.toNat 8 ++ List.replicate 8 0
      let nonce := Config.sessionIv g.sid true g.rspKeys ^^^ BitVec.ofNat 96 (0x02 * 2 ^ 88 + g.cseq.toNat)
      exec (.completionWrite fn) s = .next { s.putFunc { g with held := r, cpltail := f.cpltail + 1, cseq := g.cseq + 1 } with
        out := .msix fn 0 true :: .completion fn true (f.cplbase + BitVec.ofNat 64 (64 * (f.cpltail.toNat % 2 ^ f.cpllog.toNat)))
          (head ++ Config.gcmSeal (Config.sessionKey g.sid true g.rspKeys) nonce head body) :: s.out }) ∧
    (f.tstate ≠ .run ∨ 2 ^ f.cpllog.toNat ≤ (f.cpltail - f.cplhead).toNat ∨ (f.kphFlip = false ∧ f.cseq = 0x100000000#64) →
      exec (.completionWrite fn) s = .next s) ∧
    (∀ off wide sch, s.sched = .hostRead fn off wide :: sch → s.pkg.pwrgood = true → s.pkg.perst = false →
      let u (m : OutMsg) : State := { s with sched := sch, out := m :: s.out }
      (s.barOk fn = false ∨ off.toNat % (if wide then 8 else 4) ≠ 0 → step s = .next (u (.unsupported fn))) ∧
      (s.vfOk fn = true → ∀ v, (off.toNat, v) ∈ [(0x00, f.ringbase), (0x08, f.ringlog.setWidth 64), (0x10, f.cplbase), (0x18, f.cpllog.setWidth 64),
          (0x20, f.head ++ f.tail), (0x28, f.cplhead ++ f.cpltail), (0x30, f.dupcnt ++ f.rstat), (0x38, f.eseq), (0x40, f.encl.setWidth 64)] →
        step s = .next (u (.readValue fn off.toNat (if wide then v else (v.setWidth 32).setWidth 64)))))

/-- Interfaces and sessions (05_host.md R113, R114, R118 to R120, R122 to R126, R130, R131). LOCK binds a new enclave and a nonce, START
with the nonce runs the interface, STOP scrubs the enclave, and the answer to STOP waits for the scrub. What needs the
bound session is refused without it; a session is open until twice its HeartbeatPeriod has passed without a message; its end takes a locked
interface to ERROR; a key update starts the sequence numbers again. -/
def Obligations.InterfaceResults : Prop :=
  ∀ (s : State) (fn : BitVec 6), let f := s.func fn
    let said (m : OutMsg) : State := { s with out := m :: s.out }
    let h : Func := { f with heard := s.hst.cycle }
    let b : State := s.putFunc h
    let told (m : OutMsg) : State := { b with out := m :: s.out }
    let keep (g : Func) (m : OutMsg) : State := { b.putFunc g with out := m :: s.out }
    let w : State := s.endSession fn
    (∀ e, SessionEvent e fn → exec (e false) s = .next (said (.spdmError fn .unexpectedRequest))) ∧
    (∀ e, SessionEvent e fn → s.sessionOpen fn = false → exec (e true) s = .next (said (.spdmError fn .unexpectedRequest))) ∧
    (s.sessionOpen fn = true →
      exec (.getDeviceInterfaceState fn true) s = .next (told (.tdispState fn f.tstate)) ∧
      (f.isLocked = false → exec (.getDeviceInterfaceReport fn true) s = .next (told (.tdispError fn))) ∧
      (∀ e g, f.isLocked = true → s.enclave? f.encl = some e → s.pkg.image = some g → ∃ r : List Byte,
        exec (.getDeviceInterfaceReport fn true) s = .next (told (.report fn r)) ∧
        r.drop (r.length - 72) = [BitVec.ofNat 8 fn.toNat, 0, f.encl, BitVec.ofNat 8 e.keys.length] ++ bytesOf (2 ^ f.ringlog.toNat) 4 ++
          digestBytes (allMeasures g)) ∧
      (fn = 0 ∨ f.param = none ∨ f.lockable = false → exec (.lockInterfaceRequest fn true) s = .next (told (.tdispError fn))) ∧
      (∀ n key k0, fn ≠ 0 → f.param = some (n, key, k0) → f.lockable = true → s.usedKeys.length + n ≤ 63 → s.hst.enclaves.length < 255 →
        let c := b.createEnclave fn n key k0
        let x := Config.startNonce c.2.draws
        exec (.lockInterfaceRequest fn true) s = .next { ({ c.2 with draws := c.2.draws + 1 } : State).putFunc
          { h with tstate := .locked, encl := c.1, nonce := x, param := none } with out := .lockOk fn x :: c.2.out }) ∧
      (∀ x, f.tstate ≠ .locked → exec (.startInterfaceRequest fn true x) s = .next (told (.tdispError fn))) ∧
      (∀ x, f.tstate = .locked → x ≠ f.nonce → exec (.startInterfaceRequest fn true x) s =
        .next (((b.putFunc { h with tstate := .error, scrub := true }).scrub f.encl).emit (.tdispError fn))) ∧
      (f.tstate = .locked → exec (.startInterfaceRequest fn true f.nonce) s = .next (keep { h with
        tstate := .run, rst := 1, hcause := 0, resumeOk := false, eseq := if f.ranBefore then f.eseq else 0, ranBefore := true } (.tdispOk fn 2))) ∧
      (f.tstate = .unlocked → exec (.stopInterfaceRequest fn true) s = .next (told (.tdispError fn))) ∧
      (f.tstate = .locked ∨ f.tstate = .run → ∃ t, exec (.stopInterfaceRequest fn true) s = .next t ∧ (t.func fn).tstate = .unlocked ∧
        (t.func fn).rst = 0 ∧ (t.func fn).hcause = 0 ∧ (t.func fn).scrub = true ∧ (t.func fn).stopOwed = true) ∧
      (f.tstate = .error → exec (.stopInterfaceRequest fn true) s = .next { b.putFunc
        { h with tstate := .unlocked, rst := 0, hcause := 0, resumeOk := false, stopOwed := f.scrub } with
        out := if f.scrub then s.out else .tdispOk fn 3 :: s.out }) ∧
      (∀ k : StreamSet, k.link = false ∨ fn = 0 →
        (∀ key, exec (.keyProg fn true k key) s = .next (keep (h.mapKeySet k fun x => { x with key := some key }) (.ideAck fn 0))) ∧
        exec (.kSetGo fn true k) s = .next (keep (h.mapKeySet k fun x => { x with going := x.key.isSome }) (.ideAck fn 1)) ∧
        exec (.kSetStop fn true k) s = .next (keep (h.mapKeySet k fun x => { x with going := false }) (.ideAck fn 2))) ∧
      (∀ n key k0, fn ≠ 0 → f.tstate = .unlocked → 1 ≤ n → n ≤ 8 → exec (.enclParam fn true n key k0) s =
        .next (keep { h with param := some (n, key, k0) } (.spdmOk fn 6))) ∧
      (∀ n key k0, fn = 0 ∨ f.tstate ≠ .unlocked ∨ n = 0 ∨ 8 < n →
        exec (.enclParam fn true n key k0) s = .next (told (.spdmError fn .other))) ∧
      (∀ e, fn ≠ 0 → s.enclave? f.encl = some e → exec (.enclQuery fn true) s = .next (told (.enclInfo fn f.encl e.keys))) ∧
      (∀ x y, x = false ∨ f.head = f.tail ∨ (f.rst = 2 ∧ f.hcause = 3) → exec (.keyUpdate fn x y) s = .next (keep { h with
          eseq := if x then 0 else f.eseq
          dupcnt := if x then 0 else f.dupcnt
          reqKeys := if x then f.reqKeys + 1 else f.reqKeys
          resumeOk := if x then decide (f.tstate = .run ∧ f.rst = 2 ∧ f.hcause = 3) else f.resumeOk
          kphFlip := y || f.kphFlip } (.spdmOk fn 4))) ∧
      (∀ y, f.head ≠ f.tail → ¬ (f.rst = 2 ∧ f.hcause = 3) → exec (.keyUpdate fn true y) s = .next (told (.spdmError fn .busy))) ∧
      exec (.heartbeat fn true) s = .next (told (.spdmOk fn 3)) ∧
      exec (.heartbeat fn false) s = .next w ∧ exec (.sessionTimeout fn) s = .next s ∧
      exec (.endSession fn) s = .next { w with out := .spdmOk fn 2 :: w.out }) ∧
    (s.sessionOpen fn = false → exec (.sessionTimeout fn) s = .next w ∧ exec (.endSession fn) s = .next (said (.spdmError fn .other)) ∧
      (∀ v, exec (.heartbeat fn v) s = .next (said (.spdmError fn .other))) ∧
      (∀ x y, exec (.keyUpdate fn x y) s = .next (said (.spdmError fn .other)))) ∧
    (s.sessionOpen fn = true ↔ f.session = true ∧ s.hst.cycle ≤ f.heard + 2 * f.hb * 10 ^ 9) ∧
    (f.session = false → w = s) ∧
    (f.session = true → f.isLocked = false → w = s.putFunc { f with session := false }) ∧
    (f.session = true → f.isLocked = true → (w.func fn).session = false ∧ (w.func fn).tstate = .error ∧ (w.func fn).scrub = true ∧ (w.func fn).rst = 2 ∧
      (w.func fn).ks0 = ⟨none, false⟩ ∧ (w.func fn).ks1 = ⟨none, false⟩) ∧
    (∀ ok, s.fnOk fn = false ∨ ok = false ∨ s.sessionOpen fn = true → exec (.keyExchange fn ok) s = .next (said (.spdmError fn .other))) ∧
    (s.fnOk fn = true → s.sessionOpen fn = false → exec (.keyExchange fn true) s = .next { ({ w with draws := w.draws + 1 } : State).putFunc
      { w.func fn with
        session := true, ranBefore := false, kph := false, kphFlip := false, cseq := 0, dupcnt := 0, resumeOk := false, sid := w.draws, reqKeys := 0
        rspKeys := 0, hb := s.hbPeriod, heard := s.hst.cycle } with out := .keyExchangeRsp fn s.hbPeriod :: w.out }) ∧
    (f.scrub = true → s.slotsIdle f.encl = true → exec (.scrubComplete fn) s = .next
      (let u := (s.scrubEnd f.encl).putFunc { f with scrub := false, held := [], encl := 0, stopOwed := false }
       if f.stopOwed then { u with out := .tdispOk fn 3 :: u.out } else u)) ∧
    (f.scrub = false ∨ s.slotsIdle f.encl = false → exec (.scrubComplete fn) s = .next s) ∧
    (∀ (i : Byte) x raw, s.fnOk fn = true → s.measure fn i.toNat = some raw →
      exec (.getMeasurements fn i x) s = .next (said (.measurement fn i raw (if x then some (Config.sign raw) else none)))) ∧
    (∀ (i : Byte) x, s.fnOk fn = false ∨ s.measure fn i.toNat = none →
      exec (.getMeasurements fn i x) s = .next (said (.spdmError fn .other))) ∧
    (∀ c, exec (.getCertificate fn c) s = .next (said (if s.fnOk fn = true ∧ c = 0 then .certificate fn s.certChain else .spdmError fn .other))) ∧
    (∀ c : BitVec 256, exec (.challenge fn c) s = .next (said (if s.fnOk fn
      then .challengeAuth fn (Config.sign (digestBytes (bytesOf c.toNat 32 ++ s.certChain))) else .spdmError fn .other)))

/-- The Sluice and the monitor (05_host.md R133; 06_execution.md R136 to R141, R153, R154, R163, R164, R170, R171; 10_traps.md R288). A
packet that fails validation is answered with its status; another one joins its queue. The head of a queue is placed whole: its storage is
zeroed and every hart of it stands at the entry, seated. A launch that is swapped out gives up its seats, one that is resumed has them
again; a head that has waited 10^6 cycles may have others swapped out; a core that changes its enclave has that one; a launch all of whose
harts have ended, with nothing of it outstanding and no access of another to its block, completes. -/
def Obligations.SluiceResults : Prop :=
  ∀ s : State,
    (∀ k, s.hst.inbox[k]? = none → exec (.launchValidate k) s = .next s) ∧
    (∀ k q, s.hst.inbox[k]? = some q →
      let earlier := (s.hst.inbox.take k).any fun p => sameOrigin p.origin q.origin
      let u : State := { s with hst := { s.hst with inbox := s.hst.inbox.eraseIdx k } }
      let i : Fin 32 := ⟨fldN (pktWord q.words 5) 48 5, Nat.mod_lt _ (by decide)⟩
      (earlier = true ∨ s.pushReleased q = false → exec (.launchValidate k) s = .next s) ∧
      (earlier = false → s.pushReleased q = true →
        (badLaunch q.words (Origin.isRing q.origin) = true → exec (.launchValidate k) s = .next (u.deliverDone q.words q.origin 0 1 0 true)) ∧
        (badLaunch q.words (Origin.isRing q.origin) = false → u.deniedLaunch q = true →
          exec (.launchValidate k) s = .next (u.deliverDone q.words q.origin 0 2 0 true)) ∧
        (badLaunch q.words (Origin.isRing q.origin) = false → u.deniedLaunch q = false → exec (.launchValidate k) s =
          .next { u with hst := { u.hst with waiting := u.hst.waiting.set i (u.hst.waiting.get i ++ [{ q with since := s.hst.cycle }]) } }))) ∧
    (∀ n pl, s.headOf n = none → exec (.placeLaunch n pl) s = .next s) ∧
    (∀ n pl q, s.headOf n = some q →
      let p := s.headPrio n q
      let open_ : Prop := s.isReady = true ∧ s.placementOk q pl (fun _ => false) = true ∧ s.headFirst n p true = false ∧
        s.resumeFirst n p true = false ∧ s.blockedBy n p q = false
      (¬ open_ → exec (.placeLaunch n pl) s = .next s) ∧
      (open_ → ∃ t, exec (.placeLaunch n pl) s = .next t ∧
        t.hst.waiting.get ⟨n.toNat, n.isLt⟩ = (s.hst.waiting.get ⟨n.toNat, n.isLt⟩).tail ∧
        (∃ l ∈ t.hst.launches, l.id = s.freshId ∧ l.encl = q.encl ∧ l.words = q.words ∧ l.cores = placeCores q.words pl ∧ l.seated = true ∧
          l.rbase = pl.rbase ∧ l.firstSlot = pl.firstSlot ∧ l.endStat = none) ∧
        ∀ c ∈ placeCores q.words pl, ∀ j < shapeHarts q.words, ∃ h ∈ t.harts, h.launch = s.freshId ∧ h.core = c ∧
          h.slot = pl.firstSlot + BitVec.ofNat 3 j ∧ h.seated = true ∧ h.run = .ready ∧ h.level = .user ∧
          h.pc = BitVec.ofNat 64 (fldN (pktWord q.words 4) 0 48))) ∧
    (∀ id, s.launch? id = none → exec (.resumeLaunch id) s = .next s ∧ exec (.launchComplete id) s = .next s) ∧
    (∀ id l, s.launch? id = some l →
      let p := s.effPrio l.prio l.queue
      let open_ : Prop := s.canResume l = true ∧ s.headFirst l.queue p false = false ∧ s.resumeFirst l.queue p false = false
      let done_ : Prop := (∀ h ∈ s.hartsOf id, Hart.ended l h = true) ∧ s.launchDrained l = true ∧ s.blockBusy l = false
      (¬ open_ → exec (.resumeLaunch id) s = .next s) ∧
      (open_ → ∃ t, exec (.resumeLaunch id) s = .next t ∧ (∀ h ∈ t.allHarts, h.launch = id → h.seated = true) ∧
        t.hst.seatClock = s.hst.seatClock + 1) ∧
      (¬ done_ → exec (.launchComplete id) s = .next s) ∧
      (done_ → exec (.launchComplete id) s = .next ((s.dropLaunch l).deliverDone l.words l.origin l.id
        (l.endStat.map (fun e => e.1) |>.getD 0) (l.endStat.map (fun e => e.2) |>.getD 0) false))) ∧
    (∀ n pl vs q, s.headOf n = some q → s.hst.cycle < q.since + 10 ^ 6 → exec (.priorityPreempt n pl vs) s = .next s) ∧
    (∀ n pl vs q, s.headOf n = some q →
      let ls := s.hst.launches.filter fun l => vs.contains l.id
      let open_ : Prop := s.isReady = true ∧ s.victimsOk n q pl vs = true ∧ ∀ l ∈ ls, s.settled l = true
      (¬ open_ → exec (.priorityPreempt n pl vs) s = .next s) ∧
      (open_ → ∃ t, exec (.priorityPreempt n pl vs) s = .next t ∧
        ∀ h ∈ t.allHarts, (∃ l ∈ ls, l.id = h.launch) → h.seated = false ∧ (h.run = .swapped ∨ h.run = .retired))) ∧
    (∀ n e, let ls := (s.placedOn n).filter fun l => l.seated
      let open_ : Prop := (s.core n).mencl ≠ e ∧ s.enclave? e ≠ none ∧ s.enclaveWaits n e = true ∧ ∀ l ∈ ls, s.settled l = true
      (¬ open_ → exec (.enclaveSwitch n e) s = .next s) ∧
      (open_ → ∃ t, exec (.enclaveSwitch n e) s = .next t ∧ (t.core n).mencl = e)) ∧
    (∀ n, exec (.chargeDecay n) s = .next (s.putCore { s.core n with charge := (s.core n).charge.map fun x => x / 2 })) ∧
    (∀ n, ∃ t, exec (.chargeReport n) s = .next t ∧ (∀ q : Fin 32, t.hst.charge.get q = s.hst.charge.get q + (s.core n).unreported.get q ∧
      (t.core n).unreported.get q = 0)) ∧
    exec .sluiceChargeDecay s = .next { s with hst := { s.hst with charge := s.hst.charge.map fun x => x / 2 } }

/-- What runs beside the barrel, and the traps of a visit (06_execution.md R149, R151; 07_core.md R188, R195, R196, R203, R204;
10_traps.md R273, R275; 18_isa_fabric.md R450; 12_encoding.md R319). A free lane group goes to the first ready vector thread, whose oldest
queued instruction runs: one that has waited 2^14 cycles goes first, and the charge of a queue that gains its first ready thread does not
fall; a Weir unit works on the first operation of each of eight sketches, to its end or through its first elements; a copy command moves or
sends its next part; a qualifying interrupt and a deferred trap are taken at the hart's visit; a word of no row raises ILLEGAL. -/
def Obligations.EngineResults : Prop :=
  ∀ s : State,
    (∀ n (g : BitVec 2), let u := s.focusCore n
      let i : Fin 4 := ⟨g.toNat, g.isLt⟩
      let rs := u.allHarts.filter (u.stripReady n)
      let v := u.noteReady rs
      let ready := v.firstOf v.c rs
      (u.c.split ≤ g.toNat → exec (.stripEnd n g) s = .next u) ∧
      (g.toNat < u.c.split → ready = none → exec (.stripEnd n g) s = .next { v with c := { v.c with lane := v.c.lane.set i none } }) ∧
      (∀ h, g.toNat < u.c.split → ready = some h → exec (.stripEnd n g) s =
        .next (({ v with c := { v.c with
          lane := v.c.lane.set i (some h.slot)
          waits := v.c.waits.map fun w => if w.1 = h.slot then (w.1, v.c.cycle) else w } } : State).focusOn h).queueOne) ∧
      (∀ h g, ready = some g → h ∈ rs → 2 ^ 14 ≤ v.c.waited h → v.c.waited h ≤ v.c.waited g) ∧
      (∀ q : Fin 32, u.c.charge.get q ≤ v.c.charge.get q) ∧
      (∀ q : BitVec 5, u.sawQueue rs q ≠ [] → v.c.charge.get ⟨q.toNat, q.isLt⟩ = u.c.charge.get ⟨q.toNat, q.isLt⟩)) ∧
    (∀ n x, s.focusSlot n x = none → exec (.pumpRepetition n x) s = .next s ∧ ∀ k m, exec (.streamFetch n x k m) s = .next s) ∧
    (∀ n x u, s.focusSlot n x = some u →
      (u.h.run ≠ .swapped → u.h.run ≠ .memWait → u.h.deferred = none → exec (.pumpRepetition n x) s = .next (u.pumpRun 16)) ∧
      (u.h.run = .swapped ∨ u.h.run = .memWait ∨ u.h.deferred ≠ none → exec (.pumpRepetition n x) s = .next s) ∧
      (∀ (k : BitVec 3) m, let b := u.h.binding (24 + k.toNat)
        (b.kind ≠ 1 ∨ u.h.run = .swapped → exec (.streamFetch n x k m) s = .next s) ∧
        (b.kind = 1 → u.h.run ≠ .swapped →
          let at_ := b.pos.toNat + b.ahead.length
          let c := min (min m (b.room - b.ahead.length)) (b.len.toNat - at_)
          let f := u.fetchMany k.toNat b ((List.range c).map fun j => at_ + j)
          exec (.streamFetch n x k m) s = .next { f.1 with h := f.1.h.setBinding (24 + k.toNat) { b with ahead := b.ahead ++ f.2 } }))) ∧
    (∀ n, let u := s.focusCore n
      (u.c.copies.find? u.copyReady = none → exec (.copyPacket n) s = .next u) ∧
      (∀ k, u.c.copies.find? u.copyReady = some k →
        let v : State := { u with c := { u.c with copies := (u.c.copies.filter fun j => j.id != k.id) ++ [k] } }
        (k.malformed = true → exec (.copyPacket n) s = .next (v.settleCopy k.id)) ∧
        (k.malformed = false → k.allSent = false → exec (.copyPacket n) s = .next ((v.copyStep k).settleCopy k.id)) ∧
        (∀ off, k.malformed = false → k.allSent = true → k.syncRemote = some off →
          exec (.copyPacket n) s = .next ((v.copySync k off).settleCopy k.id)))) ∧
    (∀ n k, let q := (s.core n).weir
      ((s.core n).weirBusy k = none → exec (.weirApply ⟨n, k⟩) s = .next s) ∧
      (∀ o, (s.core n).weirBusy k = some o ↔
        q[k]? = some o ∧ (∀ p ∈ q.take k, p.sketch ≠ o.sketch) ∧ ((q.take k).map WeirOp.sketch).dedup.length < 8) ∧
      (∀ o, (s.core n).weirBusy k = some o → s.cutNow = none → ∃ t, exec (.weirApply ⟨n, k⟩) s = .next t ∧ t.mem = o.apply s.mem ∧
        (t.core n).weir = q.eraseIdx k) ∧
      (∀ o m, (s.core n).weirBusy k = some o → s.cutNow = some m → 5 ≤ o.kind → o.kind ≤ 7 → m < o.elems.length →
        (runSteps ((o.before m).steps s.mem) s.mem).2 = true → ∃ t, exec (.weirApply ⟨n, k⟩) s = .next t ∧ t.mem = (o.before m).apply s.mem ∧
        (t.core n).weir = q.set k (o.after m))) ∧
    (∀ n x id, let u := s.focusCore n
      (∀ k, u.c.aborts.find? (fun k => k.slot == x && k.launch == id) = some k → u.collPackets x id = false →
        let v : State := { u with c := { u.c with aborts := u.c.aborts.erase k } }
        (∀ w, v.readLoc (.spad k.core k.off) 64 = some w →
          exec (.collAbortSend n x id) s = .next (v.sendAborts k (hdrHoff w) (hdrNmem w - k.next) k.next)) ∧
        (v.readLoc (.spad k.core k.off) 64 = none → exec (.collAbortSend n x id) s = .next v)) ∧
      (∀ k, u.c.aborts.find? (fun k => k.slot == x && k.launch == id) = some k → u.collPackets x id = true →
        exec (.collAbortSend n x id) s = .next u) ∧
      (u.c.aborts.find? (fun k => k.slot == x && k.launch == id) = none → exec (.collAbortSend n x id) s = .next u)) ∧
    (∀ n x, exec (.timecmpReached n x) s = .next s ∧ (s.h.csr.timecmp.toNat ≤ s.c.cycle.toNat → s.sipBits.getLsbD 1 = true)) ∧
    (∀ n x u, (s.atCycle n).dueSlot = x → (s.atCycle n).governed = false → (s.atCycle n).focusSlot n x = some u → u.launchEnded = false →
      u.h.run ≠ .swapped → u.h.run ≠ .memWait → u.h.nextIssue ≤ u.c.cycle →
      (∀ t, u.undrained = false → u.h.deferred = none ∨ u.h.vec.pump.state = 1 → u.interruptNow = some t →
        exec (.interruptTake n x) s = .next ((u.unpark.drain.takeTrap t true false u.h.pc).tick)) ∧
      (u.interruptNow = none ∨ u.undrained = true → exec (.interruptTake n x) s = .next s) ∧
      (∀ t, u.h.vec.pump.state ≠ 1 → u.h.deferred = some t → let v : State := { u with h := { u.h with deferred := none } }
        exec (.deferredTrap n x) s = .next ((v.unpark.drain.takeTrap t false true v.h.pc).tick)) ∧
      (u.h.deferred = none → exec (.deferredTrap n x) s = .next s)) ∧
    (∀ n x, (s.atCycle n).dueSlot ≠ x ∨ (s.atCycle n).governed = true →
      exec (.interruptTake n x) s = .next s ∧ exec (.deferredTrap n x) s = .next s) ∧
    (∀ w, exec (.illegalWord w) s = .next (s.raise (s.trapWord causeIllegal)))

/-- A step runs the decoded instruction (07_core.md R173, R174; 08_memory.md R219; 12_encoding.md R314). With no turn chosen, the core in
focus is visited: when the hart whose slot is due is ready to issue, and the four bytes at its pc decode to a well-formed instruction, the
step is that instruction's outcome on the state at the issue, after which the visit ends and the core's cycle passes; a trap behind a queue of
vector instructions waits for it. A turn for another core, for an event of the package, or for a marked access does that instead; a word's
row is no event, in a reset only the inputs that end it and the management path act, and in FAULT most events are shut out. -/
def Obligations.StepRunsDecoded : Prop :=
  ∀ s : State,
    (∀ u hit w, s.sched = [] → Due s u → u.check u.h.pc 4 4 .fetch = .ok hit →
      (u.fill hit.fill).readLoc hit.loc 4 = some w → (decode (BitVec.ofNat 32 w)).wellFormed = true →
      u.h.vec.pump.state ≠ 1 → u.h.marked = [] → (∀ r ∈ u.c.reqs, r.marked = false) →
      let v := (u.fill hit.fill).countAccess 0x09
      let t0 := ({ v with h := { v.h with word := BitVec.ofNat 32 w } } : State).clearFm (decode (BitVec.ofNat 32 w))
      let t := if stripMajor (BitVec.ofNat 32 w) = true ∧ decode (BitVec.ofNat 32 w) ≠ .illegalWord (BitVec.ofNat 32 w) then t0.joins else t0
      step s = match exec (decode (BitVec.ofNat 32 w)) t with
        | .next z => .next (t.endVisit (t.drained z))
        | .fault f => .fault f
        | .refused r => .refused r) ∧
    (∀ t z : State, (t.endVisit z).h = z.h ∧ (t.endVisit z).harts = z.harts ∧ (t.endVisit z).mem = z.mem ∧
      (t.endVisit z).c.cycle = (z.focusCore t.c.id).c.cycle + 1) ∧
    (∀ t z : State, (t.undrained = false → t.drained z = z) ∧ (t.undrained = true → t.trapped z = true → t.drained z = t) ∧
      (t.trapped z = false → t.drained z = z)) ∧
    (s.sched = [] → step s = visit s.c.id s) ∧
    (∀ n r, s.sched = .visit n :: r → step s = visit n { s with sched := r }) ∧
    (∀ i r, s.sched = .event i :: r → i.isWord = false → s.admits i = true → step s = exec i { s with sched := r }) ∧
    (∀ i r, s.sched = .event i :: r → i.isWord = true ∨ s.admits i = false → step s = .next { s with sched := r }) ∧
    (∀ i, s.admits i = true ↔ isResetInput i = true ∨ (s.pkg.pwrgood = true ∧
      (isManagement i = true ∨ (s.pkg.perst = false ∧ (s.pkg.fault = false ∨ inFault i = true))))) ∧
    (∀ m r, s.sched = m :: r → m = .queued ∨ m = .fetchMiss ∨ (∃ n, m = .late n) ∨ (∃ n, m = .cut n) → step s = .next { s with sched := r }) ∧
    (∀ x k r, s.sched = .perform x k :: r → step s = .next (({ s with sched := r } : State).performTurn x k))

/-- Words written out from the encodings of 12_encoding.md R319 and the instruction chapters decode to the instructions that they stand
for. -/
def Obligations.DecodeWords : Prop :=
  decode 0x01450482#32 = .add 9 10 20 ∧ decode 0x0834E481#32 = .srai 9 9 3 ∧ decode 0x12345483#32 = .lui 9 0x12345 ∧
  decode 0x01073485#32 = .ld 9 14 16 ∧ decode 0x0090248C#32 = .csrrs 9 0 9 ∧ decode 0x0000000C#32 = .ecall ∧
  decode 0x2240500B#32 = .fence 5 0 0 1 ∧ decode 0x00C40211#32 = .vadd 4 0 8 12 0 ∧ decode 0x08941012#32 = .vcmplt 0 1 8 9 0

/-- The word of an operation decodes to the operation, with every field at every value that the operation accepts (12_encoding.md R314,
R319). -/
def Obligations.RoundTrip : Prop := ∀ i : Instr, Laws.RoundTrip.Statement i

/-- No word loses a bit in decoding: a word is the encoding of what it decodes to, so no two words decode to the same instruction
(12_encoding.md R314, R319). -/
def Obligations.EncodeDecode : Prop := ∀ w : IWord, encode (decode w) = w

/-- Every step keeps storage in its canonical form: the addresses of SRAM and HBM bytes, of full, poisoned and sealed units strictly
rising, and nothing listed that reads as an unlisted one does. The form is the model's own. -/
def Obligations.StorageKept : Prop := ∀ s t : State, StorageWf s → step s = .next t → StorageWf t

/-- The package right after reset (01_package.md R17, R22; 02_fabric.md R35; 03_routes.md R71; 05_host.md R116; 06_execution.md R152):
storage lists nothing and stands in its canonical form, BOOTSTAT is 0, every link is DOWN and every key slot EMPTY, every queue register
has WEIGHT 1, MAXPRIO 3 and EN 1, every function is unlocked with its ring stopped, no launch is placed, and no core holds an outstanding
request. -/
def Obligations.ResetState : Prop :=
  StorageWf State.reset ∧ State.reset.mem = ⟨[], [], [], [], [], [], [], [], []⟩ ∧ State.reset.pkg.bootstat = 0 ∧ State.reset.pkg.fault = false ∧
  (∀ p, (State.reset.link (.port p)).state = .down) ∧ (∀ k, State.reset.keySlot k = ⟨.empty, 0⟩) ∧
  (∀ q : Fin 32, State.reset.hst.queues.get q = BitVec.ofNat 11 (1 + 3 * 2 ^ 8 + 1 * 2 ^ 10)) ∧
  (∀ fn, (State.reset.func fn).tstate = .unlocked ∧ (State.reset.func fn).rst = 0 ∧ (State.reset.func fn).ringbase = 0) ∧
  State.reset.hst.launches = [] ∧ State.reset.allHarts = [] ∧
  ∀ n, (State.reset.core n).reqs = [] ∧ (State.reset.core n).copies = [] ∧ (State.reset.core n).tlb = []
end

