-- ==== Sys2Proof/Laws/State.lean ====
section
/-! SUPPORT. What the named updates of State leave as it was, one lemma per field and update, and what writing a scalar register does. -/

set_option Elab.async false

namespace Sys2Proof.Machine

open Sys2Proof.Safety

/-! ## Retiring -/

@[simp] theorem State.retireTo_pc (s : State) (pc : Word) : (s.retireTo pc).h.pc = pc := rfl
@[simp] theorem State.retireTo_instret (s : State) (pc : Word) : (s.retireTo pc).h.csr.instret = s.h.csr.instret + 1 := rfl
@[simp] theorem State.retireTo_p (s : State) (pc : Word) : (s.retireTo pc).h.p = s.h.p := rfl
@[simp] theorem State.retireTo_vec (s : State) (pc : Word) : (s.retireTo pc).h.vec = s.h.vec := rfl
@[simp] theorem State.retireTo_run (s : State) (pc : Word) : (s.retireTo pc).h.run = s.h.run := rfl
@[simp] theorem State.retireTo_level (s : State) (pc : Word) : (s.retireTo pc).h.level = s.h.level := rfl
@[simp] theorem State.retireTo_c (s : State) (pc : Word) : (s.retireTo pc).c = s.c := rfl
@[simp] theorem State.retireTo_mem (s : State) (pc : Word) : (s.retireTo pc).mem = s.mem := rfl
@[simp] theorem State.retireTo_pkg (s : State) (pc : Word) : (s.retireTo pc).pkg = s.pkg := rfl
@[simp] theorem State.retireTo_fab (s : State) (pc : Word) : (s.retireTo pc).fab = s.fab := rfl
@[simp] theorem State.retireTo_sip (s : State) (pc : Word) : (s.retireTo pc).sip = s.sip := rfl
@[simp] theorem State.retireTo_hst (s : State) (pc : Word) : (s.retireTo pc).hst = s.hst := rfl
@[simp] theorem State.retireTo_harts (s : State) (pc : Word) : (s.retireTo pc).harts = s.harts := rfl
@[simp] theorem State.retireTo_cores (s : State) (pc : Word) : (s.retireTo pc).cores = s.cores := rfl
@[simp] theorem State.retireTo_x (s : State) (pc : Word) (r : Reg) : (s.retireTo pc).x r = s.x r := rfl

/-! ## Scalar registers -/

/-- The number of a register within its bank. -/
abbrev regIdx (d : Reg) : Fin 16 := ⟨d.toNat % 16, Nat.mod_lt _ (by decide)⟩

/-- A write to p0 is discarded. -/
theorem State.setXLat_zero (s : State) {d : Reg} (v : Word) (lat : Nat) (h : d.toNat = 0) : s.setXLat d v lat = s := if_pos h

/-- A write to p1 to p15. -/
theorem State.setXLat_own (s : State) {d : Reg} (v : Word) (lat : Nat) (h : d.toNat ≠ 0) (h' : d.toNat < 16) :
    s.setXLat d v lat = { s with h := { s.h with p := s.h.p.set (regIdx d) v } } := (if_neg h).trans (if_pos h')

/-- A write to a core-shared register is pending until its cycle. -/
theorem State.setXLat_shared (s : State) {d : Reg} (v : Word) (lat : Nat) (h : ¬ d.toNat < 16) :
    s.setXLat d v lat =
      { s with c := { s.c with
          cpend := s.c.cpend ++ [⟨s.h.lslot, BitVec.ofNat 4 (regIdx d).val, v, s.c.cycle + BitVec.ofNat 64 lat, s.h.slot⟩] } } :=
  (if_neg (by omega)).trans (if_neg h)

/-- A scalar register with another value in a private register. -/
theorem State.x_set (s : State) (d r : Reg) (v : Word) (h : d.toNat ≠ 0) (h' : d.toNat < 16) :
    ({ s with h := { s.h with p := s.h.p.set (regIdx d) v } } : State).x r = if r = d ∧ r.toNat ≠ 0 ∧ r.toNat < 16 then v else s.x r := by
  have hrlt := r.isLt
  unfold State.x
  dsimp only
  by_cases hr : r.toNat < 16
  · by_cases hz : r.toNat = 0
    · rw [if_pos hr, if_pos hz, if_pos hr, if_pos hz, if_neg (fun c => c.2.1 hz)]
    · rw [if_pos hr, if_neg hz, if_pos hr, if_neg hz]
      by_cases e : r = d
      · subst e
        rw [if_pos ⟨rfl, hz, hr⟩]
        exact Vector.getElem_set_self _
      · rw [if_neg (fun c => e c.1)]
        exact Vector.getElem_set_ne _ _ (fun c => e (BitVec.eq_of_toNat_eq (by
          have c' : d.toNat % 16 = r.toNat % 16 := c
          omega)))
  · rw [if_neg hr, if_neg hr, if_neg (fun c => hr c.2.2)]
    rfl

/-- A scalar result: the register reads it, or discards it, or a core-shared write is pending. -/
theorem State.setXLat_wrote (s : State) (d : Reg) (v : Word) (lat : Nat) : Wrote d v lat s (s.setXLat d v lat) := by
  have hdlt := d.isLt
  by_cases h0 : d.toNat = 0
  · rw [State.setXLat_zero s v lat h0]
    refine ⟨fun r => (if_neg ?_).symm, by rw [if_neg (by omega), List.append_nil]⟩
    rintro ⟨rfl, h, -⟩
    exact h h0
  · by_cases h1 : d.toNat < 16
    · rw [State.setXLat_own s v lat h0 h1]
      exact ⟨fun r => State.x_set s d r v h0 h1, by rw [if_neg (by omega), List.append_nil]⟩
    · rw [State.setXLat_shared s v lat h1]
      refine ⟨fun r => (if_neg ?_).symm, ?_⟩
      · rintro ⟨rfl, -, h⟩
        exact h1 h
      · rw [if_pos (by omega)]
        have e : BitVec.ofNat 4 (regIdx d).val = BitVec.ofNat 4 d.toNat :=
          BitVec.eq_of_toNat_eq (by simp only [BitVec.toNat_ofNat]; omega)
        rw [← e]

/-- A scalar result changes p0 to p15 and the pending core-shared writes only. -/
theorem State.setXLat_same (s : State) (d : Reg) (v : Word) (lat : Nat) :
    s.setXLat d v lat = { s with
      h := { s.h with p := (s.setXLat d v lat).h.p }
      c := { s.c with cpend := (s.setXLat d v lat).c.cpend } } := by
  by_cases h0 : d.toNat = 0
  · rw [State.setXLat_zero s v lat h0]
  · by_cases h1 : d.toNat < 16
    · rw [State.setXLat_own s v lat h0 h1]
    · rw [State.setXLat_shared s v lat h1]

@[simp] theorem State.setXLat_mem (s : State) (d : Reg) (v : Word) (lat : Nat) : (s.setXLat d v lat).mem = s.mem := by
  rw [State.setXLat_same]
@[simp] theorem State.setX_mem (s : State) (d : Reg) (v : Word) : (s.setX d v).mem = s.mem := s.setXLat_mem d v 7

/-- An instruction that writes one scalar register, retires and changes nothing else computes its result. -/
theorem computes_of {i : Instr} {d : Reg} {v : Word} {lat : Nat} {s u : State} (h : exec i s = .next u.retire) (w : Wrote d v lat s u)
    (e : u = { s with h := { s.h with p := u.h.p, nextIssue := u.h.nextIssue, onReply := u.h.onReply }, c := { s.c with cpend := u.c.cpend } })
    (n : Paced lat s u) : Computes i d v lat s := by
  have n' : Paced lat s u.retire := n
  have q : u.retire = { s with
      h := { s.h with
        pc := u.retire.h.pc, p := u.retire.h.p, nextIssue := u.retire.h.nextIssue, onReply := u.retire.h.onReply
        csr := { s.h.csr with instret := u.retire.h.csr.instret, fflags := u.retire.h.csr.fflags, srseed := u.retire.h.csr.srseed } }
      c := { s.c with cpend := u.retire.c.cpend } } := by
    unfold State.retire State.retireTo
    rw [e]
  exact ⟨_, h, ⟨by rw [e]; rfl, by rw [e]; rfl⟩, ⟨w.1, w.2⟩, q, ⟨by rw [e]; rfl, by rw [e]; rfl⟩, n'⟩

/-- An instruction whose only effect is a scalar result computes it. -/
theorem computes_alu {i : Instr} {d : Reg} {v : Word} {s : State} (h : exec i s = aluResult d v s) : Computes i d v 7 s :=
  computes_of (u := s.setXLat d v 7) h (s.setXLat_wrote d v 7)
    (by rw [State.setXLat_same]) (by rw [State.setXLat_same, Paced, if_pos rfl]; exact ⟨rfl, rfl⟩)

/-- An instruction whose scalar result comes late computes it. -/
theorem computes_slow {i : Instr} {d : Reg} {v : Word} {lat : Nat} {s : State} (hl : lat ≠ 7) (h : exec i s = slowResult d v lat s) :
    Computes i d v lat s := by
  refine computes_of (u := (s.setXLat d v lat).busyFor (lat + 1)) h ?_ ?_ ?_
  · have w := s.setXLat_wrote d v lat
    exact ⟨w.1, w.2⟩
  · unfold State.busyFor
    rw [State.setXLat_same]
  · unfold State.busyFor
    rw [State.setXLat_same, Paced, if_neg hl]
    exact ⟨rfl, rfl⟩

end Sys2Proof.Machine
end

