-- ==== Sys2Proof/Laws/Mem.lean ====
section
/-! SUPPORT. The canonical lists of storage: reading after writing, and that every write keeps the form. -/

set_option Elab.async false

namespace Sys2Proof.Machine

/-! ## Cells -/

theorem cellsWf_cons (k : Nat) (v : Byte) (r : List Host.Cell) :
    cellsWf ((k, v) :: r) = true ↔ v ≠ 0 ∧ (∀ p ∈ r, k < p.1) ∧ cellsWf r = true := by
  induction r generalizing k v with
  | nil => simp [cellsWf]
  | cons c r ih =>
    obtain ⟨k', v'⟩ := c
    have e : cellsWf ((k, v) :: (k', v') :: r) = (v != 0 && decide (k < k') && cellsWf ((k', v') :: r)) := rfl
    rw [e]
    simp only [Bool.and_eq_true, decide_eq_true_eq, bne_iff_ne, ne_eq]
    constructor
    · rintro ⟨⟨h1, h2⟩, h3⟩
      refine ⟨h1, fun p hp => ?_, h3⟩
      rcases List.mem_cons.mp hp with rfl | hp
      · exact h2
      · exact Nat.lt_trans h2 (((ih k' v').mp h3).2.1 p hp)
    · rintro ⟨h1, h2, h3⟩
      exact ⟨⟨h1, h2 _ (List.mem_cons_self ..)⟩, h3⟩

theorem cellGet_below (r : List Host.Cell) (a : Nat) (h : ∀ p ∈ r, a < p.1) : cellGet r a = 0 := by
  induction r with
  | nil => rfl
  | cons c r ih =>
    obtain ⟨k, v⟩ := c
    have hk : a < k := h (k, v) (List.mem_cons_self ..)
    unfold cellGet
    rw [if_neg (by omega)]
    exact ih fun p hp => h p (List.mem_cons_of_mem _ hp)

theorem mem_cellDel {r : List Host.Cell} {a : Nat} {p : Host.Cell} (h : p ∈ cellDel r a) : p ∈ r := by
  induction r with
  | nil => exact h
  | cons c r ih =>
    obtain ⟨k, v⟩ := c
    unfold cellDel at h
    split at h
    · exact List.mem_cons_of_mem _ h
    · split at h
      · exact h
      · rcases List.mem_cons.mp h with rfl | h
        · exact List.mem_cons_self ..
        · exact List.mem_cons_of_mem _ (ih h)

theorem mem_cellIns {r : List Host.Cell} {a : Nat} {b : Byte} {p : Host.Cell} (h : p ∈ cellIns r a b) : p = (a, b) ∨ p ∈ r := by
  induction r with
  | nil => exact List.mem_cons.mp h
  | cons c r ih =>
    obtain ⟨k, v⟩ := c
    unfold cellIns at h
    split at h
    · rcases List.mem_cons.mp h with h | h
      · exact .inl h
      · exact .inr (List.mem_cons_of_mem _ h)
    · split at h
      · rcases List.mem_cons.mp h with h | h
        · exact .inl h
        · exact .inr h
      · rcases List.mem_cons.mp h with h | h
        · exact .inr (h ▸ List.mem_cons_self ..)
        · exact (ih h).imp id (List.mem_cons_of_mem _)

theorem cellsWf_cellDel {r : List Host.Cell} (a : Nat) (h : cellsWf r = true) : cellsWf (cellDel r a) = true := by
  induction r with
  | nil => exact h
  | cons c r ih =>
    obtain ⟨k, v⟩ := c
    have ⟨h1, h2, h3⟩ := (cellsWf_cons k v r).mp h
    unfold cellDel
    split
    · exact h3
    · split
      · exact h
      · exact (cellsWf_cons ..).mpr ⟨h1, fun p hp => h2 p (mem_cellDel hp), ih h3⟩

theorem cellsWf_cellIns {r : List Host.Cell} (a : Nat) {b : Byte} (hb : b ≠ 0) (h : cellsWf r = true) : cellsWf (cellIns r a b) = true := by
  induction r with
  | nil => exact (cellsWf_cons ..).mpr ⟨hb, by simp, h⟩
  | cons c r ih =>
    obtain ⟨k, v⟩ := c
    have ⟨h1, h2, h3⟩ := (cellsWf_cons k v r).mp h
    unfold cellIns
    split
    · rename_i e
      exact (cellsWf_cons ..).mpr ⟨hb, e ▸ h2, h3⟩
    · split
      · rename_i e
        refine (cellsWf_cons ..).mpr ⟨hb, fun p hp => ?_, h⟩
        rcases List.mem_cons.mp hp with rfl | hp
        · exact e
        · exact Nat.lt_trans e (h2 p hp)
      · refine (cellsWf_cons ..).mpr ⟨h1, fun p hp => ?_, ih h3⟩
        rcases mem_cellIns hp with rfl | hp
        · show k < a
          omega
        · exact h2 p hp

/-- Every write of a byte keeps the canonical form. -/
theorem cellsWf_cellSet {r : List Host.Cell} (a : Nat) (b : Byte) (h : cellsWf r = true) : cellsWf (cellSet r a b) = true := by
  unfold cellSet
  split
  · exact cellsWf_cellDel a h
  · rename_i hb
    exact cellsWf_cellIns a hb h

theorem cellGet_cellDel {r : List Host.Cell} (a a' : Nat) (h : cellsWf r = true) :
    cellGet (cellDel r a) a' = if a' = a then 0 else cellGet r a' := by
  induction r with
  | nil => simp [cellDel, cellGet]
  | cons c r ih =>
    obtain ⟨k, v⟩ := c
    have ⟨_, h2, h3⟩ := (cellsWf_cons k v r).mp h
    unfold cellDel
    split
    · rename_i e
      subst e
      split
      · rename_i e
        subst e
        exact cellGet_below r a' h2
      · rename_i e
        exact (if_neg (Ne.symm e)).symm
    · split
      · rename_i hk ha
        split
        · rename_i e
          subst e
          exact cellGet_below _ _ fun p hp => by
            rcases List.mem_cons.mp hp with rfl | hp
            · exact ha
            · exact Nat.lt_trans ha (h2 p hp)
        · rfl
      · rename_i hk ha
        show (if k = a' then v else cellGet (cellDel r a) a') = if a' = a then 0 else (if k = a' then v else cellGet r a')
        rw [ih h3]
        by_cases e : k = a'
        · rw [if_pos e, if_pos e, if_neg (by omega)]
        · rw [if_neg e, if_neg e]

theorem cellGet_cellIns {r : List Host.Cell} (a a' : Nat) (b : Byte) (h : cellsWf r = true) :
    cellGet (cellIns r a b) a' = if a' = a then b else cellGet r a' := by
  induction r with
  | nil =>
    show (if a = a' then b else 0) = _
    by_cases e : a = a'
    · rw [if_pos e, if_pos e.symm]
    · rw [if_neg e, if_neg (Ne.symm e)]
      rfl
  | cons c r ih =>
    obtain ⟨k, v⟩ := c
    have ⟨_, h2, h3⟩ := (cellsWf_cons k v r).mp h
    unfold cellIns
    split
    · rename_i e
      subst e
      show (if k = a' then b else cellGet r a') = if a' = k then b else (if k = a' then v else cellGet r a')
      by_cases e : k = a'
      · rw [if_pos e, if_pos e.symm]
      · rw [if_neg e, if_neg (Ne.symm e), if_neg e]
    · split
      · show (if a = a' then b else cellGet ((k, v) :: r) a') = _
        by_cases e : a = a'
        · rw [if_pos e, if_pos e.symm]
        · rw [if_neg e, if_neg (Ne.symm e)]
      · show (if k = a' then v else cellGet (cellIns r a b) a') = if a' = a then b else (if k = a' then v else cellGet r a')
        rw [ih h3]
        by_cases e : k = a'
        · rw [if_pos e, if_pos e, if_neg (by omega)]
        · rw [if_neg e, if_neg e]

/-- Reading a byte after writing one. -/
theorem cellGet_cellSet {r : List Host.Cell} (a a' : Nat) (b : Byte) (h : cellsWf r = true) :
    cellGet (cellSet r a b) a' = if a' = a then b else cellGet r a' := by
  unfold cellSet
  split
  · rename_i e
    rw [cellGet_cellDel a a' h, e]
  · exact cellGet_cellIns a a' b h

/-- Writing bytes keeps the canonical form. -/
theorem cellsWf_cellsPut {m : List Host.Cell} (a n v : Nat) (h : cellsWf m = true) : cellsWf (cellsPut m a n v) = true := by
  induction n generalizing m a v with
  | zero => exact h
  | succ n ih => exact ih (a + 1) (v / 256) (cellsWf_cellSet a _ h)

/-- Reading a byte after writing some: byte `k` of the value inside, the old byte outside. -/
theorem cellGet_cellsPut {m : List Host.Cell} (a n v a' : Nat) (h : cellsWf m = true) :
    cellGet (cellsPut m a n v) a' = if a ≤ a' ∧ a' < a + n then BitVec.ofNat 8 (v / 2 ^ (8 * (a' - a))) else cellGet m a' := by
  induction n generalizing m a v with
  | zero =>
    rw [if_neg (by omega)]
    rfl
  | succ n ih =>
    show cellGet (cellsPut (cellSet m a (BitVec.ofNat 8 v)) (a + 1) n (v / 256)) a' = _
    rw [ih (a + 1) (v / 256) (cellsWf_cellSet a _ h)]
    by_cases e : a' = a
    · subst e
      rw [if_neg (by omega), if_pos (by omega), cellGet_cellSet _ _ _ h, if_pos rfl, Nat.sub_self]
      simp
    · by_cases c : a + 1 ≤ a' ∧ a' < a + 1 + n
      · rw [if_pos c, if_pos (by omega), Nat.div_div_eq_div_mul]
        congr 2
        rw [show 8 * (a' - a) = 8 + 8 * (a' - (a + 1)) by omega, Nat.pow_add]
      · rw [if_neg c, if_neg (by omega), cellGet_cellSet _ _ _ h, if_neg e]

/-! ## Rising lists -/

theorem risingB_cons (k : Nat) (r : List Nat) : risingB (k :: r) = true ↔ (∀ x ∈ r, k < x) ∧ risingB r = true := by
  induction r generalizing k with
  | nil => simp [risingB]
  | cons k' r ih =>
    have e : risingB (k :: k' :: r) = (decide (k < k') && risingB (k' :: r)) := rfl
    rw [e]
    simp only [Bool.and_eq_true, decide_eq_true_eq]
    constructor
    · rintro ⟨h1, h2⟩
      refine ⟨fun x hx => ?_, h2⟩
      rcases List.mem_cons.mp hx with rfl | hx
      · exact h1
      · exact Nat.lt_trans h1 (((ih k').mp h2).1 x hx)
    · rintro ⟨h1, h2⟩
      exact ⟨h1 _ (List.mem_cons_self ..), h2⟩

theorem mem_setIns {r : List Nat} {a x : Nat} (h : x ∈ setIns r a) : x = a ∨ x ∈ r := by
  induction r with
  | nil => exact List.mem_cons.mp h
  | cons k r ih =>
    unfold setIns at h
    split at h
    · exact .inr h
    · split at h
      · exact List.mem_cons.mp h
      · rcases List.mem_cons.mp h with h | h
        · exact .inr (h ▸ List.mem_cons_self ..)
        · exact (ih h).imp id (List.mem_cons_of_mem _)

theorem mem_setDel {r : List Nat} {a x : Nat} (h : x ∈ setDel r a) : x ∈ r := by
  induction r with
  | nil => exact h
  | cons k r ih =>
    unfold setDel at h
    split at h
    · exact List.mem_cons_of_mem _ h
    · split at h
      · exact h
      · rcases List.mem_cons.mp h with h | h
        · exact h ▸ List.mem_cons_self ..
        · exact List.mem_cons_of_mem _ (ih h)

theorem risingB_setIns {r : List Nat} (a : Nat) (h : risingB r = true) : risingB (setIns r a) = true := by
  induction r with
  | nil => rfl
  | cons k r ih =>
    have ⟨h1, h2⟩ := (risingB_cons k r).mp h
    unfold setIns
    split
    · exact h
    · split
      · rename_i e
        refine (risingB_cons ..).mpr ⟨fun x hx => ?_, h⟩
        rcases List.mem_cons.mp hx with rfl | hx
        · exact e
        · exact Nat.lt_trans e (h1 x hx)
      · refine (risingB_cons ..).mpr ⟨fun x hx => ?_, ih h2⟩
        rcases mem_setIns hx with rfl | hx
        · omega
        · exact h1 x hx

theorem risingB_setDel {r : List Nat} (a : Nat) (h : risingB r = true) : risingB (setDel r a) = true := by
  induction r with
  | nil => exact h
  | cons k r ih =>
    have ⟨h1, h2⟩ := (risingB_cons k r).mp h
    unfold setDel
    split
    · exact h2
    · split
      · exact h
      · exact (risingB_cons ..).mpr ⟨fun x hx => h1 x (mem_setDel hx), ih h2⟩

theorem risingB_filter {r : List Nat} (p : Nat → Bool) (h : risingB r = true) : risingB (r.filter p) = true := by
  induction r with
  | nil => exact h
  | cons k r ih =>
    have ⟨h1, h2⟩ := (risingB_cons k r).mp h
    rw [List.filter_cons]
    split
    · exact (risingB_cons ..).mpr ⟨fun x hx => h1 x (List.mem_filter.mp hx).1, ih h2⟩
    · exact ih h2

theorem cellsWf_filter {r : List Host.Cell} (p : Host.Cell → Bool) (h : cellsWf r = true) : cellsWf (r.filter p) = true := by
  induction r with
  | nil => exact h
  | cons c r ih =>
    obtain ⟨k, v⟩ := c
    have ⟨h1, h2, h3⟩ := (cellsWf_cons k v r).mp h
    rw [List.filter_cons]
    split
    · exact (cellsWf_cons ..).mpr ⟨h1, fun x hx => h2 x (List.mem_filter.mp hx).1, ih h3⟩
    · exact ih h3

/-- Membership after putting a number in. -/
theorem contains_setIns {r : List Nat} (a x : Nat) : (setIns r a).contains x = (decide (x = a) || r.contains x) := by
  induction r with
  | nil =>
    by_cases e : x = a <;> simp [setIns, e]
  | cons k r ih =>
    unfold setIns
    split
    · rename_i e
      subst e
      by_cases e : x = k <;> simp [e]
    · split
      · by_cases e : x = a <;> simp [e]
      · rw [List.contains_cons, ih, List.contains_cons]
        cases (x == k) <;> simp

/-- Membership after taking a number out. -/
theorem contains_setDel {r : List Nat} (a x : Nat) (h : risingB r = true) :
    (setDel r a).contains x = (!decide (x = a) && r.contains x) := by
  induction r with
  | nil => simp [setDel]
  | cons k r ih =>
    have ⟨h1, h2⟩ := (risingB_cons k r).mp h
    have out : ∀ y, y ≤ k → r.contains y = false := fun y hy => by
      rw [Bool.eq_false_iff]
      intro c
      have := h1 y (List.contains_iff_mem.mp c)
      omega
    unfold setDel
    split
    · rename_i e
      subst e
      by_cases e : x = k
      · subst e
        rw [out x (Nat.le_refl _)]
        simp
      · simp [e]
    · rename_i hk
      split
      · rename_i ha
        by_cases e : x = a
        · subst e
          rw [List.contains_cons, out x (by omega)]
          have : (x == k) = false := by simp; omega
          simp [this]
        · simp [e]
      · rw [List.contains_cons, ih h2, List.contains_cons]
        by_cases e : x = k
        · subst e
          simp [hk]
        · have : (x == k) = false := by simp [e]
          simp [this]

/-! ## Seals -/

theorem mem_sealDel {r : List (Nat × Nat)} {a : Nat} {p : Nat × Nat} (h : p ∈ sealDel r a) : p ∈ r := by
  induction r with
  | nil => exact h
  | cons c r ih =>
    obtain ⟨k, v⟩ := c
    unfold sealDel at h
    split at h
    · exact List.mem_cons_of_mem _ h
    · split at h
      · exact h
      · rcases List.mem_cons.mp h with rfl | h
        · exact List.mem_cons_self ..
        · exact List.mem_cons_of_mem _ (ih h)

theorem mem_sealIns {r : List (Nat × Nat)} {a b : Nat} {p : Nat × Nat} (h : p ∈ sealIns r a b) : p = (a, b) ∨ p ∈ r := by
  induction r with
  | nil => exact List.mem_cons.mp h
  | cons c r ih =>
    obtain ⟨k, v⟩ := c
    unfold sealIns at h
    split at h
    · rcases List.mem_cons.mp h with h | h
      · exact .inl h
      · exact .inr (List.mem_cons_of_mem _ h)
    · split at h
      · exact List.mem_cons.mp h
      · rcases List.mem_cons.mp h with h | h
        · exact .inr (h ▸ List.mem_cons_self ..)
        · exact (ih h).imp id (List.mem_cons_of_mem _)

theorem keysRisingB_cons (k v : Nat) (r : List (Nat × Nat)) :
    keysRisingB ((k, v) :: r) = true ↔ (∀ p ∈ r, k < p.1) ∧ keysRisingB r = true := by
  unfold keysRisingB
  rw [List.map_cons, risingB_cons]
  simp only [List.mem_map, forall_exists_index, and_imp, forall_apply_eq_imp_iff₂]

theorem keysRisingB_sealDel {r : List (Nat × Nat)} (a : Nat) (h : keysRisingB r = true) : keysRisingB (sealDel r a) = true := by
  induction r with
  | nil => exact h
  | cons c r ih =>
    obtain ⟨k, v⟩ := c
    have ⟨h1, h2⟩ := (keysRisingB_cons k v r).mp h
    unfold sealDel
    split
    · exact h2
    · split
      · exact h
      · exact (keysRisingB_cons ..).mpr ⟨fun p hp => h1 p (mem_sealDel hp), ih h2⟩

theorem keysRisingB_sealIns {r : List (Nat × Nat)} (a b : Nat) (h : keysRisingB r = true) : keysRisingB (sealIns r a b) = true := by
  induction r with
  | nil => rfl
  | cons c r ih =>
    obtain ⟨k, v⟩ := c
    have ⟨h1, h2⟩ := (keysRisingB_cons k v r).mp h
    unfold sealIns
    split
    · rename_i e
      exact (keysRisingB_cons ..).mpr ⟨e ▸ h1, h2⟩
    · split
      · rename_i e
        refine (keysRisingB_cons ..).mpr ⟨fun p hp => ?_, h⟩
        rcases List.mem_cons.mp hp with rfl | hp
        · exact e
        · exact Nat.lt_trans e (h1 p hp)
      · refine (keysRisingB_cons ..).mpr ⟨fun p hp => ?_, ih h2⟩
        rcases mem_sealIns hp with rfl | hp
        · show k < a
          omega
        · exact h1 p hp

theorem keysRisingB_sealSet {r : List (Nat × Nat)} (dflt a b : Nat) (h : keysRisingB r = true) :
    keysRisingB (sealSet dflt r a b) = true := by
  unfold sealSet
  split
  · exact keysRisingB_sealDel a h
  · exact keysRisingB_sealIns a b h

/-! ## Folds -/

theorem risingB_foldl_setIns (l : List Nat) {r : List Nat} (h : risingB r = true) : risingB (l.foldl setIns r) = true := by
  induction l generalizing r with
  | nil => exact h
  | cons a l ih => exact ih (risingB_setIns a h)

theorem risingB_foldl_setDel (l : List Nat) {r : List Nat} (h : risingB r = true) : risingB (l.foldl setDel r) = true := by
  induction l generalizing r with
  | nil => exact h
  | cons a l ih => exact ih (risingB_setDel a h)

theorem keysRisingB_foldl_sealSet (dflt v : Nat) (l : List Nat) {r : List (Nat × Nat)} (h : keysRisingB r = true) :
    keysRisingB (l.foldl (fun q w => sealSet dflt q w v) r) = true := by
  induction l generalizing r with
  | nil => exact h
  | cons a l ih => exact ih (keysRisingB_sealSet dflt a v h)

/-! ## Storage -/

/-- What the canonical form says of each list. -/
theorem Mem.wf_iff (m : Mem) : m.wf = true ↔ cellsWf m.spad = true ∧ cellsWf m.hbm = true ∧ cellsWf m.pool = true ∧ risingB m.full = true ∧
    risingB m.spoison = true ∧ risingB m.hpoison = true ∧ keysRisingB m.sealed = true := by
  unfold Mem.wf
  simp only [Bool.and_eq_true]
  tauto

theorem Mem.wf_putSpad {m : Mem} (key n v : Nat) (h : m.wf = true) : (m.putSpad key n v).wf = true := by
  have ⟨h1, h2, h0, h3, h4, h5, h6⟩ := m.wf_iff.mp h
  exact (Mem.wf_iff _).mpr ⟨cellsWf_cellsPut key n v h1, h2, h0, h3, risingB_foldl_setDel _ h4, h5, h6⟩

theorem Mem.wf_putHbm {m : Mem} (dflt serial pa n v : Nat) (h : m.wf = true) : (m.putHbm dflt serial pa n v).wf = true := by
  have ⟨h1, h2, h0, h3, h4, h5, h6⟩ := m.wf_iff.mp h
  exact (Mem.wf_iff _).mpr
    ⟨h1, cellsWf_cellsPut pa n v h2, h0, h3, h4, risingB_foldl_setDel _ h5, keysRisingB_foldl_sealSet _ _ _ h6⟩

end Sys2Proof.Machine
end

