-- ==== Sys2Proof/Laws/Storage.lean ====
section
/-! SUPPORT. Reading and writing storage at a location, and what a scalar access does when its checks pass. -/

set_option Elab.async false

namespace Sys2Proof.Machine

open Sys2Proof.Safety

/-! ## Reading -/

theorem Loc.plus_plus (l : Loc) (i j : Nat) : (l.plus i).plus j = l.plus (i + j) := by
  cases l <;> simp [Loc.plus, Nat.add_assoc]

theorem cellsNat_spad (s : State) (core off n : Nat) : cellsNat s.mem.spad (spadKey core off) n = bytesNat s (.spad core off) n := by
  induction n generalizing off with
  | zero => rfl
  | succ n ih =>
    unfold cellsNat bytesNat
    rw [show spadKey core off + 1 = spadKey core (off + 1) from Nat.add_assoc .., ih (off + 1)]
    rfl

theorem cellsNat_hbm (s : State) (pa key n : Nat) : cellsNat s.mem.hbm pa n = bytesNat s (.hbm pa key) n := by
  induction n generalizing pa with
  | zero => rfl
  | succ n ih =>
    unfold cellsNat bytesNat
    rw [ih (pa + 1)]
    rfl

/-- A read that finds no poison gives the bytes, little-endian. -/
theorem State.readLoc_eq (s : State) (l : Loc) (n : Nat) (h : (s.readLoc l n).isSome = true) : s.readLoc l n = some (bytesNat s l n) := by
  cases l with
  | spad core off =>
    unfold State.readLoc at h ⊢
    dsimp only at h ⊢
    split at h
    · rename_i e
      rw [if_pos e, cellsNat_spad]
    · exact absurd h (by decide)
  | hbm pa key =>
    unfold State.readLoc State.readHbm at h ⊢
    dsimp only at h ⊢
    split at h
    · rename_i e
      rw [if_pos e, cellsNat_hbm s pa key]
    · exact absurd h (by decide)

theorem bytesNat_lt (s : State) (l : Loc) (n : Nat) : bytesNat s l n < 2 ^ (8 * n) := by
  induction n generalizing l with
  | zero => exact Nat.one_pos
  | succ n ih =>
    have h := ih (l.plus 1)
    have b := (byteAt s l).isLt
    show (byteAt s l).toNat + 256 * bytesNat s (l.plus 1) n < 2 ^ (8 * n + 8)
    rw [Nat.pow_add]
    omega

/-! ## Writing -/

/-- Where a location is read, it may be written. -/
theorem State.writeLoc_isSome (s : State) (l : Loc) (n v : Nat) (h : (s.readLoc l n).isSome = true) : (s.writeLoc l n v).isSome = true := by
  cases l with
  | spad core off =>
    unfold State.readLoc at h
    dsimp only at h
    split at h
    · rename_i e
      unfold State.writeLoc
      dsimp only
      rw [if_pos]
      · rfl
      · unfold Mem.wordsClean at e
        unfold Mem.partialClean
        rw [List.all_eq_true] at e ⊢
        exact fun i hi => Bool.or_eq_true_iff.mpr (.inl (e i hi))
    · exact absurd h (by decide)
  | hbm pa key =>
    unfold State.readLoc State.readHbm at h
    dsimp only at h
    split at h
    · rename_i e
      unfold State.linesRead at e
      rw [List.all_eq_true] at e
      have e0 := e 0 (List.mem_range.mpr (Nat.succ_pos _))
      have nz : s.serialOf key ≠ 0 := by
        unfold State.lineReads at e0
        simp only [Bool.and_eq_true, bne_iff_ne] at e0
        exact e0.1.2
      unfold State.writeLoc
      dsimp only
      rw [if_pos]
      · rfl
      · refine Bool.and_eq_true_iff.mpr ⟨decide_eq_true nz, ?_⟩
        unfold State.partialLinesRead
        rw [List.all_eq_true]
        exact fun i hi => Bool.or_eq_true_iff.mpr (.inr (e i hi))
    · exact absurd h (by decide)

/-- Storage after a write. -/
def State.memAfter (s : State) (l : Loc) (n v : Nat) : Mem :=
  match l with
  | .spad core off => s.mem.putSpad (spadKey core off) n v
  | .hbm pa key => s.mem.putHbm (s.serialOf 0) (s.serialOf key) pa n v

/-- What a write does: storage alone changes. -/
theorem State.writeLoc_eq {s t : State} {l : Loc} {n v : Nat} (h : s.writeLoc l n v = some t) : t = { s with mem := s.memAfter l n v } := by
  cases l with
  | spad core off =>
    unfold State.writeLoc at h
    dsimp only at h
    split at h
    · exact (Option.some.inj h).symm
    · exact absurd h (by simp)
  | hbm pa key =>
    unfold State.writeLoc at h
    dsimp only at h
    split at h
    · exact (Option.some.inj h).symm
    · exact absurd h (by simp)

/-- A write stores its bytes, changes no other byte and no full/empty bit, and keeps the canonical form. -/
theorem State.writeLoc_stored {s t : State} {l : Loc} {n v : Nat} (hs : StorageWf s) (h : s.writeLoc l n v = some t) :
    Stored l n v s t ∧ FullKept s t ∧ StorageWf t := by
  have e : t.mem = s.memAfter l n v := by rw [State.writeLoc_eq h]
  have ⟨w1, w2, _⟩ := s.mem.wf_iff.mp hs
  cases l with
  | spad core off =>
    change t.mem = _ at e
    unfold State.memAfter at e
    refine ⟨⟨fun k hk => ?_, fun l' hl => ?_⟩, by rw [FullKept, e]; exact ⟨rfl, rfl, rfl⟩, ?_⟩
    · show cellGet t.mem.spad (spadKey core (off + k)) = _
      rw [e]
      show cellGet (cellsPut s.mem.spad (spadKey core off) n v) _ = _
      rw [cellGet_cellsPut _ _ _ _ w1, if_pos (by unfold spadKey; omega)]
      congr 3
      unfold spadKey
      omega
    · cases l' with
      | hbm pa' key' =>
        show cellGet t.mem.hbm pa' = _
        rw [e]
        rfl
      | spad core' off' =>
        show cellGet t.mem.spad (spadKey core' off') = _
        rw [e]
        show cellGet (cellsPut s.mem.spad (spadKey core off) n v) _ = _
        rw [cellGet_cellsPut _ _ _ _ w1, if_neg]
        · rfl
        · rintro ⟨h1, h2⟩
          have := hl (spadKey core' off' - spadKey core off) (by omega)
          have k : spadKey core (off + (spadKey core' off' - spadKey core off)) = spadKey core' off' := by
            unfold spadKey at h1 ⊢
            omega
          simp only [sameByte, Loc.plus, beq_eq_false_iff_ne] at this
          exact this k
    · show t.mem.wf = true
      rw [e]
      exact Mem.wf_putSpad _ _ _ hs
  | hbm pa key =>
    change t.mem = _ at e
    unfold State.memAfter at e
    refine ⟨⟨fun k hk => ?_, fun l' hl => ?_⟩, by rw [FullKept, e]; exact ⟨rfl, rfl, rfl⟩, ?_⟩
    · show cellGet t.mem.hbm (pa + k) = _
      rw [e]
      show cellGet (cellsPut s.mem.hbm pa n v) _ = _
      rw [cellGet_cellsPut _ _ _ _ w2, if_pos (by omega), Nat.add_sub_cancel_left]
    · cases l' with
      | spad core' off' =>
        show cellGet t.mem.spad (spadKey core' off') = _
        rw [e]
        rfl
      | hbm pa' key' =>
        show cellGet t.mem.hbm pa' = _
        rw [e]
        show cellGet (cellsPut s.mem.hbm pa n v) _ = _
        rw [cellGet_cellsPut _ _ _ _ w2, if_neg]
        · rfl
        · rintro ⟨h1, h2⟩
          have := hl (pa' - pa) (by omega)
          simp only [sameByte, Loc.plus, beq_eq_false_iff_ne] at this
          omega
    · show t.mem.wf = true
      rw [e]
      exact Mem.wf_putHbm _ _ _ _ _ hs

/-! ## A scalar access -/

/-- With no marked access outstanding, nothing is performed before an instruction. -/
theorem State.unmarked_of {s : State} (k : State → Res) (h : Unmarked s) : s.unmarked k = k s := by
  obtain ⟨h2, h3, h4⟩ := h
  have e : s.performMarked = s := by
    unfold State.performMarked
    rw [h2]
    show { s with h := { s.h with marked := [] } } = s
    rw [← h2]
  unfold State.unmarked
  dsimp only
  rw [e, if_neg (fun c => c h3), h4]

theorem State.unmarked_quiet {s : State} (k : State → Res) (h : Quiet s) : s.unmarked k = k s := State.unmarked_of k h.2

/-- The state at the access: the checks have passed and their counters and translation are kept. -/
def State.accessed (s : State) (f : Option TlbEntry) : State := (s.fill f).countAccess 0x08

/-- Passing the checks changes event counters, the translation buffers and the free-value count only. -/
theorem State.accessed_eq (s : State) (f : Option TlbEntry) :
    s.accessed f = { s with c := { s.c with evc := (s.accessed f).c.evc, tlb := (s.accessed f).c.tlb }, draws := (s.accessed f).draws } := by
  unfold State.accessed State.countAccess State.fill
  cases f with
  | none => rfl
  | some e =>
    dsimp only
    split <;> rfl

/-- An access that is free of the vector queue is not held back. -/
theorem State.queueBars_free {s : State} {l : Loc} {n : Nat} {w : Bool} (h : Free s l n w) : s.queueBars l n w = false := by
  unfold State.queueBars
  rw [List.any_eq_false]
  intro e he c
  obtain ⟨hw, hx⟩ := Bool.and_eq_true_iff.mp c
  obtain ⟨x, hx, hp⟩ := List.any_eq_true.mp hx
  obtain ⟨p, hp, ho⟩ := List.any_eq_true.mp hp
  exact absurd ho (by rw [h e he (Bool.or_eq_true_iff.mp hw) x hx p hp]; decide)

/-- A scalar access whose check passes and that no vector access holds back, outside a window: it is performed at its location. -/
theorem State.scalarAccess_ok {s : State} {op : MemOp} {va data : Word} {rd : Reg} {l : Loc} {f : Option TlbEntry} (q : Quiet s)
    (h : s.check va op.size op.size op.kind = .ok ⟨l, f⟩) (b : Free s l op.size (op.kind != .load)) :
    s.scalarAccess op va data rd = (s.accessed f).plainAt op l va data rd := by
  unfold State.scalarAccess
  dsimp only
  rw [if_pos q.1, State.unmarked_quiet _ q, h]
  dsimp only
  rw [if_neg (by rw [State.queueBars_free b]; decide)]
  rfl

/-- A scalar access whose check fails with a precise cause, outside a window. -/
theorem State.scalarAccess_trap {s : State} {op : MemOp} {va data : Word} {rd : Reg} {c : Trap} (q : Quiet s)
    (h : s.check va op.size op.size op.kind = .error (.trap c)) : s.scalarAccess op va data rd = .trap c s := by
  unfold State.scalarAccess
  dsimp only
  rw [if_pos q.1, State.unmarked_quiet _ q, h]
  rfl

theorem State.plainAt_load {s : State} {l : Loc} {n v : Nat} (b : Bool) (va data : Word) (rd : Reg) (r : s.readLoc l n = some v) :
    s.plainAt (.load n b) l va data rd = .ok (s.setXReply rd (extend b n v)) := by
  have e : s.performOp (.load n b) l data = some (extend b n v, s) := by
    show (s.readLoc l n).map _ = _
    rw [r]
    rfl
  unfold State.plainAt
  rw [e]
  rfl

theorem State.plainAt_store {s t : State} {l : Loc} {n : Nat} (va data : Word) (rd : Reg) (w : s.writeLoc l n data.toNat = some t) :
    s.plainAt (.store n) l va data rd = .ok t.lateReply := by
  have e : s.performOp (.store n) l data = some (0, t) := by
    show (s.writeLoc l n data.toNat).map _ = _
    rw [w]
    rfl
  unfold State.plainAt
  rw [e]
  rfl

theorem State.plainAt_amo {s t : State} {l : Loc} {o n old : Nat} (va data : Word) (rd : Reg) (r : s.readLoc l n = some old)
    (w : s.writeLoc l n (amoNew o n old data.toNat s.rnd).1 = some t) :
    s.plainAt (.amo o n) l va data rd =
      .ok ((if o = 9 then (t.accrue (amoNew o n old data.toNat s.rnd).2).countSr else t).setXReply rd (extend (o != 9) n old)) := by
  have e : s.performOp (.amo o n) l data =
      some (extend (o != 9) n old, if o = 9 then (t.accrue (amoNew o n old data.toNat s.rnd).2).countSr else t) := by
    unfold State.performOp
    dsimp only
    rw [r]
    dsimp only
    rw [w]
    rfl
  unfold State.plainAt
  rw [e]
  rfl

theorem State.plainAt_cas {s t : State} {l : Loc} {n old : Nat} (cmp va data : Word) (rd : Reg) (r : s.readLoc l n = some old)
    (w : s.writeLoc l n (if old = cmp.toNat % 2 ^ (8 * n) then data.toNat else old) = some t) :
    s.plainAt (.cas n cmp) l va data rd = .ok (t.setXReply rd (extend true n old)) := by
  have e : s.performOp (.cas n cmp) l data = some (extend true n old, t) := by
    unfold State.performOp
    dsimp only
    rw [r]
    dsimp only
    rw [w]
    rfl
  unfold State.plainAt
  rw [e]
  rfl

/-- A load's extension, as statements write it. -/
theorem extend_eq (b : Bool) {n : Nat} (v : Nat) (hn : 0 < n) : extend b n v = extended b n v := by
  unfold extend extended sextNat
  have hp : 2 ^ (8 * n) = 2 * 2 ^ (8 * n - 1) := by
    rw [show 8 * n = (8 * n - 1) + 1 by omega, Nat.pow_succ, Nat.mul_comm]
    rfl
  cases b
  · rfl
  · simp only [if_true, Bool.true_and, decide_eq_true_eq]
    by_cases h : 2 ^ (8 * n - 1) ≤ v % 2 ^ (8 * n)
    · rw [if_pos h, if_neg (by omega)]
    · rw [if_neg h, if_pos (by omega)]
      rfl

@[simp] theorem State.accessed_mem (s : State) (f : Option TlbEntry) : (s.accessed f).mem = s.mem := by rw [State.accessed_eq]
@[simp] theorem State.accessed_h (s : State) (f : Option TlbEntry) : (s.accessed f).h = s.h := by rw [State.accessed_eq]
@[simp] theorem State.accessed_hst (s : State) (f : Option TlbEntry) : (s.accessed f).hst = s.hst := by rw [State.accessed_eq]

theorem State.readLoc_congr {s t : State} (h : t.mem = s.mem) (h' : t.hst = s.hst) (l : Loc) (n : Nat) : t.readLoc l n = s.readLoc l n := by
  cases l with
  | spad core off =>
    unfold State.readLoc
    rw [h]
  | hbm pa key =>
    unfold State.readLoc State.readHbm State.linesRead State.lineReads
    rw [h, h']

theorem bytesNat_congr {s t : State} (h : t.mem = s.mem) (l : Loc) (n : Nat) : bytesNat t l n = bytesNat s l n := by
  induction n generalizing l with
  | zero => rfl
  | succ n ih =>
    have e : byteAt t l = byteAt s l := by
      unfold byteAt
      rw [h]
    unfold bytesNat
    rw [e, ih]

/-! ## Results of memory instructions -/

/-- Waiting for a late reply changes the cycle of the next issue and what it waits for only. -/
theorem State.lateReply_same (s : State) :
    s.lateReply = { s with h := { s.h with nextIssue := s.lateReply.h.nextIssue, onReply := s.lateReply.h.onReply } } := by
  unfold State.lateReply
  split <;> rfl

/-- What waiting for a late reply does to the pace of the hart. -/
theorem State.lateReply_replied (s : State) : Replied s s.lateReply := by
  unfold Replied State.lateReply
  split
  · exact ⟨rfl, rfl⟩
  · exact ⟨rfl, rfl⟩

/-- A scalar result that a reply brings: the instruction retires with it, and storage is what the access left. -/
theorem State.setXReply_after {s u : State} {d : Reg} {v : Word}
    (hu : u = { s with c := { s.c with evc := u.c.evc, tlb := u.c.tlb }, draws := u.draws, mem := u.mem }) :
    Retired s (u.setXReply d v).retire ∧ Wrote d v (7 + s.lateBy) s (u.setXReply d v).retire ∧ (u.setXReply d v).retire.mem = u.mem ∧
      FlagsKept s (u.setXReply d v).retire ∧ AccessFrame s (u.setXReply d v).retire ∧ Replied s (u.setXReply d v).retire := by
  have w := u.setXLat_wrote d v (7 + u.lateBy)
  have e1 := u.setXLat_same d v (7 + u.lateBy)
  have e2 := (u.setXLat d v (7 + u.lateBy)).lateReply_same
  have q := (u.setXLat d v (7 + u.lateBy)).lateReply_replied
  unfold State.setXReply
  generalize ha : (u.setXLat d v (7 + u.lateBy)).lateReply.h.nextIssue = a at e2
  generalize hb : (u.setXLat d v (7 + u.lateBy)).lateReply.h.onReply = b at e2
  rw [e2] at q ⊢
  generalize hp : (u.setXLat d v (7 + u.lateBy)).h.p = p' at e1
  generalize hc : (u.setXLat d v (7 + u.lateBy)).c.cpend = c' at e1
  rw [e1] at w q ⊢
  generalize u.c.evc = q1 at hu
  generalize u.c.tlb = q2 at hu
  generalize u.draws = q3 at hu
  generalize hm : u.mem = m at hu
  subst hu
  exact ⟨⟨rfl, rfl⟩, ⟨w.1, w.2⟩, rfl, ⟨rfl, rfl⟩, rfl, q⟩

/-- A load whose checks pass. -/
theorem loads_of {j : Instr} {d : Reg} {b : Bool} {n : Nat} {va : Word} {l : Loc} {s : State} (hn : 0 < n)
    (e : exec j s = finish (s.scalarAccess (.load n b) va 0 d)) (h : Reaches s va n .load l) : Loads j d b n l s := by
  obtain ⟨q, ⟨f, hc⟩, hf, hr⟩ := h
  rw [State.scalarAccess_ok q hc hf] at e
  have r := State.readLoc_eq _ _ _ hr
  rw [← State.readLoc_congr (s.accessed_mem f) (s.accessed_hst f)] at r
  rw [State.plainAt_load b va 0 d r, extend_eq b _ hn] at e
  have := State.setXReply_after (u := s.accessed f) (d := d) (v := extended b n (bytesNat s l n))
    (by have := s.accessed_eq f; rw [State.accessed_mem]; exact this)
  exact ⟨_, e, this.1, this.2.1, by rw [this.2.2.1, State.accessed_mem], this.2.2.2⟩

/-- A write after the checks of an access: the bytes are stored, no other byte and no full/empty bit changes. -/
theorem State.written {s : State} {f : Option TlbEntry} {l : Loc} {n v : Nat} (hs : StorageWf s) (hr : (s.readLoc l n).isSome = true) :
    ∃ t, (s.accessed f).writeLoc l n v = some t ∧ Stored l n v s t ∧ FullKept s t ∧
      t = { s with c := { s.c with evc := t.c.evc, tlb := t.c.tlb }, draws := t.draws, mem := t.mem } := by
  have hs' : StorageWf (s.accessed f) := by unfold StorageWf; rw [State.accessed_mem]; exact hs
  have hr' : ((s.accessed f).readLoc l n).isSome = true := by rw [State.readLoc_congr (s.accessed_mem f) (s.accessed_hst f)]; exact hr
  obtain ⟨t, ht⟩ := Option.isSome_iff_exists.mp (State.writeLoc_isSome _ l n v hr')
  have ⟨a1, a2, _⟩ := State.writeLoc_stored hs' ht
  refine ⟨t, ht, ?_, ?_, ?_⟩
  · refine ⟨a1.1, fun l' hl => ?_⟩
    rw [a1.2 l' hl]; unfold byteAt; rw [State.accessed_mem]
  · exact ⟨by rw [a2.1, State.accessed_mem], by rw [a2.2.1, State.accessed_mem], by rw [a2.2.2, State.accessed_mem]⟩
  · have e := State.writeLoc_eq ht
    have e2 := s.accessed_eq f
    rw [e]
    generalize s.accessed f = u at e2
    generalize u.c.evc = q1 at e2
    generalize u.c.tlb = q2 at e2
    generalize u.draws = q3 at e2
    subst e2
    rfl

/-- A store whose checks pass. -/
theorem stores_of {j : Instr} {b : Word} {n : Nat} {va : Word} {l : Loc} {s : State} (hs : StorageWf s)
    (e : exec j s = finish (s.scalarAccess (.store n) va b 0)) (h : Reaches s va n .store l) : Stores j n b l s := by
  obtain ⟨q, ⟨f, hc⟩, hf, hr⟩ := h
  obtain ⟨t, h1, h2, h3, h4⟩ := State.written (f := f) (v := b.toNat) hs hr
  rw [State.scalarAccess_ok q hc hf, State.plainAt_store va b 0 h1] at e
  refine ⟨_, e, ?_⟩
  have w := t.lateReply_replied
  have e2 := t.lateReply_same
  generalize t.lateReply.h.nextIssue = a at e2
  generalize t.lateReply.h.onReply = b at e2
  rw [e2] at w ⊢
  generalize t.c.evc = q1 at h4
  generalize t.c.tlb = q2 at h4
  generalize t.draws = q3 at h4
  generalize hm : t.mem = m at h4
  subst h4
  exact ⟨⟨rfl, rfl⟩, h2, h3, fun r => rfl, rfl, ⟨rfl, rfl⟩, rfl, w⟩

end Sys2Proof.Machine
end

