-- ==== Sys2Proof/Laws/Updates.lean ====
section
/-! SUPPORT. What the named updates of State leave as it was, one lemma per field and update. -/

set_option Elab.async false

namespace Sys2Proof.Machine

/-! ### tick -/

@[simp] theorem State.tick_h (s : State) : (s.tick).h = s.h := rfl
@[simp] theorem State.tick_harts (s : State) : (s.tick).harts = s.harts := rfl
@[simp] theorem State.tick_cores (s : State) : (s.tick).cores = s.cores := rfl
@[simp] theorem State.tick_mem (s : State) : (s.tick).mem = s.mem := rfl
@[simp] theorem State.tick_pkg (s : State) : (s.tick).pkg = s.pkg := rfl
@[simp] theorem State.tick_fab (s : State) : (s.tick).fab = s.fab := rfl
@[simp] theorem State.tick_sip (s : State) : (s.tick).sip = s.sip := rfl
@[simp] theorem State.tick_hst (s : State) : (s.tick).hst = s.hst := rfl
@[simp] theorem State.tick_sched (s : State) : (s.tick).sched = s.sched := rfl
@[simp] theorem State.tick_out (s : State) : (s.tick).out = s.out := rfl
@[simp] theorem State.tick_draws (s : State) : (s.tick).draws = s.draws := rfl

/-! ### emit -/

@[simp] theorem State.emit_h (s : State) (m : OutMsg) : (s.emit m).h = s.h := rfl
@[simp] theorem State.emit_c (s : State) (m : OutMsg) : (s.emit m).c = s.c := rfl
@[simp] theorem State.emit_harts (s : State) (m : OutMsg) : (s.emit m).harts = s.harts := rfl
@[simp] theorem State.emit_cores (s : State) (m : OutMsg) : (s.emit m).cores = s.cores := rfl
@[simp] theorem State.emit_mem (s : State) (m : OutMsg) : (s.emit m).mem = s.mem := rfl
@[simp] theorem State.emit_pkg (s : State) (m : OutMsg) : (s.emit m).pkg = s.pkg := rfl
@[simp] theorem State.emit_fab (s : State) (m : OutMsg) : (s.emit m).fab = s.fab := rfl
@[simp] theorem State.emit_sip (s : State) (m : OutMsg) : (s.emit m).sip = s.sip := rfl
@[simp] theorem State.emit_hst (s : State) (m : OutMsg) : (s.emit m).hst = s.hst := rfl
@[simp] theorem State.emit_sched (s : State) (m : OutMsg) : (s.emit m).sched = s.sched := rfl
@[simp] theorem State.emit_draws (s : State) (m : OutMsg) : (s.emit m).draws = s.draws := rfl

/-! ### putFunc -/

@[simp] theorem State.putFunc_h (s : State) (f : Func) : (s.putFunc f).h = s.h := rfl
@[simp] theorem State.putFunc_c (s : State) (f : Func) : (s.putFunc f).c = s.c := rfl
@[simp] theorem State.putFunc_harts (s : State) (f : Func) : (s.putFunc f).harts = s.harts := rfl
@[simp] theorem State.putFunc_cores (s : State) (f : Func) : (s.putFunc f).cores = s.cores := rfl
@[simp] theorem State.putFunc_mem (s : State) (f : Func) : (s.putFunc f).mem = s.mem := rfl
@[simp] theorem State.putFunc_pkg (s : State) (f : Func) : (s.putFunc f).pkg = s.pkg := rfl
@[simp] theorem State.putFunc_fab (s : State) (f : Func) : (s.putFunc f).fab = s.fab := rfl
@[simp] theorem State.putFunc_sip (s : State) (f : Func) : (s.putFunc f).sip = s.sip := rfl
@[simp] theorem State.putFunc_sched (s : State) (f : Func) : (s.putFunc f).sched = s.sched := rfl
@[simp] theorem State.putFunc_out (s : State) (f : Func) : (s.putFunc f).out = s.out := rfl
@[simp] theorem State.putFunc_draws (s : State) (f : Func) : (s.putFunc f).draws = s.draws := rfl

/-! ### putNet -/

@[simp] theorem State.putNet_h (s : State) (p : Packet) (reply : Bool) (src dst : Endpoint) (home : Nat) (encl : Byte) : (s.putNet p reply src dst home encl).h = s.h := rfl
@[simp] theorem State.putNet_c (s : State) (p : Packet) (reply : Bool) (src dst : Endpoint) (home : Nat) (encl : Byte) : (s.putNet p reply src dst home encl).c = s.c := rfl
@[simp] theorem State.putNet_harts (s : State) (p : Packet) (reply : Bool) (src dst : Endpoint) (home : Nat) (encl : Byte) : (s.putNet p reply src dst home encl).harts = s.harts := rfl
@[simp] theorem State.putNet_cores (s : State) (p : Packet) (reply : Bool) (src dst : Endpoint) (home : Nat) (encl : Byte) : (s.putNet p reply src dst home encl).cores = s.cores := rfl
@[simp] theorem State.putNet_mem (s : State) (p : Packet) (reply : Bool) (src dst : Endpoint) (home : Nat) (encl : Byte) : (s.putNet p reply src dst home encl).mem = s.mem := rfl
@[simp] theorem State.putNet_pkg (s : State) (p : Packet) (reply : Bool) (src dst : Endpoint) (home : Nat) (encl : Byte) : (s.putNet p reply src dst home encl).pkg = s.pkg := rfl
@[simp] theorem State.putNet_sip (s : State) (p : Packet) (reply : Bool) (src dst : Endpoint) (home : Nat) (encl : Byte) : (s.putNet p reply src dst home encl).sip = s.sip := rfl
@[simp] theorem State.putNet_hst (s : State) (p : Packet) (reply : Bool) (src dst : Endpoint) (home : Nat) (encl : Byte) : (s.putNet p reply src dst home encl).hst = s.hst := rfl
@[simp] theorem State.putNet_sched (s : State) (p : Packet) (reply : Bool) (src dst : Endpoint) (home : Nat) (encl : Byte) : (s.putNet p reply src dst home encl).sched = s.sched := rfl
@[simp] theorem State.putNet_out (s : State) (p : Packet) (reply : Bool) (src dst : Endpoint) (home : Nat) (encl : Byte) : (s.putNet p reply src dst home encl).out = s.out := rfl
@[simp] theorem State.putNet_draws (s : State) (p : Packet) (reply : Bool) (src dst : Endpoint) (home : Nat) (encl : Byte) : (s.putNet p reply src dst home encl).draws = s.draws := rfl

/-! ### dropNet -/

@[simp] theorem State.dropNet_h (s : State) (k : Nat) : (s.dropNet k).h = s.h := rfl
@[simp] theorem State.dropNet_c (s : State) (k : Nat) : (s.dropNet k).c = s.c := rfl
@[simp] theorem State.dropNet_harts (s : State) (k : Nat) : (s.dropNet k).harts = s.harts := rfl
@[simp] theorem State.dropNet_cores (s : State) (k : Nat) : (s.dropNet k).cores = s.cores := rfl
@[simp] theorem State.dropNet_mem (s : State) (k : Nat) : (s.dropNet k).mem = s.mem := rfl
@[simp] theorem State.dropNet_pkg (s : State) (k : Nat) : (s.dropNet k).pkg = s.pkg := rfl
@[simp] theorem State.dropNet_sip (s : State) (k : Nat) : (s.dropNet k).sip = s.sip := rfl
@[simp] theorem State.dropNet_hst (s : State) (k : Nat) : (s.dropNet k).hst = s.hst := rfl
@[simp] theorem State.dropNet_sched (s : State) (k : Nat) : (s.dropNet k).sched = s.sched := rfl
@[simp] theorem State.dropNet_out (s : State) (k : Nat) : (s.dropNet k).out = s.out := rfl
@[simp] theorem State.dropNet_draws (s : State) (k : Nat) : (s.dropNet k).draws = s.draws := rfl

/-! ### setNet -/

@[simp] theorem State.setNet_h (s : State) (k : Nat) (i : NetItem) : (s.setNet k i).h = s.h := rfl
@[simp] theorem State.setNet_c (s : State) (k : Nat) (i : NetItem) : (s.setNet k i).c = s.c := rfl
@[simp] theorem State.setNet_harts (s : State) (k : Nat) (i : NetItem) : (s.setNet k i).harts = s.harts := rfl
@[simp] theorem State.setNet_cores (s : State) (k : Nat) (i : NetItem) : (s.setNet k i).cores = s.cores := rfl
@[simp] theorem State.setNet_mem (s : State) (k : Nat) (i : NetItem) : (s.setNet k i).mem = s.mem := rfl
@[simp] theorem State.setNet_pkg (s : State) (k : Nat) (i : NetItem) : (s.setNet k i).pkg = s.pkg := rfl
@[simp] theorem State.setNet_sip (s : State) (k : Nat) (i : NetItem) : (s.setNet k i).sip = s.sip := rfl
@[simp] theorem State.setNet_hst (s : State) (k : Nat) (i : NetItem) : (s.setNet k i).hst = s.hst := rfl
@[simp] theorem State.setNet_sched (s : State) (k : Nat) (i : NetItem) : (s.setNet k i).sched = s.sched := rfl
@[simp] theorem State.setNet_out (s : State) (k : Nat) (i : NetItem) : (s.setNet k i).out = s.out := rfl
@[simp] theorem State.setNet_draws (s : State) (k : Nat) (i : NetItem) : (s.setNet k i).draws = s.draws := rfl

/-! ### mapLaunch -/

@[simp] theorem State.mapLaunch_h (s : State) (id : BitVec 32) (f : Launch → Launch) : (s.mapLaunch id f).h = s.h := rfl
@[simp] theorem State.mapLaunch_c (s : State) (id : BitVec 32) (f : Launch → Launch) : (s.mapLaunch id f).c = s.c := rfl
@[simp] theorem State.mapLaunch_harts (s : State) (id : BitVec 32) (f : Launch → Launch) : (s.mapLaunch id f).harts = s.harts := rfl
@[simp] theorem State.mapLaunch_cores (s : State) (id : BitVec 32) (f : Launch → Launch) : (s.mapLaunch id f).cores = s.cores := rfl
@[simp] theorem State.mapLaunch_mem (s : State) (id : BitVec 32) (f : Launch → Launch) : (s.mapLaunch id f).mem = s.mem := rfl
@[simp] theorem State.mapLaunch_pkg (s : State) (id : BitVec 32) (f : Launch → Launch) : (s.mapLaunch id f).pkg = s.pkg := rfl
@[simp] theorem State.mapLaunch_fab (s : State) (id : BitVec 32) (f : Launch → Launch) : (s.mapLaunch id f).fab = s.fab := rfl
@[simp] theorem State.mapLaunch_sip (s : State) (id : BitVec 32) (f : Launch → Launch) : (s.mapLaunch id f).sip = s.sip := rfl
@[simp] theorem State.mapLaunch_sched (s : State) (id : BitVec 32) (f : Launch → Launch) : (s.mapLaunch id f).sched = s.sched := rfl
@[simp] theorem State.mapLaunch_out (s : State) (id : BitVec 32) (f : Launch → Launch) : (s.mapLaunch id f).out = s.out := rfl
@[simp] theorem State.mapLaunch_draws (s : State) (id : BitVec 32) (f : Launch → Launch) : (s.mapLaunch id f).draws = s.draws := rfl

/-! ### mapHarts -/

@[simp] theorem State.mapHarts_c (s : State) (p : Hart → Bool) (f : Hart → Hart) : (s.mapHarts p f).c = s.c := rfl
@[simp] theorem State.mapHarts_cores (s : State) (p : Hart → Bool) (f : Hart → Hart) : (s.mapHarts p f).cores = s.cores := rfl
@[simp] theorem State.mapHarts_mem (s : State) (p : Hart → Bool) (f : Hart → Hart) : (s.mapHarts p f).mem = s.mem := rfl
@[simp] theorem State.mapHarts_pkg (s : State) (p : Hart → Bool) (f : Hart → Hart) : (s.mapHarts p f).pkg = s.pkg := rfl
@[simp] theorem State.mapHarts_fab (s : State) (p : Hart → Bool) (f : Hart → Hart) : (s.mapHarts p f).fab = s.fab := rfl
@[simp] theorem State.mapHarts_sip (s : State) (p : Hart → Bool) (f : Hart → Hart) : (s.mapHarts p f).sip = s.sip := rfl
@[simp] theorem State.mapHarts_hst (s : State) (p : Hart → Bool) (f : Hart → Hart) : (s.mapHarts p f).hst = s.hst := rfl
@[simp] theorem State.mapHarts_sched (s : State) (p : Hart → Bool) (f : Hart → Hart) : (s.mapHarts p f).sched = s.sched := rfl
@[simp] theorem State.mapHarts_out (s : State) (p : Hart → Bool) (f : Hart → Hart) : (s.mapHarts p f).out = s.out := rfl
@[simp] theorem State.mapHarts_draws (s : State) (p : Hart → Bool) (f : Hart → Hart) : (s.mapHarts p f).draws = s.draws := rfl

/-! ### mapCores -/

@[simp] theorem State.mapCores_h (s : State) (f : Core → Core) : (s.mapCores f).h = s.h := rfl
@[simp] theorem State.mapCores_harts (s : State) (f : Core → Core) : (s.mapCores f).harts = s.harts := rfl
@[simp] theorem State.mapCores_mem (s : State) (f : Core → Core) : (s.mapCores f).mem = s.mem := rfl
@[simp] theorem State.mapCores_pkg (s : State) (f : Core → Core) : (s.mapCores f).pkg = s.pkg := rfl
@[simp] theorem State.mapCores_fab (s : State) (f : Core → Core) : (s.mapCores f).fab = s.fab := rfl
@[simp] theorem State.mapCores_sip (s : State) (f : Core → Core) : (s.mapCores f).sip = s.sip := rfl
@[simp] theorem State.mapCores_hst (s : State) (f : Core → Core) : (s.mapCores f).hst = s.hst := rfl
@[simp] theorem State.mapCores_sched (s : State) (f : Core → Core) : (s.mapCores f).sched = s.sched := rfl
@[simp] theorem State.mapCores_out (s : State) (f : Core → Core) : (s.mapCores f).out = s.out := rfl
@[simp] theorem State.mapCores_draws (s : State) (f : Core → Core) : (s.mapCores f).draws = s.draws := rfl

/-! ### setMail -/

@[simp] theorem State.setMail_h (s : State) (core : Nat) (slot : BitVec 3) (launch : BitVec 32) (ms : List Msg) : (s.setMail core slot launch ms).h = s.h := rfl
@[simp] theorem State.setMail_c (s : State) (core : Nat) (slot : BitVec 3) (launch : BitVec 32) (ms : List Msg) : (s.setMail core slot launch ms).c = s.c := rfl
@[simp] theorem State.setMail_harts (s : State) (core : Nat) (slot : BitVec 3) (launch : BitVec 32) (ms : List Msg) : (s.setMail core slot launch ms).harts = s.harts := rfl
@[simp] theorem State.setMail_cores (s : State) (core : Nat) (slot : BitVec 3) (launch : BitVec 32) (ms : List Msg) : (s.setMail core slot launch ms).cores = s.cores := rfl
@[simp] theorem State.setMail_mem (s : State) (core : Nat) (slot : BitVec 3) (launch : BitVec 32) (ms : List Msg) : (s.setMail core slot launch ms).mem = s.mem := rfl
@[simp] theorem State.setMail_pkg (s : State) (core : Nat) (slot : BitVec 3) (launch : BitVec 32) (ms : List Msg) : (s.setMail core slot launch ms).pkg = s.pkg := rfl
@[simp] theorem State.setMail_fab (s : State) (core : Nat) (slot : BitVec 3) (launch : BitVec 32) (ms : List Msg) : (s.setMail core slot launch ms).fab = s.fab := rfl
@[simp] theorem State.setMail_sip (s : State) (core : Nat) (slot : BitVec 3) (launch : BitVec 32) (ms : List Msg) : (s.setMail core slot launch ms).sip = s.sip := rfl
@[simp] theorem State.setMail_sched (s : State) (core : Nat) (slot : BitVec 3) (launch : BitVec 32) (ms : List Msg) : (s.setMail core slot launch ms).sched = s.sched := rfl
@[simp] theorem State.setMail_out (s : State) (core : Nat) (slot : BitVec 3) (launch : BitVec 32) (ms : List Msg) : (s.setMail core slot launch ms).out = s.out := rfl
@[simp] theorem State.setMail_draws (s : State) (core : Nat) (slot : BitVec 3) (launch : BitVec 32) (ms : List Msg) : (s.setMail core slot launch ms).draws = s.draws := rfl

/-! ### setSlot -/

@[simp] theorem State.setSlot_h (s : State) (k : BitVec 4) (v : KeySlot) : (s.setSlot k v).h = s.h := rfl
@[simp] theorem State.setSlot_c (s : State) (k : BitVec 4) (v : KeySlot) : (s.setSlot k v).c = s.c := rfl
@[simp] theorem State.setSlot_harts (s : State) (k : BitVec 4) (v : KeySlot) : (s.setSlot k v).harts = s.harts := rfl
@[simp] theorem State.setSlot_cores (s : State) (k : BitVec 4) (v : KeySlot) : (s.setSlot k v).cores = s.cores := rfl
@[simp] theorem State.setSlot_mem (s : State) (k : BitVec 4) (v : KeySlot) : (s.setSlot k v).mem = s.mem := rfl
@[simp] theorem State.setSlot_pkg (s : State) (k : BitVec 4) (v : KeySlot) : (s.setSlot k v).pkg = s.pkg := rfl
@[simp] theorem State.setSlot_sip (s : State) (k : BitVec 4) (v : KeySlot) : (s.setSlot k v).sip = s.sip := rfl
@[simp] theorem State.setSlot_hst (s : State) (k : BitVec 4) (v : KeySlot) : (s.setSlot k v).hst = s.hst := rfl
@[simp] theorem State.setSlot_sched (s : State) (k : BitVec 4) (v : KeySlot) : (s.setSlot k v).sched = s.sched := rfl
@[simp] theorem State.setSlot_out (s : State) (k : BitVec 4) (v : KeySlot) : (s.setSlot k v).out = s.out := rfl
@[simp] theorem State.setSlot_draws (s : State) (k : BitVec 4) (v : KeySlot) : (s.setSlot k v).draws = s.draws := rfl

/-! ### putPool -/

@[simp] theorem State.putPool_h (s : State) (p : Pool) : (s.putPool p).h = s.h := rfl
@[simp] theorem State.putPool_c (s : State) (p : Pool) : (s.putPool p).c = s.c := rfl
@[simp] theorem State.putPool_harts (s : State) (p : Pool) : (s.putPool p).harts = s.harts := rfl
@[simp] theorem State.putPool_cores (s : State) (p : Pool) : (s.putPool p).cores = s.cores := rfl
@[simp] theorem State.putPool_mem (s : State) (p : Pool) : (s.putPool p).mem = s.mem := rfl
@[simp] theorem State.putPool_pkg (s : State) (p : Pool) : (s.putPool p).pkg = s.pkg := rfl
@[simp] theorem State.putPool_fab (s : State) (p : Pool) : (s.putPool p).fab = s.fab := rfl
@[simp] theorem State.putPool_hst (s : State) (p : Pool) : (s.putPool p).hst = s.hst := rfl
@[simp] theorem State.putPool_sched (s : State) (p : Pool) : (s.putPool p).sched = s.sched := rfl
@[simp] theorem State.putPool_out (s : State) (p : Pool) : (s.putPool p).out = s.out := rfl
@[simp] theorem State.putPool_draws (s : State) (p : Pool) : (s.putPool p).draws = s.draws := rfl

/-! ### putSq -/

@[simp] theorem State.putSq_h (s : State) (q : SqCmd) : (s.putSq q).h = s.h := rfl
@[simp] theorem State.putSq_c (s : State) (q : SqCmd) : (s.putSq q).c = s.c := rfl
@[simp] theorem State.putSq_harts (s : State) (q : SqCmd) : (s.putSq q).harts = s.harts := rfl
@[simp] theorem State.putSq_cores (s : State) (q : SqCmd) : (s.putSq q).cores = s.cores := rfl
@[simp] theorem State.putSq_mem (s : State) (q : SqCmd) : (s.putSq q).mem = s.mem := rfl
@[simp] theorem State.putSq_pkg (s : State) (q : SqCmd) : (s.putSq q).pkg = s.pkg := rfl
@[simp] theorem State.putSq_fab (s : State) (q : SqCmd) : (s.putSq q).fab = s.fab := rfl
@[simp] theorem State.putSq_hst (s : State) (q : SqCmd) : (s.putSq q).hst = s.hst := rfl
@[simp] theorem State.putSq_sched (s : State) (q : SqCmd) : (s.putSq q).sched = s.sched := rfl
@[simp] theorem State.putSq_out (s : State) (q : SqCmd) : (s.putSq q).out = s.out := rfl
@[simp] theorem State.putSq_draws (s : State) (q : SqCmd) : (s.putSq q).draws = s.draws := rfl

/-! ### issueCmd -/

@[simp] theorem State.issueCmd_h (s : State) (d : BitVec 2) (nsid lba n : Nat) (use : NvmeUse) (xfer : Nat) : (s.issueCmd d nsid lba n use xfer).h = s.h := rfl
@[simp] theorem State.issueCmd_c (s : State) (d : BitVec 2) (nsid lba n : Nat) (use : NvmeUse) (xfer : Nat) : (s.issueCmd d nsid lba n use xfer).c = s.c := rfl
@[simp] theorem State.issueCmd_harts (s : State) (d : BitVec 2) (nsid lba n : Nat) (use : NvmeUse) (xfer : Nat) : (s.issueCmd d nsid lba n use xfer).harts = s.harts := rfl
@[simp] theorem State.issueCmd_cores (s : State) (d : BitVec 2) (nsid lba n : Nat) (use : NvmeUse) (xfer : Nat) : (s.issueCmd d nsid lba n use xfer).cores = s.cores := rfl
@[simp] theorem State.issueCmd_mem (s : State) (d : BitVec 2) (nsid lba n : Nat) (use : NvmeUse) (xfer : Nat) : (s.issueCmd d nsid lba n use xfer).mem = s.mem := rfl
@[simp] theorem State.issueCmd_pkg (s : State) (d : BitVec 2) (nsid lba n : Nat) (use : NvmeUse) (xfer : Nat) : (s.issueCmd d nsid lba n use xfer).pkg = s.pkg := rfl
@[simp] theorem State.issueCmd_fab (s : State) (d : BitVec 2) (nsid lba n : Nat) (use : NvmeUse) (xfer : Nat) : (s.issueCmd d nsid lba n use xfer).fab = s.fab := rfl
@[simp] theorem State.issueCmd_hst (s : State) (d : BitVec 2) (nsid lba n : Nat) (use : NvmeUse) (xfer : Nat) : (s.issueCmd d nsid lba n use xfer).hst = s.hst := rfl
@[simp] theorem State.issueCmd_sched (s : State) (d : BitVec 2) (nsid lba n : Nat) (use : NvmeUse) (xfer : Nat) : (s.issueCmd d nsid lba n use xfer).sched = s.sched := rfl
@[simp] theorem State.issueCmd_out (s : State) (d : BitVec 2) (nsid lba n : Nat) (use : NvmeUse) (xfer : Nat) : (s.issueCmd d nsid lba n use xfer).out = s.out := rfl
@[simp] theorem State.issueCmd_draws (s : State) (d : BitVec 2) (nsid lba n : Nat) (use : NvmeUse) (xfer : Nat) : (s.issueCmd d nsid lba n use xfer).draws = s.draws := rfl

/-! ### revoking -/

@[simp] theorem State.revoking_h (s : State) (r : Revocation) : (s.revoking r).h = s.h := rfl
@[simp] theorem State.revoking_c (s : State) (r : Revocation) : (s.revoking r).c = s.c := rfl
@[simp] theorem State.revoking_harts (s : State) (r : Revocation) : (s.revoking r).harts = s.harts := rfl
@[simp] theorem State.revoking_cores (s : State) (r : Revocation) : (s.revoking r).cores = s.cores := rfl
@[simp] theorem State.revoking_mem (s : State) (r : Revocation) : (s.revoking r).mem = s.mem := rfl
@[simp] theorem State.revoking_pkg (s : State) (r : Revocation) : (s.revoking r).pkg = s.pkg := rfl
@[simp] theorem State.revoking_sip (s : State) (r : Revocation) : (s.revoking r).sip = s.sip := rfl
@[simp] theorem State.revoking_hst (s : State) (r : Revocation) : (s.revoking r).hst = s.hst := rfl
@[simp] theorem State.revoking_sched (s : State) (r : Revocation) : (s.revoking r).sched = s.sched := rfl
@[simp] theorem State.revoking_out (s : State) (r : Revocation) : (s.revoking r).out = s.out := rfl
@[simp] theorem State.revoking_draws (s : State) (r : Revocation) : (s.revoking r).draws = s.draws := rfl

/-! ### setPhase -/

@[simp] theorem State.setPhase_h (s : State) (n : Nat) : (s.setPhase n).h = s.h := rfl
@[simp] theorem State.setPhase_c (s : State) (n : Nat) : (s.setPhase n).c = s.c := rfl
@[simp] theorem State.setPhase_harts (s : State) (n : Nat) : (s.setPhase n).harts = s.harts := rfl
@[simp] theorem State.setPhase_cores (s : State) (n : Nat) : (s.setPhase n).cores = s.cores := rfl
@[simp] theorem State.setPhase_mem (s : State) (n : Nat) : (s.setPhase n).mem = s.mem := rfl
@[simp] theorem State.setPhase_fab (s : State) (n : Nat) : (s.setPhase n).fab = s.fab := rfl
@[simp] theorem State.setPhase_sip (s : State) (n : Nat) : (s.setPhase n).sip = s.sip := rfl
@[simp] theorem State.setPhase_hst (s : State) (n : Nat) : (s.setPhase n).hst = s.hst := rfl
@[simp] theorem State.setPhase_sched (s : State) (n : Nat) : (s.setPhase n).sched = s.sched := rfl
@[simp] theorem State.setPhase_out (s : State) (n : Nat) : (s.setPhase n).out = s.out := rfl
@[simp] theorem State.setPhase_draws (s : State) (n : Nat) : (s.setPhase n).draws = s.draws := rfl

/-! ### bringUp -/

@[simp] theorem State.bringUp_h (s : State) : (s.bringUp).h = s.h := rfl
@[simp] theorem State.bringUp_c (s : State) : (s.bringUp).c = s.c := rfl
@[simp] theorem State.bringUp_harts (s : State) : (s.bringUp).harts = s.harts := rfl
@[simp] theorem State.bringUp_cores (s : State) : (s.bringUp).cores = s.cores := rfl
@[simp] theorem State.bringUp_mem (s : State) : (s.bringUp).mem = s.mem := rfl
@[simp] theorem State.bringUp_fab (s : State) : (s.bringUp).fab = s.fab := rfl
@[simp] theorem State.bringUp_sip (s : State) : (s.bringUp).sip = s.sip := rfl
@[simp] theorem State.bringUp_hst (s : State) : (s.bringUp).hst = s.hst := rfl
@[simp] theorem State.bringUp_sched (s : State) : (s.bringUp).sched = s.sched := rfl
@[simp] theorem State.bringUp_out (s : State) : (s.bringUp).out = s.out := rfl
@[simp] theorem State.bringUp_draws (s : State) : (s.bringUp).draws = s.draws := rfl

/-! ### busyFor -/

@[simp] theorem State.busyFor_c (s : State) (n : Nat) : (s.busyFor n).c = s.c := rfl
@[simp] theorem State.busyFor_harts (s : State) (n : Nat) : (s.busyFor n).harts = s.harts := rfl
@[simp] theorem State.busyFor_cores (s : State) (n : Nat) : (s.busyFor n).cores = s.cores := rfl
@[simp] theorem State.busyFor_mem (s : State) (n : Nat) : (s.busyFor n).mem = s.mem := rfl
@[simp] theorem State.busyFor_pkg (s : State) (n : Nat) : (s.busyFor n).pkg = s.pkg := rfl
@[simp] theorem State.busyFor_fab (s : State) (n : Nat) : (s.busyFor n).fab = s.fab := rfl
@[simp] theorem State.busyFor_sip (s : State) (n : Nat) : (s.busyFor n).sip = s.sip := rfl
@[simp] theorem State.busyFor_hst (s : State) (n : Nat) : (s.busyFor n).hst = s.hst := rfl
@[simp] theorem State.busyFor_sched (s : State) (n : Nat) : (s.busyFor n).sched = s.sched := rfl
@[simp] theorem State.busyFor_out (s : State) (n : Nat) : (s.busyFor n).out = s.out := rfl
@[simp] theorem State.busyFor_draws (s : State) (n : Nat) : (s.busyFor n).draws = s.draws := rfl

/-! ### setGroup -/

@[simp] theorem State.setGroup_c (s : State) (n g t bits : Nat) : (s.setGroup n g t bits).c = s.c := rfl
@[simp] theorem State.setGroup_harts (s : State) (n g t bits : Nat) : (s.setGroup n g t bits).harts = s.harts := rfl
@[simp] theorem State.setGroup_cores (s : State) (n g t bits : Nat) : (s.setGroup n g t bits).cores = s.cores := rfl
@[simp] theorem State.setGroup_mem (s : State) (n g t bits : Nat) : (s.setGroup n g t bits).mem = s.mem := rfl
@[simp] theorem State.setGroup_pkg (s : State) (n g t bits : Nat) : (s.setGroup n g t bits).pkg = s.pkg := rfl
@[simp] theorem State.setGroup_fab (s : State) (n g t bits : Nat) : (s.setGroup n g t bits).fab = s.fab := rfl
@[simp] theorem State.setGroup_sip (s : State) (n g t bits : Nat) : (s.setGroup n g t bits).sip = s.sip := rfl
@[simp] theorem State.setGroup_hst (s : State) (n g t bits : Nat) : (s.setGroup n g t bits).hst = s.hst := rfl
@[simp] theorem State.setGroup_sched (s : State) (n g t bits : Nat) : (s.setGroup n g t bits).sched = s.sched := rfl
@[simp] theorem State.setGroup_out (s : State) (n g t bits : Nat) : (s.setGroup n g t bits).out = s.out := rfl
@[simp] theorem State.setGroup_draws (s : State) (n g t bits : Nat) : (s.setGroup n g t bits).draws = s.draws := rfl

/-! ### setRt -/

@[simp] theorem State.setRt_c (s : State) (t : BitVec 3) (r : RouteVal) : (s.setRt t r).c = s.c := rfl
@[simp] theorem State.setRt_harts (s : State) (t : BitVec 3) (r : RouteVal) : (s.setRt t r).harts = s.harts := rfl
@[simp] theorem State.setRt_cores (s : State) (t : BitVec 3) (r : RouteVal) : (s.setRt t r).cores = s.cores := rfl
@[simp] theorem State.setRt_mem (s : State) (t : BitVec 3) (r : RouteVal) : (s.setRt t r).mem = s.mem := rfl
@[simp] theorem State.setRt_pkg (s : State) (t : BitVec 3) (r : RouteVal) : (s.setRt t r).pkg = s.pkg := rfl
@[simp] theorem State.setRt_fab (s : State) (t : BitVec 3) (r : RouteVal) : (s.setRt t r).fab = s.fab := rfl
@[simp] theorem State.setRt_sip (s : State) (t : BitVec 3) (r : RouteVal) : (s.setRt t r).sip = s.sip := rfl
@[simp] theorem State.setRt_hst (s : State) (t : BitVec 3) (r : RouteVal) : (s.setRt t r).hst = s.hst := rfl
@[simp] theorem State.setRt_sched (s : State) (t : BitVec 3) (r : RouteVal) : (s.setRt t r).sched = s.sched := rfl
@[simp] theorem State.setRt_out (s : State) (t : BitVec 3) (r : RouteVal) : (s.setRt t r).out = s.out := rfl
@[simp] theorem State.setRt_draws (s : State) (t : BitVec 3) (r : RouteVal) : (s.setRt t r).draws = s.draws := rfl

/-! ### count -/

@[simp] theorem State.count_h (s : State) (code n : Nat) : (s.count code n).h = s.h := rfl
@[simp] theorem State.count_harts (s : State) (code n : Nat) : (s.count code n).harts = s.harts := rfl
@[simp] theorem State.count_cores (s : State) (code n : Nat) : (s.count code n).cores = s.cores := rfl
@[simp] theorem State.count_mem (s : State) (code n : Nat) : (s.count code n).mem = s.mem := rfl
@[simp] theorem State.count_pkg (s : State) (code n : Nat) : (s.count code n).pkg = s.pkg := rfl
@[simp] theorem State.count_fab (s : State) (code n : Nat) : (s.count code n).fab = s.fab := rfl
@[simp] theorem State.count_sip (s : State) (code n : Nat) : (s.count code n).sip = s.sip := rfl
@[simp] theorem State.count_hst (s : State) (code n : Nat) : (s.count code n).hst = s.hst := rfl
@[simp] theorem State.count_sched (s : State) (code n : Nat) : (s.count code n).sched = s.sched := rfl
@[simp] theorem State.count_out (s : State) (code n : Nat) : (s.count code n).out = s.out := rfl
@[simp] theorem State.count_draws (s : State) (code n : Nat) : (s.count code n).draws = s.draws := rfl

/-! ### countAccess -/

@[simp] theorem State.countAccess_h (s : State) (code : Nat) : (s.countAccess code).h = s.h := rfl
@[simp] theorem State.countAccess_harts (s : State) (code : Nat) : (s.countAccess code).harts = s.harts := rfl
@[simp] theorem State.countAccess_cores (s : State) (code : Nat) : (s.countAccess code).cores = s.cores := rfl
@[simp] theorem State.countAccess_mem (s : State) (code : Nat) : (s.countAccess code).mem = s.mem := rfl
@[simp] theorem State.countAccess_pkg (s : State) (code : Nat) : (s.countAccess code).pkg = s.pkg := rfl
@[simp] theorem State.countAccess_fab (s : State) (code : Nat) : (s.countAccess code).fab = s.fab := rfl
@[simp] theorem State.countAccess_sip (s : State) (code : Nat) : (s.countAccess code).sip = s.sip := rfl
@[simp] theorem State.countAccess_hst (s : State) (code : Nat) : (s.countAccess code).hst = s.hst := rfl
@[simp] theorem State.countAccess_sched (s : State) (code : Nat) : (s.countAccess code).sched = s.sched := rfl
@[simp] theorem State.countAccess_out (s : State) (code : Nat) : (s.countAccess code).out = s.out := rfl

/-! ### answerLater -/

@[simp] theorem State.answerLater_h (s : State) (i : NetItem) (a : Answer) : (s.answerLater i a).h = s.h := rfl
@[simp] theorem State.answerLater_c (s : State) (i : NetItem) (a : Answer) : (s.answerLater i a).c = s.c := rfl
@[simp] theorem State.answerLater_harts (s : State) (i : NetItem) (a : Answer) : (s.answerLater i a).harts = s.harts := rfl
@[simp] theorem State.answerLater_cores (s : State) (i : NetItem) (a : Answer) : (s.answerLater i a).cores = s.cores := rfl
@[simp] theorem State.answerLater_mem (s : State) (i : NetItem) (a : Answer) : (s.answerLater i a).mem = s.mem := rfl
@[simp] theorem State.answerLater_pkg (s : State) (i : NetItem) (a : Answer) : (s.answerLater i a).pkg = s.pkg := rfl
@[simp] theorem State.answerLater_sip (s : State) (i : NetItem) (a : Answer) : (s.answerLater i a).sip = s.sip := rfl
@[simp] theorem State.answerLater_hst (s : State) (i : NetItem) (a : Answer) : (s.answerLater i a).hst = s.hst := rfl
@[simp] theorem State.answerLater_sched (s : State) (i : NetItem) (a : Answer) : (s.answerLater i a).sched = s.sched := rfl
@[simp] theorem State.answerLater_out (s : State) (i : NetItem) (a : Answer) : (s.answerLater i a).out = s.out := rfl
@[simp] theorem State.answerLater_draws (s : State) (i : NetItem) (a : Answer) : (s.answerLater i a).draws = s.draws := rfl

/-! ### tell -/

@[simp] theorem State.tell_h (s : State) (dst : DevId) (kind a b : Nat) : (s.tell dst kind a b).h = s.h := rfl
@[simp] theorem State.tell_c (s : State) (dst : DevId) (kind a b : Nat) : (s.tell dst kind a b).c = s.c := rfl
@[simp] theorem State.tell_harts (s : State) (dst : DevId) (kind a b : Nat) : (s.tell dst kind a b).harts = s.harts := rfl
@[simp] theorem State.tell_cores (s : State) (dst : DevId) (kind a b : Nat) : (s.tell dst kind a b).cores = s.cores := rfl
@[simp] theorem State.tell_mem (s : State) (dst : DevId) (kind a b : Nat) : (s.tell dst kind a b).mem = s.mem := rfl
@[simp] theorem State.tell_pkg (s : State) (dst : DevId) (kind a b : Nat) : (s.tell dst kind a b).pkg = s.pkg := rfl
@[simp] theorem State.tell_fab (s : State) (dst : DevId) (kind a b : Nat) : (s.tell dst kind a b).fab = s.fab := rfl
@[simp] theorem State.tell_sip (s : State) (dst : DevId) (kind a b : Nat) : (s.tell dst kind a b).sip = s.sip := rfl
@[simp] theorem State.tell_hst (s : State) (dst : DevId) (kind a b : Nat) : (s.tell dst kind a b).hst = s.hst := rfl
@[simp] theorem State.tell_sched (s : State) (dst : DevId) (kind a b : Nat) : (s.tell dst kind a b).sched = s.sched := rfl
@[simp] theorem State.tell_draws (s : State) (dst : DevId) (kind a b : Nat) : (s.tell dst kind a b).draws = s.draws := rfl

/-! ### leaveWaits -/

@[simp] theorem State.leaveWaits_h (s : State) (core : Nat) (slot : BitVec 3) (launch : BitVec 32) : (s.leaveWaits core slot launch).h = s.h := rfl
@[simp] theorem State.leaveWaits_c (s : State) (core : Nat) (slot : BitVec 3) (launch : BitVec 32) : (s.leaveWaits core slot launch).c = s.c := rfl
@[simp] theorem State.leaveWaits_harts (s : State) (core : Nat) (slot : BitVec 3) (launch : BitVec 32) : (s.leaveWaits core slot launch).harts = s.harts := rfl
@[simp] theorem State.leaveWaits_cores (s : State) (core : Nat) (slot : BitVec 3) (launch : BitVec 32) : (s.leaveWaits core slot launch).cores = s.cores := rfl
@[simp] theorem State.leaveWaits_pkg (s : State) (core : Nat) (slot : BitVec 3) (launch : BitVec 32) : (s.leaveWaits core slot launch).pkg = s.pkg := rfl
@[simp] theorem State.leaveWaits_fab (s : State) (core : Nat) (slot : BitVec 3) (launch : BitVec 32) : (s.leaveWaits core slot launch).fab = s.fab := rfl
@[simp] theorem State.leaveWaits_sip (s : State) (core : Nat) (slot : BitVec 3) (launch : BitVec 32) : (s.leaveWaits core slot launch).sip = s.sip := rfl
@[simp] theorem State.leaveWaits_hst (s : State) (core : Nat) (slot : BitVec 3) (launch : BitVec 32) : (s.leaveWaits core slot launch).hst = s.hst := rfl
@[simp] theorem State.leaveWaits_sched (s : State) (core : Nat) (slot : BitVec 3) (launch : BitVec 32) : (s.leaveWaits core slot launch).sched = s.sched := rfl
@[simp] theorem State.leaveWaits_out (s : State) (core : Nat) (slot : BitVec 3) (launch : BitVec 32) : (s.leaveWaits core slot launch).out = s.out := rfl
@[simp] theorem State.leaveWaits_draws (s : State) (core : Nat) (slot : BitVec 3) (launch : BitVec 32) : (s.leaveWaits core slot launch).draws = s.draws := rfl

/-! ### wakeSync -/

@[simp] theorem State.wakeSync_c (s : State) : (s.wakeSync).c = s.c := rfl
@[simp] theorem State.wakeSync_cores (s : State) : (s.wakeSync).cores = s.cores := rfl
@[simp] theorem State.wakeSync_mem (s : State) : (s.wakeSync).mem = s.mem := rfl
@[simp] theorem State.wakeSync_pkg (s : State) : (s.wakeSync).pkg = s.pkg := rfl
@[simp] theorem State.wakeSync_fab (s : State) : (s.wakeSync).fab = s.fab := rfl
@[simp] theorem State.wakeSync_sip (s : State) : (s.wakeSync).sip = s.sip := rfl
@[simp] theorem State.wakeSync_hst (s : State) : (s.wakeSync).hst = s.hst := rfl
@[simp] theorem State.wakeSync_sched (s : State) : (s.wakeSync).sched = s.sched := rfl
@[simp] theorem State.wakeSync_out (s : State) : (s.wakeSync).out = s.out := rfl
@[simp] theorem State.wakeSync_draws (s : State) : (s.wakeSync).draws = s.draws := rfl

/-! ### wakeRings -/

@[simp] theorem State.wakeRings_c (s : State) : (s.wakeRings).c = s.c := rfl
@[simp] theorem State.wakeRings_cores (s : State) : (s.wakeRings).cores = s.cores := rfl
@[simp] theorem State.wakeRings_mem (s : State) : (s.wakeRings).mem = s.mem := rfl
@[simp] theorem State.wakeRings_pkg (s : State) : (s.wakeRings).pkg = s.pkg := rfl
@[simp] theorem State.wakeRings_fab (s : State) : (s.wakeRings).fab = s.fab := rfl
@[simp] theorem State.wakeRings_sip (s : State) : (s.wakeRings).sip = s.sip := rfl
@[simp] theorem State.wakeRings_hst (s : State) : (s.wakeRings).hst = s.hst := rfl
@[simp] theorem State.wakeRings_sched (s : State) : (s.wakeRings).sched = s.sched := rfl
@[simp] theorem State.wakeRings_out (s : State) : (s.wakeRings).out = s.out := rfl
@[simp] theorem State.wakeRings_draws (s : State) : (s.wakeRings).draws = s.draws := rfl

/-! ### mapCopy -/

@[simp] theorem State.mapCopy_h (s : State) (id : BitVec 32) (f : CopyCmd → CopyCmd) : (s.mapCopy id f).h = s.h := rfl
@[simp] theorem State.mapCopy_harts (s : State) (id : BitVec 32) (f : CopyCmd → CopyCmd) : (s.mapCopy id f).harts = s.harts := rfl
@[simp] theorem State.mapCopy_cores (s : State) (id : BitVec 32) (f : CopyCmd → CopyCmd) : (s.mapCopy id f).cores = s.cores := rfl
@[simp] theorem State.mapCopy_mem (s : State) (id : BitVec 32) (f : CopyCmd → CopyCmd) : (s.mapCopy id f).mem = s.mem := rfl
@[simp] theorem State.mapCopy_pkg (s : State) (id : BitVec 32) (f : CopyCmd → CopyCmd) : (s.mapCopy id f).pkg = s.pkg := rfl
@[simp] theorem State.mapCopy_fab (s : State) (id : BitVec 32) (f : CopyCmd → CopyCmd) : (s.mapCopy id f).fab = s.fab := rfl
@[simp] theorem State.mapCopy_sip (s : State) (id : BitVec 32) (f : CopyCmd → CopyCmd) : (s.mapCopy id f).sip = s.sip := rfl
@[simp] theorem State.mapCopy_hst (s : State) (id : BitVec 32) (f : CopyCmd → CopyCmd) : (s.mapCopy id f).hst = s.hst := rfl
@[simp] theorem State.mapCopy_sched (s : State) (id : BitVec 32) (f : CopyCmd → CopyCmd) : (s.mapCopy id f).sched = s.sched := rfl
@[simp] theorem State.mapCopy_out (s : State) (id : BitVec 32) (f : CopyCmd → CopyCmd) : (s.mapCopy id f).out = s.out := rfl
@[simp] theorem State.mapCopy_draws (s : State) (id : BitVec 32) (f : CopyCmd → CopyCmd) : (s.mapCopy id f).draws = s.draws := rfl

/-! ### dropCmd -/

@[simp] theorem State.dropCmd_h (s : State) (c : NvmeCmd) : (s.dropCmd c).h = s.h := rfl
@[simp] theorem State.dropCmd_c (s : State) (c : NvmeCmd) : (s.dropCmd c).c = s.c := rfl
@[simp] theorem State.dropCmd_harts (s : State) (c : NvmeCmd) : (s.dropCmd c).harts = s.harts := rfl
@[simp] theorem State.dropCmd_cores (s : State) (c : NvmeCmd) : (s.dropCmd c).cores = s.cores := rfl
@[simp] theorem State.dropCmd_mem (s : State) (c : NvmeCmd) : (s.dropCmd c).mem = s.mem := rfl
@[simp] theorem State.dropCmd_pkg (s : State) (c : NvmeCmd) : (s.dropCmd c).pkg = s.pkg := rfl
@[simp] theorem State.dropCmd_fab (s : State) (c : NvmeCmd) : (s.dropCmd c).fab = s.fab := rfl
@[simp] theorem State.dropCmd_hst (s : State) (c : NvmeCmd) : (s.dropCmd c).hst = s.hst := rfl
@[simp] theorem State.dropCmd_sched (s : State) (c : NvmeCmd) : (s.dropCmd c).sched = s.sched := rfl
@[simp] theorem State.dropCmd_out (s : State) (c : NvmeCmd) : (s.dropCmd c).out = s.out := rfl
@[simp] theorem State.dropCmd_draws (s : State) (c : NvmeCmd) : (s.dropCmd c).draws = s.draws := rfl

/-! ### putBlocks -/

@[simp] theorem State.putBlocks_h (s : State) (bs : List DriveBlock) : (s.putBlocks bs).h = s.h := rfl
@[simp] theorem State.putBlocks_c (s : State) (bs : List DriveBlock) : (s.putBlocks bs).c = s.c := rfl
@[simp] theorem State.putBlocks_harts (s : State) (bs : List DriveBlock) : (s.putBlocks bs).harts = s.harts := rfl
@[simp] theorem State.putBlocks_cores (s : State) (bs : List DriveBlock) : (s.putBlocks bs).cores = s.cores := rfl
@[simp] theorem State.putBlocks_mem (s : State) (bs : List DriveBlock) : (s.putBlocks bs).mem = s.mem := rfl
@[simp] theorem State.putBlocks_pkg (s : State) (bs : List DriveBlock) : (s.putBlocks bs).pkg = s.pkg := rfl
@[simp] theorem State.putBlocks_fab (s : State) (bs : List DriveBlock) : (s.putBlocks bs).fab = s.fab := rfl
@[simp] theorem State.putBlocks_hst (s : State) (bs : List DriveBlock) : (s.putBlocks bs).hst = s.hst := rfl
@[simp] theorem State.putBlocks_sched (s : State) (bs : List DriveBlock) : (s.putBlocks bs).sched = s.sched := rfl
@[simp] theorem State.putBlocks_out (s : State) (bs : List DriveBlock) : (s.putBlocks bs).out = s.out := rfl
@[simp] theorem State.putBlocks_draws (s : State) (bs : List DriveBlock) : (s.putBlocks bs).draws = s.draws := rfl

/-! ### forgetBlocks -/

@[simp] theorem State.forgetBlocks_h (s : State) (d : BitVec 2) (nsid lba n : Nat) : (s.forgetBlocks d nsid lba n).h = s.h := rfl
@[simp] theorem State.forgetBlocks_c (s : State) (d : BitVec 2) (nsid lba n : Nat) : (s.forgetBlocks d nsid lba n).c = s.c := rfl
@[simp] theorem State.forgetBlocks_harts (s : State) (d : BitVec 2) (nsid lba n : Nat) : (s.forgetBlocks d nsid lba n).harts = s.harts := rfl
@[simp] theorem State.forgetBlocks_cores (s : State) (d : BitVec 2) (nsid lba n : Nat) : (s.forgetBlocks d nsid lba n).cores = s.cores := rfl
@[simp] theorem State.forgetBlocks_mem (s : State) (d : BitVec 2) (nsid lba n : Nat) : (s.forgetBlocks d nsid lba n).mem = s.mem := rfl
@[simp] theorem State.forgetBlocks_pkg (s : State) (d : BitVec 2) (nsid lba n : Nat) : (s.forgetBlocks d nsid lba n).pkg = s.pkg := rfl
@[simp] theorem State.forgetBlocks_fab (s : State) (d : BitVec 2) (nsid lba n : Nat) : (s.forgetBlocks d nsid lba n).fab = s.fab := rfl
@[simp] theorem State.forgetBlocks_hst (s : State) (d : BitVec 2) (nsid lba n : Nat) : (s.forgetBlocks d nsid lba n).hst = s.hst := rfl
@[simp] theorem State.forgetBlocks_sched (s : State) (d : BitVec 2) (nsid lba n : Nat) : (s.forgetBlocks d nsid lba n).sched = s.sched := rfl
@[simp] theorem State.forgetBlocks_out (s : State) (d : BitVec 2) (nsid lba n : Nat) : (s.forgetBlocks d nsid lba n).out = s.out := rfl
@[simp] theorem State.forgetBlocks_draws (s : State) (d : BitVec 2) (nsid lba n : Nat) : (s.forgetBlocks d nsid lba n).draws = s.draws := rfl

/-! ### zeroHbm -/

@[simp] theorem State.zeroHbm_h (s : State) (lo n key : Nat) : (s.zeroHbm lo n key).h = s.h := rfl
@[simp] theorem State.zeroHbm_c (s : State) (lo n key : Nat) : (s.zeroHbm lo n key).c = s.c := rfl
@[simp] theorem State.zeroHbm_harts (s : State) (lo n key : Nat) : (s.zeroHbm lo n key).harts = s.harts := rfl
@[simp] theorem State.zeroHbm_cores (s : State) (lo n key : Nat) : (s.zeroHbm lo n key).cores = s.cores := rfl
@[simp] theorem State.zeroHbm_pkg (s : State) (lo n key : Nat) : (s.zeroHbm lo n key).pkg = s.pkg := rfl
@[simp] theorem State.zeroHbm_fab (s : State) (lo n key : Nat) : (s.zeroHbm lo n key).fab = s.fab := rfl
@[simp] theorem State.zeroHbm_sip (s : State) (lo n key : Nat) : (s.zeroHbm lo n key).sip = s.sip := rfl
@[simp] theorem State.zeroHbm_hst (s : State) (lo n key : Nat) : (s.zeroHbm lo n key).hst = s.hst := rfl
@[simp] theorem State.zeroHbm_sched (s : State) (lo n key : Nat) : (s.zeroHbm lo n key).sched = s.sched := rfl
@[simp] theorem State.zeroHbm_out (s : State) (lo n key : Nat) : (s.zeroHbm lo n key).out = s.out := rfl
@[simp] theorem State.zeroHbm_draws (s : State) (lo n key : Nat) : (s.zeroHbm lo n key).draws = s.draws := rfl

/-! ### dropLaunch -/

@[simp] theorem State.dropLaunch_pkg (s : State) (l : Launch) : (s.dropLaunch l).pkg = s.pkg := rfl
@[simp] theorem State.dropLaunch_sip (s : State) (l : Launch) : (s.dropLaunch l).sip = s.sip := rfl
@[simp] theorem State.dropLaunch_sched (s : State) (l : Launch) : (s.dropLaunch l).sched = s.sched := rfl
@[simp] theorem State.dropLaunch_out (s : State) (l : Launch) : (s.dropLaunch l).out = s.out := rfl
@[simp] theorem State.dropLaunch_draws (s : State) (l : Launch) : (s.dropLaunch l).draws = s.draws := rfl

/-! ### bubble -/

@[simp] theorem State.bubble_h (s : State) (slot : BitVec 3) : (s.bubble slot).h = s.h := by unfold State.bubble; (repeat' split) <;> rfl
@[simp] theorem State.bubble_harts (s : State) (slot : BitVec 3) : (s.bubble slot).harts = s.harts := by unfold State.bubble; (repeat' split) <;> rfl
@[simp] theorem State.bubble_cores (s : State) (slot : BitVec 3) : (s.bubble slot).cores = s.cores := by unfold State.bubble; (repeat' split) <;> rfl
@[simp] theorem State.bubble_mem (s : State) (slot : BitVec 3) : (s.bubble slot).mem = s.mem := by unfold State.bubble; (repeat' split) <;> rfl
@[simp] theorem State.bubble_pkg (s : State) (slot : BitVec 3) : (s.bubble slot).pkg = s.pkg := by unfold State.bubble; (repeat' split) <;> rfl
@[simp] theorem State.bubble_fab (s : State) (slot : BitVec 3) : (s.bubble slot).fab = s.fab := by unfold State.bubble; (repeat' split) <;> rfl
@[simp] theorem State.bubble_sip (s : State) (slot : BitVec 3) : (s.bubble slot).sip = s.sip := by unfold State.bubble; (repeat' split) <;> rfl
@[simp] theorem State.bubble_hst (s : State) (slot : BitVec 3) : (s.bubble slot).hst = s.hst := by unfold State.bubble; (repeat' split) <;> rfl
@[simp] theorem State.bubble_sched (s : State) (slot : BitVec 3) : (s.bubble slot).sched = s.sched := by unfold State.bubble; (repeat' split) <;> rfl
@[simp] theorem State.bubble_out (s : State) (slot : BitVec 3) : (s.bubble slot).out = s.out := by unfold State.bubble; (repeat' split) <;> rfl
@[simp] theorem State.bubble_draws (s : State) (slot : BitVec 3) : (s.bubble slot).draws = s.draws := by unfold State.bubble; (repeat' split) <;> rfl

/-! ### setLink -/

@[simp] theorem State.setLink_h (s : State) (l : LinkRef) (k : Link) : (s.setLink l k).h = s.h := by unfold State.setLink; (repeat' split) <;> rfl
@[simp] theorem State.setLink_c (s : State) (l : LinkRef) (k : Link) : (s.setLink l k).c = s.c := by unfold State.setLink; (repeat' split) <;> rfl
@[simp] theorem State.setLink_harts (s : State) (l : LinkRef) (k : Link) : (s.setLink l k).harts = s.harts := by unfold State.setLink; (repeat' split) <;> rfl
@[simp] theorem State.setLink_cores (s : State) (l : LinkRef) (k : Link) : (s.setLink l k).cores = s.cores := by unfold State.setLink; (repeat' split) <;> rfl
@[simp] theorem State.setLink_mem (s : State) (l : LinkRef) (k : Link) : (s.setLink l k).mem = s.mem := by unfold State.setLink; (repeat' split) <;> rfl
@[simp] theorem State.setLink_pkg (s : State) (l : LinkRef) (k : Link) : (s.setLink l k).pkg = s.pkg := by unfold State.setLink; (repeat' split) <;> rfl
@[simp] theorem State.setLink_sip (s : State) (l : LinkRef) (k : Link) : (s.setLink l k).sip = s.sip := by unfold State.setLink; (repeat' split) <;> rfl
@[simp] theorem State.setLink_hst (s : State) (l : LinkRef) (k : Link) : (s.setLink l k).hst = s.hst := by unfold State.setLink; (repeat' split) <;> rfl
@[simp] theorem State.setLink_sched (s : State) (l : LinkRef) (k : Link) : (s.setLink l k).sched = s.sched := by unfold State.setLink; (repeat' split) <;> rfl
@[simp] theorem State.setLink_out (s : State) (l : LinkRef) (k : Link) : (s.setLink l k).out = s.out := by unfold State.setLink; (repeat' split) <;> rfl
@[simp] theorem State.setLink_draws (s : State) (l : LinkRef) (k : Link) : (s.setLink l k).draws = s.draws := by unfold State.setLink; (repeat' split) <;> rfl

/-! ### putCore -/

@[simp] theorem State.putCore_h (s : State) (c : Core) : (s.putCore c).h = s.h := by unfold State.putCore; (repeat' split) <;> rfl
@[simp] theorem State.putCore_harts (s : State) (c : Core) : (s.putCore c).harts = s.harts := by unfold State.putCore; (repeat' split) <;> rfl
@[simp] theorem State.putCore_mem (s : State) (c : Core) : (s.putCore c).mem = s.mem := by unfold State.putCore; (repeat' split) <;> rfl
@[simp] theorem State.putCore_pkg (s : State) (c : Core) : (s.putCore c).pkg = s.pkg := by unfold State.putCore; (repeat' split) <;> rfl
@[simp] theorem State.putCore_fab (s : State) (c : Core) : (s.putCore c).fab = s.fab := by unfold State.putCore; (repeat' split) <;> rfl
@[simp] theorem State.putCore_sip (s : State) (c : Core) : (s.putCore c).sip = s.sip := by unfold State.putCore; (repeat' split) <;> rfl
@[simp] theorem State.putCore_hst (s : State) (c : Core) : (s.putCore c).hst = s.hst := by unfold State.putCore; (repeat' split) <;> rfl
@[simp] theorem State.putCore_sched (s : State) (c : Core) : (s.putCore c).sched = s.sched := by unfold State.putCore; (repeat' split) <;> rfl
@[simp] theorem State.putCore_out (s : State) (c : Core) : (s.putCore c).out = s.out := by unfold State.putCore; (repeat' split) <;> rfl
@[simp] theorem State.putCore_draws (s : State) (c : Core) : (s.putCore c).draws = s.draws := by unfold State.putCore; (repeat' split) <;> rfl

/-! ### putHart -/

@[simp] theorem State.putHart_c (s : State) (h : Hart) : (s.putHart h).c = s.c := by unfold State.putHart; (repeat' split) <;> rfl
@[simp] theorem State.putHart_cores (s : State) (h : Hart) : (s.putHart h).cores = s.cores := by unfold State.putHart; (repeat' split) <;> rfl
@[simp] theorem State.putHart_mem (s : State) (h : Hart) : (s.putHart h).mem = s.mem := by unfold State.putHart; (repeat' split) <;> rfl
@[simp] theorem State.putHart_pkg (s : State) (h : Hart) : (s.putHart h).pkg = s.pkg := by unfold State.putHart; (repeat' split) <;> rfl
@[simp] theorem State.putHart_fab (s : State) (h : Hart) : (s.putHart h).fab = s.fab := by unfold State.putHart; (repeat' split) <;> rfl
@[simp] theorem State.putHart_sip (s : State) (h : Hart) : (s.putHart h).sip = s.sip := by unfold State.putHart; (repeat' split) <;> rfl
@[simp] theorem State.putHart_hst (s : State) (h : Hart) : (s.putHart h).hst = s.hst := by unfold State.putHart; (repeat' split) <;> rfl
@[simp] theorem State.putHart_sched (s : State) (h : Hart) : (s.putHart h).sched = s.sched := by unfold State.putHart; (repeat' split) <;> rfl
@[simp] theorem State.putHart_out (s : State) (h : Hart) : (s.putHart h).out = s.out := by unfold State.putHart; (repeat' split) <;> rfl
@[simp] theorem State.putHart_draws (s : State) (h : Hart) : (s.putHart h).draws = s.draws := by unfold State.putHart; (repeat' split) <;> rfl

/-! ### noteWrap -/

@[simp] theorem State.noteWrap_h (s : State) (r : CounterRef) (wrapped : Bool) : (s.noteWrap r wrapped).h = s.h := by unfold State.noteWrap; (repeat' split) <;> rfl
@[simp] theorem State.noteWrap_c (s : State) (r : CounterRef) (wrapped : Bool) : (s.noteWrap r wrapped).c = s.c := by unfold State.noteWrap; (repeat' split) <;> rfl
@[simp] theorem State.noteWrap_harts (s : State) (r : CounterRef) (wrapped : Bool) : (s.noteWrap r wrapped).harts = s.harts := by unfold State.noteWrap; (repeat' split) <;> rfl
@[simp] theorem State.noteWrap_cores (s : State) (r : CounterRef) (wrapped : Bool) : (s.noteWrap r wrapped).cores = s.cores := by unfold State.noteWrap; (repeat' split) <;> rfl
@[simp] theorem State.noteWrap_mem (s : State) (r : CounterRef) (wrapped : Bool) : (s.noteWrap r wrapped).mem = s.mem := by unfold State.noteWrap; (repeat' split) <;> rfl
@[simp] theorem State.noteWrap_pkg (s : State) (r : CounterRef) (wrapped : Bool) : (s.noteWrap r wrapped).pkg = s.pkg := by unfold State.noteWrap; (repeat' split) <;> rfl
@[simp] theorem State.noteWrap_sip (s : State) (r : CounterRef) (wrapped : Bool) : (s.noteWrap r wrapped).sip = s.sip := by unfold State.noteWrap; (repeat' split) <;> rfl
@[simp] theorem State.noteWrap_hst (s : State) (r : CounterRef) (wrapped : Bool) : (s.noteWrap r wrapped).hst = s.hst := by unfold State.noteWrap; (repeat' split) <;> rfl
@[simp] theorem State.noteWrap_sched (s : State) (r : CounterRef) (wrapped : Bool) : (s.noteWrap r wrapped).sched = s.sched := by unfold State.noteWrap; (repeat' split) <;> rfl
@[simp] theorem State.noteWrap_out (s : State) (r : CounterRef) (wrapped : Bool) : (s.noteWrap r wrapped).out = s.out := by unfold State.noteWrap; (repeat' split) <;> rfl
@[simp] theorem State.noteWrap_draws (s : State) (r : CounterRef) (wrapped : Bool) : (s.noteWrap r wrapped).draws = s.draws := by unfold State.noteWrap; (repeat' split) <;> rfl

/-! ### keepFrame -/

@[simp] theorem State.keepFrame_h (s : State) (encl : Byte) (c frame : Nat) : (s.keepFrame encl c frame).h = s.h := by unfold State.keepFrame; (repeat' split) <;> rfl
@[simp] theorem State.keepFrame_c (s : State) (encl : Byte) (c frame : Nat) : (s.keepFrame encl c frame).c = s.c := by unfold State.keepFrame; (repeat' split) <;> rfl
@[simp] theorem State.keepFrame_harts (s : State) (encl : Byte) (c frame : Nat) : (s.keepFrame encl c frame).harts = s.harts := by unfold State.keepFrame; (repeat' split) <;> rfl
@[simp] theorem State.keepFrame_cores (s : State) (encl : Byte) (c frame : Nat) : (s.keepFrame encl c frame).cores = s.cores := by unfold State.keepFrame; (repeat' split) <;> rfl
@[simp] theorem State.keepFrame_mem (s : State) (encl : Byte) (c frame : Nat) : (s.keepFrame encl c frame).mem = s.mem := by unfold State.keepFrame; (repeat' split) <;> rfl
@[simp] theorem State.keepFrame_pkg (s : State) (encl : Byte) (c frame : Nat) : (s.keepFrame encl c frame).pkg = s.pkg := by unfold State.keepFrame; (repeat' split) <;> rfl
@[simp] theorem State.keepFrame_fab (s : State) (encl : Byte) (c frame : Nat) : (s.keepFrame encl c frame).fab = s.fab := by unfold State.keepFrame; (repeat' split) <;> rfl
@[simp] theorem State.keepFrame_hst (s : State) (encl : Byte) (c frame : Nat) : (s.keepFrame encl c frame).hst = s.hst := by unfold State.keepFrame; (repeat' split) <;> rfl
@[simp] theorem State.keepFrame_sched (s : State) (encl : Byte) (c frame : Nat) : (s.keepFrame encl c frame).sched = s.sched := by unfold State.keepFrame; (repeat' split) <;> rfl
@[simp] theorem State.keepFrame_out (s : State) (encl : Byte) (c frame : Nat) : (s.keepFrame encl c frame).out = s.out := by unfold State.keepFrame; (repeat' split) <;> rfl
@[simp] theorem State.keepFrame_draws (s : State) (encl : Byte) (c frame : Nat) : (s.keepFrame encl c frame).draws = s.draws := by unfold State.keepFrame; (repeat' split) <;> rfl

/-! ### fill -/

@[simp] theorem State.fill_h (s : State) (e : Option TlbEntry) : (s.fill e).h = s.h := by unfold State.fill; (repeat' split) <;> rfl
@[simp] theorem State.fill_harts (s : State) (e : Option TlbEntry) : (s.fill e).harts = s.harts := by unfold State.fill; (repeat' split) <;> rfl
@[simp] theorem State.fill_cores (s : State) (e : Option TlbEntry) : (s.fill e).cores = s.cores := by unfold State.fill; (repeat' split) <;> rfl
@[simp] theorem State.fill_mem (s : State) (e : Option TlbEntry) : (s.fill e).mem = s.mem := by unfold State.fill; (repeat' split) <;> rfl
@[simp] theorem State.fill_pkg (s : State) (e : Option TlbEntry) : (s.fill e).pkg = s.pkg := by unfold State.fill; (repeat' split) <;> rfl
@[simp] theorem State.fill_fab (s : State) (e : Option TlbEntry) : (s.fill e).fab = s.fab := by unfold State.fill; (repeat' split) <;> rfl
@[simp] theorem State.fill_sip (s : State) (e : Option TlbEntry) : (s.fill e).sip = s.sip := by unfold State.fill; (repeat' split) <;> rfl
@[simp] theorem State.fill_hst (s : State) (e : Option TlbEntry) : (s.fill e).hst = s.hst := by unfold State.fill; (repeat' split) <;> rfl
@[simp] theorem State.fill_sched (s : State) (e : Option TlbEntry) : (s.fill e).sched = s.sched := by unfold State.fill; (repeat' split) <;> rfl
@[simp] theorem State.fill_out (s : State) (e : Option TlbEntry) : (s.fill e).out = s.out := by unfold State.fill; (repeat' split) <;> rfl
@[simp] theorem State.fill_draws (s : State) (e : Option TlbEntry) : (s.fill e).draws = s.draws := by unfold State.fill; (repeat' split) <;> rfl

/-! ### focusCore -/

@[simp] theorem State.focusCore_h (s : State) (n : Nat) : (s.focusCore n).h = s.h := by unfold State.focusCore; (repeat' split) <;> rfl
@[simp] theorem State.focusCore_harts (s : State) (n : Nat) : (s.focusCore n).harts = s.harts := by unfold State.focusCore; (repeat' split) <;> rfl
@[simp] theorem State.focusCore_mem (s : State) (n : Nat) : (s.focusCore n).mem = s.mem := by unfold State.focusCore; (repeat' split) <;> rfl
@[simp] theorem State.focusCore_pkg (s : State) (n : Nat) : (s.focusCore n).pkg = s.pkg := by unfold State.focusCore; (repeat' split) <;> rfl
@[simp] theorem State.focusCore_fab (s : State) (n : Nat) : (s.focusCore n).fab = s.fab := by unfold State.focusCore; (repeat' split) <;> rfl
@[simp] theorem State.focusCore_sip (s : State) (n : Nat) : (s.focusCore n).sip = s.sip := by unfold State.focusCore; (repeat' split) <;> rfl
@[simp] theorem State.focusCore_hst (s : State) (n : Nat) : (s.focusCore n).hst = s.hst := by unfold State.focusCore; (repeat' split) <;> rfl
@[simp] theorem State.focusCore_sched (s : State) (n : Nat) : (s.focusCore n).sched = s.sched := by unfold State.focusCore; (repeat' split) <;> rfl
@[simp] theorem State.focusCore_out (s : State) (n : Nat) : (s.focusCore n).out = s.out := by unfold State.focusCore; (repeat' split) <;> rfl
@[simp] theorem State.focusCore_draws (s : State) (n : Nat) : (s.focusCore n).draws = s.draws := by unfold State.focusCore; (repeat' split) <;> rfl

/-! ### focusOn -/

@[simp] theorem State.focusOn_c (s : State) (h : Hart) : (s.focusOn h).c = s.c := by unfold State.focusOn; (repeat' split) <;> rfl
@[simp] theorem State.focusOn_cores (s : State) (h : Hart) : (s.focusOn h).cores = s.cores := by unfold State.focusOn; (repeat' split) <;> rfl
@[simp] theorem State.focusOn_mem (s : State) (h : Hart) : (s.focusOn h).mem = s.mem := by unfold State.focusOn; (repeat' split) <;> rfl
@[simp] theorem State.focusOn_pkg (s : State) (h : Hart) : (s.focusOn h).pkg = s.pkg := by unfold State.focusOn; (repeat' split) <;> rfl
@[simp] theorem State.focusOn_fab (s : State) (h : Hart) : (s.focusOn h).fab = s.fab := by unfold State.focusOn; (repeat' split) <;> rfl
@[simp] theorem State.focusOn_sip (s : State) (h : Hart) : (s.focusOn h).sip = s.sip := by unfold State.focusOn; (repeat' split) <;> rfl
@[simp] theorem State.focusOn_hst (s : State) (h : Hart) : (s.focusOn h).hst = s.hst := by unfold State.focusOn; (repeat' split) <;> rfl
@[simp] theorem State.focusOn_sched (s : State) (h : Hart) : (s.focusOn h).sched = s.sched := by unfold State.focusOn; (repeat' split) <;> rfl
@[simp] theorem State.focusOn_out (s : State) (h : Hart) : (s.focusOn h).out = s.out := by unfold State.focusOn; (repeat' split) <;> rfl
@[simp] theorem State.focusOn_draws (s : State) (h : Hart) : (s.focusOn h).draws = s.draws := by unfold State.focusOn; (repeat' split) <;> rfl

/-! ### drain -/

@[simp] theorem State.drain_c (s : State) : (s.drain).c = s.c := by unfold State.drain; (repeat' split) <;> rfl
@[simp] theorem State.drain_harts (s : State) : (s.drain).harts = s.harts := by unfold State.drain; (repeat' split) <;> rfl
@[simp] theorem State.drain_cores (s : State) : (s.drain).cores = s.cores := by unfold State.drain; (repeat' split) <;> rfl
@[simp] theorem State.drain_mem (s : State) : (s.drain).mem = s.mem := by unfold State.drain; (repeat' split) <;> rfl
@[simp] theorem State.drain_pkg (s : State) : (s.drain).pkg = s.pkg := by unfold State.drain; (repeat' split) <;> rfl
@[simp] theorem State.drain_fab (s : State) : (s.drain).fab = s.fab := by unfold State.drain; (repeat' split) <;> rfl
@[simp] theorem State.drain_sip (s : State) : (s.drain).sip = s.sip := by unfold State.drain; (repeat' split) <;> rfl
@[simp] theorem State.drain_hst (s : State) : (s.drain).hst = s.hst := by unfold State.drain; (repeat' split) <;> rfl
@[simp] theorem State.drain_sched (s : State) : (s.drain).sched = s.sched := by unfold State.drain; (repeat' split) <;> rfl
@[simp] theorem State.drain_out (s : State) : (s.drain).out = s.out := by unfold State.drain; (repeat' split) <;> rfl
@[simp] theorem State.drain_draws (s : State) : (s.drain).draws = s.draws := by unfold State.drain; (repeat' split) <;> rfl

/-! ### clearFm -/

@[simp] theorem State.clearFm_c (s : State) (i : Instr) : (s.clearFm i).c = s.c := by unfold State.clearFm; (repeat' split) <;> rfl
@[simp] theorem State.clearFm_harts (s : State) (i : Instr) : (s.clearFm i).harts = s.harts := by unfold State.clearFm; (repeat' split) <;> rfl
@[simp] theorem State.clearFm_cores (s : State) (i : Instr) : (s.clearFm i).cores = s.cores := by unfold State.clearFm; (repeat' split) <;> rfl
@[simp] theorem State.clearFm_mem (s : State) (i : Instr) : (s.clearFm i).mem = s.mem := by unfold State.clearFm; (repeat' split) <;> rfl
@[simp] theorem State.clearFm_pkg (s : State) (i : Instr) : (s.clearFm i).pkg = s.pkg := by unfold State.clearFm; (repeat' split) <;> rfl
@[simp] theorem State.clearFm_fab (s : State) (i : Instr) : (s.clearFm i).fab = s.fab := by unfold State.clearFm; (repeat' split) <;> rfl
@[simp] theorem State.clearFm_sip (s : State) (i : Instr) : (s.clearFm i).sip = s.sip := by unfold State.clearFm; (repeat' split) <;> rfl
@[simp] theorem State.clearFm_hst (s : State) (i : Instr) : (s.clearFm i).hst = s.hst := by unfold State.clearFm; (repeat' split) <;> rfl
@[simp] theorem State.clearFm_sched (s : State) (i : Instr) : (s.clearFm i).sched = s.sched := by unfold State.clearFm; (repeat' split) <;> rfl
@[simp] theorem State.clearFm_out (s : State) (i : Instr) : (s.clearFm i).out = s.out := by unfold State.clearFm; (repeat' split) <;> rfl
@[simp] theorem State.clearFm_draws (s : State) (i : Instr) : (s.clearFm i).draws = s.draws := by unfold State.clearFm; (repeat' split) <;> rfl

/-! ### installKey -/

@[simp] theorem State.installKey_h (s : State) (k : BitVec 4) (key : BitVec 256) : (s.installKey k key).h = s.h := by unfold State.installKey; (repeat' split) <;> rfl
@[simp] theorem State.installKey_harts (s : State) (k : BitVec 4) (key : BitVec 256) : (s.installKey k key).harts = s.harts := by unfold State.installKey; (repeat' split) <;> rfl
@[simp] theorem State.installKey_mem (s : State) (k : BitVec 4) (key : BitVec 256) : (s.installKey k key).mem = s.mem := by unfold State.installKey; (repeat' split) <;> rfl
@[simp] theorem State.installKey_pkg (s : State) (k : BitVec 4) (key : BitVec 256) : (s.installKey k key).pkg = s.pkg := by unfold State.installKey; (repeat' split) <;> rfl
@[simp] theorem State.installKey_sip (s : State) (k : BitVec 4) (key : BitVec 256) : (s.installKey k key).sip = s.sip := by unfold State.installKey; (repeat' split) <;> rfl
@[simp] theorem State.installKey_hst (s : State) (k : BitVec 4) (key : BitVec 256) : (s.installKey k key).hst = s.hst := by unfold State.installKey; (repeat' split) <;> rfl
@[simp] theorem State.installKey_sched (s : State) (k : BitVec 4) (key : BitVec 256) : (s.installKey k key).sched = s.sched := by unfold State.installKey; (repeat' split) <;> rfl
@[simp] theorem State.installKey_out (s : State) (k : BitVec 4) (key : BitVec 256) : (s.installKey k key).out = s.out := by unfold State.installKey; (repeat' split) <;> rfl
@[simp] theorem State.installKey_draws (s : State) (k : BitVec 4) (key : BitVec 256) : (s.installKey k key).draws = s.draws := by unfold State.installKey; (repeat' split) <;> rfl

/-! ### activateKey -/

@[simp] theorem State.activateKey_h (s : State) (k : BitVec 4) : (s.activateKey k).h = s.h := by unfold State.activateKey; (repeat' split) <;> rfl
@[simp] theorem State.activateKey_c (s : State) (k : BitVec 4) : (s.activateKey k).c = s.c := by unfold State.activateKey; (repeat' split) <;> rfl
@[simp] theorem State.activateKey_harts (s : State) (k : BitVec 4) : (s.activateKey k).harts = s.harts := by unfold State.activateKey; (repeat' split) <;> rfl
@[simp] theorem State.activateKey_cores (s : State) (k : BitVec 4) : (s.activateKey k).cores = s.cores := by unfold State.activateKey; (repeat' split) <;> rfl
@[simp] theorem State.activateKey_mem (s : State) (k : BitVec 4) : (s.activateKey k).mem = s.mem := by unfold State.activateKey; (repeat' split) <;> rfl
@[simp] theorem State.activateKey_pkg (s : State) (k : BitVec 4) : (s.activateKey k).pkg = s.pkg := by unfold State.activateKey; (repeat' split) <;> rfl
@[simp] theorem State.activateKey_sip (s : State) (k : BitVec 4) : (s.activateKey k).sip = s.sip := by unfold State.activateKey; (repeat' split) <;> rfl
@[simp] theorem State.activateKey_hst (s : State) (k : BitVec 4) : (s.activateKey k).hst = s.hst := by unfold State.activateKey; (repeat' split) <;> rfl
@[simp] theorem State.activateKey_sched (s : State) (k : BitVec 4) : (s.activateKey k).sched = s.sched := by unfold State.activateKey; (repeat' split) <;> rfl
@[simp] theorem State.activateKey_out (s : State) (k : BitVec 4) : (s.activateKey k).out = s.out := by unfold State.activateKey; (repeat' split) <;> rfl
@[simp] theorem State.activateKey_draws (s : State) (k : BitVec 4) : (s.activateKey k).draws = s.draws := by unfold State.activateKey; (repeat' split) <;> rfl

/-! ### retireKey -/

@[simp] theorem State.retireKey_h (s : State) (k : BitVec 4) : (s.retireKey k).h = s.h := by unfold State.retireKey; (repeat' split) <;> rfl
@[simp] theorem State.retireKey_c (s : State) (k : BitVec 4) : (s.retireKey k).c = s.c := by unfold State.retireKey; (repeat' split) <;> rfl
@[simp] theorem State.retireKey_harts (s : State) (k : BitVec 4) : (s.retireKey k).harts = s.harts := by unfold State.retireKey; (repeat' split) <;> rfl
@[simp] theorem State.retireKey_cores (s : State) (k : BitVec 4) : (s.retireKey k).cores = s.cores := by unfold State.retireKey; (repeat' split) <;> rfl
@[simp] theorem State.retireKey_mem (s : State) (k : BitVec 4) : (s.retireKey k).mem = s.mem := by unfold State.retireKey; (repeat' split) <;> rfl
@[simp] theorem State.retireKey_pkg (s : State) (k : BitVec 4) : (s.retireKey k).pkg = s.pkg := by unfold State.retireKey; (repeat' split) <;> rfl
@[simp] theorem State.retireKey_sip (s : State) (k : BitVec 4) : (s.retireKey k).sip = s.sip := by unfold State.retireKey; (repeat' split) <;> rfl
@[simp] theorem State.retireKey_hst (s : State) (k : BitVec 4) : (s.retireKey k).hst = s.hst := by unfold State.retireKey; (repeat' split) <;> rfl
@[simp] theorem State.retireKey_sched (s : State) (k : BitVec 4) : (s.retireKey k).sched = s.sched := by unfold State.retireKey; (repeat' split) <;> rfl
@[simp] theorem State.retireKey_out (s : State) (k : BitVec 4) : (s.retireKey k).out = s.out := by unfold State.retireKey; (repeat' split) <;> rfl
@[simp] theorem State.retireKey_draws (s : State) (k : BitVec 4) : (s.retireKey k).draws = s.draws := by unfold State.retireKey; (repeat' split) <;> rfl

/-! ### onSender -/

@[simp] theorem State.onSender_c (s : State) (core : Nat) (r : Req) (f : Hart → Hart) : (s.onSender core r f).c = s.c := by unfold State.onSender; (repeat' split) <;> first | rfl | simp
@[simp] theorem State.onSender_cores (s : State) (core : Nat) (r : Req) (f : Hart → Hart) : (s.onSender core r f).cores = s.cores := by unfold State.onSender; (repeat' split) <;> first | rfl | simp
@[simp] theorem State.onSender_mem (s : State) (core : Nat) (r : Req) (f : Hart → Hart) : (s.onSender core r f).mem = s.mem := by unfold State.onSender; (repeat' split) <;> first | rfl | simp
@[simp] theorem State.onSender_pkg (s : State) (core : Nat) (r : Req) (f : Hart → Hart) : (s.onSender core r f).pkg = s.pkg := by unfold State.onSender; (repeat' split) <;> first | rfl | simp
@[simp] theorem State.onSender_fab (s : State) (core : Nat) (r : Req) (f : Hart → Hart) : (s.onSender core r f).fab = s.fab := by unfold State.onSender; (repeat' split) <;> first | rfl | simp
@[simp] theorem State.onSender_sip (s : State) (core : Nat) (r : Req) (f : Hart → Hart) : (s.onSender core r f).sip = s.sip := by unfold State.onSender; (repeat' split) <;> first | rfl | simp
@[simp] theorem State.onSender_hst (s : State) (core : Nat) (r : Req) (f : Hart → Hart) : (s.onSender core r f).hst = s.hst := by unfold State.onSender; (repeat' split) <;> first | rfl | simp
@[simp] theorem State.onSender_sched (s : State) (core : Nat) (r : Req) (f : Hart → Hart) : (s.onSender core r f).sched = s.sched := by unfold State.onSender; (repeat' split) <;> first | rfl | simp
@[simp] theorem State.onSender_out (s : State) (core : Nat) (r : Req) (f : Hart → Hart) : (s.onSender core r f).out = s.out := by unfold State.onSender; (repeat' split) <;> first | rfl | simp
@[simp] theorem State.onSender_draws (s : State) (core : Nat) (r : Req) (f : Hart → Hart) : (s.onSender core r f).draws = s.draws := by unfold State.onSender; (repeat' split) <;> first | rfl | simp

/-! ### chargeGap -/

@[simp] theorem State.chargeGap_c (s : State) (slot : BitVec 3) (launch : BitVec 32) (t : BitVec 3) : (s.chargeGap slot launch t).c = s.c := by unfold State.chargeGap; (repeat' split) <;> first | rfl | simp
@[simp] theorem State.chargeGap_cores (s : State) (slot : BitVec 3) (launch : BitVec 32) (t : BitVec 3) : (s.chargeGap slot launch t).cores = s.cores := by unfold State.chargeGap; (repeat' split) <;> first | rfl | simp
@[simp] theorem State.chargeGap_mem (s : State) (slot : BitVec 3) (launch : BitVec 32) (t : BitVec 3) : (s.chargeGap slot launch t).mem = s.mem := by unfold State.chargeGap; (repeat' split) <;> first | rfl | simp
@[simp] theorem State.chargeGap_pkg (s : State) (slot : BitVec 3) (launch : BitVec 32) (t : BitVec 3) : (s.chargeGap slot launch t).pkg = s.pkg := by unfold State.chargeGap; (repeat' split) <;> first | rfl | simp
@[simp] theorem State.chargeGap_fab (s : State) (slot : BitVec 3) (launch : BitVec 32) (t : BitVec 3) : (s.chargeGap slot launch t).fab = s.fab := by unfold State.chargeGap; (repeat' split) <;> first | rfl | simp
@[simp] theorem State.chargeGap_sip (s : State) (slot : BitVec 3) (launch : BitVec 32) (t : BitVec 3) : (s.chargeGap slot launch t).sip = s.sip := by unfold State.chargeGap; (repeat' split) <;> first | rfl | simp
@[simp] theorem State.chargeGap_hst (s : State) (slot : BitVec 3) (launch : BitVec 32) (t : BitVec 3) : (s.chargeGap slot launch t).hst = s.hst := by unfold State.chargeGap; (repeat' split) <;> first | rfl | simp
@[simp] theorem State.chargeGap_sched (s : State) (slot : BitVec 3) (launch : BitVec 32) (t : BitVec 3) : (s.chargeGap slot launch t).sched = s.sched := by unfold State.chargeGap; (repeat' split) <;> first | rfl | simp
@[simp] theorem State.chargeGap_out (s : State) (slot : BitVec 3) (launch : BitVec 32) (t : BitVec 3) : (s.chargeGap slot launch t).out = s.out := by unfold State.chargeGap; (repeat' split) <;> first | rfl | simp
@[simp] theorem State.chargeGap_draws (s : State) (slot : BitVec 3) (launch : BitVec 32) (t : BitVec 3) : (s.chargeGap slot launch t).draws = s.draws := by unfold State.chargeGap; (repeat' split) <;> first | rfl | simp

/-! ### wake -/

@[simp] theorem State.wake_mem (s : State) (core : Nat) (slot : BitVec 3) (launch : BitVec 32) : (s.wake core slot launch).mem = s.mem := by unfold State.wake; (repeat' split) <;> first | rfl | simp
@[simp] theorem State.wake_pkg (s : State) (core : Nat) (slot : BitVec 3) (launch : BitVec 32) : (s.wake core slot launch).pkg = s.pkg := by unfold State.wake; (repeat' split) <;> first | rfl | simp
@[simp] theorem State.wake_fab (s : State) (core : Nat) (slot : BitVec 3) (launch : BitVec 32) : (s.wake core slot launch).fab = s.fab := by unfold State.wake; (repeat' split) <;> first | rfl | simp
@[simp] theorem State.wake_sip (s : State) (core : Nat) (slot : BitVec 3) (launch : BitVec 32) : (s.wake core slot launch).sip = s.sip := by unfold State.wake; (repeat' split) <;> first | rfl | simp
@[simp] theorem State.wake_hst (s : State) (core : Nat) (slot : BitVec 3) (launch : BitVec 32) : (s.wake core slot launch).hst = s.hst := by unfold State.wake; (repeat' split) <;> first | rfl | simp
@[simp] theorem State.wake_sched (s : State) (core : Nat) (slot : BitVec 3) (launch : BitVec 32) : (s.wake core slot launch).sched = s.sched := by unfold State.wake; (repeat' split) <;> first | rfl | simp
@[simp] theorem State.wake_out (s : State) (core : Nat) (slot : BitVec 3) (launch : BitVec 32) : (s.wake core slot launch).out = s.out := by unfold State.wake; (repeat' split) <;> first | rfl | simp
@[simp] theorem State.wake_draws (s : State) (core : Nat) (slot : BitVec 3) (launch : BitVec 32) : (s.wake core slot launch).draws = s.draws := by unfold State.wake; (repeat' split) <;> first | rfl | simp

/-! ### enqueue -/

@[simp] theorem State.enqueue_h (s : State) (l : LinkRef) (p : Packet) : (s.enqueue l p).h = s.h := by unfold State.enqueue; first | rfl | simp
@[simp] theorem State.enqueue_c (s : State) (l : LinkRef) (p : Packet) : (s.enqueue l p).c = s.c := by unfold State.enqueue; first | rfl | simp
@[simp] theorem State.enqueue_harts (s : State) (l : LinkRef) (p : Packet) : (s.enqueue l p).harts = s.harts := by unfold State.enqueue; first | rfl | simp
@[simp] theorem State.enqueue_cores (s : State) (l : LinkRef) (p : Packet) : (s.enqueue l p).cores = s.cores := by unfold State.enqueue; first | rfl | simp
@[simp] theorem State.enqueue_mem (s : State) (l : LinkRef) (p : Packet) : (s.enqueue l p).mem = s.mem := by unfold State.enqueue; first | rfl | simp
@[simp] theorem State.enqueue_pkg (s : State) (l : LinkRef) (p : Packet) : (s.enqueue l p).pkg = s.pkg := by unfold State.enqueue; first | rfl | simp
@[simp] theorem State.enqueue_sip (s : State) (l : LinkRef) (p : Packet) : (s.enqueue l p).sip = s.sip := by unfold State.enqueue; first | rfl | simp
@[simp] theorem State.enqueue_hst (s : State) (l : LinkRef) (p : Packet) : (s.enqueue l p).hst = s.hst := by unfold State.enqueue; first | rfl | simp
@[simp] theorem State.enqueue_sched (s : State) (l : LinkRef) (p : Packet) : (s.enqueue l p).sched = s.sched := by unfold State.enqueue; first | rfl | simp
@[simp] theorem State.enqueue_out (s : State) (l : LinkRef) (p : Packet) : (s.enqueue l p).out = s.out := by unfold State.enqueue; first | rfl | simp
@[simp] theorem State.enqueue_draws (s : State) (l : LinkRef) (p : Packet) : (s.enqueue l p).draws = s.draws := by unfold State.enqueue; first | rfl | simp

/-! ### setReplay -/

@[simp] theorem State.setReplay_h (s : State) (r : RouteVal) (l : List ReplayEntry) : (s.setReplay r l).h = s.h := by unfold State.setReplay; (repeat' split) <;> first | rfl | simp
@[simp] theorem State.setReplay_harts (s : State) (r : RouteVal) (l : List ReplayEntry) : (s.setReplay r l).harts = s.harts := by unfold State.setReplay; (repeat' split) <;> first | rfl | simp
@[simp] theorem State.setReplay_mem (s : State) (r : RouteVal) (l : List ReplayEntry) : (s.setReplay r l).mem = s.mem := by unfold State.setReplay; (repeat' split) <;> first | rfl | simp
@[simp] theorem State.setReplay_pkg (s : State) (r : RouteVal) (l : List ReplayEntry) : (s.setReplay r l).pkg = s.pkg := by unfold State.setReplay; (repeat' split) <;> first | rfl | simp
@[simp] theorem State.setReplay_sip (s : State) (r : RouteVal) (l : List ReplayEntry) : (s.setReplay r l).sip = s.sip := by unfold State.setReplay; (repeat' split) <;> first | rfl | simp
@[simp] theorem State.setReplay_hst (s : State) (r : RouteVal) (l : List ReplayEntry) : (s.setReplay r l).hst = s.hst := by unfold State.setReplay; (repeat' split) <;> first | rfl | simp
@[simp] theorem State.setReplay_sched (s : State) (r : RouteVal) (l : List ReplayEntry) : (s.setReplay r l).sched = s.sched := by unfold State.setReplay; (repeat' split) <;> first | rfl | simp
@[simp] theorem State.setReplay_out (s : State) (r : RouteVal) (l : List ReplayEntry) : (s.setReplay r l).out = s.out := by unfold State.setReplay; (repeat' split) <;> first | rfl | simp
@[simp] theorem State.setReplay_draws (s : State) (r : RouteVal) (l : List ReplayEntry) : (s.setReplay r l).draws = s.draws := by unfold State.setReplay; (repeat' split) <;> first | rfl | simp

/-! ### record -/

@[simp] theorem State.record_h (s : State) (p : Packet) (tomb : Bool) (status : Nat) (result : Word) : (s.record p tomb status result).h = s.h := by unfold State.record; first | rfl | simp
@[simp] theorem State.record_harts (s : State) (p : Packet) (tomb : Bool) (status : Nat) (result : Word) : (s.record p tomb status result).harts = s.harts := by unfold State.record; first | rfl | simp
@[simp] theorem State.record_mem (s : State) (p : Packet) (tomb : Bool) (status : Nat) (result : Word) : (s.record p tomb status result).mem = s.mem := by unfold State.record; first | rfl | simp
@[simp] theorem State.record_pkg (s : State) (p : Packet) (tomb : Bool) (status : Nat) (result : Word) : (s.record p tomb status result).pkg = s.pkg := by unfold State.record; first | rfl | simp
@[simp] theorem State.record_sip (s : State) (p : Packet) (tomb : Bool) (status : Nat) (result : Word) : (s.record p tomb status result).sip = s.sip := by unfold State.record; first | rfl | simp
@[simp] theorem State.record_hst (s : State) (p : Packet) (tomb : Bool) (status : Nat) (result : Word) : (s.record p tomb status result).hst = s.hst := by unfold State.record; first | rfl | simp
@[simp] theorem State.record_sched (s : State) (p : Packet) (tomb : Bool) (status : Nat) (result : Word) : (s.record p tomb status result).sched = s.sched := by unfold State.record; first | rfl | simp
@[simp] theorem State.record_out (s : State) (p : Packet) (tomb : Bool) (status : Nat) (result : Word) : (s.record p tomb status result).out = s.out := by unfold State.record; first | rfl | simp
@[simp] theorem State.record_draws (s : State) (p : Packet) (tomb : Bool) (status : Nat) (result : Word) : (s.record p tomb status result).draws = s.draws := by unfold State.record; first | rfl | simp

/-! ### weirPush -/

@[simp] theorem State.weirPush_h (s : State) (va : Word) (kind key arg : Nat) (elems weights : List Nat) : (s.weirPush va kind key arg elems weights).h = s.h := by unfold State.weirPush; first | rfl | simp
@[simp] theorem State.weirPush_harts (s : State) (va : Word) (kind key arg : Nat) (elems weights : List Nat) : (s.weirPush va kind key arg elems weights).harts = s.harts := by unfold State.weirPush; first | rfl | simp
@[simp] theorem State.weirPush_mem (s : State) (va : Word) (kind key arg : Nat) (elems weights : List Nat) : (s.weirPush va kind key arg elems weights).mem = s.mem := by unfold State.weirPush; first | rfl | simp
@[simp] theorem State.weirPush_pkg (s : State) (va : Word) (kind key arg : Nat) (elems weights : List Nat) : (s.weirPush va kind key arg elems weights).pkg = s.pkg := by unfold State.weirPush; first | rfl | simp
@[simp] theorem State.weirPush_fab (s : State) (va : Word) (kind key arg : Nat) (elems weights : List Nat) : (s.weirPush va kind key arg elems weights).fab = s.fab := by unfold State.weirPush; first | rfl | simp
@[simp] theorem State.weirPush_sip (s : State) (va : Word) (kind key arg : Nat) (elems weights : List Nat) : (s.weirPush va kind key arg elems weights).sip = s.sip := by unfold State.weirPush; first | rfl | simp
@[simp] theorem State.weirPush_hst (s : State) (va : Word) (kind key arg : Nat) (elems weights : List Nat) : (s.weirPush va kind key arg elems weights).hst = s.hst := by unfold State.weirPush; first | rfl | simp
@[simp] theorem State.weirPush_sched (s : State) (va : Word) (kind key arg : Nat) (elems weights : List Nat) : (s.weirPush va kind key arg elems weights).sched = s.sched := by unfold State.weirPush; first | rfl | simp
@[simp] theorem State.weirPush_out (s : State) (va : Word) (kind key arg : Nat) (elems weights : List Nat) : (s.weirPush va kind key arg elems weights).out = s.out := by unfold State.weirPush; first | rfl | simp
@[simp] theorem State.weirPush_draws (s : State) (va : Word) (kind key arg : Nat) (elems weights : List Nat) : (s.weirPush va kind key arg elems weights).draws = s.draws := by unfold State.weirPush; first | rfl | simp

/-! ### deliver -/

@[simp] theorem State.deliver_mem (s : State) (h : Hart) (rd : Reg) (v : Word) : (s.deliver h rd v).mem = s.mem := by unfold State.deliver; (try dsimp only); (repeat' split) <;> simp
@[simp] theorem State.deliver_pkg (s : State) (h : Hart) (rd : Reg) (v : Word) : (s.deliver h rd v).pkg = s.pkg := by unfold State.deliver; (try dsimp only); (repeat' split) <;> simp
@[simp] theorem State.deliver_fab (s : State) (h : Hart) (rd : Reg) (v : Word) : (s.deliver h rd v).fab = s.fab := by unfold State.deliver; (try dsimp only); (repeat' split) <;> simp
@[simp] theorem State.deliver_sip (s : State) (h : Hart) (rd : Reg) (v : Word) : (s.deliver h rd v).sip = s.sip := by unfold State.deliver; (try dsimp only); (repeat' split) <;> simp
@[simp] theorem State.deliver_hst (s : State) (h : Hart) (rd : Reg) (v : Word) : (s.deliver h rd v).hst = s.hst := by unfold State.deliver; (try dsimp only); (repeat' split) <;> simp
@[simp] theorem State.deliver_sched (s : State) (h : Hart) (rd : Reg) (v : Word) : (s.deliver h rd v).sched = s.sched := by unfold State.deliver; (try dsimp only); (repeat' split) <;> simp
@[simp] theorem State.deliver_out (s : State) (h : Hart) (rd : Reg) (v : Word) : (s.deliver h rd v).out = s.out := by unfold State.deliver; (try dsimp only); (repeat' split) <;> simp
@[simp] theorem State.deliver_draws (s : State) (h : Hart) (rd : Reg) (v : Word) : (s.deliver h rd v).draws = s.draws := by unfold State.deliver; (try dsimp only); (repeat' split) <;> simp

/-! ### wakeWith -/

@[simp] theorem State.wakeWith_mem (s : State) (core : Nat) (slot : BitVec 3) (launch : BitVec 32) (rd : Reg) (v : Word) : (s.wakeWith core slot launch rd v).mem = s.mem := by unfold State.wakeWith; (repeat' split) <;> simp
@[simp] theorem State.wakeWith_pkg (s : State) (core : Nat) (slot : BitVec 3) (launch : BitVec 32) (rd : Reg) (v : Word) : (s.wakeWith core slot launch rd v).pkg = s.pkg := by unfold State.wakeWith; (repeat' split) <;> simp
@[simp] theorem State.wakeWith_fab (s : State) (core : Nat) (slot : BitVec 3) (launch : BitVec 32) (rd : Reg) (v : Word) : (s.wakeWith core slot launch rd v).fab = s.fab := by unfold State.wakeWith; (repeat' split) <;> simp
@[simp] theorem State.wakeWith_sip (s : State) (core : Nat) (slot : BitVec 3) (launch : BitVec 32) (rd : Reg) (v : Word) : (s.wakeWith core slot launch rd v).sip = s.sip := by unfold State.wakeWith; (repeat' split) <;> simp
@[simp] theorem State.wakeWith_hst (s : State) (core : Nat) (slot : BitVec 3) (launch : BitVec 32) (rd : Reg) (v : Word) : (s.wakeWith core slot launch rd v).hst = s.hst := by unfold State.wakeWith; (repeat' split) <;> simp
@[simp] theorem State.wakeWith_sched (s : State) (core : Nat) (slot : BitVec 3) (launch : BitVec 32) (rd : Reg) (v : Word) : (s.wakeWith core slot launch rd v).sched = s.sched := by unfold State.wakeWith; (repeat' split) <;> simp
@[simp] theorem State.wakeWith_out (s : State) (core : Nat) (slot : BitVec 3) (launch : BitVec 32) (rd : Reg) (v : Word) : (s.wakeWith core slot launch rd v).out = s.out := by unfold State.wakeWith; (repeat' split) <;> simp
@[simp] theorem State.wakeWith_draws (s : State) (core : Nat) (slot : BitVec 3) (launch : BitVec 32) (rd : Reg) (v : Word) : (s.wakeWith core slot launch rd v).draws = s.draws := by unfold State.wakeWith; (repeat' split) <;> simp

/-! ### mailArrive -/

@[simp] theorem State.mailArrive_mem (s : State) (core : Nat) (slot : BitVec 3) (launch : BitVec 32) (m : Msg) : (s.mailArrive core slot launch m).mem = s.mem := by unfold State.mailArrive; (try dsimp only); (repeat' split) <;> simp
@[simp] theorem State.mailArrive_pkg (s : State) (core : Nat) (slot : BitVec 3) (launch : BitVec 32) (m : Msg) : (s.mailArrive core slot launch m).pkg = s.pkg := by unfold State.mailArrive; (try dsimp only); (repeat' split) <;> simp
@[simp] theorem State.mailArrive_fab (s : State) (core : Nat) (slot : BitVec 3) (launch : BitVec 32) (m : Msg) : (s.mailArrive core slot launch m).fab = s.fab := by unfold State.mailArrive; (try dsimp only); (repeat' split) <;> simp
@[simp] theorem State.mailArrive_sip (s : State) (core : Nat) (slot : BitVec 3) (launch : BitVec 32) (m : Msg) : (s.mailArrive core slot launch m).sip = s.sip := by unfold State.mailArrive; (try dsimp only); (repeat' split) <;> simp
@[simp] theorem State.mailArrive_sched (s : State) (core : Nat) (slot : BitVec 3) (launch : BitVec 32) (m : Msg) : (s.mailArrive core slot launch m).sched = s.sched := by unfold State.mailArrive; (try dsimp only); (repeat' split) <;> simp
@[simp] theorem State.mailArrive_out (s : State) (core : Nat) (slot : BitVec 3) (launch : BitVec 32) (m : Msg) : (s.mailArrive core slot launch m).out = s.out := by unfold State.mailArrive; (try dsimp only); (repeat' split) <;> simp
@[simp] theorem State.mailArrive_draws (s : State) (core : Nat) (slot : BitVec 3) (launch : BitVec 32) (m : Msg) : (s.mailArrive core slot launch m).draws = s.draws := by unfold State.mailArrive; (try dsimp only); (repeat' split) <;> simp

/-! ### mailLocal -/

@[simp] theorem State.mailLocal_mem (s : State) (core : Nat) (slot : BitVec 3) (launch : BitVec 32) (m : Msg) : (s.mailLocal core slot launch m).mem = s.mem := by unfold State.mailLocal; (try dsimp only); (repeat' split) <;> simp
@[simp] theorem State.mailLocal_pkg (s : State) (core : Nat) (slot : BitVec 3) (launch : BitVec 32) (m : Msg) : (s.mailLocal core slot launch m).pkg = s.pkg := by unfold State.mailLocal; (try dsimp only); (repeat' split) <;> simp
@[simp] theorem State.mailLocal_fab (s : State) (core : Nat) (slot : BitVec 3) (launch : BitVec 32) (m : Msg) : (s.mailLocal core slot launch m).fab = s.fab := by unfold State.mailLocal; (try dsimp only); (repeat' split) <;> simp
@[simp] theorem State.mailLocal_sip (s : State) (core : Nat) (slot : BitVec 3) (launch : BitVec 32) (m : Msg) : (s.mailLocal core slot launch m).sip = s.sip := by unfold State.mailLocal; (try dsimp only); (repeat' split) <;> simp
@[simp] theorem State.mailLocal_sched (s : State) (core : Nat) (slot : BitVec 3) (launch : BitVec 32) (m : Msg) : (s.mailLocal core slot launch m).sched = s.sched := by unfold State.mailLocal; (try dsimp only); (repeat' split) <;> simp
@[simp] theorem State.mailLocal_out (s : State) (core : Nat) (slot : BitVec 3) (launch : BitVec 32) (m : Msg) : (s.mailLocal core slot launch m).out = s.out := by unfold State.mailLocal; (try dsimp only); (repeat' split) <;> simp
@[simp] theorem State.mailLocal_draws (s : State) (core : Nat) (slot : BitVec 3) (launch : BitVec 32) (m : Msg) : (s.mailLocal core slot launch m).draws = s.draws := by unfold State.mailLocal; (try dsimp only); (repeat' split) <;> simp

/-! ### mailRoom -/

@[simp] theorem State.mailRoom_mem (s : State) (core : Nat) (slot : BitVec 3) (launch : BitVec 32) : (s.mailRoom core slot launch).mem = s.mem := by unfold State.mailRoom; (try dsimp only); (repeat' split) <;> simp
@[simp] theorem State.mailRoom_pkg (s : State) (core : Nat) (slot : BitVec 3) (launch : BitVec 32) : (s.mailRoom core slot launch).pkg = s.pkg := by unfold State.mailRoom; (try dsimp only); (repeat' split) <;> simp
@[simp] theorem State.mailRoom_fab (s : State) (core : Nat) (slot : BitVec 3) (launch : BitVec 32) : (s.mailRoom core slot launch).fab = s.fab := by unfold State.mailRoom; (try dsimp only); (repeat' split) <;> simp
@[simp] theorem State.mailRoom_sip (s : State) (core : Nat) (slot : BitVec 3) (launch : BitVec 32) : (s.mailRoom core slot launch).sip = s.sip := by unfold State.mailRoom; (try dsimp only); (repeat' split) <;> simp
@[simp] theorem State.mailRoom_sched (s : State) (core : Nat) (slot : BitVec 3) (launch : BitVec 32) : (s.mailRoom core slot launch).sched = s.sched := by unfold State.mailRoom; (try dsimp only); (repeat' split) <;> simp
@[simp] theorem State.mailRoom_out (s : State) (core : Nat) (slot : BitVec 3) (launch : BitVec 32) : (s.mailRoom core slot launch).out = s.out := by unfold State.mailRoom; (try dsimp only); (repeat' split) <;> simp
@[simp] theorem State.mailRoom_draws (s : State) (core : Nat) (slot : BitVec 3) (launch : BitVec 32) : (s.mailRoom core slot launch).draws = s.draws := by unfold State.mailRoom; (try dsimp only); (repeat' split) <;> simp

/-! ### complete -/

@[simp] theorem State.complete_mem (s : State) (q : SqCmd) (st : Sstat) (nv : BitVec 16) (arg : Word) : (s.complete q st nv arg).mem = s.mem := by unfold State.complete; (try dsimp only); simp
@[simp] theorem State.complete_pkg (s : State) (q : SqCmd) (st : Sstat) (nv : BitVec 16) (arg : Word) : (s.complete q st nv arg).pkg = s.pkg := by unfold State.complete; (try dsimp only); simp
@[simp] theorem State.complete_fab (s : State) (q : SqCmd) (st : Sstat) (nv : BitVec 16) (arg : Word) : (s.complete q st nv arg).fab = s.fab := by unfold State.complete; (try dsimp only); simp
@[simp] theorem State.complete_sched (s : State) (q : SqCmd) (st : Sstat) (nv : BitVec 16) (arg : Word) : (s.complete q st nv arg).sched = s.sched := by unfold State.complete; (try dsimp only); simp
@[simp] theorem State.complete_out (s : State) (q : SqCmd) (st : Sstat) (nv : BitVec 16) (arg : Word) : (s.complete q st nv arg).out = s.out := by unfold State.complete; (try dsimp only); simp
@[simp] theorem State.complete_draws (s : State) (q : SqCmd) (st : Sstat) (nv : BitVec 16) (arg : Word) : (s.complete q st nv arg).draws = s.draws := by unfold State.complete; (try dsimp only); simp

/-! ### notice -/

@[simp] theorem State.notice_mem (s : State) (encl : Byte) (kind : Nat) (st : Sstat) (nv : BitVec 16) (cls : Nat) (arg : Word) : (s.notice encl kind st nv cls arg).mem = s.mem := by unfold State.notice; (repeat' split) <;> simp
@[simp] theorem State.notice_pkg (s : State) (encl : Byte) (kind : Nat) (st : Sstat) (nv : BitVec 16) (cls : Nat) (arg : Word) : (s.notice encl kind st nv cls arg).pkg = s.pkg := by unfold State.notice; (repeat' split) <;> simp
@[simp] theorem State.notice_fab (s : State) (encl : Byte) (kind : Nat) (st : Sstat) (nv : BitVec 16) (cls : Nat) (arg : Word) : (s.notice encl kind st nv cls arg).fab = s.fab := by unfold State.notice; (repeat' split) <;> simp
@[simp] theorem State.notice_sip (s : State) (encl : Byte) (kind : Nat) (st : Sstat) (nv : BitVec 16) (cls : Nat) (arg : Word) : (s.notice encl kind st nv cls arg).sip = s.sip := by unfold State.notice; (repeat' split) <;> simp
@[simp] theorem State.notice_sched (s : State) (encl : Byte) (kind : Nat) (st : Sstat) (nv : BitVec 16) (cls : Nat) (arg : Word) : (s.notice encl kind st nv cls arg).sched = s.sched := by unfold State.notice; (repeat' split) <;> simp
@[simp] theorem State.notice_out (s : State) (encl : Byte) (kind : Nat) (st : Sstat) (nv : BitVec 16) (cls : Nat) (arg : Word) : (s.notice encl kind st nv cls arg).out = s.out := by unfold State.notice; (repeat' split) <;> simp
@[simp] theorem State.notice_draws (s : State) (encl : Byte) (kind : Nat) (st : Sstat) (nv : BitVec 16) (cls : Nat) (arg : Word) : (s.notice encl kind st nv cls arg).draws = s.draws := by unfold State.notice; (repeat' split) <;> simp

/-! ### replyStep -/

@[simp] theorem State.replyStep_h (s : State) (p : Packet) : (s.replyStep p).h = s.h := by unfold State.replyStep; (try dsimp only); (repeat' split) <;> simp
@[simp] theorem State.replyStep_c (s : State) (p : Packet) : (s.replyStep p).c = s.c := by unfold State.replyStep; (try dsimp only); (repeat' split) <;> simp
@[simp] theorem State.replyStep_harts (s : State) (p : Packet) : (s.replyStep p).harts = s.harts := by unfold State.replyStep; (try dsimp only); (repeat' split) <;> simp
@[simp] theorem State.replyStep_cores (s : State) (p : Packet) : (s.replyStep p).cores = s.cores := by unfold State.replyStep; (try dsimp only); (repeat' split) <;> simp
@[simp] theorem State.replyStep_mem (s : State) (p : Packet) : (s.replyStep p).mem = s.mem := by unfold State.replyStep; (try dsimp only); (repeat' split) <;> simp
@[simp] theorem State.replyStep_pkg (s : State) (p : Packet) : (s.replyStep p).pkg = s.pkg := by unfold State.replyStep; (try dsimp only); (repeat' split) <;> simp
@[simp] theorem State.replyStep_sip (s : State) (p : Packet) : (s.replyStep p).sip = s.sip := by unfold State.replyStep; (try dsimp only); (repeat' split) <;> simp
@[simp] theorem State.replyStep_hst (s : State) (p : Packet) : (s.replyStep p).hst = s.hst := by unfold State.replyStep; (try dsimp only); (repeat' split) <;> simp
@[simp] theorem State.replyStep_sched (s : State) (p : Packet) : (s.replyStep p).sched = s.sched := by unfold State.replyStep; (try dsimp only); (repeat' split) <;> simp
@[simp] theorem State.replyStep_out (s : State) (p : Packet) : (s.replyStep p).out = s.out := by unfold State.replyStep; (try dsimp only); (repeat' split) <;> simp
@[simp] theorem State.replyStep_draws (s : State) (p : Packet) : (s.replyStep p).draws = s.draws := by unfold State.replyStep; (try dsimp only); (repeat' split) <;> simp

/-! ### refuse -/

@[simp] theorem State.refuse_h (s : State) (p : Packet) (st : Nat) : (s.refuse p st).h = s.h := by unfold State.refuse; simp
@[simp] theorem State.refuse_c (s : State) (p : Packet) (st : Nat) : (s.refuse p st).c = s.c := by unfold State.refuse; simp
@[simp] theorem State.refuse_harts (s : State) (p : Packet) (st : Nat) : (s.refuse p st).harts = s.harts := by unfold State.refuse; simp
@[simp] theorem State.refuse_cores (s : State) (p : Packet) (st : Nat) : (s.refuse p st).cores = s.cores := by unfold State.refuse; simp
@[simp] theorem State.refuse_mem (s : State) (p : Packet) (st : Nat) : (s.refuse p st).mem = s.mem := by unfold State.refuse; simp
@[simp] theorem State.refuse_pkg (s : State) (p : Packet) (st : Nat) : (s.refuse p st).pkg = s.pkg := by unfold State.refuse; simp
@[simp] theorem State.refuse_sip (s : State) (p : Packet) (st : Nat) : (s.refuse p st).sip = s.sip := by unfold State.refuse; simp
@[simp] theorem State.refuse_hst (s : State) (p : Packet) (st : Nat) : (s.refuse p st).hst = s.hst := by unfold State.refuse; simp
@[simp] theorem State.refuse_sched (s : State) (p : Packet) (st : Nat) : (s.refuse p st).sched = s.sched := by unfold State.refuse; simp
@[simp] theorem State.refuse_out (s : State) (p : Packet) (st : Nat) : (s.refuse p st).out = s.out := by unfold State.refuse; simp
@[simp] theorem State.refuse_draws (s : State) (p : Packet) (st : Nat) : (s.refuse p st).draws = s.draws := by unfold State.refuse; simp

/-! ### putMerge -/

@[simp] theorem State.putMerge_h (s : State) (k : McastMerge) : (s.putMerge k).h = s.h := by unfold State.putMerge; (try dsimp only); (repeat' split) <;> simp
@[simp] theorem State.putMerge_c (s : State) (k : McastMerge) : (s.putMerge k).c = s.c := by unfold State.putMerge; (try dsimp only); (repeat' split) <;> simp
@[simp] theorem State.putMerge_harts (s : State) (k : McastMerge) : (s.putMerge k).harts = s.harts := by unfold State.putMerge; (try dsimp only); (repeat' split) <;> simp
@[simp] theorem State.putMerge_cores (s : State) (k : McastMerge) : (s.putMerge k).cores = s.cores := by unfold State.putMerge; (try dsimp only); (repeat' split) <;> simp
@[simp] theorem State.putMerge_mem (s : State) (k : McastMerge) : (s.putMerge k).mem = s.mem := by unfold State.putMerge; (try dsimp only); (repeat' split) <;> simp
@[simp] theorem State.putMerge_pkg (s : State) (k : McastMerge) : (s.putMerge k).pkg = s.pkg := by unfold State.putMerge; (try dsimp only); (repeat' split) <;> simp
@[simp] theorem State.putMerge_sip (s : State) (k : McastMerge) : (s.putMerge k).sip = s.sip := by unfold State.putMerge; (try dsimp only); (repeat' split) <;> simp
@[simp] theorem State.putMerge_hst (s : State) (k : McastMerge) : (s.putMerge k).hst = s.hst := by unfold State.putMerge; (try dsimp only); (repeat' split) <;> simp
@[simp] theorem State.putMerge_sched (s : State) (k : McastMerge) : (s.putMerge k).sched = s.sched := by unfold State.putMerge; (try dsimp only); (repeat' split) <;> simp
@[simp] theorem State.putMerge_out (s : State) (k : McastMerge) : (s.putMerge k).out = s.out := by unfold State.putMerge; (try dsimp only); (repeat' split) <;> simp
@[simp] theorem State.putMerge_draws (s : State) (k : McastMerge) : (s.putMerge k).draws = s.draws := by unfold State.putMerge; (try dsimp only); (repeat' split) <;> simp

/-! ### settleCopy -/

@[simp] theorem State.settleCopy_mem (s : State) (id : BitVec 32) : (s.settleCopy id).mem = s.mem := by unfold State.settleCopy; (try dsimp only); (repeat' split) <;> simp
@[simp] theorem State.settleCopy_pkg (s : State) (id : BitVec 32) : (s.settleCopy id).pkg = s.pkg := by unfold State.settleCopy; (try dsimp only); (repeat' split) <;> simp
@[simp] theorem State.settleCopy_fab (s : State) (id : BitVec 32) : (s.settleCopy id).fab = s.fab := by unfold State.settleCopy; (try dsimp only); (repeat' split) <;> simp
@[simp] theorem State.settleCopy_sip (s : State) (id : BitVec 32) : (s.settleCopy id).sip = s.sip := by unfold State.settleCopy; (try dsimp only); (repeat' split) <;> simp
@[simp] theorem State.settleCopy_sched (s : State) (id : BitVec 32) : (s.settleCopy id).sched = s.sched := by unfold State.settleCopy; (try dsimp only); (repeat' split) <;> simp
@[simp] theorem State.settleCopy_out (s : State) (id : BitVec 32) : (s.settleCopy id).out = s.out := by unfold State.settleCopy; (try dsimp only); (repeat' split) <;> simp
@[simp] theorem State.settleCopy_draws (s : State) (id : BitVec 32) : (s.settleCopy id).draws = s.draws := by unfold State.settleCopy; (try dsimp only); (repeat' split) <;> simp

end Sys2Proof.Machine
end

