-- ==== Sys2Proof/Laws/Vector.lean ====
section
/-! SUPPORT. Elements of vector groups, and what writing the results of an element-wise instruction does. -/

set_option Elab.async false

namespace Sys2Proof.Machine

open Sys2Proof.Safety

/-! ## Elements of a number -/

/-- A number cut at bit `a`: the element at `b ≥ a`. -/
theorem elem_shift (x w k j : Nat) : x / 2 ^ (w * k) / 2 ^ (w * j) % 2 ^ w = x / 2 ^ (w * (k + j)) % 2 ^ w := by
  rw [Nat.div_div_eq_div_mul, ← Nat.pow_add, ← Nat.mul_add]

/-- An element below a cut. -/
theorem elem_mod (x w n k : Nat) (h : w * (k + 1) ≤ n) : x % 2 ^ n / 2 ^ (w * k) % 2 ^ w = x / 2 ^ (w * k) % 2 ^ w := by
  obtain ⟨c, rfl⟩ := Nat.exists_eq_add_of_le h
  rw [show w * (k + 1) + c = w * k + (w + c) by rw [Nat.mul_succ]; omega, Nat.pow_add, Nat.mod_mul_right_div_self, Nat.pow_add,
    Nat.mod_mul_right_mod]

/-- One element of `buildElems`, by whether it is active. -/
theorem buildElems_succ (w : Nat) (act : Nat → Bool) (old : Nat) (f : Nat → Nat × Flg) (n i : Nat) :
    buildElems w act old f (n + 1) i =
      if act i then ((f i).1 % 2 ^ w + 2 ^ w * (buildElems w act old f n (i + 1)).1, (f i).2 ||| (buildElems w act old f n (i + 1)).2.1, true)
      else (old / 2 ^ (w * i) % 2 ^ w + 2 ^ w * (buildElems w act old f n (i + 1)).1, (buildElems w act old f n (i + 1)).2.1,
        (buildElems w act old f n (i + 1)).2.2) := rfl

/-- The number that one more element makes. -/
theorem buildElems_fst (w : Nat) (act : Nat → Bool) (old : Nat) (f : Nat → Nat × Flg) (n i : Nat) :
    (buildElems w act old f (n + 1) i).1 =
      (if act i then (f i).1 else old / 2 ^ (w * i)) % 2 ^ w + 2 ^ w * (buildElems w act old f n (i + 1)).1 := by
  rw [buildElems_succ]
  split <;> rfl

/-- The elements that `buildElems` gives, and their bound. -/
theorem buildElems_elem (w : Nat) (act : Nat → Bool) (old : Nat) (f : Nat → Nat × Flg) (n i k : Nat) (hk : k < n) :
    (buildElems w act old f n i).1 / 2 ^ (w * k) % 2 ^ w =
      if act (i + k) then (f (i + k)).1 % 2 ^ w else old / 2 ^ (w * (i + k)) % 2 ^ w := by
  induction n generalizing i k with
  | zero => omega
  | succ n ih =>
    have hb : ∀ z : Nat, (z % 2 ^ w + 2 ^ w * (buildElems w act old f n (i + 1)).1) / 2 ^ (w * k) % 2 ^ w =
        if k = 0 then z % 2 ^ w else (buildElems w act old f n (i + 1)).1 / 2 ^ (w * (k - 1)) % 2 ^ w := by
      intro z
      have hz := Nat.mod_lt z (Nat.two_pow_pos w)
      cases k with
      | zero => simp
      | succ k =>
        rw [if_neg (by omega), Nat.add_sub_cancel, Nat.mul_succ, Nat.add_comm (w * k) w, Nat.pow_add, ← Nat.div_div_eq_div_mul,
          Nat.add_mul_div_left _ _ (Nat.two_pow_pos w), Nat.div_eq_of_lt hz, Nat.zero_add]
    rw [buildElems_fst, hb]
    cases k with
    | zero =>
      rw [if_pos rfl, Nat.add_zero]
      split <;> rfl
    | succ k =>
      rw [if_neg (by omega), Nat.add_sub_cancel, ih (i + 1) k (by omega), show i + 1 + k = i + (k + 1) by omega]

theorem buildElems_lt (w : Nat) (act : Nat → Bool) (old : Nat) (f : Nat → Nat × Flg) (n i : Nat) :
    (buildElems w act old f n i).1 < 2 ^ (w * n) := by
  induction n generalizing i with
  | zero => exact Nat.one_pos
  | succ n ih =>
    rw [buildElems_fst, Nat.mul_succ, Nat.add_comm (w * n), Nat.pow_add]
    have h1 := Nat.mod_lt (if act i then (f i).1 else old / 2 ^ (w * i)) (Nat.two_pow_pos w)
    have h2 := ih (i + 1)
    calc _ < 2 ^ w + 2 ^ w * (buildElems w act old f n (i + 1)).1 := by omega
      _ = 2 ^ w * ((buildElems w act old f n (i + 1)).1 + 1) := by rw [Nat.mul_succ]; omega
      _ ≤ _ := Nat.mul_le_mul_left _ h2

/-- Whether some element was performed. -/
theorem buildElems_any (w : Nat) (act : Nat → Bool) (old : Nat) (f : Nat → Nat × Flg) (n i : Nat) :
    (buildElems w act old f n i).2.2 = (List.range' i n).any act := by
  induction n generalizing i with
  | zero => rfl
  | succ n ih =>
    rw [List.range'_succ, List.any_cons, ← ih (i + 1)]
    rw [buildElems_succ]
    by_cases h : act i = true
    · rw [if_pos h, h]
      rfl
    · rw [if_neg h]
      simp only [Bool.not_eq_true] at h
      rw [h]
      rfl

/-- The flags of the elements that are performed. -/
theorem buildElems_flags (w : Nat) (act : Nat → Bool) (old : Nat) (f : Nat → Nat × Flg) (n i : Nat) (acc : Flg) :
    acc ||| (buildElems w act old f n i).2.1 = (List.range' i n).foldl (fun a j => if act j then a ||| (f j).2 else a) acc := by
  induction n generalizing i acc with
  | zero =>
    show acc ||| 0#5 = acc
    simp
  | succ n ih =>
    rw [List.range'_succ, List.foldl_cons]
    have step : (buildElems w act old f (n + 1) i).2.1 =
        if act i then (f i).2 ||| (buildElems w act old f n (i + 1)).2.1 else (buildElems w act old f n (i + 1)).2.1 := by
      rw [buildElems_succ]
      split <;> rfl
    rw [step]
    by_cases h : act i = true
    · rw [if_pos h, if_pos h, ← BitVec.or_assoc, ih]
    · rw [if_neg h, if_neg h, ih]

/-- Elements of a spliced number. -/
theorem spliceElems_elem (w lo hi old mid k : Nat) (h : lo ≤ hi) (hm : mid < 2 ^ (w * (hi - lo))) :
    spliceElems w lo hi old mid / 2 ^ (w * k) % 2 ^ w =
      if lo ≤ k ∧ k < hi then mid / 2 ^ (w * (k - lo)) % 2 ^ w else old / 2 ^ (w * k) % 2 ^ w := by
  unfold spliceElems
  have hl := Nat.mod_lt old (Nat.two_pow_pos (w * lo))
  by_cases h1 : k < lo
  · rw [if_neg (by omega), ← elem_mod _ w (w * lo) k (Nat.mul_le_mul_left _ h1), Nat.add_mul_mod_self_left, Nat.mod_mod,
      elem_mod _ w (w * lo) k (Nat.mul_le_mul_left _ h1)]
  · rw [show k = lo + (k - lo) by omega, ← elem_shift, Nat.add_mul_div_left _ _ (Nat.two_pow_pos _), Nat.div_eq_of_lt hl, Nat.zero_add]
    rw [show lo + (k - lo) - lo = k - lo by omega]
    by_cases h2 : k < hi
    · rw [if_pos (by omega), ← elem_mod _ w (w * (hi - lo)) _ (Nat.mul_le_mul_left _ (by omega)), Nat.add_mul_mod_self_left,
        Nat.mod_eq_of_lt hm]
    · rw [if_neg (by omega), show k - lo = (hi - lo) + (k - hi) by omega, ← elem_shift, Nat.add_mul_div_left _ _ (Nat.two_pow_pos _),
        Nat.div_eq_of_lt hm, Nat.zero_add, elem_shift, show hi + (k - hi) = lo + (hi - lo + (k - hi)) by omega]

/-! ## Register groups -/

/-- A vector register of a state, by number. -/
theorem State.vreg_lt (s : State) {k : Nat} (h : k < 32) : s.vreg k = s.h.vec.v.get ⟨k, h⟩ := by
  unfold State.vreg
  rw [List.getD_eq_getElem _ _ (by simpa using h)]
  simp [Vector.get]

theorem State.vreg_ge (s : State) {k : Nat} (h : ¬ k < 32) : s.vreg k = VReg.none := by
  unfold State.vreg
  rw [List.getD_eq_default _ _ (by simpa using h)]

theorem State.vreg_congr {s t : State} (h : t.h.vec.v = s.h.vec.v) (n : Nat) : t.vreg n = s.vreg n := by
  unfold State.vreg
  rw [h]

theorem State.regBits_congr {s t : State} (h : t.h.vec.v = s.h.vec.v) (h' : t.h.csr.vlenb = s.h.csr.vlenb) (n g : Nat) :
    t.regBits n g = s.regBits n g := by
  induction g generalizing n with
  | zero => rfl
  | succ g ih =>
    unfold State.regBits
    rw [ih, State.vreg_congr h, show t.vlenb = s.vlenb from congrArg BitVec.toNat h']

/-- The registers of a group that is written, and all the others. -/
theorem State.setGroup_vreg (s : State) (n g t bits k : Nat) : (s.setGroup n g t bits).vreg k =
    if k < 32 ∧ n ≤ k ∧ k < n + g then ⟨BitVec.ofNat 5 t, bits / 2 ^ (8 * s.vlenb * (k - n)) % 2 ^ (8 * s.vlenb)⟩ else s.vreg k := by
  by_cases h : k < 32
  · rw [State.vreg_lt _ h, State.vreg_lt _ h]
    have e : (s.setGroup n g t bits).h.vec.v.get ⟨k, h⟩ =
        if n ≤ k ∧ k < n + g then (⟨BitVec.ofNat 5 t, bits / 2 ^ (8 * s.vlenb * (k - n)) % 2 ^ (8 * s.vlenb)⟩ : VReg)
        else s.h.vec.v.get ⟨k, h⟩ := by
      unfold State.setGroup
      dsimp only
      rw [Vector.get_ofFn]
    rw [e]
    split
    · rename_i c
      rw [if_pos ⟨h, c⟩]
    · rename_i c
      rw [if_neg (fun d => c d.2)]
  · rw [State.vreg_ge _ h, State.vreg_ge _ h, if_neg (fun c => h c.1)]

/-- The bytes of a group whose registers hold a number cut at the register length. -/
theorem State.regBits_of (u : State) (g n t bits : Nat) (ht : BitVec.ofNat 5 t ≠ 0)
    (h : ∀ j < g, u.vreg (n + j) = ⟨BitVec.ofNat 5 t, bits / 2 ^ (8 * u.vlenb * j) % 2 ^ (8 * u.vlenb)⟩) :
    u.regBits n g = bits % 2 ^ (8 * u.vlenb * g) := by
  induction g generalizing n bits with
  | zero => simp [State.regBits, Nat.mod_one]
  | succ g ih =>
    have h0 := h 0 (Nat.succ_pos g)
    have e : u.regBits (n + 1) g = bits / 2 ^ (8 * u.vlenb) % 2 ^ (8 * u.vlenb * g) := by
      refine ih (n + 1) (bits / 2 ^ (8 * u.vlenb)) fun j hj => ?_
      have := h (j + 1) (by omega)
      rw [show n + 1 + j = n + (j + 1) by omega, this, Nat.div_div_eq_div_mul, ← Nat.pow_add, Nat.mul_succ,
        Nat.add_comm (8 * u.vlenb * j)]
    unfold State.regBits
    rw [Nat.add_zero] at h0
    rw [e, h0]
    dsimp only
    rw [if_neg ht, Nat.mul_zero, Nat.pow_zero, Nat.div_one, Nat.mul_succ, Nat.add_comm (8 * u.vlenb * g), Nat.pow_add]
    exact (Nat.mod_mul).symm

/-- The activity that statements use is the model's. -/
theorem State.active_eq (s : State) (m : Bool) (i : Nat) : s.active m i = Active s m i := rfl

/-- A vector register without a memory stream or ring is not consumed. -/
theorem State.consume_unbound (s : State) {r : Nat} (h : Unbound s r) : s.consume r = s := by
  unfold State.consume
  unfold Unbound at h
  dsimp only
  rw [h]
  rfl

theorem State.consume_all (s : State) (l : List Nat) (h : ∀ r ∈ l, Unbound s r) : l.foldl State.consume s = s := by
  induction l with
  | nil => rfl
  | cons r l ih =>
    rw [List.foldl_cons, State.consume_unbound s (h r (List.mem_cons_self ..))]
    exact ih fun q hq => h q (List.mem_cons_of_mem _ hq)

/-- Charging element-beats changes event counters and the queue charges only. -/
theorem State.chargeRange_eq (s : State) (w cycles lo hi : Nat) : s.chargeRange w cycles lo hi =
    { s with c := { s.c with evc := (s.chargeRange w cycles lo hi).c.evc, charge := (s.chargeRange w cycles lo hi).c.charge
                             unreported := (s.chargeRange w cycles lo hi).c.unreported } } := by
  unfold State.chargeRange State.charge
  dsimp only
  split <;> rfl

/-- The declared count never passes 32. -/
theorem State.declared_le (s : State) : s.declared ≤ 32 := Nat.div_le_self ..

/-- Writing the status of a vector write: VS becomes Dirty where it is not Off, and no other bit changes. -/
theorem Csrs.vsDirty_sstatus (c : Csrs) (h : c.sstatus.toNat / 32 ≠ 0) :
    c.vsDirty.sstatus.toNat / 32 = 3 ∧ c.vsDirty.sstatus.toNat % 32 = c.sstatus.toNat % 32 := by
  have hlt := c.sstatus.isLt
  have hv : c.vs ≠ 0 := by
    show c.sstatus.toNat / 2 ^ 5 % 2 ^ 2 ≠ 0
    omega
  unfold Csrs.vsDirty
  rw [if_neg hv]
  show (BitVec.ofNat 7 _).toNat / 32 = 3 ∧ (BitVec.ofNat 7 _).toNat % 32 = _
  rw [BitVec.toNat_ofNat]
  omega

theorem Csrs.vsDirty_eq (c : Csrs) : c.vsDirty = { c with sstatus := c.vsDirty.sstatus } := by
  unfold Csrs.vsDirty
  split <;> rfl

/-- What `writeElems` leaves, with the number it writes and whether it writes: the group, the flags, the count and nothing else. -/
theorem State.writeElems_eq {s : State} {m : Bool} {d t : Nat} {srcs : List Oper} {rounds : Bool} {cycles wide : Nat} {f : Nat → Nat × Flg}
    (hv : s.vstart < s.vl) (hd : Unbound s d) (hs : ∀ o ∈ srcs, Unbound s o.reg) :
    ∃ ec q1 q2, s.writeElems m d t srcs none rounds cycles wide f =
      let b := buildElems (tagWidth t) (s.active m) (s.regBits d (s.group (tagWidth t))) f (s.vl - s.vstart) s.vstart
      let g : State := if b.2.2 then s.setGroup d (s.group (tagWidth t)) t
        (spliceElems (tagWidth t) s.vstart s.vl (s.regBits d (s.group (tagWidth t))) b.1) else s
      .ok { s with
        h := { s.h with
          csr := { s.h.csr with
            vstart := 0, vdirty := g.h.csr.vdirty, sstatus := g.h.csr.sstatus, fflags := s.h.csr.fflags ||| b.2.1
            srseed := if rounds = true ∧ s.h.csr.frm.toNat = 5 then s.h.csr.srseed + BitVec.ofNat 64 (2 ^ 48) else s.h.csr.srseed }
          vec := { s.h.vec with v := g.h.vec.v } }
        c := { s.c with evc := ec, charge := q1, unreported := q2 } } := by
  unfold State.writeElems
  rw [if_neg (by omega)]
  dsimp only [Option.filter]
  generalize buildElems (tagWidth t) (s.active m) (s.regBits d (s.group (tagWidth t))) f (s.vl - s.vstart) s.vstart = b
  have hk : (s.h.binding d).kind ≠ 3 := by
    unfold Unbound at hd
    rw [hd]
    decide
  generalize hg : (if b.2.2 then s.setGroup d (s.group (tagWidth t)) t
        (spliceElems (tagWidth t) s.vstart s.vl (s.regBits d (s.group (tagWidth t))) b.1) else s) = g
  have eg : g = { s with h := { s.h with csr := { s.h.csr with vdirty := g.h.csr.vdirty, sstatus := g.h.csr.sstatus }
                                         vec := { s.h.vec with v := g.h.vec.v } } } := by
    rw [← hg]
    split
    · unfold State.setGroup Csrs.vsDirty
      dsimp only
      split <;> rfl
    · rfl
  have ec := (g.accrue b.2.1).chargeRange_eq wide cycles s.vstart s.vl
  generalize (g.accrue b.2.1).chargeRange wide cycles s.vstart s.vl = c at ec ⊢
  refine ⟨c.c.evc, c.c.charge, c.c.unreported, ?_⟩
  rw [if_neg hk, if_neg hk]
  generalize g.h.csr.vdirty = x1 at eg ⊢
  generalize g.h.csr.sstatus = x2 at eg ⊢
  generalize g.h.vec.v = x3 at eg ⊢
  subst eg
  generalize c.c.evc = y1 at ec ⊢
  generalize c.c.charge = y2 at ec ⊢
  generalize c.c.unreported = y3 at ec ⊢
  subst ec
  unfold State.vdone
  rw [State.consume_all]
  · dsimp only
    unfold State.countSr State.accrue
    cases rounds
    · rfl
    · dsimp only
      by_cases hf : s.h.csr.frm.toNat = 5
      · rw [if_pos rfl, if_pos hf, if_pos ⟨rfl, hf⟩]
      · rw [if_pos rfl, if_neg hf, if_neg (fun c => hf c.2)]
  · intro r hr
    obtain ⟨o, ho, rfl⟩ := List.mem_map.mp (List.mem_dedup.mp hr)
    exact hs o ho

/-- Where the schedule has no instruction stop between element groups, the whole strip is written. -/
theorem State.writeCut_none {s : State} (h : s.cutNow = none) (m : Bool) (d t : Nat) (srcs : List Oper) (bad : Option (Nat × Trap)) (rounds : Bool)
    (cycles wide : Nat) (f : Nat → Nat × Flg) :
    s.writeCut m d t srcs bad rounds cycles wide f = s.writeElems m d t srcs bad rounds cycles wide f := by
  unfold State.writeCut State.cutPoint
  rw [h]

/-- An instruction that writes the results of its elements, from unbound operands without a failed element, computes them. -/
theorem vecComputes_of_strip {i : Instr} {s : State} {m : Bool} {d : Reg} {t : Nat} {srcs : List Oper} {rounds : Bool} {cycles wide : Nat}
    {f : Nat → Nat × Flg} (h : exec i s = finish (s.writeElems m d.toNat t srcs none rounds cycles wide f)) (hv : s.vstart < s.vl)
    (vs : s.h.csr.sstatus.toNat / 32 ≠ 0) (hd : Destination s d.toNat (tagWidth t) m) (hs : ∀ o ∈ srcs, Unbound s o.reg) (ht : BitVec.ofNat 5 t ≠ 0)
    (ht' : t < 32) : VecComputes i d t m rounds f s := by
  obtain ⟨ub, fit, -⟩ := hd
  obtain ⟨ec, q1, q2, e⟩ := State.writeElems_eq (m := m) (t := t) (rounds := rounds) (cycles := cycles) (wide := wide) (f := f) hv ub hs
  rw [e] at h
  clear e
  have hfit : d.toNat + s.group (tagWidth t) ≤ 32 := by
    unfold Fits at fit
    have := s.declared_le
    split at fit
    · rename_i w1
      unfold State.group
      rw [if_pos w1]
      omega
    · omega
  have hmid := buildElems_lt (tagWidth t) (s.active m) (s.regBits d.toNat (s.group (tagWidth t))) f (s.vl - s.vstart) s.vstart
  have helem := buildElems_elem (tagWidth t) (s.active m) (s.regBits d.toNat (s.group (tagWidth t))) f (s.vl - s.vstart) s.vstart
  have hany := buildElems_any (tagWidth t) (s.active m) (s.regBits d.toNat (s.group (tagWidth t))) f (s.vl - s.vstart) s.vstart
  have hfl := buildElems_flags (tagWidth t) (s.active m) (s.regBits d.toNat (s.group (tagWidth t))) f (s.vl - s.vstart) s.vstart 0
  generalize hb : buildElems (tagWidth t) (s.active m) (s.regBits d.toNat (s.group (tagWidth t))) f (s.vl - s.vstart) s.vstart = b at *
  dsimp only at h
  have hact : ∀ i, Active s m i = true → s.vstart ≤ i ∧ i < s.vl := by
    intro i hi
    unfold Active at hi
    simp only [Bool.and_eq_true, decide_eq_true_eq] at hi
    exact hi.1
  have hany' : b.2.2 = true ↔ ∃ i, Active s m i = true := by
    rw [hany, List.any_eq_true]
    constructor
    · rintro ⟨i, -, hi⟩
      exact ⟨i, hi⟩
    · rintro ⟨i, hi⟩
      have := hact i hi
      exact ⟨i, List.mem_range'_1.mpr (by omega), hi⟩
  have hflags : b.2.1 = vecFlags s m f := by
    have z : (0 : Flg) ||| b.2.1 = b.2.1 := by simp
    rw [z] at hfl
    rw [hfl]
    unfold vecFlags
    have sp : List.range s.vl = List.range' 0 s.vstart ++ List.range' s.vstart (s.vl - s.vstart) := by
      have h1 := List.range'_append_1 (s := 0) (m := s.vstart) (n := s.vl - s.vstart)
      rw [Nat.zero_add, show s.vstart + (s.vl - s.vstart) = s.vl by omega] at h1
      rw [List.range_eq_range', h1]
    rw [sp, List.foldl_append]
    have low : ∀ l : List Nat, (∀ i ∈ l, i < s.vstart) →
        l.foldl (fun acc i => if Active s m i = true then acc ||| (f i).2 else acc) (0 : Flg) = 0 := by
      intro l
      induction l with
      | nil => intro _; rfl
      | cons i l ih =>
        intro hl
        have : ¬ Active s m i = true := fun c => by
          have := hact i c
          have := hl i (List.mem_cons_self ..)
          omega
        rw [List.foldl_cons, if_neg this]
        exact ih fun j hj => hl j (List.mem_cons_of_mem _ hj)
    rw [low _ (fun i hi => by have := List.mem_range'_1.mp hi; omega)]
    rfl
  have helem' : ∀ k, spliceElems (tagWidth t) s.vstart s.vl (s.regBits d.toNat (s.group (tagWidth t))) b.1 / 2 ^ (tagWidth t * k) % 2 ^ tagWidth t =
      if Active s m k = true then (f k).1 % 2 ^ tagWidth t else elemAt s d.toNat (tagWidth t) k := by
    intro k
    rw [spliceElems_elem _ _ _ _ _ _ (by omega) hmid]
    by_cases hk : s.vstart ≤ k ∧ k < s.vl
    · rw [if_pos hk, helem (k - s.vstart) (by omega), show s.vstart + (k - s.vstart) = k by omega]
      rfl
    · rw [if_neg hk, if_neg (fun c => hk (hact k c))]
      rfl
  refine ⟨_, h, ?_, ?_, ?_, ?_⟩
  · by_cases hp : b.2.2 = true
    · rw [if_pos hp]
      have hdirty : ∀ c : Csrs, c.vsDirty.vdirty = c.vdirty := fun c => by rw [Csrs.vsDirty_eq]
      have vd : (s.setGroup d.toNat (s.group (tagWidth t)) t (spliceElems (tagWidth t) s.vstart s.vl (s.regBits d.toNat (s.group (tagWidth t))) b.1)).h.csr.vdirty =
          s.h.csr.vdirty ||| BitVec.ofNat 32 ((2 ^ s.group (tagWidth t) - 1) * 2 ^ d.toNat) := hdirty _
      have bit : ∀ n, (BitVec.ofNat 32 ((2 ^ s.group (tagWidth t) - 1) * 2 ^ d.toNat)).getLsbD n =
          (decide (n < 32) && (decide (d.toNat ≤ n) && decide (n < d.toNat + s.group (tagWidth t)))) := by
        intro n
        rw [BitVec.getLsbD_ofNat, Nat.mul_comm, Nat.testBit_two_pow_mul, Nat.testBit_two_pow_sub_one]
        congr 1
        by_cases hn : d.toNat ≤ n
        · simp only [hn, decide_true, Bool.true_and, decide_eq_decide]
          omega
        · simp [hn]
      refine ⟨fun i hi => ?_, fun n hn => ⟨?_, ?_⟩, fun _ => ⟨?_, fun j hj => ⟨?_, ?_⟩⟩, fun hall => ?_⟩
      · rw [← helem' i]
        unfold elemAt
        rw [State.regBits_of _ _ _ t (spliceElems (tagWidth t) s.vstart s.vl (s.regBits d.toNat (s.group (tagWidth t))) b.1) ht]
        · exact elem_mod _ _ _ _ hi
        · intro j hj
          replace hj : j < s.group (tagWidth t) := hj
          refine (State.vreg_congr (s := s.setGroup d.toNat (s.group (tagWidth t)) t (spliceElems (tagWidth t) s.vstart s.vl (s.regBits d.toNat (s.group (tagWidth t))) b.1)) rfl _).trans ?_
          rw [State.setGroup_vreg, if_pos (by omega)]
          rw [Nat.add_sub_cancel_left]
          rfl
      · refine (State.vreg_congr (s := s.setGroup d.toNat (s.group (tagWidth t)) t (spliceElems (tagWidth t) s.vstart s.vl (s.regBits d.toNat (s.group (tagWidth t))) b.1)) rfl _).trans ?_
        rw [State.setGroup_vreg, if_neg (by omega)]
      · rw [vd]
        show (s.h.csr.vdirty ||| BitVec.ofNat 32 ((2 ^ s.group (tagWidth t) - 1) * 2 ^ d.toNat)).getLsbD n = _
        rw [BitVec.getLsbD_or, bit n]
        have : (decide (d.toNat ≤ n) && decide (n < d.toNat + s.group (tagWidth t))) = false := by
          rcases hn with hn | hn
          · simp; omega
          · simp; omega
        rw [this, Bool.and_false, Bool.or_false]
      · exact (Csrs.vsDirty_sstatus _ (by exact vs)).1
      · refine (congrArg (fun r : VReg => r.tag.toNat) (State.vreg_congr (s := s.setGroup d.toNat (s.group (tagWidth t)) t (spliceElems (tagWidth t) s.vstart s.vl (s.regBits d.toNat (s.group (tagWidth t))) b.1)) rfl _)).trans ?_
        rw [State.setGroup_vreg, if_pos (by omega)]
        show (BitVec.ofNat 5 t).toNat = t
        rw [BitVec.toNat_ofNat]
        exact Nat.mod_eq_of_lt ht'
      · rw [vd]
        show (s.h.csr.vdirty ||| BitVec.ofNat 32 ((2 ^ s.group (tagWidth t) - 1) * 2 ^ d.toNat)).getLsbD (d.toNat + j) = true
        rw [BitVec.getLsbD_or, bit]
        have : (decide (d.toNat + j < 32) && (decide (d.toNat ≤ d.toNat + j) && decide (d.toNat + j < d.toNat + s.group (tagWidth t)))) = true := by
          simp
          omega
        rw [this, Bool.or_true]
      · obtain ⟨i, hi⟩ := hany'.mp hp
        rw [hall i] at hi
        exact absurd hi (by decide)
    · rw [if_neg hp]
      have none_ : ∀ i, Active s m i = false := fun i => by
        by_contra c
        exact hp (hany'.mpr ⟨i, by simpa using c⟩)
      refine ⟨fun i hi => ?_, fun n hn => ⟨rfl, rfl⟩, fun ⟨i, hi⟩ => ?_, fun _ => ⟨rfl, rfl, rfl⟩⟩
      · refine Eq.trans (b := elemAt s d.toNat (tagWidth t) i) (congrArg (· / 2 ^ (tagWidth t * i) % 2 ^ tagWidth t) ?_) ?_
        · refine State.regBits_congr ?_ ?_ _ _ <;> rfl
        rw [none_ i]
        rfl
      · rw [none_ i] at hi
        exact absurd hi (by decide)
  · rw [← hflags]
    rfl
  · refine ite_congr (propext ⟨fun c => ⟨c.1, BitVec.eq_of_toNat_eq c.2, hv⟩, fun c => ⟨c.1, congrArg BitVec.toNat c.2.1⟩⟩) (fun _ => rfl) fun _ => rfl
  · refine ⟨?_, ?_⟩
    · split <;> rfl
    · split
      · exact (Csrs.vsDirty_sstatus _ (by exact vs)).2
      · rfl

/-- What an instruction that ends in `writeElems` does on any strip. -/
theorem vecComputes_of {i : Instr} {s : State} {m : Bool} {d : Reg} {t : Nat} {srcs : List Oper} {rounds : Bool} {cycles wide : Nat}
    {f : Nat → Nat × Flg} (h : exec i s = finish (s.writeElems m d.toNat t srcs none rounds cycles wide f))
    (vs : s.h.csr.sstatus.toNat / 32 ≠ 0) (hd : Destination s d.toNat (tagWidth t) m) (hs : ∀ o ∈ srcs, Unbound s o.reg) (ht : BitVec.ofNat 5 t ≠ 0)
    (ht' : t < 32) : VecComputes i d t m rounds f s := by
  by_cases hv : s.vstart < s.vl
  · exact vecComputes_of_strip h hv vs hd hs ht ht'
  · have none_ : ∀ k, Active s m k = false := fun k => by
      unfold Active
      by_cases h1 : s.vstart ≤ k
      · have : ¬ k < s.vl := by omega
        simp [this]
      · simp [h1]
    have hz : vecFlags s m f = 0 := by
      unfold vecFlags
      have : ∀ (l : List Nat) (z : Flg), l.foldl (fun acc k => if Active s m k = true then acc ||| (f k).2 else acc) z = z := by
        intro l
        induction l with
        | nil => intro z; rfl
        | cons k l ih =>
          intro z
          rw [List.foldl_cons, none_ k]
          exact ih z
      exact this _ _
    unfold State.writeElems at h
    rw [if_pos (by omega)] at h
    refine ⟨_, h, ⟨fun k _ => ?_, fun n _ => ⟨rfl, rfl⟩, fun ⟨k, hk⟩ => ?_, fun _ => ⟨rfl, rfl, rfl⟩⟩, ?_, ?_, ⟨rfl, rfl⟩⟩
    · rw [none_ k]
      refine congrArg (· / 2 ^ (tagWidth t * k) % 2 ^ tagWidth t) ?_
      refine State.regBits_congr ?_ ?_ _ _ <;> rfl
    · rw [none_ k] at hk
      exact absurd hk (by decide)
    · rw [hz]
      exact (BitVec.or_zero).symm
    · rw [if_neg (by rintro ⟨-, -, c⟩; exact hv c)]
      rfl

/-! ## Operands -/

theorem powCeil_pos (n : Nat) : 0 < powCeil n := by
  unfold powCeil
  repeat' split
  all_goals decide
theorem State.group_pos (s : State) (w : Nat) : 0 < s.group w := by
  unfold State.group
  split
  · exact Nat.one_pos
  · exact Nat.lt_of_lt_of_le (powCeil_pos _) (Nat.le_max_right _ _)

/-- An unbound operand. -/
theorem State.oper_unbound (s : State) (r : Reg) (h : Unbound s r.toNat) : s.oper r = ⟨r.toNat, (s.vreg r.toNat).tag.toNat, 0⟩ := by
  unfold State.oper
  unfold Unbound at h
  dsimp only
  rw [h]
  rfl

theorem State.oper_of (s : State) {r : Reg} {t w : Nat} (h : Operand s r.toNat t w) : s.oper r = ⟨r.toNat, t, 0⟩ := by
  rw [State.oper_unbound s r h.1]
  have := h.2.2 0 (s.group_pos w)
  rw [Nat.add_zero] at this
  rw [this]

theorem State.groupBad_of (s : State) {n w : Nat} (h : Fits s n w) : s.groupBad n w = false := by
  unfold Fits at h
  unfold State.groupBad State.maskTooLong
  dsimp only
  split at h
  · rename_i e
    rw [if_pos e]
    simp only [Bool.or_eq_false_iff, decide_eq_false_iff_not]
    omega
  · rename_i e
    rw [if_neg e]
    simp only [Bool.or_eq_false_iff, decide_eq_false_iff_not]
    omega

theorem promoteElem_none (q p b : Nat) : promoteElem q 0 p b = 0 := if_pos rfl

/-- Loading an unbound operand gives its elements in the promoted tag. -/
theorem State.load_of (s : State) {r t p : Nat} (h' : t ≠ tSF4) :
    ∃ x, s.load ⟨r, t, 0⟩ p = .src x ∧ x.bad = none ∧ ∀ q n, promoteElem q x.tag p (x.get n) = promoteElem q t p (elemAt s r (readWidth t p) n) := by
  by_cases e : t = 0
  · subst e
    exact ⟨Src.zero, rfl, rfl, fun q n => (promoteElem_none _ _ _).trans (promoteElem_none _ _ _).symm⟩
  · have hw : readWidth t p = tagWidth t := by unfold readWidth; rw [if_neg e]
    refine ⟨⟨t, s.regBits r (s.group (readWidth t p)), 0, bandOne, none⟩, ?_, rfl, fun q n => ?_⟩
    · unfold State.load
      dsimp only
      rw [if_neg (by decide), if_neg (by decide), if_neg (show ¬ t = tNone from e), if_neg h']
      rfl
    · show promoteElem q t p _ = _
      congr 1
      unfold elemAt Src.get
      dsimp only
      rw [hw, Nat.mul_comm]

/-- A destination that coincides with a source, or does not meet it, passes the overlap check. -/
theorem State.clear_meets (s : State) {d dw a aw : Nat} (h : Clear s d dw a aw) :
    (meets d (s.group dw) a (s.group aw) && (false || decide (d ≠ a) || decide (aw ≠ dw))) = false := by
  unfold meets
  rcases h with ⟨rfl, rfl⟩ | h | h
  · simp
  · simp only [Bool.and_eq_false_iff, decide_eq_false_iff_not]; omega
  · simp only [Bool.and_eq_false_iff, decide_eq_false_iff_not]; omega

/-- An operand of another tag than SF4 passes the group checks. -/
theorem State.operBad_of (s : State) {r t p : Nat} (h : Fits s r (readWidth t p)) (h' : t ≠ tSF4) : s.operBad ⟨r, t, 0⟩ p = false := by
  unfold State.operBad
  have h1 : s.groupBad r ((⟨r, t, 0⟩ : Oper).width p) = false := s.groupBad_of h
  have h2 : (t == tSF4) = false := by simpa using h'
  dsimp only
  rw [h1, h2]; rfl
theorem State.span_of (s : State) {r t p : Nat} (h' : t ≠ tSF4) : s.span ⟨r, t, 0⟩ p = s.group (readWidth t p) := by
  unfold State.span
  dsimp only
  rw [if_neg h']
  rfl
theorem State.uniform_of (s : State) {r t p : Nat} (h : Operand s r t (readWidth t p)) : s.uniform ⟨r, t, 0⟩ p = true := by
  unfold State.uniform
  rw [Bool.or_eq_true]
  right
  rw [List.all_eq_true]
  intro j hj
  have := h.2.2 j (List.mem_range.mp hj)
  simpa using this
theorem State.destStop_of (s : State) {d w : Nat} (h : Unbound s d) : s.destStop d w = none := by
  unfold State.destStop State.boundDest
  unfold Unbound at h
  dsimp only
  rw [h]
  rfl
/-- Loading a list of unbound operands, given by register and tag, gives their elements in the promoted tag, and none has failed. -/
theorem State.loadAll_of (s : State) (p : Nat) (l : List (Nat × Nat)) (hl : ∀ x ∈ l, x.2 ≠ tSF4) (k : List Src → Res) :
    ∃ xs, s.loadAll p (l.map fun x => ⟨x.1, x.2, 0⟩) k = k xs ∧ earliest (xs.map Src.bad) = none ∧ xs.length = l.length ∧
      ∀ j < l.length, ∀ q n, (promoteElem q (xs.getD j Src.zero).tag p ((xs.getD j Src.zero).get n)) = promoteElem q (l.getD j (0,0)).2 p (elemAt s (l.getD j (0,0)).1 (readWidth (l.getD j (0,0)).2 p) n) := by
  induction l generalizing k with
  | nil => exact ⟨[], rfl, rfl, rfl, fun j h => absurd h (by simp)⟩
  | cons x l ih =>
    obtain ⟨y, h1, h2, h3⟩ := s.load_of (r := x.1) (p := p) (hl x (List.mem_cons_self ..))
    obtain ⟨ys, g1, g2, g3, g4⟩ := ih (fun z hz => hl z (List.mem_cons_of_mem _ hz)) (fun xs => k (y :: xs))
    refine ⟨y :: ys, ?_, ?_, by simp [g3], ?_⟩
    · rw [List.map_cons]
      unfold State.loadAll
      rw [h1]
      exact g1
    · rw [List.map_cons, h2]
      exact g2
    · intro j hj q n
      cases j with
      | zero => exact h3 q n
      | succ j =>
        simp only [List.getD_cons_succ]
        exact g4 j (by simpa using hj) q n

/-- An unbound operand, by register and tag. -/
abbrev plainOper (x : Nat × Nat) : Oper := ⟨x.1, x.2, 0⟩

/-- The vector register among the second operands. -/
def Second.vecs : Second → List Oper
  | .vec o => [o]
  | _ => []

/-- The tag that a scalar or immediate second operand adds to the promotion. -/
def Second.tags : Second → List Nat
  | .code t _ => [t]
  | _ => []

/-- The sources with a scalar or immediate second operand put in its place. -/
def Second.into (x : Second) (n : Nat) (xs : List Src) : List Src :=
  match x, xs with
  | .code t c, y :: r => y :: Src.const t c n :: r
  | _, _ => xs

/-- What an element-wise instruction comes to when its checks pass: its sources' elements, and the writing of its results. `vl` are the vector sources by register and
tag, `dl` the destination as a third source. -/
theorem State.elementwise_of {s : State} {e : Elementwise} {m third : Bool} {d : Reg} {a : Oper} {snd : Second} {p : Nat} {vl dl : List (Nat × Nat)}
    (hcut : s.cutNow = none)
    (hv : [a] ++ snd.vecs = vl.map plainOper) (hd : (if third = true then [s.oper d] else []) = dl.map plainOper)
    (hsf : ∀ x ∈ vl ++ dl, x.2 ≠ tSF4) (hop : ∀ x ∈ vl ++ dl, Operand s x.1 x.2 (readWidth x.2 p)) (hb : snd ≠ .bad)
    (hp : promoteAll s.vtag ((vl ++ dl).map Prod.snd ++ snd.tags) = some p)
    (hn : p ≠ 0) (hr : p < 0x14) (ha : e.allowed p = true) (hq : p = tZ64 → s.qBad = false)
    (hdest : Destination s d.toNat (tagWidth (e.result p)) m) (hc : ∀ x ∈ vl, Clear s d.toNat (tagWidth (e.result p)) x.1 (readWidth x.2 p)) :
    ∃ xs wide, xs.length = (vl ++ dl).length ∧
      (∀ j < (vl ++ dl).length, ∀ q n, promoteElem q (xs.getD j Src.zero).tag p ((xs.getD j Src.zero).get n) =
        promoteElem q ((vl ++ dl).getD j (0, 0)).2 p (elemAt s ((vl ++ dl).getD j (0, 0)).1 (readWidth ((vl ++ dl).getD j (0, 0)).2 p) n)) ∧
      s.elementwise e m d third a snd = s.writeElems m d.toNat (e.result p) ((vl ++ dl).map plainOper) none (e.rounds p) e.cycles wide fun i =>
        e.f p s.rnd s.q i (promoted s.q p (snd.into s.vl xs) i) := by
  obtain ⟨hu, hfit, hm⟩ := hdest
  have srcs : [a] ++ snd.vecs ++ (if third = true then [s.oper d] else []) = (vl ++ dl).map plainOper := by rw [hv, hd, List.map_append]
  have tags : ((vl ++ dl).map plainOper).map Oper.tag = (vl ++ dl).map Prod.snd := by rw [List.map_map]; rfl
  have bad0 : ((vl ++ dl).map plainOper).any (s.operBad · p) = false := by
    rw [List.any_eq_false]
    intro o ho
    obtain ⟨x, hx, rfl⟩ := List.mem_map.mp ho
    rw [State.operBad_of s (hop x hx).2.1 (hsf x hx)]
    decide
  have bad1 : (vl.map plainOper).any (s.operBad · p) = false := by
    rw [List.any_eq_false] at bad0 ⊢
    intro o ho
    exact bad0 o (by rw [List.map_append]; exact List.mem_append_left _ ho)
  have uni : ((vl ++ dl).map plainOper).all (s.uniform · p) = true := by
    rw [List.all_eq_true]
    intro o ho
    obtain ⟨x, hx, rfl⟩ := List.mem_map.mp ho
    exact State.uniform_of s (hop x hx)
  have grp : s.groupsIllegal m d.toNat (tagWidth (e.result p)) false (vl.map plainOper) p false = false := by
    unfold State.groupsIllegal
    dsimp only
    have c1 : (m && s.maskTooLong) = false := by
      cases m
      · rfl
      · have := (hm rfl).1
        unfold State.maskTooLong
        simpa using this
    have c2 : (m && decide (d.toNat = 0) && decide (tagWidth (e.result p) ≠ 1)) = false := by
      cases m
      · rfl
      · have := (hm rfl).2
        simp only [Bool.true_and, Bool.and_eq_false_iff, decide_eq_false_iff_not]
        omega
    have c3 : (vl.map plainOper).any (fun o => o.kind == 0 && meets d.toNat (s.group (tagWidth (e.result p))) o.reg (s.span o p) &&
        (false || decide (d.toNat ≠ o.reg) || decide (o.width p ≠ tagWidth (e.result p)))) = false := by
      rw [List.any_eq_false]
      intro o ho
      obtain ⟨x, hx, rfl⟩ := List.mem_map.mp ho
      have := State.clear_meets s (hc x hx)
      rw [State.span_of s (hsf x (List.mem_append_left _ hx)), show (plainOper x).width p = readWidth x.2 p from rfl,
        show ((plainOper x).kind == 0) = true from rfl, Bool.true_and, this]
      decide
    rw [c1, bad1, s.groupBad_of hfit, c2]
    simp only [Bool.false_eq_true, if_false]
    rw [c3]
    rfl
  have kp : (decide (p = tNone) || tagReserved p) = false := by
    unfold tagReserved tNone
    simp only [Bool.or_eq_false_iff, decide_eq_false_iff_not]
    omega
  have kz : (decide (p = tZ64) && s.qBad) = false := by
    by_cases h : p = tZ64
    · rw [hq h, Bool.and_false]
    · simp [h]
  obtain ⟨xs, h1, h2, h3, h4⟩ := s.loadAll_of p (vl ++ dl) hsf (fun xs =>
    s.writeCut m d.toNat (e.result p) ((vl ++ dl).map plainOper) (earliest (xs.map Src.bad)) (e.rounds p) e.cycles
      (max (tagWidth (e.result p)) (max (tagWidth p) ((((vl ++ dl).map plainOper).map (Oper.width · p)).foldl max 0))) fun i =>
        e.f p s.rnd s.q i (promoted s.q p (snd.into s.vl xs) i))
  refine ⟨xs, max (tagWidth (e.result p)) (max (tagWidth p) ((((vl ++ dl).map plainOper).map (Oper.width · p)).foldl max 0)), h3, h4, ?_⟩
  rw [h2] at h1
  rw [← State.writeCut_none hcut, ← h1]
  unfold State.elementwise
  dsimp only
  cases snd with
  | bad => exact absurd rfl hb
  | none =>
    dsimp only [Second.vecs, Second.tags] at *
    rw [srcs, tags, hp]
    dsimp only [Option.getD]
    rw [if_neg (by rw [bad0]; decide), if_neg (by rw [kp]; decide), hv, if_neg (by rw [grp]; decide),
      if_neg (by rw [uni, ha, show (Second.none == Second.bad) = false from rfl]; decide), if_neg (by rw [kz]; decide), State.destStop_of s hu]
    rfl
  | vec o =>
    dsimp only [Second.vecs, Second.tags] at *
    rw [srcs, tags, hp]
    dsimp only [Option.getD]
    rw [if_neg (by rw [bad0]; decide), if_neg (by rw [kp]; decide), hv, if_neg (by rw [grp]; decide),
      if_neg (by rw [uni, ha, show (Second.vec o == Second.bad) = false from rfl]; decide), if_neg (by rw [kz]; decide), State.destStop_of s hu]
    rfl
  | code t c =>
    dsimp only [Second.vecs, Second.tags] at *
    rw [srcs, tags, hp]
    dsimp only [Option.getD]
    rw [if_neg (by rw [bad0]; decide), if_neg (by rw [kp]; decide), hv, if_neg (by rw [grp]; decide),
      if_neg (by rw [uni, ha, show (Second.code t c == Second.bad) = false from rfl]; decide), if_neg (by rw [kz]; decide), State.destStop_of s hu]
    rfl

/-- A vector instruction with a legal form on a hart that may issue one is carried out at once. -/
theorem State.vecIssue_ready {s : State} {legal : Bool} (hl : legal = true) (xa xb : Word) (run : State → Res) (hr : VecReady s) :
    s.vecIssue legal xa xb run = run s := by
  subst hl
  obtain ⟨h1, h2, h3, -, h4⟩ := hr
  have h5 : s.h.csr.vs ≠ 0 := by
    have hlt := s.h.csr.sstatus.isLt
    show s.h.csr.sstatus.toNat / 2 ^ 5 % 2 ^ 2 ≠ 0
    omega
  have h6 (k : State → Res) : s.streamWaits k = k s := by
    unfold State.streamWaits
    rcases h4 with h | h
    · rw [h]
      rfl
    · rw [State.unmarked_of k h, ite_self]
  unfold State.vecIssue State.vecGate
  rw [h6, h1, if_neg h5, h3]
  rfl

end Sys2Proof.Machine
end

