-- ==== Sys2Proof/Tests/Slice0.lean ====
section
/-! SUPPORT. Tests: fields that the checks refuse, words written out from the encodings, the spec's worked examples, and for every statement
with hypotheses a state and operands that meet them. Expected values come from the spec's examples and tables. -/

namespace Sys2Proof.Tests

open Sys2Proof.Machine Sys2Proof.Safety

-- One theorem after another: each waits for the kernel, and so many threads at once do not fit.
set_option Elab.async false

/-! ## Fields that the checks refuse, one for each check -/

theorem test_wf_kindAny : (Instr.vadd 4 3 8 12 0).wellFormed = false := by decide
theorem test_wf_kindVvVs : (Instr.vmadd 4 2 8 12 0).wellFormed = false := by decide
theorem test_wf_kindVsVi : (Instr.vslideup 4 0 8 12 0).wellFormed = false := by decide
theorem test_wf_vmvFields : (Instr.vmv 4 0 8 12 0).wellFormed = false := by decide
theorem test_wf_tagCode : (Instr.vtag 8 0x14).wellFormed = false := by decide
theorem test_wf_cvtTarget : (Instr.vcvt 4 8 0x11 0).wellFormed = false := by decide
theorem test_wf_cvtSource : (Instr.fcvtif 9 0 10 4).wellFormed = false := by decide
theorem test_wf_cvtSame : (Instr.fcvtff 9 2 10 2).wellFormed = false := by decide
theorem test_wf_fenceScope : (Instr.fence 6 0 0 1).wellFormed = false := by decide
theorem test_wf_splitCode : (Instr.lsplit 9 10 3).wellFormed = false := by decide
theorem test_wf_barScope : (Instr.bar 3).wellFormed = false := by decide
theorem test_wf_streamReg : (Instr.stbind 23 9).wellFormed = false := by decide
theorem test_wf_outerKind : (Instr.opa 1 1 24 25).wellFormed = false := by decide
theorem test_wf_rowKind : (Instr.trdrow 1 5 4 9 0).wellFormed = false := by decide
theorem test_wf_sketchTag : (Instr.skinitD 0x10 10).wellFormed = false := by decide
theorem test_wf_quantTag : (Instr.skinitQ 9 10 11).wellFormed = false := by decide
theorem test_wf_topSelect : (Instr.skhtop 9 3 10 11).wellFormed = false := by decide
theorem test_wf_loadSize : (Instr.rld 9 1 10 2 3).wellFormed = false := by decide
theorem test_wf_ramoOp : (Instr.ramo 9 10 10 2 0).wellFormed = false := by decide
theorem test_wf_casPair : (Instr.rcas 9 10 2).wellFormed = false := by decide
theorem test_wf_foldOp : (Instr.collend 9 0 10 0).wellFormed = false := by decide

/-! ## Words written out from the encodings -/

/-- `add p9, p10, c4`, R319's example. -/
theorem test_word_add : decode 0x01450482 = .add 9 10 20 := by decide
/-- `srai p9, p9, 3`: 131 << 20, RA 9, F3 6, RD 9, major 0x01. -/
theorem test_word_srai : decode 0x0834E481 = .srai 9 9 3 := by decide
/-- `lui p9, 0x12345`, R333. -/
theorem test_word_lui : decode 0x12345483 = .lui 9 0x12345 := by decide
/-- `ld p9, 16(p14)`. -/
theorem test_word_ld : decode 0x01073485 = .ld 9 14 16 := by decide
/-- `sd p9, -8(p14)`: the immediate's high seven bits stand above RB. -/
theorem test_word_sd : decode 0xFE973C06 = .sd 14 9 0xFF8 := by decide
/-- `ret`: JALR of p15. -/
theorem test_word_ret : decode 0x00078009 = .jalr 0 15 0 := by decide
/-- `cas.d p9, p11, (p10)`, R344. -/
theorem test_word_cas : decode 0x1EB5348B = .cas 9 1 10 11 := by decide
/-- `ldfe p9, (p10)`, R342. -/
theorem test_word_ldfe : decode 0x0005048B = .ldfe 9 10 := by decide
/-- `fence.dom p`, R259. -/
theorem test_word_fence : decode 0x2240500B = .fence 5 0 0 1 := by decide
/-- `rlx 4`, R245. -/
theorem test_word_rlx : decode 0x2430000B = .rlx 3 := by decide
/-- `csrrw p9, p10, 5`: VREGS at address 5. -/
theorem test_word_csrrw : decode 0x0055148C = .csrrw 9 10 5 := by decide
/-- `ecall`, R350. -/
theorem test_word_ecall : decode 0x0000000C = .ecall := by decide
/-- `launch p9, (p10)`, R357. -/
theorem test_word_launch : decode 0x0095048C = .launch 9 10 := by decide
/-- `vadd.vs.mk v4, v8, p9`. -/
theorem test_word_vadd : decode 0x02941211 = .vadd 4 1 8 9 1 := by decide
/-- `vsub.vi v4, v8, -1`, R376. -/
theorem test_word_vsub : decode 0x05F42211 = .vsub 4 2 8 31 0 := by decide
/-- `vcmplt.vs v0, v8, p9`. -/
theorem test_word_vcmplt : decode 0x08941012 = .vcmplt 0 1 8 9 0 := by decide
/-- `vqsf4.vs v4, v8, p9`, R381. -/
theorem test_word_vqsf4 : decode 0x28941213 = .vqsf4 4 8 9 0 := by decide
/-- `vredsum.vv v4, v8`, R382. -/
theorem test_word_vredsum : decode 0x00040214 = .vredsum 4 8 0 := by decide
/-- `vbflyct.vs v4, v8, p9`, R384. -/
theorem test_word_vbflyct : decode 0x10941215 = .vbflyct 4 1 8 9 0 := by decide
/-- SETVLI of p9 and p10 with tag code 11 in RB and GMUL 1 in F7 (R369). -/
theorem test_word_setvli : decode 0x02B5048F = .setvli 9 10 11 1 := by decide
/-- `lmerge`, R372. -/
theorem test_word_lmerge : decode 0x04000010 = .lmerge := by decide
/-- `pump`, R373. -/
theorem test_word_pump : decode 0x0A451090 = .pump 1 1 10 0 1 := by decide
/-- `vlds v8, (p10), p11`. -/
theorem test_word_vlds : decode 0x00B51416 = .vlds 8 10 11 0 := by decide
/-- `vscadd v8, (p10), v12`. -/
theorem test_word_vscadd : decode 0x00C53417 = .vscadd 8 10 12 0 := by decide
/-- `opa.vv t1, v24, v25`, R407. -/
theorem test_word_opa : decode 0x019C009A = .opa 1 0 24 25 := by decide
/-- `skinit.q f32, (p10), p11`, R430. -/
theorem test_word_skinitq : decode 0x00B5361B = .skinitQ 12 10 11 := by decide
/-- OPI with F3 = 7 has no row (R319). -/
theorem test_word_opi7 : decode 0x00007001 = .illegalWord 0x00007001 := by decide
/-- OPR with F3 = 1 has no row (R319). -/
theorem test_word_opr1 : decode 0x02001002 = .illegalWord 0x02001002 := by decide
/-- SYNC with F7 = 27 has no row (R319). -/
theorem test_word_sync27 : decode 0x3600000B = .illegalWord 0x3600000B := by decide

/-! ## Worked examples, each one step on a small state -/

/-- A launch of four hart slots on core 0 with 32 KiB of reservation, a cistern, and 4 KiB for each slot. -/
def wLaunch : Launch :=
  { id := 1, encl := 0, words := [0, 0, 0, 0, 0, 0, BitVec.ofNat 64 (8 * 2 ^ 23 + 2 ^ 32 + 2 ^ 33), 0], origin := .ring 1 0, queue := 0, prio := 0, cores := [0],
    firstSlot := 0, allot := 4, rbase := 0, seated := true, seatedAt := 0, preempted := false, splitAt := [], endStat := none, eps := [], cbanks := [], frames := [] }

/-- A vector thread at monitor level with registers of 64 bytes, in a strip of four elements; p1 points at scratchpad offset 0. -/
def wHart : Hart :=
  { Hart.reset with
    launch := 1, run := .ready, seated := true, vthread := true, level := .monitor
    p := (Vector.replicate 16 0).set 1 0xF00000000000#64
    csr := { Csrs.reset with vlenb := 64, vl := 4, vtype := 4, sstatus := 32 } }

/-- An image that passes its checks: two virtual functions, every port enabled. -/
def wImage : FlashImage :=
  { sigOk := true, secver := 1, totalVfs := 2, bskmap := 0, hbPeriod := 10, minPeerVer := 0, ethFrames := 1, vendor := 0x1D77, device := 1, ports := BitVec.allOnes 19,
    etherType := 0x88B5, macs := [1, 2, 3], debug := 0, peerDigests := [5], body := [], monitor := [], wellhead := [], sluice := [], siphon := [] }

/-- A package that is ready. -/
def wReady : State := { State.reset with pkg := { Pkg.reset with bootstat := 1, image := some wImage, measured := true, booting := false } }

/-- The hart on its core. -/
def ws : State := { State.reset with h := wHart, hst := { HostSide.reset with launches := [wLaunch] } }

/-- A scalar register set. -/
def wp (s : State) (r : Fin 16) (v : Word) : State := { s with h := { s.h with p := s.h.p.set r v } }

/-- A vector register set: tag and bytes. -/
def wv (s : State) (n : Fin 32) (tag : BitVec 5) (bits : Nat) : State := { s with h := { s.h with vec := { s.h.vec with v := s.h.vec.v.set n ⟨tag, bits⟩ } } }

/-- The control registers changed. -/
def wc (s : State) (f : Csrs → Csrs) : State := { s with h := { s.h with csr := f s.h.csr } }

/-- Scratchpad bytes set at an offset. -/
def wm (s : State) (off n v : Nat) : State := { s with mem := { s.mem with spad := cellsPut s.mem.spad off n v } }

/-- The hart at user level. -/
def wu (s : State) : State := { s with h := { s.h with level := .user } }

/-- The state after an instruction. -/
def after (i : Instr) (s : State) : State :=
  match exec i s with
  | .next t => t
  | _ => s

/-- R332: DIV of the most negative number by -1, and DIVU of 7 by 0. -/
theorem test_div : (after (.div 9 2 3) (wp (wp ws 2 0x8000000000000000) 3 0xFFFFFFFFFFFFFFFF)).x 9 = 0x8000000000000000 ∧
    (after (.divu 9 2 3) (wp ws 2 7)).x 9 = 0xFFFFFFFFFFFFFFFF := by decide +kernel
/-- R332: REM of -7 by 2, and REMU of 7 by 0. -/
theorem test_rem : (after (.rem 9 2 3) (wp (wp ws 2 (-7)) 3 2)).x 9 = -1 ∧ (after (.remu 9 2 3) (wp ws 2 7)).x 9 = 7 := by decide +kernel
/-- R332: MULH of -1 by 1, CLZ of 0, and MULMOD of 20 and 5 with MODQ 17. -/
theorem test_mulh : (after (.mulh 9 2 3) (wp (wp ws 2 (-1)) 3 1)).x 9 = 0xFFFFFFFFFFFFFFFF ∧ (after (.clz 9 2) ws).x 9 = 64 ∧
    (after (.mulmod 9 2 3) (wc (wp (wp ws 2 20) 3 5) fun c => { c with modq := 17 })).x 9 = 15 := by decide +kernel
/-- R333: LUI sign-extends. -/
theorem test_lui : (after (.lui 9 0x80000) ws).x 9 = 0xFFFFFFFF80000000 := by decide +kernel
/-- R344: AMOADD.w wraps and returns the old value sign-extended. -/
theorem test_amoadd : let t := after (.amoadd 9 0 1 11) (wp (wm ws 0 4 0x7FFFFFFF) 11 1)
    t.x 9 = 0x7FFFFFFF ∧ cellsNat t.mem.spad 0 4 = 0x80000000 := by decide +kernel
/-- R344: CAS.d on a word that holds the compare value, and on one that does not. -/
theorem test_cas : let s := wp (wp ws 9 7) 11 8
    cellsNat (after (.cas 9 1 1 11) (wm s 0 8 7)).mem.spad 0 8 = 8 ∧ (after (.cas 9 1 1 11) (wm s 0 8 8)).x 9 = 8 ∧
      cellsNat (after (.cas 9 1 1 11) (wm s 0 8 8)).mem.spad 0 8 = 8 := by decide +kernel
/-- R340: FCVTFI.f32 to s32 of 3.0 x 10^9. -/
theorem test_fcvtfi : let t := after (.fcvtfi 9 0 2 2) (wp ws 2 0x4F32D05E)
    t.x 9 = 0x7FFFFFFF ∧ t.h.csr.fflags = 16 := by decide +kernel
/-- R340: FCVTIF.f16 of 70,000 overflows to infinity. -/
theorem test_fcvtif : let t := after (.fcvtif 9 2 2 0) (wp ws 2 70000)
    t.x 9 = 0x7C00 ∧ t.h.csr.fflags = 5 := by decide +kernel
/-- R213's example, on core 37. -/
theorem test_pglobal : let l := { wLaunch with words := [0, 0, 0, 0, 0, 0, BitVec.ofNat 64 (160 * 2 ^ 23 + 16 * 2 ^ 33), 0], cores := [37], rbase := 0x20000 }
    let s := { ws with h := { wHart with core := 37, slot := 3 }, c := Core.reset 37, hst := { ws.hst with launches := [l] } }
    (after (.pglobal 9 2) (wp s 2 0xFF0000000100)).x 9 = 0xF00002F30100 ∧ (after (.pglobal 9 2) (wp s 2 0xFF0000010000)).x 9 = 0xF00002F40000 := by
  decide +kernel
/-- R376: VSADD of S8 elements 100 and 100 clamps, and VADD of S8 100 and N8 200 computes in S16. -/
theorem test_vsadd : let s := wv (wv (wc ws fun c => { c with vl := 1, vtype := 2 }) 8 2 100) 12 2 100
    (after (.vsadd 4 0 8 12 0) s).vreg 4 = ⟨2, 127⟩ ∧ (after (.vadd 4 0 8 12 0) (wv s 12 6 200)).vreg 4 = ⟨3, 300⟩ := by decide +kernel
/-- R376: VMADD of F32 elements 2^24, 1 and 1 rounds once. -/
theorem test_vmadd : let s := wv (wv (wv (wc ws fun c => { c with vl := 1, vtype := 0x0C }) 8 0x0C 0x4B800000) 12 0x0C 0x3F800000) 4 0x0C 0x3F800000
    (after (.vmadd 4 0 8 12 0) s).vreg 4 = ⟨0x0C, 0x4B800000⟩ ∧ (after (.vmadd 4 0 8 12 0) s).h.csr.fflags = 1 := by decide +kernel
/-- R382: the tree sum of F16 2,048, 1, 1, 1, 1. -/
theorem test_vredsum : let t := after (.vredsum 4 8 0) (wv (wc ws fun c => { c with vl := 5, vtype := 0x0A }) 8 0x0A 0x3C003C003C003C006800)
    t.vreg 4 = ⟨0x0A, 0x6802⟩ ∧ t.h.csr.fflags = 1 := by decide +kernel
/-- R384: the butterflies modulo 17 of x = 3, y = 5 and w = 4. -/
theorem test_vbfly : let s := wp (wv (wv (wc ws fun c => { c with vl := 1, vtype := 0x13, modq := 17 }) 4 0x13 3) 8 0x13 5) 9 4
    (after (.vbflyct 4 1 8 9 0) s).vreg 4 = ⟨0x13, 6⟩ ∧ (after (.vbflyct 4 1 8 9 0) s).vreg 8 = ⟨0x13, 0⟩ ∧
      (after (.vbflygs 4 1 8 9 0) s).vreg 4 = ⟨0x13, 8⟩ ∧ (after (.vbflygs 4 1 8 9 0) s).vreg 8 = ⟨0x13, 9⟩ := by decide +kernel
/-- R381: eight F32 elements under the band scale 1. -/
theorem test_vqsf4 : let e := 0x3F000000 + 0xBF800000 * 2 ^ 32 + 0x40400000 * 2 ^ 64 + 0x3E800000 * 2 ^ 96 + 0x3FC00000 * 2 ^ 224
    let t := after (.vqsf4 4 8 9 0) (wp (wv (wc ws fun c => { c with vl := 8, vtype := 0x0C }) 8 0x0C e) 9 0x3F80)
    t.vreg 4 = ⟨0x11, 0x500017C2⟩ ∧ t.vreg 5 = ⟨0x12, 0x40⟩ ∧ t.h.csr.fflags = 0 := by decide +kernel
/-- R390: the header of a spilled F32 strip of four elements: 64 bytes of the tag 0x0C from v1. -/
theorem test_vspill : let t := after (.vspill 1 1) (wv (wc ws fun c => { c with vtype := 0x0C }) 1 0x0C 5)
    cellsNat t.mem.spad 0 8 = 0x10C00000040 ∧ cellsNat t.mem.spad 8 8 = 64 ∧ cellsNat t.mem.spad 16 8 = 5 := by decide +kernel
/-- R342: LDFE on a full word empties it, and STEF on an empty word fills it. -/
theorem test_fe : let s := { (wm ws 0 8 42) with mem := { (wm ws 0 8 42).mem with full := [0] } }
    (after (.ldfe 9 1) s).x 9 = 42 ∧ (after (.ldfe 9 1) s).mem.full = [] ∧ (after (.stef 9 1 2) ws).x 9 = 1 ∧ (after (.stef 9 1 2) ws).mem.full = [0] := by
  decide +kernel
/-- R271: ECALL from user level with MTVEC installed. -/
theorem test_ecall : let t := after .ecall (wu (wc { ws with h := { wHart with pc := 64 } } fun c => { c with mtvec := 0x401 }))
    t.h.level = .monitor ∧ t.h.pc = 0x400 ∧ t.h.csr.mepc = 64 ∧ t.h.csr.mcause = 0x11 := by decide +kernel
/-- R272: SRET returns to user level at SEPC. -/
theorem test_sret : let t := after .sret (wc ws fun c => { c with sepc := 0x80, sstatus := 2 })
    t.h.level = .user ∧ t.h.pc = 0x80 ∧ t.h.csr.sstatus = 3 := by decide +kernel
/-- R330: a load of a halfword at an odd address raises MISALIGN, which ends a hart without a handler. -/
theorem test_misalign : let t := after (.lh 9 1 1) ws
    t.h.run = .retired ∧ t.h.endCause = some 3 ∧ t.x 9 = 0 := by decide +kernel
/-- A step of the placed word of `addi p9, p0, 7`. -/
theorem test_step : (match step (State.reset.withFetchWord 32 0x00700481) with | .next t => t.x 9 | _ => 0) = 7 := by decide +kernel
/-- A step of the placed word of `ecall` in a launch without a handler. -/
theorem test_step_ecall : (match step (State.reset.withFetchWord 32 0xC) with | .next t => t.h.endCause | _ => none) = some 0x11 := by decide +kernel
/-- R35: a port that is enabled with signal on its lanes trains. -/
theorem test_link : ((after (.linkEnable 3 true) wReady).link (.port 3)).state = .train := by decide +kernel
/-- R24: bring-up without helper data stops in phase 1 with BOOTSTAT 0x112. -/
theorem test_boot : (after (.identityPhase false) State.reset).pkg.bootstat = 0x112 := by decide +kernel

/-! ## Witnesses: what the hypotheses of the statements ask for can be met -/

/-- p2 holds an address in the reservation: the last aligned 8 bytes of the launch's block. -/
def wEnd : State := wp ws 2 0xF0000000BFF8#64

theorem witness_LoadResults :
    Reaches wEnd (wEnd.x 2 + BitVec.ofInt 64 (7#12).toInt) 1 .load (.spad 0 0xBFFF) ∧ Reaches wEnd (wEnd.x 2 + BitVec.ofInt 64 (6#12).toInt) 2 .load (.spad 0 0xBFFE) ∧
      Reaches wEnd (wEnd.x 2 + BitVec.ofInt 64 (4#12).toInt) 4 .load (.spad 0 0xBFFC) ∧ Reaches wEnd (wEnd.x 2 + BitVec.ofInt 64 (0#12).toInt) 8 .load (.spad 0 0xBFF8) := by
  unfold Reaches Quiet Unmarked Free
  exact ⟨⟨by decide +kernel, ⟨none, by decide +kernel⟩, by decide +kernel⟩, ⟨by decide +kernel, ⟨none, by decide +kernel⟩, by decide +kernel⟩,
    ⟨by decide +kernel, ⟨none, by decide +kernel⟩, by decide +kernel⟩, ⟨by decide +kernel, ⟨none, by decide +kernel⟩, by decide +kernel⟩⟩

theorem witness_StoreResults : StorageWf wEnd ∧
    Reaches wEnd (wEnd.x 2 + BitVec.ofInt 64 (7#12).toInt) 1 .store (.spad 0 0xBFFF) ∧ Reaches wEnd (wEnd.x 2 + BitVec.ofInt 64 (6#12).toInt) 2 .store (.spad 0 0xBFFE) ∧
      Reaches wEnd (wEnd.x 2 + BitVec.ofInt 64 (4#12).toInt) 4 .store (.spad 0 0xBFFC) ∧ Reaches wEnd (wEnd.x 2 + BitVec.ofInt 64 (0#12).toInt) 8 .store (.spad 0 0xBFF8) := by
  unfold Reaches Quiet Unmarked Free
  exact ⟨by unfold StorageWf; decide +kernel, ⟨by decide +kernel, ⟨none, by decide +kernel⟩, by decide +kernel⟩, ⟨by decide +kernel, ⟨none, by decide +kernel⟩, by decide +kernel⟩,
    ⟨by decide +kernel, ⟨none, by decide +kernel⟩, by decide +kernel⟩, ⟨by decide +kernel, ⟨none, by decide +kernel⟩, by decide +kernel⟩⟩

theorem witness_AtomicResults : StorageWf wEnd ∧ Reaches wEnd (wEnd.x 2) 8 .atomic (.spad 0 0xBFF8) ∧ Reaches wEnd (wEnd.x 2) 4 .atomic (.spad 0 0xBFF8) := by
  unfold Reaches Quiet Unmarked Free
  exact ⟨by unfold StorageWf; decide +kernel, ⟨by decide +kernel, ⟨none, by decide +kernel⟩, by decide +kernel⟩, ⟨by decide +kernel, ⟨none, by decide +kernel⟩, by decide +kernel⟩⟩

/-- A misaligned load, a load past the block, and a load of a poisoned word. -/
theorem witness_MemoryTraps : Quiet wEnd ∧ scalarAccessOf wEnd (.ld 9 2 1) = some (0xF0000000BFF9, 8, .load) ∧
    scalarAccessOf wEnd (.ld 9 2 8) = some (0xF0000000C000, 8, .load) ∧ wEnd.check 0xF0000000C000 8 8 .load = .error (.trap ⟨0x07, 0xF0000000C000⟩) ∧
    scalarAccessOf ws (.ld 9 1 0) = some (0xF00000000000, 8, .load) ∧ ws.check 0xF00000000000 8 8 .load = .ok ⟨.spad 0 0, none⟩ ∧
    ({ ws with mem := { ws.mem with spoison := [0] } } : State).readLoc (.spad 0 0) 8 = none := by
  unfold Quiet Unmarked; and_intros <;> decide +kernel

/-- The word at offset 0 of core 0 full. -/
def wFull : State := { ws with mem := { ws.mem with full := [0] } }

/-- Another hart of the launch, parked by LDFE into p5. -/
def wParked : Hart := { wHart with slot := 1, run := .parkedFE }

/-- The state with that hart parked on the word. -/
def wServe : State := { ws with harts := [wParked], mem := { ws.mem with feWait := [⟨0, 0, 0, 1, 1, 5, true⟩] } }

theorem witness_FullEmptyResults :
    (StorageWf wFull ∧ Quiet wFull ∧ wFull.h.run = .ready ∧ wFull.check (wFull.x 1) 8 8 .load = .ok ⟨.spad 0 0, none⟩ ∧
      wFull.check (wFull.x 1) 8 8 .atomic = .ok ⟨.spad 0 0, none⟩ ∧ wFull.mem.wordsClean (spadKey 0 0) 8 = true ∧ wFull.mem.isFull 0 = true ∧
      Free wFull (.spad 0 0) 8 true ∧ (∀ f ∈ wFull.mem.feWait, feWord f.core f.off ≠ 0) ∧ ∀ g ∈ wFull.harts, g.run ≠ .parkedFE) ∧
    (StorageWf ws ∧ Quiet ws ∧ ws.h.run = .ready ∧ ws.mem.wordsClean (spadKey 0 0) 8 = true ∧ ws.mem.isFull 0 = false ∧
      Free ws (.spad 0 0) 8 true ∧ ws.check (ws.x 1) 8 8 .load = .ok ⟨.spad 0 0, none⟩ ∧ ws.check (ws.x 1) 8 8 .atomic = .ok ⟨.spad 0 0, none⟩ ∧ (∀ f ∈ ws.mem.feWait, feWord f.core f.off ≠ 0) ∧ ∀ g ∈ ws.harts, g.run ≠ .parkedFE) ∧
    (StorageWf wServe ∧ Quiet wServe ∧ 0 < wServe.h.launch.toNat ∧ 0 < wParked.launch.toNat ∧ wServe.harts = [wParked] ∧ wServe.h.run = .ready ∧ wParked.run = .parkedFE ∧ Free wServe (.spad 0 0) 8 true ∧
      wServe.h.isHart wParked.core wParked.slot wParked.launch = false ∧ wServe.mem.isFull 0 = false ∧
      wServe.check (wServe.x 1) 8 8 .atomic = .ok ⟨.spad 0 0, none⟩ ∧ wServe.mem.feWait = [⟨0, 0, wParked.core, wParked.slot, wParked.launch, 5, true⟩]) := by
  unfold StorageWf Quiet Unmarked Free; and_intros <;> decide +kernel

/-- Nothing of the hart is outstanding. -/
theorem drained_ws : Drained ws 5 := by unfold Drained; and_intros <;> decide +kernel

/-- A hart with a posted access of package tier outstanding, and with a held status of it. -/
def wPosted : State := { ws with h := { wHart with post := (Vector.replicate 6 0).set 4 1, pstat := some ⟨.pkg, ⟨0x0C, 0⟩⟩ } }

/-- A hart inside an RLX window. -/
def wRlx : State := { ws with h := { wHart with rlx := 1 } }

/-- A copy command of the hart, over 8 bytes of its own reservation. -/
def wCopy : CopyCmd :=
  { id := 1, slot := 0, launch := 1, encl := 0, srem := false, drem := false, src := 0xF00000000000, dst := 0xF00000000100, srt := 0, drt := 0,
    sroute := RouteVal.zero, droute := RouteVal.zero, ldst := false, extents := [8], strides := [8], total := 8, next := 0, done := [], failures := [],
    pins := [], sync := none, syncRemote := none, syncSent := false, outst := 0, malformed := false, tier := .core, pushed := ⟨0, 0⟩ }

/-- A hart with a load of its own reservation in its vector queue. -/
def wLoads : State :=
  { ws with h := { wHart with vec := { wHart.vec with vq := [{ VqEntry.plain 0x00050416 4 4 0 0 with spots := some [(0, [⟨0xF00000000000, .spad 0 0, 4⟩])], tiers := [0] }] } } }

theorem witness_OrderingResults : Drained ws 5 ∧ VectorDone ws 5 ∧ Quiet wLoads ∧ ¬ VectorDone wLoads 0 ∧ ¬ Drained { ws with c := { ws.c with copies := [wCopy] } } 1 ∧
    Quiet { ws with c := { ws.c with copies := [wCopy] } } ∧ Free wRlx (.spad 0 0) 8 false ∧ Quiet ws ∧ Quiet wPosted ∧ (∀ j : Fin 6, ws.h.post.get j = 0) ∧
    wPosted.h.post.get 4 ≠ 0 ∧ (∀ j : Fin 6, j.val ≤ 3 → wPosted.h.post.get j = 0) ∧ wPosted.h.pstat = some ⟨.pkg, ⟨0x0C, 0⟩⟩ ∧
    0 < wRlx.h.rlx ∧ wRlx.h.marked.length + wRlx.remoteMarked < 16 ∧ wRlx.check (wRlx.x 1 + BitVec.ofInt 64 (0#12).toInt) 8 8 .load = .ok ⟨.spad 0 0, none⟩ ∧
    wCopy.slot = ws.h.slot ∧ wCopy.launch = ws.h.launch ∧ wCopy.tier.num ≤ 1 := by
  refine ⟨drained_ws, ?_⟩
  unfold Quiet Unmarked VectorDone Drained Free; and_intros <;> decide +kernel

theorem witness_PointerResults : ws.hst.launches.find? (·.id == ws.h.launch) = some wLaunch := by decide +kernel

/-- A read of CYCLE at user level, a write of FRM, a write of an address that is not assigned, and a read above the level. -/
theorem witness_CsrReads : csrForm (wu ws) (.csrrs 9 0 0x010) = some (9, 0x010, false, fun old => old ||| (wu ws).x 0) ∧ CsrOpen (wu ws) 0x010 false ∧
    (wu ws).csrRead 0x010 = some 0 ∧ 0x012 ∉ csrMap ∧ 0x300 ∈ csrMap ∧ (wu ws).h.level.num < 0x300 / 256 ∧ (wu ws).h.level = .user ∧
    (wu ws).c.meven.getLsbD 8 = false ∧ ws.h.core < 4096 ∧ wLoads.vecBusy = true ∧ 0x000 ∈ csrMap := by
  unfold CsrOpen
  refine ⟨rfl, ?_⟩
  decide +kernel

theorem witness_CsrWrites : csrForm ws (.csrrw 9 2 0x009) = some (9, 0x009, true, fun _ => ws.x 2) ∧ (0x009, 31#64) ∈ csrMasks ∧ CsrOpen ws 0x009 true ∧
    ws.csrRead 0x009 = some 0 ∧ ws.h.rlx = 0 ∧ ws.vecBusy = false ∧ ws.h.level ≠ .user ∧ ws.h.level = .monitor ∧ ws.h.vec.pump.state = 0 ∧ ws.h.vec.vq = [] ∧
    ((wp ws 2 0x20).x 2).toNat / 32 % 4 ≠ 0 ∧ (ws.x 2).toNat / 32 % 4 = 0 ∧ ((wp ws 2 1).x 2).getLsbD 0 = true ∧ ws.c.mkeyid.getLsbD 0 = false := by
  unfold CsrOpen
  refine ⟨rfl, ?_⟩
  decide +kernel

/-- A user-level hart with the monitor's handler installed, and with POISON sent to a supervisor handler. -/
def wTrap : State := wu (wc ws fun c => { c with mtvec := 0x401, stvec := 0x801 })

theorem witness_TrapEntry : Handled 0x14 wTrap ∧ Handled 0x14 { wTrap with c := { wTrap.c with mdeleg := 0x100000 } } ∧
    Delegated 0x14 { wTrap with c := { wTrap.c with mdeleg := 0x100000 } } ∧ ¬ Handled 0x14 ws := by
  unfold Handled Delegated; and_intros <;> decide +kernel

theorem witness_TrapInstructions : wTrap.h.rlx = 0 ∧ wTrap.h.level = .user ∧ Handled 0x11 wTrap ∧ Handled 0x13 wTrap ∧
    ({ wTrap with h := { wTrap.h with level := .supervisor } } : State).h.level = .supervisor ∧ Handled 0x12 { wTrap with h := { wTrap.h with level := .supervisor } } ∧
    Handled 0x01 { wTrap with h := { wTrap.h with level := .monitor } } ∧ ws.h.level ≠ .user ∧ ws.h.level = .monitor := by
  unfold Handled Delegated; and_intros <;> decide +kernel

/-- A second hart of the launch that has arrived at the core barrier, and one that has not. -/
def wBar (o : Option Tier) : State := { ws with harts := [{ wHart with slot := 1, run := .parkedBar, barWait := o }] }

theorem witness_WaitResults : Drained ws 5 ∧ (∀ g ∈ ws.harts, g.isHart ws.h.core ws.h.slot ws.h.launch = false) ∧ Free ws (.spad 0 0) 16 true ∧ Quiet ws ∧ StorageWf ws ∧ ws.myMail = [] ∧
    ({ ws with hst := { ws.hst with mbox := [⟨0, 0, 1, [5]⟩] } } : State).myMail = [5] ∧
    ws.check (ws.x 1) 16 16 .store = .ok ⟨.spad 0 0, none⟩ ∧ (ws.readLoc (.spad 0 0) 16).isSome = true ∧
    (∀ j : Fin 6, ws.h.post.get j = 0) ∧ ws.h.pstat = none ∧ ws.h.vec.pump.state = 0 ∧ ws.h.vec.vq = [] ∧
    ws.h.run = .ready ∧ ws.h.csr.splitst.toNat % 4 = 0 ∧ ws.h.barDone = false ∧ ws.vecBusy = false ∧ ws.h.launch ≠ 0 ∧
    (∃ g ∈ (wBar none).harts, g.launch = ws.h.launch ∧ g.core = ws.h.core ∧ g.run ≠ .retired ∧ g.csr.splitst.toNat % 4 = 0 ∧ g.barWait ≠ some .core) ∧
    (∀ g ∈ (wBar (some .core)).harts, g.barWait = some .core) ∧ (wc ws fun c => { c with splitst := 5 }).h.csr.splitst.toNat % 4 ≠ 0 := by
  refine ⟨drained_ws, ?_⟩
  unfold Quiet Unmarked StorageWf Free; and_intros <;> decide +kernel

/-- The ASID table in use at physical 0, with the entry of ASID 0 in use for enclave 0; the key of id 0 drawn. -/
def wAsid (e : Nat) : State :=
  { ws with
    c := { ws.c with asidtab := 1, mkeyid := 1 }
    mem := { ws.mem with hbm := cellsPut [] 0 8 e }
    hst := { ws.hst with keySerial := (Vector.replicate 64 0).set 0 1 } }

/-- A command of the hart. -/
def wSq : SqCmd := ⟨0, 0, 0, 1, 0, 0, [], ⟨0, 0⟩, Vector.replicate 16 0, 0, false, 0, 0, none⟩

theorem witness_MonitorCommands :
    (Quiet ws ∧ Free ws (.spad 0 0) 64 false ∧ 16 ≤ ({ ws with sip := { ws.sip with sq := List.replicate 16 wSq } } : State).sqPending ∧ (wu ws).h.level = .user ∧ ws.check (ws.x 1) 64 64 .load = .ok ⟨.spad 0 0, none⟩ ∧ (ws.readLoc (.spad 0 0) 64).isSome = true ∧ ws.launchesOpen < 4 ∧
      ws.h.level ≠ .user ∧ ws.sqPending < 16 ∧ 0xF00000000000 ≤ (ws.x 1).toNat ∧ (ws.x 1).toNat < 0xF00000000000 + 0xA000000 ∧
      4 ≤ ({ ws with hst := { ws.hst with inbox := List.replicate 4 ⟨[], 0, .mailbox 0 0 1, ⟨0, 0⟩, 0⟩ } } : State).launchesOpen) ∧
    ((wAsid 1).h.rlx = 0 ∧ StorageWf (wAsid 1) ∧ (wAsid 1).h.level ≠ .user ∧ (wAsid 1).c.asidtab.getLsbD 0 = true ∧ ((wAsid 1).asidLo 0).getLsbD 0 = true ∧
      (wAsid 1).asidEncl 0 = (wAsid 1).c.mencl ∧ (wAsid 1).c.mkeyid.getLsbD 0 = true ∧ ((wAsid 1).readLoc (.hbm 0 0) 8).isSome = true ∧
      ((wAsid 1).asidLo 0).toNat / 2 ^ 56 ≠ 255) ∧
    ((wAsid (255 * 2 ^ 56 + 1)).asidLo 0).toNat / 2 ^ 56 = 255 ∧ ((wAsid (255 * 2 ^ 56 + 1)).asidLo 0).getLsbD 1 = false ∧
    ¬ (ws.c.asidtab.getLsbD 0 = true) := by
  unfold Quiet Unmarked StorageWf Free; and_intros <;> decide +kernel

theorem witness_StripConfiguration : ws.h.vthread = true ∧ ws.h.csr.sstatus.toNat / 32 ≠ 0 ∧ ws.vecBusy = false ∧
    min (2 ^ (ws.h.csr.vlcap.toNat + 6)) (262144 / (ws.c.split * 32)) = ws.vlenb ∧ min (2 ^ (1 + 6)) (262144 / (ws.c.split * 32)) ≠ ws.vlenb ∧
    VecReady ws ∧ Unbound ws 8 ∧ Fits ws 8 32 := by
  unfold VecReady Unmarked Unbound Fits; and_intros <;> decide +kernel

/-- A scalar hart, and a vector thread whose vector state is off. -/
theorem witness_VectorGate : vectorWord (.vadd 4 0 8 12 0) = true ∧ (Instr.vadd 4 0 8 12 0).wellFormed = true ∧
    ({ ws with h := { wHart with vthread := false } } : State).h.vthread = false ∧ (wc ws fun c => { c with sstatus := 31 }).h.csr.sstatus.toNat / 32 = 0 := by
  decide +kernel

/-- A split of two: the hart of index 0, the other participant retired or not. -/
def wSplit (r : RunState) : State :=
  { wc ws (fun c => { c with splitst := 4 }) with harts := [{ wHart with slot := 1, run := r, csr := { wHart.csr with splitst := 5 } }] }

/-- The hart that waits at LMERGE as index 0 of that split. -/
def wIndex0 : Hart := { wHart with slot := 1, run := .parkedBar, mergeWait := true, csr := { wHart.csr with splitst := 4 } }

/-- The other participant, with that hart beside it. -/
def wIndex1 : State := { wc ws (fun c => { c with splitst := 5 }) with harts := [wIndex0] }

theorem witness_SplitResults : Drained ws 5 ∧ ws.hst.launches.find? (·.id == ws.h.launch) = some wLaunch ∧ ws.vecBusy = false ∧ ws.h.vec.pump.state ≠ 3 ∧
    ws.h.rlx = 0 ∧ ws.h.marked = [] ∧ ws.remoteMarked = 0 ∧ ((wp ws 2 0x102).x 2).toNat % 4 ≠ 0 ∧ ((wp ws 2 0x100).x 2).toNat % 4 = 0 ∧ ws.h.core = ws.c.id ∧
    wLaunch.firstSlot.toNat + wLaunch.allot ≤ 8 ∧ ws.h.launch ≠ 0 ∧ ws.h.vthread = true ∧ ws.h.csr.splitst.toNat / 4 % 4 = 0 ∧
    (ws.allHarts.filter fun h => h.core == ws.h.core && h.seated && h.vthread && h.run != .retired && (h.launch == ws.h.launch) == true).length = 1 ∧
    4 ≤ (((List.range wLaunch.allot).map fun i => wLaunch.firstSlot + BitVec.ofNat 3 i).filter fun q =>
      !(ws.allHarts.any fun h => h.core == ws.h.core && h.slot == q && h.launch == ws.h.launch && h.run != .retired)).length + 1 ∧
    (ws.allHarts.any fun h => h.core == ws.h.core && h.seated && h.launch != ws.h.launch) = false ∧
    ({ ws with h := { wHart with vthread := false } } : State).h.vthread = false := by
  refine ⟨drained_ws, ?_⟩
  and_intros <;> decide +kernel

/-- LMERGE outside a split, as index 0 with and without a participant that goes on, and as another participant. -/
theorem witness_SplitResults_merge : Quiet ws ∧ ws.h.vec.vq = [] ∧ ws.h.vec.pump.state ≠ 2 ∧ (∀ g ∈ ws.harts, g.isHart ws.h.core ws.h.slot ws.h.launch = false) ∧
    (∀ r, Quiet (wSplit r) ∧ Drained (wSplit r) 5 ∧ (wSplit r).h.csr.splitst.toNat / 4 % 4 ≠ 0 ∧ (wSplit r).h.csr.splitst.toNat % 4 = 0 ∧
      ∀ g ∈ (wSplit r).harts, g.isHart (wSplit r).h.core (wSplit r).h.slot (wSplit r).h.launch = false ∧ g.slot ≠ (wSplit r).h.slot ∧ g.core = (wSplit r).h.core ∧
        g.launch = (wSplit r).h.launch ∧ g.csr.splitst.toNat / 4 % 4 ≠ 0 ∧ g.csr.splitst.toNat / 16 % 8 = (wSplit r).h.csr.splitst.toNat / 16 % 8 ∧ g.run = r) ∧
    Quiet wIndex1 ∧ Drained wIndex1 5 ∧ wIndex1.h.csr.splitst.toNat / 4 % 4 ≠ 0 ∧ wIndex1.h.csr.splitst.toNat % 4 ≠ 0 ∧ (∀ j : Fin 6, wIndex1.h.post.get j = 0) ∧
    wIndex1.harts = [wIndex0] ∧ wIndex0.mergeWait = true ∧ wIndex0.core = wIndex1.h.core ∧ wIndex0.launch = wIndex1.h.launch ∧ wIndex0.csr.splitst.toNat / 4 % 4 ≠ 0 ∧
    wIndex0.csr.splitst.toNat / 16 % 8 = wIndex1.h.csr.splitst.toNat / 16 % 8 ∧ wIndex0.barWait = none ∧ wIndex0.slot ≠ wIndex1.h.slot ∧
    (∀ g ∈ wIndex1.harts, g.isHart wIndex1.h.core wIndex1.h.slot wIndex1.h.launch = false) := by
  unfold Quiet Unmarked Drained
  refine ⟨by decide +kernel, by decide +kernel, by decide +kernel, by decide +kernel, fun r => by cases r <;> and_intros <;> decide +kernel, ?_⟩
  and_intros <;> decide +kernel

/-- A hart whose Pump captures two instructions and has `k` of them, for `n` repetitions. -/
def wPump (k : Nat) (n : BitVec 16) : State :=
  { ws with h := { wHart with vec := { wHart.vec with pump := ⟨List.replicate k (VqEntry.plain 0x00C40211 4 4 0 0), n, 1, 0, 0, 0, 0, 1, 0, false⟩ } } }

theorem witness_PumpResults : ws.h.vthread = true ∧ ws.vecBusy = false ∧ ws.h.vec.pump.state = 0 ∧ (ws.x 0).toNat ≤ 65535 ∧ 65535 < ((wp ws 2 65536).x 2).toNat ∧
    (wPump 0 3).h.vec.pump.state = 1 ∧ Unmarked (wPump 0 3) ∧ (wPump 0 3).h.vec.fmArmed = false ∧ (wPump 0 3).mayCapture 0x0000000C = false ∧
    (wPump 1 0).h.vec.pump.words.length = (wPump 1 0).h.vec.pump.len.toNat ∧ (wPump 1 0).h.vec.pump.rem = 0 ∧ ws.h.csr.sstatus.toNat / 32 ≠ 0 ∧ (wPump 0 3).mayCapture 0x00C40211 = true ∧ (wPump 1 3).mayCapture 0x00C40211 = true ∧
    (wPump 1 0).mayCapture 0x00C40211 = true ∧ (wPump 0 3).h.vec.pump.words.length < (wPump 0 3).h.vec.pump.len.toNat ∧
    (wPump 1 3).h.vec.pump.words.length = (wPump 1 3).h.vec.pump.len.toNat := by
  unfold Unmarked; and_intros <;> decide +kernel

/-- v4, v8 and v12 hold S32 elements. -/
def wS32 : State := wv (wv (wv ws 8 4 0x700000003) 12 4 9) 4 4 1

theorem witness_VectorArithmetic :
    (∃ o, vecOp (.vmadd 4 0 8 12 0) = some o ∧ o.unary = false ∧ o.third = true ∧ o.k = 0 ∧ o.accepts wS32 4) ∧
    (∃ o, vecOp (.vabs 4 8 1) = some o ∧ o.unary = true ∧ o.accepts wS32 4) ∧
    SecondIs wS32 0 4 4 12 4 (fun i => elemAt wS32 12 (readWidth 4 4) i) ∧ SecondIs wS32 1 4 4 9 4 (fun _ => (wS32.x 9).toNat % 2 ^ tagWidth 4) ∧
    SecondIs wS32 2 4 4 31 4 (fun _ => 0xFFFFFFFF) ∧
    vecShift (.vsra 4 2 8 31 0) = some (4, 2, 8, 31, 0, fun w x n => ((if 2 ^ (w - 1) ≤ x then (x : Int) - 2 ^ w else x) / 2 ^ n % 2 ^ w).toNat) ∧
    VecReady wS32 ∧ Operand wS32 8 4 32 ∧ Operand wS32 4 4 32 ∧ promoteAll wS32.vtag ([4] ++ [4] ++ [4] ++ []) = some 4 ∧ Destination wS32 4 32 false ∧
    Destination wS32 4 32 true ∧ Clear wS32 4 32 8 32 ∧ Clear wS32 4 32 12 32 ∧ tagInt 4 = true := by
  refine ⟨⟨_, rfl, rfl, rfl, rfl, by unfold VecOp.accepts; exact .inl ⟨by decide, rfl⟩⟩, ⟨_, rfl, rfl, by unfold VecOp.accepts; exact .inl ⟨by decide, rfl⟩⟩, ?_, ?_, ?_, rfl, ?_⟩
  · unfold SecondIs Operand Unbound Fits; exact .inl ⟨rfl, by decide +kernel, rfl⟩
  · unfold SecondIs; exact .inr (.inl ⟨rfl, rfl, rfl⟩)
  · unfold SecondIs; exact .inr (.inr ⟨rfl, rfl, 0xFFFFFFFF, by decide +kernel, rfl⟩)
  · unfold VecReady Unmarked Operand Destination Clear Unbound Fits; and_intros <;> decide +kernel

theorem witness_VectorCompares : (∃ rel e n, vecCompare (.vcmplt 0 0 8 12 1) = some (0, 0, 8, 12, 1, rel, e, n)) ∧
    SecondIs wS32 0 4 4 12 4 (fun i => elemAt wS32 12 (readWidth 4 4) i) ∧
    VecReady wS32 ∧ Operand wS32 8 4 (readWidth 4 4) ∧ promoteAll wS32.vtag [4, 4] = some 4 ∧ tagInt 4 = true ∧ Destination wS32 0 1 true ∧
    Clear wS32 0 1 8 32 ∧ Clear wS32 0 1 12 32 := by
  refine ⟨⟨_, _, _, rfl⟩, ?_, ?_⟩
  · unfold SecondIs Operand Unbound Fits; exact .inl ⟨rfl, by decide +kernel, rfl⟩
  · unfold VecReady Unmarked Operand Destination Clear Unbound Fits; and_intros <;> decide +kernel

/-- v8 and v12 hold masks. -/
def wMask : State := wv (wv ws 8 1 0b1010) 12 1 0b0110

theorem witness_MaskResults : VecReady wMask ∧ Unbound wMask 8 ∧ Fits wMask 8 1 ∧ (wMask.vreg 8).tag.toNat = 1 ∧ Unbound wMask 12 ∧ Fits wMask 12 1 ∧
    (wMask.vreg 12).tag.toNat = 1 ∧ Destination wMask 4 1 true ∧ Destination wMask 0 1 false ∧ wMask.vstart = 0 ∧ tagInt wMask.vtag = true ∧
    Destination wMask 4 (tagWidth wMask.vtag) true ∧ Apart 4 (wMask.group (tagWidth wMask.vtag)) 8 1 := by
  unfold VecReady Unmarked Destination Apart Unbound Fits; and_intros <;> decide +kernel

/-- v8 and v9 hold an SF4 pair: codes and micro-scales. -/
def wSF4 : State := wv (wv (wc ws fun c => { c with vtype := 0x11 }) 8 0x11 0x7531) 9 0x12 0x40

theorem witness_MoveResults :
    SecondIs wS32 0 4 4 12 4 (fun i => elemAt wS32 12 (readWidth 4 4) i) ∧
    (∃ i, Active wSF4 false i = true) ∧
    VecReady wS32 ∧ Operand wS32 8 4 32 ∧ Destination wS32 4 32 true ∧ Clear wS32 4 32 8 32 ∧ Clear wS32 4 32 12 32 ∧ wS32.vtag = 4 ∧
    viCode 0 4 31 = some 0xFFFFFFFF ∧ Pair wSF4 8 ∧ Unbound wSF4 4 ∧ Fits wSF4 4 4 ∧ 4 + 2 * wSF4.group 4 ≤ wSF4.declared ∧ Apart 4 (2 * wSF4.group 4) 8 (2 * wSF4.group 4) ∧
    promoteAll wS32.vtag [4, 4] = some 4 ∧ Destination wS32 4 32 false ∧ wS32.vl ≤ 8 * wS32.vlenb ∧ wS32.vstart = 0 ∧
    Apart 4 (wS32.group 32) 8 (wS32.group 32) ∧ Apart 4 (wS32.group 32) 12 (wS32.group 32) ∧ Operand wS32 12 4 (readWidth 4 4) := by
  refine ⟨?_, ⟨0, by decide +kernel⟩, ?_⟩
  · unfold SecondIs Operand Unbound Fits; exact .inl ⟨rfl, by decide +kernel, rfl⟩
  · unfold VecReady Unmarked Destination Pair Operand Clear Apart Unbound Fits; and_intros <;> decide +kernel

/-- v8 holds F32 elements. -/
def wF32 : State := wv (wc ws fun c => { c with vtype := 0x0C }) 8 0x0C 0x3F800000

theorem witness_ConversionResults : (∃ i, Active wF32 false i = true) ∧ VecReady wF32 ∧ Operand wF32 8 0x0C (readWidth 0x0C 4) ∧ Destination wF32 4 (tagWidth 4) false ∧
    Clear wF32 4 (tagWidth 4) 8 (readWidth 0x0C 4) ∧ VecReady wSF4 ∧ Pair wSF4 8 ∧ Destination wSF4 4 (tagWidth 4) false ∧ Apart 4 (wSF4.group (tagWidth 4)) 8 (2 * wSF4.group 4) ∧
    wF32.vstart % 8 = 0 ∧ Unbound wF32 4 ∧ Fits wF32 4 4 ∧ 4 + 2 * wF32.group 4 ≤ wF32.declared ∧ Apart 4 (2 * wF32.group 4) 8 (wF32.group 32) := by
  refine ⟨⟨0, by decide +kernel⟩, ?_⟩
  unfold VecReady Unmarked Destination Pair Operand Clear Apart Unbound Fits; and_intros <;> decide +kernel

/-- v8 and v10 hold residues modulo 17, v4 too. -/
def wZ64 : State := wv (wv (wv (wc ws fun c => { c with vtype := 0x13, modq := 17 }) 8 0x13 5) 10 0x13 4) 4 0x13 3

/-- Two SF4 pairs, at v8 and v10. -/
def wSF4s : State := wv (wv wSF4 10 0x11 0x2222) 11 0x12 0x40

theorem witness_ReductionResults : VecReady wS32 ∧ wS32.vstart = 0 ∧ Unbound wS32 4 ∧ 4 < wS32.declared ∧ promoteAll wS32.vtag [4] = some 4 ∧
    Operand wS32 8 4 (readWidth 4 4) ∧ Operand wS32 12 4 (readWidth 4 4) ∧ Apart 4 1 8 (wS32.group (readWidth 4 4)) ∧ Apart 4 1 12 (wS32.group (readWidth 4 4)) ∧ tagInt 4 = true ∧
    VecReady wF32 ∧ promoteAll wF32.vtag [0x0C] = some 0x0C ∧ Operand wF32 8 0x0C (readWidth 0x0C 0x0C) ∧ tagFloat 0x0C = true ∧
    VecReady wZ64 ∧ promoteAll wZ64.vtag [0x13, 0x13] = some 0x13 ∧ Operand wZ64 8 0x13 64 ∧ Operand wZ64 10 0x13 64 ∧ wZ64.h.csr.modq.toNat % 2 ^ 62 = 17 ∧
    Pair wSF4s 8 ∧ Pair wSF4s 10 ∧ Apart 4 1 8 (2 * wSF4s.group 4) ∧ Apart 4 1 10 (2 * wSF4s.group 4) := by
  unfold VecReady Unmarked Pair Operand Apart Unbound Fits; and_intros <;> decide +kernel

theorem witness_SpecialFunctions : (∃ f, vecSpecial (.vexp2 4 8 0) = some (4, 8, 0, f)) ∧ VecReady wF32 ∧ Operand wF32 8 0x0C (tagWidth 0x0C) ∧
    Destination wF32 4 (tagWidth 0x0C) false ∧ Clear wF32 4 (tagWidth 0x0C) 8 (tagWidth 0x0C) := by
  refine ⟨⟨_, rfl⟩, ?_⟩
  unfold VecReady Unmarked Destination Operand Clear Unbound Fits; and_intros <;> decide +kernel

theorem witness_ModularResults : (∃ f, vecModular (.vmodadd 4 0 8 10 0) = some (4, 0, 8, 10, 0, true, f)) ∧ (∃ f, vecButterfly (.vbflyct 4 0 8 10 0) = some (4, 0, 8, 10, 0, f)) ∧
    SecondIs wZ64 0 0x13 wZ64.vtag 10 0x13 (fun i => elemAt wZ64 10 (readWidth 0x13 wZ64.vtag) i) ∧ SecondIs wZ64 1 0x13 wZ64.vtag 9 0x13 (fun _ => (wZ64.x 9).toNat % 2 ^ tagWidth 0x13) ∧
    VecReady wZ64 ∧ wZ64.h.csr.modq.toNat % 2 ^ 62 = 17 ∧ Operand wZ64 8 0x13 64 ∧ Operand wZ64 4 0x13 64 ∧ Destination wZ64 4 64 false ∧ Destination wZ64 8 64 false ∧
    Clear wZ64 4 64 8 64 ∧ Clear wZ64 4 64 10 64 ∧ Clear wZ64 8 64 10 64 ∧ Apart 4 (wZ64.group 64) 8 (wZ64.group 64) ∧ readWidth 0x13 wZ64.vtag = 64 := by
  refine ⟨⟨_, rfl⟩, ⟨_, rfl⟩, ?_, ?_, ?_⟩
  · unfold SecondIs Operand Unbound Fits; exact .inl ⟨rfl, by decide +kernel, rfl⟩
  · unfold SecondIs; exact .inr (.inl ⟨rfl, rfl, rfl⟩)
  · unfold VecReady Unmarked Destination Operand Clear Apart Unbound Fits; and_intros <;> decide +kernel

/-- Accesses of an unmasked strip that land. -/
theorem lands_of {s : State} {k : AccKind} {m : Bool} {addr : Nat → Word} {n : Nat} {loc : Nat → Loc}
    (h : ∀ i < s.vl, s.check (addr i) n n k = .ok ⟨loc i, none⟩ ∧ (s.readLoc (loc i) n).isSome = true) : Lands s k (fun i => Active s m i) addr n loc := by
  intro i hi
  have hl : i < s.vl := by unfold Active at hi; simp at hi; omega
  exact ⟨⟨none, (h i hl).1⟩, (h i hl).2⟩

/-- Accesses below a bound that land. -/
theorem lands_lt {s : State} {k : AccKind} {N : Nat} {addr : Nat → Word} {n : Nat} {loc : Nat → Loc}
    (h : ∀ i < N, s.check (addr i) n n k = .ok ⟨loc i, none⟩ ∧ (s.readLoc (loc i) n).isSome = true) : Lands s k (fun i => decide (i < N)) addr n loc := by
  intro i hi
  exact ⟨⟨none, (h i (of_decide_eq_true hi)).1⟩, (h i (of_decide_eq_true hi)).2⟩

/-- A record of one line of F32 elements in the scratchpad, of tag 0x0C, for VFILL. -/
def wRec : State := wm ws 0 8 (64 + 0x0C * 2 ^ 32)

theorem witness_VectorLoads :
    Lands wS32 .load (fun i => Active wS32 false i) (fun i => wS32.x 1 + BitVec.ofNat 64 (i * 32 / 8)) 4 (fun i => .spad 0 (4 * i)) ∧
    Lands (wp wS32 2 8) .load (fun i => Active (wp wS32 2 8) false i) (fun i => (wp wS32 2 8).x 1 + BitVec.ofNat 64 i * (wp wS32 2 8).x 2) 4 (fun i => .spad 0 (8 * i)) ∧
    Lands wSF4 .load (fun i => Active wSF4 false i) (fun i => wSF4.x 1 + BitVec.ofNat 64 (80 * (i / 128)) + BitVec.ofNat 64 (i % 128 / 2)) 1
      (fun i => .spad 0 (80 * (i / 128) + i % 128 / 2)) ∧
    Lands wSF4 .load (fun i => Active wSF4 false i) (fun i => wSF4.x 1 + BitVec.ofNat 64 (80 * (i / 128)) + BitVec.ofNat 64 (64 + i % 128 / 8)) 1
      (fun i => (fun k => Loc.spad 0 (80 * (k / 16) + 64 + k % 16)) (i / 8)) ∧
    Lands (wRec.fill none) .load (fun i => decide (i < 64 / 8)) (fun i => wRec.x 1 + BitVec.ofNat 64 (16 + 8 * i)) 8 (fun i => .spad 0 (16 + 8 * i)) ∧
    StorageWf wS32 ∧ MemReady wS32 ∧ Destination wS32 4 32 false ∧ Operand wS32 12 4 (readWidth 4 4) ∧ Apart 4 (wS32.group 32) 12 (wS32.group (readWidth 4 4)) ∧
    MemReady wSF4 ∧ Unbound wSF4 4 ∧ Fits wSF4 4 4 ∧ 4 + 2 * wSF4.group 4 ≤ wSF4.declared ∧ (wSF4.x 1).toNat % 16 = 0 ∧
    wRec.check (wRec.x 1) 16 1 .load = .ok ⟨.spad 0 0, none⟩ ∧ (wRec.readLoc (.spad 0 0) 16).isSome = true ∧ bytesNat wRec (.spad 0 0) 8 = 64 + 0x0C * 2 ^ 32 + 0 * 2 ^ 40 ∧
    64 ≤ wRec.vlenb := by
  refine ⟨lands_of (by decide +kernel), lands_of (by decide +kernel), lands_of (by decide +kernel), lands_of (by decide +kernel), lands_lt (by decide +kernel), ?_⟩
  unfold StorageWf MemReady VecReady Quiet Unmarked Destination Operand Apart Unbound Fits; and_intros <;> decide +kernel

theorem witness_VectorStores :
    Lands wS32 .store (fun i => Active wS32 false i) (fun i => wS32.x 1 + BitVec.ofNat 64 (i * 4)) 4 (fun i => .spad 0 (4 * i)) ∧
    Lands (wp wS32 2 8) .store (fun i => Active (wp wS32 2 8) false i) (fun i => (wp wS32 2 8).x 1 + BitVec.ofNat 64 i * (wp wS32 2 8).x 2) 4 (fun i => .spad 0 (8 * i)) ∧
    Lands wS32 .atomic (fun i => Active wS32 false i) (fun i => wS32.x 1 + BitVec.ofNat 64 (i * 4)) 4 (fun i => .spad 0 (4 * i)) ∧
    Lands wMask .store (fun i => Active wMask false i) (fun i => wMask.x 1 + BitVec.ofNat 64 (i * 1 / 8)) 1 (fun i => .spad 0 (i / 8)) ∧
    Lands wS32 .store (fun i => decide (i < 2)) (fun i => wS32.x 1 + BitVec.ofNat 64 (8 * i)) 8 (fun i => .spad 0 (8 * i)) ∧
    Lands wS32 .store (fun i => decide (i < 64 / 8)) (fun i => wS32.x 1 + BitVec.ofNat 64 (16 + 8 * i)) 8 (fun i => .spad 0 (16 + 8 * i)) ∧
    StorageWf wS32 ∧ MemReady wS32 ∧ Operand wS32 8 4 32 ∧ wS32.vl ≤ 8 * wS32.vlenb ∧ Operand wS32 12 4 (readWidth 4 4) ∧ scaddTag 4 = true ∧ wS32.vstart = 0 ∧
    MemReady wMask ∧ Operand wMask 8 1 1 ∧ Unbound wS32 8 ∧ 8 < wS32.declared ∧ (wS32.x 1).toNat % 64 = 0 ∧ wS32.vlenb % 64 = 0 ∧
    min wS32.vlenb (64 * (((wS32.vl * tagWidth 4 + 7) / 8 + 63) / 64)) = 64 := by
  refine ⟨lands_of (by decide +kernel), lands_of (by decide +kernel), lands_of (by decide +kernel), lands_of (by decide +kernel), lands_lt (by decide +kernel),
    lands_lt (by decide +kernel), ?_⟩
  unfold StorageWf MemReady VecReady Quiet Unmarked Operand Unbound Fits; and_intros <;> decide +kernel

/-- Strips of eight F64 elements in v8 and v10. -/
def wF64 (vl : BitVec 22) : State := wv (wv (wc ws fun c => { c with vtype := 0x0D, vl := vl }) 8 0x0D 0x3FF0000000000000) 10 0x0D 0x4000000000000000

/-- t1 of `wF64` tagged F64. -/
def wTile (vl : BitVec 22) : State :=
  { wF64 vl with h := { (wF64 vl).h with vec := { (wF64 vl).h.vec with t := (wF64 vl).h.vec.t.set 1 ⟨0x0D, false, 0x3FF0000000000000⟩ } } }

theorem witness_TileResults : tileShape 0x0D = some (8, tF64, 8) ∧
    Lands (wp (wF64 8) 2 64) .load (fun e => decide (e < 8 * 8)) (fun e => (wp (wF64 8) 2 64).x 1 + BitVec.ofNat 64 (e / 8) * (wp (wF64 8) 2 64).x 2 + BitVec.ofNat 64 (e % 8 * 8)) 8
      (fun e => .spad 0 (8 * e)) ∧
    Lands (wp (wF64 8) 2 64) .store (fun e => decide (e < 8 * 8)) (fun e => (wp (wF64 8) 2 64).x 1 + BitVec.ofNat 64 (e / 8) * (wp (wF64 8) 2 64).x 2 + BitVec.ofNat 64 (e % 8 * 8)) 8
      (fun e => .spad 0 (8 * e)) ∧
    VecReady (wF64 8) ∧ (wF64 8).vstart = 0 ∧ 0 < (wF64 8).vl ∧ (wF64 8).vl % 8 = 0 ∧ ((wF64 8).tile 1).tag = 0 ∧ Operand (wF64 8) 8 0x0D 64 ∧ Operand (wF64 8) 10 0x0D 64 ∧
    (wF64 8).vl ≤ 8 * (wF64 8).vlenb ∧ ((wF64 8).vreg 0).tag = 0 ∧ StorageWf (wF64 8) ∧ Quiet (wF64 8) ∧ (wF64 8).h.vec.fmArmed = false ∧ 8 * 8 ≤ 16 * (wF64 8).vlenb ∧
    (wF64 8).vtag = 0x0D ∧ (wF64 8).vl = 8 ∧ Destination (wF64 8) 4 64 false ∧ (wF64 8).vstart < (wF64 8).vl ∧
    ((wTile 64).tile 1).tag.toNat = 0x0D ∧ (wTile 64).vl = 8 * 8 ∧ Destination (wTile 64) 16 (tagWidth 0x0D) false := by
  refine ⟨rfl, lands_lt (by decide +kernel), lands_lt (by decide +kernel), ?_⟩
  unfold StorageWf VecReady Quiet Unmarked Destination Operand Unbound Fits; and_intros <;> decide +kernel

/-- The record of a memory stream of one S32 element at scratchpad offset 0x100. -/
def wMemRec : State := wm ws 0 64 (1 + 4 * 2 ^ 8 + 4 * 2 ^ 16 + 0xF00000000100 * 2 ^ 64 + 1 * 2 ^ 128 + 4 * 2 ^ 192)

/-- The record of a ring at offset 0x1000, and the ring's descriptor: two entries of 64 bytes at 0x1100. -/
def wRingRec : State := wm (wm ws 0 64 (2 + 4 * 2 ^ 8 + 0xF00000001000 * 2 ^ 64)) 0x1000 64 (0x1100 + 2 * 2 ^ 32 + 64 * 2 ^ 64)

/-- A route to a ring of the package (TKIND 4) that may be written. -/
def wRoute4 : RouteVal := ⟨0, 4 * 2 ^ 60, 2 * 2 ^ 32 + 0x1000, 0⟩

/-- The record of a fabric stream to member 0 of the communicator at offset 0x2000, and the communicator. -/
def wFabRec : State :=
  wm (wm (wm ws 0 64 (3 + 0xF00000002000 * 2 ^ 64 + 64 * 2 ^ 192)) 0x2000 2 1) 0x2040 32 wRoute4.toNat

/-- v24 bound to a memory stream. -/
def wBound : State := { ws with h := { wHart with vec := { wHart.vec with binds := wHart.vec.binds.set 0 { Binding.none with kind := 1 } } } }

theorem witness_StreamBindings : VecReady ws ∧ Quiet ws ∧ Free wMemRec (.spad 0 0) 64 false ∧ (∀ j : Fin 6, ws.h.post.get j = 0) ∧ 24 ≤ (24 : Reg).toNat ∧
    VecReady wBound ∧ Quiet wBound ∧ 24 < wBound.declared ∧ 24 < ws.declared ∧ (wBound.h.binding 24).kind ≠ 0 ∧ (ws.h.binding 24).kind = 0 ∧
    wMemRec.check (wMemRec.x 1) 64 64 .load = .ok ⟨.spad 0 0, none⟩ ∧ (wMemRec.readLoc (.spad 0 0) 64).isSome = true ∧
    bytesNat wMemRec (.spad 0 0) 64 = 1 + 4 * 2 ^ 8 + 4 * 2 ^ 16 + 0xF00000000100 * 2 ^ 64 + 1 * 2 ^ 128 + 4 * 2 ^ 192 ∧ streamTag 4 4 = true ∧
    (wMemRec.launch? wMemRec.h.launch).map (fun l => shapeCist l.words) = some true ∧
    ((wMemRec.fill none).pinStream ⟨1, 4, 4, 0, 0, 0xF00000000100, 1, 4, 0, 0, 0, [], []⟩ 1 0 ⟨[], [], none⟩).pins = [] ∧
    ((wMemRec.fill none).pinStream ⟨1, 4, 4, 0, 0, 0xF00000000100, 1, 4, 0, 0, 0, [], []⟩ 1 0 ⟨[], [], none⟩).absent = [] ∧
    ((wMemRec.fill none).pinStream ⟨1, 4, 4, 0, 0, 0xF00000000100, 1, 4, 0, 0, 0, [], []⟩ 1 0 ⟨[], [], none⟩).fail = none ∧
    bytesNat wRingRec (.spad 0 0) 64 = 2 + 4 * 2 ^ 8 + 0xF00000001000 * 2 ^ 64 ∧ wRingRec.reservationOff 0xF00000001000 64 = some (0x1000, wLaunch) ∧
    wRingRec.readLoc (.spad 0 0x1000) 64 = some (0x1100 + 2 * 2 ^ 32 + 64 * 2 ^ 64) ∧
    ringMalformed (0x1100 + 2 * 2 ^ 32 + 64 * 2 ^ 64) (shapeSpres wLaunch.words) = false ∧
    bytesNat wFabRec (.spad 0 0) 64 = 3 + 0xF00000002000 * 2 ^ 64 + 64 * 2 ^ 192 ∧
    (match (wFabRec.fill none).windowRead 0xF00000002000 64 with | some (.ok hd) => hd % 2 ^ 16 | _ => 0) = 1 ∧
    (match (wFabRec.fill none).windowRead (0xF00000002000 + BitVec.ofNat 64 64) 32 with | some (.ok v) => RouteVal.ofNat v | _ => RouteVal.zero) = wRoute4 ∧
    wRoute4.rights / 2 % 2 = 1 ∧ wRoute4.tkind = 4 := by
  unfold VecReady Quiet Unmarked Free; and_intros <;> decide +kernel

/-- A sync word at offset 0 with TARGET 2, COUNT 5, GEN 3 and AUTO 0. -/
def wSync : State := wm ws 0 16 (2 + 5 * 2 ^ 32 + 3 * 2 ^ 64)

/-- A flat copy record of 8 bytes from offset 0x100 to offset 0x200, and one that reserves a bit. -/
def wCpy (bad : Nat) : State := wm ws 0 64 (0xF00000000100 + 0xF00000000200 * 2 ^ 64 + 4 * 2 ^ 144 + bad * 2 ^ 152 + 8 * 2 ^ 160)

/-- The hart of slot 1, parked on the sync word with GEN 3. -/
def wSyncHart : Hart := { wHart with slot := 1, run := .parkedSync }

/-- The word with that hart parked on it. -/
def wSyncPark : State := { wSync with harts := [wSyncHart], mem := { wSync.mem with syncWait := [⟨0, 0, 0, 1, 1, 5, 3⟩] } }

theorem witness_CopyResults_parked : StorageWf wSyncPark ∧ wSyncPark.h.run = .ready ∧ Quiet wSyncPark ∧ wSyncPark.check (wSyncPark.x 1) 16 16 .atomic = .ok ⟨.spad 0 0, none⟩ ∧
    Free wSyncPark (.spad 0 0) 16 true ∧ (wSyncPark.readLoc (.spad 0 0) 16).isSome = true ∧ bytesNat wSyncPark ((Loc.spad 0 0).plus (4 * 2)) 4 = 3 ∧
    bytesNat wSyncPark ((Loc.spad 0 0).plus (4 * 1)) 4 = 5 ∧ wSyncPark.harts = [wSyncHart] ∧ wSyncHart.launch ≠ 0 ∧
    wSyncPark.h.isHart wSyncHart.core wSyncHart.slot wSyncHart.launch = false ∧
    wSyncPark.mem.syncWait = [⟨0, 0, wSyncHart.core, wSyncHart.slot, wSyncHart.launch, 5, 3⟩] := by
  unfold StorageWf Quiet Unmarked Free; and_intros <;> decide +kernel

theorem witness_CopyResults : Free wSync (.spad 0 0) 16 true ∧ Quiet (wCpy 0) ∧ Free (wCpy 0) (.spad 0 0) 64 false ∧ (wCpy 0).heldCopyIds = [] ∧ StorageWf wSync ∧ wSync.h.run = .ready ∧ wSync.check (wSync.x 1) 16 16 .atomic = .ok ⟨.spad 0 0, none⟩ ∧ Quiet wSync ∧
    (wSync.readLoc (.spad 0 0) 16).isSome = true ∧ bytesNat wSync ((Loc.spad 0 0).plus (4 * 2)) 4 = 3 ∧ VecReady (wCpy 0) ∧ 8 % (wCpy 0).gmul = 0 ∧ 8 + (wCpy 0).gmul ≤ (wCpy 0).declared ∧
    Unbound (wCpy 0) 8 ∧ (wCpy 0).check ((wCpy 0).x 1) 64 64 .load = .ok ⟨.spad 0 0, none⟩ ∧ ((wCpy 0).readLoc (.spad 0 0) 64).isSome = true ∧
    bytesNat (wCpy 0) (.spad 0 0) 64 / 2 ^ 144 % 2 ^ 8 / 4 % 2 = 1 ∧ bytesNat (wCpy 0) (.spad 0 0) 64 / 2 ^ 160 % 2 ^ 32 = 8 ∧
    copyMalformed (bytesNat (wCpy 0) (.spad 0 0) 64) true (copyShape true 8 []) ((wCpy 0).rt 0) = false ∧
    copyMalformed (bytesNat (wCpy 1) (.spad 0 0) 64) true (copyShape true 8 []) ((wCpy 1).rt 0) = true ∧
    (wCpy 0).c.copies.length < 48 ∧ (wCpy 0).copyPlaces (wCpy 0).h.slot < 16 ∧ 48 ≤ (List.replicate 48 wCopy).length ∧
    (let p := ((wCpy 0).fill none).pinSide .store (sidePieces 0xF00000000200 false (copyShape true 8 []) 9 0)
        (((wCpy 0).fill none).pinSide .load (sidePieces 0xF00000000100 true (copyShape true 8 []) 9 0) ⟨[], [], none⟩);
      p.pins = [] ∧ p.absent = [] ∧ p.fail = none) := by
  unfold StorageWf VecReady Quiet Unmarked Unbound Free; and_intros <;> decide +kernel

/-- A D-sketch of S32 elements at offset 0 and another at 0x2000. -/
def wSkD : State := wm (wm (wp ws 2 0xF00000002000#64) 0 3 0x10401) 0x2000 3 0x10401

/-- An H-sketch at offset 0. -/
def wSkH : State := wm ws 0 3 0x10402

/-- A Q-sketch of S32 elements at offset 0 with the elements of v8 added. -/
def wSkQ : State := { wS32 with mem := (⟨0, 0, 1, 5, 0, 4, [3, 7], [1, 1], .core⟩ : WeirOp).apply (wm wS32 0 3 0x10403).mem }

theorem witness_SketchResults : Quiet ws ∧ ws.vstart = 0 ∧ ws.weirMine < 8 ∧ sketchTagOk 1 4 = true ∧ sketchTagOk 3 4 = true ∧
    (match ws.sketchAt (ws.x 1) (sketchSize 3) .atomic with | .ok k => k | .error _ => 1) = 0 ∧ ws.initClash 0 (sketchSize 3) = false ∧
    VecReady wS32 ∧ Operand wS32 8 4 (readWidth 4 wS32.vtag) ∧ (match (wSkD.weirAhead 0).sketchCheck 1 0 with | .ok t => t | .error _ => 0) = 4 ∧
    (match wSkH.mem.sketchCheck 2 0 with | .ok t => t | .error _ => 0) = 4 ∧ wSkD.mem.rd 0 1 = some 1 ∧ wSkD.mem.rd 0x2000 1 = some 1 ∧
    (match wSkD.sketchAt (wSkD.x 2) (sketchSize 1) .load with | .ok k => k | .error _ => 1) = 0x2000 ∧
    0 + sketchSize 1 ≤ 0x2000 ∧ (wSkH.mem.hAll 0).isSome = true ∧ (wSkD.mem.rd 64 4096).isSome = true ∧ ws.mem.wf = true := by
  unfold VecReady Quiet Unmarked Operand Unbound Fits; and_intros <;> decide +kernel

theorem witness_SketchResults_quantile : (match (wSkQ.weirAhead 0).sketchCheck 3 0 with | .ok t => t | .error _ => 0) = 4 ∧
    (match wSkQ.mem.qSorted 0 with | some l => (qQuantile l 0, qQuantile l 0x3F800000) | none => (none, none)) = (some 0x80000003, some 0x80000007) ∧
    Destination wSkQ 8 32 false ∧ Operand wSkQ 8 4 32 := by
  unfold Operand Destination Unbound Fits; and_intros <;> decide +kernel

/-- rt2 to rt4 of a hart: a scratchpad of this package with every right, the Wellhead, and eight slots of mailboxes. -/
def wRoute : State :=
  { ws with h := { wHart with rt := ((wHart.rt.set 2 ⟨0, 0, 2 ^ 60 + 15 * 2 ^ 32, 0⟩).set 3 ⟨2 * 2 ^ 54, 3 * 2 ^ 60, 8 * 2 ^ 32, 0⟩).set 4 ⟨0, 2 * 2 ^ 60, 8 * 2 ^ 32 + 128, 0⟩ } }

/-- rt2 a multicast route to one leaf. -/
def wMulti : State := { ws with h := { wHart with rt := wHart.rt.set 2 ⟨2 ^ 54 + 2 ^ 19, 0, 15 * 2 ^ 32, 0⟩ } }

/-- A route to a scratchpad of this package with every right. -/
def wPlain : RouteVal := ⟨0, 0, 0x1000000F00000000#64, 0⟩

/-- A hart whose rt2 holds that route sealed under the key 5 of the CURRENT slot 0. -/
def wSealed : State :=
  { ws with
    h := { wHart with rt := wHart.rt.set 2 { wPlain with w3 := sealTag 5 wPlain } }
    fab := { ws.fab with slots := ws.fab.slots.set 0 ⟨.current, 5⟩ } }

/-- A tag does not seal itself. -/
theorem seal_ignores (k : BitVec 256) (r : RouteVal) (x : Word) : sealTag k { r with w3 := x } = sealTag k r := by unfold sealTag; rfl

/-- RNARROW: the other hypotheses are those of `wPlain`, which no tag bears on. -/
theorem witness_RouteResults_narrow : wSealed.rt 2 = { wPlain with w3 := sealTag 5 wPlain } ∧
    wSealed.fab.slots.get 0 = ⟨.current, 5⟩ ∧ sealTag 5 (wSealed.rt 2) = (wSealed.rt 2).w3 ∧ wPlain.malformed = false ∧ wPlain.kslot = 0 ∧ wPlain.kind = 0 ∧
    wPlain.dlg = true ∧ wPlain.rights = 15 ∧ wPlain.len = 2 ^ 32 := by
  have e : wSealed.rt 2 = { wPlain with w3 := sealTag 5 wPlain } := rfl
  refine ⟨e, rfl, ?_, by decide +kernel⟩
  rw [e]; exact seal_ignores 5 wPlain _

theorem witness_RouteResults : wRoute.h.launch ≠ 0 ∧ (∀ r ∈ wRoute.c.reqs, r.qtag.toNat % 2 ^ 15 ≠ wRoute.c.qtag.toNat % 2 ^ 15) ∧
    Free wRoute (.spad 0 0) 64 false ∧ Free wRoute (.spad 0 0) 32 true ∧ (wu wRoute).h.level = .user ∧ ((wu wRoute).rt 3).kind = 2 ∧ ((wu wRoute).rt 3).malformed = false ∧
    (RouteVal.mk 0 0 0x4000000F00000000#64 0).malformed = true ∧ (wSealed.rt 2).dlg = true ∧ wSealed.check (wSealed.x 1) 32 32 .store = .ok ⟨.spad 0 0, none⟩ ∧ wRoute.h.marked = [] ∧ wRoute.remoteMarked = 0 ∧ wRoute.h.mstat = none ∧ wRoute.mayInject 2 = true ∧ wRoute.h.rlx = 0 ∧ wRoute.h.level ≠ .user ∧
    (wRoute.rt 2).malformed = false ∧ (wRoute.rt 2).kind = 0 ∧ 0 + 64 ≤ (wRoute.rt 2).len ∧ (wRoute.rt 2).rights = 15 ∧ (wRoute.rt 2).eth = false ∧ (wRoute.rt 2).base = 0 ∧
    wRlx.h.rlx ≠ 0 ∧ ({ wRoute with h := { wRoute.h with rlx := 1 } } : State).markedOverlap 2 0 8 = false ∧ (wRoute.rt 7).malformed = false ∧
    (wMulti.rt 2).malformed = false ∧ (wMulti.rt 2).kind = 1 ∧ (wMulti.rt 2).rights / opRight 0x0A % 2 = 1 ∧
    (wRoute.rt 3).malformed = false ∧ (wRoute.rt 3).kind = 2 ∧ (wRoute.rt 3).rights / opRight 0x10 % 2 = 1 ∧ wRoute.check (wRoute.x 1) 64 64 .load = .ok ⟨.spad 0 0, none⟩ ∧
    (wRoute.readLoc (.spad 0 0) 64).isSome = true ∧ (wRoute.rt 4).malformed = false ∧ (wRoute.rt 4).kind = 0 ∧ wRoute.check (wRoute.x 1) 16 16 .load = .ok ⟨.spad 0 0, none⟩ ∧
    wRoute.h.core = wRoute.c.id ∧ wRoute.c.ctr.ng ≠ 0xFFFF ∧
    (wRoute.rt 4).dlg = false ∧ Quiet wRoute ∧ StorageWf wRoute ∧ wRoute.check (wRoute.x 1) 32 32 .load = .ok ⟨.spad 0 0, none⟩ ∧
    wRoute.check (wRoute.x 1) 32 32 .store = .ok ⟨.spad 0 0, none⟩ ∧ (wRoute.readLoc (.spad 0 0) 32).isSome = true := by
  unfold Quiet Unmarked StorageWf Free; and_intros <;> decide +kernel

/-- A communicator of one member at offset 0, its slot 64 bytes and its stage at 0x1000; `w` is its bank state. -/
def wComm (w : Nat) : State := wm (wm wS32 0 64 (1 + w * 2 ^ 64 + 0x1000 * 2 ^ 256 + 64 * 2 ^ 320)) 0x40 32 (⟨0, 0, 15 * 2 ^ 32, 0⟩ : RouteVal).toNat

/-- The same with a collective of the operation open, committed or not. -/
def wColl (o : BitVec 2) (done : Bool) : State :=
  { wComm 1 with h := { (wComm 1).h with coll := some ⟨0xF00000000000, 0, 0, 0, o, [], done, false⟩, collStage := if done then 3 else 0 } }

theorem witness_CollectiveResults : VecReady (wComm 0) ∧ Quiet (wComm 0) ∧ StorageWf (wComm 0) ∧ (wComm 0).check ((wComm 0).x 1) 64 64 .atomic = .ok ⟨.spad 0 0, none⟩ ∧
    (wComm 0).check ((wComm 0).x 1) 64 64 .load = .ok ⟨.spad 0 0, none⟩ ∧ ((wComm 0).readLoc (.spad 0 0) 64).isSome = true ∧ (wComm 0).h.coll = none ∧
    hdrBad (bytesNat (wComm 0) (.spad 0 0) 64) = false ∧ (wComm 0).postedOpen 5 = false ∧
    ((BankWords.of (bytesNat (wComm 0) (.spad 0 0) 64)).openColl 4).isSome = true ∧
    (wColl 0 false).vstart = 0 ∧ Operand (wColl 0 false) 8 4 32 ∧ Fits (wv (wColl 0 false) 12 5 0) 12 64 ∧ ((wv (wColl 0 false) 12 5 0).vreg 12).tag.toNat = tS64 ∧
    (match (wv (wColl 0 false) 12 5 0).scatterChecks 0xF00000000000 ⟨0xF00000000000, 0, 0, 0, 0, [], false, false⟩ (bytesNat (wComm 1) (.spad 0 0) 64) 32
      (fun i => elemAt (wv (wColl 0 false) 12 5 0) 12 64 i) (fun i => elemAt (wv (wColl 0 false) 12 5 0) 8 32 i) [0, 1, 2, 3] with | .ok l => l.length | .error _ => 0) = 4 ∧
    (wColl 0 true).collPackets 0 1 = false ∧ (wColl 0 true).h.pstat = none ∧
    bytesNat (wColl 0 true) (.spad 0 0) 64 / 2 ^ 64 % 2 ^ 8 ≠ 2 ∧ bytesNat (wColl 0 true) (.spad 0 0) 64 / 2 ^ 128 % 2 ^ 32 ≤ bytesNat (wColl 0 true) (.spad 0 0) 64 / 2 ^ 160 % 2 ^ 32 ∧
    (wColl 1 true).h.collStage ≠ 0 ∧ Destination (wColl 1 true) 4 32 false ∧
    (match ({ wColl 1 true with mem := (wColl 1 true).mem.putSpad 0 64 (bytesNat (wColl 1 true) (.spad 0 0) 64 / 2 ^ 72 * 2 ^ 72 + bytesNat (wColl 1 true) (.spad 0 0) 64 % 2 ^ 64) } : State).foldAll
      1 4 0xF00000001000 64 1 [0, 1, 2, 3] with | .ok l => l.length | .error _ => 0) = 4 := by
  unfold VecReady Quiet Unmarked StorageWf Operand Destination Unbound Fits; and_intros <;> decide +kernel

/-- A package in bring-up, in phase `n`. -/
def wBoot (n : Nat) : State := { State.reset with pkg := { Pkg.reset with bootstat := BitVec.ofNat 32 (2 * n), slotA := some wImage, slotB := some { wImage with secver := 2 } } }

theorem witness_BringUpResults : State.reset.pkg.pwrgood = true ∧ ({ State.reset with pkg := { Pkg.reset with pwrgood := false } } : State).pkg.pwrgood = false ∧
    ({ State.reset with pkg := { Pkg.reset with perst := true } } : State).pkg.perst = true ∧ InPhase State.reset 1 ∧ InPhase (wBoot 1) 1 ∧ InPhase (wBoot 2) 2 ∧
    Chosen (wBoot 2) wImage 0 ∧ Chosen { wBoot 2 with pkg := { (wBoot 2).pkg with minVersion := 2 } } { wImage with secver := 2 } 1 ∧
    (∀ g b, ¬ Chosen State.reset g b) ∧ InPhase (wBoot 3) 3 ∧ InPhase (wBoot 4) 4 ∧ InPhase (wBoot 5) 5 ∧ InPhase (wBoot 6) 6 ∧
    ({ State.reset with pkg := { Pkg.reset with booting := false } } : State).pkg.booting = false := by
  unfold InPhase
  refine ⟨rfl, rfl, rfl, by decide +kernel, by decide +kernel, by decide +kernel, ?_, ?_, ?_, by decide +kernel, by decide +kernel, by decide +kernel,
    by decide +kernel, rfl⟩
  · exact ⟨by decide, .inl ⟨rfl, rfl⟩⟩
  · exact ⟨by decide, .inr ⟨rfl, rfl, by rintro a ⟨⟩; decide⟩⟩
  · rintro g b ⟨-, ⟨-, h⟩ | ⟨-, h, -⟩⟩ <;> simp [State.reset, Pkg.reset] at h

theorem witness_ManagementResults : (wBoot 1).pkg.pwrgood = true ∧ (wBoot 1).pkg.perst = false ∧ (wBoot 1).pkg.imgEnded = false ∧
    ({ State.reset with pkg := { Pkg.reset with imgEnded := true, imgLoaded := true, image := some wImage, bootstat := 1 } } : State).pkg.image = some wImage ∧
    ({ State.reset with pkg := { Pkg.reset with imgEnded := true } } : State).pkg.imgLoaded = false ∧ wReady.pkg.bootstat.getLsbD 0 = true ∧
    (∀ l ∈ State.reset.hst.launches, 5 ∉ l.cores) ∧ ws.hst.launches.filter (fun l => l.cores.contains 0) = [wLaunch] := by decide +kernel

theorem witness_HealthResults : State.reset.pkg.fault = false ∧ (5#8).getLsbD 0 = true ∧ (5#8).getLsbD 2 = true ∧
    ({ State.reset with pkg := { Pkg.reset with fault := true } } : State).pkg.fault = true ∧ inFault (.timecmpReached 0 0) = false ∧
    (Instr.timecmpReached 0 0).isWord = false ∧ 0x3FC0 < paLimit ∧ 0x13FFF8 < spadSize ∧ (∀ h ∈ ws.allHarts, h.core / 512 ≠ 1) ∧ ws.harts = [] ∧ ws.h.launch ≠ 0 ∧ ws.h.run ≠ .retired ∧
    ws.h.core / 512 = 0 ∧ ws.launch? ws.h.launch = some wLaunch ∧ wLaunch.encl = (ws.core ws.h.core).mencl := by decide +kernel

/-- Port 3 as a link record. -/
def wPort (k : Link) : State := { wReady with fab := { Fabric.reset with ports := Fabric.reset.ports.set (3 : Fin 16) k, myId := 7, lead := 7, pkgId := 0 } }

/-- Port 3 in a link state. -/
def wLinkIn (x : LinkState) : State := wPort { Link.reset with state := x, enabled := true }

/-- A peer entry of Ethernet port 1 that was written. -/
def wPeer (x : LinkState) : State :=
  { wReady with fab := { Fabric.reset with peers := [{ eth := 1, idx := 4, entry := 1, link := { Link.reset with state := x, enabled := true } }] } }

/-- A peer that the image accepts. -/
def wAuth : PeerAuth := { chainOk := true, keyOk := true, secver := 1, monitor := 5, hop := 2, second := none }

theorem witness_LinkStates : wReady.portEnabled 3 = true ∧ wReady.ethEnabled 1 = true ∧ State.reset.portEnabled 3 = false ∧ (wLinkIn .auth).pkg.image = some wImage ∧
    wAuth.chainOk = true ∧ wAuth.keyOk = true ∧ wImage.minPeerVer ≤ wAuth.secver ∧ wAuth.monitor ∈ wImage.peerDigests ∧ ((wLinkIn .train).link (.port 3)).state = .train ∧ ((wLinkIn .down).link (.port 3)).state = .down ∧
    ((wPort { Link.reset with retryDue := true }).link (.port 3)).retryDue = true ∧ ((wLinkIn .up).link (.port 3)).state = .up ∧
    ((wLinkIn .up).link (.port 3)).txOld = false ∧ ((wLinkIn .auth).link (.port 3)).state = .auth ∧ (9 : DevId) ≠ (wLinkIn .auth).fab.myId ∧
    ((wLinkIn .failed).link (.port 3)).state = .failed ∧ ((wPeer .down).peer? 1 4).map (fun p => (p.entry.getLsbD 0, p.link.state)) = some (true, .down) := by
  decide +kernel

/-- A store request of 8 bytes to core 0 of this package, under the route `wPlain` with tag `x`. -/
def wStore (x : Word) : Packet := ⟨{ wPlain with w3 := x }, BitVec.ofNat 64 (2 + 8 * 2 ^ 10), 0x100, 0, 0, List.replicate 8 0xAB⟩

/-- A frame with nothing in it. -/
def wFrame : Frame := ⟨0, 0, 0, false, false, false, true, false, false, 0xFF, [], false⟩

/-- Port 3 UP with the store queued, and with a frame to replay. -/
def wSender (x : Word) : State := wPort { Link.reset with state := .up, enabled := true, egress := [(0, wStore x)] }

theorem witness_FrameResults (x : Word) : HasLink (wSender x) (.port 3) ∧ ((wSender x).link (.port 3)).state = .up ∧ ((wSender x).link (.port 3)).resend = 0 ∧
    ((wSender x).link (.port 3)).replay.length < replaySize (.port 3) ∧
    (((wSender x).link (.port 3)).sent - ((wSender x).link (.port 3)).credit).toNat < 64 ∧ HasLink (wPeer .up) (.peer 1 4) ∧
    (let k := (wPort { Link.reset with state := .up, replay := [wFrame], resend := 1 }).link (.port 3)
     k.state = .up ∧ k.resend ≠ 0 ∧ k.replay[k.replay.length - k.resend]? = some wFrame) ∧
    Expected ((wLinkIn .up).link (.port 3)) wFrame true ∧ ¬ Expected ((wLinkIn .up).link (.port 3)) { wFrame with fseq := 1 } true ∧
    ((wLinkIn .down).link (.port 3)).state ≠ .up ∧ 1 ≤ [(wFrame, true)].length ∧ [(wFrame, true)].length ≤ 4 ∧
    ((wPeer .up).link (.peer 1 4)).state = .up := by
  unfold Expected
  refine ⟨trivial, rfl, rfl, ?_, ?_, ?_, by decide, by decide, by decide, by decide, by decide, by decide, by decide⟩
  · show 0 < 128; decide
  · show (0 - 0 : BitVec 16).toNat < 64; decide
  show (wPeer .up).peer? 1 4 ≠ none
  decide

/-- A packet at a place in the package. -/
def wItem (p : Packet) (pos : NetPos) (reply : Bool) (got : List Nat) : NetItem :=
  { pkt := p, pos := pos, src := coreEndpoint 0, dst := coreEndpoint 0, ptag := 0, reply := reply, sent := 0, got := got, admitted := false,
    retries := 0, home := 0, encl := 0, ofTag := 0 }

/-- Packets in flight. -/
def wNet (l : List NetItem) : State := { State.reset with fab := { Fabric.reset with net := l } }

/-- The notice that the store was discarded. -/
def wRetry : Packet := (wStore 0).reply 0x31 0 0 []

theorem witness_TorusResults : (wNet [wItem (wStore 0) .torus false [0]]).fab.net[0]? = some (wItem (wStore 0) .torus false [0]) ∧
    10 * ((wNet [wItem (wStore 0) .torus false [0]]).fab.net.filter fun j => j.admitted && j.dst == coreEndpoint 0).length ≤ 502 ∧
    (let s := wNet (wItem (wStore 0) .torus false [0] :: List.replicate 51 { wItem (wStore 0) .torus false [0] with admitted := true })
     502 < 10 * (s.fab.net.filter fun j => j.admitted && j.dst == coreEndpoint 0).length) ∧
    (wItem wRetry .arrived true []).pkt.op = 0x31 ∧
    (let s := wNet [wItem (wStore 0) (.backoff 0) false []]
     s.fab.net[0]? = some (wItem (wStore 0) (.backoff 0) false []) ∧ 0 ≤ s.clockOf (wItem (wStore 0) (.backoff 0) false []) ∧
     s.clockOf (wItem (wStore 0) (.backoff 99) false []) < 99) := by decide +kernel
/-! ### Packets at a target -/

/-- The launch with an endpoint on core 0. -/
def wEpLaunch : Launch := { wLaunch with eps := [(0, 0)] }

/-- A package whose CURRENT slot 0 holds the key 5, identifier 3, the launch's endpoint of generation 0 on core 0, and one packet. -/
def wAt (i : NetItem) (c : Core → Core) : State :=
  { State.reset with
    c := c { Core.reset 0 with ctr := ⟨0, 1⟩ }
    hst := { HostSide.reset with launches := [wEpLaunch] }
    fab := { Fabric.reset with slots := Fabric.reset.slots.set 0 ⟨.current, 5⟩, wellCtr := ⟨0, 1⟩, pkgId := 3, net := [i] } }

/-- A packet under a route of local targets, with tag `x`, an operation, a payload and word 5. -/
def wPkt (r : RouteVal) (x : Word) (op off : Nat) (d : List Byte) : Packet :=
  ⟨{ r with w3 := x }, BitVec.ofNat 64 (op + (if op = 1 then 8 else d.length) * 2 ^ 10), BitVec.ofNat 64 off, 0, 0, d⟩

/-- The tag of a route under the key 5 passes. -/
theorem wTagged (i : NetItem) (c : Core → Core) (r : RouteVal) (x : Word) (h : r.kslot = 0) (hx : sealTag 5 r = x) :
    (wAt i c).tagOk { r with w3 := x } = true := by
  have hk : (wAt i c).keySlot ({ r with w3 := x } : RouteVal).kslot = ⟨.current, 5⟩ := by
    have e : ({ r with w3 := x } : RouteVal).kslot = r.kslot := rfl
    rw [e, h]; rfl
  simp only [State.tagOk, hk, seal_ignores, hx]
  simp

/-- What the endpoint answers to a packet whose tag passes does not depend on the tag. -/
theorem wArrival (s : State) (p : Packet) (x : Word) (h : s.tagOk { p.route with w3 := x } = true) (hm : p.route.malformed = false)
    (hp : p.malformed = false) (ha : (p.op = 4 && atomicBad p.data) = false)
    (hr : (!opAllowed p || decide (p.route.rights / opRight p.op % 2 = 0)) = false) (hb : ¬ p.route.len < p.offset + accessWidth p) :
    s.arrivalCheck { p with route := { p.route with w3 := x } } = none := by
  unfold State.arrivalCheck
  show (if p.route.malformed || p.malformed then some stMalformed else if !s.tagOk { p.route with w3 := x } then some stTag
    else if p.op = 4 && atomicBad p.data then some stMalformed
    else if !opAllowed { p with route := { p.route with w3 := x } } || p.route.rights / opRight p.op % 2 = 0 then some stRights
    else if p.route.len < p.offset + accessWidth p then some stBounds else none) = none
  have e : opAllowed { p with route := { p.route with w3 := x } } = opAllowed p := rfl
  rw [h, hm, hp, ha, e]
  have e2 : (!opAllowed p || p.route.rights / opRight p.op % 2 = 0) = (!opAllowed p || decide (p.route.rights / opRight p.op % 2 = 0)) := rfl
  simp_all

/-- A route to a mailbox of core 0: slot 0 on, of 128 bytes. -/
def wBoxRoute : RouteVal := ⟨0, 2 * 2 ^ 60, 0x0000000F00000080#64, 0⟩

/-- An atomic addition of 8 bytes. -/
def wAdd : List Byte := [0, 8, 0, 0, 0, 0, 0, 0, 5, 0, 0, 0, 0, 0, 0, 0]

/-- The state with a request of the route under the tag `x`. -/
def wAsk (r : RouteVal) (x : Word) (op off : Nat) (d : List Byte) : State := wAt (wItem (wPkt r x op off d) .arrived false []) id

/-- Its checks before the endpoint pass. -/
theorem wAsk_arrival (r : RouteVal) (x : Word) (op off : Nat) (d : List Byte) (hx : sealTag 5 r = x) (hk : r.kslot = 0)
    (hm : (wPkt r 0 op off d).route.malformed = false)
    (hp : (wPkt r 0 op off d).malformed = false) (ha : ((wPkt r 0 op off d).op = 4 && atomicBad d) = false)
    (hr : (!opAllowed (wPkt r 0 op off d) || decide (r.rights / opRight (wPkt r 0 op off d).op % 2 = 0)) = false)
    (hb : ¬ r.len < (wPkt r 0 op off d).offset + accessWidth (wPkt r 0 op off d)) : (wAsk r x op off d).arrivalCheck (wPkt r x op off d) = none :=
  wArrival (wAsk r x op off d) (wPkt r 0 op off d) x (wTagged _ _ r x hk hx) hm hp ha hr hb

/-- A target of a route that is neither in HBM nor a mailbox. -/
theorem wAsk_spad (r : RouteVal) (x : Word) (op off : Nat) (d : List Byte) (h : (wAsk r x op off d).arrivalCheck (wPkt r x op off d) = none)
    (hr : r.tkind ≠ 1) (hr2 : r.tkind ≠ 2)
    (t : Target) (ht : (wAt (wItem (wPkt r 0 op off d) .arrived false []) id).spadTarget (wPkt r 0 op off d) = .ok t) :
    (wAsk r x op off d).targetCheck (wPkt r x op off d) = .ok t := by
  simp only [State.targetCheck, h]
  have e : (wPkt r x op off d).route.tkind = r.tkind := rfl
  rw [e]
  split
  · contradiction
  · contradiction
  · exact ht

/-- A target of a mailbox route. -/
theorem wAsk_box (r : RouteVal) (x : Word) (op off : Nat) (d : List Byte) (h : (wAsk r x op off d).arrivalCheck (wPkt r x op off d) = none)
    (hr : r.tkind = 2) (t : Target) (ht : (wAt (wItem (wPkt r 0 op off d) .arrived false []) id).boxTarget (wPkt r 0 op off d) = .ok t) :
    (wAsk r x op off d).targetCheck (wPkt r x op off d) = .ok t := by
  simp only [State.targetCheck, h]
  have e : (wPkt r x op off d).route.tkind = 2 := hr
  rw [e]
  exact ht

theorem witness_TargetResults_load : ∃ x, (wAsk wPlain x 1 0x100 []).targetCheck (wPkt wPlain x 1 0x100 []) = .ok (.at_ (.spad 0 0x100)) ∧
    ((wAsk wPlain x 1 0x100 []).readLoc (.spad 0 0x100) 8).isSome = true ∧
    (wAsk wPlain x 1 0x100 []).fab.net[0]? = some (wItem (wPkt wPlain x 1 0x100 []) .arrived false []) :=
  have a (x : Word) (hx : sealTag 5 wPlain = x) :=
    wAsk_spad _ x _ _ _ (wAsk_arrival wPlain x 1 0x100 [] hx (by decide +kernel) (by decide +kernel) (by decide +kernel) (by decide +kernel) (by decide +kernel) (by decide +kernel))
      (by decide +kernel) (by decide +kernel) (.at_ (.spad 0 0x100)) (by decide +kernel)
  have b (x : Word) : ((wAsk wPlain x 1 0x100 []).readLoc (.spad 0 0x100) 8).isSome = true := rfl
  ⟨_, a _ rfl, b _, rfl⟩

theorem witness_TargetResults_store (op : Nat) (h : op = 2 ∨ op = 3 ∨ op = 7) :
    ∃ x, (wAsk wPlain x op 0x100 (List.replicate 8 1)).targetCheck (wPkt wPlain x op 0x100 (List.replicate 8 1)) = .ok (.at_ (.spad 0 0x100)) := by
  have a (x : Word) (hx : sealTag 5 wPlain = x) :
      (wAsk wPlain x op 0x100 (List.replicate 8 1)).targetCheck (wPkt wPlain x op 0x100 (List.replicate 8 1)) = .ok (.at_ (.spad 0 0x100)) := by
    obtain rfl | rfl | rfl := h <;>
    exact wAsk_spad _ _ _ _ _ (wAsk_arrival _ _ _ _ _ hx (by decide +kernel) (by decide +kernel) (by decide +kernel) (by decide +kernel) (by decide +kernel) (by decide +kernel))
      (by decide +kernel) (by decide +kernel) _ (by decide +kernel)
  exact ⟨_, a _ rfl⟩

theorem witness_TargetResults_atomic : ∃ x, (wAsk wPlain x 4 0x100 wAdd).targetCheck (wPkt wPlain x 4 0x100 wAdd) = .ok (.at_ (.spad 0 0x100)) ∧
    (wAsk wPlain x 5 0x100 (List.replicate 16 0)).targetCheck (wPkt wPlain x 5 0x100 (List.replicate 16 0)) = .ok (.at_ (.spad 0 0x100)) :=
  have a (x : Word) (hx : sealTag 5 wPlain = x) :=
    wAsk_spad _ x _ _ _ (wAsk_arrival wPlain x 4 0x100 wAdd hx (by decide +kernel) (by decide +kernel) (by decide +kernel) (by decide +kernel) (by decide +kernel) (by decide +kernel))
      (by decide +kernel) (by decide +kernel) (.at_ (.spad 0 0x100)) (by decide +kernel)
  have b (x : Word) (hx : sealTag 5 wPlain = x) :=
    wAsk_spad _ x _ _ _ (wAsk_arrival wPlain x 5 0x100 (List.replicate 16 0) hx (by decide +kernel) (by decide +kernel) (by decide +kernel) (by decide +kernel) (by decide +kernel) (by decide +kernel))
      (by decide +kernel) (by decide +kernel) (.at_ (.spad 0 0x100)) (by decide +kernel)
  ⟨_, a _ rfl, b _ rfl⟩

theorem witness_TargetResults_box : ∃ x, (wAsk wBoxRoute x 6 0x10 (List.replicate 16 1)).targetCheck (wPkt wBoxRoute x 6 0x10 (List.replicate 16 1)) =
    .ok (.box 0 1 1) ∧ ((wAsk wBoxRoute x 6 0x10 (List.replicate 16 1)).mail 0 1 1).length = 0 := by
  have a (x : Word) (hx : sealTag 5 wBoxRoute = x) :
      (wAsk wBoxRoute x 6 0x10 (List.replicate 16 1)).targetCheck (wPkt wBoxRoute x 6 0x10 (List.replicate 16 1)) = .ok (.box 0 1 1) := by
    exact wAsk_box _ x _ _ _ (wAsk_arrival wBoxRoute x 6 0x10 (List.replicate 16 1) hx (by decide +kernel) (by decide +kernel) (by decide +kernel) (by decide +kernel) (by decide +kernel) (by decide +kernel))
      (by decide +kernel) (.box 0 1 1) (by decide +kernel)
  have b (x : Word) : ((wAsk wBoxRoute x 6 0x10 (List.replicate 16 1)).mail 0 1 1).length = 0 := rfl
  exact ⟨_, a _ rfl, b _⟩

/-- A route to the ring at offset 0x1000 of core 0, whose descriptor has two entries of 64 bytes at 0x1100. -/
def wRingRoute : RouteVal := ⟨0, 4 * 2 ^ 60 + 0x1000, 0x0000000200001000#64, 0⟩

theorem witness_TargetResults_ring : ∃ x, (wAsk wRingRoute x 9 0 (List.replicate 16 1)).targetCheck (wPkt wRingRoute x 9 0 (List.replicate 16 1)) =
    .ok (.ring 0 0x1000 wEpLaunch) :=
  have a (x : Word) (hx : sealTag 5 wRingRoute = x) :=
    wAsk_spad _ x _ _ _ (wAsk_arrival wRingRoute x 9 0 (List.replicate 16 1) hx (by decide +kernel) (by decide +kernel) (by decide +kernel) (by decide +kernel) (by decide +kernel) (by decide +kernel))
      (by decide +kernel) (by decide +kernel) (.ring 0 0x1000 wEpLaunch) (by decide +kernel)
  ⟨_, a _ rfl⟩

/-- The descriptor that it finds there, and its state word. -/
theorem witness_TargetResults_strip : wRingRec.readLoc (.spad 0 0x1000) 64 = some (0x1100 + 2 * 2 ^ 32 + 64 * 2 ^ 64) ∧
    ringMalformed (0x1100 + 2 * 2 ^ 32 + 64 * 2 ^ 64) (shapeSpres wEpLaunch.words) = false ∧ 0 + 16 ≤ ringEsz (0x1100 + 2 * 2 ^ 32 + 64 * 2 ^ 64) ∧
    wRingRec.mem.isFull (spadKey 0 (ringState 0 (0x1100 + 2 * 2 ^ 32 + 64 * 2 ^ 64) 0) / 8) = false ∧
    wRingRec.readLoc (.spad 0 (ringState 0 (0x1100 + 2 * 2 ^ 32 + 64 * 2 ^ 64) 0)) 8 = some 0 ∧
    (wRingRec.writeLoc (.spad 0 (ringEntry 0 (0x1100 + 2 * 2 ^ 32 + 64 * 2 ^ 64) 0 + 0)) 16 1).isSome = true := by decide +kernel

/-- A request whose route is malformed, one without a right, and one that leaves its window. -/
theorem witness_TargetResults_refused : (wPkt { wPlain with w2 := 0x4000000F00000000 } 0 1 0 []).route.malformed = true ∧
    opAllowed (wPkt wBoxRoute 0 1 0 []) = false ∧ (wPkt wBoxRoute 0 1 0 []).malformed = false ∧
    (wPkt { wPlain with w2 := 0x0000000F00000100 } 0 1 0x100 []).route.len < 0x100 + 8 := by decide +kernel
/-! ### Packets at the switch, replies, keys and services -/

/-- A route of one hop through port 3. -/
def wHop : RouteVal := ⟨1 + 3 * 2 ^ 4, 0, 0x0000000F00000000#64, 0⟩

/-- A store at the switch, with port 3 in a state that may carry slot 0. -/
def wSwitch (r : RouteVal) (x : Word) (k : Link) : State :=
  let s := wAt (wItem (wPkt r x 2 0 (List.replicate 8 1)) (.atSwitch none) false []) id
  { s with fab := { s.fab with ports := s.fab.ports.set (3 : Fin 16) k } }

/-- A peer packet from Ethernet, a replicated packet that still waits for a leaf. -/
def wMerge : McastMerge := ⟨wStore 0, none, false, [3], 0⟩

theorem wSwitch_tag (r : RouteVal) (x : Word) (k : Link) (h : r.kslot = 0) (hx : sealTag 5 r = x) :
    ((wSwitch r x k).dropNet 0).tagOk { r with w3 := x } = true := by
  have hk : ((wSwitch r x k).dropNet 0).keySlot ({ r with w3 := x } : RouteVal).kslot = ⟨.current, 5⟩ := by
    have e : ({ r with w3 := x } : RouteVal).kslot = r.kslot := rfl
    rw [e, h]; rfl
  simp only [State.tagOk, hk, seal_ignores, hx]
  simp

theorem witness_SwitchResults : (∃ x, ((wSwitch wPlain x Link.reset).dropNet 0).tagOk { wPlain with w3 := x } = true) ∧
    (∃ x, ((wSwitch wHop x Link.reset).dropNet 0).tagOk { wHop with w3 := x } = true) ∧
    (let p := wPkt wHop 0 2 0 (List.replicate 8 1)
     p.malformed = false ∧ p.route.malformed = false ∧ opRequest p.op = true ∧ p.hopidx ≠ wHop.hc ∧ wHop.hop p.hopidx = 3 ∧ wPlain.kind ≠ 1 ∧ p.hopidx = wPlain.hc) ∧
    (wSwitch wHop 0 { Link.reset with state := .up, slotok := 1 }).mayLeave (.port 3) wHop = true ∧ (wSwitch wHop 0 Link.reset).mayLeave (.port 3) wHop = false ∧
    (let i := wItem ((wStore 0).reply 0x21 0 0 []) (.atSwitch none) true []
     (wNet [i]).fab.net[0]? = some i ∧ i.pkt.hopidx = 0 ∧ i.pkt.spkg = (wNet [i]).fab.pkgId.toNat) ∧
    (let p := (wPkt wHop 0 2 0 []).reply 0x21 0 0 []
     replyFrom p (.port 3) = true ∧ replyFrom p (.port 4) = false ∧ p.route.kind ≠ 1) ∧
    ({ State.reset with fab := { Fabric.reset with mcast := [wMerge] } } : State).fab.mcast[0]? = some wMerge ∧ State.reset.fab.mcast[0]? = none := by
  refine ⟨⟨_, wSwitch_tag wPlain _ _ (by decide +kernel) rfl⟩, ⟨_, wSwitch_tag wHop _ _ (by decide +kernel) rfl⟩, ?_⟩
  decide +kernel

/-- An outstanding load of the hart in slot 0. -/
def wReq : Req := ⟨0, 0, 1, 2, .pkg, .load 9 8 false, false, 0, 0, wPkt wPlain 0 1 0 []⟩

/-- Its reply at the source core. -/
def wReply : NetItem := wItem ((wPkt wPlain 0 1 0 []).reply 0x20 0 0 (List.replicate 8 7)) .arrived true []

/-- The hart waits for that reply; its route register 2 is slowed, and one of its packets is held back. -/
def wWaits : State :=
  { ws with
    h := { wHart with run := .memWait, gap := wHart.gap.set 2 ⟨64, 0, none, none, 0, false⟩ }
    c := { ws.c with reqs := [wReq], cycle := 5000 }
    fab := { ws.fab with net := [wReply, { wReply with pkt := { wReply.pkt with c4 := BitVec.ofNat 64 0x30, c5 := 2 ^ 48 * 2 + 2 ^ 32 * 9 } },
      { wItem (wPkt wPlain 0 3 0 []) .waiting false [] with pkt := { wPkt wPlain 0 3 0 [] with c5 := 2 ^ 48 * 2 } }] } }

theorem witness_ReplyResults : wWaits.fab.net[0]? = some wReply ∧ wReply.pkt.op = 0x20 ∧ ((wWaits.dropNet 0).core 0).reqOf wReply.pkt.qtag = some wReq ∧
    (wWaits.core 0).reqOf 9 = none ∧ wReq.injected.toNat ≤ (wWaits.core 0).cycle.toNat ∧
    (wWaits.fab.net[1]?).map (fun i => (i.pkt.op, i.pkt.rtreg, wWaits.c.reqOf i.pkt.qtag)) = some (0x30, 2, none) ∧
    (wWaits.holder 0 0).map (fun h => (h.gapOf 2).g) = some 64 ∧ 4096 ≤ (wWaits.c.cycle - 0).toNat ∧
    (∀ i ∈ State.reset.fab.net, State.reset.heldPacket 0 0 0 i = false) ∧ wWaits.fab.net.findIdx? (wWaits.heldPacket 0 0 2) = some 2 := by decide +kernel

/-- An atomic that has waited 2^20 cycles. -/
theorem witness_ReplyResults_again :
    (let r : Req := { wReq with kind := .atomic 9 8, pkt := wPkt wPlain 0 4 0 wAdd }
     let s : State := { ws with c := { ws.c with reqs := [r], cycle := 2 ^ 20 } }
     s.c.reqOf 0 = some r ∧ r.pkt.op = 4 ∧ r.retrans < 3 ∧ (r.retrans + 1) * 2 ^ 20 ≤ s.c.cycle.toNat - r.injected.toNat) ∧
    (let s : State := { ws with c := { ws.c with reqs := [wReq], cycle := 2 ^ 22 } }
     s.stillWaiting 0 wReq = false ∧ 2 ^ 22 ≤ (s.core 0).cycle.toNat - wReq.injected.toNat) := by decide +kernel

/-- A member of a domain whose lead is package 1, with slot 0 CURRENT, slot 1 PENDING and slot 2 ACCEPT. -/
def wMember (lead : DevId) : State :=
  { State.reset with fab := { Fabric.reset with
      slots := ((Fabric.reset.slots.set (0 : Fin 16) ⟨.current, 5⟩).set (1 : Fin 16) ⟨.pending, 6⟩).set (2 : Fin 16) ⟨.accept, 7⟩
      myId := 7, lead := lead, pkgId := 3, installWait := [(1, 9)], wraps := [.core 0], revs := [⟨.core 0, 4, none⟩] } }

theorem witness_KeyResults : (wMember 1).fab.pkgId ≠ 0 ∧ (wMember 1).fab.lead ≠ (wMember 1).fab.myId ∧ ((wMember 1).keySlot 3).state = .empty ∧
    ((wMember 1).keySlot 1).state = .pending ∧ ((wMember 1).keySlot 2).state = .accept ∧ (wMember 7).fab.lead = (wMember 7).fab.myId ∧
    ((wMember 7).slotIn .pending).isSome = true ∧ State.reset.fab.lead = State.reset.fab.myId ∧ State.reset.slotIn .pending = none ∧
    State.reset.slotIn .empty = some 0 ∧ ((1 : BitVec 4), (9 : DevId)) ∈ (wMember 7).fab.installWait ∧ ((2 : BitVec 4), (9 : DevId)) ∉ (wMember 7).fab.installWait ∧
    (CounterRef.core 0) ∈ (wMember 1).fab.wraps ∧ (CounterRef.core 1) ∉ (wMember 1).fab.wraps ∧ (wMember 1).fab.revs[0]? = some ⟨.core 0, 4, none⟩ ∧
    (wMember 1).fab.lead = 1 ∧ (1 : DevId) ≠ (wMember 1).fab.myId ∧ (wMember 7).fab.lead ≤ 8 ∧ (2 : DevId) < (wMember 7).fab.lead := by decide +kernel

/-- A route to the Wellhead. -/
def wWell : RouteVal := ⟨2 * 2 ^ 54, 3 * 2 ^ 60, 0x0000000800000000#64, 0⟩

/-- A service request as bytes. -/
def wSvc (n : Nat) : List Byte := bytesOf n 64

/-- Its checks at the Wellhead pass. -/
theorem wWell_check (n : Nat) (x : Word) (hx : sealTag 5 wWell = x) (hm : (wPkt wWell 0 0x10 0 (wSvc n)).malformed = false)
    (hr : (!opAllowed (wPkt wWell 0 0x10 0 (wSvc n)) || decide (wWell.rights / opRight (wPkt wWell 0 0x10 0 (wSvc n)).op % 2 = 0)) = false)
    (ho : ((wPkt wWell 0 0x10 0 (wSvc n)).op = 4 && atomicBad (wSvc n)) = false)
    (hb : ¬ wWell.len < (wPkt wWell 0 0x10 0 (wSvc n)).offset + accessWidth (wPkt wWell 0 0x10 0 (wSvc n))) :
    (wAsk wWell x 0x10 0 (wSvc n)).wellCheck (wPkt wWell x 0x10 0 (wSvc n)) = none := by
  have h := wAsk_arrival wWell x 0x10 0 (wSvc n) hx (by decide +kernel) (by show wWell.malformed = false; decide +kernel) hm ho hr hb
  simp only [State.wellCheck, h]
  have e : genOk (wAsk wWell x 0x10 0 (wSvc n)).fab.wellCtr (wAsk wWell x 0x10 0 (wSvc n)).fab.wellEg (wPkt wWell x 0x10 0 (wSvc n)).route =
      genOk ⟨0, 1⟩ 0 wWell := rfl
  rw [e]
  decide +kernel

/-- MINT, REVOKE, OPENM and QUERY for the reservation's first 4 KiB, and MINTM for a leaf through port 3. -/
def wMint : Nat := 1 + 1 * 2 ^ 16 + 3 * 2 ^ 32 + 0x1000 * 2 ^ 128
def wRevoke : Nat := 3 + 0x1000 * 2 ^ 128
def wOpenm : Nat := 4 + 0x1000 * 2 ^ 128 + 77 * 2 ^ 256
def wQuery : Nat := 5
def wMintm : Nat := 2 + 3 * 2 ^ 32 + 0x1000 * 2 ^ 128 + (2 ^ 54 + 2 ^ 22) * 2 ^ 192 + 77 * 2 ^ 256

theorem witness_ServiceResults_checks : ∃ x, ∀ n ∈ [wMint, wRevoke, wOpenm, wQuery, wMintm, 9],
    (wAsk wWell x 0x10 0 (wSvc n)).wellCheck (wPkt wWell x 0x10 0 (wSvc n)) = none := by
  have a (x : Word) (hx : sealTag 5 wWell = x) : ∀ n ∈ [wMint, wRevoke, wOpenm, wQuery, wMintm, 9],
      (wAsk wWell x 0x10 0 (wSvc n)).wellCheck (wPkt wWell x 0x10 0 (wSvc n)) = none := by
    intro n hn
    simp only [List.mem_cons, List.not_mem_nil, or_false] at hn
    obtain rfl | rfl | rfl | rfl | rfl | rfl := hn <;>
    exact wWell_check _ x hx (by decide +kernel) (by decide +kernel) (by decide +kernel) (by decide +kernel)
  exact ⟨_, a _ rfl⟩

/-- A topology in which port 3 reaches package 9, whose identifier is 4. -/
def wTopo : State :=
  { wAt (wItem (wPkt wWell 0 0x10 0 (wSvc wMint)) .arrived false []) id with
    fab := { (wAt (wItem (wPkt wWell 0 0x10 0 (wSvc wMint)) .arrived false []) id).fab with
      myId := 7, table := [(7, 3), (9, 4)], map := [⟨7, 3, none, 9, 2, none⟩, ⟨9, 2, none, 7, 3, none⟩] } }

theorem witness_ServiceResults : (∀ n ∈ [wMint, wRevoke, wOpenm, wQuery, wMintm], (dataNat (wSvc n) = n ∧ (wSvc n).length = 64 ∧ svcReserved n = false)) ∧
    svcReserved 9 = true ∧ svcSop wMint = 1 ∧ svcSop wRevoke = 3 ∧ svcSop wOpenm = 4 ∧ svcSop wQuery = 5 ∧ svcSop wMintm = 2 ∧
    (svcWindow wMint).targetBad = false ∧ svcEth wMint = false ∧ (wTopo.owned 0 (svcWindow wMint)).isSome = true ∧ (wTopo.owned 1 (svcWindow wMint)).isNone = true ∧
    wTopo.pathFrom 3 0 false = some [] ∧ wTopo.pathFrom 4 0 false = some [2] ∧ wTopo.pathFrom 5 0 false = none ∧ wTopo.currentSlot = some 0 ∧
    (svcShape wMintm).kind = 1 ∧ (svcShape wMintm).malformed = false ∧ (svcShape wMintm).tkind = 0 ∧ wTopo.leafPackages (svcShape wMintm) = [some 9] ∧
    (wTopo.reservationAt 0 0).isSome = true ∧ wTopo.reservationAt 1 0 = none ∧ wEpLaunch.eg? 0 = some 0 ∧
    (let m : PendingMintm := ⟨wItem (wPkt wWell 0 0x10 0 (wSvc wMintm)) .arrived false [], 1, []⟩
     let s : State := { wTopo with fab := { wTopo.fab with mintms := [m] } }
     s.fab.mintms[0]? = some m ∧ 0 < m.leaves ∧ (∀ a ∈ m.answers, a.1 ≠ 0)) := by
  and_intros <;> decide +kernel
/-! ### Storage, the host and the Sluice -/

/-- A page fault on the block 105 of namespace 1, through slot 2 of drive 0. -/
def wFault : FaultRec := ⟨1, 0x5000, 0x2000, BitVec.ofNat 64 (2 * 2 ^ 14 + 5 * 2 ^ 20), 0, 0, [(0, 0, 1)], [], 20, false⟩

/-- The same with its blocks marked busy. -/
def wMarked : FaultRec := { wFault with marked := true }

/-- A command of the hart: an operation on slot 2 of drive 0, with a count and a block. -/
def wCmd (op count blk : Nat) : SqCmd :=
  ⟨0, 0, 0, 1, 0, 0, bytesOf (op + 8 * 2 ^ 16 + count * 2 ^ 128 + blk * 2 ^ 160) 32, ⟨0, 0⟩, Vector.replicate 16 0, 0, false, 0, 0, none⟩

/-- A drive command of transfer 3. -/
def wNvme : NvmeCmd := ⟨9, 0, 1, 700, 1, false, .flush 3, 3, none, 0⟩

/-- The Siphon with that slot, a pool that keeps a frame, faults, commands in flight with their busy range, and commands of the hart. -/
def wSip (f : FaultRec) (cs : List NvmeCmd) (sq : List SqCmd) : State :=
  { ws with
    sip := { Siphon.reset with
      drives := 1, ns := [⟨0, 1, 10000, true⟩], slots := [⟨0, 2, 0, 1, 100, 1000, false⟩], faults := [f]
      pools := [⟨0, true, 0, 0x40000000, 0, 0, 1, 0, 0, [(0, 0x50000000)]⟩], cmds := cs, busy := [⟨0, 1, 700, 1, 3⟩], sq := sq }
    hst := { ws.hst with enclaves := [⟨0, 1, [0], [], 0, []⟩] } }

theorem witness_StorageService : (let s := wSip wFault [wNvme] []
    s.sip.faults[0]? = some wFault ∧ s.unserviceable wFault = none ∧
    s.slot? (leafDrive wFault.leaf) (leafSlot wFault.leaf) = some ⟨0, 2, 0, 1, 100, 1000, false⟩ ∧ s.driveHeld 0 = false ∧
    s.isBusy 0 1 105 1 = false ∧ s.isBusy 0 1 700 1 = true ∧ s.faultsInFlight none < 1024 ∧ s.faultsInFlight (some 0) < 256 ∧
    s.waitsBefore 20 0 1 105 1 = false ∧ (∀ g ∈ s.sip.faults.take 0, s.mayStart g = false) ∧
    (s.takeFrame 0 0).2 = some 0x50000000 ∧ (s.takeFrame 1 0).2 = none ∧
    s.sip.cmds.find? (fun c => c.cid == 9) = some wNvme ∧ (∀ x ∈ s.sip.cmds.filter (fun x => x.cid != 9), x.xfer ≠ wNvme.xfer) ∧
    s.sip.busy[0]? = some ⟨0, 1, 700, 1, 3⟩ ∧ (∃ c ∈ s.sip.cmds, c.xfer = 3) ∧ s.sip.cycle < wNvme.since + 2000000000) ∧
    (wSip wMarked [] []).sip.faults[0]? = some wMarked ∧ wMarked.marked = true ∧ (wSip wMarked [] []).unserviceable wMarked = none ∧
    State.reset.unserviceable wFault = some 2 ∧ State.reset.sip.faults[0]? = none ∧
    (let s := wSip wFault [wNvme, { wNvme with cid := 10 }] []; ∃ x ∈ s.sip.cmds.filter (fun x => x.cid != 9), x.xfer = wNvme.xfer) ∧
    (let s := wSip wFault [] []; ∀ c ∈ s.sip.cmds, c.xfer ≠ 3) ∧
    (let s : State := { State.reset with sip := { Siphon.reset with resetting := 1, cycle := 10000000000 } }
     s.driveHeld 0 = true ∧ s.sip.resetAt.get 0 + 10000000000 ≤ s.sip.cycle) ∧
    (let s : State := { wSip wFault [wNvme] [] with sip := { (wSip wFault [wNvme] []).sip with cycle := 2000000000, timeouts := [(0, 1), (0, 2)] } }
     wNvme.since + 2000000000 ≤ s.sip.cycle ∧
     3 ≤ ((wNvme.drive, s.sip.cycle) :: s.sip.timeouts.filter fun t => t.1 == wNvme.drive && decide (s.sip.cycle < t.2 + 60000000000)).length) ∧
    inFirmware 0 = false ∧ inFirmware 0x7FFFFFFC0 = true := by and_intros <;> decide +kernel

theorem witness_StorageCommands : (∀ q ∈ [wCmd 1 1 5, wCmd 2 1 0, wCmd 3 1 5, wCmd 4 0 0, wCmd 5 10 1, wCmd 6 0 0, wCmd 7 0 0],
      (let s := wSip wFault [] [q]; s.sip.sq[0]? = some q ∧ q.started = false ∧ s.cmdFree q = true ∧ s.sqRefused q = none)) ∧
    (wCmd 1 1 5).op = 1 ∧ (wCmd 7 0 0).op = 7 ∧ (wSip wFault [] []).slot? (wCmd 1 1 5).drive (wCmd 1 1 5).slotIdx = some ⟨0, 2, 0, 1, 100, 1000, false⟩ ∧
    (wSip wFault [] []).isBusy (wCmd 1 1 5).drive 1 105 1 = false ∧ (wSip wFault [] [wCmd 1 1 5]).waitsBefore (wCmd 1 1 5).id 0 1 105 1 = false ∧
    (wSip wFault [] []).driveHeld 0 = false ∧ CommandEvent (.writeback 0) 0 (wCmd 1 1 5).op ∧
    (wSip wFault [] [wCmd 1 1 999]).sqRefused (wCmd 1 1 999) = none ∧ (wSip wFault [] [wCmd 1 1 1000]).sqRefused (wCmd 1 1 1000) = some 6 ∧
    ((wSip wFault [] []).pool? 0).isSome = true ∧ ((wSip wFault [] []).pool? 1).isNone = true ∧
    (let s : State := { ws with hst := { ws.hst with heldMsgs := [⟨0, 0, 1, 5⟩] } }
     s.hst.heldMsgs[0]? = some ⟨0, 0, 1, 5⟩ ∧ (s.mail 0 0 1).length < 16) ∧
    (let s : State := { ws with hst := { ws.hst with heldMsgs := [⟨0, 0, 1, 5⟩], mbox := [⟨0, 0, 1, List.replicate 16 0⟩] } }
     16 ≤ (s.mail 0 0 1).length) := by unfold CommandEvent; and_intros <;> decide +kernel

/-- Virtual function 1 in a state, on a package that is ready. -/
def wFn (f : Func) : State :=
  { wReady with
    hst := { HostSide.reset with funcs := [f], cycle := 5, enclaves := [⟨1, 1, [0], [], 0, []⟩] } }

/-- Virtual function 1, whose interface runs with one entry to fetch and one completion held. -/
def wRun : Func := { Func.reset 1 with tstate := .run, rst := 1, tail := 1, ringlog := 6, cpllog := 6, encl := 1, session := true, hb := 10, held := [⟨5, 1, 0, 0, 0⟩] }

/-- A ring entry for it. -/
def wEntry (n : Word) : RingEntry := ⟨n, 1, true, []⟩

theorem witness_HostRings : State.reset.vfOk 1 = false ∧ (wFn wRun).vfOk 1 = true ∧ (wFn wRun).vfOk 2 = true ∧ (wFn wRun).vfOk 3 = false ∧ (wFn wRun).func 1 = wRun ∧
    (wFn (Func.reset 1)).vfOk 1 = true ∧ ((wFn (Func.reset 1)).func 1).tstate = .unlocked ∧
    (wFn { wRun with tstate := .error }).vfOk 1 = true ∧ ((wFn { wRun with tstate := .error }).func 1).tstate = .error ∧ (wFn wRun).isReady = true ∧
    (0x18 : BitVec 14).toNat < 0x20 ∧ (0x20F8 : BitVec 14).toNat = 0x2000 + 8 * 31 ∧ wRun.isLocked = true ∧ (Func.reset 1).isLocked = false ∧ wRun.fetches = true ∧
    (wEntry 0).fn = wRun.fn.setWidth 16 ∧ (wEntry 0).rsvZero = true ∧ wRun.eseq ≤ (wEntry 1).seq ∧ (wEntry 0).seq < ({ wRun with eseq := 1 } : Func).eseq ∧
    ({ wRun with eseq := 0x100000000 } : Func).fetches = true ∧ wRun.held = [⟨5, 1, 0, 0, 0⟩] ∧ (wRun.cpltail - wRun.cplhead).toNat < 2 ^ wRun.cpllog.toNat ∧
    wRun.cseq ≠ 0x100000000 := by decide +kernel

/-- The same function, unlocked with a session, its rings and an enclave's parameters set. -/
def wOpen : Func := { Func.reset 1 with session := true, hb := 10, ringlog := 6, cpllog := 16, ks0 := ⟨some 3, true⟩, param := some (8, 4, true) }

theorem witness_InterfaceResults : (wFn wRun).func 1 = wRun ∧ wRun.session = true ∧ wRun.isLocked = true ∧ ((wFn wRun).enclave? wRun.encl).isSome = true ∧
    (wFn wOpen).func 1 = wOpen ∧ wOpen.isLocked = false ∧ wOpen.param = some (8, 4, true) ∧ wOpen.lockable = true ∧ (1 : BitVec 6) ≠ 0 ∧
    (wFn wRun).sessionOpen 1 = true ∧ (wFn wOpen).sessionOpen 1 = true ∧ (wFn wRun).pkg.image = some wImage ∧ State.reset.sessionOpen 1 = false ∧
    (wFn wOpen).usedKeys.length + 8 ≤ 63 ∧ (wFn wOpen).hst.enclaves.length < 255 ∧ (wFn (Func.reset 1)).fnOk 1 = true ∧ ((wFn (Func.reset 1)).func 1).session = false ∧
    ({ wRun with tstate := .locked } : Func).isLocked = true ∧ ({ wRun with head := 1 } : Func).head = wRun.tail ∧ wRun.head ≠ wRun.tail ∧
    ((wFn { wOpen with scrub := true, encl := 1 }).func 1).scrub = true ∧ (wFn { wOpen with scrub := true, encl := 1 }).slotsIdle 1 = true ∧
    (State.reset.func 0).session = false ∧ State.reset.fnOk 0 = false ∧ ((wFn wOpen).measure 1 3).isSome = true ∧ ((wFn wOpen).measure 0 16).isNone = true ∧
    SessionEvent (Instr.enclQuery 1) 1 := by
  and_intros
  all_goals first | decide +kernel | exact .inr (.inr (.inr (.inr (.inr (.inr (.inr (.inr (.inr rfl))))))))

/-- A packet of one cluster, one core and one hart, with a reservation of 64 KiB, from function 1. -/
def wPacket : Queued := ⟨[0, 0, 0, 0, 0x1000, BitVec.ofNat 64 (100 + 2 ^ 56 + 3 * 2 ^ 53), BitVec.ofNat 64 (16 * 2 ^ 23), 0], 1, .ring 1 0, ⟨0, 0⟩, 0⟩

/-- A package that is ready, with packets to validate and packets that wait in queue 0. -/
def wSluice (inbox wait : List Queued) (ls : List Launch) : State :=
  { wFn wRun with hst := { (wFn wRun).hst with inbox := inbox, waiting := (wFn wRun).hst.waiting.set (0 : Fin 32) wait, launches := ls } }

/-- Core 3 of cluster 2 at storage offset 0. -/
def wPlace : Placement := ⟨[(2, 3)], 0, 0⟩

theorem witness_SluiceResults_place : (wSluice [wPacket] [] []).hst.inbox[0]? = some wPacket ∧ badLaunch wPacket.words true = false ∧
    badLaunch [0, 0, 0, 0, 0, 0, 0, 0] true = true ∧ (wSluice [wPacket] [] []).pushReleased wPacket = true ∧
    (wSluice [wPacket] [] []).deniedLaunch { wPacket with words := wPacket.words.set 7 (BitVec.ofNat 64 (9 * 2 ^ 34)) } = true ∧
    (wSluice [] [wPacket] []).headOf 0 = some wPacket ∧ State.reset.headOf 0 = none ∧ (wSluice [] [wPacket] []).isReady = true ∧
    (wSluice [] [wPacket] []).placementOk wPacket wPlace (fun _ => false) = true ∧ (wSluice [] [wPacket] []).placementOk wPacket ⟨[(2, 3)], 1, 0⟩ (fun _ => false) = false ∧
    (wSluice [] [wPacket] []).headFirst 0 3 true = false ∧ (wSluice [] [wPacket] []).resumeFirst 0 3 true = false ∧
    (wSluice [] [wPacket] []).blockedBy 0 3 wPacket = false ∧ (wSluice [] [wPacket] []).headPrio 0 wPacket = 3 ∧ (wSluice [] [wPacket] []).hst.cycle < wPacket.since + 10 ^ 6 := by decide +kernel

/-- A launch on core 0 that is swapped out by the Sluice. -/
def wOut : Launch := { wLaunch with seated := false, preempted := true, splitAt := [(0, 1)], words := wPacket.words }

theorem witness_SluiceResults_resume : (wSluice [] [] [wOut]).launch? 1 = some wOut ∧ (wSluice [] [] [wOut]).canResume wOut = true ∧
    (wSluice [] [] [wOut]).headFirst 0 0 false = false ∧ (wSluice [] [] [wOut]).resumeFirst 0 0 false = false ∧
    (∀ h ∈ (wSluice [] [] [wOut]).hartsOf 1, Hart.ended wOut h = true) ∧ (wSluice [] [] [wOut]).launchDrained wOut = true ∧ (wSluice [] [] [wOut]).blockBusy wOut = false ∧
    State.reset.launch? 1 = none := by decide +kernel
/-- Every line reads where none is poisoned and none is sealed under another key than that of id 0. -/
theorem reads_all (s : State) (pa n : Nat) (hp : s.mem.hpoison = []) (hs : s.mem.sealed = []) (hk : s.hst.keySerial.toList.getD 0 0 ≠ 0) :
    s.readHbm pa n 0 = some (cellsNat s.mem.hbm pa n) := by
  have h : s.linesRead pa n 0 = true := by
    simp only [State.linesRead, List.all_eq_true]
    intro i _
    simp only [State.lineReads, hp, hs, sealGet]
    simp only [List.contains_nil, Bool.not_false, Bool.true_and, Bool.and_eq_true, bne_iff_ne, ne_eq, hk, not_false_eq_true, true_and]
    simp
  simp [State.readHbm, h]

/-- The table is in use. -/
theorem monitorTab_en : monitorTab.getLsbD 0 = true := by
  unfold monitorTab
  generalize Config.asidTab.toNat = n
  have h : ∀ a : Nat, a % 2 = 1 → (BitVec.ofNat 64 a).getLsbD 0 = true := by
    intro a ha
    simp [BitVec.getLsbD_ofNat, ha]
  apply h
  omega

/-- A table at `b` whose first entry is in use and belongs to enclave 1. -/
theorem table_owned (s : State) (b : Nat) (hb : fldN s.c.asidtab 20 28 * 2 ^ 20 = b) (hm : s.mem.hbm = [(b, 1), (b + 8, 1)])
    (hp : s.mem.hpoison = []) (hs : s.mem.sealed = []) (hk : s.hst.keySerial.toList.getD 0 0 ≠ 0) (he : s.c.asidtab.getLsbD 0 = true) :
    s.asidOwned 0 1 = true := by
  have c0 : cellsNat [(b, (1 : Byte)), (b + 8, 1)] b 8 = 1 := by
    simp only [cellsNat, cellGet]
    simp
    and_intros <;> (rw [if_neg (by omega)]; rfl)
  have c1 : cellsNat [(b, (1 : Byte)), (b + 8, 1)] (b + 8) 8 = 1 := by
    simp only [cellsNat, cellGet]
    simp
    and_intros <;> (rw [if_neg (by omega)]; rfl)
  simp only [State.asidOwned, State.asidLo, State.asidEncl, Nat.mul_zero, Nat.add_zero, hb, reads_all s _ 8 hp hs hk, hm, c0, c1, he]
  decide

/-- The monitor's table gives address space 0 to enclave 1. -/
def wTable (b : Nat) : State :=
  { State.reset with
    mem := { Mem.reset with hbm := [(b, 1), (b + 8, 1)] }
    hst := { HostSide.reset with inbox := [wPacket], keySerial := HostSide.reset.keySerial.set (0 : Fin 64) 1 } }

theorem witness_SluiceResults_granted : ∃ b, (wTable b).deniedLaunch wPacket = false ∧ (wTable b).hst.inbox[0]? = some wPacket := by
  have e : fldN (pktWord wPacket.words 7) 34 8 = 0 ∧ fldN (pktWord wPacket.words 4) 48 16 = 0 ∧ wPacket.encl = 1 := by decide +kernel
  have hk : (HostSide.reset.keySerial.set (0 : Fin 64) 1).toList.getD 0 0 ≠ 0 := by decide +kernel
  have h (b : Nat) (hb : fldN monitorTab 20 28 * 2 ^ 20 = b) : (wTable b).asidOf 0 1 = true :=
    table_owned _ b hb rfl rfl rfl hk monitorTab_en
  refine ⟨fldN monitorTab 20 28 * 2 ^ 20, ?_, rfl⟩
  simp only [State.deniedLaunch, e.1, e.2.1, e.2.2, h _ rfl]
  decide

/-- A packet for a core of every cluster, with almost all of their storage. -/
def wWhole : Queued :=
  ⟨[0, 0, 0, 0, 0x1000, BitVec.ofNat 64 (100 + 2 ^ 56 + 3 * 2 ^ 53), BitVec.ofNat 64 (31 + 7 * 2 ^ 12 + 319 * 2 ^ 23), 0], 0, .ring 1 0, ⟨0, 0⟩, 0⟩

/-- Its placement on the first cores, above what is reserved. -/
def wAll : Placement := ⟨(List.range 32).map fun c => (c, 0), 0, 0x1000⟩

/-- The packet waits for a launch of priority 0 that holds the seat of every core of cluster 0. -/
def wPre : State :=
  { State.reset with
    pkg := { Pkg.reset with bootstat := 1 }
    hst := { HostSide.reset with
      cycle := 10 ^ 6
      launches := [{ wLaunch with cores := List.range 128, words := [0, 0, 0, 0, 0, 0, BitVec.ofNat 64 (2 ^ 23), 0] }], waiting := HostSide.reset.waiting.set (0 : Fin 32) [wWhole] } }

theorem witness_SluiceResults_preempt : wPre.victimsOk 0 wWhole wAll [1] = true ∧ wPre.isReady = true ∧
    (∀ l ∈ wPre.hst.launches.filter fun l => [1].contains l.id, wPre.settled l = true) ∧ wPre.headOf 0 = some wWhole := by decide +kernel

theorem witness_SluiceResults_switch : (let s := { wSluice [] [] [wEpLaunch] with c := { Core.reset 0 with mencl := 2 } }
    let l : Launch := { wLaunch with encl := 1, seated := false }
    let s2 : State := { s with hst := { s.hst with launches := [{ wLaunch with encl := 2 }, l] } }
    (s2.core 0).mencl ≠ 1 ∧ (s2.enclave? 1).isSome = true ∧ s2.enclaveWaits 0 1 = true ∧ (∀ l ∈ (s2.placedOn 0).filter fun l => l.seated, s2.settled l = true)) := by decide +kernel

/-- A vector thread with an instruction that waits for the sequencer, on a core of split 2. -/
def wQueue : State := { ws with h := { wHart with vec := { wHart.vec with vq := [VqEntry.plain 0x00C40211 4 4 0 0] } }, c := { ws.c with split := 2 } }

theorem witness_EngineResults : (let u := wQueue.focusCore 0
     let rs := u.allHarts.filter (u.stripReady 0)
     ((u.noteReady rs).firstOf (u.noteReady rs).c rs).isSome = true) ∧
    (ws.focusCore 0).allHarts.filter ((ws.focusCore 0).stripReady 0) = [] ∧
    (1 : BitVec 2).toNat < wQueue.c.split ∧ wQueue.c.split ≤ (2 : BitVec 2).toNat ∧ State.reset.focusSlot 0 0 = none ∧ (ws.focusSlot 0 0).isSome = true ∧
    ws.h.run ≠ .swapped ∧ ws.h.run ≠ .memWait ∧ ws.h.deferred = none ∧ (wBound.h.binding 24).kind = 1 ∧ (ws.h.binding 24).kind ≠ 1 ∧
    (let s : State := { ws with c := { ws.c with copies := [wCopy] } }; (s.focusCore 0).c.copies.find? (s.focusCore 0).copyReady = some wCopy) ∧
    (ws.focusCore 0).c.copies.find? (ws.focusCore 0).copyReady = none ∧ (ws.core 0).weir = [] ∧
    (let k : CollAbort := ⟨0, 1, 0, 0, 0, 0⟩; let s : State := { ws with c := { ws.c with aborts := [k] } }
     (s.focusCore 0).c.aborts.find? (fun k => k.slot == 0 && k.launch == 1) = some k ∧ (s.focusCore 0).collPackets 0 1 = false ∧ (s.readLoc (.spad k.core k.off) 64).isSome = true) ∧
    (let s : State := { ws with h := { wHart with level := .user, csr := { wHart.csr with timecmp := 0, sstatus := 33, sie := 2 } } }
     s.h.csr.timecmp.toNat ≤ s.c.cycle.toNat ∧ s.dueSlot = 0) := by decide +kernel

/-- An add of two elements to a Q-sketch of S32 elements at offset 0 waits in the Weir of core 0. -/
def wAdds : WeirOp := ⟨0, 0, 1, 5, 0, 4, [3, 7], [1, 1], .core⟩

/-- That core, and its schedule. -/
def wWeir (r : List Turn) : State := { (wm ws 0 3 0x10403) with c := { ws.c with weir := [wAdds] }, sched := r }

theorem witness_EngineResults_weir : ((wWeir []).core 0).weirBusy 0 = some wAdds ∧ (wWeir []).cutNow = none ∧ ((wWeir [.cut 1]).core 0).weirBusy 0 = some wAdds ∧
    (wWeir [.cut 1]).cutNow = some 1 ∧ 5 ≤ wAdds.kind ∧ wAdds.kind ≤ 7 ∧ 1 < wAdds.elems.length ∧
    (runSteps ((wAdds.before 1).steps (wWeir [.cut 1]).mem) (wWeir [.cut 1]).mem).2 = true ∧ (ws.core 0).weirBusy 0 = none := by
  and_intros <;> decide +kernel

/-- R151: queues 3 (weight 2) and 7 (weight 1), each with a ready thread, and their charges. -/
def wCharges (c3 c7 : Nat) : State :=
  { ws with
    hst := { ws.hst with
      queues := ws.hst.queues.set (3 : Fin 32) 0x702#11
      launches := [{ wLaunch with queue := 3, prio := 1 }, { wLaunch with id := 2, queue := 7, prio := 1 }] }
    c := { ws.c with charge := (ws.c.charge.set (3 : Fin 32) c3).set (7 : Fin 32) c7 } }

/-- R151: queue 3 goes at the ratios 3,072 and 4,096 and at a tie, queue 7 once queue 3's ratio exceeds 4,096. -/
theorem test_r151 : (let a : Hart := { wHart with launch := 1 }; let b : Hart := { wHart with launch := 2, slot := 1 }
    (wCharges 6144 4096).goesBefore (wCharges 6144 4096).c a b = true ∧ (wCharges 8192 4096).goesBefore (wCharges 8192 4096).c a b = true ∧
    (wCharges 8704 4096).goesBefore (wCharges 8704 4096).c a b = false ∧ (wCharges 8704 4096).goesBefore (wCharges 8704 4096).c b a = true) := by decide +kernel

theorem witness_EngineResults_interrupt :
    (let s : State := { ws with
        h := { wHart with level := .user, csr := { wHart.csr with timecmp := 0, sstatus := 33, sie := 2, stvec := 1 } }, c := { ws.c with mdeleg := BitVec.ofNat 64 (2 ^ 33) } }
     ((s.focusCore 0).focusSlot 0 0).map (fun u => (u.interruptNow.isSome, decide (u.h.nextIssue ≤ u.c.cycle))) = some (true, true)) ∧
    ((ws.focusCore 0).focusSlot 0 0).map (fun u => u.interruptNow.isNone) = some true ∧
    (let s : State := { ws with h := { wHart with deferred := some ⟨0x10, 0⟩ } }
     ((s.focusCore 0).focusSlot 0 0).map (fun u => (u.h.vec.pump.state, u.h.deferred)) = some (0, some ⟨0x10, 0⟩)) := by decide +kernel

/-- The state in which the very next step runs `add p9, p10, c4`. -/
def wStep : State := State.reset.withFetchWord 32 0x01450482

theorem witness_StepRunsDecoded : wStep.sched = [] ∧ (∃ u hit w, Due wStep u ∧ u.check u.h.pc 4 4 .fetch = .ok hit ∧ (u.fill hit.fill).readLoc hit.loc 4 = some w ∧
    decode (BitVec.ofNat 32 w) = .add 9 10 20 ∧ (decode (BitVec.ofNat 32 w)).wellFormed = true ∧ u.h.vec.pump.state ≠ 1 ∧ u.h.marked = [] ∧ ∀ r ∈ u.c.reqs, r.marked = false) := by
  refine ⟨rfl, ?_⟩
  let u := (({ wStep with c := wStep.c.settle } : State).focusSlot wStep.c.id ({ wStep with c := wStep.c.settle } : State).dueSlot).getD wStep
  have hu : ({ wStep with c := wStep.c.settle } : State).focusSlot wStep.c.id ({ wStep with c := wStep.c.settle } : State).dueSlot = some u := by decide +kernel
  let hit : Hit := match u.check u.h.pc 4 4 .fetch with
    | .ok h => h
    | .error _ => ⟨.spad 0 0, none⟩
  refine ⟨u, hit, 0x01450482, ⟨?_, hu, ?_, ?_, ?_, ?_, ?_, ?_⟩, ?_, ?_, ?_, ?_, ?_, ?_, ?_⟩ <;> decide +kernel

theorem witness_StepRunsDecoded_turns :
    (let s : State := { State.reset with sched := [.event (.timecmpReached 0 0)] }
     s.sched = .event (.timecmpReached 0 0) :: [] ∧ (Instr.timecmpReached 0 0).isWord = false ∧ s.pkg.fault = false ∧ inFault (.timecmpReached 0 0) = false) ∧
    (let s : State := { State.reset with sched := [.late 3] }; s.sched = .late 3 :: []) ∧ (let s : State := { State.reset with sched := [.perform 0 0] }; s.sched = .perform 0 0 :: []) ∧
    State.reset.admits (.timecmpReached 0 0) = true ∧
    ({ State.reset with pkg := { Pkg.reset with pwrgood := false } } : State).admits (.timecmpReached 0 0) = false ∧
    (Instr.add 1 2 3).isWord = true ∧ ({ State.reset with sched := [.visit 5] } : State).sched = [.visit 5] := by decide +kernel

theorem witness_RoundTrip : (Instr.add 9 10 20).isWord = true ∧ (Instr.add 9 10 20).wellFormed = true := by decide

theorem witness_StorageKept : StorageWf wStep ∧ (match step wStep with
    | .next _ => true
    | _ => false) = true := by
  unfold StorageWf; constructor <;> decide +kernel
end Sys2Proof.Tests
end

section
/-! Proofs about the package itself (01_package.md): reset, bring-up, configuration requests and management, power, temperature and soft errors.
First what the shared operations do to cores, functions and interfaces, then one part for each statement. -/

namespace Sys2Proof.Machine

open Sys2Proof.Safety

/-! ## Lists -/

/-- Taking out the entries of one key does not change what is found under another. -/
theorem find?_filter_ne {α κ : Type} [DecidableEq κ] (key : α → κ) {a b : κ} (h : a ≠ b) (l : List α) :
    (l.filter (key · != b)).find? (key · == a) = l.find? (key · == a) := by
  rw [List.find?_filter]
  congr 1
  funext x
  by_cases hx : key x = a
  · simp [hx, h]
  · simp [hx]

/-- A fold keeps what every one of its steps keeps. -/
theorem foldl_keeps {α β γ : Type} (g : α → γ) {f : α → β → α} (h : ∀ a b, g (f a b) = g a) (l : List β) (a : α) : g (l.foldl f a) = g a := by
  induction l generalizing a with
  | nil => rfl
  | cons b l ih => rw [List.foldl_cons, ih, h]

/-! ## Cores -/

/-- A core by number has that number. -/
@[simp] theorem State.core_id (s : State) (n : Nat) : (s.core n).id = n := by
  unfold State.core
  split
  · assumption
  · cases e : s.cores.find? (·.id == n) with
    | none => rfl
    | some c => simpa using List.find?_some e

/-- Reading a core after one was written back. -/
theorem State.core_putCore (s : State) (c : Core) (n : Nat) : (s.putCore c).core n = if n = c.id then c else s.core n := by
  unfold State.core State.putCore
  by_cases hf : s.c.id = c.id
  · by_cases hn : n = c.id
    · simp [hf, hn]
    · simp [hf, hn, Ne.symm hn]
  · by_cases hn : n = c.id
    · subst hn
      simp [hf]
    · simp [hf, hn, Ne.symm hn, find?_filter_ne Core.id hn]

/-- Reading a core after a function was applied to each core of a list. -/
theorem State.core_foldl_putCore {f : Core → Core} (hf : ∀ c, (f c).id = c.id) {l : List Nat} (hl : l.Nodup) (s : State) (n : Nat) :
    (l.foldl (fun s m => s.putCore (f (s.core m))) s).core n = if n ∈ l then f (s.core n) else s.core n := by
  induction l generalizing s with
  | nil => rfl
  | cons m l ih =>
    obtain ⟨hm, hl⟩ := List.nodup_cons.mp hl
    rw [List.foldl_cons, ih hl, State.core_putCore, hf, State.core_id]
    by_cases hn : n = m
    · subst hn
      simp [hm]
    · simp [hn]

/-- The cores of a die by their numbers. -/
theorem mem_dieCores (die n : Nat) : n ∈ dieCores die ↔ die * 512 ≤ n ∧ n < die * 512 + 512 := by
  simp only [dieCores, List.mem_map, List.mem_range]
  constructor
  · rintro ⟨i, hi, rfl⟩
    omega
  · intro h
    exact ⟨n - die * 512, by omega, by omega⟩

theorem nodup_dieCores (die : Nat) : (dieCores die).Nodup :=
  List.nodup_range.map fun _ _ h => Nat.add_left_cancel h

/-- A core into whose rotation the governor inserts `k` more bubbles. -/
def Core.slowed (k : Nat) (c : Core) : Core := { c with bubbles := c.bubbles + k }

/-- Slowing every core of a die slows those cores and no other. -/
theorem State.core_slowDie (s : State) (die k n : Nat) :
    ((dieCores die).foldl (fun s m => s.putCore ((s.core m).slowed k)) s).core n =
      if die * 512 ≤ n ∧ n < die * 512 + 512 then (s.core n).slowed k else s.core n := by
  rw [State.core_foldl_putCore (f := Core.slowed k) (fun _ => rfl) (nodup_dieCores die)]
  simp only [mem_dieCores]

/-! ## Functions -/

/-- A function by number has that number. -/
@[simp] theorem State.func_fn (s : State) (fn : BitVec 6) : (s.func fn).fn = fn := by
  unfold State.func
  cases e : s.hst.funcs.find? (·.fn == fn) with
  | none => rfl
  | some f => simpa using List.find?_some e

/-- A function reads the same wherever the list of functions is the same. -/
theorem State.func_congr {s t : State} (h : t.hst.funcs = s.hst.funcs) (fn : BitVec 6) : t.func fn = s.func fn := by
  unfold State.func
  rw [h]

/-- Reading a function after one was written back. -/
theorem State.func_putFunc (s : State) (f : Func) (fn : BitVec 6) : (s.putFunc f).func fn = if fn = f.fn then f else s.func fn := by
  unfold State.func State.putFunc
  by_cases hn : fn = f.fn
  · simp [hn]
  · simp [hn, Ne.symm hn, find?_filter_ne Func.fn hn]

/-! ## What the end of enclaves, interfaces and links leaves unchanged -/

@[simp] theorem State.wipeBanks_pkg (s : State) (l : Launch) : (s.wipeBanks l).pkg = s.pkg := by
  unfold State.wipeBanks
  split
  · exact foldl_keeps State.pkg (by intros; simp) _ _
  · rfl
@[simp] theorem State.wipeBanks_hst (s : State) (l : Launch) : (s.wipeBanks l).hst = s.hst := by
  unfold State.wipeBanks
  split
  · exact foldl_keeps State.hst (by intros; simp) _ _
  · rfl

@[simp] theorem State.scrubLaunch_pkg (s : State) (l : Launch) : (s.scrubLaunch l).pkg = s.pkg := State.wipeBanks_pkg s l
@[simp] theorem State.scrubLaunch_funcs (s : State) (l : Launch) : (s.scrubLaunch l).hst.funcs = s.hst.funcs :=
  (congrArg HostSide.funcs (State.wipeBanks_hst s l) :)

@[simp] theorem State.revokeHbm_pkg (s : State) (e : HbmEp) : (s.revokeHbm e).2.pkg = s.pkg := State.noteWrap_pkg ..
@[simp] theorem State.revokeHbm_hst (s : State) (e : HbmEp) : (s.revokeHbm e).2.hst = s.hst := State.noteWrap_hst ..

@[simp] theorem State.zeroiseKeys_pkg (s : State) (e : Enclave) : (s.zeroiseKeys e).pkg = s.pkg :=
  foldl_keeps State.pkg (fun _ _ => State.revokeHbm_pkg ..) _ _
@[simp] theorem State.zeroiseKeys_funcs (s : State) (e : Enclave) : (s.zeroiseKeys e).hst.funcs = s.hst.funcs := by
  have hst (l : List HbmEp) : (l.foldl (fun s p => (s.revokeHbm p).2) s).hst = s.hst := foldl_keeps State.hst State.revokeHbm_hst l s
  simp only [State.zeroiseKeys, hst]

@[simp] theorem State.scrub_pkg (s : State) (encl : Byte) : (s.scrub encl).pkg = s.pkg := by
  unfold State.scrub
  split
  · rfl
  · exact (State.zeroiseKeys_pkg ..).trans (foldl_keeps State.pkg State.scrubLaunch_pkg _ _)
@[simp] theorem State.scrub_funcs (s : State) (encl : Byte) : (s.scrub encl).hst.funcs = s.hst.funcs := by
  unfold State.scrub
  split
  · rfl
  · have launches (l : List Launch) : (l.foldl State.scrubLaunch s).hst.funcs = s.hst.funcs :=
      foldl_keeps (fun t : State => t.hst.funcs) State.scrubLaunch_funcs l s
    simp [launches]

@[simp] theorem State.toError_pkg (s : State) (f : Func) (ring : Option (BitVec 4)) (msix : Bool) : (s.toError f ring msix).pkg = s.pkg := by
  unfold State.toError
  split
  · rfl
  · dsimp only
    split <;> simp

@[simp] theorem State.faultFunc_pkg (s : State) (f : Func) : (s.faultFunc f).pkg = s.pkg := by
  unfold State.faultFunc
  split <;> simp

@[simp] theorem State.answerCopy_pkg (s : State) (p : Packet) (second : Bool) (port : Nat) (bits : McastMerge → Nat) :
    (s.answerCopy p second port bits).pkg = s.pkg := by
  unfold State.answerCopy
  (repeat' split) <;> simp
@[simp] theorem State.answerCopy_hst (s : State) (p : Packet) (second : Bool) (port : Nat) (bits : McastMerge → Nat) :
    (s.answerCopy p second port bits).hst = s.hst := by
  unfold State.answerCopy
  (repeat' split) <;> simp

@[simp] theorem State.unreachQueued_pkg (s : State) (l : LinkRef) (p : Packet) : (s.unreachQueued l p).pkg = s.pkg := by
  unfold State.unreachQueued
  split
  · rfl
  · extract_lets j
    clear_value j
    cases l with
    | port q =>
      dsimp only
      split
      · exact State.answerCopy_pkg ..
      · exact State.refuse_pkg ..
    | peer e i => exact State.refuse_pkg ..
@[simp] theorem State.unreachQueued_hst (s : State) (l : LinkRef) (p : Packet) : (s.unreachQueued l p).hst = s.hst := by
  unfold State.unreachQueued
  split
  · rfl
  · extract_lets j
    clear_value j
    cases l with
    | port q =>
      dsimp only
      split
      · exact State.answerCopy_hst ..
      · exact State.refuse_hst ..
    | peer e i => exact State.refuse_hst ..

@[simp] theorem State.linkDown_pkg (s : State) (l : LinkRef) (st : LinkState) : (s.linkDown l st).pkg = s.pkg := by
  unfold State.linkDown
  dsimp only
  split
  · simp
  · exact (foldl_keeps State.pkg (fun _ _ => State.unreachQueued_pkg ..) _ _).trans (State.setLink_pkg ..)
@[simp] theorem State.linkDown_hst (s : State) (l : LinkRef) (st : LinkState) : (s.linkDown l st).hst = s.hst := by
  unfold State.linkDown
  dsimp only
  split
  · simp
  · exact (foldl_keeps State.hst (fun _ _ => State.unreachQueued_hst ..) _ _).trans (State.setLink_hst ..)

@[simp] theorem State.dropLink_pkg (s : State) (l : LinkRef) : (s.dropLink l).pkg = s.pkg := by simp [State.dropLink]
@[simp] theorem State.dropLink_hst (s : State) (l : LinkRef) : (s.dropLink l).hst = s.hst := by simp [State.dropLink]

/-! ## FAULT (01_package.md R29) -/

/-- An interface that is locked or runs goes to ERROR, and no other changes its state. -/
theorem State.toError_tstate (s : State) {f : Func} (hf : f.isLocked = true) (ring : Option (BitVec 4)) (msix : Bool) (g : BitVec 6) :
    ((s.toError f ring msix).func g).tstate = if g = f.fn then .error else (s.func g).tstate := by
  have funcs : (s.toError f ring msix).hst.funcs =
      (s.putFunc { f with tstate := .error, rst := 2, hcause := f.errorCause ring, scrub := true, resumeOk := false }).hst.funcs := by
    unfold State.toError
    rw [if_neg (by simp [hf])]
    dsimp only
    split
    · exact State.scrub_funcs ..
    · exact State.scrub_funcs ..
  rw [State.func_congr funcs, State.func_putFunc]
  split <;> rfl

/-- FAULT takes one interface to ERROR and no other. -/
theorem State.faultFunc_tstate (s : State) (fn g : BitVec 6) :
    ((s.faultFunc (s.func fn)).func g).tstate = if g = fn then .error else (s.func g).tstate := by
  unfold State.faultFunc
  split
  · rw [State.func_putFunc]
    simp only [State.func_fn]
    split <;> rfl
  · by_cases hl : (s.func fn).isLocked = true
    · rw [State.toError_tstate s hl, State.func_fn]
    · have he : (s.func fn).tstate = .error := by
        cases h : (s.func fn).tstate <;> simp_all [Func.isLocked]
      have same : s.toError (s.func fn) none true = s := by simp [State.toError, hl]
      rw [same]
      split
      · subst_vars
        exact he
      · rfl

/-- FAULT takes a list of interfaces to ERROR and no other. -/
theorem State.foldl_faultFunc_tstate (l : List (BitVec 6)) (s : State) (g : BitVec 6) :
    ((l.foldl (fun s fn => s.faultFunc (s.func fn)) s).func g).tstate = if g ∈ l then .error else (s.func g).tstate := by
  induction l generalizing s with
  | nil => rfl
  | cons fn l ih =>
    rw [List.foldl_cons, ih, State.faultFunc_tstate]
    by_cases h : g = fn <;> simp [h]

/-- A package that enters FAULT is in the state that R29 gives. -/
theorem State.enterFault_faulted {s : State} (h : s.pkg.fault = false) (code : Nat) : Faulted s (s.enterFault code) code := by
  unfold State.enterFault
  rw [if_neg (by simp [h])]
  extract_lets b _ s1 s2 s3
  have pkg2 : s2.pkg = s1.pkg := foldl_keeps State.pkg (fun _ _ => State.faultFunc_pkg ..) _ _
  have error (fn : BitVec 6) (hfn : fn ∈ s.interfaces) : (s2.func fn).tstate = .error :=
    (State.foldl_faultFunc_tstate ..).trans (if_pos hfn)
  have pkg3 : s3.pkg = s2.pkg := foldl_keeps State.pkg State.dropLink_pkg _ _
  have hst3 : s3.hst = s2.hst := foldl_keeps State.hst State.dropLink_hst _ _
  clear_value s3 s2
  refine ⟨pkg3.trans pkg2, rfl, fun q => by simp [Vector.get], fun fn hfn => ?_⟩
  rw [← error fn hfn, ← State.func_congr (congrArg HostSide.funcs hst3)]
  rfl

/-! ## The package right after reset (01_package.md R17) -/

/-- After reset every core is at its reset value. -/
theorem State.core_reset (n : Nat) : State.reset.core n = Core.reset n := by
  unfold State.core
  split
  case isTrue h =>
    subst h
    rfl
  case isFalse => rfl

/-- After reset every fabric port is at its reset value. -/
theorem State.link_reset (p : BitVec 4) : State.reset.link (.port p) = Link.reset := by
  simp [State.link, State.reset, Fabric.reset, Vector.get_eq_getElem]

/-- After reset every key slot is EMPTY. -/
theorem State.keySlot_reset (k : BitVec 4) : State.reset.keySlot k = ⟨.empty, 0⟩ := by
  simp [State.keySlot, State.reset, Fabric.reset, Vector.get_eq_getElem]

/-- After reset every queue register has WEIGHT 1, MAXPRIO 3 and EN 1. -/
theorem State.queues_reset (q : Fin 32) : State.reset.hst.queues.get q = BitVec.ofNat 11 (1 + 3 * 2 ^ 8 + 1 * 2 ^ 10) := by
  simp [State.reset, HostSide.reset, Vector.get_eq_getElem]

/-- Settles O60: each register of the reset state by its definition; that storage lists nothing is log entry 3. -/
theorem resetState : Obligations.ResetState := by
  unfold Obligations.ResetState
  refine ⟨?storage, rfl, rfl, rfl, fun p => ?link, State.keySlot_reset, State.queues_reset, fun fn => ⟨rfl, rfl, rfl⟩, rfl, rfl, fun n => ?core⟩
  case storage => exact (by decide : Mem.reset.wf = true)
  case link =>
    rw [State.link_reset]
    rfl
  case core =>
    rw [State.core_reset]
    exact ⟨rfl, rfl, rfl⟩

/-! ## Bring-up (01_package.md R17 to R24) -/

/-- The phase shown in a BOOTSTAT that was just written. -/
theorem State.setPhase_shown (s : State) (b : BitVec 32) (n : Nat) : ({ s with pkg := { s.pkg with bootstat := b } } : State).setPhase n =
    { s with pkg := { s.pkg with bootstat := putBits b 1 3 n } } := rfl

/-- The model's test of the phase is the statement's. -/
theorem State.inPhase_iff (s : State) (n : Nat) : s.inPhase n = true ↔ InPhase s n := by
  simp [State.inPhase, State.phase, InPhase, fldN]

/-- While bring-up is in a phase, the guard of that phase's event lets it through. -/
theorem State.inPhase_guard {s : State} {n : Nat} (h : InPhase s n) : ¬ (!s.inPhase n) = true := by
  simp [(s.inPhase_iff n).mpr h]

/-- With no bring-up running, no phase is in progress. -/
theorem State.not_inPhase {s : State} (h : s.pkg.booting = false) (n : Nat) : s.inPhase n = false := by
  simp [State.inPhase, h]

/-- A failure of bring-up. -/
theorem State.bootFail_eq (s : State) (n code : Nat) : s.bootFail n code = Halted s n code := rfl

/-- An image is accepted when its signature verifies and its version is not below the minimum. -/
theorem State.accepts_eq_some {s : State} {i : Option FlashImage} {g : FlashImage} :
    s.accepts i = some g ↔ i = some g ∧ g.sigOk = true ∧ s.pkg.minVersion ≤ g.secver := by
  simp [State.accepts, Option.filter_eq_some_iff]

/-- An image is refused when there is none or its checks fail. -/
theorem State.accepts_eq_none {s : State} {i : Option FlashImage} :
    s.accepts i = none ↔ ∀ a, i = some a → ¬ (a.sigOk = true ∧ s.pkg.minVersion ≤ a.secver) := by
  simp [State.accepts, Option.filter_eq_none_iff]

/-- The Image phase runs the image that is chosen. -/
theorem execImagePhase_chosen {s : State} {g : FlashImage} {b : Nat} (h : InPhase s 2) (hc : Chosen s g b) :
    execImagePhase true s = .next (s.runImage g (b == 1)) := by
  obtain ⟨⟨sig, ver⟩, ⟨rfl, hA⟩ | ⟨rfl, hB, hA⟩⟩ := hc
  · have slotA : s.accepts s.pkg.slotA = some g := State.accepts_eq_some.mpr ⟨hA, sig, ver⟩
    simp [execImagePhase, (s.inPhase_iff 2).mpr h, slotA]
  · have slotA : s.accepts s.pkg.slotA = none := State.accepts_eq_none.mpr hA
    have slotB : s.accepts s.pkg.slotB = some g := State.accepts_eq_some.mpr ⟨hB, sig, ver⟩
    simp [execImagePhase, (s.inPhase_iff 2).mpr h, slotA, slotB]

/-- The Image phase stops when no image can be chosen. -/
theorem execImagePhase_unchosen {s : State} (h : InPhase s 2) (hc : ∀ g b, ¬ Chosen s g b) :
    execImagePhase true s = .next (Halted s 2 0x02) := by
  have badA (a : FlashImage) (ha : s.pkg.slotA = some a) : ¬ (a.sigOk = true ∧ s.pkg.minVersion ≤ a.secver) := fun ok =>
    hc a 0 ⟨ok, .inl ⟨rfl, ha⟩⟩
  have slotA : s.accepts s.pkg.slotA = none := State.accepts_eq_none.mpr badA
  have slotB : s.accepts s.pkg.slotB = none := State.accepts_eq_none.mpr fun g hg ok => hc g 1 ⟨ok, .inr ⟨rfl, hg, badA⟩⟩
  simp [execImagePhase, (s.inPhase_iff 2).mpr h, slotA, slotB, State.bootFail_eq]

/-- The failure codes of the Dies phase. -/
theorem diesCode_iff (c : Nat) : diesCode c = true ↔ (16 ≤ c ∧ c ≤ 23) ∨ (32 ≤ c ∧ c ≤ 41) ∨ c = 48 := by
  simp [diesCode, or_assoc]

/-- The first route key changes neither a hart, nor storage, nor the package's own registers. -/
theorem State.firstRouteKey_frame (s : State) :
    s.firstRouteKey.h = s.h ∧ s.firstRouteKey.harts = s.harts ∧ s.firstRouteKey.mem = s.mem ∧ s.firstRouteKey.pkg = s.pkg := by
  simp [State.firstRouteKey, State.draw]

/-- INSTALL puts the key into an EMPTY slot, which is PENDING. -/
theorem State.installKey_slots {s : State} {k : BitVec 4} (h : (s.keySlot k).state = .empty) (key : BitVec 256) :
    (s.installKey k key).fab.slots = s.fab.slots.set k.toNat ⟨.pending, key⟩ k.isLt := by
  simp [State.installKey, h, State.setSlot, State.mapCores]

/-- With no slot CURRENT, ACTIVATE makes a PENDING slot CURRENT and changes no other slot. -/
theorem State.activateKey_slots {s : State} {k : BitVec 4} (h : (s.keySlot k).state = .pending) (hc : s.currentSlot = none) :
    (s.activateKey k).fab.slots = s.fab.slots.set k.toNat ⟨.current, (s.keySlot k).key⟩ k.isLt := by
  simp [State.activateKey, h, hc, State.setSlot]

/-- With every slot EMPTY, the first route key is CURRENT in slot 0. -/
theorem State.firstRouteKey_slot {s : State} (h : ∀ i, (s.fab.slots.get i).state = .empty) :
    s.firstRouteKey.fab.slots.get 0 = ⟨.current, Config.routeKey s.draws⟩ := by
  let s1 := s.draw.2
  let s2 := s1.installKey 0 (Config.routeKey s.draws)
  have empty : (s1.keySlot 0).state = .empty := h 0
  have slots : s2.fab.slots = s.fab.slots.set 0 ⟨.pending, Config.routeKey s.draws⟩ := State.installKey_slots empty _
  have key : s2.keySlot 0 = ⟨.pending, Config.routeKey s.draws⟩ := by
    simp [State.keySlot, slots, Vector.get_eq_getElem]
  have current : s2.currentSlot = none := List.find?_eq_none.mpr fun i _ => by
    have e := h i
    simp only [Vector.get_eq_getElem] at e
    simp only [slots, Vector.get_eq_getElem, Vector.getElem_set]
    split <;> simp [e]
  have done : (s2.activateKey 0).fab.slots = s2.fab.slots.set 0 ⟨.current, (s2.keySlot 0).key⟩ :=
    State.activateKey_slots (by rw [key]) current
  have first : s.firstRouteKey.fab.slots = (s2.activateKey 0).fab.slots := rfl
  rw [first, done, key]
  simp [Vector.get_eq_getElem]

/-- FIRMWARE_PHASE that ends well: the first route key, the delegation on every core, and the closed measurement list. -/
theorem execFirmwarePhase_ok {s : State} (h : InPhase s 4) : ∃ t, execFirmwarePhase none s = .next t ∧ t.h = s.h ∧ t.harts = s.harts ∧
    t.mem = s.mem ∧ t.pkg = { s.pkg with measured := true, bootstat := putBits s.pkg.bootstat 1 3 5 } ∧ t.c.mdeleg = monitorDeleg ∧
    (∀ c ∈ t.cores, c.mdeleg = monitorDeleg) ∧ t.fab = s.firstRouteKey.fab := by
  obtain ⟨hh, hharts, hmem, hpkg⟩ := s.firstRouteKey_frame
  unfold execFirmwarePhase
  rw [if_neg (State.inPhase_guard h)]
  generalize s.firstRouteKey = u at *
  refine ⟨_, rfl, hh, hharts, hmem, ?_, rfl, fun c hc => ?_, rfl⟩
  · simp [State.setPhase, hpkg]
  · obtain ⟨d, -, rfl⟩ := List.mem_map.mp hc
    rfl

/-- PHASE_TIMEOUT stops the phase in progress. -/
theorem execPhaseTimeout_running {s : State} {n : Nat} (h1 : 1 ≤ n) (h5 : n ≤ 5) (h : InPhase s n) :
    execPhaseTimeout s = .next (Halted s n 0x04) := by
  obtain ⟨running, phase⟩ := h
  have le : s.phase ≤ 5 := by unfold State.phase; omega
  have shown : max 1 s.phase = n := by unfold State.phase; omega
  simp [execPhaseTimeout, running, le, shown, State.bootFail_eq]

/-- Settles O38: every event of bring-up by the branch that its phase selects, with the model's choices of log entries 4, 43, 48, 49 and 95. -/
theorem bringUpResults : Obligations.BringUpResults := by
  unfold Obligations.BringUpResults
  intro s
  refine ⟨?pwrgoodLow, ?perstAssert, ?perstAssertLow, ?pwrgoodRise, ?perstDeassert, ?identity, ?counterFails, ?imageRuns, ?noImage,
    ?dies, ?diesFails, ?firmware, ?firmwareFails, ?storage, ?ready, ?timeout, ?idle⟩
  case pwrgoodLow => exact ⟨_, rfl, ⟨rfl, rfl, rfl, rfl, rfl, rfl, rfl, rfl, rfl⟩, rfl, rfl⟩
  case perstAssert =>
    intro good
    refine ⟨s.packageReset false true true, ?_, ⟨rfl, rfl, rfl, rfl, rfl, rfl, rfl, rfl, rfl⟩, rfl, rfl⟩
    show execPerstAssert s = _
    simp [execPerstAssert, good]
  case perstAssertLow =>
    intro low
    show execPerstAssert s = _
    simp [execPerstAssert, low]
  case pwrgoodRise =>
    intro low
    show execPwrgoodRise s = _
    cases hp : s.pkg.perst <;> simp [execPwrgoodRise, low, hp, State.bringUp, State.setPhase]
  case perstDeassert =>
    intro held
    show execPerstDeassert s = _
    cases hg : s.pkg.pwrgood <;> simp [execPerstDeassert, held, hg, State.bringUp, State.setPhase]
  case identity =>
    intro ok h
    have phase := (s.inPhase_iff 1).mpr h
    show execIdentityPhase ok s = _
    cases hs : s.pkg.helper <;> cases ok <;> simp [execIdentityPhase, phase, hs, State.bootFail_eq, State.setPhase]
  case counterFails =>
    intro h
    show execImagePhase false s = _
    simp [execImagePhase, (s.inPhase_iff 2).mpr h, State.bootFail_eq]
  case imageRuns =>
    intro g b h hc
    have slot : b = if b == 1 then 1 else 0 := by obtain ⟨-, ⟨rfl, -⟩ | ⟨rfl, -⟩⟩ := hc <;> rfl
    rw [slot]
    exact execImagePhase_chosen h hc
  case noImage => exact execImagePhase_unchosen
  case dies =>
    intro h
    show execDiesPhase none s = _
    simp [execDiesPhase, (s.inPhase_iff 3).mpr h, State.initStorage, State.setPhase]
  case diesFails =>
    intro c h code
    show execDiesPhase (some c) s = _
    simp [execDiesPhase, (s.inPhase_iff 3).mpr h, (diesCode_iff _).mpr code, State.bootFail_eq]
  case firmware =>
    intro h
    obtain ⟨t, run, hh, hharts, hmem, hpkg, focus, others, fab⟩ := execFirmwarePhase_ok h
    exact ⟨t, run, hh, hharts, hmem, hpkg, focus, others, fun empty => fab ▸ State.firstRouteKey_slot empty⟩
  case firmwareFails =>
    intro c h code
    show execFirmwarePhase (some c) s = _
    obtain rfl | rfl := code <;> simp [execFirmwarePhase, (s.inPhase_iff 4).mpr h, State.bootFail_eq]
  case storage =>
    intro d h
    show execStoragePhase d s = _
    unfold execStoragePhase
    rw [if_neg (State.inPhase_guard h)]
    exact congrArg Host.Outcome.next (State.setPhase_shown { s with
      sip := { s.sip with drives := d, ns := reported d, mdts := Vector.ofFn fun i => Config.mdts i } } _ 6)
  case ready =>
    intro h
    show execReady s = _
    simp [execReady, (s.inPhase_iff 6).mpr h]
  case timeout => exact fun n => execPhaseTimeout_running
  case idle =>
    intro idle ok d c
    show execIdentityPhase ok s = _ ∧ execImagePhase ok s = _ ∧ execDiesPhase c s = _ ∧ execFirmwarePhase c s = _ ∧ execStoragePhase d s = _ ∧
      execReady s = _ ∧ execPhaseTimeout s = _
    simp [execIdentityPhase, execImagePhase, execDiesPhase, execFirmwarePhase, execStoragePhase, execReady, execPhaseTimeout,
      State.not_inPhase idle, idle]

/-! ## Configuration requests and management (01_package.md R19, R21, R24; 03_routes.md R76) -/

/-- The words of the capability of R21 that show the device identity. -/
theorem State.dvsec_identity (s : State) (recovery : Bool) {k : Nat} (hk : k < 16) :
    s.dvsec recovery (0x20 + 4 * k) = BitVec.ofNat 64 (s.fab.myId / 2 ^ (32 * k) % 2 ^ 32) := by
  have shift : 8 * (0x20 + 4 * k - 0x20) = 32 * k := by omega
  unfold State.dvsec
  rw [if_neg (by omega), if_neg (by omega), if_neg (by omega), if_neg (by omega), if_neg (by omega), if_neg (by omega), if_neg (by omega),
    if_pos (by omega), shift]

/-- The words of the capability of R21 that show the security version, under a running image. -/
theorem State.dvsec_version {s : State} {g : FlashImage} (h : s.pkg.image = some g) (recovery : Bool) :
    s.dvsec recovery 0x10 = BitVec.ofNat 64 (g.secver % 2 ^ 32) := by
  simp [State.dvsec, h]

/-- Configuration space answers once 100 ms have passed and the Image phase has ended. -/
theorem execConfigRequest_answered {s : State} (good : s.pkg.pwrgood = true) (perst : s.pkg.perst = false) (ended : s.pkg.imgEnded = true)
    (place : CfgPlace) : execConfigRequest true place s = .next { s with
      out := (if s.pkg.imgLoaded then .cfgSigned place.part place.off (s.configSpace false place.part place.off)
        else .cfgRecovery place.part place.off (s.configSpace true place.part place.off)) :: s.out } := by
  cases hl : s.pkg.imgLoaded <;> simp [execConfigRequest, good, perst, ended, hl, State.emit]

/-- The retry status. -/
theorem execConfigRequest_retry {s : State} (good : s.pkg.pwrgood = true) (perst : s.pkg.perst = false) {elapsed : Bool}
    (early : elapsed = false ∨ s.pkg.imgEnded = false) (place : CfgPlace) :
    execConfigRequest elapsed place s = .next { s with out := .cfgRetry :: s.out } := by
  obtain h | h := early <;> simp [execConfigRequest, good, perst, h, State.emit]

/-- The version counter takes the version of the running image, when that is the higher one. -/
theorem execMinVersionRaise_ready {s : State} {g : FlashImage} (hg : s.pkg.image = some g) (ready : s.pkg.bootstat.getLsbD 0 = true) :
    execMinVersionRaise s = .next { s with pkg := { s.pkg with minVersion := max s.pkg.minVersion g.secver } } := by
  unfold execMinVersionRaise
  rw [hg]
  by_cases higher : s.pkg.minVersion < g.secver
  · simp [State.isReady, ready, higher, max_eq_right higher.le]
  · simp [higher, max_eq_left (not_lt.mp higher)]

/-- The monitor answers whenever power is good. -/
theorem execPldmMonitor_good {s : State} (good : s.pkg.pwrgood = true) : execPldmMonitor s = .next { s with
    draws := s.draws + 1
    out := .pldm s.pkg.bootstat s.pkg.corrected s.pkg.uncorrected s.pkg.temp.toList (Config.rails s.draws) :: s.out } := by
  simp [execPldmMonitor, good, State.draw, State.emit]

/-- A revocation closes the reservations of the launch on the core. -/
theorem State.revokeCore_opens (s : State) (core : Nat) (launch : BitVec 32) :
    ∀ o ∈ (s.revokeCore core launch).2.fab.opens, ¬ (o.1 = core ∧ o.2.1 = launch) := by
  rintro o ho ⟨rfl, rfl⟩
  simpa using (List.mem_filter.mp ho).2

/-- Settles O39: each management event by the branch that the package's state selects, with the model's choices of log entries 50, 53 and 97. -/
theorem managementResults : Obligations.ManagementResults := by
  unfold Obligations.ManagementResults
  intro s
  refine ⟨fun good perst elapsed part off => ⟨?retry, ?recovery, ?signed⟩, ?version, fun good => ⟨?monitor, ?update⟩, ?noLaunch, ?oneLaunch⟩
  case retry => exact fun early => execConfigRequest_retry good perst early _
  case recovery =>
    rintro rfl ended unloaded
    refine ⟨s.configSpace true part off, ?_, ?_, ?_, ?_⟩
    · show execConfigRequest true ⟨part, off⟩ s = _
      simpa [unloaded] using execConfigRequest_answered good perst ended ⟨part, off⟩
    · rintro rfl rfl
      simp [State.configSpace]
    · rintro rfl
      simp [State.configSpace]
    · rintro rfl rfl
      simp [State.configSpace, State.dvsec]
  case signed =>
    rintro rfl ended loaded g hg
    refine ⟨s.configSpace false part off, ?_, ?_, ?_, ?_⟩
    · show execConfigRequest true ⟨part, off⟩ s = _
      simpa [loaded] using execConfigRequest_answered good perst ended ⟨part, off⟩
    · rintro rfl rfl
      simp [State.configSpace, hg]
    · rintro rfl rfl
      simp [State.configSpace, hg]
    · rintro rfl
      refine ⟨?revision, ?bootstat, ?secver, ?corrected, ?uncorrected, ?deviceId⟩
      case secver =>
        rintro rfl
        exact State.dvsec_version hg false
      case deviceId =>
        rintro k hk rfl
        exact s.dvsec_identity false hk
      all_goals
        rintro rfl
        rfl
  case version => exact fun g => execMinVersionRaise_ready
  case monitor => exact ⟨Config.rails s.draws, execPldmMonitor_good good⟩
  case update =>
    intro img
    show execPldmFirmwareUpdate false img s = _ ∧ execPldmFirmwareUpdate true img s = _
    simp [execPldmFirmwareUpdate, good]
  case noLaunch =>
    intro n unplaced
    have empty : s.hst.launches.filter (·.cores.contains n) = [] := by simpa using unplaced
    show execCoreReset n s = _
    unfold execCoreReset
    rw [empty, List.foldl_nil]
  case oneLaunch =>
    intro n l one
    refine ⟨(s.revokeCore n l.id).2, (s.revokeCore n l.id).1, ?_, rfl, s.revokeCore_opens n l.id⟩
    show execCoreReset n s = _
    unfold execCoreReset
    rw [one, List.foldl_cons, List.foldl_nil]

/-! ## Machine checks (01_package.md R28, 10_traps.md R289) -/

/-- With every hart retired, no barrier is left to complete. -/
theorem State.recheckBarriers_retired {s : State} (h : ∀ g ∈ s.allHarts, g.run = .retired) (x : Hart) : s.recheckBarriers x = s := by
  have out (scope : Tier) : (s.allHarts.any fun g => sameGroup scope g x && g.inBarriers && g.barWait == some scope) = false :=
    List.any_eq_false.mpr fun g hg => by simp [Hart.inBarriers, h g hg]
  simp only [State.recheckBarriers, List.foldl_cons, List.foldl_nil, out, Bool.false_and, Bool.false_eq_true, if_false]

/-- With no hart waiting in LMERGE, no merge is left to complete. -/
theorem State.recheckMerge_unmerged {s : State} (h : ∀ g ∈ s.allHarts, g.mergeWait = false) (x : Hart) : s.recheckMerge x = s := by
  have unfound : (s.allHarts.find? fun g => g.mergeWait && sameSplit g x && s.splitDone g) = none :=
    List.find?_eq_none.mpr fun g hg => by simp [h g hg]
  simp [State.recheckMerge, unfound]

/-- The one hart of the package. -/
theorem State.allHarts_alone {s : State} (alone : s.harts = []) (placed : s.h.launch ≠ 0) : s.allHarts = [s.h] := by
  rw [State.allHarts, if_neg placed, alone]

/-- The one hart of the package, once it has retired, leaves neither a barrier nor a merge to complete. -/
theorem State.recheck_alone {s : State} (alone : s.harts = []) (placed : s.h.launch ≠ 0) (retired : s.h.run = .retired)
    (unmerged : s.h.mergeWait = false) (x : Hart) : (s.recheckBarriers x).recheckMerge x = s := by
  have harts := State.allHarts_alone alone placed
  rw [State.recheckBarriers_retired (by simpa [harts] using retired), State.recheckMerge_unmerged (by simpa [harts] using unmerged)]

/-- The hart in focus, written back. -/
theorem State.putHart_focus {s : State} {h : Hart} (hc : s.h.core = h.core) (hs : s.h.slot = h.slot) (hl : s.h.launch = h.launch) :
    s.putHart h = { s with h := h } := by
  simp [State.putHart, Hart.isHart, hc, hs, hl]

/-- A machine check of the one hart of the package leaves it as the monitor has retired it. -/
theorem State.checkHart_alone {s : State} (alone : s.harts = []) (placed : s.h.launch ≠ 0) (val : Word) :
    (s.checkHart val s.h).h = s.h.machineCheck val := by
  have put : s.putHart (s.h.machineCheck val) = { s with h := s.h.machineCheck val } := State.putHart_focus rfl rfl rfl
  unfold State.checkHart
  rw [put]
  dsimp only
  rw [State.recheck_alone]
  · rfl
  · exact alone
  · exact placed
  · rfl
  · rfl

/-- A machine check on the core of the one hart, which runs under the core's enclave, ends that hart. -/
theorem State.mcheckCore_alone {s : State} (alone : s.harts = []) (placed : s.h.launch ≠ 0) (live : s.h.run ≠ .retired) {l : Launch}
    (hl : s.launch? s.h.launch = some l) (he : l.encl = (s.core s.h.core).mencl) (val : Word) :
    (s.mcheckCore val s.h.core).h = s.h.machineCheck val := by
  have checked : s.checkedHarts s.h.core = [s.h] := by
    simp [State.checkedHarts, State.allHarts_alone alone placed, live, hl, he]
  unfold State.mcheckCore
  rw [checked, List.foldl_cons, List.foldl_nil]
  dsimp only
  split
  · rw [State.putCore_h, State.checkHart_alone alone placed]
  · exact State.checkHart_alone alone placed val

/-- A die without harts has nothing that a machine check ends. -/
theorem State.mcheckDie_empty {s : State} {die : Nat} (h : ∀ g ∈ s.allHarts, g.core / 512 ≠ die) : s.mcheckDie die = s := by
  have empty : (s.allHarts.map (·.core)).dedup.filter (fun n => n / 512 == die) = [] := by
    simpa using h
  rw [State.mcheckDie, empty, List.foldl_nil]

/-- A machine check on the die of the one hart is the one on its core. -/
theorem State.mcheckDie_alone {s : State} (alone : s.harts = []) (placed : s.h.launch ≠ 0) {die : Nat} (hd : s.h.core / 512 = die) :
    s.mcheckDie die = s.mcheckCore (mcheckVal 7 0) s.h.core := by
  simp [State.mcheckDie, State.allHarts_alone alone placed, hd]

/-! ## Droops (01_package.md R13) -/

/-- The dies of a mask by their bits. -/
theorem mem_diesOf (m : BitVec 8) (d : Nat) : d ∈ diesOf m ↔ m.getLsbD d = true := by
  simp only [diesOf, List.mem_filter, List.mem_range, and_iff_right_iff_imp]
  exact BitVec.lt_of_getLsbD

/-- The mask of one die. -/
theorem diesOf_single (d : Fin 8) : diesOf (BitVec.ofNat 8 (2 ^ d.val)) = [d.val] := by
  revert d
  decide

/-- A droop on two dies or more is FAULT. -/
theorem execVcoreDroop_several {m : BitVec 8} {a b : Nat} (ab : a ≠ b) (ha : m.getLsbD a = true) (hb : m.getLsbD b = true) (s : State) :
    execVcoreDroop m s = .next (s.enterFault 0x41) := by
  have ma := (mem_diesOf m a).mpr ha
  have mb := (mem_diesOf m b).mpr hb
  unfold execVcoreDroop
  match hd : diesOf m with
  | [] => simp [hd] at ma
  | [d] =>
    rw [hd, List.mem_singleton] at ma mb
    exact absurd (ma.trans mb.symm) ab
  | _ :: _ :: _ => rfl

/-! ## Events in FAULT (01_package.md R29) -/

/-- The reset inputs still act in FAULT. -/
theorem inFault_of_isResetInput {i : Instr} (h : isResetInput i = true) : inFault i = true := by
  unfold isResetInput at h
  split at h
  iterate 4 rfl
  exact absurd h (by decide)

/-- The management path still acts in FAULT. -/
theorem inFault_of_isManagement {i : Instr} (h : isManagement i = true) : inFault i = true := by
  unfold isManagement at h
  split at h
  iterate 2 rfl
  exact absurd h (by decide)

/-- In FAULT only the events that FAULT leaves are admitted. -/
theorem State.not_admits_of_fault {s : State} (h : s.pkg.fault = true) {i : Instr} (hi : inFault i = false) : s.admits i = false := by
  have notReset : isResetInput i = false := Bool.eq_false_iff.mpr fun c => by simp [inFault_of_isResetInput c] at hi
  have notManagement : isManagement i = false := Bool.eq_false_iff.mpr fun c => by simp [inFault_of_isManagement c] at hi
  simp [State.admits, notReset, notManagement, h, hi]

/-- Settles O40: the governor by a fold over the die's cores, the droops by the number of dies in the mask, FAULT by what it leaves of the package;
with the model's choices of log entries 51, 52, 55 and 58. -/
theorem healthResults : Obligations.HealthResults := by
  unfold Obligations.HealthResults
  intro s
  refine ⟨?governor, rfl, fun d => ⟨?droop, State.mcheckDie_empty, ?check⟩, ?droops, ?thermal, ?trip, ?watchdog, ?clean, ?line, ?spad, ?shut⟩
  case governor =>
    intro die k
    refine ⟨_, rfl, ?_, ?_, ?_, ?_, s.core_slowDie die.toNat k⟩
    · exact foldl_keeps State.h (fun _ _ => State.putCore_h ..) _ _
    · exact foldl_keeps State.harts (fun _ _ => State.putCore_harts ..) _ _
    · exact foldl_keeps State.mem (fun _ _ => State.putCore_mem ..) _ _
    · exact foldl_keeps State.pkg (fun _ _ => State.putCore_pkg ..) _ _
  case droop =>
    show execVcoreDroop _ s = _
    unfold execVcoreDroop
    rw [diesOf_single]
  case check =>
    intro l alone placed live die hl he
    have ended : (s.mcheckDie d.val).h = s.h.machineCheck (mcheckVal 7 0) := by
      rw [State.mcheckDie_alone alone placed die, State.mcheckCore_alone alone placed live hl he]
    dsimp only
    rw [ended]
    exact ⟨rfl, rfl, rfl, rfl, rfl⟩
  case droops => exact fun m a b ab _ _ ha hb ok => ⟨_, execVcoreDroop_several ab ha hb s, State.enterFault_faulted ok _⟩
  case thermal =>
    intro die c cool
    show execThermalSample die c s = _
    simp only [execThermalSample, Nat.not_le.mpr cool, if_false]
  case trip =>
    intro die c hot ok
    show ∃ t, execThermalSample die c s = .next t ∧ _
    simp only [execThermalSample, hot, if_true, if_pos (show 100 ≤ c by omega)]
    refine ⟨_, rfl, State.enterFault_faulted ?_ _⟩
    exact ok
  case watchdog => exact fun ok => ⟨_, rfl, State.enterFault_faulted ok _⟩
  case clean =>
    intro x
    show execPatrolScrub x .clean s = _
    simp [execPatrolScrub]
  case line =>
    intro pa hp
    show execPatrolScrub (.line pa) .corrected s = _ ∧ execPatrolScrub (.line pa) .uncorrectable s = _
    simp [execPatrolScrub, ScrubTarget.exists_, ScrubTarget.core?, hp, State.noteCorrected, State.noteUncorrected]
  case spad =>
    intro n off hn ho
    show execPatrolScrub (.spad n off) .uncorrectable s = _
    simp [execPatrolScrub, ScrubTarget.exists_, hn, ho, State.noteUncorrected]
  case shut =>
    intro fault i hi hw r
    have barred : ({ s with sched := .event i :: r } : State).admits i = false := State.not_admits_of_fault fault hi
    simp [step, hw, barred]

end Sys2Proof.Machine
end

section
/-! Proofs about fabric links (02_fabric.md R34 to R41, R61 to R64; 03_routes.md R82): their states, then their frames. -/

namespace Sys2Proof.Machine

open Sys2Proof.Safety

/-! ## Links by name -/

/-- Writing a port back as it is changes nothing. -/
theorem State.setLink_port_link (s : State) (p : BitVec 4) : s.setLink (.port p) (s.link (.port p)) = s := by
  simp [State.setLink, State.link, Vector.get_eq_getElem]

/-- A peer entry is found by a name that a change of the entries keeps. -/
theorem State.peer?_mapPeers (s : State) {f : EthPeer → EthPeer} (heth : ∀ p, (f p).eth = p.eth) (hidx : ∀ p, (f p).idx = p.idx)
    (e : BitVec 2) (i : BitVec 5) :
    ({ s with fab := { s.fab with peers := s.fab.peers.map f } } : State).peer? e i = (s.peer? e i).map f := by
  simp only [State.peer?, List.find?_map, Function.comp_def, heth, hidx]

/-- A peer entry that is found has the name it was looked for under. -/
theorem State.peer?_name {s : State} {e : BitVec 2} {i : BitVec 5} {p : EthPeer} (h : s.peer? e i = some p) : p.eth = e ∧ p.idx = i := by
  simpa using List.find?_some h

/-- A peer entry whose link was written has that link. -/
theorem State.peer?_setLink {s : State} {e : BitVec 2} {i : BitVec 5} {p : EthPeer} (h : s.peer? e i = some p) (k : Link) :
    (s.setLink (.peer e i) k).peer? e i = some { p with link := k } := by
  obtain ⟨heth, hidx⟩ := State.peer?_name h
  refine (s.peer?_mapPeers ?_ ?_ e i).trans ?_
  · intro q
    split <;> rfl
  · intro q
    split <;> rfl
  · simp [h, heth, hidx]

/-- Reading a link of the package after it was written. -/
theorem State.link_setLink {s : State} {l : LinkRef} (h : HasLink s l) (k : Link) : (s.setLink l k).link l = k := by
  cases l with
  | port p => simp [State.setLink, State.link, Vector.get_eq_getElem]
  | peer e i =>
    obtain ⟨p, hp⟩ := Option.ne_none_iff_exists'.mp h
    simp only [State.link, State.peer?_setLink hp k]

@[simp] theorem State.setLink_net (s : State) (l : LinkRef) (k : Link) : (s.setLink l k).fab.net = s.fab.net := by cases l <;> rfl

/-! ## The names of the peer entries -/

/-- The names of the peer entries that were written. -/
def State.peerNames (s : State) : List (BitVec 2 × BitVec 5) := s.fab.peers.map fun p => (p.eth, p.idx)

/-- An entry is found when its name is listed. -/
theorem State.peer?_of_mem {s : State} {e : BitVec 2} {i : BitVec 5} (h : (e, i) ∈ s.peerNames) : ∃ p, s.peer? e i = some p := by
  obtain ⟨p, hp, name⟩ := List.mem_map.mp h
  obtain ⟨rfl, rfl⟩ := Prod.mk.inj name
  exact Option.isSome_iff_exists.mp (List.find?_isSome.mpr ⟨p, hp, by simp⟩)

/-- The name of an entry that is found is listed. -/
theorem State.mem_peerNames {s : State} {e : BitVec 2} {i : BitVec 5} {p : EthPeer} (h : s.peer? e i = some p) : (e, i) ∈ s.peerNames := by
  obtain ⟨rfl, rfl⟩ := State.peer?_name h
  exact List.mem_map.mpr ⟨p, List.mem_of_find?_eq_some h, rfl⟩

@[simp] theorem State.setLink_peerNames (s : State) (l : LinkRef) (k : Link) : (s.setLink l k).peerNames = s.peerNames := by
  cases l with
  | port p => rfl
  | peer e i =>
    simp only [State.peerNames, State.setLink, List.map_map]
    refine List.map_congr_left fun p _ => ?_
    dsimp only [Function.comp_apply]
    split <;> rfl

@[simp] theorem State.replyStep_peerNames (s : State) (p : Packet) : (s.replyStep p).peerNames = s.peerNames := by
  unfold State.replyStep
  dsimp only
  split
  · split <;> rfl
  · split
    all_goals
      dsimp only
      split
      · exact s.setLink_peerNames _ _
      · rfl

@[simp] theorem State.putMerge_peerNames (s : State) (k : McastMerge) : (s.putMerge k).peerNames = s.peerNames := by
  unfold State.putMerge
  split
  · exact s.replyStep_peerNames _
  · rfl

@[simp] theorem State.answerCopy_peerNames (s : State) (p : Packet) (second : Bool) (port : Nat) (bits : McastMerge → Nat) :
    (s.answerCopy p second port bits).peerNames = s.peerNames := by
  unfold State.answerCopy
  (repeat' split)
  · rfl
  · rfl
  · exact State.putMerge_peerNames _ _

@[simp] theorem State.unreachQueued_peerNames (s : State) (l : LinkRef) (p : Packet) : (s.unreachQueued l p).peerNames = s.peerNames := by
  unfold State.unreachQueued
  extract_lets j
  clear_value j
  split
  · rfl
  · cases l with
    | port q =>
      dsimp only
      split
      · exact State.answerCopy_peerNames ..
      · exact State.replyStep_peerNames ..
    | peer e i => exact State.replyStep_peerNames ..

@[simp] theorem State.linkDown_peerNames (s : State) (l : LinkRef) (st : LinkState) : (s.linkDown l st).peerNames = s.peerNames := by
  unfold State.linkDown
  dsimp only
  split
  · exact s.setLink_peerNames _ _
  · exact (foldl_keeps State.peerNames (fun _ _ => State.unreachQueued_peerNames ..) _ _).trans (s.setLink_peerNames _ _)

/-! ## Link states (02_fabric.md R35) -/

/-- A link that leaves UP is severed. -/
theorem State.linkDown_of_up {s : State} {l : LinkRef} (h : (s.link l).state = .up) : s.linkDown l .down = Severed s l := by
  simp only [State.linkDown, h, ne_eq, not_true_eq_false, if_false]
  rfl

/-- A link that is not UP holds nothing to answer. -/
theorem State.linkDown_of_not_up {s : State} {l : LinkRef} (h : (s.link l).state ≠ .up) :
    s.linkDown l .down = s.setLink l (SessionOver (s.link l)) := by
  simp only [State.linkDown, if_pos h]
  rfl

/-- Training starts on an enabled port that is DOWN and has signal; nothing else of it changes. -/
theorem Link.detect_eq (k : Link) (signal : Bool) :
    k.detect signal = { k with state := if k.enabled = true ∧ k.state = .down ∧ signal = true then .train else k.state } := by
  by_cases h : k.enabled = true ∧ k.state = .down ∧ signal = true
  · simp [Link.detect, h]
  · have shut : (k.enabled && k.state == .down && signal) = false := by
      simpa [and_assoc] using h
    simp [Link.detect, h, shut]

/-- A failed authentication is counted; the third in a row is FAILED. -/
theorem Link.authFailed_eq {k : Link} (h : k.state = .auth) :
    k.authFailed = { k with attempts := k.attempts + 1, state := if k.attempts < 2 then .down else .failed } := by
  by_cases few : k.attempts < 2
  · simp [Link.authFailed, h, few, show ¬ 2 ≤ k.attempts by omega]
  · simp [Link.authFailed, h, few, show 2 ≤ k.attempts by omega]

/-- The model's test of a peer is the statement's. -/
theorem State.acceptsPeer_iff (s : State) (d : DevId) (a : PeerAuth) : s.acceptsPeer d a = true ↔
    d ≠ s.fab.myId ∧ a.chainOk = true ∧ a.keyOk = true ∧ ∃ g, s.pkg.image = some g ∧ g.minPeerVer ≤ a.secver ∧ a.monitor ∈ g.peerDigests := by
  unfold State.acceptsPeer
  cases s.pkg.image <;> simp [and_assoc]

/-- The session of an accepted peer: SLOTOK is kept when no other peer was met. -/
theorem Link.established_eq (k : Link) (d : DevId) (a : PeerAuth) (n : Nat) : k.established d a n = { Link.reset with
    state := .up, sid := n, enabled := k.enabled, peer := some d, far := (a.hop, a.second)
    slotok := if k.peer = none ∨ k.peer = some d then k.slotok else 0 } := by
  unfold Link.established
  cases k.peer <;> simp

/-- AUTH_ESTABLISHED on a link in AUTH: the exchange is shown and a session number drawn, whatever the outcome. -/
theorem execAuthEstablished_auth {s : State} {l : LinkRef} (h : (s.link l).state = .auth) (d : DevId) (a : PeerAuth) :
    execAuthEstablished l d a s =
      let u : State := { s with draws := s.draws + 1, out := .linkAuth l (decide (s.fab.myId < d)) s.pkg.cert :: s.out }
      .next (if s.acceptsPeer d a then (u.setLink l ((s.link l).established d a s.draws)).reportMap else u.setLink l (s.link l).authFailed) := by
  simp only [execAuthEstablished, h, ne_eq, not_true_eq_false, if_false]
  rfl

/-- A listed entry takes the fields written to it, and its link starts over in a state. -/
theorem State.peer?_restarted {s : State} {e : BitVec 2} {i : BitVec 5} (listed : (e, i) ∈ s.peerNames) (v : BitVec 128) (st : LinkState) :
    let u := s.setLink (.peer e i) { s.link (.peer e i) with state := st, enabled := v.getLsbD 0 }
    ∃ p, ({ u with fab := { u.fab with peers := u.fab.peers.map (EthPeer.write e i v) } } : State).peer? e i = some p ∧
      p.entry = v &&& peerMask ∧ p.link.enabled = v.getLsbD 0 ∧ p.link.state = st := by
  intro u
  obtain ⟨p, hp⟩ := State.peer?_of_mem listed
  obtain ⟨heth, hidx⟩ := State.peer?_name hp
  have written := u.peer?_mapPeers (f := EthPeer.write e i v)
    (fun q => by unfold EthPeer.write; split <;> rfl) (fun q => by unfold EthPeer.write; split <;> rfl) e i
  rw [State.peer?_setLink hp] at written
  exact ⟨_, written, by simp [EthPeer.write, heth, hidx]⟩

/-- PEER_ENTRY_WRITE of an Ethernet port: the entry is there afterwards, with the fields written and its link started over. -/
theorem State.writePeer_entry (s : State) {e : BitVec 2} (he : e ≠ 3) (i : BitVec 5) (v : BitVec 128) :
    ∃ p, (s.writePeer e i v).peer? e i = some p ∧ p.entry = v &&& peerMask ∧ p.link.enabled = v.getLsbD 0 ∧
      p.link.state = if v.getLsbD 0 && s.ethEnabled e then .auth else .down := by
  unfold State.writePeer
  rw [if_neg he]
  cases hp : s.peer? e i with
  | none => exact State.peer?_restarted (List.mem_map.mpr ⟨s.newPeer e i, List.mem_append_right _ (List.mem_singleton_self _), rfl⟩) v _
  | some q => exact State.peer?_restarted (by simpa using State.mem_peerNames hp) v _

/-- Settles O41: each link event by the branch that the link's state selects, with the session numbers and the return to AUTH of log entry 95. -/
theorem linkStates : Obligations.LinkStates := by
  unfold Obligations.LinkStates
  intro s
  refine ⟨fun p => ⟨?enable, ?signal, ?training, ?untrained, ?retry, ?loss, ?noLoss⟩,
    fun l => ⟨fun auth => ⟨fun d a => ⟨?accepted, ?refused⟩, ?fail, ?timeout⟩, ?noAuth, fun up => ⟨?dead, ?beat, ?key⟩, ?notUp, ?disable, ?reenable,
      ?notFailed⟩, ?reauth, ?write⟩
  case enable =>
    intro sig
    show execLinkEnable p sig s = _
    simp only [execLinkEnable, State.onPort, Link.detect_eq, true_and]
  case signal =>
    show execSignalDetect p s = _
    simp only [execSignalDetect, State.onPort, Link.detect_eq, and_true]
  case training =>
    intro train
    show execLinkTrained p s = _ ∧ execTrainTimeout p s = _
    simp only [execLinkTrained, execTrainTimeout, State.onPort, if_pos train, and_self]
  case untrained =>
    intro idle
    show execLinkTrained p s = _ ∧ execTrainTimeout p s = _
    simp only [execLinkTrained, execTrainTimeout, State.onPort, if_neg idle, State.setLink_port_link, and_self]
  case retry =>
    intro due sig
    show execTrainRetry p sig s = _
    simp only [execTrainRetry, State.onPort, if_pos due, Link.detect_eq]
  case loss =>
    intro up
    show execLinkSignalLoss p s = _
    rw [execLinkSignalLoss, if_pos up, State.linkDown_of_up up]
  case noLoss =>
    intro idle
    show execLinkSignalLoss p s = _
    rw [execLinkSignalLoss, if_neg idle]
  case accepted =>
    intro ok
    refine (execAuthEstablished_auth auth d a).trans ?_
    dsimp only
    rw [if_pos ((s.acceptsPeer_iff d a).mpr ok), Link.established_eq]
  case refused =>
    intro bad
    refine (execAuthEstablished_auth auth d a).trans ?_
    dsimp only
    rw [if_neg (mt (s.acceptsPeer_iff d a).mp bad), Link.authFailed_eq auth]
  case fail =>
    show execAuthFail l s = _
    rw [execAuthFail, Link.authFailed_eq auth]
  case timeout =>
    show execAuthTimeout l s = _
    rw [execAuthTimeout, Link.authFailed_eq auth]
  case noAuth =>
    intro idle d a
    show execAuthEstablished l d a s = _
    simp only [execAuthEstablished, if_pos idle]
  case dead =>
    show execLinkHeartbeatTimeout l s = _
    rw [execLinkHeartbeatTimeout, if_pos up, State.linkDown_of_up up]
  case beat =>
    show execLinkHeartbeatSend l s = _
    simp only [execLinkHeartbeatSend, if_pos up, State.emit, State.setLink_out]
  case key =>
    intro fresh
    show execLinkKeyUpdate l s = _
    simp [execLinkKeyUpdate, up, fresh]
  case notUp =>
    intro idle
    show execLinkHeartbeatTimeout l s = _ ∧ execLinkHeartbeatSend l s = _ ∧ execLinkKeyUpdate l s = _
    simp [execLinkHeartbeatTimeout, execLinkHeartbeatSend, execLinkKeyUpdate, idle]
  case disable =>
    show execLinkDisable l s = _
    by_cases up : (s.link l).state = .up
    · simp only [execLinkDisable, if_pos up, State.linkDown_of_up up]
    · simp only [execLinkDisable, if_neg up, State.linkDown_of_not_up up]
  case reenable =>
    intro failed
    show execLinkReenable l s = _
    rw [execLinkReenable, if_pos failed]
  case notFailed =>
    intro idle
    show execLinkReenable l s = _
    rw [execLinkReenable, if_neg idle]
  case reauth =>
    intro e i p hp enabled valid down
    show execEthReauth e i s = _
    simp [execEthReauth, hp, enabled, valid, down]
  case write =>
    intro e i v he
    obtain ⟨p, hp, fields⟩ := s.writePeer_entry he i v
    exact ⟨s.writePeer e i v, p, rfl, hp, fields⟩

end Sys2Proof.Machine
end

section
/-! Proofs about frames on links (02_fabric.md R37 to R40, R61, R64): what a new frame takes from the queues, and what an arriving frame brings. -/

namespace Sys2Proof.Machine

open Sys2Proof.Safety

/-! ## Packets of a new frame (02_fabric.md R38, R55) -/

/-- The packets of one rate class in a queue, in their order. -/
def ofClass (c : BitVec 4) (q : List (BitVec 4 × Packet)) : List (BitVec 4 × Packet) := q.filter fun e => e.1 == c

/-- Taking the oldest packet of its class to the front of a queue changes the order within no class. -/
theorem ofClass_cons_eraseIdx {n i : Nat} {q : List (BitVec 4 × Packet)} {e : BitVec 4 × Packet}
    (first : (q.findIdx? fun x => decide (x.1.toNat = n)) = some i) (he : q[i]? = some e) (c : BitVec 4) :
    ofClass c (e :: q.eraseIdx i) = ofClass c q := by
  induction q generalizing i with
  | nil => simp at he
  | cons x q ih =>
    by_cases hx : x.1.toNat = n
    · obtain rfl : 0 = i := by simpa [List.findIdx?_cons, hx] using first
      obtain rfl : x = e := by simpa using he
      rfl
    · obtain ⟨j, hj, rfl⟩ : ∃ j, (q.findIdx? fun x => decide (x.1.toNat = n)) = some j ∧ j + 1 = i := by
        simpa [List.findIdx?_cons, hx] using first
      have he : q[j]? = some e := by simpa using he
      have ofN : e.1.toNat = n := by
        obtain ⟨hlt, hp, -⟩ := List.findIdx?_eq_some_iff_getElem.mp hj
        obtain ⟨-, rfl⟩ := List.getElem?_eq_some_iff.mp he
        simpa using hp
      have other : x.1 ≠ e.1 := fun h => hx (h ▸ ofN)
      have swap : ofClass c (e :: x :: q.eraseIdx j) = ofClass c (x :: e :: q.eraseIdx j) := by
        by_cases hc : e.1 = c
        · simp [ofClass, hc, hc ▸ other]
        · simp [ofClass, List.filter_cons, hc]
      rw [List.eraseIdx_cons_succ, swap]
      have tail := ih hj he
      simp only [ofClass, List.filter_cons] at tail ⊢
      rw [tail]

/-- The round robin takes one packet, the oldest of its class. -/
theorem Round.take_some {w : Nat → Nat} {q r : Round} {p : Packet} (h : q.take w = some (p, r)) :
    ∃ a, ∀ c, ofClass c ((a, p) :: r.queue) = ofClass c q.queue := by
  simp only [Round.take, Option.bind_eq_some_iff, Option.map_eq_some_iff, Prod.mk.injEq] at h
  obtain ⟨n, -, i, first, e, he, rfl, rfl⟩ := h
  exact ⟨e.1, ofClass_cons_eraseIdx first he⟩

/-- A frame is filled with whole packets of the queue: none is lost, and those of one class keep their order. -/
theorem fillFrame_packets (w : Nat → Nat) (n : Nat) (b : List (BitVec 128)) (off : Nat) (q : Round) :
    ∃ es : List (BitVec 4 × Packet), (fillFrame w n b off q).1 = b ++ es.flatMap (fun e => packetBeats e.2) ∧
      ∀ c, ofClass c (es ++ (fillFrame w n b off q).2.2.queue) = ofClass c q.queue := by
  induction n generalizing b off q with
  | zero => exact ⟨[], by simp [fillFrame], fun c => rfl⟩
  | succ n ih =>
    unfold fillFrame
    split
    · exact ⟨[], by simp, fun c => rfl⟩
    · split
      · exact ⟨[], by simp, fun c => rfl⟩
      · next p r taken =>
        obtain ⟨a, first⟩ := Round.take_some taken
        obtain ⟨es, beats, order⟩ := ih (b ++ packetBeats p) (if off = 0xFF then b.length else off) r
        refine ⟨(a, p) :: es, by simp [beats], fun c => ?_⟩
        rw [← first c, List.cons_append]
        simp only [ofClass, List.filter_cons] at order ⊢
        rw [order c]

/-! ## Sending (02_fabric.md R37 to R39) -/

/-- The frame before FSEQ 2^36 is the last one under its key; nothing else of the link changes. -/
theorem Link.dueUpdate_eq (k : Link) : k.dueUpdate = { k with txLast := k.txLast || decide (k.txSeq + 1 = 2 ^ 36) } := by
  unfold Link.dueUpdate
  split
  · next h => simp only [h, decide_true, Bool.or_true]
  · next h => simp only [h, decide_false, Bool.or_false]

/-- What sending a new frame changes of its link. -/
theorem Link.sentFrame_eq (k : Link) (f : Frame) : k.sentFrame f = { k with
    sent := k.sent + 1, nak := false, replay := k.replay ++ [f], txSeq := if k.txLast then 0 else k.txSeq + 1
    txPh := if k.txLast then !k.txPh else k.txPh, txLast := false, txOld := k.txLast || k.txOld
    txKeys := if k.txLast then k.txKeys + 1 else k.txKeys } := by
  cases h : k.txLast <;> simp [Link.sentFrame, h]

/-- A link in AUTH sends a session message in the clear. -/
theorem State.frameSend_auth {s : State} {l : LinkRef} (h : (s.link l).state = .auth) : s.frameSend l = s.emit (.linkSpdm l) := by
  simp [State.frameSend, Link.dueUpdate_eq, h]

/-- A frame that is to be replayed goes out again. -/
theorem State.frameSend_replay {s : State} {l : LinkRef} {f : Frame} (up : (s.link l).state = .up) (due : (s.link l).resend ≠ 0)
    (hf : (s.link l).replay[(s.link l).replay.length - (s.link l).resend]? = some f) :
    s.frameSend l = (s.sendFrame l f).setLink l { (s.link l).dueUpdate with resend := (s.link l).resend - 1 } := by
  simp [State.frameSend, Link.dueUpdate_eq, up, due, hf]

/-- A link that may send a new frame sends one: its beats and those it keeps are the beats before and whole packets of the queue. -/
theorem State.frameSend_new {s : State} {l : LinkRef} {k : Link} (hk : (s.link l).dueUpdate = k) (up : k.state = .up) (fresh : k.resend = 0)
    (room : k.replay.length < replaySize l) (credit : (k.sent - k.credit).toNat < 64) (old : k.txLast = true → k.txOld = false) :
    ∃ off beats rest, ∃ q : Round, ∃ es : List (BitVec 4 × Packet), let f := k.frame k.beatDue off beats
      s.frameSend l = (s.sendFrame l f).setLink l { k.sentFrame f with
        beatDue := false, txBeats := rest, egress := q.queue, rrClass := q.cls, rrLeft := q.left } ∧
      beats.length ≤ 29 ∧ (k.beatDue = true → beats = []) ∧
      beats ++ rest = k.txBeats ++ es.flatMap (fun e => packetBeats e.2) ∧ ∀ c, ofClass c (es ++ q.queue) = ofClass c k.egress := by
  have keyFree : (k.txLast && k.txOld) = false := by
    cases h : k.txLast
    · rfl
    · exact old h
  have may : (decide (replaySize l ≤ k.replay.length) || decide (64 ≤ (k.sent - k.credit).toNat) || k.txLast && k.txOld) = false := by
    simp only [decide_eq_false (Nat.not_le.mpr room), decide_eq_false (Nat.not_le.mpr credit), keyFree, Bool.or_false]
  by_cases beat : k.beatDue = true
  · refine ⟨0xFF, [], k.txBeats, ⟨k.rrClass, k.rrLeft, k.egress⟩, [], ?_, by simp, by simp, by simp, fun c => rfl⟩
    simp [State.frameSend, hk, up, fresh, may, beat, Link.sentFrame_eq, -BitVec.toNat_sub]
  · let r := fillFrame (Config.portWeight (linkNum l)) 30 k.txBeats 0xFF ⟨k.rrClass, k.rrLeft, k.egress⟩
    obtain ⟨es, beats, order⟩ := fillFrame_packets (Config.portWeight (linkNum l)) 30 k.txBeats 0xFF ⟨k.rrClass, k.rrLeft, k.egress⟩
    refine ⟨r.2.1, r.1.take 29, r.1.drop 29, r.2.2, es, ?_, by simp, by simp [beat], ?_, order⟩
    · simp [State.frameSend, hk, up, fresh, may, beat, Link.sentFrame_eq, r, -BitVec.toNat_sub]
    · rw [List.take_append_drop]
      exact beats

/-- A frame that goes out is shown; nothing else changes. -/
theorem State.sendFrame_eq (s : State) (l : LinkRef) (f : Frame) : ∃ w, s.sendFrame l f = s.emit (.frame l f w) := ⟨_, rfl⟩

/-- What is shown and what is written to a link do not touch each other. -/
theorem State.setLink_emit (s : State) (m : OutMsg) (l : LinkRef) (k : Link) :
    (s.emit m).setLink l k = { s.setLink l k with out := m :: s.out } := by
  cases l <;> rfl

/-- A new frame acknowledges the last one that was verified. -/
theorem Link.frame_ack {k : Link} {a : Bool × Nat} (h : k.rxLast = some a) (ctrl : Bool) (off : Nat) (beats : List (BitVec 128)) :
    (k.frame ctrl off beats).akph = a.1 ∧ (k.frame ctrl off beats).ackseq = BitVec.ofNat 64 a.2 := by
  simp [Link.frame, h]

/-! ## Reception (02_fabric.md R37, R40) -/

/-- A frame arrives as the next expected one. -/
theorem State.frameArrive_expected {s : State} {l : LinkRef} {f : Frame} {ok : Bool} (up : (s.link l).state = .up)
    (h : Expected (s.link l) f ok) :
    s.frameArrive l f ok = (s.setLink l ((s.link l).accepted f).1).released l ((s.link l).accepted f).2 := by
  obtain ⟨rfl, short, phase, seq, ctrl⟩ := h
  have spdm : (!f.ctrl || f.spdm) = true := by cases hc : f.ctrl <;> simp_all
  simp [State.frameArrive, up, short, phase, seq, spdm]

/-- Another frame fails: NAK is set, and the eighth failure in a row ends the session. -/
theorem State.frameArrive_unexpected {s : State} {l : LinkRef} {f : Frame} {ok : Bool} (up : (s.link l).state = .up)
    (h : ¬ Expected (s.link l) f ok) :
    s.frameArrive l f ok = if (s.link l).fails < 7 then s.setLink l { s.link l with fails := (s.link l).fails + 1, nak := true } else Severed s l := by
  have bad : (ok && decide (f.beats.length ≤ 29) && f.kph == (s.link l).rxPh && decide (f.fseq.toNat = (s.link l).rxSeq) && (!f.ctrl || f.spdm)) = false := by
    refine Bool.eq_false_iff.mpr fun good => h ?_
    simp only [Bool.and_eq_true, decide_eq_true_eq, beq_iff_eq, Bool.or_eq_true, Bool.not_eq_true'] at good
    obtain ⟨⟨⟨⟨hok, short⟩, phase⟩, seq⟩, ctrl⟩ := good
    exact ⟨hok, short, phase, seq, fun hc => ctrl.resolve_left (by simp [hc])⟩
  by_cases few : (s.link l).fails < 7
  · simp [State.frameArrive, up, bad, State.frameFailed, few, show ¬ 7 ≤ (s.link l).fails by omega]
  · simp [State.frameArrive, up, bad, State.frameFailed, few, show 7 ≤ (s.link l).fails by omega, State.linkDown_of_up up]

/-- The frames of an Ethernet frame arrive in their order. -/
theorem State.ethArrive_eq_foldl (s : State) (l : LinkRef) (fs : List (Frame × Bool)) : s.ethArrive l fs =
    fs.foldl (fun s x => if (s.link l).duplicate x.1 then s else s.frameArrive l x.1 x.2) s := by
  induction fs generalizing s with
  | nil => rfl
  | cons x fs ih => exact ih _

/-- A replay timeout replays everything; as the eighth failure in a row it ends the session. -/
theorem State.ethReplay_up {s : State} {l : LinkRef} (up : (s.link l).state = .up) : s.ethReplay l =
    if (s.link l).fails < 7 then s.setLink l { s.link l with fails := (s.link l).fails + 1, resend := (s.link l).replay.length } else Severed s l := by
  by_cases few : (s.link l).fails < 7
  · simp [State.ethReplay, up, few, show ¬ 7 ≤ (s.link l).fails by omega]
  · simp [State.ethReplay, up, few, show 7 ≤ (s.link l).fails by omega, State.linkDown_of_up up]

/-- Settles O42: the sender by the packets that fill a frame, the receiver by whether the frame is the next expected one; with the replay of log
entry 26 and the 29 beats and duplicates of log entry 95. -/
theorem frameResults : Obligations.FrameResults := by
  unfold Obligations.FrameResults
  intro s
  refine ⟨?auth, ?new, ?replay, fun p f ok up => ⟨?expected, ?unexpected⟩, ?notUp, ?ethernet, ?timeout⟩
  case auth => exact fun l auth => congrArg Host.Outcome.next (State.frameSend_auth auth)
  case new =>
    intro l k last has up fresh room credit old
    let k1 : Link := { k with txLast := last }
    have due : (s.link l).dueUpdate = k1 := Link.dueUpdate_eq k
    obtain ⟨off, beats, rest, q, es, sent, short, bare, kept, order⟩ := State.frameSend_new due up fresh room credit old
    let f : Frame := k1.frame k1.beatDue off beats
    obtain ⟨w, shown⟩ := s.sendFrame_eq l f
    refine ⟨f, w, _, es, congrArg Host.Outcome.next (sent.trans (by rw [shown])), ?_⟩
    rw [Link.sentFrame_eq, State.link_setLink (s := s.emit (.frame l f w)) has]
    exact ⟨State.setLink_out .., rfl, rfl, fun a verified => Link.frame_ack (k := k1) verified .., rfl, rfl, rfl, rfl, short, bare,
      rfl, rfl, rfl, rfl, rfl, rfl, kept, order, State.setLink_h .., State.setLink_mem ..⟩
  case replay =>
    intro l f k up due hf
    obtain ⟨w, shown⟩ := s.sendFrame_eq l f
    exact ⟨w, congrArg Host.Outcome.next ((State.frameSend_replay up due hf).trans (by rw [shown, State.setLink_emit]))⟩
  case expected =>
    intro expected
    refine ⟨_, ((s.link (.port p)).accepted f).2, congrArg Host.Outcome.next (State.frameArrive_expected up expected), ?_⟩
    have read : (State.released (s.setLink (.port p) ((s.link (.port p)).accepted f).1) (.port p) ((s.link (.port p)).accepted f).2).link (.port p) =
      ((s.link (.port p)).accepted f).1 := State.link_setLink (l := .port p) trivial _
    rw [read]
    refine ⟨rfl, rfl, rfl, rfl, rfl, rfl, rfl, ?_⟩
    simp [State.released, newItem]
  case unexpected => exact fun bad => congrArg Host.Outcome.next (State.frameArrive_unexpected up bad)
  case notUp =>
    intro p f ok down
    show execFrameReceive p f ok s = _
    simp [execFrameReceive, State.frameArrive, down]
  case ethernet =>
    intro e i fs one four
    show execEthFrameReceive e i fs s = _
    rw [execEthFrameReceive, if_neg (by simp only [Bool.or_eq_true, decide_eq_true_eq]; omega), State.ethArrive_eq_foldl]
  case timeout =>
    intro e i l k up
    exact congrArg Host.Outcome.next (State.ethReplay_up up)

end Sys2Proof.Machine
end

section
/-! Proofs about the package switch (02_fabric.md R47, R48, R60): requests, replies and merges that time out. -/

namespace Sys2Proof.Machine

open Sys2Proof.Safety

/-! ## Requests (02_fabric.md R47) -/

/-- A request at the switch is taken out of the network and takes the switch's step. -/
theorem State.switchRequest_of {s : State} {k : Nat} {i : NetItem} {pin : Option LinkRef} (hi : s.fab.net[k]? = some i) (pos : i.pos = .atSwitch pin)
    (request : i.reply = false) : s.switchRequest k = (s.dropNet k).requestStep i.pkt pin i.encl := by
  simp [State.switchRequest, hi, pos, request]

/-- A request whose tag is wrong is refused. -/
theorem State.requestStep_untagged {s : State} {p0 : Packet} {pin : Option LinkRef} (tag : s.tagOk (arrivedFrom p0 pin).route = false)
    (encl : Byte) : s.requestStep p0 pin encl = s.refuse (arrivedFrom p0 pin) stTag := by
  simp [State.requestStep, tag]

/-- A request whose tag is right and whose form is wrong is refused. -/
theorem State.requestStep_malformed {s : State} {p0 : Packet} {pin : Option LinkRef} (tag : s.tagOk (arrivedFrom p0 pin).route = true)
    (form : (arrivedFrom p0 pin).malformed = true ∨ (arrivedFrom p0 pin).route.malformed = true ∨ opRequest (arrivedFrom p0 pin).op = false)
    (encl : Byte) : s.requestStep p0 pin encl = s.refuse (arrivedFrom p0 pin) stMalformed := by
  have bad : ((arrivedFrom p0 pin).malformed || (arrivedFrom p0 pin).route.malformed || !opRequest (arrivedFrom p0 pin).op) = true := by
    simpa [or_assoc] using form
  simp [State.requestStep, tag, bad]

/-- A request leaves the switch by hop `h` of its list: through the fabric port `l`, or to the peer `e` of an Ethernet port. -/
def State.hopStep (s : State) (p : Packet) (h : Nat) (l e : LinkRef) : State :=
  if 19 ≤ h then s.refuse p stMalformed
  else if 16 ≤ h then
    if p.route.hc ≤ p.hopidx + 1 then s.refuse p stMalformed
    else if opEth p.op = false ∨ s.mayLeave e p.route = false then s.refuse p stUnreach
    else s.enqueue e (p.setHopidx (p.hopidx + 2))
  else if s.mayLeave l p.route = false then s.refuse p stUnreach
  else (s.enqueue l (p.setHopidx (p.hopidx + 1))).mark l p

/-- A request whose tag and form are right is replicated, delivered at the end of its hop list, or leaves by its hop. -/
theorem State.requestStep_formed {s : State} {p0 p : Packet} {pin : Option LinkRef} (hp : arrivedFrom p0 pin = p)
    (formed : (s.tagOk p.route && !p.malformed && !p.route.malformed && opRequest p.op) = true) (encl : Byte) :
    let h := p.route.hop p.hopidx
    s.requestStep p0 pin encl = if p.route.kind = 1 then s.multicastStep p pin encl else if p.hopidx = p.route.hc then s.deliverTorus p encl
      else s.hopStep p h (.port (BitVec.ofNat 4 h)) (.peer (BitVec.ofNat 2 (h - 16)) (BitVec.ofNat 5 (p.route.hop (p.hopidx + 1)))) := by
  simp only [Bool.and_eq_true, Bool.not_eq_true'] at formed
  obtain ⟨⟨⟨tag, form⟩, route⟩, op⟩ := formed
  simp only [State.requestStep, State.hopStep, hp, tag, form, route, op, Bool.not_true, Bool.or_false, Bool.false_eq_true, if_false]
  cases opEth p.op <;> simp

/-! ## Replies (02_fabric.md R48) -/

/-- A reply of a unicast request that came over the link its hop list names goes its next step. -/
theorem State.switchReply_checked {s : State} {k : Nat} {i : NetItem} {l : LinkRef} (hi : s.fab.net[k]? = some i) (pos : i.pos = .atSwitch (some l))
    (reply : i.reply = true) (op : i.pkt.op ≠ 0x31) (hop : replyFrom i.pkt l = true) (kind : i.pkt.route.kind ≠ 1) :
    s.switchReply k = (s.dropNet k).replyStep i.pkt := by
  cases l <;> simp [State.switchReply, hi, pos, reply, op, hop, kind]

/-- A reply at the end of its hop list is for this package's core, or is lost. -/
theorem State.replyStep_home {s : State} {p : Packet} (h : p.hopidx = 0) : s.replyStep p =
    if p.spkg = s.fab.pkgId.toNat then s.putNet p true (coreEndpoint p.score).switchOf (coreEndpoint p.score) p.score 0 else s := by
  simp [State.replyStep, h]

/-! ## Merges (02_fabric.md R60) -/

/-- A merge whose ports of a list count as failed: they are no longer awaited, and the bits of their leaves are set. -/
theorem McastMerge.foldl_answer (ps : List Nat) (m : McastMerge) :
    ps.foldl (fun m q => m.answer q (leafBits m q)) m = { m with
      pending := m.pending.filter fun q => decide (q ∉ ps)
      bitmap := ps.foldl (fun b q => b ||| BitVec.ofNat 64 (leafBits m q)) m.bitmap } := by
  induction ps generalizing m with
  | nil => simp
  | cons q ps ih =>
    have bits (x : Nat) : leafBits (m.answer q (leafBits m q)) x = leafBits m x := rfl
    rw [List.foldl_cons, ih, List.foldl_cons]
    simp only [bits]
    simp [McastMerge.answer, List.filter_filter, bne, beq_eq_decide, Bool.and_comm]

/-- A merge whose copies were all answered sends its MACK back. -/
theorem State.putMerge_done {s : State} {m : McastMerge} (h : m.pending = []) :
    s.putMerge m = s.replyStep (m.pkt.reply 0x23 0 m.pkt.hopidx (bytesOf m.bitmap.toNat 8)) := by
  simp [State.putMerge, h]

/-- Settles O44: a request by its tag, its form and its hop, a reply by where it came from, a merge by the leaves it still awaited; the mark of a
congested queue is that of log entry 25. -/
theorem switchResults : Obligations.SwitchResults := by
  unfold Obligations.SwitchResults
  intro s
  refine ⟨?request, ?home, fun k i l hi pos reply => ⟨?retry, ?bad, ?checked⟩, ?timeout, ?noMerge⟩
  case request =>
    intro k i pin hi pos request p r u refused formed
    have run : exec (.switchRequest k) s = .next (u.requestStep i.pkt pin i.encl) :=
      congrArg Host.Outcome.next (State.switchRequest_of hi pos request)
    rw [run]
    refine ⟨fun tag => congrArg Host.Outcome.next (State.requestStep_untagged tag _),
      fun tag form => congrArg Host.Outcome.next (State.requestStep_malformed tag form _), fun ok kind => ?_, fun ok kind done => ?_,
      fun ok kind more => ?_⟩
    · rw [State.requestStep_formed rfl ok, if_pos kind]
    · rw [State.requestStep_formed rfl ok, if_neg kind, if_pos done]
      rfl
    · intro h l e
      have step : u.requestStep i.pkt pin i.encl = u.hopStep p h l e := by
        rw [State.requestStep_formed rfl ok, if_neg kind, if_neg more]
      rw [step, State.hopStep]
      refine ⟨fun noHop => ?_, fun port shut => ?_, fun port way => ?_, fun eth lt short => ?_, fun eth lt long shut => ?_,
        fun eth lt long op way => ?_⟩
      · rw [if_pos noHop]
        rfl
      · rw [if_neg (by omega), if_neg (by omega), if_pos shut]
        rfl
      · rw [if_neg (by omega), if_neg (by omega), if_neg (show ¬ u.mayLeave l r = false by simp [way])]
      · rw [if_neg (by omega), if_pos eth, if_pos short]
        rfl
      · rw [if_neg (by omega), if_pos eth, if_neg (Nat.not_le.mpr long), if_pos shut]
        rfl
      · rw [if_neg (by omega), if_pos eth, if_neg (Nat.not_le.mpr long),
          if_neg (show ¬ (opEth p.op = false ∨ u.mayLeave e r = false) by simp [op, way])]
  case home =>
    intro k i hi pos reply op home
    have run : s.switchReply k = (s.dropNet k).replyStep i.pkt := by simp [State.switchReply, hi, pos, reply, op]
    exact congrArg Host.Outcome.next (run.trans (State.replyStep_home home))
  case retry =>
    intro op
    show Host.Outcome.next (s.switchReply k) = _
    simp [State.switchReply, hi, pos, reply, op]
  case bad =>
    intro op hop
    show Host.Outcome.next (s.switchReply k) = _
    simp [State.switchReply, hi, pos, reply, op, hop, State.dropNet]
  case checked => exact fun op hop kind => congrArg Host.Outcome.next (State.switchReply_checked hi pos reply op hop kind)
  case timeout =>
    intro k m hm
    show Host.Outcome.next (s.multicastTimeout k) = _
    simp only [State.multicastTimeout, hm, McastMerge.foldl_answer]
    rw [State.putMerge_done (List.filter_eq_nil_iff.mpr fun q hq => by simpa using hq)]
  case noMerge =>
    intro k hm
    show Host.Outcome.next (s.multicastTimeout k) = _
    simp only [State.multicastTimeout, hm]

end Sys2Proof.Machine
end

section
/-! Proofs about replies at the source core (02_fabric.md R45, R53, R56; 03_routes.md R79, R92, R95; 18_isa_fabric.md R437 to R444): the end of a
request, its timeout and retransmission, and the injection gaps. -/

namespace Sys2Proof.Machine

open Sys2Proof.Safety

/-! ## The core in focus -/

/-- The core in focus, by its number. -/
theorem State.core_focus {s : State} {n : Nat} (h : s.c.id = n) : s.core n = s.c := by rw [State.core, if_pos h]

/-- Writing the core in focus. -/
theorem State.putCore_focus {s : State} {c : Core} (h : s.c.id = c.id) : s.putCore c = { s with c := c } := by rw [State.putCore, if_pos h]

/-- The core in focus stays there. -/
@[simp] theorem State.focusCore_focus (s : State) : s.focusCore s.c.id = s := by rw [State.focusCore, if_pos rfl]

/-! ## The end of a request (03_routes.md R95) -/

/-- The first failing status of a posted access stays. -/
theorem Hart.holdStatus_eq (h : Hart) (t : Tier) (tr : Trap) : h.holdStatus t tr = { h with pstat := h.pstat.or (some ⟨t, tr⟩) } := by
  unfold Hart.holdStatus
  cases h.pstat <;> rfl

/-- The first failing status of a marked access stays. -/
theorem Hart.holdMarked_eq (h : Hart) (t : Tier) (tr : Trap) : h.holdMarked t tr = { h with mstat := h.mstat.or (some ⟨t, tr⟩) } := by
  unfold Hart.holdMarked
  cases h.mstat <;> rfl

/-- A scalar access ends as the statement says. -/
theorem State.endAccess_eq (s : State) (n : Nat) (r : Req) (st : Nat) (rd : Reg) (v : Word) :
    s.endAccess n r st rd v = EndedAccess s n r st rd v := by
  unfold State.endAccess EndedAccess
  by_cases marked : r.marked = true <;> by_cases ok : st = 0
  all_goals
    simp only [marked, ok, Hart.holdMarked_eq, ne_eq, not_true_eq_false, not_false_eq_true, Bool.false_eq_true, if_true, if_false] <;> rfl

/-- A posted access or strip ends as the statement says. -/
theorem State.endPosted_eq (s : State) (n : Nat) (r : Req) (st : Nat) : s.endPosted n r st = EndedPosted s n r st := by
  unfold State.endPosted EndedPosted
  by_cases ok : st = 0
  · simp only [if_pos ok]
    rfl
  · simp only [if_neg ok, Hart.holdStatus_eq]
    rfl

/-- A service request ends as the statement says: with OK the route goes into its register first. -/
theorem State.endService_eq (s : State) (n : Nat) (r : Req) (st : Nat) (rd : Reg) (drt : BitVec 3) (d : List Byte) :
    s.endService n r st rd drt d =
      let i : Fin 8 := ⟨drt.toNat, drt.isLt⟩
      EndedAccess (if st = 0 ∧ dataNat d % 256 = 0 then s.onSender n r fun h => { h with rt := h.rt.set i (RouteVal.ofNat (dataNat (d.drop 16))) } else s)
        n r st rd (BitVec.ofNat 64 (dataNat d % 256)) := by
  simp only [State.endService, State.endAccess_eq, Bool.and_eq_true, decide_eq_true_eq]

/-- Every request ends as the statement says of its kind. -/
theorem State.endReq_eq (s : State) (n : Nat) (r : Req) (st : Nat) (d : List Byte) : s.endReq n r st d = Ended s n r st d := by
  unfold State.endReq Ended
  cases r.kind with
  | load | store | atomic | cas | mstore => exact State.endAccess_eq ..
  | send => simp only [State.endAccess_eq]
  | svc => exact State.endService_eq ..
  | posted | strip | collPut => exact State.endPosted_eq ..
  | collSync => simp only [Hart.holdStatus_eq]
  | collAbort | copyPut | copyGet | engSync => rfl

/-- A reply that has arrived leaves the network; the request that awaits it, if there is one, ends. -/
theorem State.reply_arrived {s : State} {k : Nat} {i : NetItem} (hi : s.fab.net[k]? = some i) (pos : i.pos = .arrived) (reply : i.reply = true) :
    let u := s.dropNet k
    ((u.core i.pkt.score).reqOf i.pkt.qtag = none → s.reply i.pkt.op k = u) ∧
    (∀ r, (u.core i.pkt.score).reqOf i.pkt.qtag = some r →
      s.reply i.pkt.op k = Ended (u.dropReq i.pkt.score r) i.pkt.score r i.pkt.status i.pkt.data) := by
  refine ⟨fun noReq => ?_, fun r hr => ?_⟩
  · simp [State.reply, hi, pos, reply, noReq]
  · simp [State.reply, hi, pos, reply, hr, State.endReq_eq]

/-! ## Timeouts and retransmission (02_fabric.md R45, 03_routes.md R92) -/

/-- The cycles since an injection that is not in the future. -/
theorem State.sinceInjected_eq {s : State} {n : Nat} {r : Req} (h : r.injected.toNat ≤ (s.core n).cycle.toNat) :
    s.sinceInjected n r = (s.core n).cycle.toNat - r.injected.toNat :=
  BitVec.toNat_sub_of_le (BitVec.le_def.mpr h)

/-- A request of the core in focus that is due is sent again. -/
theorem State.retransmit_due {s : State} {q : BitVec 16} {r : Req} (hr : s.c.reqOf q.toNat = some r) (op : r.pkt.op = 4 ∨ r.pkt.op = 5)
    (few : r.retrans < 3) (due : (r.retrans + 1) * 2 ^ 20 ≤ s.sinceInjected s.c.id r) :
    ∃ dst, s.retransmit s.c.id q =
      ({ s with c := { s.c with reqs := s.c.reqs.map fun u => if u.qtag = r.qtag then { u with retrans := u.retrans + 1 } else u } } : State).putNet
        { r.pkt with c5 := r.pkt.c5 ||| BitVec.ofNat 64 (2 ^ 47) } false (coreEndpoint s.c.id) dst s.c.id s.c.mencl := by
  have may : (!(decide (r.pkt.op = 4) || decide (r.pkt.op = 5)) || decide (3 ≤ r.retrans) ||
      decide (s.sinceInjected s.c.id r < (r.retrans + 1) * 2 ^ 20)) = false := by
    rw [decide_eq_false (not_le.mpr few), decide_eq_false (not_lt.mpr due)]
    obtain op | op := op <;> simp [op]
  refine ⟨if routeTier r.pkt.route = .pkg then routeEndpoint r.pkt.route else (coreEndpoint s.c.id).switchOf, ?_⟩
  simp only [State.retransmit, State.focusCore_focus, hr, may, Bool.false_eq_true, if_false, beq_iff_eq]

/-! ## Injection gaps (02_fabric.md R56) -/

/-- Twice a gap, from 16 up to 65,536. -/
theorem gapTwice_toNat (g : BitVec 17) : (gapTwice g).toNat = if g = 0 then 16 else min 65536 (2 * g.toNat) := by
  unfold gapTwice
  split
  · rfl
  · split
    · next large => rw [min_eq_left (by omega)]; rfl
    · next small =>
      rw [BitVec.toNat_mul, min_eq_right (by omega)]
      simp
      omega

/-- Half a gap; below 16 it is 0. -/
theorem Gap.halve_toNat (g : Gap) (cycle : Word) : (g.halve cycle).g.toNat = if g.g.toNat < 32 then 0 else g.g.toNat / 2 := by
  have bound := g.g.isLt
  simp only [Gap.halve, Gap.to]
  split
  · rfl
  · rw [BitVec.toNat_ofNat, Nat.mod_eq_of_lt (by omega)]

/-- A BACKNOTE of no outstanding request reaches the hart that holds the slot of its core, which is in focus. -/
theorem State.backnote_holder {s : State} {k : Nat} {i : NetItem} {h : Hart} (hi : s.fab.net[k]? = some i) (pos : i.pos = .arrived)
    (reply : i.reply = true) (op : i.pkt.op = 0x30) (focus : s.c.id = i.pkt.score) (noReq : s.c.reqOf i.pkt.qtag = none)
    (hh : s.holder i.pkt.score (BitVec.ofNat 3 i.pkt.hslot) = some h) :
    let x : BitVec 3 := BitVec.ofNat 3 i.pkt.rtreg
    s.backnote k = ({ s.dropNet k with c := s.c.count 0x0D 1 } : State).putHart (h.setGap x ((h.gapOf x).grow s.c.cycle)) := by
  intro x
  obtain ⟨u, hu⟩ : ∃ u : State, u = { s.dropNet k with c := s.c.count 0x0D 1 } := ⟨_, rfl⟩
  have before : (s.dropNet k).core i.pkt.score = s.c := State.core_focus focus
  have counted : (s.dropNet k).putCore (s.c.count 0x0D 1) = u := hu ▸ State.putCore_focus rfl
  have after : u.core i.pkt.score = s.c.count 0x0D 1 := by subst hu; exact State.core_focus focus
  have unknown : (s.c.count 0x0D 1).reqOf i.pkt.qtag = none := noReq
  have holder : u.holder i.pkt.score (BitVec.ofNat 3 i.pkt.hslot) = some h := by subst hu; exact hh
  have cycle : (s.c.count 0x0D 1).cycle = s.c.cycle := rfl
  have run : s.backnote k = u.putHart (h.setGap x ((h.gapOf x).grow s.c.cycle)) := by
    simp [State.backnote, hi, pos, reply, op, before, counted, after, unknown, holder, cycle, x]
  rw [run, hu]

/-- The first held packet of a route register of the core in focus is injected. -/
theorem State.gapPassed_held {s : State} {slot x : BitVec 3} {k : Nat} {i : NetItem} {r : Req}
    (hk : s.fab.net.findIdx? (s.heldPacket s.c.id slot x) = some k) (hi : s.fab.net[k]? = some i) (hr : s.c.reqOf i.pkt.qtag = some r) :
    let u : State := { s with
      fab := { s.fab with net := s.fab.net.set k { i with pos := .inject, ptag := freePtag s.fab.net i.src 256 0 } }
      c := { s.c with reqs := s.c.reqs.map fun q => if q.qtag = r.qtag then { q with injected := s.c.cycle } else q } }
    s.gapPassed s.c.id slot x = if r.kind = .strip then u.chargeGap r.slot r.launch x else u := by
  have hr' : (s.core s.c.id).reqOf i.pkt.qtag = some r := by rw [State.core_focus rfl, hr]
  simp only [State.gapPassed, hk, hi, hr', State.focusCore_focus, beq_iff_eq]
  rfl

/-- Settles O46: a reply by the kind of the request that awaits it, a timeout by the cycles since the injection, a gap by its doubling and halving;
with the model's choices of log entries 19 and 31 to 33. -/
theorem replyResults : Obligations.ReplyResults := by
  unfold Obligations.ReplyResults
  intro s
  refine ⟨?reply, ?noRequest, fun n q r hr left => ⟨?late, ?early⟩, ?again, ?backnote, fun n slot x h hh slowed => ⟨?quiet, ?busy⟩, ?nothing, ?held⟩
  case reply =>
    intro k i e hi pos reply served n u
    have run : exec e s = .next (s.reply i.pkt.op k) := by
      obtain ⟨rfl, op⟩ | ⟨rfl, op⟩ | ⟨rfl, op⟩ | ⟨rfl, op⟩ := served <;> rw [op] <;> rfl
    obtain ⟨unknown, known⟩ := State.reply_arrived hi pos reply
    rw [run]
    exact ⟨fun noReq => congrArg Host.Outcome.next (unknown noReq), fun r hr => congrArg Host.Outcome.next (known r hr)⟩
  case noRequest =>
    intro n q noReq
    show Host.Outcome.next (s.requestTimeout n q) = _
    simp only [State.requestTimeout, noReq]
  case late =>
    intro late past
    show Host.Outcome.next (s.requestTimeout n q) = _
    have due : ¬ s.sinceInjected n r < 2 ^ 22 := by rw [State.sinceInjected_eq past]; omega
    simp only [State.requestTimeout, hr, left, due, State.endReq_eq, decide_false, Bool.or_false, Bool.false_eq_true, if_false]
  case early =>
    intro early past
    show Host.Outcome.next (s.requestTimeout n q) = _
    have notDue : s.sinceInjected n r < 2 ^ 22 := by rw [State.sinceInjected_eq past]; omega
    simp only [State.requestTimeout, hr, notDue, decide_true, Bool.or_true, if_true]
  case again =>
    intro q r hr op few past due
    have here : s.core s.c.id = s.c := State.core_focus rfl
    obtain ⟨dst, run⟩ := State.retransmit_due hr op few (by rwa [State.sinceInjected_eq (by rwa [here]), here])
    exact ⟨_, congrArg Host.Outcome.next run, rfl, rfl, rfl, _, rfl, rfl, rfl, rfl, rfl⟩
  case backnote =>
    intro k i h hi pos reply op focus noReq hh x g
    refine ⟨(h.gapOf x).grow s.c.cycle, ?_, rfl, congrArg Host.Outcome.next (State.backnote_holder hi pos reply op focus noReq hh)⟩
    have noted : (h.gapOf x).noted s.c.cycle = g := by simp [Gap.noted, g]
    exact (gapTwice_toNat _).trans (by rw [noted])
  case quiet =>
    intro quiet
    refine ⟨(h.gapOf x).halve (s.core n).cycle, Gap.halve_toNat _ _, rfl, ?_⟩
    show Host.Outcome.next (s.gapHalve n slot x) = _
    simp only [State.gapHalve, hh, slowed, decide_false, Bool.false_or, decide_eq_true_eq, if_neg (not_lt.mpr quiet)]
  case busy =>
    intro busy
    show Host.Outcome.next (s.gapHalve n slot x) = _
    simp [State.gapHalve, hh, busy, -BitVec.toNat_sub]
  case nothing =>
    intro n slot x noneHeld
    show Host.Outcome.next (s.gapPassed n slot x) = _
    simp only [State.gapPassed, List.findIdx?_eq_none_iff.mpr noneHeld]
  case held => exact fun slot x k i r hk hi hr => congrArg Host.Outcome.next (State.gapPassed_held hk hi hr)

end Sys2Proof.Machine
end

section
/-! Proofs about a request at its target (03_routes.md R74, R75, R88 to R91; 07_core.md R198, R200; 18_isa_fabric.md R438, R440): the checks that refuse
it, then what is done with one that passes them. -/

namespace Sys2Proof.Machine

open Sys2Proof.Safety

/-! ## Checks (03_routes.md R88, R89) -/

/-- A request that is refused before its endpoint is selected. -/
theorem State.targetCheck_refused {s : State} {p : Packet} {st : Nat} (h : s.arrivalCheck p = some st) : s.targetCheck p = .error st := by
  simp only [State.targetCheck, h]

/-- The form is checked first. -/
theorem State.arrivalCheck_malformed (s : State) {p : Packet} (form : p.malformed = true ∨ p.route.malformed = true) :
    s.arrivalCheck p = some stMalformed := by
  have bad : (p.route.malformed || p.malformed) = true := by simpa [or_comm] using form
  simp only [State.arrivalCheck, bad, if_true]

/-- The tag is checked next. -/
theorem State.arrivalCheck_untagged {s : State} {p : Packet} (form : p.malformed = false) (route : p.route.malformed = false)
    (tag : s.tagOk p.route = false) : s.arrivalCheck p = some stTag := by
  simp [State.arrivalCheck, form, route, tag]

/-- The operation and the rights, of a request that is no atomic. -/
theorem State.arrivalCheck_noRight {s : State} {p : Packet} (form : p.malformed = false) (route : p.route.malformed = false)
    (tag : s.tagOk p.route = true) (op : p.op ≠ 4) (no : opAllowed p = false ∨ p.route.rights / opRight p.op % 2 = 0) :
    s.arrivalCheck p = some stRights := by
  simp [State.arrivalCheck, form, route, tag, op, no]

/-- The window, of a request that is no atomic. -/
theorem State.arrivalCheck_outside {s : State} {p : Packet} (form : p.malformed = false) (route : p.route.malformed = false)
    (tag : s.tagOk p.route = true) (op : p.op ≠ 4) (allowed : opAllowed p = true) (right : p.route.rights / opRight p.op % 2 = 1)
    (out : p.route.len < p.offset + accessWidth p) : s.arrivalCheck p = some stBounds := by
  simp [State.arrivalCheck, form, route, tag, op, allowed, right, out]

/-! ## Serving -/

/-- A request that the checks refuse is answered with its status. -/
theorem State.serve_refused {s : State} {k st : Nat} {i : NetItem} (hi : s.fab.net[k]? = some i) (pos : i.pos = .arrived) (reply : i.reply = false)
    (check : s.targetCheck i.pkt = .error st) (f : State → Packet → Target → State × Option Answer) :
    s.serve i.pkt.op k f = s.answer k i (some (.error st)) := by
  simp [State.serve, hi, pos, reply, check]

/-- A request that passes the checks is performed and answered. -/
theorem State.serve_admitted {s : State} {k : Nat} {i : NetItem} {t : Target} (hi : s.fab.net[k]? = some i) (pos : i.pos = .arrived)
    (reply : i.reply = false) (check : s.targetCheck i.pkt = .ok t) (f : State → Packet → Target → State × Option Answer) :
    s.serve i.pkt.op k f = (f s i.pkt t).1.answer k i (f s i.pkt t).2 := by
  simp [State.serve, hi, pos, reply, check]

/-- Every request is served in its own way after the same checks. -/
theorem exec_servedBy {e : Instr} {k op : Nat} (h : ServedBy e k op) (s : State) : ∃ f, exec e s = .next (s.serve op k f) := by
  obtain ⟨rfl, rfl⟩ | ⟨rfl, rfl⟩ | ⟨rfl, rfl⟩ | ⟨rfl, rfl⟩ | ⟨rfl, rfl⟩ | ⟨rfl, rfl⟩ | ⟨rfl, rfl⟩ | ⟨rfl, rfl⟩ | ⟨rfl, rfl⟩ | ⟨rfl, rfl⟩ := h
  all_goals exact ⟨_, rfl⟩

/-- The two reads. -/
theorem exec_read {e : Instr} {k op : Nat} (h : (e = .loadRequest k ∧ op = 1) ∨ (e = .getRequest k ∧ op = 8)) (s : State) :
    exec e s = .next (s.serve op k State.serveRead) := by
  obtain ⟨rfl, rfl⟩ | ⟨rfl, rfl⟩ := h <;> rfl

/-- The four writes: a STORE also fills the words that it writes. -/
theorem exec_write {e : Instr} {k op : Nat} (h : (e = .storeRequest k ∧ op = 2) ∨ (e = .pstoreRequest k ∧ op = 3) ∨ (e = .putRequest k ∧ op = 7) ∨
      (e = .mstoreRequest k ∧ op = 10)) (s : State) :
    ∃ also : Packet → State → Loc → State, exec e s = .next (s.serve op k fun s p t => s.serveWrite p t (also p)) ∧
      ∀ p u l, also p u l = if op = 2 then u.fillStored p.len l else u := by
  obtain ⟨rfl, rfl⟩ | ⟨rfl, rfl⟩ | ⟨rfl, rfl⟩ | ⟨rfl, rfl⟩ := h
  all_goals exact ⟨_, rfl, fun _ _ _ => rfl⟩

/-! ## What is served at each kind of target -/

/-- How an atomic or a CAS is served. -/
def State.serveAtomicAt (s : State) (p : Packet) (t : Target) : State × Option Answer :=
  match t with
  | .at_ l => s.serveAtomic p l
  | _ => (s, some (.error stRights))

/-- How a strip's packet is served. -/
def State.serveStripAt (s : State) (p : Packet) (t : Target) : State × Option Answer :=
  match t with
  | .ring n off q => s.serveStrip p n off q
  | _ => (s, some (.error stRights))

/-- How a message is served. -/
def State.serveSendAt (s : State) (p : Packet) (t : Target) : State × Option Answer :=
  match t with
  | .box n slot id => s.serveSend p n slot id
  | _ => (s, some (.error stRights))

theorem State.serveAtomicAt_at (s : State) (p : Packet) (l : Loc) : s.serveAtomicAt p (.at_ l) = s.serveAtomic p l := rfl
theorem State.serveStripAt_ring (s : State) (p : Packet) (n off : Nat) (q : Launch) : s.serveStripAt p (.ring n off q) = s.serveStrip p n off q := rfl
theorem State.serveSendAt_box (s : State) (p : Packet) (n : Nat) (slot : BitVec 3) (id : BitVec 32) :
    s.serveSendAt p (.box n slot id) = s.serveSend p n slot id := rfl

/-- The two atomics. -/
theorem exec_atomic {e : Instr} {k op : Nat} (h : (e = .atomicRequest k ∧ op = 4) ∨ (e = .casRequest k ∧ op = 5)) (s : State) :
    exec e s = .next (s.serve op k State.serveAtomicAt) := by
  obtain ⟨rfl, rfl⟩ | ⟨rfl, rfl⟩ := h <;> rfl

/-- STRDATA_REQUEST serves a strip's packet. -/
theorem exec_strdataRequest (k : Nat) (s : State) : exec (.strdataRequest k) s = .next (s.serve 9 k State.serveStripAt) := rfl

/-- SEND_REQUEST serves a message. -/
theorem exec_sendRequest (k : Nat) (s : State) : exec (.sendRequest k) s = .next (s.serve 6 k State.serveSendAt) := rfl

/-! ## Reads and writes (03_routes.md R89) -/

/-- A read of bytes that hold their value. -/
theorem State.serveRead_value {s : State} {p : Packet} {l : Loc} {v : Nat} (h : s.readLoc l p.len = some v) :
    s.serveRead p (.at_ l) = (s, some ⟨0x20, 0, bytesOf v p.len⟩) := by
  simp only [State.serveRead, h]

/-- A read of poison. -/
theorem State.serveRead_poison {s : State} {p : Packet} {l : Loc} (h : s.readLoc l p.len = none) :
    s.serveRead p (.at_ l) = (s.spoil l p.len, some (.error stPoison)) := by
  simp only [State.serveRead, h]

/-- A write that every byte takes. -/
theorem State.serveWrite_done {s u : State} {p : Packet} {l : Loc} (h : s.writeLoc l p.len (dataNat p.data) = some u) (also : State → Loc → State) :
    s.serveWrite p (.at_ l) also = (also u l, some .ack) := by
  simp only [State.serveWrite, h]

/-- A write that cannot be made. -/
theorem State.serveWrite_poison {s : State} {p : Packet} {l : Loc} (h : s.writeLoc l p.len (dataNat p.data) = none) (also : State → Loc → State) :
    s.serveWrite p (.at_ l) also = (s.spoil l p.len, some (.error stPoison)) := by
  simp only [State.serveWrite, h]

/-! ## Atomics (03_routes.md R91) -/

/-- The recorded reply of an atomic, found under the key and the request tag of its packet. -/
def State.recorded (s : State) (p : Packet) : Option ReplayEntry :=
  (s.replayOf p.route).find? fun r => r.keyOf p && decide (r.qtag.toNat = p.qtag % 2 ^ 15)

/-- A retransmission is answered from the record. -/
theorem State.serveAtomic_recorded {s : State} {p : Packet} {r : ReplayEntry} (again : p.qtag / 2 ^ 15 % 2 = 1) (hit : s.recorded p = some r) (l : Loc) :
    s.serveAtomic p l = (s, some (atomicAnswer r.status.toNat r.result)) := by
  unfold State.recorded at hit
  simp only [State.serveAtomic, again, hit, if_true]

/-- A retransmission of which nothing is recorded is refused, and no copy of it is performed afterwards. -/
theorem State.serveAtomic_unrecorded {s : State} {p : Packet} (again : p.qtag / 2 ^ 15 % 2 = 1) (hit : s.recorded p = none) (l : Loc) :
    s.serveAtomic p l = (s.record p true stReplay 0, some (.error stReplay)) := by
  unfold State.recorded at hit
  simp only [State.serveAtomic, again, hit, if_true]

/-- The original of a retransmission that was refused is dropped. -/
theorem State.serveAtomic_tombstone {s : State} {p : Packet} {r : ReplayEntry} (first : p.qtag / 2 ^ 15 % 2 = 0) (hit : s.recorded p = some r)
    (tomb : r.tomb = true) (l : Loc) : s.serveAtomic p l = (s, none) := by
  have stopped : (s.recorded p).any (·.tomb) = true := by rw [hit]; exact tomb
  unfold State.recorded at stopped
  simp only [State.serveAtomic, first, stopped, Nat.zero_ne_one, if_false, if_true]

/-- An original that no tombstone stops is performed, and its reply recorded. -/
theorem State.serveAtomic_original {s : State} {p : Packet} (first : p.qtag / 2 ^ 15 % 2 = 0)
    (free : ∀ r, s.recorded p = some r → r.tomb = false) (l : Loc) :
    (∀ v u, s.performAtomic p l = .ok (v, u) → s.serveAtomic p l = (u.record p false 0 v, some (atomicAnswer 0 v))) ∧
    (∀ st, s.performAtomic p l = .error st → s.serveAtomic p l = ((s.spoil l (accessWidth p)).record p false st 0, some (.error st))) := by
  have unstopped : (s.recorded p).any (·.tomb) = false := by
    cases hit : s.recorded p with
    | none => rfl
    | some r => exact free r hit
  unfold State.recorded at unstopped
  refine ⟨fun v u done => ?_, fun st failed => ?_⟩
  · simp only [State.serveAtomic, first, unstopped, done, Nat.zero_ne_one, Bool.false_eq_true, if_false]
  · simp only [State.serveAtomic, first, unstopped, failed, Nat.zero_ne_one, Bool.false_eq_true, if_false]

/-! ## Strips and messages (07_core.md R198, R200) -/

/-- A strip's packet whose entry is free for it, and lies within it, is written there and counted in the entry's state word. -/
theorem State.serveStrip_written {s u t : State} {p : Packet} {n off d w : Nat} {q : Launch} (desc : s.readLoc (.spad n off) 64 = some d)
    (form : ringMalformed d (shapeSpres q.words) = false)
    (word : s.readLoc (.spad n (ringState q.rbase d (p.sseq % ringNent d))) 8 = some w)
    (notFull : s.mem.isFull (spadKey n (ringState q.rbase d (p.sseq % ringNent d)) / 8) = false)
    (turn : w % 2 ^ 32 = 0 ∨ w / 2 ^ 32 = p.sseq) (fits : p.offset + p.len ≤ ringEsz d)
    (bytes : s.writeLoc (.spad n (ringEntry q.rbase d (p.sseq % ringNent d) + p.offset)) p.len (dataNat p.data) = some u)
    (count : u.writeLoc (.spad n (ringState q.rbase d (p.sseq % ringNent d))) 8 ((w % 2 ^ 32 + p.len) % 2 ^ 32 + 2 ^ 32 * p.sseq) = some t) :
    s.serveStrip p n off q =
      (if w % 2 ^ 32 + p.len = ringEsz d then t.setFull (spadKey n (ringState q.rbase d (p.sseq % ringNent d)) / 8) else t, some .ack) := by
  have taken : (s.mem.isFull (spadKey n (ringState q.rbase d (p.sseq % ringNent d)) / 8) ||
      (decide (w % 2 ^ 32 ≠ 0) && decide (w / 2 ^ 32 ≠ p.sseq)) || decide (ringEsz d < p.offset + p.len)) = false := by
    rw [notFull, decide_eq_false (not_lt.mpr fits), Bool.or_false, Bool.false_or]
    obtain unused | own := turn
    · rw [unused]
      rfl
    · rw [decide_eq_false (not_not.mpr own), Bool.and_false]
  -- The kernel would evaluate the reads and writes that the body matches on. So the body replaces the function before its arguments stand there, and
  -- the accesses become variables.
  have body := Eq.refl @State.serveStrip
  conv at body =>
    rhs
    delta State.serveStrip
  rw [body]
  obtain ⟨read, isRead⟩ : ∃ f, f = @State.readLoc := ⟨_, rfl⟩
  obtain ⟨write, isWrite⟩ : ∃ f, f = @State.writeLoc := ⟨_, rfl⟩
  rw [← isRead] at desc word ⊢
  rw [← isWrite] at bytes count ⊢
  simp only [desc, form, word, taken, bytes, count, Bool.false_eq_true, if_false]

/-- A message for a mailbox of fewer than 12 arrives. -/
theorem State.serveSend_room {s : State} {n : Nat} {slot : BitVec 3} {id : BitVec 32} (room : (s.mail n slot id).length < 12) (p : Packet) :
    s.serveSend p n slot id = (s.mailArrive n slot id (userMessage p.data), some .ack) := if_neg (not_le.mpr room)

/-- A message for a mailbox of 12 or more is refused and counted. -/
theorem State.serveSend_full {s : State} {n : Nat} {slot : BitVec 3} {id : BitVec 32} (full : 12 ≤ (s.mail n slot id).length) (p : Packet) :
    s.serveSend p n slot id = (s.putCore ((s.core n).count 0x11 1), some (.error stFull)) := if_pos full

/-- Settles O45: the checks in their order, then each operation by what it reads, writes or finds recorded; with the model's choices of log entries
27 and 30. -/
theorem targetResults : Obligations.TargetResults := by
  unfold Obligations.TargetResults
  intro s k i hi pos reply p d
  refine ⟨?refused, fun form => State.targetCheck_refused (State.arrivalCheck_malformed s form),
    fun form route tag => State.targetCheck_refused (State.arrivalCheck_untagged form route tag),
    fun form route tag op => ⟨fun no => State.targetCheck_refused (State.arrivalCheck_noRight form route tag op no),
      fun allowed right out => State.targetCheck_refused (State.arrivalCheck_outside form route tag op allowed right out)⟩,
    fun l ok => ⟨?read, ?write, ?atomic⟩, ?strip, ?message⟩
  case refused =>
    intro st no e served
    obtain ⟨f, run⟩ := exec_servedBy served s
    rw [run, State.serve_refused hi pos reply no]
  case read =>
    intro e served
    rw [exec_read served, State.serve_admitted hi pos reply ok]
    exact ⟨fun v value => by rw [State.serveRead_value value], fun poison => by rw [State.serveRead_poison poison]⟩
  case write =>
    intro e served
    obtain ⟨also, run, fills⟩ := exec_write served s
    rw [run, State.serve_admitted hi pos reply ok]
    exact ⟨fun u done => by rw [State.serveWrite_done done, fills], fun poison => by rw [State.serveWrite_poison poison]⟩
  case atomic =>
    intro e served hit
    rw [exec_atomic served, State.serve_admitted hi pos reply ok, State.serveAtomicAt_at]
    refine ⟨fun r again known => ?_, fun again unknown => ?_, fun r first known tomb => ?_, fun v u first free done => ?_,
      fun st first free failed => ?_⟩
    · rw [State.serveAtomic_recorded again known]
    · rw [State.serveAtomic_unrecorded again unknown]
    · rw [State.serveAtomic_tombstone first known tomb]
    · rw [(State.serveAtomic_original first free l).1 v u done]
      rfl
    · rw [(State.serveAtomic_original first free l).2 st failed]
  case strip =>
    intro n off q v ok op desc form j at_ w u t word notFull turn fits bytes count
    rw [exec_strdataRequest, ← op, State.serve_admitted hi pos reply ok, State.serveStripAt_ring,
      State.serveStrip_written desc form word notFull turn fits bytes count]
  case message =>
    intro n slot id ok op
    rw [exec_sendRequest, ← op, State.serve_admitted hi pos reply ok, State.serveSendAt_box]
    exact ⟨fun room => by rw [State.serveSend_room room], fun full => by rw [State.serveSend_full full]⟩

end Sys2Proof.Machine
end

section
/-! Proofs about service requests at the Wellhead (03_routes.md R79, R80, R84): the checks, then each operation, then the leaves of a multicast mint. -/

namespace Sys2Proof.Machine

open Sys2Proof.Safety

/-! ## Serving (03_routes.md R79) -/

/-- A service request that the endpoint's checks refuse. -/
theorem State.service_refused {s : State} {k st : Nat} {i : NetItem} {sop : Nat → Bool} (hi : s.fab.net[k]? = some i) (pos : i.pos = .arrived)
    (reply : i.reply = false) (op : i.pkt.op = 0x10) (own : sop (svcSop (dataNat i.pkt.data)) = true) (check : s.wellCheck i.pkt = some st)
    (f : State → NetItem → SvcReq → State × Option Answer) : s.service k sop f = s.answer k i (some (.error st)) := by
  simp [State.service, hi, pos, reply, op, own, check]

/-- A service request of another length, or with a reserved field. -/
theorem State.service_badreq {s : State} {k : Nat} {i : NetItem} {sop : Nat → Bool} (hi : s.fab.net[k]? = some i) (pos : i.pos = .arrived)
    (reply : i.reply = false) (op : i.pkt.op = 0x10) (own : sop (svcSop (dataNat i.pkt.data)) = true) (check : s.wellCheck i.pkt = none)
    (bad : i.pkt.data.length ≠ 64 ∨ svcReserved (dataNat i.pkt.data) = true) (f : State → NetItem → SvcReq → State × Option Answer) :
    s.service k sop f = s.answer k i (some (svcAnswer 3 0)) := by
  simp [State.service, hi, pos, reply, op, own, check, bad]

/-- A service request whose form is right is answered as its operation says. -/
theorem State.service_formed {s : State} {k : Nat} {i : NetItem} {sop : Nat → Bool} (hi : s.fab.net[k]? = some i) (pos : i.pos = .arrived)
    (reply : i.reply = false) (op : i.pkt.op = 0x10) (own : sop (svcSop (dataNat i.pkt.data)) = true) (check : s.wellCheck i.pkt = none)
    (length : i.pkt.data.length = 64) (form : svcReserved (dataNat i.pkt.data) = false) (f : State → NetItem → SvcReq → State × Option Answer) :
    s.service k sop f = (f s i (dataNat i.pkt.data)).1.answer k i (f s i (dataNat i.pkt.data)).2 := by
  simp [State.service, hi, pos, reply, op, own, check, length, form]

/-- Every operation is served in its own way after the same checks. -/
theorem exec_svcEvent {e : Instr} {k sop : Nat} (h : SvcEvent e k sop) (s : State) : ∃ own f, exec e s = .next (s.service k own f) ∧ own sop = true := by
  obtain ⟨rfl, rfl⟩ | ⟨rfl, rfl⟩ | ⟨rfl, rfl⟩ | ⟨rfl, rfl⟩ | ⟨rfl, reserved⟩ := h
  · exact ⟨_, _, rfl, rfl⟩
  · exact ⟨_, _, rfl, rfl⟩
  · exact ⟨_, _, rfl, rfl⟩
  · exact ⟨_, _, rfl, rfl⟩
  · refine ⟨_, _, rfl, ?_⟩
    simp only [Bool.not_eq_true', Bool.and_eq_false_iff, decide_eq_false_iff_not]
    omega

/-! ## MINT (03_routes.md R80) -/

/-- A window or a right that MINT does not give. -/
def mintBad (q : SvcReq) : Bool :=
  (svcWindow q).targetBad || (svcEth q && (svcRights q % 2 = 1 || (svcWindow q).tkind = 3 || (svcWindow q).tkind = 4))

theorem mintBad_iff {q : SvcReq} : mintBad q = true ↔ (svcWindow q).targetBad = true ∨
    svcEth q = true ∧ (svcRights q % 2 = 1 ∨ (svcWindow q).tkind = 3 ∨ (svcWindow q).tkind = 4) := by
  simp [mintBad, or_assoc]

theorem mintBad_eq_false_iff {q : SvcReq} : mintBad q = false ↔ (svcWindow q).targetBad = false ∧
    (svcEth q = true → svcRights q % 2 = 0 ∧ (svcWindow q).tkind ≠ 3 ∧ (svcWindow q).tkind ≠ 4) := by
  simp [mintBad, and_assoc]

theorem State.mint_badreq {q : SvcReq} (bad : mintBad q = true) (s : State) (i : NetItem) : s.mint i q = (s, some (svcAnswer 3 0)) := if_pos bad

/-- A window that the enclave does not own. -/
theorem State.mint_denied {s : State} {i : NetItem} {q : SvcReq} (form : mintBad q = false) (none_ : s.owned i.encl (svcWindow q) = none) :
    s.mint i q = (s, some (svcAnswer 1 0)) := by
  unfold mintBad at form
  simp only [State.mint, form, none_, Bool.false_eq_true, if_false]

/-- A path that does not exist. -/
theorem State.mint_noPath {s : State} {i : NetItem} {q : SvcReq} {o : Owned} (form : mintBad q = false) (own : s.owned i.encl (svcWindow q) = some o)
    (path : s.pathFrom (BitVec.ofNat 16 (recField q 4 2)) (svcPath q) (svcEth q) = none) : s.mint i q = (s, some (svcAnswer 2 0)) := by
  unfold mintBad at form
  simp only [State.mint, form, own, path, Bool.false_eq_true, if_false]

/-- With no CURRENT slot, or one whose L bit the endpoint's counter lacks, nothing is minted. -/
theorem State.mint_busy {s : State} {i : NetItem} {q : SvcReq} {o : Owned} {hops : List Nat} (form : mintBad q = false)
    (own : s.owned i.encl (svcWindow q) = some o) (path : s.pathFrom (BitVec.ofNat 16 (recField q 4 2)) (svcPath q) (svcEth q) = some hops)
    (dead : ∀ c, s.currentSlot = some c → (s.counterOf o).l.getLsbD c.val = false) : s.mint i q = (s, some (svcAnswer 5 0)) := by
  unfold mintBad at form
  cases slot : s.currentSlot with
  | none => simp only [State.mint, form, own, path, slot, Bool.false_eq_true, if_false]
  | some c => simp only [State.mint, form, own, path, slot, dead c slot, Bool.not_false, Bool.false_eq_true, if_false, if_true]

/-- The route that is minted has the endpoint's generation and is sealed under the CURRENT slot. -/
theorem State.mint_sealed {s : State} {i : NetItem} {q : SvcReq} {o : Owned} {hops : List Nat} {c : Fin 16} (form : mintBad q = false)
    (own : s.owned i.encl (svcWindow q) = some o) (path : s.pathFrom (BitVec.ofNat 16 (recField q 4 2)) (svcPath q) (svcEth q) = some hops)
    (slot : s.currentSlot = some c) (live : (s.counterOf o).l.getLsbD c.val = true) :
    s.mint i q = (s, some (svcAnswer 0 (s.sealUnder c ⟨hopWord hops, (svcWindow q).w1, mintWord2 q (svcRights q) (svcDlg q) o.gen, 0⟩).toNat)) := by
  unfold mintBad at form
  simp only [State.mint, form, own, path, slot, live, Bool.not_true, Bool.false_eq_true, if_false]

/-! ## REVOKE (03_routes.md R75, R80) -/

/-- A counter issues the generation it stands at. -/
@[simp] theorem State.issueGen_fst (s : State) (c : EpCounter) : (s.issueGen c).1 = c.ng := by
  unfold State.issueGen
  split <;> rfl

theorem State.revokeCore_fst (s : State) (n : Nat) (id : BitVec 32) : (s.revokeCore n id).1 = (s.core n).ctr.ng := s.issueGen_fst _

theorem State.revokeHbm_fst (s : State) (h : HbmEp) : (s.revokeHbm h).1 = (s.counterOf (.hbm h)).ng := s.issueGen_fst _

/-- A window that the enclave does not own is not revoked. -/
theorem State.svcRevoke_denied {s : State} {i : NetItem} {q : SvcReq} (form : (svcWindow q).targetBad = false)
    (none_ : s.owned i.encl (svcWindow q) = none) : s.svcRevoke i q = (s, some (svcAnswer 1 0)) := by
  simp only [State.svcRevoke, form, none_, Bool.false_eq_true, if_false]

/-- A launch's endpoint is revoked at its core's counter. -/
theorem State.svcRevoke_launch {s : State} {i : NetItem} {q : SvcReq} {n : Nat} {l : Launch} {g : BitVec 16} (form : (svcWindow q).targetBad = false)
    (own : s.owned i.encl (svcWindow q) = some (.launch n l g)) :
    s.svcRevoke i q = ((s.revokeCore n l.id).2.revoking ⟨.core n, (s.core n).ctr.ng, none⟩, some (svcAnswer 0 0)) := by
  rw [← State.revokeCore_fst s n l.id]
  simp only [State.svcRevoke, form, own, Bool.false_eq_true, if_false]

/-- An HBM endpoint is revoked at its stack's counter. -/
theorem State.svcRevoke_hbm {s : State} {i : NetItem} {q : SvcReq} {h : HbmEp} (form : (svcWindow q).targetBad = false)
    (own : s.owned i.encl (svcWindow q) = some (.hbm h)) :
    s.svcRevoke i q = ((s.revokeHbm h).2.revoking ⟨.stack h.stack, (s.counterOf (.hbm h)).ng, none⟩, some (svcAnswer 0 0)) := by
  rw [← State.revokeHbm_fst s h]
  simp only [State.svcRevoke, form, own, Bool.false_eq_true, if_false]

/-! ## OPENM and QUERY (03_routes.md R80, R84) -/

/-- Only scratchpad is opened to a group key. -/
theorem State.svcOpen_noSpad {q : SvcReq} (form : (svcWindow q).targetBad = false) (kind : (svcWindow q).tkind ≠ 0) (s : State) (i : NetItem) :
    s.svcOpen i q = (s, some (svcAnswer 1 0)) := by
  simp only [State.svcOpen, form, kind, ne_eq, not_false_eq_true, Bool.false_eq_true, if_false, if_true]

theorem State.svcOpen_denied {s : State} {i : NetItem} {q : SvcReq} (form : (svcWindow q).targetBad = false) (kind : (svcWindow q).tkind = 0)
    (none_ : s.owned i.encl (svcWindow q) = none) : s.svcOpen i q = (s, some (svcAnswer 1 0)) := by
  simp only [State.svcOpen, form, kind, none_, ne_eq, not_true_eq_false, Bool.false_eq_true, if_false]

/-- The reservations open to a group key, with one more. -/
def State.opened (s : State) (o : Nat × BitVec 32 × Word) : State :=
  if s.fab.opens.contains o then s else { s with fab := { s.fab with opens := o :: s.fab.opens } }

theorem State.mem_opened (s : State) (o x : Nat × BitVec 32 × Word) : x ∈ (s.opened o).fab.opens ↔ x = o ∨ x ∈ s.fab.opens := by
  unfold State.opened
  split
  next known =>
    have mem : o ∈ s.fab.opens := by simpa using known
    exact ⟨Or.inr, fun h => h.elim (fun e => e ▸ mem) id⟩
  next => exact List.mem_cons

/-- A reservation that the enclave owns is open to the group key from now on. -/
theorem State.svcOpen_launch {s : State} {i : NetItem} {q : SvcReq} {n : Nat} {l : Launch} {g : BitVec 16} (form : (svcWindow q).targetBad = false)
    (kind : (svcWindow q).tkind = 0) (own : s.owned i.encl (svcWindow q) = some (.launch n l g)) :
    s.svcOpen i q = (s.opened (n, l.id, BitVec.ofNat 64 (recField q 32 8)), some (svcAnswer 0 0)) := by
  simp only [State.svcOpen, form, kind, own, ne_eq, not_true_eq_false, Bool.false_eq_true, if_false]
  rfl

theorem State.svcQuery_busy {s : State} (slot : s.currentSlot = none) (i : NetItem) (q : SvcReq) : s.svcQuery i q = (s, some (svcAnswer 5 0)) := by
  simp only [State.svcQuery, slot]

theorem State.svcQuery_current {s : State} {c : Fin 16} (slot : s.currentSlot = some c) (i : NetItem) (q : SvcReq) :
    s.svcQuery i q = (s, some (svcAnswer 0 (s.fab.pkgId.toNat + 2 ^ 16 * c.val))) := by
  simp only [State.svcQuery, slot]

/-! ## MINTM and its leaves (03_routes.md R84) -/

/-- When the topology reaches every leaf, each is asked in turn and none has answered yet. -/
theorem State.askLeaves_reached {q : SvcReq} {ds : List (Option DevId)} (reached : ∀ d ∈ ds, d ≠ none) (s : State) (n : Nat) :
    s.askLeaves q ds n =
      ({ s with out := (ds.map fun d => OutMsg.wellheadMsg (d.getD 0) 6 (recField q 32 8) (recField q 8 8)).reverse ++ s.out }, []) := by
  induction ds generalizing s n with
  | nil => rfl
  | cons d ds ih =>
    obtain ⟨head, tail⟩ := List.forall_mem_cons.mp reached
    obtain ⟨d, rfl⟩ := Option.ne_none_iff_exists'.mp head
    rw [State.askLeaves, ih tail]
    simp [State.tell, State.emit]

/-- A window or a shape that MINTM does not take. -/
theorem State.svcMintm_badreq {q : SvcReq} (bad : (svcWindow q).targetBad = true ∨ (svcShape q).kind ≠ 1 ∨ (svcShape q).malformed = true) (s : State)
    (i : NetItem) : s.svcMintm i q = (s, some (svcAnswer 3 0)) := if_pos (by simpa [or_assoc] using bad)

/-- A well-formed MINTM. -/
theorem State.svcMintm_formed {q : SvcReq} (target : (svcWindow q).targetBad = false) (kind : (svcShape q).kind = 1)
    (form : (svcShape q).malformed = false) (s : State) (i : NetItem) :
    ((svcShape q).tkind ≠ 0 → s.svcMintm i q = (s, some (svcAnswer 1 0))) ∧
    ((svcShape q).tkind = 0 → s.currentSlot = none → s.svcMintm i q = (s, some (svcAnswer 5 0))) ∧
    ((svcShape q).tkind = 0 → s.currentSlot ≠ none → s.svcMintm i q =
      ((s.askLeaves q (s.leafPackages (svcShape q)) 0).1.putMintm
        ⟨i, (s.leafPackages (svcShape q)).length, (s.askLeaves q (s.leafPackages (svcShape q)) 0).2⟩, none)) := by
  refine ⟨fun other => ?_, fun spad busy => ?_, fun spad live => ?_⟩
  · simp [State.svcMintm, target, kind, form, other]
  · simp [State.svcMintm, target, kind, form, spad, busy]
  · have slot : s.currentSlot.isNone = false := by simpa [Option.isSome_iff_ne_none] using live
    simp [State.svcMintm, target, kind, form, spad, slot]

/-- A multicast mint that waits for leaves is kept. -/
theorem State.putMintm_waiting {m : PendingMintm} (few : m.answers.length < m.leaves) (s : State) :
    s.putMintm m = { s with fab := { s.fab with mintms := s.fab.mintms ++ [m] } } := if_pos few

/-- One that every leaf has answered is itself answered. -/
theorem State.putMintm_complete {m : PendingMintm} (all : m.leaves ≤ m.answers.length) (s : State) :
    s.putMintm m = s.answerLater m.item (s.endMintm m) := if_neg (not_lt.mpr all)

/-- A leaf that does not confirm, or with another generation than the last one to answer. -/
theorem State.endMintm_differ {m : PendingMintm} {a : Nat × Bool × BitVec 16} {r : List (Nat × Bool × BitVec 16)} (last : m.answers = a :: r)
    (differ : ∃ x ∈ m.answers, x.2.1 = false ∨ x.2.2 ≠ a.2.2) (s : State) : s.endMintm m = svcAnswer 4 0 := by
  have some_ : ((a :: r).any fun x => !x.2.1 || x.2.2 != a.2.2) = true := by
    rw [← last]
    simpa using differ
  simp only [State.endMintm, last, some_, if_true]

/-- All leaves confirm with one generation. -/
theorem State.endMintm_agreed {s : State} {m : PendingMintm} {a : Nat × Bool × BitVec 16} {r : List (Nat × Bool × BitVec 16)} {c : Fin 16}
    (last : m.answers = a :: r) (agree : ∀ x ∈ m.answers, x.2.1 = true ∧ x.2.2 = a.2.2) (slot : s.currentSlot = some c) :
    s.endMintm m = svcAnswer 0
      (s.sealUnder c { svcShape (dataNat m.item.pkt.data) with w2 := mintWord2 (dataNat m.item.pkt.data) 2 0 a.2.2 }).toNat := by
  have none_ : ((a :: r).any fun x => !x.2.1 || x.2.2 != a.2.2) = false := by
    rw [← last]
    simpa using agree
  simp only [State.endMintm, last, none_, slot, Bool.false_eq_true, if_false]

/-- The first answer of a leaf. -/
theorem State.leafAnswered_new {s : State} {k leaf : Nat} {m : PendingMintm} (hm : s.fab.mintms[k]? = some m) (of : leaf < m.leaves)
    (first : ∀ a ∈ m.answers, a.1 ≠ leaf) (isOpen : Bool) (eg : BitVec 16) :
    s.leafAnswered k leaf isOpen eg = ({ s with fab := { s.fab with mintms := s.fab.mintms.eraseIdx k } } : State).putMintm
      { m with answers := (leaf, isOpen, eg) :: m.answers } := by
  have known : (m.answers.any (·.1 == leaf)) = false := by simpa using first
  simp only [State.leafAnswered, hm, known, Nat.not_le.mpr of, decide_false, Bool.or_self, Bool.false_eq_true, if_false]

/-- Settles O48: the checks, then each operation by the branch that its window, its path and the CURRENT slot select; with the model's choices of log
entries 36 and 37. -/
theorem serviceResults : Obligations.ServiceResults := by
  unfold Obligations.ServiceResults
  intro s
  refine ⟨?request, fun d g n b => ⟨?noReservation, ?reservation⟩, ?leaf⟩
  case request =>
    intro k i hi pos reply op q w said
    refine ⟨fun e served => ?checks, fun check length form => ?formed⟩
    case checks =>
      obtain ⟨own, f, run, mine⟩ := exec_svcEvent served s
      rw [run]
      exact ⟨fun st refused => congrArg Host.Outcome.next (State.service_refused hi pos reply op mine refused f),
        fun check bad => congrArg Host.Outcome.next (State.service_badreq hi pos reply op mine check bad f)⟩
    have answered {own : Nat → Bool} {f : State → NetItem → SvcReq → State × Option Answer} {u : State} {a : Option Answer}
        (mine : own (svcSop q) = true) (result : f s i q = (u, a)) : s.service k own f = u.answer k i a := by
      rw [State.service_formed hi pos reply op mine check length form, result]
    refine ⟨fun sop => ?mint, fun sop target => ?revoke, fun sop target => ?openm, fun sop => ?query, fun sop => ?mintm⟩
    case mint =>
      have run {u : State} {a : Option Answer} (result : s.mint i q = (u, a)) : exec (.mint k) s = .next (u.answer k i a) :=
        congrArg Host.Outcome.next (answered (by rw [sop]; rfl) result)
      refine ⟨fun bad => run (State.mint_badreq (mintBad_iff.mpr (.inl bad)) s i),
        fun eth bad => run (State.mint_badreq (mintBad_iff.mpr (.inr ⟨eth, bad⟩)) s i), fun target eth => ?_⟩
      have good : mintBad q = false := mintBad_eq_false_iff.mpr ⟨target, eth⟩
      refine ⟨fun none_ => run (State.mint_denied good none_), fun o own => ⟨fun none_ => run (State.mint_noPath good own none_), fun hops path =>
        ⟨fun none_ => ?_, fun c slot dead => ?_, fun c slot live => run (State.mint_sealed good own path slot live)⟩⟩⟩
      · exact run (State.mint_busy good own path fun c slot => absurd (none_.symm.trans slot) (by simp))
      · refine run (State.mint_busy good own path fun c' slot' => ?_)
        obtain rfl := Option.some.inj (slot.symm.trans slot')
        exact dead
    case revoke =>
      have run {u : State} {a : Option Answer} (result : s.svcRevoke i q = (u, a)) : exec (.revoke k) s = .next (u.answer k i a) :=
        congrArg Host.Outcome.next (answered (by rw [sop]; rfl) result)
      exact ⟨fun none_ => run (State.svcRevoke_denied target none_), fun n l g own => run (State.svcRevoke_launch target own),
        fun h own => run (State.svcRevoke_hbm target own)⟩
    case openm =>
      have run {u : State} {a : Option Answer} (result : s.svcOpen i q = (u, a)) : exec (.openm k) s = .next (u.answer k i a) :=
        congrArg Host.Outcome.next (answered (by rw [sop]; rfl) result)
      exact ⟨fun other => run (State.svcOpen_noSpad target other s i), fun spad none_ => run (State.svcOpen_denied target spad none_),
        fun n l g spad own => ⟨_, run (State.svcOpen_launch target spad own), (State.mem_opened ..).mpr (.inl rfl),
          fun o ho => (State.mem_opened ..).mpr (.inr ho)⟩⟩
    case query =>
      have run {u : State} {a : Option Answer} (result : s.svcQuery i q = (u, a)) : exec (.query k) s = .next (u.answer k i a) :=
        congrArg Host.Outcome.next (answered (by rw [sop]; rfl) result)
      exact ⟨fun none_ => run (State.svcQuery_busy none_ i q), fun c slot => run (State.svcQuery_current slot i q)⟩
    case mintm =>
      intro r
      have run {u : State} {a : Option Answer} (result : s.svcMintm i q = (u, a)) : exec (.mintm k) s = .next (u.answer k i a) :=
        congrArg Host.Outcome.next (answered (by rw [sop]; rfl) result)
      refine ⟨fun bad => run (State.svcMintm_badreq bad s i), fun target kind shape other => run ((State.svcMintm_formed target kind shape s i).1 other),
        fun target kind shape spad none_ => run ((State.svcMintm_formed target kind shape s i).2.1 spad none_),
        fun target kind shape spad slot reached some_ => ?_⟩
      have few : 0 < (s.leafPackages r).length := List.length_pos_iff.mpr some_
      refine ⟨_, run ((State.svcMintm_formed target kind shape s i).2.2 spad slot), ?_⟩
      rw [State.askLeaves_reached reached, State.putMintm_waiting (m := ⟨i, (s.leafPackages r).length, []⟩) few]
      exact ⟨rfl, rfl⟩
  case noReservation =>
    intro none_
    show execLeafConfirm d g n b s = _
    simp only [execLeafConfirm, none_, State.emit]
  case reservation =>
    intro l eg res gen
    show execLeafConfirm d g n b s = _
    simp only [execLeafConfirm, res, gen, Option.getD_some, State.emit]
  case leaf =>
    intro k leaf o eg m hm of first u m' q
    have run : exec (.leafConfirmationReceived k leaf o eg) s = .next (u.putMintm m') :=
      congrArg Host.Outcome.next (State.leafAnswered_new hm of first o eg)
    rw [run]
    refine ⟨fun few => ?_, fun all differ => ?_, fun c all agree slot => ?_⟩
    · rw [State.putMintm_waiting few]
    · rw [State.putMintm_complete all, State.endMintm_differ (m := m') rfl differ]
    · rw [State.putMintm_complete all, State.endMintm_agreed (s := u) (m := m') rfl agree slot]
      rfl

end Sys2Proof.Machine
end

section
/-! Proofs about route keys and domains (03_routes.md R71, R72, R75, R77, R78, R81, R83): the key slots, a rotation by the lead, the link map and the
lead of a domain. -/

namespace Sys2Proof.Machine

open Sys2Proof.Safety

/-! ## Key slots (03_routes.md R71, R75) -/

/-- Reading a key slot after one was written. -/
theorem State.keySlot_setSlot (s : State) (k j : BitVec 4) (v : KeySlot) : (s.setSlot k v).keySlot j = if j = k then v else s.keySlot j := by
  simp only [State.keySlot, State.setSlot, Vector.get_eq_getElem, Vector.getElem_set, BitVec.toNat_inj, eq_comm]

/-- A key slot reads the same wherever the slots are the same. -/
theorem State.keySlot_congr {s t : State} (h : t.fab.slots = s.fab.slots) (k : BitVec 4) : t.keySlot k = s.keySlot k := by
  simp only [State.keySlot, h]

/-- The slot that is found in a state is in it. -/
theorem State.slotIn_state {s : State} {st : SlotState} {k : BitVec 4} (h : s.slotIn st = some k) : (s.keySlot k).state = st := by
  obtain ⟨i, hi, rfl⟩ := Option.map_eq_some_iff.mp h
  have lt := i.isLt
  simpa [State.keySlot, Nat.mod_eq_of_lt lt] using List.find?_some hi

/-- INSTALL makes an EMPTY slot PENDING and changes no other. -/
theorem State.installKey_keySlot {s : State} {k : BitVec 4} (h : (s.keySlot k).state = .empty) (key : BitVec 256) (j : BitVec 4) :
    (s.installKey k key).keySlot j = if j = k then ⟨.pending, key⟩ else s.keySlot j := by
  rw [← State.keySlot_setSlot]
  exact State.keySlot_congr (State.installKey_slots h key) j

/-- INSTALL into a slot that is not EMPTY changes nothing. -/
theorem State.installKey_taken {s : State} {k : BitVec 4} (h : (s.keySlot k).state ≠ .empty) (key : BitVec 256) : s.installKey k key = s := if_pos h

/-- INSTALL sets the slot's L bit at the counter of every core, listed or not. -/
theorem State.installKey_ctr {s : State} {k : BitVec 4} (h : (s.keySlot k).state = .empty) (key : BitVec 256) (n : Nat) :
    ((s.installKey k key).core n).ctr = { (s.core n).ctr with l := (s.core n).ctr.l ||| slotBit k } := by
  simp only [State.installKey, h, ne_eq, not_true_eq_false, if_false, State.core, State.mapCores, State.setSlot, List.find?_map, Function.comp_def]
  split
  · rfl
  · cases s.cores.find? (·.id == n) <;> rfl

/-- INSTALL sets the slot's L bit at the counters of the stacks and of the Wellhead, and its SLOTOK bit at every port. -/
theorem State.installKey_bits {s : State} {k : BitVec 4} (h : (s.keySlot k).state = .empty) (key : BitVec 256) :
    (∀ i : Fin 8, ((s.installKey k key).fab.stackCtr.get i).l = (s.fab.stackCtr.get i).l ||| slotBit k) ∧
    (s.installKey k key).fab.wellCtr.l = s.fab.wellCtr.l ||| slotBit k ∧
    (∀ p, ((s.installKey k key).link (.port p)).slotok = (s.link (.port p)).slotok ||| slotBit k) := by
  simp only [State.installKey, h, ne_eq, not_true_eq_false, if_false, State.link, State.mapCores, State.setSlot, Vector.get_eq_getElem,
    Vector.getElem_map]
  exact ⟨fun _ => rfl, rfl, fun _ => rfl⟩

/-- ACTIVATE makes a PENDING slot CURRENT, and the one that was ACCEPT. -/
theorem State.activateKey_keySlot {s : State} {k : BitVec 4} (h : (s.keySlot k).state = .pending) (j : BitVec 4) :
    (s.activateKey k).keySlot j = if j = k then ⟨.current, (s.keySlot k).key⟩
      else if s.currentSlot.map Fin.val = some j.toNat then ⟨.accept, (s.keySlot j).key⟩ else s.keySlot j := by
  cases hc : s.currentSlot with
  | none =>
    rw [State.keySlot_congr (t := s.activateKey k) (s := s.setSlot k ⟨.current, (s.keySlot k).key⟩) (State.activateKey_slots h hc), State.keySlot_setSlot]
    simp
  | some i =>
    let c : BitVec 4 := BitVec.ofNat 4 i.val
    have toNat : c.toNat = i.val := by simp [c]
    have current : (s.keySlot c).state = .current := by simpa [State.keySlot, toNat] using List.find?_some hc
    have other : k ≠ c := by
      rintro rfl
      rw [current] at h
      contradiction
    let u := s.setSlot c ⟨.accept, (s.keySlot c).key⟩
    have slots : (s.activateKey k).fab.slots = (u.setSlot k ⟨.current, (u.keySlot k).key⟩).fab.slots := by
      simp only [State.activateKey, h, hc, ne_eq, not_true_eq_false, if_false]
      rfl
    have isCurrent : (some i).map Fin.val = some j.toNat ↔ j = c := by
      rw [Option.map_some, Option.some_inj, ← toNat, BitVec.toNat_inj, eq_comm]
    rw [State.keySlot_congr slots, State.keySlot_setSlot, State.keySlot_setSlot, State.keySlot_setSlot, if_neg other]
    simp only [isCurrent]
    by_cases hj : j = c
    · simp [hj]
    · simp [hj]

/-- ACTIVATE of a slot that is not PENDING changes nothing. -/
theorem State.activateKey_other {s : State} {k : BitVec 4} (h : (s.keySlot k).state ≠ .pending) : s.activateKey k = s := if_pos h

/-- ACTIVATE keeps the key of its slot. -/
theorem State.activateKey_key (s : State) (k : BitVec 4) : ((s.activateKey k).keySlot k).key = (s.keySlot k).key := by
  by_cases h : (s.keySlot k).state = .pending
  · rw [State.activateKey_keySlot h, if_pos rfl]
  · rw [State.activateKey_other h]

/-- RETIRE empties a slot in ACCEPT and changes no other. -/
theorem State.retireKey_keySlot {s : State} {k : BitVec 4} (h : (s.keySlot k).state = .accept) (j : BitVec 4) :
    (s.retireKey k).keySlot j = if j = k then ⟨.empty, 0⟩ else s.keySlot j := by
  rw [← State.keySlot_setSlot]
  refine State.keySlot_congr ?_ j
  simp [State.retireKey, h]

/-- RETIRE of a slot that is not in ACCEPT changes nothing. -/
theorem State.retireKey_other {s : State} {k : BitVec 4} (h : (s.keySlot k).state ≠ .accept) : s.retireKey k = s := if_pos h

/-- A package takes keys when it has an identifier and another lead. -/
theorem State.takesKeys_iff (s : State) : s.takesKeys = true ↔ s.fab.pkgId ≠ 0 ∧ s.fab.lead ≠ s.fab.myId := by simp [State.takesKeys]

/-! ## What the messages and the keys leave of a domain -/

/-- The package's identity, the lead, the link map and the table of identifiers. -/
def State.domain (s : State) : DevId × DevId × List MapLink × List (DevId × BitVec 16) := (s.fab.myId, s.fab.lead, s.fab.map, s.fab.table)

@[simp] theorem State.tellAll_fab (s : State) (kind a b : Nat) : (s.tellAll kind a b).fab = s.fab :=
  foldl_keeps State.fab (fun _ _ => State.tell_fab ..) _ _
@[simp] theorem State.tellAll_draws (s : State) (kind a b : Nat) : (s.tellAll kind a b).draws = s.draws :=
  foldl_keeps State.draws (fun _ _ => State.tell_draws ..) _ _
@[simp] theorem State.tellAll_domain (s : State) (kind a b : Nat) : (s.tellAll kind a b).domain = s.domain := by simp [State.domain]

@[simp] theorem State.installKey_domain (s : State) (k : BitVec 4) (key : BitVec 256) : (s.installKey k key).domain = s.domain := by
  unfold State.installKey
  split <;> rfl
@[simp] theorem State.activateKey_domain (s : State) (k : BitVec 4) : (s.activateKey k).domain = s.domain := by
  unfold State.activateKey
  (repeat' split) <;> rfl
@[simp] theorem State.retireKey_domain (s : State) (k : BitVec 4) : (s.retireKey k).domain = s.domain := by
  unfold State.retireKey
  split <;> rfl
@[simp] theorem State.activateAll_domain (s : State) (k : BitVec 4) : (s.activateAll k).domain = s.domain := by
  unfold State.activateAll
  split <;> simp
@[simp] theorem State.sendKey_domain (d : DevId) (s : State) (k : BitVec 4) : (s.sendKey d k).domain = s.domain := by
  unfold State.sendKey
  dsimp only
  split <;> rfl

/-! ## A rotation by the lead (03_routes.md R72) -/

@[simp] theorem State.sendKey_slots (d : DevId) (s : State) (k : BitVec 4) : (s.sendKey d k).fab.slots = s.fab.slots := by
  unfold State.sendKey
  dsimp only
  split <;> rfl
@[simp] theorem State.sendKey_draws (d : DevId) (s : State) (k : BitVec 4) : (s.sendKey d k).draws = s.draws := by
  unfold State.sendKey
  dsimp only
  split <;> rfl

/-- The acknowledgement of a key that was sent is awaited. -/
theorem State.mem_sendKey (d : DevId) (s : State) (k : BitVec 4) (x : BitVec 4 × DevId) :
    x ∈ (s.sendKey d k).fab.installWait ↔ x ∈ s.fab.installWait ∨ x = (k, d) := by
  unfold State.sendKey
  dsimp only
  split
  next known =>
    have mem : (k, d) ∈ s.fab.installWait := by simpa using known
    exact ⟨Or.inl, fun h => h.elim id fun e => e ▸ mem⟩
  next => simp

/-- The lead sends a slot's key to devices. -/
def State.sendTo (s : State) (ds : List DevId) (k : BitVec 4) : State := ds.foldl (fun (s : State) d => s.sendKey d k) s

@[simp] theorem State.sendTo_slots (s : State) (ds : List DevId) (k : BitVec 4) : (s.sendTo ds k).fab.slots = s.fab.slots :=
  foldl_keeps (fun t : State => t.fab.slots) (fun _ _ => State.sendKey_slots ..) ds s
@[simp] theorem State.sendTo_draws (s : State) (ds : List DevId) (k : BitVec 4) : (s.sendTo ds k).draws = s.draws :=
  foldl_keeps State.draws (fun _ _ => State.sendKey_draws ..) ds s
@[simp] theorem State.sendTo_domain (s : State) (ds : List DevId) (k : BitVec 4) : (s.sendTo ds k).domain = s.domain :=
  foldl_keeps State.domain (fun _ _ => State.sendKey_domain ..) ds s

/-- Their acknowledgements are awaited. -/
theorem State.mem_sendTo (s : State) (ds : List DevId) (k : BitVec 4) (x : BitVec 4 × DevId) :
    x ∈ (s.sendTo ds k).fab.installWait ↔ x ∈ s.fab.installWait ∨ x.1 = k ∧ x.2 ∈ ds := by
  induction ds generalizing s with
  | nil => simp [State.sendTo]
  | cons d ds ih =>
    have step : s.sendTo (d :: ds) k = (s.sendKey d k).sendTo ds k := rfl
    rw [step, ih, State.mem_sendKey, List.mem_cons, Prod.ext_iff]
    tauto

/-- A slot whose INSTALL a member has yet to acknowledge is not activated. -/
theorem State.activateAll_awaited {s : State} {k : BitVec 4} (h : ∃ x ∈ s.fab.installWait, x.1 = k) : s.activateAll k = s :=
  if_pos (by simpa using h)

/-- Once all have acknowledged it, the slot is activated everywhere. -/
theorem State.activateAll_acknowledged {s : State} {k : BitVec 4} (h : ∀ x ∈ s.fab.installWait, x.1 ≠ k) :
    s.activateAll k = (s.activateKey k).tellAll 2 k.toNat 0 :=
  if_neg fun waits => by
    obtain ⟨x, hx, e⟩ := List.any_eq_true.mp waits
    exact h x hx (beq_iff_eq.mp e)

@[simp] theorem State.installKey_installWait (s : State) (k : BitVec 4) (key : BitVec 256) : (s.installKey k key).fab.installWait = s.fab.installWait := by
  unfold State.installKey
  split <;> rfl
@[simp] theorem State.activateKey_installWait (s : State) (k : BitVec 4) : (s.activateKey k).fab.installWait = s.fab.installWait := by
  unfold State.activateKey
  (repeat' split) <;> rfl
@[simp] theorem State.activateAll_installWait (s : State) (k : BitVec 4) : (s.activateAll k).fab.installWait = s.fab.installWait := by
  unfold State.activateAll
  split <;> simp
@[simp] theorem State.activateAll_draws (s : State) (k : BitVec 4) : (s.activateAll k).draws = s.draws := by
  unfold State.activateAll
  split <;> simp

/-- A slot keeps its key when it is activated everywhere. -/
theorem State.activateAll_key (s : State) (k : BitVec 4) : ((s.activateAll k).keySlot k).key = (s.keySlot k).key := by
  unfold State.activateAll
  split
  · rfl
  · rw [State.keySlot_congr (congrArg Fabric.slots (State.tellAll_fab ..)), State.activateKey_key]

/-- A PENDING slot that all have acknowledged becomes CURRENT. -/
theorem State.activateAll_current {s : State} {k : BitVec 4} (pending : (s.keySlot k).state = .pending) (h : ∀ x ∈ s.fab.installWait, x.1 ≠ k) :
    ((s.activateAll k).keySlot k).state = .current := by
  rw [State.activateAll_acknowledged h, State.keySlot_congr (congrArg Fabric.slots (State.tellAll_fab ..)), State.activateKey_keySlot pending, if_pos rfl]

/-- A rotation with an EMPTY slot: the lead draws a key, installs it in its own slots and sends it to the others. -/
theorem State.rotateNow_empty {s : State} {k : BitVec 4} (h : s.slotIn .empty = some k) :
    s.rotateNow = ((((s.draw.2).installKey k (Config.routeKey s.draws)).sendTo s.others k).activateAll k) := by
  simp only [State.rotateNow, h]
  rfl

/-- What a rotation does: the key that was drawn is in its slot, PENDING while a member has yet to acknowledge it. -/
theorem State.rotateNow_effect {s : State} {k : BitVec 4} (h : s.slotIn .empty = some k) :
    s.rotateNow.draws = s.draws + 1 ∧
    (∀ x, x ∈ s.rotateNow.fab.installWait ↔ x ∈ s.fab.installWait ∨ x.1 = k ∧ x.2 ∈ s.others) ∧
    (s.rotateNow.keySlot k).key = Config.routeKey s.draws ∧
    ((∃ x ∈ s.rotateNow.fab.installWait, x.1 = k) → (s.rotateNow.keySlot k).state = .pending) ∧
    ((∀ x ∈ s.rotateNow.fab.installWait, x.1 ≠ k) → (s.rotateNow.keySlot k).state = .current) := by
  let u := ((s.draw.2).installKey k (Config.routeKey s.draws)).sendTo s.others k
  have run : s.rotateNow = u.activateAll k := State.rotateNow_empty h
  have empty : (s.draw.2.keySlot k).state = .empty := State.slotIn_state h
  have slot : u.keySlot k = ⟨.pending, Config.routeKey s.draws⟩ := by
    rw [State.keySlot_congr (State.sendTo_slots ..), State.installKey_keySlot empty, if_pos rfl]
  have waits (x : BitVec 4 × DevId) : x ∈ u.fab.installWait ↔ x ∈ s.fab.installWait ∨ x.1 = k ∧ x.2 ∈ s.others := by
    rw [State.mem_sendTo, State.installKey_installWait]
    rfl
  rw [run, State.activateAll_installWait]
  refine ⟨by simp [u, State.draw], waits, by rw [State.activateAll_key, slot], fun awaited => ?_, fun free => ?_⟩
  · rw [State.activateAll_awaited awaited, slot]
  · exact State.activateAll_current (by rw [slot]) free

/-- A rotation keeps what is known of the domain. -/
@[simp] theorem State.rotateNow_domain (s : State) : s.rotateNow.domain = s.domain := by
  unfold State.rotateNow
  extract_lets u
  have kept : u.domain = s.domain := by
    unfold u
    (repeat' split) <;> simp
  split
  · exact kept
  · refine (State.activateAll_domain ..).trans (.trans ?_ kept)
    exact (State.sendTo_domain ..).trans (State.installKey_domain ..)

/-- While no rotation is under way, the lead rotates the keys. -/
theorem State.rotateKeys_lead {s : State} (lead : s.fab.lead = s.fab.myId) (idle : s.slotIn .pending = none) : s.rotateKeys = s.rotateNow := by
  simp [State.rotateKeys, lead, idle]

/-! ## Link maps and leads (03_routes.md R81, R83) -/

/-- The lowest device is one of those given. -/
theorem lowestDev_mem (l : List DevId) (d : DevId) : lowestDev l d ∈ d :: l := by
  induction l generalizing d with
  | nil => exact List.mem_singleton_self d
  | cons e l ih =>
    have step : lowestDev (e :: l) d = lowestDev l (if e < d then e else d) := rfl
    rw [step]
    split
    · exact List.mem_cons_of_mem _ (ih e)
    · exact (List.mem_cons.mp (ih d)).elim (fun own => List.mem_cons.mpr (.inl own)) fun rest => List.mem_cons_of_mem _ (List.mem_cons_of_mem _ rest)

/-- None of those given is lower. -/
theorem lowestDev_le (l : List DevId) (d : DevId) : ∀ x ∈ d :: l, lowestDev l d ≤ x := by
  induction l generalizing d with
  | nil => simp [lowestDev]
  | cons e l ih =>
    have step : lowestDev (e :: l) d = lowestDev l (if e < d then e else d) := rfl
    rw [step]
    split
    next lower =>
      obtain ⟨first, rest⟩ := List.forall_mem_cons.mp (ih e)
      exact List.forall_mem_cons.mpr ⟨first.trans lower.le, List.forall_mem_cons.mpr ⟨first, rest⟩⟩
    next higher =>
      obtain ⟨first, rest⟩ := List.forall_mem_cons.mp (ih d)
      exact List.forall_mem_cons.mpr ⟨first, List.forall_mem_cons.mpr ⟨first.trans (not_lt.mp higher), rest⟩⟩

/-- The members are known from the link map and the package's identity. -/
theorem State.members_congr {s t : State} (map : t.fab.map = s.fab.map) (myId : t.fab.myId = s.fab.myId) : t.members = s.members := by
  simp only [State.members, map, myId]

theorem State.myId_mem_members (s : State) : s.fab.myId ∈ s.members := by simp [State.members]

/-- The lowest of the connected devices is one of them, and none is lower. -/
theorem State.lowest_members (s : State) : lowestDev s.members s.fab.myId ∈ s.members ∧ ∀ d ∈ s.members, lowestDev s.members s.fab.myId ≤ d := by
  refine ⟨?_, fun d hd => lowestDev_le _ _ d (List.mem_cons_of_mem _ hd)⟩
  obtain own | mem := List.mem_cons.mp (lowestDev_mem s.members s.fab.myId)
  · rw [own]
    exact s.myId_mem_members
  · exact mem

/-- The package's identity, the lead and the link map. -/
def State.topology (s : State) : DevId × DevId × List MapLink := (s.fab.myId, s.fab.lead, s.fab.map)

@[simp] theorem State.sendKeys_topology (s : State) (d : DevId) : (s.sendKeys d).topology = s.topology :=
  foldl_keeps State.topology (fun s k => congrArg (fun x => (x.1, x.2.1, x.2.2.1)) (State.sendKey_domain d s k)) _ _
@[simp] theorem State.formDomain_topology (s : State) : s.formDomain.topology = s.topology := by
  unfold State.formDomain
  split
  · rfl
  · exact foldl_keeps State.topology State.sendKeys_topology _ _

/-- The package with the links that a Wellhead reports, which it forwards. -/
def State.joined (s : State) (src : DevId) (pkg : BitVec 16) (m : List MapLink) : State :=
  { s with
    fab := { s.fab with map := (s.fab.map.filter fun l => l.src != src) ++ m.filter fun l => l.src == src }
    out := .announce src pkg m :: s.out }

/-- The package with the lead that it follows: a package of no domain follows the lowest device of those connected. -/
def State.led (s : State) : State := if s.fab.pkgId = 0 then { s with fab := { s.fab with lead := lowestDev s.members s.fab.myId } } else s

/-- What taking a link map does: the links join and the lead is followed; the lead itself also gives identifiers and keys. -/
theorem State.takeMap_eq (s : State) (src : DevId) (pkg : BitVec 16) (m : List MapLink) :
    s.takeMap src pkg m = if (s.joined src pkg m).led.fab.lead ≠ s.fab.myId then (s.joined src pkg m).led
      else if pkg = 0 && src != s.fab.myId && s.fab.table.any (·.1 == src) then (s.joined src pkg m).led.formDomain.sendKeys src
      else (s.joined src pkg m).led.formDomain := rfl

theorem State.led_none {s : State} (h : s.fab.pkgId = 0) : s.led = { s with fab := { s.fab with lead := lowestDev s.members s.fab.myId } } := if_pos h
theorem State.led_some {s : State} (h : s.fab.pkgId ≠ 0) : s.led = s := if_neg h
@[simp] theorem State.led_map (s : State) : s.led.fab.map = s.fab.map := by
  unfold State.led
  split <;> rfl
@[simp] theorem State.led_myId (s : State) : s.led.fab.myId = s.fab.myId := by
  unfold State.led
  split <;> rfl

/-- Taking a link map leaves the links and the lead that were just found. -/
theorem State.takeMap_topology (s : State) (src : DevId) (pkg : BitVec 16) (m : List MapLink) :
    (s.takeMap src pkg m).topology = (s.joined src pkg m).led.topology := by
  rw [State.takeMap_eq]
  (repeat' split) <;> simp

/-- A package that follows another lead only forwards the links. -/
theorem State.takeMap_out {s : State} {src : DevId} {pkg : BitVec 16} {m : List MapLink} (h : (s.takeMap src pkg m).fab.lead ≠ s.fab.myId) :
    (s.takeMap src pkg m).out = .announce src pkg m :: s.out := by
  have lead : (s.takeMap src pkg m).fab.lead = (s.joined src pkg m).led.fab.lead := congrArg (fun x => x.2.1) (State.takeMap_topology ..)
  rw [State.takeMap_eq, if_pos (lead ▸ h), State.led]
  split <;> rfl

/-- Every key slot of a domain that dissolves is EMPTY. -/
theorem State.dissolve_keySlot (s : State) (k : BitVec 4) : s.dissolve.keySlot k = ⟨.empty, 0⟩ := by
  simp [State.keySlot, State.dissolve, Vector.get_eq_getElem]

/-- The package after it has left a lead that departed, which the lowest remaining device follows. -/
def State.departed (s : State) (d : DevId) : State :=
  let u : State := { s with fab := { s.fab with
    map := s.fab.map.filter fun l => l.src != d && l.dst != d
    installWait := s.fab.installWait.filter fun x => x.2 != d } }
  { u with fab := { u.fab with lead := lowestDev u.members s.fab.myId } }

/-- Another remaining device leads. -/
theorem State.leadDepart_follows {s : State} {d : DevId} (lead : s.fab.lead = d) (other : d ≠ s.fab.myId) (next : (s.departed d).fab.lead ≠ s.fab.myId) :
    s.leadDepart d = s.departed d := by
  unfold State.leadDepart
  rw [if_neg (by simp [lead, other])]
  exact if_neg next

/-- The rotation that was under way is seen through: the PENDING slot's key goes out again. -/
def State.seenThrough (s : State) : State :=
  match s.slotIn .pending with
  | none => s
  | some k => (s.sendTo s.others k).activateAll k

theorem State.seenThrough_idle {s : State} (idle : s.slotIn .pending = none) : s.seenThrough = s := by simp only [State.seenThrough, idle]

@[simp] theorem State.seenThrough_domain (s : State) : s.seenThrough.domain = s.domain := by
  unfold State.seenThrough
  split <;> simp

/-- This package leads: it sees a rotation through and rotates the keys. -/
theorem State.leadDepart_leads {s : State} {d : DevId} (lead : s.fab.lead = d) (other : d ≠ s.fab.myId) (next : (s.departed d).fab.lead = s.fab.myId) :
    s.leadDepart d = (s.departed d).seenThrough.rotateNow := by
  rw [State.leadDepart, if_neg (by simp [lead, other])]
  exact if_pos next

/-- Settles O47: the key slots by their states, a rotation by the acknowledgements that are awaited, a domain by its lowest device; with the model's
choices of log entries 38, 92 and 93. -/
theorem keyResults : Obligations.KeyResults := by
  unfold Obligations.KeyResults
  intro s
  refine ⟨?lone, fun domain follows k => ⟨fun key empty => ?install, fun key taken => ?again, fun pending => ?activate, fun other => ?inactive,
      fun accept => ?retire, fun other => ?unretired⟩, ?noRotation, fun k lead idle empty => ?rotation, ?strange, fun src k waits => ?acknowledged,
    ?noWrap, ?wrap, ?revoked, fun src pkg m => ?map, fun lead table => ⟨?higher, ?assigned⟩, ?notLead, ?departed, ?noMerge, ?merged⟩
  case lone =>
    intro lone k key
    have no : s.takesKeys = false := by
      rw [Bool.eq_false_iff, ne_eq, State.takesKeys_iff]
      tauto
    show execKeyInstall k key s = _ ∧ execKeyActivate k s = _ ∧ execKeyRetire k s = _
    simp [execKeyInstall, execKeyActivate, execKeyRetire, no]
  case install =>
    have takes := (s.takesKeys_iff).mpr ⟨domain, follows⟩
    have run : exec (.keyInstall k key) s = .next ((s.installKey k key).tell s.fab.lead 4 k.toNat 0) := by
      show execKeyInstall k key s = _
      simp [execKeyInstall, takes, empty]
    obtain ⟨stack, well, ports⟩ := State.installKey_bits empty key
    exact ⟨_, run, State.installKey_keySlot empty key, State.installKey_ctr empty key, stack, well, ports,
      congrArg (OutMsg.wellheadMsg s.fab.lead 4 k.toNat 0 :: ·) (State.installKey_out ..)⟩
  case again =>
    show execKeyInstall k key s = _
    by_cases same : (s.keySlot k).key = key
    · simp [execKeyInstall, (s.takesKeys_iff).mpr ⟨domain, follows⟩, same, State.installKey_taken taken, State.tell, State.emit]
    · simp [execKeyInstall, taken, same]
  case activate =>
    refine ⟨s.activateKey k, ?_, State.activateKey_keySlot pending⟩
    show execKeyActivate k s = _
    rw [execKeyActivate, if_pos ((s.takesKeys_iff).mpr ⟨domain, follows⟩)]
  case inactive =>
    show execKeyActivate k s = _
    rw [execKeyActivate, State.activateKey_other other, ite_self]
  case retire =>
    refine ⟨s.retireKey k, ?_, State.retireKey_keySlot accept⟩
    show execKeyRetire k s = _
    rw [execKeyRetire, if_pos ((s.takesKeys_iff).mpr ⟨domain, follows⟩)]
  case unretired =>
    show execKeyRetire k s = _
    rw [execKeyRetire, State.retireKey_other other, ite_self]
  case noRotation =>
    intro busy
    exact congrArg Host.Outcome.next (if_pos (by simpa using busy))
  case rotation =>
    exact ⟨s.rotateNow, congrArg Host.Outcome.next (State.rotateKeys_lead lead idle), State.rotateNow_effect empty⟩
  case strange =>
    intro src k unknown
    show execInstallAck src k s = _
    simp [execInstallAck, unknown]
  case acknowledged =>
    let u : State := { s with fab := { s.fab with installWait := s.fab.installWait.filter fun x => x != (k, src) } }
    have run : exec (.installAck src k) s = .next (u.activateAll k) := by
      show execInstallAck src k s = _
      simp [execInstallAck, waits, u]
    refine ⟨_, run, State.activateAll_installWait u k, State.activateAll_key u k, fun awaited => ?_, fun free pending => ?_⟩
    · rw [State.activateAll_installWait] at awaited
      rw [State.activateAll_awaited awaited]
    · rw [State.activateAll_installWait] at free
      exact State.activateAll_current pending free
  case noWrap =>
    intro c unknown
    show execWrapNotice c s = _
    simp [execWrapNotice, unknown]
  case wrap =>
    intro c known u
    refine ⟨fun follows => ?_, fun lead idle => ?_⟩
    · show execWrapNotice c s = _
      simp [execWrapNotice, known, follows, State.tell, State.emit, u]
    · show execWrapNotice c s = .next u.rotateKeys
      simp [execWrapNotice, known, lead, idle, u]
  case revoked =>
    intro k r hr u
    show Host.Outcome.next (s.revoked k) = _
    cases w : r.waiter <;> simp only [State.revoked, hr, w, u]
  case map =>
    have topology := State.takeMap_topology s src pkg m
    simp only [State.topology, State.led_map, State.led_myId, Prod.mk.injEq] at topology
    obtain ⟨myId, lead, links⟩ := topology
    have members : (s.takeMap src pkg m).members = (s.joined src pkg m).members := State.members_congr links myId
    refine ⟨s.takeMap src pkg m, rfl, fun l => ?_, fun none_ => ?_, fun some_ => ?_, State.takeMap_out⟩
    · rw [links]
      simp [State.joined]
    · have none_ : (s.joined src pkg m).fab.pkgId = 0 := none_
      rw [lead, members, State.led_none none_]
      exact State.lowest_members _
    · have some_ : (s.joined src pkg m).fab.pkgId ≠ 0 := some_
      rw [lead, State.led_some some_]
      rfl
  case higher => exact fun higher => congrArg Host.Outcome.next (if_pos higher)
  case assigned =>
    intro low
    refine ⟨_, congrArg Host.Outcome.next (if_neg low), rfl, rfl, rfl, fun left k => ?_, fun some_ same => ?_⟩
    · have dissolves : (decide (s.fab.pkgId = 0) || decide (lead < s.fab.lead)) = true := by simpa using left
      simp only [dissolves, if_true]
      exact s.dissolve_keySlot k
    · have stays : (decide (s.fab.pkgId = 0) || decide (lead < s.fab.lead)) = false := by
        rw [decide_eq_false some_, decide_eq_false (same ▸ lt_irrefl _)]
        rfl
      simp only [stays, Bool.false_eq_true, if_false]
  case notLead =>
    intro d other
    exact congrArg Host.Outcome.next (if_pos (by simpa using other))
  case departed =>
    intro d lead other u n v
    refine ⟨fun next => congrArg Host.Outcome.next (State.leadDepart_follows lead other next), fun next idle => congrArg Host.Outcome.next ?_,
      fun next busy => ⟨s.leadDepart d, rfl, ?_⟩⟩
    · have idle : (s.departed d).slotIn .pending = none := idle
      rw [State.leadDepart_leads lead other next, State.seenThrough_idle idle]
      exact (State.rotateKeys_lead next idle).symm
    · have domain : (s.leadDepart d).domain = v.domain := by
        rw [State.leadDepart_leads lead other next, State.rotateNow_domain, State.seenThrough_domain]
        rfl
      simp only [State.domain, Prod.mk.injEq] at domain
      obtain ⟨-, newLead, -, table⟩ := domain
      exact ⟨newLead, table⟩
  case noMerge => exact fun d higher => congrArg Host.Outcome.next (if_neg higher)
  case merged => exact fun d lower => ⟨_, congrArg Host.Outcome.next (if_pos lower), s.dissolve_keySlot, rfl, rfl, rfl⟩

end Sys2Proof.Machine
end

section
/-! Proofs about the transfers of the Siphon (04_storage.md R97, R111): the drive commands that one becomes, their ends, and the reset of a drive's
controller. -/

namespace Sys2Proof.Machine

open Sys2Proof.Safety

/-! ## The commands of a transfer (04_storage.md R97) -/

/-- A drive takes at least one block at once. -/
theorem State.maxBlocks_pos (s : State) (d : BitVec 2) : 0 < s.maxBlocks d := by
  unfold State.maxBlocks
  dsimp only
  split <;> omega

/-- The blocks of a range's pieces are those of the range, in order. -/
theorem blockPieces_cover {lim : Nat} (pos : 0 < lim) {fuel n : Nat} (enough : n < fuel) (lba : Nat) :
    (blockPieces lim fuel lba n).flatMap (fun p => List.range' p.1 p.2) = List.range' lba n := by
  induction fuel generalizing lba n with
  | zero => exact absurd enough (Nat.not_lt_zero n)
  | succ fuel ih =>
    unfold blockPieces
    split
    · simp
    next more =>
      rw [List.flatMap_cons, ih (by omega), List.range'_append_1]
      congr 1
      omega

/-- No piece of a range has more blocks than the limit. -/
theorem blockPieces_le {lim fuel lba n : Nat} : ∀ p ∈ blockPieces lim fuel lba n, p.2 ≤ lim := by
  induction fuel generalizing lba n with
  | zero => simp [blockPieces]
  | succ fuel ih =>
    unfold blockPieces
    split
    next fits => simpa using fits
    next => exact List.forall_mem_cons.mpr ⟨le_refl lim, ih⟩

/-- Mapping with the position does nothing more than mapping where the function does not look at it. -/
theorem flatMap_mapIdx {α β γ : Type} {f : Nat → α → β} {g : β → List γ} {h : α → List γ} (same : ∀ i a, g (f i a) = h a) (l : List α) :
    (l.mapIdx f).flatMap g = l.flatMap h := by
  induction l generalizing f with
  | nil => rfl
  | cons a l ih => rw [List.mapIdx_cons, List.flatMap_cons, List.flatMap_cons, same, ih fun i a => same (i + 1) a]

/-- A transfer of data becomes commands that the drive takes. -/
theorem State.issueCmd_issued {use : NvmeUse} (moves : use.moves = true) (s : State) (d : BitVec 2) (nsid lba n xfer : Nat) :
    Issued s (s.issueCmd d nsid lba n use xfer) d nsid lba n use xfer := by
  let ps := blockPieces (s.maxBlocks d) (n + 1) lba n
  refine ⟨ps.mapIdx fun i p => ⟨s.sip.nextCid + i, d, nsid, p.1, p.2, false, use, xfer, none, s.sip.cycle⟩, ?_, ?_, ?_, ?_⟩
  · simp only [State.issueCmd, moves, if_true, List.length_mapIdx, ps]
  · exact List.ext_getElem (by simp) fun i h _ => by simp
  · rw [flatMap_mapIdx (h := fun p => List.range' p.1 p.2) fun _ _ => rfl]
    exact blockPieces_cover (s.maxBlocks_pos d) (Nat.lt_succ_self n) lba
  · intro c hc
    obtain ⟨i, h, rfl⟩ := List.mem_mapIdx.mp hc
    exact ⟨rfl, rfl, blockPieces_le _ (List.getElem_mem h), rfl, rfl, rfl, rfl, rfl⟩

/-! ## What the service of a page and the answer to a command leave in flight -/

@[simp] theorem State.putSq_cmds (s : State) (q : SqCmd) : (s.putSq q).sip.cmds = s.sip.cmds := rfl
@[simp] theorem State.putPool_cmds (s : State) (p : Pool) : (s.putPool p).sip.cmds = s.sip.cmds := rfl
@[simp] theorem State.clearBusy_cmds (s : State) (owner : Nat) : (s.clearBusy owner).sip.cmds = s.sip.cmds := rfl
@[simp] theorem State.putBlocks_cmds (s : State) (bs : List DriveBlock) : (s.putBlocks bs).sip.cmds = s.sip.cmds := rfl
@[simp] theorem State.forgetBlocks_cmds (s : State) (d : BitVec 2) (nsid lba n : Nat) : (s.forgetBlocks d nsid lba n).sip.cmds = s.sip.cmds := rfl
@[simp] theorem State.putFrame_cmds (s : State) (frame key : Nat) (data : List Byte) : (s.putFrame frame key data).sip.cmds = s.sip.cmds := rfl
@[simp] theorem State.complete_cmds (s : State) (q : SqCmd) (st : Sstat) (nv : BitVec 16) (arg : Word) : (s.complete q st nv arg).sip.cmds = s.sip.cmds := by
  simp [State.complete]
@[simp] theorem State.keepFrame_cmds (s : State) (encl : Byte) (c frame : Nat) : (s.keepFrame encl c frame).sip.cmds = s.sip.cmds := by
  unfold State.keepFrame
  split <;> rfl
@[simp] theorem State.restoreHart_cmds (s : State) (h : Hart) : (s.restoreHart h).sip.cmds = s.sip.cmds := by
  unfold State.restoreHart
  split <;> simp
@[simp] theorem State.pageDone_cmds (s : State) (f : FaultRec) (failed : Bool) : (s.pageDone f failed).sip.cmds = s.sip.cmds := by
  refine foldl_keeps (fun t : State => t.sip.cmds) (fun t w => ?_) _ _
  split
  · rfl
  · dsimp only
    split <;> simp
@[simp] theorem State.prefetchPage_cmds (s : State) (id va : Nat) (fail : Option (Sstat × BitVec 16)) (installed : Bool) :
    (s.prefetchPage id va fail installed).sip.cmds = s.sip.cmds := by
  unfold State.prefetchPage
  dsimp only
  (repeat' split) <;> simp
@[simp] theorem State.serviceEnd_cmds (s : State) (f : FaultRec) (fail : Option (Sstat × BitVec 16)) (installed : Bool) :
    (s.serviceEnd f fail installed).sip.cmds = s.sip.cmds :=
  (foldl_keeps (fun t : State => t.sip.cmds) (fun _ _ => State.prefetchPage_cmds ..) _ _).trans (State.pageDone_cmds ..)
@[simp] theorem State.serviceFail_cmds (s : State) (f : FaultRec) (st : Sstat) (nv : BitVec 16) (cls lba : Nat) :
    (s.serviceFail f st nv cls lba).sip.cmds = s.sip.cmds := by
  unfold State.serviceFail
  dsimp only
  split <;> simp
@[simp] theorem State.readBlocks_sip (s : State) (d : BitVec 2) (nsid : Nat) (key : Option (BitVec 256)) (n lba : Nat) :
    (s.readBlocks d nsid key n lba).2.sip = s.sip := by
  induction n generalizing s lba with
  | zero => rfl
  | succ n ih => exact ih _ _

/-- A write to storage is none to the Siphon. -/
theorem State.writeLoc_sip {s t : State} {l : Loc} {n v : Nat} (h : s.writeLoc l n v = some t) : t.sip = s.sip := by
  rw [State.writeLoc_eq h]

/-- A write that may be refused is none to the Siphon. -/
@[simp] theorem State.writeLoc_getD_sip (s : State) (l : Loc) (n v : Nat) : ((s.writeLoc l n v).getD s).sip = s.sip := by
  cases h : s.writeLoc l n v with
  | none => rfl
  | some t => exact State.writeLoc_sip h

@[simp] theorem State.installSpan_sip (s : State) (key a0 : Nat) (e0 : Word) (frame n j : Nat) :
    (s.installSpan key a0 e0 frame n j).1.sip = s.sip := by
  induction n generalizing s j with
  | zero => rfl
  | succ n ih =>
    unfold State.installSpan
    dsimp only
    split
    · rfl
    split
    · rfl
    split
    · rfl
    next written =>
      split
      · exact (ih _ _).trans (State.writeLoc_sip written)
      · exact (State.writeLoc_getD_sip ..).trans ((ih _ _).trans (State.writeLoc_sip written))

@[simp] theorem State.readDone_cmds (s : State) (c : NvmeCmd) (f : FaultRec) (frame : Nat) : (s.readDone c f frame).sip.cmds = s.sip.cmds := by
  unfold State.readDone
  dsimp only
  split
  · simp
  · split <;> simp
@[simp] theorem AnsweredAs_cmds (s : State) (id : Nat) : (AnsweredAs s id).sip.cmds = s.sip.cmds := by
  unfold AnsweredAs
  (repeat' split) <;> simp

/-! ## The end of a command (04_storage.md R97, R111) -/

/-- What a command's end does to its blocks. -/
theorem State.cmdBlocks_eq (s : State) (c : NvmeCmd) (ok : Bool) : s.cmdBlocks c ok = BlocksAfter s c ok := by
  unfold State.cmdBlocks BlocksAfter
  cases c.use <;> cases ok <;> rfl

@[simp] theorem BlocksAfter_cmds (s : State) (c : NvmeCmd) (ok : Bool) : (BlocksAfter s c ok).sip.cmds = s.sip.cmds := by
  unfold BlocksAfter
  (repeat' split) <;> simp

/-- What the success of a transfer does: a page is installed, or the command that asked for it is answered. -/
def AfterTransfer (s : State) (c : NvmeCmd) : State :=
  match c.use with
  | .fault f a _ => s.readDone c f a
  | .write id _ => AnsweredAs s id
  | .trim id _ _ _ => AnsweredAs s id
  | .flush id => AnsweredAs s id

/-- A transfer that succeeded. -/
theorem State.cmdDone_eq (s : State) (c : NvmeCmd) : s.cmdDone c = AfterTransfer s c := by
  unfold State.cmdDone AfterTransfer
  cases c.use <;> rfl

@[simp] theorem State.cmdDone_cmds (s : State) (c : NvmeCmd) : (s.cmdDone c).sip.cmds = s.sip.cmds := by
  rw [State.cmdDone_eq]
  unfold AfterTransfer
  split <;> simp
@[simp] theorem State.cmdFail_cmds (s : State) (c : NvmeCmd) (st : Sstat) (nv : BitVec 16) (lba : Nat) :
    (s.cmdFail c st nv lba).sip.cmds = s.sip.cmds := by
  unfold State.cmdFail
  dsimp only
  (repeat' split) <;> simp

/-- The state in which a command has left those in flight and its blocks are as its end leaves them. -/
def State.leftBy (s : State) (c : NvmeCmd) (ok : Bool) : State := BlocksAfter (s.dropCmd c) c ok

@[simp] theorem State.leftBy_cmds (s : State) (c : NvmeCmd) (ok : Bool) : (s.leftBy c ok).sip.cmds = s.sip.cmds.filter fun x => x.cid != c.cid :=
  BlocksAfter_cmds ..

/-- No other command of the transfer is in flight. -/
def State.isLast (s : State) (c : NvmeCmd) : Prop := ∀ x ∈ s.sip.cmds.filter fun x => x.cid != c.cid, x.xfer ≠ c.xfer

/-- The rest of a transfer goes on, and remembers a failure. -/
def State.noteBad (s : State) (c : NvmeCmd) (bad : Option (Sstat × BitVec 16 × Nat)) : State :=
  { s with sip := { s.sip with cmds := s.sip.cmds.map fun x => if x.xfer = c.xfer then { x with bad := bad } else x } }

/-- Whether a command is the last of its transfer, as the model looks for it. -/
theorem State.any_xfer_iff (s : State) (c : NvmeCmd) :
    (s.sip.cmds.filter fun x => x.cid != c.cid).any (·.xfer == c.xfer) = true ↔ ¬ s.isLast c := by
  simp [State.isLast]

/-- The first failure of a transfer when one of its commands ends. -/
def NvmeCmd.firstBad (c : NvmeCmd) (bad : Option (Sstat × BitVec 16)) : Option (Sstat × BitVec 16 × Nat) :=
  c.bad.or (bad.map fun b => (b.1, b.2, c.lba))

/-- The end of a command by whether its transfer goes on. -/
theorem State.cmdOver_eq (s : State) (c : NvmeCmd) (bad : Option (Sstat × BitVec 16)) : s.cmdOver c bad =
    if (s.leftBy c bad.isNone).sip.cmds.any (·.xfer == c.xfer) then (s.leftBy c bad.isNone).noteBad c (c.firstBad bad)
    else ((c.firstBad bad).map fun f => (s.leftBy c bad.isNone).cmdFail c f.1 f.2.1 f.2.2).getD ((s.leftBy c bad.isNone).cmdDone c) := by
  have first : c.bad.or (bad.map fun b => (b.1, b.2, c.lba)) = c.firstBad bad := rfl
  simp only [State.cmdOver, State.cmdBlocks_eq, State.noteBad, beq_iff_eq, first]
  cases c.firstBad bad <;> rfl

/-- A transfer with commands still in flight goes on. -/
theorem State.cmdOver_more {s : State} {c : NvmeCmd} (more : ¬ s.isLast c) (bad : Option (Sstat × BitVec 16)) :
    s.cmdOver c bad = (s.leftBy c bad.isNone).noteBad c (c.firstBad bad) := by
  rw [State.cmdOver_eq, State.leftBy_cmds, if_pos ((s.any_xfer_iff c).mpr more)]

/-- The last command ends a transfer in which none failed. -/
theorem State.cmdOver_done {s : State} {c : NvmeCmd} {bad : Option (Sstat × BitVec 16)} (last : s.isLast c) (first : c.firstBad bad = none) :
    s.cmdOver c bad = (s.leftBy c bad.isNone).cmdDone c := by
  rw [State.cmdOver_eq, State.leftBy_cmds, if_neg fun any => (s.any_xfer_iff c).mp any last, first]
  rfl

/-- The last command ends a transfer in which one failed. -/
theorem State.cmdOver_fail {s : State} {c : NvmeCmd} {bad : Option (Sstat × BitVec 16)} {b : Sstat × BitVec 16 × Nat} (last : s.isLast c)
    (first : c.firstBad bad = some b) : s.cmdOver c bad = (s.leftBy c bad.isNone).cmdFail c b.1 b.2.1 b.2.2 := by
  rw [State.cmdOver_eq, State.leftBy_cmds, if_neg fun any => (s.any_xfer_iff c).mp any last, first]
  rfl

/-- A command that fails is the first of its transfer to do so, or another was. -/
theorem NvmeCmd.firstBad_some (c : NvmeCmd) (st : Sstat) (nv : BitVec 16) : c.firstBad (some (st, nv)) = some (c.bad.getD (st, nv, c.lba)) :=
  Option.or_some

/-- What goes on after a command of a transfer. -/
theorem State.leftBy_noteBad (s : State) (c : NvmeCmd) (ok : Bool) (b : Option (Sstat × BitVec 16 × Nat)) :
    (s.leftBy c ok).noteBad c b = { s.leftBy c ok with sip := { (s.leftBy c ok).sip with
      cmds := (s.sip.cmds.filter fun x => x.cid != c.cid).map fun x => if x.xfer = c.xfer then { x with bad := b } else x } } := by
  rw [State.noteBad, State.leftBy_cmds]

/-! ## A drive whose commands fail (04_storage.md R111) -/

/-- The commands in flight, by number and drive. -/
def State.inFlight (s : State) : List (Nat × BitVec 2) := s.sip.cmds.map fun c => (c.cid, c.drive)

/-- The end of a command takes those of its number out of flight, and no other. -/
theorem State.cmdOver_inFlight (s : State) (c : NvmeCmd) (bad : Option (Sstat × BitVec 16)) :
    (s.cmdOver c bad).inFlight = s.inFlight.filter fun x => x.1 != c.cid := by
  have left (ok : Bool) : (s.leftBy c ok).inFlight = s.inFlight.filter fun x => x.1 != c.cid := by
    simp [State.inFlight, List.filter_map, Function.comp_def]
  rw [← left bad.isNone]
  by_cases last : s.isLast c
  · cases first : c.firstBad bad with
    | none => simp [State.inFlight, State.cmdOver_done last first]
    | some b => simp [State.inFlight, State.cmdOver_fail last first]
  · rw [State.cmdOver_more last]
    simp only [State.inFlight, State.noteBad, List.map_map]
    refine List.map_congr_left fun x _ => ?_
    simp only [Function.comp_apply]
    split <;> rfl

/-- The command with a command's number, if it is in flight, fails. -/
def State.failNumbered (bad : Option (Sstat × BitVec 16)) (s : State) (c : NvmeCmd) : State :=
  match s.sip.cmds.find? (·.cid == c.cid) with
  | none => s
  | some x => s.cmdOver x bad

/-- A drive fails command by command. -/
theorem State.failDrive_eq (s : State) (d : BitVec 2) (st : Sstat) :
    s.failDrive d st = (s.sip.cmds.filter (·.drive == d)).foldl (State.failNumbered (some (st, 0))) s := rfl

/-- A number that fails is in flight no more. -/
theorem State.failNumbered_inFlight (bad : Option (Sstat × BitVec 16)) (s : State) (c : NvmeCmd) :
    (s.failNumbered bad c).inFlight = s.inFlight.filter fun x => x.1 != c.cid := by
  unfold State.failNumbered
  split
  next none_ =>
    refine (List.filter_eq_self.mpr fun x hx => ?_).symm
    obtain ⟨y, hy, rfl⟩ := List.mem_map.mp hx
    simpa using List.find?_eq_none.mp none_ y hy
  next x found =>
    have number : x.cid = c.cid := by simpa using List.find?_some found
    rw [State.cmdOver_inFlight, number]

/-- The numbers that fail are in flight no more. -/
theorem State.failNumbered_all (bad : Option (Sstat × BitVec 16)) (l : List NvmeCmd) (s : State) :
    (l.foldl (State.failNumbered bad) s).inFlight = s.inFlight.filter fun x => l.all fun c => x.1 != c.cid := by
  induction l generalizing s with
  | nil => simp
  | cons c l ih =>
    rw [List.foldl_cons, ih, State.failNumbered_inFlight, List.filter_filter]
    simp only [List.all_cons, Bool.and_comm]

/-- No command of a drive is in flight once they have failed. -/
theorem State.failDrive_cmds (s : State) (d : BitVec 2) (st : Sstat) : ∀ x ∈ (s.failDrive d st).sip.cmds, x.drive ≠ d := by
  intro x hx onDrive
  have still : (x.cid, x.drive) ∈ (s.failDrive d st).inFlight := List.mem_map_of_mem hx
  rw [State.failDrive_eq, State.failNumbered_all, List.mem_filter] at still
  obtain ⟨was, gone⟩ := still
  obtain ⟨c, hc, same⟩ := List.mem_map.mp was
  obtain ⟨cid, drive⟩ := Prod.mk.inj same
  have failed : c ∈ s.sip.cmds.filter (·.drive == d) := by simp [hc, drive, onDrive]
  simpa [cid] using List.all_eq_true.mp gone c failed

/-! ## The timeouts of a drive (04_storage.md R111) -/

theorem driveBit_own (d : BitVec 2) : (driveBit d).getLsbD d.toNat = true := by
  have lt : d.toNat < 4 := d.isLt
  rw [driveBit, BitVec.getLsbD_ofNat, Nat.testBit_two_pow_self, decide_eq_true lt, Bool.and_self]

/-- A bit that is written 0 is 0. -/
theorem putBits_zero (w : BitVec 32) (lo : Nat) : (putBits w lo 1 0).getLsbD lo = false := by
  have parts := Nat.div_add_mod w.toNat (2 ^ lo)
  rw [← Nat.div_add_mod (w.toNat / 2 ^ lo) 2, Nat.mul_add] at parts
  have even : w.toNat - fldN w lo 1 * 2 ^ lo = 2 ^ lo * (2 * (w.toNat / 2 ^ lo / 2)) + w.toNat % 2 ^ lo := by
    rw [fldN, Nat.pow_one, Nat.mul_comm _ (2 ^ lo)]
    omega
  have below : w.toNat % 2 ^ lo / 2 ^ lo = 0 := Nat.div_eq_of_lt (Nat.mod_lt _ (Nat.two_pow_pos lo))
  rw [putBits, even, BitVec.getLsbD_ofNat, Nat.testBit_eq_decide_div_mod_eq, Nat.zero_mod, Nat.zero_mul, Nat.add_zero,
    Nat.mul_add_div (Nat.two_pow_pos lo), below]
  simp

/-- Before the third timeout of a drive within 60 s, the timeout is noted. -/
theorem State.noteTimeout_few {s : State} {d : BitVec 2} (few : (s.sip.timeoutsOf d).length < 3) :
    s.noteTimeout d = { s with sip := { s.sip with timeouts := s.sip.timeoutsOf d ++ s.sip.timeouts.filter fun t => t.1 != d } } := if_pos few

/-- The third timeout holds the drive, with no command left on it. -/
theorem State.noteTimeout_many {s : State} {d : BitVec 2} (many : 3 ≤ (s.sip.timeoutsOf d).length) :
    (s.noteTimeout d).sip.resetting.getLsbD d.toNat = true ∧ ∀ x ∈ (s.noteTimeout d).sip.cmds, x.drive ≠ d := by
  unfold State.noteTimeout
  dsimp only
  rw [if_neg (by omega)]
  refine ⟨?_, s.failDrive_cmds d 4⟩
  rw [BitVec.getLsbD_or, driveBit_own, Bool.or_true]

/-- A controller that is not ready in time is failed: its drive is neither held nor present, and no command is left on it. -/
theorem execControllerReadyTimeout_late {s : State} {d : BitVec 2} (held : s.driveHeld d = true)
    (late : s.sip.resetAt.get ⟨d.toNat, d.isLt⟩ + 10000000000 ≤ s.sip.cycle) : ∃ t, execControllerReadyTimeout d s = .next t ∧
      t.sip.resetting.getLsbD d.toNat = false ∧ t.sip.drives.getLsbD d.toNat = false ∧ t.pkg.bootstat.getLsbD (16 + d.toNat) = false ∧
      ∀ x ∈ t.sip.cmds, x.drive ≠ d := by
  have cleared (v : BitVec 4) : (v &&& ~~~driveBit d).getLsbD d.toNat = false := by
    rw [BitVec.getLsbD_and, BitVec.getLsbD_not, driveBit_own, Bool.not_true, Bool.and_false, Bool.and_false]
  refine ⟨_, congrArg Host.Outcome.next (if_neg ?_), cleared _, cleared _, putBits_zero _ _, s.failDrive_cmds d 8⟩
  simpa [held] using late

/-! ## A page fault (04_storage.md R103 to R107) -/

/-- A record whose blocks are marked busy. -/
def FaultRec.taken (f : FaultRec) : FaultRec := { f with marked := true }

theorem FaultRec.taken_eq (f : FaultRec) : (if f.marked then f else { f with marked := true }) = f.taken := by
  unfold FaultRec.taken
  split
  next marked => rw [← marked]
  next => rfl

/-- The blocks of the record at position `k` are marked busy, if they are not yet. -/
def State.withMarks (s : State) (k : Nat) (f : FaultRec) (t : StorageSlot) : State :=
  if f.marked then s else { s with sip := { s.sip with
    faults := s.sip.faults.set k f.taken
    busy := s.sip.busy ++ [⟨t.drive, t.nsid, t.base + f.blk, classSpan (leafClass f.leaf), f.seq⟩] } }

/-- The service of the record at position `k` goes on: its blocks are its own already and the drive answers, or it may start and none before it may. -/
def State.mayGo (s : State) (k : Nat) (f : FaultRec) (t : StorageSlot) : Prop :=
  let lba := t.base + f.blk
  let n := classSpan (leafClass f.leaf)
  if f.marked then s.driveHeld t.drive = false
  else s.driveHeld t.drive = false ∧ s.isBusy t.drive t.nsid lba n = false ∧ s.waitsBefore f.seq t.drive t.nsid lba n = false ∧
    s.faultsInFlight none < 1024 ∧ s.faultsInFlight (some t.drive) < 256 ∧ ∀ g ∈ s.sip.faults.take k, s.mayStart g = false

/-- A record that cannot be served is given up, and its marks go. -/
theorem State.startFault_fails {s : State} {f : FaultRec} {st : Sstat} (bad : s.unserviceable f = some st) (k : Nat) :
    s.startFault k f = ({ s with sip := { s.sip with
      faults := s.sip.faults.eraseIdx k, busy := s.sip.busy.filter fun b => b.owner != f.seq } } : State).serviceFail f st 0 (leafClass f.leaf)
        (((s.slot? (leafDrive f.leaf) (leafSlot f.leaf)).map (·.base)).getD 0 + f.blk) := by
  simp only [State.startFault, bad]
  rfl

section
variable {s : State} {f : FaultRec} {t : StorageSlot} (ok : s.unserviceable f = none)
  (slot : s.slot? (leafDrive f.leaf) (leafSlot f.leaf) = some t)
include ok slot

/-- A record goes on when the model lets it: marked, with a drive that answers, or not marked and first of those that may start. -/
theorem State.mayGo_iff (k : Nat) : s.mayGo k f t ↔
    if f.marked then s.driveHeld t.drive = false else s.mayStart f = true ∧ (s.sip.faults.take k).any s.mayStart = false := by
  unfold State.mayGo
  cases marked : f.marked <;> simp [State.mayStart, ok, slot, marked, and_assoc]

/-- A record that cannot go on waits. -/
theorem State.startFault_waits {k : Nat} (wait : ¬ s.mayGo k f t) : s.startFault k f = s := by
  rw [State.mayGo_iff ok slot] at wait
  simp only [State.startFault, ok, slot]
  cases marked : f.marked with
  | true =>
    have held : s.driveHeld t.drive = true := by simpa [marked] using wait
    simp [held]
  | false =>
    have blocked : (!s.mayStart f || (s.sip.faults.take k).any s.mayStart) = true := by
      cases start : s.mayStart f
      · rfl
      · simpa [marked, start] using wait
    simp [blocked]

/-- A record that goes on has its blocks marked, takes a frame and is read. -/
theorem State.startFault_goes {k : Nat} (go : s.mayGo k f t) : s.startFault k f = (s.withMarks k f t).takeAndRead k f.taken t := by
  rw [State.mayGo_iff ok slot] at go
  simp only [State.startFault, ok, slot, State.withMarks]
  cases marked : f.marked with
  | true =>
    have answers : s.driveHeld t.drive = false := by simpa [marked] using go
    simp [answers, ← FaultRec.taken_eq, marked]
  | false =>
    obtain ⟨start, first⟩ : s.mayStart f = true ∧ (s.sip.faults.take k).any s.mayStart = false := by simpa [marked] using go
    simp only [start, first]
    rfl

end

/-- Without a frame a record waits. -/
theorem State.takeAndRead_waits {s u : State} {g : FaultRec} (frame : s.takeFrame g.encl (leafClass g.leaf) = (u, none)) (k : Nat) (t : StorageSlot) :
    s.takeAndRead k g t = u := by
  simp only [State.takeAndRead, frame]

/-- With a frame a record becomes Reads. -/
theorem State.takeAndRead_issued {s u : State} {g : FaultRec} {a : Nat} (frame : s.takeFrame g.encl (leafClass g.leaf) = (u, some a)) (k : Nat)
    (t : StorageSlot) :
    Issued { u with sip := { u.sip with faults := u.sip.faults.eraseIdx k } } (s.takeAndRead k g t) t.drive t.nsid (t.base + g.blk)
      (classSpan (leafClass g.leaf)) (.fault g a (classSize (leafClass g.leaf))) g.seq := by
  simp only [State.takeAndRead, frame]
  exact State.issueCmd_issued rfl ..

/-! ## Completions and timeouts (04_storage.md R111) -/

/-- A failed command by whether its transfer is over. -/
theorem State.cmdOver_failed (s : State) (c : NvmeCmd) (st : Sstat) (nv : BitVec 16) : let b := c.bad.getD (st, nv, c.lba)
    (s.isLast c → s.cmdOver c (some (st, nv)) = (s.leftBy c false).cmdFail c b.1 b.2.1 b.2.2) ∧
    (¬ s.isLast c → s.cmdOver c (some (st, nv)) = (s.leftBy c false).noteBad c (some b)) :=
  ⟨fun last => State.cmdOver_fail last (c.firstBad_some st nv), fun more => by
    rw [State.cmdOver_more more, c.firstBad_some]
    rfl⟩

section
variable {s : State} {c : NvmeCmd} (found : s.sip.cmds.find? (fun x => x.cid == c.cid) = some c)
include found

/-- A command succeeds. -/
theorem execNvmeCompletion_success (x : Bool) : execNvmeCompletion c.cid 0 x s = .next (s.cmdOver c none) := by
  simp [execNvmeCompletion, found]

/-- A command that fails for the first time, and that the drive does not forbid to retry, is issued once more. -/
theorem execNvmeCompletion_retry {v : BitVec 16} (bad : v ≠ 0) (new : c.retried = false) :
    execNvmeCompletion c.cid v false s = .next { s with sip := { s.sip with
      cmds := s.sip.cmds.map fun x => if x.cid = c.cid then { x with retried := true, since := s.sip.cycle } else x } } := by
  simp only [execNvmeCompletion, found, if_neg bad, new, beq_iff_eq]
  rfl

/-- A command that may not be issued again fails. -/
theorem execNvmeCompletion_failure {v : BitVec 16} {x : Bool} (bad : v ≠ 0) (final : x = true ∨ c.retried = true) :
    execNvmeCompletion c.cid v x s = .next (s.cmdOver c (some (3, v))) := by
  have final : (!x && !c.retried) = false := by rcases final with h | h <;> simp [h]
  simp only [execNvmeCompletion, found, if_neg bad, final]
  rfl

/-- A command that has waited for less than 2 s goes on waiting. -/
theorem execNvmeTimeout_early (early : s.sip.cycle < c.since + 2000000000) : execNvmeTimeout c.cid c.drive s = .next s := by
  simp [execNvmeTimeout, found, early]

/-- A command that has waited for 2 s fails, and the timeout is noted. -/
theorem execNvmeTimeout_due (due : c.since + 2000000000 ≤ s.sip.cycle) :
    execNvmeTimeout c.cid c.drive s = .next ((s.cmdOver c (some (4, 0))).noteTimeout c.drive) := by
  simp [execNvmeTimeout, found, Nat.not_lt.mpr due]

end

/-! ## Busy ranges and inbound requests (04_storage.md R98, R107) -/

/-- Whether a service that marked blocks is still going on. -/
theorem State.stillUses_iff (s : State) (owner : Nat) :
    s.stillUses owner = true ↔ (∃ c ∈ s.sip.cmds, c.xfer = owner) ∨ ∃ f ∈ s.sip.faults, f.marked = true ∧ f.seq = owner := by
  simp [State.stillUses]

/-- A request of a drive inside its port's share. -/
theorem execDriveInboundRequest_share {pa : Nat} {d : BitVec 2} (firmware : inFirmware pa = true) (share : Config.portShare d.toNat pa = true)
    (s : State) :
    execDriveInboundRequest d pa none s = .next (s.emit (.driveRead d pa ((s.readHbm pa 1 0).map (BitVec.ofNat 8)))) ∧
    ∀ b u, s.writeLoc (.hbm pa 0) 1 b.toNat = some u → execDriveInboundRequest d pa (some b) s = .next u := by
  simp +contextual [execDriveInboundRequest, firmware, share]

/-- A request of a drive outside its port's share. -/
theorem execDriveInboundRequest_outside {pa : Nat} {d : BitVec 2} (outside : inFirmware pa = false ∨ Config.portShare d.toNat pa = false)
    (v : Option Byte) (s : State) :
    execDriveInboundRequest d pa v s = .next (({ s with sip := { s.sip with
      inboundRefused := s.sip.inboundRefused.set d.toNat (s.sip.inboundRefused.get ⟨d.toNat, d.isLt⟩ + 1) d.isLt } } : State).emit (.driveUr d)) := by
  have out : (inFirmware pa && Config.portShare d.toNat pa) = false := Bool.and_eq_false_iff.mpr outside
  simp only [execDriveInboundRequest, out]
  rfl

/-! ## The statement -/

/-- Settles O49: a fault by whether it may go on and by the frame it takes, a command by whether it is the last of its transfer, a drive by its timeouts
and by the commands that fail with it; with the model's choices of log entries 68, 69, 70 and 98. -/
theorem storageService : Obligations.StorageService := by
  unfold Obligations.StorageService
  intro s
  refine ⟨?noFault, ?fault, ?command, ?busy, fun d => rfl, ?late, ?inbound⟩
  case noFault =>
    intro k none_
    show execFaultRecord k s = _
    simp only [execFaultRecord, none_]
  case fault =>
    intro k f hf n gone
    have run : exec (.faultRecord k) s = .next (s.startFault k f) := by
      show execFaultRecord k s = _
      simp only [execFaultRecord, hf]
    rw [run]
    refine ⟨fun st bad => congrArg Host.Outcome.next (State.startFault_fails bad k), fun t ok slot => ?_⟩
    intro lba first m goes
    refine ⟨fun wait => congrArg Host.Outcome.next (State.startFault_waits ok slot wait), fun u go frame => ?_, fun u a go frame => ?_⟩
    · rw [State.startFault_goes ok slot go]
      exact congrArg Host.Outcome.next (State.takeAndRead_waits (g := f.taken) frame k t)
    · rw [State.startFault_goes ok slot go, FaultRec.taken_eq]
      exact ⟨_, rfl, State.takeAndRead_issued (g := f.taken) frame k t⟩
  case command =>
    intro cid c found left u done noted last
    obtain rfl : c.cid = cid := by simpa using List.find?_some found
    have goesOn (ok : Bool) (b : Option (Byte × BitVec 16 × Nat)) : (s.leftBy c ok).noteBad c b = noted ok b := s.leftBy_noteBad c ok b
    refine ⟨fun x => ?success, fun v bad new => execNvmeCompletion_retry found bad new, fun v x bad final => ?failure,
      fun early => execNvmeTimeout_early found early, fun due => ?timeout⟩
    case success =>
      have run : exec (.nvmeCompletion c.cid 0 x) s = .next (s.cmdOver c none) := execNvmeCompletion_success found x
      rw [run]
      refine ⟨fun isLast good => congrArg Host.Outcome.next ?_, fun b isLast first => congrArg Host.Outcome.next ?_,
        fun more => congrArg Host.Outcome.next ?_⟩
      · rw [State.cmdOver_done isLast (by simp [NvmeCmd.firstBad, good]), State.cmdDone_eq]
        rfl
      · exact State.cmdOver_fail isLast (by simp [NvmeCmd.firstBad, first])
      · rw [State.cmdOver_more more, ← goesOn]
        simp [NvmeCmd.firstBad]
    case failure =>
      have run : exec (.nvmeCompletion c.cid v x) s = .next (s.cmdOver c (some (3, v))) := execNvmeCompletion_failure found bad final
      obtain ⟨isLast, more⟩ := s.cmdOver_failed c 3 v
      rw [run]
      exact ⟨fun h => congrArg Host.Outcome.next (isLast h), fun h => congrArg Host.Outcome.next ((more h).trans (goesOn ..))⟩
    case timeout =>
      intro b w mine
      have run : exec (.nvmeTimeout c.cid c.drive) s = .next ((s.cmdOver c (some (4, 0))).noteTimeout c.drive) := execNvmeTimeout_due found due
      have ends : s.cmdOver c (some (4, 0)) = w := by
        obtain ⟨isLast, more⟩ := s.cmdOver_failed c 4 0
        by_cases h : s.isLast c
        · exact (isLast h).trans (if_neg fun any => (s.any_xfer_iff c).mp any h).symm
        · exact ((more h).trans (goesOn ..)).trans (if_pos ((s.any_xfer_iff c).mpr h)).symm
      rw [run, ends]
      exact ⟨fun few => congrArg Host.Outcome.next (State.noteTimeout_few few), fun many => ⟨_, rfl, State.noteTimeout_many many⟩⟩
  case busy =>
    intro k b hb used
    have run : exec (.busyRangeClear k) s = .next (if s.stillUses b.owner then s else { s with sip := { s.sip with busy := s.sip.busy.eraseIdx k } }) := by
      show execBusyRangeClear k s = _
      simp only [execBusyRangeClear, hb]
    rw [run]
    exact ⟨fun use => congrArg Host.Outcome.next (if_pos ((s.stillUses_iff _).mpr use)),
      fun free => congrArg Host.Outcome.next (if_neg fun use => free ((s.stillUses_iff _).mp use))⟩
  case late =>
    intro d i
    refine ⟨fun early => congrArg Host.Outcome.next (if_pos ?_), fun held late => execControllerReadyTimeout_late held late⟩
    simpa [i] using early
  case inbound =>
    intro d pa v i
    refine ⟨fun outside => execDriveInboundRequest_outside outside v s, fun firmware share => ?_⟩
    obtain ⟨read, write⟩ := execDriveInboundRequest_share firmware share s
    refine ⟨read, ?_⟩
    rintro b u rfl written
    exact write b u written

end Sys2Proof.Machine
end

section
/-! Proofs about the commands of the Siphon (04_storage.md R108 to R110, R460): which event carries one out, what each operation does, and the messages
that wait for room in a mailbox. -/

namespace Sys2Proof.Machine

open Sys2Proof.Safety

/-! ## Carrying a command out (04_storage.md R460) -/

section
variable {s : State} {k : Nat} {q : SqCmd} (pushed : s.sip.sq[k]? = some q) (new : q.started = false) (free : s.cmdFree q = true)
include pushed new free

/-- A command is answered with the first condition that it meets, where its operation is looked for. -/
theorem State.command_refused {op : Nat} (own : q.op = op ∨ op = 1 ∧ (q.op = 0 ∨ 7 < q.op)) {st : Sstat} (refused : s.sqRefused q = some st)
    (f : SqCmd → State) : s.command k op f = s.complete q st 0 0 := by
  have mine : (q.op == op || (op == 1 && !(decide (1 ≤ q.op) && decide (q.op ≤ 7)))) = true := by
    simp only [Bool.or_eq_true, beq_iff_eq, Bool.and_eq_true, Bool.not_eq_true', Bool.and_eq_false_iff, decide_eq_false_iff_not]
    omega
  simp only [State.command, pushed, new, free, mine, refused]
  rfl

/-- A command that meets no condition is carried out. -/
theorem State.command_carried (good : s.sqRefused q = none) (f : SqCmd → State) : s.command k q.op f = f q := by
  simp [State.command, pushed, new, free, good]

end

/-- The event of a command looks for its operation, or is WRITEBACK and the operation is reserved. -/
theorem exec_commandEvent {e : Instr} {k op : Nat} (h : CommandEvent e k op) (s : State) :
    ∃ own f, exec e s = .next (s.command k own f) ∧ (op = own ∨ own = 1 ∧ (op = 0 ∨ 7 < op)) := by
  rcases h with ⟨rfl, own⟩ | ⟨rfl, own⟩ | ⟨rfl, own⟩ | ⟨rfl, own⟩ | ⟨rfl, own⟩ | ⟨rfl, own⟩ | ⟨rfl, own⟩
  · exact ⟨1, s.writeback, rfl, own.imp_right fun reserved => ⟨rfl, reserved⟩⟩
  · exact ⟨2, s.prefetch, rfl, .inl own⟩
  · exact ⟨3, s.trim, rfl, .inl own⟩
  · exact ⟨4, s.flush, rfl, .inl own⟩
  · exact ⟨5, s.slotset, rfl, .inl own⟩
  · exact ⟨6, s.slotclr, rfl, .inl own⟩
  · exact ⟨7, s.resumePool, rfl, .inl own⟩

/-! ## PREFETCH (04_storage.md R109) -/

/-- PREFETCH of pages that are all present is answered at once. -/
theorem State.prefetch_present {s : State} {q : SqCmd} (present : s.prefetchRecs q = []) : s.prefetch q = s.complete q 0 0 0 := by
  simp [State.prefetch, present]

/-- PREFETCH sends a record for each absent page and waits for them. -/
theorem State.prefetch_absent {s : State} {q : SqCmd} (absent : s.prefetchRecs q ≠ []) : s.prefetch q =
    let u := s.putSq { q with started := true, pagesLeft := (s.prefetchRecs q).length }
    { u with sip := (s.prefetchRecs q).foldl Siphon.addFault u.sip } := by
  simp [State.prefetch, absent]

/-! ## Commands on the blocks of a slot (04_storage.md R107, R109) -/

/-- The blocks of a command are free, none that came before waits for them, and the drive answers. -/
def State.openFor (s : State) (q : SqCmd) (t : StorageSlot) : Prop :=
  s.isBusy q.drive t.nsid (t.base + q.blk) q.count = false ∧ s.waitsBefore q.id q.drive t.nsid (t.base + q.blk) q.count = false ∧
  s.driveHeld q.drive = false

/-- What keeps a command from its blocks, as the model looks for it. -/
theorem State.closed_iff (s : State) (q : SqCmd) (t : StorageSlot) :
    (s.isBusy q.drive t.nsid (t.base + q.blk) q.count || s.waitsBefore q.id q.drive t.nsid (t.base + q.blk) q.count || s.driveHeld q.drive) = true ↔
      ¬ s.openFor q t := by
  simp [State.openFor, imp_iff_not_or, or_assoc]

/-- What a WRITEBACK finds to write. -/
def State.gathered (s : State) (q : SqCmd) (t : StorageSlot) : WbGather := gatherWb q t q.count 0 ⟨s, [], none⟩

/-- A WRITEBACK that has started, with what stopped it. -/
def State.stopped (s : State) (q : SqCmd) (t : StorageSlot) : SqCmd := { q with started := true, fail := (s.gathered q t).stop }

/-- The answer to a WRITEBACK that found no block to write. -/
def State.gaveNothing (s : State) (q : SqCmd) (t : StorageSlot) : State :=
  match (s.gathered q t).stop with
  | none => (s.gathered q t).st.complete (s.stopped q t) 0 0 0
  | some f => (s.gathered q t).st.complete (s.stopped q t) f.1 f.2.1 f.2.2

section
variable {s : State} {q : SqCmd} {t : StorageSlot} (slot : s.slot? q.drive q.slotIdx = some t)
include slot

/-- WRITEBACK waits for its blocks. -/
theorem State.writeback_waits (closed : ¬ s.openFor q t) : s.writeback q = s := by
  simp only [State.writeback, slot]
  exact if_pos ((s.closed_iff q t).mpr closed)

/-- WRITEBACK that finds no block to write is answered at once, as it was stopped. -/
theorem State.writeback_nothing (ready : s.openFor q t) (nothing : (s.gathered q t).blocks = []) : s.writeback q = s.gaveNothing q t := by
  have noBlock : (gatherWb q t q.count 0 ⟨s, [], none⟩).blocks.isEmpty = true := List.isEmpty_iff.mpr nothing
  simp only [State.writeback, slot]
  exact (if_neg fun closed => (s.closed_iff q t).mp closed ready).trans (if_pos noBlock)

/-- WRITEBACK marks the blocks that it writes and issues Writes. -/
theorem State.writeback_writes (ready : s.openFor q t) (some_ : (s.gathered q t).blocks ≠ []) : s.writeback q =
    (((s.gathered q t).st.putSq (s.stopped q t)).markBusy q.drive t.nsid (t.base + q.blk) (s.gathered q t).blocks.length q.id).issueCmd
      q.drive t.nsid (t.base + q.blk) (s.gathered q t).blocks.length (.write q.id (s.gathered q t).blocks) q.id := by
  have blocks : ¬ (gatherWb q t q.count 0 ⟨s, [], none⟩).blocks.isEmpty = true := fun empty => some_ (List.isEmpty_iff.mp empty)
  simp only [State.writeback, slot]
  exact (if_neg fun closed => (s.closed_iff q t).mp closed ready).trans (if_neg blocks)

/-- TRIM waits for its blocks. -/
theorem State.trim_waits (closed : ¬ s.openFor q t) : s.trim q = s := by
  simp only [State.trim, slot]
  exact if_pos ((s.closed_iff q t).mpr closed)

/-- TRIM marks its blocks and deallocates them. -/
theorem State.trim_issued (ready : s.openFor q t) : s.trim q =
    ((s.putSq { q with started := true }).markBusy q.drive t.nsid (t.base + q.blk) q.count q.id).issueCmd q.drive t.nsid (t.base + q.blk) q.count
      (.trim q.id (t.base + q.blk) q.count t.nsid) q.id := by
  simp only [State.trim, slot]
  exact if_neg fun closed => (s.closed_iff q t).mp closed ready

/-- FLUSH waits for a drive that is held. -/
theorem State.flush_waits (held : s.driveHeld q.drive = true) : s.flush q = s := by
  simp [State.flush, slot, held]

/-- FLUSH goes to the drive. -/
theorem State.flush_issued (answers : s.driveHeld q.drive = false) : s.flush q =
    (s.putSq { q with started := true }).issueCmd q.drive t.nsid 0 0 (.flush q.id) q.id := by
  simp [State.flush, slot, answers]

/-- SLOTCLR waits while a block of its slot is busy. -/
theorem State.slotclr_waits (busy : ∃ b ∈ s.sip.busy, t.meets b = true) : s.slotclr q = s := by
  simp only [State.slotclr, slot]
  exact if_pos (List.any_eq_true.mpr busy)

/-- SLOTCLR clears a slot of which no block is busy. -/
theorem State.slotclr_idle (idle : ∀ b ∈ s.sip.busy, t.meets b = false) : s.slotclr q =
    ({ s with sip := { s.sip with slots := s.sip.slots.erase t } } : State).complete q 0 0 0 := by
  simp only [State.slotclr, slot]
  exact if_neg (by simpa using idle)

end

/-- SLOTCLR of a slot that is not valid is answered at once. -/
theorem State.slotclr_none {s : State} {q : SqCmd} (none_ : s.slot? q.drive q.slotIdx = none) : s.slotclr q = s.complete q 0 0 0 := by
  simp only [State.slotclr, none_]

/-! ## SLOTSET and RESUME (04_storage.md R108, R109) -/

/-- SLOTSET binds a slot, encrypted under FLG bit 1. -/
theorem State.slotset_eq (s : State) (q : SqCmd) : s.slotset q = ({ s with sip := { s.sip with
    slots := ⟨q.drive, q.slotIdx, q.encl, q.blk, q.va, q.nblk, q.flg.testBit 1⟩ ::
      s.sip.slots.filter fun u => !(u.drive == q.drive && u.idx == q.slotIdx) } } : State).complete q 0 0 0 := by
  have crypt : q.flg.testBit 1 = (q.flg / 2 % 2 == 1) := by rw [Nat.testBit_eq_decide_div_mod_eq, Nat.pow_one]; rfl
  rw [crypt]
  rfl

/-- RESUME in an enclave without a pool only completes. -/
theorem State.resumePool_none {s : State} {q : SqCmd} (none_ : s.pool? q.encl = none) : s.resumePool q = s.complete q 0 0 0 := by
  simp only [State.resumePool, none_]

/-- RESUME has the tails of the enclave's pool read again. -/
theorem State.resumePool_some {s : State} {q : SqCmd} {p : Pool} (pool : s.pool? q.encl = some p) :
    s.resumePool q = (s.putPool { p with emptySent := 0 }).complete q 0 0 0 := by
  simp only [State.resumePool, pool]

/-! ## Held messages (04_storage.md R110) -/

/-- The first message that is held for the mailbox of a held one enters it when there is room. -/
theorem State.mailRoom_enters {s : State} {m : HeldMsg} (held : m ∈ s.hst.heldMsgs) (room : (s.mail m.core m.slot m.launch).length < 16) :
    ∃ f ∈ s.hst.heldMsgs, f.core = m.core ∧ f.slot = m.slot ∧ f.launch = m.launch ∧ s.mailRoom m.core m.slot m.launch =
      ({ s with hst := { s.hst with heldMsgs := s.hst.heldMsgs.erase f } } : State).mailArrive m.core m.slot m.launch f.msg := by
  have some_ : (s.hst.heldMsgs.find? fun f => f.core == m.core && f.slot == m.slot && f.launch == m.launch).isSome = true := by
    rw [List.find?_isSome]
    exact ⟨m, held, by simp⟩
  obtain ⟨f, found⟩ := Option.isSome_iff_exists.mp some_
  have box : (f.core = m.core ∧ f.slot = m.slot) ∧ f.launch = m.launch := by simpa using List.find?_some found
  obtain ⟨⟨core, slot⟩, launch⟩ := box
  exact ⟨f, List.mem_of_find?_eq_some found, core, slot, launch, by simp only [State.mailRoom, found, if_pos room]⟩

/-- A mailbox without room takes none. -/
theorem State.mailRoom_full {s : State} {core : Nat} {slot : BitVec 3} {launch : BitVec 32} (full : 16 ≤ (s.mail core slot launch).length) :
    s.mailRoom core slot launch = s := by
  unfold State.mailRoom
  split
  · rfl
  · exact if_neg (Nat.not_lt.mpr full)

/-! ## The statement -/

/-- Settles O50: a command by the first condition that it meets, else by its operation, its slot and its blocks; a held message by the room in its
mailbox; with the model's choices of log entries 41, 67 and 98. -/
theorem storageCommands : Obligations.StorageCommands := by
  unfold Obligations.StorageCommands
  intro s
  refine ⟨fun k q pushed new free => ⟨?refused, fun good => ?carried⟩, ?noMessage, ?message⟩
  case refused =>
    intro e st event refused
    obtain ⟨own, f, run, mine⟩ := exec_commandEvent event s
    rw [run, State.command_refused pushed new free mine refused f]
  case carried =>
    have run {op : Nat} (own : q.op = op) (f : SqCmd → State) : s.command k op f = f q := by
      rw [← own, State.command_carried pushed new free good f]
    have next {op : Nat} {f : SqCmd → State} {u : State} (own : q.op = op) (result : f q = u) :
        (Host.Outcome.next (s.command k op f) : Host.Outcome State Fault Refusal) = .next u := by
      rw [run own, result]
    refine ⟨?prefetch, fun t slot => ?slotted, fun op none_ => next op (State.slotclr_none none_), fun op => next op (s.slotset_eq q),
      fun op none_ => next op (State.resumePool_none none_), fun p op pool => next op (State.resumePool_some pool)⟩
    case prefetch => exact fun op => ⟨fun present => next op (State.prefetch_present present), fun absent => next op (State.prefetch_absent absent)⟩
    case slotted =>
      intro lba open_
      refine ⟨fun op ready => ?writeback, fun op ready => next op (State.trim_issued slot ready),
        fun op closed => next op (State.writeback_waits slot closed), fun op closed => next op (State.trim_waits slot closed),
        fun op answers => next op (State.flush_issued slot answers), fun op held => next op (State.flush_waits slot held),
        fun op idle => next op (State.slotclr_idle slot idle), fun op busy => next op (State.slotclr_waits slot busy)⟩
      exact ⟨fun nothing => next op (State.writeback_nothing slot ready nothing),
        fun some_ => ⟨_, next op (State.writeback_writes slot ready some_), State.issueCmd_issued rfl ..⟩⟩
  case noMessage =>
    intro k none_
    show execSiphonMessageDeliver k s = _
    simp only [execSiphonMessageDeliver, none_]
  case message =>
    intro k m hm
    have run : exec (.siphonMessageDeliver k) s = .next (s.mailRoom m.core m.slot m.launch) := by
      show execSiphonMessageDeliver k s = _
      simp only [execSiphonMessageDeliver, hm]
    rw [run]
    refine ⟨fun room => ?_, fun full => congrArg Host.Outcome.next (State.mailRoom_full full)⟩
    obtain ⟨f, held, core, slot, launch, enters⟩ := State.mailRoom_enters (List.mem_of_getElem? hm) room
    exact ⟨f, held, core, slot, launch, congrArg Host.Outcome.next enters⟩

end Sys2Proof.Machine
end

section
/-! Proofs about the host's registers and rings (05_host.md R116 to R121, R128 to R131; 06_execution.md R152): who answers, what a write to a register
does by the state of its interface, then the entries of the command ring and of the completion ring. -/

namespace Sys2Proof.Machine

open Sys2Proof.Safety

/-! ## Functions -/

/-- A function that was written back. -/
theorem State.func_putFunc_self (s : State) {f : Func} {fn : BitVec 6} (h : f.fn = fn) : (s.putFunc f).func fn = f := by
  rw [State.func_putFunc, if_pos h.symm]

theorem Func.isLocked_iff (f : Func) : f.isLocked = true ↔ f.tstate = .locked ∨ f.tstate = .run := by simp [Func.isLocked]

/-- A virtual function is not the physical one. -/
theorem State.ne_zero_of_vfOk {s : State} {fn : BitVec 6} (h : s.vfOk fn = true) : fn ≠ 0 := by
  rintro rfl
  simp [State.vfOk] at h

theorem State.barOk_of_vfOk {s : State} {fn : BitVec 6} (h : s.vfOk fn = true) : s.barOk fn = true := by
  rw [State.barOk, if_neg (State.ne_zero_of_vfOk h), h]

/-! ## The ERROR state (05_host.md R118) -/

theorem State.toError_unlocked (s : State) {f : Func} (h : f.isLocked = false) (ring : Option (BitVec 4)) (msix : Bool) : s.toError f ring msix = s := by
  simp [State.toError, h]

/-- An interface that is locked or runs and moves to ERROR. -/
theorem State.func_toError (s : State) {f : Func} {fn : BitVec 6} (hf : f.isLocked = true) (own : f.fn = fn) (ring : Option (BitVec 4)) (msix : Bool) :
    (s.toError f ring msix).func fn =
      { f with tstate := .error, rst := 2, hcause := f.errorCause ring, scrub := true, resumeOk := false } := by
  have funcs : (s.toError f ring msix).hst.funcs =
      (s.putFunc { f with tstate := .error, rst := 2, hcause := f.errorCause ring, scrub := true, resumeOk := false }).hst.funcs := by
    unfold State.toError
    rw [if_neg (by simp [hf])]
    cases msix <;> exact State.scrub_funcs ..
  rw [State.func_congr funcs]
  exact State.func_putFunc_self _ own

/-! ## Writes to registers (05_host.md R117; 06_execution.md R152) -/

theorem State.configWrite_unlocked (s : State) {f : Func} (h : f.tstate = .unlocked) (off : Nat) (wide : Bool) (v : Word) :
    s.configWrite f off wide v = s.putFunc (f.putConfig off wide v) := by
  simp only [State.configWrite, h]

theorem State.configWrite_error (s : State) {f : Func} (h : f.tstate = .error) (off : Nat) (wide : Bool) (v : Word) :
    s.configWrite f off wide v = s := by
  simp only [State.configWrite, h]

theorem State.configWrite_locked (s : State) {f : Func} (h : f.tstate = .locked ∨ f.tstate = .run) (off : Nat) (wide : Bool) (v : Word) :
    s.configWrite f off wide v = s.toError f none true := by
  obtain h | h := h <;> simp only [State.configWrite, h]

/-- RING_CONFIG_WRITE of a whole ring register. -/
theorem exec_ringConfigWrite {s : State} {fn : BitVec 6} {off : BitVec 14} (ok : s.vfOk fn = true) (page : off.toNat < 0x20)
    (aligned : off.toNat % 8 = 0) (v : Word) : exec (.ringConfigWrite fn off true v) s = .next (s.configWrite (s.func fn) off.toNat true v) := by
  show execRingConfigWrite fn off true v s = _
  simp [execRingConfigWrite, ok, alignedAccess, aligned, page]

/-- REGISTER_WRITE of a whole ring register does what RING_CONFIG_WRITE does. -/
theorem exec_registerWrite_ring {s : State} {fn : BitVec 6} {off : BitVec 14} (ok : s.vfOk fn = true) (page : off.toNat < 0x20)
    (aligned : off.toNat % 8 = 0) (v : Word) : exec (.registerWrite fn off true v) s = exec (.ringConfigWrite fn off true v) s := by
  have bar0 : off.toNat < 0x1000 := by omega
  rw [exec_ringConfigWrite ok page aligned]
  show execRegisterWrite fn off true v s = _
  unfold execRegisterWrite
  rw [if_neg (by simp [State.barOk_of_vfOk ok, alignedAccess, aligned]), if_neg (State.ne_zero_of_vfOk ok), if_pos bar0]
  unfold State.page0Write
  rw [if_pos page]

/-- REGISTER_WRITE of a whole queue register. -/
theorem exec_registerWrite_queue {s : State} {off : BitVec 14} (ready : s.isReady = true) {q : Fin 32} (h : off.toNat = 0x2000 + 8 * q.val) (v : Word) :
    exec (.registerWrite 0 off true v) s = .next { s with hst := { s.hst with queues := s.hst.queues.set q (queueWrite v) } } := by
  have index : off.toNat / 8 % 32 = q.val := by omega
  show execRegisterWrite 0 off true v s = _
  unfold execRegisterWrite
  have aligned : off.toNat % 8 = 0 := by omega
  rw [if_neg (by simp [State.barOk, ready, alignedAccess, aligned]), if_pos rfl]
  unfold State.physWrite
  rw [if_pos ⟨by omega, by omega, .inl rfl⟩]
  simp only [index]

/-- A write to TAIL or CPLHEAD of a function that answers. -/
theorem exec_tailWrite {s : State} {fn : BitVec 6} (ok : s.vfOk fn = true) (v : BitVec 32) :
    exec (.tailWrite fn v) s = .next (s.writeTail fn v) := by
  show execTailWrite fn v s = _
  simp only [execTailWrite, ok, if_true]
theorem exec_cplheadWrite {s : State} {fn : BitVec 6} (ok : s.vfOk fn = true) (v : BitVec 32) :
    exec (.cplheadWrite fn v) s = .next (s.writeCplhead fn v) := by
  show execCplheadWrite fn v s = _
  simp only [execCplheadWrite, ok, if_true]

/-- FUNCTION_LEVEL_RESET of a virtual function. -/
theorem exec_functionLevelReset {s : State} {fn : BitVec 6} (ok : s.vfOk fn = true) :
    let s1 := s.toError (s.func fn) none false
    exec (.functionLevelReset fn) s = .next (s1.putFunc (s1.func fn).flr) :=
  congrArg Host.Outcome.next (if_neg (by simpa [ok] using State.ne_zero_of_vfOk ok))

/-! ## The command ring (05_host.md R128 to R130) -/

theorem State.takeEntry_refused (s : State) {f : Func} {e : RingEntry} (h : ¬ (e.fn = f.fn.setWidth 16 ∧ e.rsvZero = true)) (ok : Bool) :
    s.takeEntry f e ok = s.toError f (some 5) true := by
  unfold State.takeEntry
  rw [if_pos (by simpa [imp_iff_not_or] using h)]

/-- An entry whose function and reserved bytes are right is checked against ESEQ. -/
theorem State.takeEntry_right {s : State} {f : Func} {e : RingEntry} (right : e.fn = f.fn.setWidth 16 ∧ e.rsvZero = true) (ok : Bool) : s.takeEntry f e ok =
    if e.seq < f.eseq then
      s.putFunc { f with dupcnt := if f.dupcnt = 0xFFFFFFFF#32 then f.dupcnt else f.dupcnt + 1, head := f.head + 1 }
    else if f.eseq = 0x100000000#64 then (s.putFunc { f with rst := 2, hcause := 3, resumeOk := false }).emit (.msix f.fn 1 true)
    else if f.eseq < e.seq then s.toError f (some 1) true
    else if !ok then s.toError f (some 2) true
    else
      let s1 := s.putFunc { f with head := f.head + 1, eseq := f.eseq + 1 }
      { s1 with hst := { s1.hst with inbox := s1.hst.inbox ++
        [⟨(List.range 8).map fun i => e.packet.getD i 0, f.encl, .ring f.fn e.seq, ⟨0, 0⟩, s.hst.cycle⟩] } } :=
  if_neg (by simp [right])

/-- DUPCNT counts up to 2^32 - 1. -/
theorem dupcnt_toNat (n : BitVec 32) : (if n = 0xFFFFFFFF#32 then n else n + 1).toNat = min (n.toNat + 1) (2 ^ 32 - 1) := by
  split
  case isTrue h => simp [h]
  case isFalse h =>
    have : n.toNat ≠ 0xFFFFFFFF := fun c => h (BitVec.eq_of_toNat_eq c)
    have := n.isLt
    simp only [BitVec.toNat_add, BitVec.ofNat_eq_ofNat, BitVec.toNat_ofNat]
    omega

/-- RING_ENTRY of a ring that is fetched. -/
theorem exec_ringEntry {s : State} {fn : BitVec 6} (h : (s.func fn).fetches = true) (e : RingEntry) (ok : Bool) :
    exec (.ringEntry fn e ok) s = .next ((s.emit (.ringFetch fn true (s.func fn).entryAddr)).takeEntry (s.func fn) e ok) := by
  show execRingEntry fn e ok s = _
  simp [execRingEntry, h]

/-! ## The completion ring (05_host.md R131) -/

@[simp] theorem Func.freshKey_held (f : Func) : f.freshKey.held = f.held := by unfold Func.freshKey; split <;> rfl
@[simp] theorem Func.freshKey_tstate (f : Func) : f.freshKey.tstate = f.tstate := by unfold Func.freshKey; split <;> rfl
@[simp] theorem Func.freshKey_cpltail (f : Func) : f.freshKey.cpltail = f.cpltail := by unfold Func.freshKey; split <;> rfl
@[simp] theorem Func.freshKey_cplhead (f : Func) : f.freshKey.cplhead = f.cplhead := by unfold Func.freshKey; split <;> rfl
@[simp] theorem Func.freshKey_cplbase (f : Func) : f.freshKey.cplbase = f.cplbase := by unfold Func.freshKey; split <;> rfl
@[simp] theorem Func.freshKey_cpllog (f : Func) : f.freshKey.cpllog = f.cpllog := by unfold Func.freshKey; split <;> rfl

/-- After an update of the responder's key CSEQ is not used up. -/
theorem Func.freshKey_exhausted (f : Func) : f.freshKey.cseq = 0x100000000#64 ↔ f.kphFlip = false ∧ f.cseq = 0x100000000#64 := by
  unfold Func.freshKey
  cases f.kphFlip <;> simp

theorem exec_completionWrite_none {s : State} {fn : BitVec 6} (h : (s.func fn).held = []) : exec (.completionWrite fn) s = .next s := by
  show execCompletionWrite fn s = _
  simp [execCompletionWrite, h]

/-- COMPLETION_WRITE with a completion held: it waits, or it is written. -/
theorem exec_completionWrite_held {s : State} {fn : BitVec 6} {b : Completion} {r : List Completion} (h : (s.func fn).held = b :: r) :
    let f := s.func fn
    let g := f.freshKey
    exec (.completionWrite fn) s = .next (
      if f.tstate ≠ .run ∨ 2 ^ f.cpllog.toNat ≤ (f.cpltail - f.cplhead).toNat ∨ (f.kphFlip = false ∧ f.cseq = 0x100000000#64) then s
      else
        ((s.putFunc { g with held := r, cpltail := f.cpltail + 1, cseq := g.cseq + 1 }).emit (.completion fn true
          (f.cplbase + BitVec.ofNat 64 (64 * (f.cpltail.toNat % 2 ^ f.cpllog.toNat))) (g.completionEntry b))).emit (.msix fn 0 true)) := by
  intro f g
  show execCompletionWrite fn s = _
  simp [execCompletionWrite, h, f, g, ← Func.freshKey_exhausted, or_assoc]

/-! ## Host reads (05_host.md R116, R117) -/

/-- The turn of a host read, outside a reset. -/
theorem step_hostRead {s : State} {fn : BitVec 6} {off : BitVec 14} {wide : Bool} {sch : List Turn} (turn : s.sched = .hostRead fn off wide :: sch)
    (power : s.pkg.pwrgood = true) (perst : s.pkg.perst = false) :
    step s = .next (({ s with sched := sch } : State).hostRead fn off.toNat wide) := by
  simp [step, turn, State.ask, power, perst]

/-- A read that no register answers, or that is not naturally aligned. -/
theorem State.hostRead_unsupported {s : State} {fn : BitVec 6} {off : Nat} {wide : Bool}
    (h : s.barOk fn = false ∨ off % (if wide then 8 else 4) ≠ 0) : s.hostRead fn off wide = s.emit (.unsupported fn) := by
  unfold State.hostRead
  rw [if_pos]
  obtain closed | skew := h
  · simp [closed]
  · cases wide <;> simp_all [alignedAccess]

theorem paired_eq (lo hi : BitVec 32) : paired lo hi = hi ++ lo := by
  apply BitVec.eq_of_toNat_eq
  have := hi.isLt
  rw [BitVec.toNat_append, Nat.shiftLeft_eq, Nat.mul_comm, ← Nat.two_pow_add_eq_or_of_lt lo.isLt]
  simp only [paired, BitVec.toNat_ofNat]
  omega

/-- The registers of page 0, by their offsets (05_host.md R116). -/
def Func.page0 (f : Func) : List (Nat × Word) :=
  [(0x00, f.ringbase), (0x08, f.ringlog.setWidth 64), (0x10, f.cplbase), (0x18, f.cpllog.setWidth 64), (0x20, f.head ++ f.tail),
    (0x28, f.cplhead ++ f.cpltail), (0x30, f.dupcnt ++ f.rstat), (0x38, f.eseq), (0x40, f.encl.setWidth 64)]

theorem Func.read8_of_page0 {f : Func} {off : Nat} {v : Word} (h : (off, v) ∈ f.page0) : off % 8 = 0 ∧ f.read8 off = v := by
  simp only [Func.page0, ← paired_eq, List.mem_cons, Prod.mk.injEq, List.not_mem_nil, or_false] at h
  obtain ⟨rfl, rfl⟩ | ⟨rfl, rfl⟩ | ⟨rfl, rfl⟩ | ⟨rfl, rfl⟩ | ⟨rfl, rfl⟩ |
    ⟨rfl, rfl⟩ | ⟨rfl, rfl⟩ | ⟨rfl, rfl⟩ | ⟨rfl, rfl⟩ := h
  all_goals exact ⟨rfl, rfl⟩

/-- A read of a register of page 0 answers it, or its low half. -/
theorem State.hostRead_register {s : State} {fn : BitVec 6} (ok : s.vfOk fn = true) {off : Nat} {v : Word} (h : (off, v) ∈ (s.func fn).page0)
    (wide : Bool) : s.hostRead fn off wide = s.emit (.readValue fn off (if wide then v else (v.setWidth 32).setWidth 64)) := by
  obtain ⟨aligned, reg⟩ := Func.read8_of_page0 h
  have natural : alignedAccess off wide = true := by
    cases wide
    · simp only [alignedAccess, Bool.false_eq_true, if_false, beq_iff_eq]
      omega
    · simp only [alignedAccess, if_true, aligned, beq_self_eq_true]
  unfold State.hostRead State.barRead
  rw [if_neg (by simp [State.barOk_of_vfOk ok, natural]), if_neg (State.ne_zero_of_vfOk ok), reg]
  cases wide
  · congr 2
    exact BitVec.eq_of_toNat_eq (by simp [aligned])
  · rfl

/-- Settles O51: a write to a register by the state of its interface, an entry by its checks in their order, a completion by the room in its ring. That a
resumed ring has HCAUSE 0 is log entry 96, the HCAUSE of ERROR is log entries 57 and 58, the unsealing and the sealing are log entry 97. -/
theorem hostRings : Obligations.HostRings := by
  unfold Obligations.HostRings
  intro s fn f
  have own : f.fn = fn := State.func_fn s fn
  refine ⟨?unsupported, fun ok => ⟨?error, ?answered, ?config, ?locked⟩, ?queue, fun ok locked => ⟨?space, ?reset⟩, ?ide, ?ideUnlocked, ?dma, ?idle,
    ?entry, exec_completionWrite_none, ?written, ?waits, ?read⟩
  case unsupported =>
    intro no v off w x
    refine ⟨?_, ?_, ?_⟩
    · show execTailWrite fn v s = _
      simp [execTailWrite, no, State.emit]
    · show execCplheadWrite fn v s = _
      simp [execCplheadWrite, no, State.emit]
    · show execRingConfigWrite fn off w x s = _
      simp [execRingConfigWrite, no, State.emit]
  case error =>
    intro error v
    rw [exec_tailWrite ok, exec_cplheadWrite ok]
    exact ⟨congrArg _ (if_pos error), congrArg _ (if_pos error)⟩
  case answered =>
    intro good v
    rw [exec_tailWrite ok, exec_cplheadWrite ok]
    refine ⟨congrArg _ (if_neg good), congrArg _ ((if_neg good).trans (congrArg s.putFunc ?_))⟩
    simp [Func.putTail, f]
  case config =>
    intro x unlocked
    have write (off : BitVec 14) (page : off.toNat < 0x20) (aligned : off.toNat % 8 = 0) :
        exec (.ringConfigWrite fn off true x) s = .next (s.putFunc (f.putConfig off.toNat true x)) := by
      rw [exec_ringConfigWrite ok page aligned, State.configWrite_unlocked s unlocked]
    exact ⟨write 0x00 (by decide) (by decide), write 0x08 (by decide) (by decide), write 0x10 (by decide) (by decide),
      write 0x18 (by decide) (by decide)⟩
  case locked =>
    intro off x page aligned
    rw [exec_registerWrite_ring ok page aligned, exec_ringConfigWrite ok page aligned]
    exact ⟨fun h => congrArg _ (State.configWrite_locked s h ..), fun h => congrArg _ (State.configWrite_error s h ..), rfl⟩
  case queue =>
    intro ready q off x at_ v
    rw [exec_registerWrite_queue ready at_]
    simp [queueWrite, fldN, v]
  case space =>
    intro bar g
    have bound : ¬ (!g.isLocked) = true := by simp [(Func.isLocked_iff g).mpr locked]
    exact congrArg Host.Outcome.next ((if_neg (by simp [ok])).trans (if_neg bound))
  case reset =>
    refine ⟨_, exec_functionLevelReset ok, ?_⟩
    rw [State.func_putFunc_self _ (by simp [Func.flr]), State.func_toError s (f.isLocked_iff.mpr locked) own]
    exact ⟨rfl, rfl, rfl, rfl, rfl, rfl, rfl, rfl⟩
  case ide => exact fun _ => rfl
  case ideUnlocked => exact fun unlocked => congrArg _ (State.toError_unlocked s unlocked ..)
  case dma => exact fun run => congrArg _ (if_pos run)
  case idle => exact fun e ok idle => congrArg _ (if_pos (by simpa using idle))
  case entry =>
    intro fetches u right
    have taken (e : RingEntry) (ok : Bool) : exec (.ringEntry fn e ok) s = .next (u.takeEntry f e ok) := exec_ringEntry fetches e ok
    simp only [taken]
    refine ⟨fun e ok wrong => ?_, fun e ok r old => ?_, fun e ok r new limit => ?_, fun e ok r more gap => ?_, fun e r more next => ?_,
      fun e r more next => ?_⟩
    · rw [State.takeEntry_refused u wrong]
    · rw [State.takeEntry_right r, if_pos old]
      exact ⟨_, rfl, dupcnt_toNat _⟩
    · rw [State.takeEntry_right r, if_neg (by simpa using new), if_pos limit]
      rfl
    · rw [State.takeEntry_right r, if_neg (BitVec.not_lt.mpr (BitVec.le_of_lt gap)), if_neg more, if_pos gap]
    · rw [State.takeEntry_right r, if_neg (by simp [next]), if_neg more, if_neg (by simp [next]), if_pos Bool.not_false]
    · rw [State.takeEntry_right r, if_neg (by simp [next]), if_neg more, if_neg (by simp [next]), if_neg (by decide)]
      exact ⟨_, rfl, State.func_putFunc_self u rfl, rfl⟩
  case written =>
    intro b r held run room key g head body nonce
    rw [exec_completionWrite_held held, if_neg]
    · rfl
    · rintro (halted | full | ⟨old, used⟩)
      · exact halted run
      · exact Nat.not_lt.mpr full room
      · exact key.elim (fun flip => absurd (old.symm.trans flip) (by decide)) fun unused => unused used
  case waits =>
    intro closed
    cases held : f.held with
    | nil => exact exec_completionWrite_none held
    | cons b r => rw [exec_completionWrite_held held, if_pos closed]
  case read =>
    intro off wide sch turn power perst u
    rw [step_hostRead turn power perst]
    exact ⟨fun bad => congrArg _ (State.hostRead_unsupported (s := { s with sched := sch }) bad),
      fun ok v reg => congrArg _ (State.hostRead_register (s := { s with sched := sch }) ok reg wide)⟩

end Sys2Proof.Machine
end

section
/-! Proofs about interfaces and sessions (05_host.md R113, R114, R118 to R120, R122 to R126, R130, R131): what a message needs of its session, the end of
a session, then the messages one after the other. -/

namespace Sys2Proof.Machine

open Sys2Proof.Safety

/-! ## Functions and the scrub -/

/-- Of two writes of one function the later stands. -/
theorem State.putFunc_putFunc (s : State) {f g : Func} (h : g.fn = f.fn) : (s.putFunc f).putFunc g = s.putFunc g := by
  simp [State.putFunc, h, List.filter_filter]

/-- The scrub of an enclave changes no function. -/
theorem State.func_scrub (s : State) (encl : Byte) (fn : BitVec 6) : (s.scrub encl).func fn = s.func fn := State.func_congr (State.scrub_funcs ..) fn

/-! ## Sessions (05_host.md R114, R122, R125, R126) -/

theorem State.sessionOpen_iff (s : State) (fn : BitVec 6) :
    s.sessionOpen fn = true ↔ (s.func fn).session = true ∧ s.hst.cycle ≤ (s.func fn).heard + 2 * (s.func fn).hb * 10 ^ 9 := by
  simp [State.sessionOpen]

/-- A message in the open session acts on the state that has heard it. -/
theorem State.inSession_open {s : State} {fn : BitVec 6} (h : s.sessionOpen fn = true) (act : State → Func → State) :
    s.inSession fn true act =
      act (s.putFunc { s.func fn with heard := s.hst.cycle }) { s.func fn with heard := s.hst.cycle } := by
  have heard : (s.heardFrom fn).func fn = { s.func fn with heard := s.hst.cycle } := State.func_putFunc_self s (State.func_fn s fn)
  unfold State.inSession
  rw [if_pos (by simp [h]), heard]
  rfl

/-- What a message does in the open session. -/
theorem exec_inSession {s t : State} {fn : BitVec 6} (h : s.sessionOpen fn = true) {e : Instr} {act : State → Func → State}
    (run : exec e s = .next (s.inSession fn true act))
    (result : act (s.putFunc { s.func fn with heard := s.hst.cycle }) { s.func fn with heard := s.hst.cycle } = t) : exec e s = .next t := by
  rw [run, State.inSession_open h, result]

/-- A message outside the session, or without one. -/
theorem State.inSession_refused {s : State} {fn : BitVec 6} {secured : Bool} (h : secured = false ∨ s.sessionOpen fn = false)
    (act : State → Func → State) : s.inSession fn secured act = s.emit (.spdmError fn .unexpectedRequest) :=
  if_neg (by obtain h | h := h <;> simp [h])

/-- What needs the bound session acts in it. -/
theorem exec_sessionEvent {e : Bool → Instr} {fn : BitVec 6} (h : SessionEvent e fn) (s : State) :
    ∃ act, ∀ secured, exec (e secured) s = .next (s.inSession fn secured act) := by
  obtain rfl | ⟨x, rfl⟩ | rfl | rfl | rfl | ⟨k, x, rfl⟩ | ⟨k, rfl⟩ | ⟨k, rfl⟩ | ⟨n, x, k, rfl⟩ | rfl := h
  all_goals exact ⟨_, fun _ => rfl⟩

theorem State.endSession_none {s : State} {fn : BitVec 6} (h : (s.func fn).session = false) : s.endSession fn = s := by
  simp [State.endSession, h]

theorem State.endSession_unlocked {s : State} {fn : BitVec 6} (h : (s.func fn).session = true) (unlocked : (s.func fn).isLocked = false) :
    s.endSession fn = s.putFunc { s.func fn with session := false } := by
  simp [State.endSession, h, unlocked]

/-- A function without a session, its stream stopped. -/
def Func.unbound (f : Func) : Func := { f with session := false, ks0 := ⟨none, false⟩, ks1 := ⟨none, false⟩ }

theorem State.endSession_locked {s : State} {fn : BitVec 6} (h : (s.func fn).session = true) (locked : (s.func fn).isLocked = true) :
    let u := s.toError (s.func fn) none true
    s.endSession fn = u.putFunc (u.func fn).unbound :=
  (if_neg (by simp [h])).trans (if_pos locked)

/-- The end of its session takes a locked interface to ERROR and stops its stream. -/
theorem State.func_endSession_locked {s : State} {fn : BitVec 6} (h : (s.func fn).session = true) (locked : (s.func fn).isLocked = true) :
    let f := s.func fn
    (s.endSession fn).func fn =
      Func.unbound { f with tstate := .error, rst := 2, hcause := f.errorCause none, scrub := true, resumeOk := false } := by
  dsimp only
  rw [State.endSession_locked h locked, State.func_putFunc_self (fn := fn) _ (by simp [Func.unbound]), State.func_toError s locked (State.func_fn s fn)]

/-! ## TDISP (05_host.md R118 to R120) -/

/-- LOCK without a recorded ENCL_PARAM, or of registers and streams that it does not accept. -/
theorem State.lock_refused {s : State} {fn : BitVec 6} {f : Func} (h : f.param = none ∨ f.lockable = false) : s.lock fn f = s.emit (.tdispError fn) := by
  unfold State.lock
  cases param : f.param with
  | none => rfl
  | some p => exact if_pos (by simp [h.resolve_left (by simp [param])])

/-- LOCK while key ids and an enclave are free. -/
theorem State.lock_bound {s : State} {fn : BitVec 6} {f : Func} {n : Nat} {key : BitVec 256} {key0 : Bool} (param : f.param = some (n, key, key0))
    (lockable : f.lockable = true) (keys : s.usedKeys.length + n ≤ 63) (enclaves : s.hst.enclaves.length < 255) :
    let c := s.createEnclave fn n key key0
    let x := Config.startNonce c.2.draws
    s.lock fn f = (({ c.2 with draws := c.2.draws + 1 } : State).putFunc
      { f with tstate := .locked, encl := c.1, nonce := x, param := none }).emit (.lockOk fn x) := by
  unfold State.lock
  simp only [param]
  exact if_neg (by simp [lockable]; omega)

theorem length_bytesOf (n k : Nat) : (bytesOf n k).length = k := by simp [bytesOf]

/-- A report ends with the 72 bytes of device-specific information. -/
theorem State.drop_report (s : State) (f : Func) : (s.report f).drop ((s.report f).length - 72) = s.reportInfo f := by
  have info : (s.reportInfo f).length = 72 := by simp [State.reportInfo, digestBytes, length_bytesOf]
  unfold State.report
  rw [List.length_append, info, Nat.add_sub_cancel, List.drop_left]

theorem State.stop_unlocked (s : State) (fn : BitVec 6) {f : Func} (h : f.tstate = .unlocked) : s.stop fn f = s.emit (.tdispError fn) := by
  simp only [State.stop, h]

/-- STOP of an interface in ERROR is answered at once unless a scrub is running. -/
theorem State.stop_error (s : State) (fn : BitVec 6) {f : Func} (h : f.tstate = .error) : s.stop fn f =
    { s.putFunc { f with tstate := .unlocked, rst := 0, hcause := 0, resumeOk := false, stopOwed := f.scrub } with
      out := if f.scrub then s.out else .tdispOk fn 3 :: s.out } := by
  simp only [State.stop, h]
  cases f.scrub <;> rfl

/-- STOP of an interface that is locked or runs leaves it unlocked, with a scrub to come and its answer owed. -/
theorem State.func_stop_locked {s : State} {fn : BitVec 6} {f : Func} (own : f.fn = fn) (h : f.tstate = .locked ∨ f.tstate = .run) :
    (s.stop fn f).func fn = { f with tstate := .unlocked, rst := 0, hcause := 0, resumeOk := false, scrub := true, stopOwed := true } := by
  have stopped : (s.stop fn f).hst.funcs = ((s.putFunc { f with
      tstate := .unlocked, rst := 0, hcause := 0, resumeOk := false, scrub := true, stopOwed := true }).scrub f.encl).hst.funcs := by
    obtain h | h := h <;> simp only [State.stop, h, State.emit_hst]
  rw [State.func_congr stopped, State.func_scrub]
  exact State.func_putFunc_self s own

/-! ## IDE keys and key updates (05_host.md R113, R130, R131) -/

/-- An IDE_KM message in the open session, for a key set that the function has. -/
theorem State.ideKm_open {s : State} {fn : BitVec 6} (h : s.sessionOpen fn = true) {k : StreamSet} (mine : k.link = false ∨ fn = 0) (ack : Nat)
    (g : KeySet → KeySet) :
    let f := { s.func fn with heard := s.hst.cycle }
    s.ideKm fn true k ack g = ((s.putFunc f).putFunc (f.mapKeySet k g)).emit (.ideAck fn ack) :=
  (State.inSession_open h _).trans (if_neg (by obtain h | h := mine <;> simp [h]))

/-- A KEY_UPDATE of the requester's key waits for a ring with entries that are not consumed, unless KEYLIMIT halted it. -/
theorem Func.updateBusy_iff (f : Func) : f.updateBusy = true ↔ f.head ≠ f.tail ∧ ¬ (f.rst = 2 ∧ f.hcause = 3) := by
  simp [Func.updateBusy, imp_iff_not_or]

theorem Func.update_eq (f : Func) (req rsp : Bool) : f.update req rsp = { f with
    eseq := if req then 0 else f.eseq
    dupcnt := if req then 0 else f.dupcnt
    reqKeys := if req then f.reqKeys + 1 else f.reqKeys
    resumeOk := if req then decide (f.tstate = .run ∧ f.rst = 2 ∧ f.hcause = 3) else f.resumeOk
    kphFlip := rsp || f.kphFlip } := by
  have keyLimit : (f.tstate == .run && f.rst == 2 && f.hcause == 3) = decide (f.tstate = .run ∧ f.rst = 2 ∧ f.hcause = 3) :=
    Bool.eq_iff_iff.mpr (by simp [and_assoc])
  unfold Func.update
  rw [keyLimit]
  cases req <;> cases rsp <;> rfl

/-- Settles O52: each message by its session and the state of its interface. What LOCK does with ENCL_PARAM, what START and STOP do to HCAUSE, the number of
a new enclave and the two parts of a scrub are log entries 59, 60, 61 and 64; the answers that R118 does not list are log entry 96, the layout of a report is
log entry 97. -/
theorem interfaceResults : Obligations.InterfaceResults := by
  unfold Obligations.InterfaceResults
  intro s fn f said h b told keep w
  have own : f.fn = fn := State.func_fn s fn
  refine ⟨?unsecured, ?noSession, fun open_ => ⟨?state, ?noReport, ?report, ?noLock, ?lock, ?noStart, ?badNonce, ?start, ?noStop, ?stop, ?stopError,
    ?keys, ?param, ?noParam, ?query, ?update, ?busy, ?heartbeat, ?badHeartbeat, ?inTime, ?ended⟩, ?closed, s.sessionOpen_iff fn, State.endSession_none,
    State.endSession_unlocked, ?error, ?noExchange, ?exchange, ?scrubbed, ?scrubs, ?measured, ?unmeasured, ?certificate, ?challenge⟩
  case unsecured =>
    intro e event
    obtain ⟨act, run⟩ := exec_sessionEvent event s
    rw [run, State.inSession_refused (.inl rfl)]
    rfl
  case noSession =>
    intro e event closed
    obtain ⟨act, run⟩ := exec_sessionEvent event s
    rw [run, State.inSession_refused (.inr closed)]
    rfl
  case state => exact exec_inSession open_ rfl rfl
  case noReport => exact fun unlocked => exec_inSession open_ rfl (if_neg (Bool.eq_false_iff.mp unlocked))
  case report =>
    intro e g locked enclave image
    refine ⟨b.report h, exec_inSession open_ rfl (if_pos locked), ?_⟩
    rw [State.drop_report]
    show [BitVec.ofNat 8 f.fn.toNat, 0, f.encl, BitVec.ofNat 8 (((s.enclave? f.encl).map fun e => e.keys.length).getD 0)] ++ _ ++
      digestBytes ((s.pkg.image.map allMeasures).getD []) = _
    rw [enclave, image, own]
    rfl
  case noLock =>
    intro refused
    refine exec_inSession open_ rfl ?_
    by_cases phys : fn = 0
    · exact if_pos phys
    · exact (if_neg phys).trans (State.lock_refused (refused.resolve_left phys))
  case lock =>
    intro n key k0 virt param lockable keys enclaves c x
    exact exec_inSession open_ rfl ((if_neg virt).trans (State.lock_bound (s := b) (f := h) param lockable keys enclaves))
  case noStart => exact fun x unlocked => exec_inSession open_ rfl (if_pos unlocked)
  case badNonce => exact fun x locked other => exec_inSession open_ rfl ((if_neg (not_not.mpr locked)).trans (if_pos other))
  case start => exact fun locked => exec_inSession open_ rfl ((if_neg (not_not.mpr locked)).trans (if_neg (not_not.mpr rfl)))
  case noStop => exact fun unlocked => exec_inSession open_ rfl (State.stop_unlocked b fn (f := h) unlocked)
  case stop =>
    intro locked
    have stopped := State.func_stop_locked (s := b) (f := h) own locked
    exact ⟨_, exec_inSession open_ rfl rfl, congrArg Func.tstate stopped, congrArg Func.rst stopped, congrArg Func.hcause stopped,
      congrArg Func.scrub stopped, congrArg Func.stopOwed stopped⟩
  case stopError => exact fun error => exec_inSession open_ rfl (State.stop_error b fn (f := h) error)
  case keys =>
    intro k mine
    exact ⟨fun key => congrArg _ (State.ideKm_open open_ mine ..), congrArg _ (State.ideKm_open open_ mine ..),
      congrArg _ (State.ideKm_open open_ mine ..)⟩
  case param =>
    intro n key k0 virt unlocked few many
    exact exec_inSession open_ rfl (if_neg (by simpa [few, many, show (s.func fn).tstate = .unlocked from unlocked] using virt))
  case noParam => exact fun n key k0 bad => exec_inSession open_ rfl (if_pos (by simpa [or_assoc, Nat.lt_one_iff] using bad))
  case query =>
    intro e virt enclave
    refine exec_inSession open_ rfl ((if_neg virt).trans ?_)
    show b.emit (.enclInfo fn f.encl (((s.enclave? f.encl).map fun e => e.keys).getD [])) = _
    rw [enclave]
    rfl
  case update =>
    intro x y free
    have idle : ¬ (x && h.updateBusy) = true := by
      rw [Bool.and_eq_true, Func.updateBusy_iff]
      rintro ⟨rfl, posted, running⟩
      exact free.elim Bool.noConfusion fun c => c.elim posted running
    refine congrArg Host.Outcome.next ((if_neg (by simp [open_])).trans ((if_neg idle).trans ?_))
    show (s.putFunc (h.update x y)).emit (.spdmOk fn 4) = ((s.putFunc h).putFunc _).emit (.spdmOk fn 4)
    rw [Func.update_eq, State.putFunc_putFunc]
    rfl
  case busy =>
    intro y posted running
    have busy : h.updateBusy = true := h.updateBusy_iff.mpr ⟨posted, running⟩
    exact congrArg Host.Outcome.next ((if_neg (by simp [open_])).trans (if_pos busy))
  case heartbeat => exact congrArg Host.Outcome.next ((if_neg (by simp [open_])).trans (if_pos rfl))
  case badHeartbeat => exact congrArg Host.Outcome.next ((if_neg (by simp [open_])).trans (if_neg Bool.false_ne_true))
  case inTime => exact congrArg _ (if_pos open_)
  case ended => exact congrArg _ (if_pos open_)
  case closed =>
    intro closed
    have shut := Bool.eq_false_iff.mp closed
    exact ⟨congrArg Host.Outcome.next (if_neg shut), congrArg Host.Outcome.next (if_neg shut),
      fun v => congrArg Host.Outcome.next (if_pos (by simp [closed])),
      fun x y => congrArg Host.Outcome.next (if_pos (by simp [closed]))⟩
  case error =>
    intro session locked
    have ended := State.func_endSession_locked session locked
    exact ⟨congrArg Func.session ended, congrArg Func.tstate ended, congrArg Func.scrub ended, congrArg Func.rst ended, congrArg Func.ks0 ended,
      congrArg Func.ks1 ended⟩
  case noExchange => exact fun ok no => congrArg Host.Outcome.next (if_pos (by simpa [or_assoc] using no))
  case exchange => exact fun ok closed => congrArg Host.Outcome.next (if_neg (by simp [ok, closed]))
  case scrubbed => exact fun scrub idle => congrArg Host.Outcome.next (if_neg (by
    simp [show (s.func fn).scrub = true from scrub, show s.slotsIdle (s.func fn).encl = true from idle]))
  case scrubs => exact fun not => congrArg Host.Outcome.next (if_pos (by simpa using not))
  case measured =>
    intro i x raw ok block
    show execGetMeasurements fn i x s = _
    simp [execGetMeasurements, ok, block, signIf, said, State.emit]
  case unmeasured =>
    intro i x no
    show execGetMeasurements fn i x s = _
    by_cases ok : s.fnOk fn = false
    · simp [execGetMeasurements, ok, said, State.emit]
    · simp [execGetMeasurements, ok, no.resolve_left ok, said, State.emit]
  case certificate =>
    intro c
    show execGetCertificate fn c s = _
    by_cases slot0 : s.fnOk fn = true ∧ c = 0
    · exact congrArg _ ((if_pos (by simpa using slot0)).trans (congrArg said (if_pos slot0).symm))
    · exact congrArg _ ((if_neg (by simpa using slot0)).trans (congrArg said (if_neg slot0).symm))
  case challenge =>
    intro c
    show execChallenge fn c s = _
    cases ok : s.fnOk fn <;> simp [execChallenge, ok, said, State.emit]

end Sys2Proof.Machine
end

section
/-! Proofs about the Sluice and the monitor (05_host.md R133; 06_execution.md R136 to R141, R153, R154, R163, R164, R170, R171; 10_traps.md R287, R288):
what the shared operations do to harts, launches and the enclave of a core, then placement, swap-out, resumption and the enclave switch. -/

namespace Sys2Proof.Machine

open Sys2Proof.Safety

/-! ## Every hart context -/

theorem State.mem_allHarts {s : State} {h : Hart} : h ∈ s.allHarts ↔ (s.h.launch ≠ 0 ∧ h = s.h) ∨ h ∈ s.harts := by
  unfold State.allHarts
  split
  case isTrue none_ => simp only [none_, ne_eq, not_true_eq_false, false_and, false_or]
  case isFalse some_ => simp only [List.mem_cons, some_, ne_eq, not_false_eq_true, true_and]

theorem State.allHarts_congr {s t : State} (focus : t.h = s.h) (others : t.harts = s.harts) : t.allHarts = s.allHarts := by
  unfold State.allHarts
  rw [focus, others]

/-- After a hart was written back, the harts are that one and some of those before. -/
theorem State.mem_allHarts_putHart {s : State} {h g : Hart} (hg : g ∈ (s.putHart h).allHarts) : g = h ∨ g ∈ s.allHarts := by
  rw [State.mem_allHarts] at hg ⊢
  unfold State.putHart at hg
  split at hg
  · exact hg.elim (fun c => .inl c.2) fun c => .inr (.inr c)
  · obtain focus | other := hg
    · exact .inr (.inl focus)
    · obtain ⟨x, hx, rfl⟩ := List.mem_map.mp other
      split
      · exact .inl rfl
      · exact .inr (.inr hx)

/-- Every hart after a change of some is one from before, changed if it satisfies the condition. -/
theorem State.mem_allHarts_mapHarts {s : State} {p : Hart → Bool} {f : Hart → Hart} {g : Hart}
    (hg : g ∈ (s.mapHarts p f).allHarts) : ∃ x ∈ s.allHarts, g = if p x then f x else x := by
  obtain ⟨placed, rfl⟩ | other := State.mem_allHarts.mp hg
  · have before : s.h.launch ≠ 0 := by
      intro zero
      exact placed (by simp [State.mapHarts, zero])
    refine ⟨s.h, State.mem_allHarts.mpr (.inl ⟨before, rfl⟩), ?_⟩
    have placed' : (s.h.launch != 0) = true := bne_iff_ne.mpr before
    simp only [State.mapHarts, placed', Bool.true_and]
  · obtain ⟨x, hx, rfl⟩ := List.mem_map.mp other
    exact ⟨x, State.mem_allHarts.mpr (.inr hx), rfl⟩

theorem State.mem_hartsOf {s : State} {id : BitVec 32} {h : Hart} : h ∈ s.hartsOf id ↔ h ∈ s.allHarts ∧ h.launch = id := by
  simp [State.hartsOf]

/-- Numbering the shares of a core changes no more of a hart than its share. -/
theorem State.mem_allHarts_numberShares {s : State} {core : Nat} {g : Hart} (hg : g ∈ (s.numberShares core).allHarts) :
    ∃ x ∈ s.allHarts, ∃ n, g = { x with share := n } := by
  obtain ⟨x, hx, rfl⟩ := State.mem_allHarts_mapHarts hg
  refine ⟨x, hx, ?_⟩
  split
  · exact ⟨_, rfl⟩
  · exact ⟨x.share, rfl⟩

/-! ## The core of a number under other updates -/

theorem State.core_congr {s t : State} (focus : t.c = s.c) (others : t.cores = s.cores) (installed : t.fab = s.fab) (n : Nat) : t.core n = s.core n := by
  unfold State.core
  rw [focus, others, installed]

@[simp] theorem State.core_mapLaunch (s : State) (id : BitVec 32) (f : Launch → Launch) (n : Nat) : (s.mapLaunch id f).core n = s.core n := rfl
@[simp] theorem State.core_numberShares (s : State) (core n : Nat) : (s.numberShares core).core n = s.core n := rfl
@[simp] theorem State.core_putHart (s : State) (h : Hart) (n : Nat) : (s.putHart h).core n = s.core n := State.core_congr (by simp) (by simp) (by simp) n
@[simp] theorem State.core_restoreHart (s : State) (h : Hart) (n : Nat) : (s.restoreHart h).core n = s.core n := by
  unfold State.restoreHart
  split <;> simp

/-! ## Loading an enclave on a core (10_traps.md R288) -/

theorem Core.load_mencl (c : Core) (e : Enclave) : (c.load e).mencl = e.id := by
  unfold Core.load
  split <;> rfl

theorem Core.load_id (c : Core) (e : Enclave) : (c.load e).id = c.id := by
  unfold Core.load
  split <;> rfl

theorem State.enclave?_id {s : State} {id : Byte} {e : Enclave} (h : s.enclave? id = some e) : e.id = id := by
  simpa using List.find?_some h

/-- Loading an enclave that there is gives the core that one, and a core that has it keeps it. -/
theorem State.loadEnclave_mencl {s : State} {core : Nat} {id : Byte} (h : s.enclave? id ≠ none ∨ (s.core core).mencl = id) :
    ((s.loadEnclave core id).core core).mencl = id := by
  unfold State.loadEnclave
  split
  case h_1 none_ => exact h.resolve_left (not_not.mpr none_)
  case h_2 e some_ =>
    extract_lets u
    rw [State.core_putCore, Core.load_id, State.core_id, if_pos rfl, Core.load_mencl, State.enclave?_id some_]

/-- Seating a launch of the enclave that a core runs leaves it that enclave. -/
theorem State.seatCore_mencl {s : State} {core : Nat} {encl : Byte} (h : (s.core core).mencl = encl) (id : BitVec 32) (vth : Nat) :
    ((s.seatCore id encl vth core).core core).mencl = encl := by
  unfold State.seatCore
  split
  · exact h
  · dsimp only
    rw [State.core_putCore, if_pos (by simp)]
    exact State.loadEnclave_mencl (.inr h)

section
variable {γ : Type} (g : State → γ) (cores : ∀ s c, g (State.putCore s c) = g s) (counters : ∀ s c, g (State.saveCounters s c) = g s)
include cores counters

/-- Loading an enclave changes cores and the counters that the monitor keeps. -/
theorem State.loadEnclave_keeps (s : State) (core : Nat) (id : Byte) : g (s.loadEnclave core id) = g s := by
  unfold State.loadEnclave
  split
  · rfl
  · rw [cores]
    split
    · rfl
    · exact counters ..

/-- Seating a launch on a core changes no more than loading its enclave does. -/
theorem State.seatCore_keeps (s : State) (id : BitVec 32) (encl : Byte) (vth core : Nat) : g (s.seatCore id encl vth core) = g s := by
  unfold State.seatCore
  split
  · rfl
  · exact (cores ..).trans (State.loadEnclave_keeps g cores counters ..)

end

@[simp] theorem State.seatCore_harts (s : State) (id : BitVec 32) (encl : Byte) (vth core : Nat) : (s.seatCore id encl vth core).harts = s.harts :=
  State.seatCore_keeps State.harts (by simp) (fun _ _ => rfl) ..
@[simp] theorem State.seatCore_launches (s : State) (id : BitVec 32) (encl : Byte) (vth core : Nat) :
    (s.seatCore id encl vth core).hst.launches = s.hst.launches :=
  State.seatCore_keeps (fun s => s.hst.launches) (by simp) (fun _ _ => rfl) ..
@[simp] theorem State.seatCore_waiting (s : State) (id : BitVec 32) (encl : Byte) (vth core : Nat) :
    (s.seatCore id encl vth core).hst.waiting = s.hst.waiting :=
  State.seatCore_keeps (fun s => s.hst.waiting) (by simp) (fun _ _ => rfl) ..
@[simp] theorem State.seatCore_seatClock (s : State) (id : BitVec 32) (encl : Byte) (vth core : Nat) :
    (s.seatCore id encl vth core).hst.seatClock = s.hst.seatClock :=
  State.seatCore_keeps (fun s => s.hst.seatClock) (by simp) (fun _ _ => rfl) ..

/-! ## Placement (06_execution.md R136 to R145) -/

/-- A launch as it was placed, but for what its cores have noted of it since: endpoints and the room for its contexts. -/
def Launch.PlacedAs (l m : Launch) : Prop := ∃ eps frames, m = { l with eps := eps, frames := frames }

/-- A hart of a launch stands at its entry: in-core rank `j` on a core (06_execution.md R145). -/
def Hart.AtEntry (l : Launch) (core j : Nat) (h : Hart) : Prop :=
  h.launch = l.id ∧ h.core = core ∧ h.slot = l.firstSlot + BitVec.ofNat 3 j ∧ h.seated = true ∧ h.run = .ready ∧ h.level = .user ∧
    h.pc = BitVec.ofNat 64 (fldN (pktWord l.words 4) 0 48)

theorem State.entryHart_atEntry (s : State) (l : Launch) (core j : Nat) (stvec : Word) : (s.entryHart l core j stvec).AtEntry l core j :=
  ⟨rfl, rfl, rfl, rfl, rfl, rfl, rfl⟩

/-- A property of a launch that a change of launches keeps. -/
theorem State.exists_mapLaunch {s : State} {P : Launch → Prop} {f : Launch → Launch} (hf : ∀ m, P m → P (f m)) (id : BitVec 32)
    (h : ∃ m ∈ s.hst.launches, P m) : ∃ m ∈ (s.mapLaunch id f).hst.launches, P m := by
  obtain ⟨m, hm, pm⟩ := h
  refine ⟨_, List.mem_map_of_mem hm, ?_⟩
  split
  · exact hf m pm
  · exact pm

/-- Numbering the shares of a core leaves every hart where it stands. -/
theorem State.exists_numberShares {s : State} {P : Hart → Prop} (hP : ∀ h n, P h → P { h with share := n }) (core : Nat)
    (h : ∃ x ∈ s.harts, P x) : ∃ x ∈ (s.numberShares core).harts, P x := by
  obtain ⟨x, hx, px⟩ := h
  refine ⟨_, List.mem_map_of_mem hx, ?_⟩
  split
  · exact hP x _ px
  · exact px

@[simp] theorem State.newEndpoint_harts (s : State) (id : BitVec 32) (core : Nat) : (s.newEndpoint id core).harts = s.harts := by
  simp [State.newEndpoint]
@[simp] theorem State.newEndpoint_waiting (s : State) (id : BitVec 32) (core : Nat) : (s.newEndpoint id core).hst.waiting = s.hst.waiting := by
  simp [State.newEndpoint, State.mapLaunch]

@[simp] theorem State.startOn_waiting (s : State) (l : Launch) (stvec : Word) (core : Nat) : (s.startOn l stvec core).hst.waiting = s.hst.waiting := by
  simp [State.startOn, State.numberShares, State.mapLaunch]

theorem State.startOn_launches {s : State} {l : Launch} (h : ∃ m ∈ s.hst.launches, l.PlacedAs m) (stvec : Word) (core : Nat) :
    ∃ m ∈ (s.startOn l stvec core).hst.launches, l.PlacedAs m := by
  have frames (n : Nat) (m : Launch) (placed : l.PlacedAs m) : l.PlacedAs { m with frames := m.frames ++ [(core, n)] } := by
    obtain ⟨eps, frames, rfl⟩ := placed
    exact ⟨_, _, rfl⟩
  have eps (g : BitVec 16) (m : Launch) (placed : l.PlacedAs m) : l.PlacedAs { m with eps := m.eps ++ [(core, g)] } := by
    obtain ⟨eps, frames, rfl⟩ := placed
    exact ⟨_, _, rfl⟩
  refine State.exists_mapLaunch (frames _) l.id ?_
  simp only [State.putCore_hst, State.seatCore_launches]
  refine State.exists_mapLaunch (eps _) l.id ?_
  simpa using h

/-- The harts of a launch that starts on a core are those before, and one at its entry for each in-core rank. -/
theorem State.startOn_harts {s : State} {P : Hart → Prop} (hP : ∀ h n, P h → P { h with share := n }) (l : Launch) (stvec : Word) (core : Nat)
    (h : (∃ x ∈ s.harts, P x) ∨ ∃ j < shapeHarts l.words, ∀ u : State, P (u.entryHart l core j stvec)) :
    ∃ x ∈ (s.startOn l stvec core).harts, P x := by
  refine State.exists_numberShares hP core ?_
  obtain ⟨x, hx, px⟩ | ⟨j, hj, pj⟩ := h
  · exact ⟨x, List.mem_append_left _ (by simpa using hx), px⟩
  · exact ⟨_, List.mem_append_right _ (List.mem_map_of_mem (List.mem_range.mpr hj)), pj _⟩

/-- After a launch has started on each of its cores, a hart of it stands at its entry for each core and in-core rank. -/
theorem State.foldl_startOn_harts (l : Launch) (stvec : Word) (cs : List Nat) (s : State) {core j : Nat} (hj : j < shapeHarts l.words)
    (h : (∃ x ∈ s.harts, x.AtEntry l core j) ∨ core ∈ cs) :
    ∃ x ∈ (cs.foldl (fun s c => s.startOn l stvec c) s).harts, x.AtEntry l core j := by
  induction cs generalizing s with
  | nil => exact h.resolve_right (by simp)
  | cons c cs ih =>
    refine ih (s.startOn l stvec c) ?_
    obtain stands | here := h
    · exact .inl (State.startOn_harts (fun _ _ at_ => at_) l stvec c (.inl stands))
    · obtain rfl | later := List.mem_cons.mp here
      · exact .inl (State.startOn_harts (fun _ _ at_ => at_) l stvec core (.inr ⟨j, hj, fun u => u.entryHart_atEntry l core j stvec⟩))
      · exact .inr later

/-- The launch that placing the head of a queue makes. -/
def State.headLaunch (s : State) (queue : BitVec 5) (q : Queued) (pl : Placement) : Launch :=
  { id := s.freshId, encl := q.encl, words := q.words, origin := q.origin, queue := queue, prio := fld (pktWord q.words 5) 53 2
    cores := placeCores q.words pl, firstSlot := pl.firstSlot, allot := shapeAllot q.words, rbase := pl.rbase, seated := true
    seatedAt := s.hst.seatClock, preempted := false, splitAt := [], endStat := none, eps := [], cbanks := [], frames := [] }

/-- The head of a queue leaves it, its launch is listed, and its storage is zeroed. -/
def State.takeHead (s : State) (queue : BitVec 5) (l : Launch) : State :=
  let i : Fin 32 := ⟨queue.toNat, queue.isLt⟩
  { s with
    mem := s.mem.zeroBlocks l
    hst := { s.hst with
      waiting := s.hst.waiting.set i (s.hst.waiting.get i).tail
      launches := s.hst.launches ++ [l], nextLaunch := l.id + 1, seatClock := s.hst.seatClock + 1 } }

theorem State.place_eq (s : State) (queue : BitVec 5) (q : Queued) (pl : Placement) :
    s.place queue q pl = (placeCores q.words pl).foldl
      (fun u c => u.startOn (s.headLaunch queue q pl) (((s.enclave? q.encl).map (·.stvec)).getD 0) c) (s.takeHead queue (s.headLaunch queue q pl)) := by
  unfold State.place
  rfl

/-- The placed head has left its queue. -/
theorem State.place_waiting (s : State) (queue : BitVec 5) (q : Queued) (pl : Placement) :
    (s.place queue q pl).hst.waiting.get ⟨queue.toNat, queue.isLt⟩ = (s.hst.waiting.get ⟨queue.toNat, queue.isLt⟩).tail := by
  rw [State.place_eq, foldl_keeps (fun s : State => s.hst.waiting) (by simp)]
  simp [State.takeHead, Vector.get_eq_getElem]

theorem State.place_launches (s : State) (queue : BitVec 5) (q : Queued) (pl : Placement) :
    ∃ m ∈ (s.place queue q pl).hst.launches, (s.headLaunch queue q pl).PlacedAs m := by
  rw [State.place_eq]
  have first : ∃ m ∈ (s.takeHead queue (s.headLaunch queue q pl)).hst.launches, (s.headLaunch queue q pl).PlacedAs m :=
    ⟨_, List.mem_append_right _ (List.mem_singleton_self _), [], [], rfl⟩
  exact List.foldlRecOn _ _ (motive := fun u : State => ∃ m ∈ u.hst.launches, (s.headLaunch queue q pl).PlacedAs m) first
    fun u listed c _ => State.startOn_launches listed _ c

/-- The head is placed whole: each of its cores has a hart at the entry for each in-core rank. -/
theorem State.place_harts (s : State) (queue : BitVec 5) (q : Queued) (pl : Placement) {core j : Nat} (hc : core ∈ placeCores q.words pl)
    (hj : j < shapeHarts q.words) : ∃ h ∈ (s.place queue q pl).harts, h.AtEntry (s.headLaunch queue q pl) core j := by
  rw [State.place_eq]
  exact State.foldl_startOn_harts _ _ _ _ hj (.inr hc)

/-! ## Swap-out (06_execution.md R163) -/

/-- A hart that has given up its seat: it is swapped out, or it had retired. -/
def Hart.GaveUp (h : Hart) : Prop := h.seated = false ∧ (h.run = .swapped ∨ h.run = .retired)

theorem Hart.swapOut_gaveUp (reason : Nat) (h : Hart) : (h.swapOut reason).GaveUp := by
  unfold Hart.swapOut
  split
  case isTrue retired => exact ⟨rfl, .inr retired⟩
  case isFalse => exact ⟨rfl, .inl rfl⟩

@[simp] theorem State.leaveForSwap_h (s : State) (h : Hart) : (s.leaveForSwap h).h = s.h := by simp [State.leaveForSwap]
@[simp] theorem State.leaveForSwap_harts (s : State) (h : Hart) : (s.leaveForSwap h).harts = s.harts := by simp [State.leaveForSwap]
@[simp] theorem State.leaveForSwap_hst (s : State) (h : Hart) : (s.leaveForSwap h).hst = s.hst := by simp [State.leaveForSwap]

@[simp] theorem State.saveCore_h (s : State) (l : Launch) (core : Nat) : (s.saveCore l core).h = s.h := by simp [State.saveCore, State.poolPut]
@[simp] theorem State.saveCore_harts (s : State) (l : Launch) (core : Nat) : (s.saveCore l core).harts = s.harts := by
  simp [State.saveCore, State.poolPut]
@[simp] theorem State.saveCore_enclaves (s : State) (l : Launch) (core : Nat) : (s.saveCore l core).hst.enclaves = s.hst.enclaves := by
  simp [State.saveCore, State.poolPut, State.mapLaunch]

@[simp] theorem State.saveContext_hst (s : State) (h : Hart) : (s.saveContext h).hst = s.hst := by simp [State.saveContext, State.poolPut]

theorem State.mem_allHarts_saveContext {s : State} {h g : Hart} (hg : g ∈ (s.saveContext h).allHarts) :
    (∃ a, g = { h with saved := a }) ∨ g ∈ s.allHarts :=
  (State.mem_allHarts_putHart hg).imp (fun e => ⟨_, e⟩) id

/-- What a swap-out makes of the harts: those of the launch give up their seats, the others stay as they were. -/
theorem State.mem_allHarts_swapLaunch {s : State} {l : Launch} {reason : Nat} {g : Hart} (hg : g ∈ (s.swapLaunch l reason).allHarts) :
    g.GaveUp ∨ (g ∈ s.allHarts ∧ l.id ≠ g.launch) := by
  unfold State.swapLaunch at hg
  extract_lets s1 s2 s3 at hg
  have before : s2.allHarts = s.allHarts :=
    State.allHarts_congr ((foldl_keeps State.h (by simp) _ _).trans (foldl_keeps State.h (by simp) _ _))
      ((foldl_keeps State.harts (by simp) _ _).trans (foldl_keeps State.harts (by simp) _ _))
  have swapped : ∀ g ∈ s3.allHarts, g.GaveUp ∨ (g ∈ s.allHarts ∧ l.id ≠ g.launch) := by
    intro g hg
    obtain ⟨x, hx, rfl⟩ := State.mem_allHarts_mapHarts hg
    split
    case isTrue => exact .inl (x.swapOut_gaveUp reason)
    case isFalse other => exact .inr ⟨before ▸ hx, fun e => other (beq_iff_eq.mpr e.symm)⟩
  refine List.foldlRecOn _ State.saveContext (motive := fun u => ∀ g ∈ u.allHarts, g.GaveUp ∨ (g ∈ s.allHarts ∧ l.id ≠ g.launch)) swapped
    (fun u hu h mine g hg => ?_) g hg
  obtain ⟨a, rfl⟩ | hg := State.mem_allHarts_saveContext hg
  · obtain ⟨mem, own⟩ := State.mem_hartsOf.mp (List.mem_filter.mp mine).1
    exact .inl ((swapped h mem).resolve_right fun c => c.2 own.symm)
  · exact hu g hg

/-- After launches have been swapped out one after the other, no hart of any of them has a seat. -/
theorem State.mem_allHarts_swapLaunches (ls : List Launch) (reason : Nat) (s : State) {g : Hart}
    (hg : g ∈ (ls.foldl (fun s l => s.swapLaunch l reason) s).allHarts) : g.GaveUp ∨ (g ∈ s.allHarts ∧ ∀ l ∈ ls, l.id ≠ g.launch) := by
  induction ls generalizing s with
  | nil => exact .inr ⟨hg, by simp⟩
  | cons l ls ih =>
    obtain gave | ⟨kept, others⟩ := ih _ hg
    · exact .inl gave
    · refine (State.mem_allHarts_swapLaunch kept).imp id fun c => ⟨c.1, ?_⟩
      simpa using ⟨c.2, others⟩

@[simp] theorem State.swapLaunch_enclaves (s : State) (l : Launch) (reason : Nat) : (s.swapLaunch l reason).hst.enclaves = s.hst.enclaves := by
  unfold State.swapLaunch
  extract_lets s1 s2 s3
  have left : s1.hst = s.hst := foldl_keeps State.hst (by simp) _ _
  have cores : s2.hst.enclaves = s1.hst.enclaves := foldl_keeps (fun s : State => s.hst.enclaves) (by simp) _ _
  have contexts : (((s3.hartsOf l.id).filter (·.run == .swapped)).foldl State.saveContext s3).hst = s3.hst := foldl_keeps State.hst (by simp) _ _
  exact (congrArg HostSide.enclaves contexts).trans (cores.trans (congrArg HostSide.enclaves left))

/-! ## Resumption (06_execution.md R164) -/

theorem Hart.reseat_seated (h : Hart) : h.reseat.seated = true := by
  unfold Hart.reseat
  split <;> rfl

/-- Restoring a hart changes neither its launch nor its seat. -/
theorem State.mem_allHarts_restoreHart {s : State} {h g : Hart} (hg : g ∈ (s.restoreHart h).allHarts) :
    (g.launch = h.launch ∧ g.seated = h.seated) ∨ g ∈ s.allHarts := by
  unfold State.restoreHart at hg
  split at hg
  · exact (State.mem_allHarts_putHart (s := s) hg).imp (by rintro rfl; exact ⟨rfl, rfl⟩) id
  · exact (State.mem_allHarts_putHart hg).imp (by rintro rfl; exact ⟨rfl, rfl⟩) id

@[simp] theorem State.restoreHart_seatClock (s : State) (h : Hart) : (s.restoreHart h).hst.seatClock = s.hst.seatClock := by
  unfold State.restoreHart
  split <;> simp [State.mapLaunch]

@[simp] theorem State.restoreCore_hst (s : State) (l : Launch) (core : Nat) : (s.restoreCore l core).hst = s.hst := by simp [State.restoreCore]

/-- After a launch was seated again, each of its harts has a seat. -/
theorem State.reseat_seated {s : State} {l : Launch} {g : Hart} (hg : g ∈ (s.reseat l).allHarts) (own : g.launch = l.id) : g.seated = true := by
  unfold State.reseat at hg
  extract_lets s1 s0 s2 at hg
  have seated : ∀ g ∈ s0.allHarts, g.launch = l.id → g.seated = true := by
    intro g hg own
    obtain ⟨x, hx, rfl⟩ := State.mem_allHarts_mapHarts hg
    split at own
    case isTrue mine => simp only [mine, if_true, Hart.reseat_seated]
    case isFalse other => exact absurd (beq_iff_eq.mpr own) other
  refine List.foldlRecOn _ State.numberShares (motive := fun u => ∀ g ∈ u.allHarts, g.launch = l.id → g.seated = true)
    (List.foldlRecOn _ State.restoreHart (motive := fun u => ∀ g ∈ u.allHarts, g.launch = l.id → g.seated = true) seated ?restored) ?numbered g hg own
  case restored =>
    intro u hu h mine g hg own
    obtain ⟨sameLaunch, sameSeat⟩ | hg := State.mem_allHarts_restoreHart hg
    · rw [sameSeat]
      exact seated h (State.mem_hartsOf.mp (List.mem_filter.mp mine).1).1 (sameLaunch.symm.trans own)
    · exact hu g hg own
  case numbered =>
    intro u hu core _ g hg own
    obtain ⟨x, hx, n, rfl⟩ := State.mem_allHarts_numberShares hg
    exact hu x hx own

theorem State.reseat_seatClock (s : State) (l : Launch) : (s.reseat l).hst.seatClock = s.hst.seatClock + 1 := by
  unfold State.reseat
  extract_lets s1 s0 s2
  have cores : s1.hst.seatClock = s.hst.seatClock := foldl_keeps (fun s : State => s.hst.seatClock) (by simp) _ _
  have harts : s2.hst.seatClock = s0.hst.seatClock :=
    (foldl_keeps (f := State.numberShares) (fun s => s.hst.seatClock) (fun _ _ => rfl) _ _).trans
      (foldl_keeps (f := State.restoreHart) (fun s => s.hst.seatClock) (by simp) _ _)
  exact congrArg (· + 1) (harts.trans cores)

/-! ## The enclave switch (10_traps.md R288) -/

theorem Core.setBank_mencl (c : Core) (lslot : Bool) (b : Vector Word 16) : (c.setBank lslot b).mencl = c.mencl := by
  unfold Core.setBank
  split <;> rfl
theorem Core.setBank_id (c : Core) (lslot : Bool) (b : Vector Word 16) : (c.setBank lslot b).id = c.id := by
  unfold Core.setBank
  split <;> rfl

theorem State.restoreCore_mencl (s : State) (l : Launch) (core : Nat) : ((s.restoreCore l core).core core).mencl = (s.core core).mencl := by
  unfold State.restoreCore
  rw [State.core_putCore, Core.setBank_id, State.core_id, if_pos rfl, Core.setBank_mencl]

/-- Seating a launch that a core has alone leaves it the enclave that it runs, which is that of the launch. -/
theorem State.reseat_mencl {s : State} {l : Launch} {core : Nat} (alone : l.cores = [core]) (h : (s.core core).mencl = l.encl) :
    ((s.reseat l).core core).mencl = l.encl := by
  unfold State.reseat
  extract_lets s1 s0 s2
  have seated : (s1.core core).mencl = l.encl := by
    simp only [s1, alone, List.foldl_cons, List.foldl_nil, State.restoreCore_mencl]
    exact State.seatCore_mencl h ..
  have harts : s2.core core = s0.core core :=
    (foldl_keeps (fun s : State => s.core core) (by simp) _ _).trans (foldl_keeps (fun s : State => s.core core) (by simp) _ _)
  exact (congrArg Core.mencl harts).trans seated

theorem State.seatOwn_mencl {s : State} {core : Nat} {encl : Byte} (h : (s.core core).mencl = encl) :
    ((s.seatOwn core encl).core core).mencl = encl := by
  refine List.foldlRecOn _ _ (motive := fun u : State => (u.core core).mencl = encl) h (fun u hu l mine => ?_)
  have own : l.encl = encl ∧ l.cores = [core] := by
    have := (List.mem_filter.mp mine).2
    simp only [Bool.and_eq_true, beq_iff_eq] at this
    exact ⟨this.1.1.1, this.2⟩
  split
  · rw [← own.1] at hu ⊢
    exact State.reseat_mencl own.2 hu
  · exact hu

/-! ## The events -/

theorem exec_launchValidate {s : State} {k : Nat} {q : Queued} (h : s.hst.inbox[k]? = some q) : exec (.launchValidate k) s = .next (
    if ((s.hst.inbox.take k).any fun p => sameOrigin p.origin q.origin) || !s.pushReleased q then s
    else ({ s with hst := { s.hst with inbox := s.hst.inbox.eraseIdx k } } : State).validate q) := by
  show execLaunchValidate k s = _
  simp only [execLaunchValidate, h]

theorem exec_placeLaunch {s : State} {n : BitVec 5} {q : Queued} (h : s.headOf n = some q) (pl : Placement) :
    let p := s.headPrio n q
    exec (.placeLaunch n pl) s = .next (if s.isReady = true ∧ s.placementOk q pl (fun _ => false) = true ∧ s.headFirst n p true = false ∧
      s.resumeFirst n p true = false ∧ s.blockedBy n p q = false then s.place n q pl else s) := by
  show execPlaceLaunch n pl s = _
  simp only [execPlaceLaunch, h, Bool.and_eq_true, Bool.not_eq_true', and_assoc]

theorem exec_resumeLaunch {s : State} {id : BitVec 32} {l : Launch} (h : s.launch? id = some l) :
    let p := s.effPrio l.prio l.queue
    exec (.resumeLaunch id) s = .next (if s.canResume l = true ∧ s.headFirst l.queue p false = false ∧ s.resumeFirst l.queue p false = false
      then s.reseat l else s) := by
  show execResumeLaunch id s = _
  simp only [execResumeLaunch, h, Bool.and_eq_true, Bool.not_eq_true', and_assoc]

theorem exec_launchComplete {s : State} {id : BitVec 32} {l : Launch} (h : s.launch? id = some l) :
    exec (.launchComplete id) s = .next (if (∀ h ∈ s.hartsOf id, Hart.ended l h = true) ∧ s.launchDrained l = true ∧ s.blockBusy l = false
      then s.completeLaunch l else s) := by
  have own : l.id = id := by simpa using List.find?_some h
  show execLaunchComplete id s = _
  simp only [execLaunchComplete, h, Bool.and_eq_true, Bool.not_eq_true', and_assoc, List.all_eq_true, own]

theorem State.completeLaunch_eq (s : State) (l : Launch) : s.completeLaunch l = (s.dropLaunch l).deliverDone l.words l.origin l.id
    ((l.endStat.map fun e => e.1).getD 0) ((l.endStat.map fun e => e.2).getD 0) false := by
  unfold State.completeLaunch
  cases l.endStat <;> rfl

theorem exec_priorityPreempt {s : State} {n : BitVec 5} {q : Queued} (h : s.headOf n = some q) (pl : Placement) (vs : List (BitVec 32)) :
    let ls := s.hst.launches.filter fun l => vs.contains l.id
    exec (.priorityPreempt n pl vs) s = .next (if s.isReady = true ∧ s.victimsOk n q pl vs = true ∧ ∀ l ∈ ls, s.settled l = true
      then ls.foldl (fun s l => s.swapLaunch l 1) s else s) := by
  show execPriorityPreempt n pl vs s = _
  simp only [execPriorityPreempt, h, Bool.and_eq_true, List.all_eq_true, and_assoc]

/-- No launch is swapped out for a head that has not waited 10^6 cycles. -/
theorem State.victimsOk_early {s : State} {n : BitVec 5} {q : Queued} (h : s.hst.cycle < q.since + 10 ^ 6) (pl : Placement) (vs : List (BitVec 32)) :
    s.victimsOk n q pl vs = false := by
  have early : decide (q.since + 10 ^ 6 ≤ s.hst.cycle) = false := decide_eq_false (Nat.not_le.mpr h)
  simp only [State.victimsOk, early, Bool.false_and]

theorem exec_enclaveSwitch (s : State) (n : Nat) (e : Byte) :
    let ls := (s.placedOn n).filter fun l => l.seated
    exec (.enclaveSwitch n e) s = .next (
      if (s.core n).mencl ≠ e ∧ s.enclave? e ≠ none ∧ s.enclaveWaits n e = true ∧ ∀ l ∈ ls, s.settled l = true
      then ((ls.foldl (fun s l => s.swapLaunch l 2) s).loadEnclave n e).seatOwn n e else s) := by
  intro ls
  show execEnclaveSwitch n e s = _
  rw [← ite_not]
  refine congrArg Host.Outcome.next (if_congr ?_ rfl rfl)
  simp [ls, or_iff_not_imp_left]

/-- A core that has reported its element-beats. -/
def Core.reported (c : Core) : Core := { c with unreported := Vector.replicate 32 0 }

theorem exec_chargeReport (s : State) (n : Nat) :
    let u := s.putCore (s.core n).reported
    exec (.chargeReport n) s =
      .next { u with hst := { u.hst with charge := u.hst.charge.zipWith (· + ·) (s.core n).unreported } } := rfl

/-- Settles O53: a packet by its checks, a head and a resumption by what goes before them, then what each does to the harts, the launches and the core that
it concerns. That SPRES of 0 is BADLAUNCH and is checked before DENIED is log entry 71, from when a head waits is log entries 39 and 102. -/
theorem sluiceResults : Obligations.SluiceResults := by
  unfold Obligations.SluiceResults
  intro s
  refine ⟨?noPacket, ?validate, ?noHead, ?place, ?noLaunch, ?launch, ?early, ?preempt, ?switch, fun n => rfl, ?report, rfl⟩
  case noPacket =>
    intro k none_
    show execLaunchValidate k s = _
    simp only [execLaunchValidate, none_]
  case validate =>
    intro k q packet earlier u i
    rw [exec_launchValidate packet]
    refine ⟨fun waits => congrArg _ (if_pos ((Bool.or_eq_true _ _).mpr (waits.imp id fun posted => by rw [posted]; rfl))), fun first released => ?_⟩
    have turn : ¬ (earlier || !s.pushReleased q) = true := by simp [first, released]
    rw [if_neg turn]
    refine ⟨fun bad => congrArg _ (if_pos bad), fun good denied => ?_, fun good allowed => ?_⟩
    · exact congrArg _ ((if_neg (by simp [good])).trans (if_pos denied))
    · exact congrArg _ ((if_neg (by simp [good])).trans (if_neg (Bool.eq_false_iff.mp allowed)))
  case noHead =>
    intro n pl none_
    show execPlaceLaunch n pl s = _
    simp only [execPlaceLaunch, none_]
  case place =>
    intro n pl q head p open_
    rw [exec_placeLaunch head]
    refine ⟨fun closed => congrArg _ (if_neg closed), fun ready => ⟨_, congrArg _ (if_pos ready), ?_⟩⟩
    obtain ⟨m, mem, eps, frames, rfl⟩ := s.place_launches n q pl
    exact ⟨s.place_waiting n q pl, ⟨_, mem, rfl, rfl, rfl, rfl, rfl, rfl, rfl, rfl⟩, fun c mem j rank => s.place_harts n q pl mem rank⟩
  case noLaunch =>
    intro id none_
    constructor
    · show execResumeLaunch id s = _
      simp only [execResumeLaunch, none_]
    · show execLaunchComplete id s = _
      simp only [execLaunchComplete, none_]
  case launch =>
    intro id l placed p open_ done_
    have own : l.id = id := by simpa using List.find?_some placed
    rw [exec_resumeLaunch placed, exec_launchComplete placed]
    refine ⟨fun closed => congrArg _ (if_neg closed), fun ready => ⟨_, congrArg _ (if_pos ready), ?_, State.reseat_seatClock s l⟩,
      fun runs => congrArg _ (if_neg runs), fun ended => congrArg _ ((if_pos ended).trans (State.completeLaunch_eq s l))⟩
    exact fun h mem mine => State.reseat_seated mem (mine.trans own.symm)
  case early =>
    intro n pl vs q head early
    rw [exec_priorityPreempt head, if_neg (by simp [State.victimsOk_early early])]
  case preempt =>
    intro n pl vs q head ls open_
    rw [exec_priorityPreempt head]
    refine ⟨fun closed => congrArg _ (if_neg closed), fun ready => ⟨_, congrArg _ (if_pos ready), fun h mem victim => ?_⟩⟩
    obtain ⟨l, chosen, own⟩ := victim
    exact (State.mem_allHarts_swapLaunches ls 1 s mem).resolve_right fun c => c.2 l chosen own
  case switch =>
    intro n e ls open_
    rw [exec_enclaveSwitch]
    refine ⟨fun closed => congrArg _ (if_neg closed), fun ready => ⟨_, congrArg _ (if_pos ready), ?_⟩⟩
    refine State.seatOwn_mencl (State.loadEnclave_mencl (.inl ?_))
    have enclaves : (ls.foldl (fun s l => s.swapLaunch l 2) s).hst.enclaves = s.hst.enclaves := foldl_keeps (fun s : State => s.hst.enclaves) (by simp) _ _
    unfold State.enclave?
    rw [enclaves]
    exact ready.2.1
  case report =>
    intro n
    refine ⟨_, exec_chargeReport s n, fun q => ⟨?_, ?_⟩⟩
    · simp [Vector.get_eq_getElem]
    · show ((s.putCore (s.core n).reported).core n).unreported.get q = 0
      rw [State.core_putCore, if_pos (by simp [Core.reported])]
      simp [Core.reported, Vector.get_eq_getElem]

end Sys2Proof.Machine
end

section
/-! Proofs about what runs beside the barrel, and about the traps of a visit (06_execution.md R149, R151; 07_core.md R188, R195, R196, R203, R204;
10_traps.md R273, R275; 12_encoding.md R319; 18_isa_fabric.md R450): the sequencer's order and its charges first, then what each event does. -/

namespace Sys2Proof.Machine

/-! ## The sequencer's order (06_execution.md R149) -/

/-- Between two threads of which one has waited 2^14 cycles, the longer wait goes first. -/
theorem State.goesBefore_waited (s : State) {c : Core} {a b : Hart} (long : 2 ^ 14 ≤ max (c.waited a) (c.waited b)) (ne : c.waited a ≠ c.waited b) :
    s.goesBefore c a b = decide (c.waited b < c.waited a) := if_pos ⟨long, ne⟩

/-- Of two threads, the one that is chosen has waited as long as any of the two that has waited 2^14 cycles. -/
theorem State.le_waited_choice (s : State) (c : Core) (a b : Hart) {h : Hart} (one : h = a ∨ h = b) (long : 2 ^ 14 ≤ c.waited h) :
    c.waited h ≤ c.waited (if s.goesBefore c a b then a else b) := by
  by_cases same : c.waited a = c.waited b
  · rcases one with rfl | rfl <;> split <;> omega
  · have both : 2 ^ 14 ≤ max (c.waited a) (c.waited b) := by rcases one with rfl | rfl <;> omega
    rw [s.goesBefore_waited both same]
    by_cases longer : c.waited b < c.waited a
    · rw [if_pos (decide_eq_true longer)]
      rcases one with rfl | rfl <;> omega
    · rw [if_neg (by simpa using longer)]
      rcases one with rfl | rfl <;> omega

/-- The first of a list is its head, or the first of the rest where that goes before the head. -/
theorem State.firstOf_cons (s : State) (c : Core) (x : Hart) (r : List Hart) :
    s.firstOf c (x :: r) = some ((s.firstOf c r).elim x fun y => if s.goesBefore c y x then y else x) := by
  cases rest : s.firstOf c r <;> simp [State.firstOf, rest]

theorem State.firstOf_eq_none {s : State} {c : Core} {l : List Hart} (h : s.firstOf c l = none) : l = [] := by
  cases l with
  | nil => rfl
  | cons x r => cases (s.firstOf_cons c x r).symm.trans h

/-- No thread of the list that has waited 2^14 cycles has waited longer than the first. -/
theorem State.waited_le_firstOf {s : State} {c : Core} {l : List Hart} {h g : Hart} (first : s.firstOf c l = some g) (mem : h ∈ l)
    (long : 2 ^ 14 ≤ c.waited h) : c.waited h ≤ c.waited g := by
  induction l generalizing g with
  | nil => cases mem
  | cons x r ih =>
    rw [State.firstOf_cons] at first
    obtain rfl := Option.some.inj first
    cases rest : s.firstOf c r with
    | none =>
      obtain rfl := State.firstOf_eq_none rest
      show c.waited h ≤ c.waited x
      rw [List.mem_singleton.mp mem]
    | some y =>
      rcases List.mem_cons.mp mem with rfl | later
      · exact s.le_waited_choice c y h (.inr rfl) long
      · exact (ih rest later).trans (s.le_waited_choice c y x (.inl rfl) (long.trans (ih rest later)))

/-! ## Charges at a choice (06_execution.md R151) -/

/-- What holds of the charges before a choice holds after it, if it stays true where a queue that had no ready thread takes a charge at least its own. -/
theorem State.gained_rec {s : State} {rs : List Hart} {P : Vector Nat 32 → Prop} (start : P s.c.charge)
    (step : ∀ v (q : BitVec 5) m, P v → s.sawQueue rs q = [] → P (v.set q.toNat (max (s.c.charge.get ⟨q.toNat, q.isLt⟩) m) q.isLt)) :
    P (s.gained rs) := by
  unfold State.gained
  refine List.foldlRecOn _ _ start fun v ih h _ => ?_
  dsimp only
  split
  · exact ih
  next unseen =>
    split
    · exact ih
    · exact step v _ _ ih (by simpa using unseen)

/-- No charge falls. -/
theorem State.charge_le_gained (s : State) (rs : List Hart) (q : Fin 32) : s.c.charge.get q ≤ (s.gained rs).get q := by
  refine State.gained_rec (P := fun v => s.c.charge.get q ≤ v.get q) le_rfl fun v k m ih _ => ?_
  simp only [Vector.get_eq_getElem, Vector.getElem_set] at ih ⊢
  split
  next own =>
    simp only [own]
    exact le_max_left _ _
  · exact ih

/-- The charge of a queue that had a ready thread stays. -/
theorem State.gained_seen {s : State} {rs : List Hart} {q : BitVec 5} (seen : s.sawQueue rs q ≠ []) :
    (s.gained rs).get ⟨q.toNat, q.isLt⟩ = s.c.charge.get ⟨q.toNat, q.isLt⟩ := by
  refine State.gained_rec (P := fun v => v.get ⟨q.toNat, q.isLt⟩ = s.c.charge.get ⟨q.toNat, q.isLt⟩) rfl fun v k m ih unseen => ?_
  have other : k.toNat ≠ q.toNat := fun same => seen (BitVec.eq_of_toNat_eq same ▸ unseen)
  simpa only [Vector.get_eq_getElem, Vector.getElem_set, if_neg other] using ih

/-! ## The free lane group, the Pump and the streams -/

/-- A free lane group stays free without a ready thread, and else goes to the first one, whose oldest queued instruction runs. -/
theorem exec_stripEnd {s : State} {n : Nat} {g : BitVec 2} (lanes : g.toNat < (s.focusCore n).c.split) :
    let u := s.focusCore n
    let rs := u.allHarts.filter (u.stripReady n)
    let v := u.noteReady rs
    (v.firstOf v.c rs = none →
      exec (.stripEnd n g) s = .next { v with c := { v.c with lane := v.c.lane.set g.toNat none g.isLt } }) ∧
    (∀ h, v.firstOf v.c rs = some h →
      exec (.stripEnd n g) s = .next (({ v with c := { v.c with
        lane := v.c.lane.set g.toNat (some h.slot) g.isLt
        waits := v.c.waits.map fun w => if w.1 = h.slot then (w.1, v.c.cycle) else w } } : State).focusOn h).queueOne) := by
  intro u rs v
  have event : exec (.stripEnd n g) s = .next (s.stripEnd n g) := rfl
  simp only [event, State.stripEnd, if_neg (Nat.not_le.mpr lanes)]
  refine ⟨fun first => ?_, fun h first => ?_⟩ <;> simp only [u, rs, v, first]

/-- A repetition of the Pump of a slot that a hart holds. -/
theorem exec_pumpRepetition (s : State) (n : Nat) (x : BitVec 3) :
    (s.focusSlot n x = none → exec (.pumpRepetition n x) s = .next s) ∧
    (∀ u, s.focusSlot n x = some u → exec (.pumpRepetition n x) s =
      .next (if u.h.run = .swapped ∨ u.h.run = .memWait ∨ u.h.deferred ≠ none then s else u.pumpRun 16)) := by
  have event : exec (.pumpRepetition n x) s = .next (s.pumpRepetition n x) := rfl
  rw [event, State.pumpRepetition]
  refine ⟨fun vacant => ?_, fun u focus => ?_⟩
  · simp only [vacant]
  · simp only [focus, Bool.or_eq_true, beq_iff_eq, Option.isSome_iff_ne_none, or_assoc]

/-- A fetch of the elements of a stream of a slot that a hart holds. -/
theorem exec_streamFetch (s : State) (n : Nat) (x : BitVec 3) (k : BitVec 3) (m : Nat) :
    (s.focusSlot n x = none → exec (.streamFetch n x k m) s = .next s) ∧
    (∀ u, s.focusSlot n x = some u →
      let b := u.h.binding (24 + k.toNat)
      let first := b.pos.toNat + b.ahead.length
      let f := u.fetchMany k.toNat b ((List.range (min (min m (b.room - b.ahead.length)) (b.len.toNat - first))).map (first + ·))
      exec (.streamFetch n x k m) s = .next (if b.kind ≠ 1 ∨ u.h.run = .swapped then s
        else { f.1 with h := f.1.h.setBinding (24 + k.toNat) { b with ahead := b.ahead ++ f.2 } })) := by
  have event : exec (.streamFetch n x k m) s = .next (s.streamFetch n x k m) := rfl
  rw [event, State.streamFetch]
  refine ⟨fun vacant => ?_, fun u focus => ?_⟩
  · simp only [vacant]
  · simp only [focus, Bool.or_eq_true, beq_iff_eq, decide_eq_true_eq]

/-! ## The copy engine (07_core.md R203) -/

/-- The core in focus with a command at the end of the round. -/
def State.lastInTurn (u : State) (k : CopyCmd) : State :=
  { u with c := { u.c with copies := (u.c.copies.filter fun j => j.id != k.id) ++ [k] } }

/-- Without a ready command the engine does nothing; the first one comes last in the next round, and what it does is settled. -/
theorem exec_copyPacket (s : State) (n : Nat) :
    let u := s.focusCore n
    (u.c.copies.find? u.copyReady = none → exec (.copyPacket n) s = .next u) ∧
    (∀ k, u.c.copies.find? u.copyReady = some k →
      let v := u.lastInTurn k
      (k.malformed = true → exec (.copyPacket n) s = .next (v.settleCopy k.id)) ∧
      (k.malformed = false → k.allSent = false → exec (.copyPacket n) s = .next ((v.copyStep k).settleCopy k.id)) ∧
      (∀ off, k.malformed = false → k.allSent = true → k.syncRemote = some off →
        exec (.copyPacket n) s = .next ((v.copySync k off).settleCopy k.id))) := by
  have event : exec (.copyPacket n) s = .next (s.copyPacket n) := rfl
  refine ⟨fun idle => ?_, fun k first => ?_⟩
  · simp only [event, State.copyPacket, idle]
  · simp only [event, State.copyPacket, first, State.lastInTurn]
    refine ⟨fun bad => ?_, fun good more => ?_, fun off good sent owed => ?_⟩
    · simp only [bad, if_true]
    · simp only [good, more, Bool.false_eq_true, if_false]
    · simp only [good, sent, owed, Bool.false_eq_true, if_false, if_true]

/-! ## The Weir unit (07_core.md R204) -/

/-- An operation is in progress when it is the first on its sketch, and that sketch is among the first eight. -/
theorem Core.weirBusy_eq_some {c : Core} {k : Nat} {o : WeirOp} : c.weirBusy k = some o ↔
    c.weir[k]? = some o ∧ (∀ p ∈ c.weir.take k, p.sketch ≠ o.sketch) ∧ ((c.weir.take k).map WeirOp.sketch).dedup.length < 8 := by
  unfold Core.weirBusy
  cases place : c.weir[k]? with
  | none => simp
  | some p =>
    dsimp only
    split
    next out =>
      simp only [reduceCtorEq, Option.some.injEq, false_iff]
      rintro ⟨rfl, first, few⟩
      rcases Bool.or_eq_true _ _ ▸ out with before | many
      · obtain ⟨q, mem, same⟩ := List.mem_map.mp (List.contains_iff_mem.mp before)
        exact first q mem same
      · exact absurd (of_decide_eq_true many) (Nat.not_le.mpr few)
    next busy =>
      simp only [Bool.or_eq_true, List.contains_iff_mem, List.mem_map, decide_eq_true_eq, not_or, not_exists, not_and, Nat.not_le] at busy
      simp only [Option.some.injEq, iff_self_and]
      rintro rfl
      exact busy

/-- An operation in progress is applied to its end, or, where the schedule cuts it and its first elements raise nothing, as far as the cut. -/
theorem exec_weirApply (s : State) (n k : Nat) :
    ((s.core n).weirBusy k = none → exec (.weirApply ⟨n, k⟩) s = .next s) ∧
    (∀ o, (s.core n).weirBusy k = some o →
      (s.cutNow = none → exec (.weirApply ⟨n, k⟩) s =
        .next (({ s with mem := o.apply s.mem } : State).putCore { (s.core n).count 0x12 1 with weir := (s.core n).weir.eraseIdx k })) ∧
      (∀ m, s.cutNow = some m → 5 ≤ o.kind → o.kind ≤ 7 → m < o.elems.length → (runSteps ((o.before m).steps s.mem) s.mem).2 = true →
        exec (.weirApply ⟨n, k⟩) s =
          .next (({ s with mem := (o.before m).apply s.mem } : State).putCore { s.core n with weir := (s.core n).weir.set k (o.after m) }))) := by
  have event : exec (.weirApply ⟨n, k⟩) s = .next (s.weirWork n k) := rfl
  simp only [event, State.weirWork]
  refine ⟨fun idle => ?_, fun o busy => ⟨fun whole => ?_, fun m cut lo hi rest clean => ?_⟩⟩
  · simp only [idle]
  · simp only [busy, whole]
  · simp only [busy, cut, lo, hi, rest, clean, decide_true, Bool.and_self, if_true]

/-! ## Aborts owed (18_isa_fabric.md R450) -/

/-- The core in focus, no longer owing an abort. -/
def State.settledAbort (u : State) (k : CollAbort) : State := { u with c := { u.c with aborts := u.c.aborts.erase k } }

/-- An abort that a slot's launch owes waits for the packets of the slot; then it is sent as its header says, or dropped where that cannot be read. -/
theorem exec_collAbortSend (s : State) (n : Nat) (x : BitVec 3) (id : BitVec 32) :
    let u := s.focusCore n
    let owed := u.c.aborts.find? fun k => k.slot == x && k.launch == id
    (∀ k, owed = some k → u.collPackets x id = false →
      (∀ w, (u.settledAbort k).readLoc (.spad k.core k.off) 64 = some w →
        exec (.collAbortSend n x id) s = .next ((u.settledAbort k).sendAborts k (hdrHoff w) (hdrNmem w - k.next) k.next)) ∧
      ((u.settledAbort k).readLoc (.spad k.core k.off) 64 = none → exec (.collAbortSend n x id) s = .next (u.settledAbort k))) ∧
    (∀ k, owed = some k → u.collPackets x id = true → exec (.collAbortSend n x id) s = .next u) ∧
    (owed = none → exec (.collAbortSend n x id) s = .next u) := by
  unfold State.settledAbort
  refine ⟨fun k owed free => ⟨fun w reads => ?_, fun poison => ?_⟩, fun k owed busy => ?_, fun none_ => ?_⟩
  case refine_4 =>
    show Host.Outcome.next (s.collAbortSend n x id) = _
    simp only [State.collAbortSend, none_]
  all_goals
    show Host.Outcome.next (s.collAbortSend n x id) = _
    rw [State.collAbortSend, owed]
  · refine congrArg _ ((if_neg (Bool.eq_false_iff.mp free)).trans ?_)
    simp only [reads]
  · refine congrArg _ ((if_neg (Bool.eq_false_iff.mp free)).trans ?_)
    simp only [poison]
  · exact congrArg _ (if_pos busy)

/-! ## Interrupts and deferred traps (10_traps.md R273, R275) -/

/-- SIP.TIMER is CYCLE ≥ TIMECMP. -/
theorem State.sipBits_timer {s : State} (h : s.h.csr.timecmp.toNat ≤ s.c.cycle.toNat) : s.sipBits.getLsbD 1 = true := by
  unfold State.sipBits
  rw [if_pos (BitVec.le_def.mpr h)]
  cases s.h.csr.sipPreempt <;> cases s.myMail.isEmpty <;> cases s.isPoolHart && s.myMail.any _ <;> rfl

/-- A core whose slot `x` is not due, or that the governor slows, takes no trap of that slot. -/
theorem State.noTrap_elsewhere {s : State} {n : Nat} {x : BitVec 3} (h : (s.atCycle n).dueSlot ≠ x ∨ (s.atCycle n).governed = true) :
    s.interruptTake n x = s ∧ s.deferredTrap n x = s := by
  have out : (decide ((s.atCycle n).dueSlot ≠ x) || (s.atCycle n).governed) = true := Bool.or_eq_true_iff.mpr (h.imp_left decide_eq_true)
  exact ⟨if_pos out, if_pos out⟩

/-- The traps of a hart that its core visits: it takes a qualifying interrupt, but not behind queued instructions, nor behind a deferred trap outside
capture, and its deferred trap, but not while its Pump captures. -/
theorem State.traps_visit {s u : State} {n : Nat} {x : BitVec 3} (due : (s.atCycle n).dueSlot = x) (free : (s.atCycle n).governed = false)
    (focus : (s.atCycle n).focusSlot n x = some u) (goes : u.launchEnded = false) (swapped : u.h.run ≠ .swapped) (waits : u.h.run ≠ .memWait)
    (paced : u.h.nextIssue ≤ u.c.cycle) :
    (∀ t, u.undrained = false → u.h.deferred = none ∨ u.h.vec.pump.state = 1 → u.interruptNow = some t →
      s.interruptTake n x = (u.trapBefore t true).tick) ∧
    (u.interruptNow = none ∨ u.undrained = true → s.interruptTake n x = s) ∧
    (∀ t, u.h.vec.pump.state ≠ 1 → u.h.deferred = some t → s.deferredTrap n x = (u.takeDeferred t).tick) ∧
    (u.h.deferred = none → s.deferredTrap n x = s) := by
  unfold State.interruptTake State.deferredTrap
  refine ⟨fun t drained first pending => ?_, fun none_ => ?_, fun t running held => ?_, fun clear => ?_⟩
  · have first' : u.h.deferred.isSome = true → u.h.vec.pump.state = 1 := by rcases first with clear | capture <;> simp [*]
    simpa [due, free, focus, goes, swapped, waits, BitVec.not_lt.mpr paced, drained, pending] using fun held other => absurd (first' held) other
  · rcases none_ with none_ | undrained
    · simp [due, focus, none_]
    · simp [focus, undrained]
  · simpa [due, free, focus, goes, swapped, waits, BitVec.not_lt.mpr paced, held] using fun capture => absurd capture running
  · simp [focus, clear]

theorem exec_interruptTake (s : State) (n : Nat) (x : BitVec 3) : exec (.interruptTake n x) s = .next (s.interruptTake n x) := rfl
theorem exec_deferredTrap (s : State) (n : Nat) (x : BitVec 3) : exec (.deferredTrap n x) s = .next (s.deferredTrap n x) := rfl

/-- Settles O54: one equation for each event, and inductions over the ready threads for the order and the charges. Which agent acts next is log entry 5; when
interrupts are held back is log entry 14, which threads are ready is log entry 40, and where the work in progress is cut is log entry 78: choices of the
model. -/
theorem engineResults : Obligations.EngineResults := by
  unfold Obligations.EngineResults
  intro s
  refine ⟨?strips, ?vacant, ?threads, ?copies, ?weir, ?aborts, fun n x => ⟨rfl, State.sipBits_timer⟩, ?visits, ?elsewhere, fun w => rfl⟩
  case strips =>
    intro n g u i rs v ready
    exact ⟨fun none_ => congrArg Host.Outcome.next (if_pos none_), fun lanes => (exec_stripEnd lanes).1, fun h lanes => (exec_stripEnd lanes).2 h,
      fun h g first mem long => State.waited_le_firstOf first mem long, u.charge_le_gained rs, fun q => State.gained_seen⟩
  case vacant =>
    intro n x vacant
    exact ⟨(exec_pumpRepetition s n x).1 vacant, fun k m => (exec_streamFetch s n x k m).1 vacant⟩
  case threads =>
    intro n x u focus
    rw [(exec_pumpRepetition s n x).2 u focus]
    refine ⟨fun swapped waits clear => congrArg _ (if_neg (by simp [swapped, waits, clear])), fun held => congrArg _ (if_pos held), fun k m => ?_⟩
    simp only [(exec_streamFetch s n x k m).2 u focus]
    exact ⟨fun closed => congrArg _ (if_pos closed), fun memory seated => congrArg _ (if_neg (by simp [memory, seated]))⟩
  case copies =>
    exact exec_copyPacket s
  case weir =>
    intro n k q
    obtain ⟨idle, works⟩ := exec_weirApply s n k
    refine ⟨idle, fun o => Core.weirBusy_eq_some, fun o busy whole => ⟨_, (works o busy).1 whole, ?_⟩,
      fun o m busy cut lo hi rest clean => ⟨_, (works o busy).2 m cut lo hi rest clean, ?_⟩⟩
    all_goals
      refine ⟨State.putCore_mem .., ?_⟩
      rw [State.core_putCore]
      exact congrArg Core.weir (if_pos (State.core_id s n).symm)
  case aborts =>
    exact exec_collAbortSend s
  case visits =>
    intro n x u due free focus goes swapped waits paced
    obtain ⟨takes, none_, held, clear⟩ := State.traps_visit due free focus goes swapped waits paced
    rw [exec_interruptTake, exec_deferredTrap]
    exact ⟨fun t drained first pending => congrArg _ (takes t drained first pending), fun idle => congrArg _ (none_ idle),
      fun t running owed => congrArg _ (held t running owed), fun none_ => congrArg _ (clear none_)⟩
  case elsewhere =>
    intro n x h
    obtain ⟨interrupt, deferred⟩ := State.noTrap_elsewhere h
    exact ⟨congrArg _ interrupt, congrArg _ deferred⟩

end Sys2Proof.Machine
end

section
/-! Proofs about the splits of a vector thread (06_execution.md R166, R167; 14_isa_vector.md R372): what LSPLIT and LMERGE need of the hart before they go on,
the harts that LSPLIT starts, and what the retirement of a participant does to the others. -/

namespace Sys2Proof.Machine

open Sys2Proof.Safety

/-! ## What comes before the instruction -/

theorem State.closeWindow_of {s : State} (h : s.h.rlx = 0) : s.closeWindow = s := by
  unfold State.closeWindow
  rw [← h]

theorem State.performMarked_of {s : State} (h : s.h.marked = []) : s.performMarked = s := by
  unfold State.performMarked
  rw [h, List.foldl_nil, ← h]

theorem State.quiet_of {s : State} (k : State → Res) (marked : s.h.marked = []) (remote : s.remoteMarked = 0) : s.quiet k = k s := by
  unfold State.quiet
  rw [State.performMarked_of marked]
  exact if_neg (not_not.mpr remote)

/-- A suspended replay is dropped, and nothing else changes. -/
theorem State.dropPump_eq (s : State) : s.dropPump = { s with h := { s.h with vec := { s.h.vec with
    pump := if s.h.vec.pump.state = 3 then Pump.reset else s.h.vec.pump } } } := by
  unfold State.dropPump
  split <;> rfl

theorem splitCode_iff (k : Reg) : splitCode k = true ↔ k = 1 ∨ k = 2 := by
  simp [splitCode]

/-- Discarding vector state changes that state, VL, VDIRTY and SSTATUS.VS. -/
theorem Hart.discardVector_eq (h : Hart) : h.discardVector = { h with
    vec := VState.reset
    csr := { h.csr with vdirty := 0, vl := 0, sstatus := h.discardVector.csr.sstatus } } := by
  unfold Hart.discardVector
  dsimp only
  split <;> rfl

@[simp] theorem Hart.discardVector_instret (h : Hart) : h.discardVector.csr.instret = h.csr.instret := by rw [Hart.discardVector_eq]

/-- Vector state that is discarded tags every register NONE. -/
theorem State.vreg_discarded {s : State} (h : s.h.vec = VState.reset) (r : Nat) : (s.vreg r).tag = 0 := by
  by_cases lt : r < 32
  · rw [State.vreg_lt s lt, h]
    simp [VState.reset, VReg.none, Vector.get_eq_getElem]
  · rw [State.vreg_ge s lt]
    rfl

/-! ## The commands of the hart (09_ordering.md R257) -/

theorem State.enginesOpen_of_drained {s : State} {scope : Nat} (h : Drained s scope) : s.enginesOpen scope = false := by
  obtain ⟨copies, weir, pushes, strips, queued, replay⟩ := h
  have noCopies : s.copiesOpen scope = false := by
    simpa [State.copiesOpen] using copies
  have noWeir : s.weirOpen scope = false := by
    simp only [State.weirOpen, State.allCores, List.any_eq_false]
    intro c hc any
    obtain ⟨w, hw, open_⟩ := List.any_eq_true.mp any
    simp only [Bool.and_eq_true, beq_iff_eq, decide_eq_true_eq] at open_
    obtain ⟨⟨⟨core, slot⟩, launch⟩, tier⟩ := open_
    exact absurd tier (Nat.not_le.mpr (weir c hc w hw core slot launch))
  have noPushes : (decide (4 ≤ scope) && (s.launchesOpen != 0 || s.sqOpen != 0)) = false := by
    by_cases wide : 4 ≤ scope
    · obtain ⟨launches, commands⟩ := pushes wide
      have none_ : s.launchesOpen = 0 := by simpa [State.launchesOpen] using launches
      have none' : s.sqOpen = 0 := by simpa [State.sqOpen] using commands
      simp [none_, none']
    · simp [wide]
  have noStrips : s.stripsOpen scope = false := by
    have acknowledged : (s.c.reqs.any fun r => r.slot == s.h.slot && r.launch == s.h.launch && decide (r.tier.num ≤ scope) &&
        (r.kind == .strip || r.kind == .collPut || r.kind == .collSync)) = false := by
      simp only [List.any_eq_false, Bool.and_eq_true, Bool.or_eq_true, beq_iff_eq, decide_eq_true_eq, or_assoc]
      rintro r hr ⟨⟨⟨slot, launch⟩, tier⟩, kind⟩
      exact absurd tier (Nat.not_le.mpr (strips r hr slot launch kind))
    have unsent : (s.h.vec.vq.any fun e => e.sends.any fun t => decide (t ≤ scope)) = false := by
      simp only [List.any_eq_false, Option.any_eq_true, decide_eq_true_eq, not_exists, not_and, Nat.not_le]
      exact fun e he t ht => queued e he t ht
    have unused : (decide (4 ≤ scope) && s.h.replayUses [3]) = false := by
      rw [Bool.eq_false_iff]
      intro uses
      simp only [Hart.replayUses, Bool.and_eq_true, decide_eq_true_eq, List.any_eq_true] at uses
      obtain ⟨wide, replays, b, hb, fabric⟩ := uses
      exact replay wide replays b hb (by simpa using fabric)
    rw [State.stripsOpen, acknowledged, unsent, unused]
    rfl
  simp [State.enginesOpen, noCopies, noWeir, noPushes, noStrips]

/-- With no posted access outstanding, none of a tier is open. -/
theorem State.postedOpen_of {s : State} (h : ∀ j, s.h.post.get j = 0) (scope : Nat) : s.postedOpen scope = false := by
  simp only [State.postedOpen, List.any_eq_false, bne_iff_ne, not_not]
  intro x hx
  obtain ⟨i, hi, rfl⟩ := List.getElem_of_mem (List.mem_of_mem_take hx)
  exact h ⟨i, by simpa using hi⟩

/-! ## The harts that LSPLIT starts (06_execution.md R166) -/

/-- The state once the hart of one slot has been started. -/
def State.startIn (s : State) (own : Nat) (entry : Word) (cnt i : Nat) (k : BitVec 3) : State :=
  { s with harts := s.harts.filter (fun g => !(g.isHart s.h.core k s.h.launch)) ++ [splitHart s.h own k entry i cnt] }

theorem State.startSplit_cons (s : State) (own : Nat) (entry : Word) (cnt i : Nat) (k : BitVec 3) (r : List (BitVec 3)) :
    s.startSplit own entry cnt i (k :: r) = (s.startIn own entry cnt i k).startSplit own entry cnt (i + 1) r := rfl

/-- Starting the harts of a split changes the list of the others, and nothing else. -/
theorem State.startSplit_eq (s : State) (own : Nat) (entry : Word) (cnt i : Nat) (l : List (BitVec 3)) :
    s.startSplit own entry cnt i l = { s with harts := (s.startSplit own entry cnt i l).harts } := by
  induction l generalizing s i with
  | nil => rfl
  | cons k r ih =>
    rw [State.startSplit_cons, ih]
    rfl

/-- A hart that holds none of the slots stays. -/
theorem State.mem_startSplit_of_mem {s : State} {own : Nat} {entry : Word} {cnt i : Nat} {l : List (BitVec 3)} {g : Hart} (mem : g ∈ s.harts)
    (apart : ∀ k ∈ l, g.slot ≠ k) : g ∈ (s.startSplit own entry cnt i l).harts := by
  induction l generalizing s i with
  | nil => exact mem
  | cons k r ih =>
    refine ih (List.mem_append_left _ (List.mem_filter.mpr ⟨mem, ?_⟩)) fun q hq => apart q (List.mem_cons_of_mem _ hq)
    simp [Hart.isHart, apart k List.mem_cons_self]

/-- Each of the slots, all different, holds its new hart. -/
theorem State.splitHart_mem_startSplit {s : State} {own : Nat} {entry : Word} {cnt i j : Nat} {l : List (BitVec 3)} {q : BitVec 3} (nodup : l.Nodup)
    (at_ : l[j]? = some q) : splitHart s.h own q entry (i + j) cnt ∈ (s.startSplit own entry cnt i l).harts := by
  induction l generalizing s i j with
  | nil => simp at at_
  | cons k r ih =>
    obtain ⟨fresh, nodup⟩ := List.nodup_cons.mp nodup
    rw [State.startSplit_cons]
    cases j with
    | zero =>
      obtain rfl : k = q := by simpa using at_
      have put : splitHart s.h own k entry i cnt ∈ (s.startIn own entry cnt i k).harts := List.mem_append_right _ (List.mem_singleton.mpr rfl)
      refine State.mem_startSplit_of_mem put fun p hp same => ?_
      have same : k = p := same
      exact fresh (same ▸ hp)
    | succ j =>
      have later := ih (s := s.startIn own entry cnt i k) (i := i + 1) nodup (by simpa using at_)
      rwa [show i + 1 + j = i + (j + 1) by omega] at later

/-- No slot of an allotment stands twice in the list of the free ones. -/
theorem State.nodup_freeSlots (s : State) {l : Launch} (fits : l.firstSlot.toNat + l.allot ≤ 8) : (s.freeSlots l).Nodup := by
  refine List.Nodup.filter _ (List.Nodup.map_on (fun i hi j hj same => ?_) List.nodup_range)
  have eq := congrArg BitVec.toNat (add_left_cancel same)
  simp only [List.mem_range] at hi hj
  simpa only [BitVec.toNat_ofNat, Nat.mod_eq_of_lt (show i < 2 ^ 3 by omega), Nat.mod_eq_of_lt (show j < 2 ^ 3 by omega)] using eq

/-- Numbering the shares of a core changes shares, and nothing else. -/
theorem State.numberShares_eq (s : State) (core : Nat) : s.numberShares core =
    { s with h := { s.h with share := (s.numberShares core).h.share }, harts := (s.numberShares core).harts } := by
  unfold State.numberShares State.mapHarts
  dsimp only
  split <;> rfl

/-! ## LSPLIT (14_isa_vector.md R372) -/

/-- No other launch is seated on the core in focus. -/
def State.seatedAlone (s : State) (id : BitVec 32) : Bool := !(s.allHarts.any fun h => h.core == s.c.id && h.seated && h.launch != id)

/-- The code of SPLITST.SCNT for `n` harts. -/
def splitCount (n : Nat) : Nat := if n = 2 then 1 else 2

/-- The state in which LSPLIT has split the hart in focus into `n`, before it retires. -/
def State.splitInto (s : State) (l : Launch) (d : Reg) (entry : Word) (n : Nat) : State :=
  let s1 := s.startSplit (shapeOwn l.words) entry (splitCount n) 1 ((s.freeSlots l).take (n - 1))
  let h1 := { s1.h.discardVector with vindex := 0 }
  let h2 := { h1 with csr := { h1.csr with splitst := BitVec.ofNat 7 (splitCount n * 4 + h1.slot.toNat * 16) } }
  (({ s1 with h := h2, c := { s1.c with split := if s.seatedAlone l.id then splitFor n else s1.c.split } } : State).setX d
    (BitVec.ofNat 64 n)).numberShares s1.c.id

/-- The hart that LSPLIT splits, as index 0: without vector state. -/
def Hart.splitter (h : Hart) (n : Nat) : Hart :=
  { h.discardVector with vindex := 0, csr := { h.discardVector.csr with splitst := BitVec.ofNat 7 (splitCount n * 4 + h.slot.toNat * 16) } }

/-- LSPLIT changes the hart in focus to index 0, its result, the shares, T, and the harts that it starts. -/
theorem State.splitInto_eq (s : State) (l : Launch) (d : Reg) (entry : Word) (n : Nat) : s.splitInto l d entry n = { s with
    h := { s.h.splitter n with p := (s.splitInto l d entry n).h.p, share := (s.splitInto l d entry n).h.share }
    c := { s.c with
      split := if s.seatedAlone l.id then splitFor n else s.c.split
      cpend := (s.splitInto l d entry n).c.cpend }
    harts := (s.splitInto l d entry n).harts } := by
  unfold State.splitInto
  dsimp only
  rw [State.numberShares_eq, State.startSplit_eq, State.setX, State.setXLat_same]
  rfl

section
variable {s : State} {d a k : Reg} {l : Launch} (window : s.h.rlx = 0)
include window

theorem exec_lsplit_illegal (other : ¬ (k = 1 ∨ k = 2)) : exec (.lsplit d a k) s = .next (s.raise (s.trapWord causeIllegal)) := by
  show execLsplit d a k s = _
  delta execLsplit
  rw [State.closeWindow_of window]
  exact congrArg finish (if_neg (mt (splitCode_iff k).mp other))

variable (code : k = 1 ∨ k = 2) (running : s.h.vec.pump.state ≠ 3) (free : s.vecBusy = false)
include code running free

theorem exec_lsplit_misaligned (odd : (s.x a).toNat % 4 ≠ 0) : exec (.lsplit d a k) s = .next (s.raise ⟨causeMisalign, s.x a⟩) := by
  show execLsplit d a k s = _
  delta execLsplit State.lsplit
  rw [State.closeWindow_of window]
  simp only [(splitCode_iff k).mpr code, running, free, odd, if_true, if_false, ne_eq, not_false_eq_true, Bool.false_eq_true]
  rfl

variable (marked : s.h.marked = []) (remote : s.remoteMarked = 0) (placed : s.launch? s.h.launch = some l) (even : (s.x a).toNat % 4 = 0)
include marked remote placed even

theorem exec_lsplit_refused (refused : s.maySplit l (2 ^ k.toNat) = false) : exec (.lsplit d a k) s = aluResult d 0 s := by
  show execLsplit d a k s = _
  delta execLsplit State.lsplit
  rw [State.closeWindow_of window]
  simp only [(splitCode_iff k).mpr code, running, free, even, if_true, if_false, ne_eq, not_true_eq_false, Bool.false_eq_true]
  rw [State.quiet_of _ marked remote]
  simp only [placed, refused]
  rfl

theorem exec_lsplit_split (may : s.maySplit l (2 ^ k.toNat) = true) :
    exec (.lsplit d a k) s = .next (s.splitInto l d (s.x a) (2 ^ k.toNat)).retire := by
  show execLsplit d a k s = _
  delta execLsplit State.lsplit
  rw [State.closeWindow_of window]
  simp only [(splitCode_iff k).mpr code, running, free, even, if_true, if_false, ne_eq, not_true_eq_false, Bool.false_eq_true]
  rw [State.quiet_of _ marked remote]
  simp only [placed, may]
  rfl

end

/-- What LSPLIT needs of the hart, of its slots and of T (06_execution.md R166). -/
theorem State.maySplit_iff (s : State) (l : Launch) (n : Nat) : s.maySplit l n = true ↔
    s.h.vthread = true ∧ fldN s.h.csr.splitst 2 2 = 0 ∧ s.vthreads s.c.id (fun h => h.launch == l.id) = 1 ∧ n ≤ (s.freeSlots l).length + 1 ∧
      (s.seatedAlone l.id = true ∨ n + s.vthreads s.c.id (fun h => h.launch != l.id) ≤ s.c.split) := by
  simp only [State.maySplit, State.seatedAlone, Bool.and_eq_true, Bool.or_eq_true, decide_eq_true_eq, and_assoc]

/-- The lowest free slots hold the new harts, which differ from what LSPLIT gives them in their shares alone. -/
theorem State.splitInto_harts {s : State} {l : Launch} (fits : l.firstSlot.toNat + l.allot ≤ 8) {n i : Nat} {q : BitVec 3} (lt : i + 1 < n)
    (slot : (s.freeSlots l)[i]? = some q) (d : Reg) (entry : Word) : ∃ h ∈ (s.splitInto l d entry n).harts,
      ∃ m, h = { splitHart s.h (shapeOwn l.words) q entry (1 + i) (splitCount n) with share := m } := by
  refine State.exists_numberShares (fun h m p => ⟨m, by obtain ⟨m', rfl⟩ := p; rfl⟩) _
    ⟨splitHart s.h (shapeOwn l.words) q entry (1 + i) (splitCount n), ?_, 0, rfl⟩
  rw [State.setX, State.setXLat_same]
  refine State.splitHart_mem_startSplit ((s.nodup_freeSlots fits).sublist (List.take_sublist _ _)) ?_
  rw [List.getElem?_take, if_pos (by omega), slot]

/-- SPLITST of a participant: its index, the code of the count and the splitter's slot. -/
theorem splitst_toNat {n : Nat} {idx : Nat} (small : idx < 4) (slot : BitVec 3) (two : n = 2 ∨ n = 4) :
    (BitVec.ofNat 7 (idx + splitCount n * 4 + slot.toNat * 16)).toNat = idx + ((if n = 2 then 4 else 8) + 16 * slot.toNat) := by
  have lt := slot.isLt
  rw [BitVec.toNat_ofNat]
  rcases two with rfl | rfl <;> simp only [splitCount, if_true, show ¬ (4 = 2) by decide, if_false] <;> omega

/-- LSPLIT gives its result, and goes on as index 0 without vector state. -/
theorem State.splitInto_result (s : State) (l : Launch) (d : Reg) (entry : Word) (n : Nat) :
    Wrote d (BitVec.ofNat 64 n) 7 s (s.splitInto l d entry n).retire := by
  have wrote := State.setXLat_wrote { s with
    h := s.h.splitter n
    c := { s.c with split := if s.seatedAlone l.id then splitFor n else s.c.split }
    harts := (s.startSplit (shapeOwn l.words) entry (splitCount n) 1 ((s.freeSlots l).take (n - 1))).harts } d (BitVec.ofNat 64 n) 7
  unfold State.splitInto
  dsimp only
  rw [State.numberShares_eq, State.startSplit_eq]
  exact ⟨wrote.1, wrote.2⟩

/-! ## The retirement of a participant (06_execution.md R147, R160, R167) -/

/-- No other hart context has the identity of the hart in focus. -/
def State.Apart (s : State) : Prop := ∀ g ∈ s.harts, g.isHart s.h.core s.h.slot s.h.launch = false

theorem Hart.isHart_comm (a b : Hart) : a.isHart b.core b.slot b.launch = b.isHart a.core a.slot a.launch := by
  rw [Hart.isHart, Hart.isHart, BEq.comm (a := a.core), BEq.comm (a := a.slot), BEq.comm (a := a.launch)]

@[simp] theorem Hart.leaveBarrier_isHart (h : Hart) (core : Nat) (slot : BitVec 3) (launch : BitVec 32) :
    h.leaveBarrier.isHart core slot launch = h.isHart core slot launch := by
  unfold Hart.leaveBarrier
  split <;> rfl

/-- The barriers of other harts open without the retired hart in focus, and leave every hart its identity. -/
theorem State.recheckBarriers_keeps {s : State} (retired : s.h.run = .retired) (apart : s.Apart) (x : Hart) :
    (s.recheckBarriers x).h = s.h ∧ (s.recheckBarriers x).mem = s.mem ∧ (s.recheckBarriers x).Apart := by
  unfold State.recheckBarriers
  refine List.foldlRecOn (motive := fun u : State => u.h = s.h ∧ u.mem = s.mem ∧ u.Apart) _ _ ⟨rfl, rfl, apart⟩ fun u ih scope _ => ?_
  split
  · obtain ⟨focus, mem, apart⟩ := ih
    have focus' : (u.openBarrier x scope).h = u.h := by simp [State.openBarrier, State.mapHarts, Hart.inBarriers, focus, retired]
    refine ⟨focus'.trans focus, mem, fun g hg => ?_⟩
    obtain ⟨g', hg', rfl⟩ := List.mem_map.mp hg
    rw [focus']
    split
    · exact (g'.leaveBarrier_isHart ..).trans (apart g' hg')
    · exact apart g' hg'
  · exact ih

/-- Where no hart waits at a barrier, none opens. -/
theorem State.recheckBarriers_unwaited {s : State} (h : ∀ g ∈ s.allHarts, g.barWait = none) (x : Hart) : s.recheckBarriers x = s := by
  have out (scope : Tier) : (s.allHarts.any fun g => sameGroup scope g x && g.inBarriers && g.barWait == some scope) = false :=
    List.any_eq_false.mpr fun g hg => by simp [h g hg]
  simp only [State.recheckBarriers, List.foldl_cons, List.foldl_nil, out, Bool.false_and, Bool.false_eq_true, if_false]

/-- A merge changes T, and nothing of the harts or of storage. -/
theorem State.mergedT_keeps (s : State) (h : Hart) : (s.mergedT h).h = s.h ∧ (s.mergedT h).harts = s.harts ∧ (s.mergedT h).mem = s.mem := by
  unfold State.mergedT
  split <;> simp

@[simp] theorem State.mergedT_h (s : State) (h : Hart) : (s.mergedT h).h = s.h := (s.mergedT_keeps h).1
@[simp] theorem State.mergedT_harts (s : State) (h : Hart) : (s.mergedT h).harts = s.harts := (s.mergedT_keeps h).2.1
@[simp] theorem State.mergedT_mem (s : State) (h : Hart) : (s.mergedT h).mem = s.mem := (s.mergedT_keeps h).2.2

/-- T of a core that the launch has alone becomes its remaining vector threads, rounded up to 1, 2 or 4. -/
theorem State.mergedT_split {s : State} {h : Hart} (own : s.c.id = h.core)
    (alone : ∀ g ∈ s.allHarts, g.core = h.core → g.seated = true → g.launch = h.launch) :
    (s.mergedT h).c.split = splitFor (s.vthreads h.core fun g => g.launch == h.launch) := by
  have none_ : ¬ (s.allHarts.any fun g => g.core == h.core && g.seated && g.launch != h.launch) = true := by
    simpa using alone
  rw [State.mergedT, if_neg none_, State.putCore_focus (by rw [own]; exact (State.core_id s h.core).symm)]

/-- Another hart than the one in focus, written back. -/
theorem State.putHart_other {s : State} {h : Hart} (other : s.h.isHart h.core h.slot h.launch = false) :
    s.putHart h = { s with harts := s.harts.map fun g => if g.isHart h.core h.slot h.launch then h else g } := if_neg (by simp [other])

/-- A hart that goes on from LMERGE as index 0, once its merge is complete. -/
def Hart.goesOn (g : Hart) : Hart :=
  { g.merged with run := .ready, pc := g.merged.pc + 4, csr := { g.merged.csr with instret := g.merged.csr.instret + 1 } }

theorem State.recheckMerge_some {s : State} {x g : Hart} (found : (s.allHarts.find? fun g => g.mergeWait && sameSplit g x && s.splitDone g) = some g) :
    ∃ c, s.recheckMerge x = ((s.putHart g.goesOn).mergedT g).putCore c := by
  unfold State.recheckMerge
  rw [found]
  exact ⟨_, rfl⟩

/-- The merge of other harts leaves the hart in focus, which does not wait for one, and storage as they are. -/
theorem State.recheckMerge_keeps {s : State} (apart : s.Apart) (goes : s.h.mergeWait = false) (x : Hart) :
    (s.recheckMerge x).h = s.h ∧ (s.recheckMerge x).mem = s.mem := by
  cases found : s.allHarts.find? fun g => g.mergeWait && sameSplit g x && s.splitDone g with
  | none => simp [State.recheckMerge, found]
  | some g =>
    obtain ⟨c, eq⟩ := State.recheckMerge_some found
    have waits : g.mergeWait = true := by
      have holds := List.find?_some found
      simp only [Bool.and_eq_true] at holds
      exact holds.1.1
    obtain ⟨-, rfl⟩ | mem := State.mem_allHarts.mp (List.mem_of_find?_eq_some found)
    · rw [goes] at waits
      cases waits
    · have other : s.h.isHart g.goesOn.core g.goesOn.slot g.goesOn.launch = false := (Hart.isHart_comm s.h g.goesOn).trans (apart g mem)
      rw [eq, State.putCore_h, State.mergedT_h, State.putCore_mem, State.mergedT_mem, State.putHart_other other]
      exact ⟨rfl, rfl⟩

/-- The hart in focus has retired and left its wait lists; what waits for it has not gone on yet. -/
def State.retiring (s : State) : State :=
  ({ s with h := { s.h with run := .retired, rlx := 0, barWait := none, mergeWait := false, deferred := none } } : State).leaveWaits
    s.h.core s.h.slot s.h.launch

theorem State.retireHart_eq (s : State) : s.retireHart = (s.retiring.recheckBarriers s.retiring.h).recheckMerge s.retiring.h := rfl

/-- A retirement changes nothing more of the hart, nor of storage, than its own. -/
theorem State.retireHart_keeps {s : State} (apart : s.Apart) : s.retireHart.h = s.retiring.h ∧ s.retireHart.mem = s.retiring.mem := by
  obtain ⟨focus, mem, apart⟩ := State.recheckBarriers_keeps (s := s.retiring) rfl apart s.retiring.h
  obtain ⟨focus', mem'⟩ := State.recheckMerge_keeps apart (congrArg Hart.mergeWait focus) s.retiring.h
  exact ⟨focus'.trans focus, mem'.trans mem⟩

/-- The only other hart, which waits in LMERGE for the hart in focus, goes on when that retires. -/
theorem State.retireHart_serves {s : State} {g : Hart} (placed : s.h.launch ≠ 0) (only : s.harts = [g]) (waits : g.mergeWait = true)
    (same : sameSplit g s.h = true) (bar : g.barWait = none) (slot : g.slot ≠ s.h.slot) : s.retireHart.harts = [g.goesOn] := by
  have all : s.retiring.allHarts = [s.retiring.h, g] := by
    have others : s.retiring.harts = [g] := only
    rw [State.allHarts, if_neg (show s.retiring.h.launch ≠ 0 from placed), others]
  have goes : s.retiring.h.mergeWait = false := rfl
  have same : sameSplit g s.retiring.h = true := same
  have done : s.retiring.splitDone g = true := by
    have retired : s.retiring.h.run = .retired := rfl
    simp [State.splitDone, all, retired]
  have found : (s.retiring.allHarts.find? fun g => g.mergeWait && sameSplit g s.retiring.h && s.retiring.splitDone g) = some g := by
    simp [all, goes, waits, same, done]
  have unwaited : ∀ x ∈ s.retiring.allHarts, x.barWait = none := by
    have own : s.retiring.h.barWait = none := rfl
    simp [all, own, bar]
  have other : s.retiring.h.isHart g.goesOn.core g.goesOn.slot g.goesOn.launch = false := by
    have apart : s.retiring.h.slot ≠ g.goesOn.slot := fun e => slot e.symm
    simp [Hart.isHart, apart]
  rw [State.retireHart_eq, State.recheckBarriers_unwaited unwaited]
  obtain ⟨c, eq⟩ := State.recheckMerge_some found
  rw [eq, State.putCore_harts, State.mergedT_harts, State.putHart_other other]
  show s.harts.map _ = _
  rw [only, List.map_singleton, if_pos (by simp [Hart.isHart, Hart.goesOn, Hart.merged, Hart.discardVector])]

/-! ## LMERGE (14_isa_vector.md R372, 06_execution.md R167) -/

/-- A participant other than index 0 after LMERGE: it has no vector state and has retired. -/
def State.withdrawn (s : State) : State := ({ s with h := { s.h.discardVector with run := .retired } } : State).retireHart

/-- A participant withdraws without a change to storage. -/
theorem State.withdrawn_keeps {s : State} (apart : s.Apart) : s.withdrawn.h.run = .retired ∧ s.withdrawn.h.vec = VState.reset ∧
    s.withdrawn.mem.spad = s.mem.spad ∧ s.withdrawn.mem.hbm = s.mem.hbm := by
  obtain ⟨focus, mem⟩ := State.retireHart_keeps (s := { s with h := { s.h.discardVector with run := .retired } }) apart
  rw [State.withdrawn, focus, mem]
  exact ⟨rfl, rfl, rfl, rfl⟩

theorem BytesKept.of_cells {s t : State} (spad : t.mem.spad = s.mem.spad) (hbm : t.mem.hbm = s.mem.hbm) : BytesKept s t := fun l => by
  cases l with
  | spad core off => rw [byteAt, byteAt, spad]
  | hbm pa key => rw [byteAt, byteAt, hbm]

/-- A hart that waits in LMERGE for this participant alone goes on when it withdraws. -/
theorem State.withdrawn_serves {s : State} {g : Hart} (placed : s.h.launch ≠ 0) (only : s.harts = [g]) (waits : g.mergeWait = true)
    (same : sameSplit g s.h = true) (bar : g.barWait = none) (slot : g.slot ≠ s.h.slot) : s.withdrawn.harts = [g.goesOn] := by
  have same' : sameSplit g { s.h.discardVector with run := .retired } = true := by
    rw [Hart.discardVector_eq]
    exact same
  exact State.retireHart_serves (s := { s with h := { s.h.discardVector with run := .retired } }) placed only waits same' bar slot

/-- The splitter after LMERGE, once the other participants have retired. -/
def State.mergeOver (s : State) : State := ({ s with h := s.h.merged } : State).mergedT s.h

@[simp] theorem State.mergeOver_h (s : State) : s.mergeOver.h = s.h.merged := State.mergedT_h ..
@[simp] theorem State.mergeOver_harts (s : State) : s.mergeOver.harts = s.harts := State.mergedT_harts ..
@[simp] theorem State.mergeOver_mem (s : State) : s.mergeOver.mem = s.mem := State.mergedT_mem ..

/-- A merge leaves the number of the vector threads of a launch as it is. -/
theorem State.vthreads_merged {s : State} (placed : s.h.launch ≠ 0) (core : Nat) (launch : BitVec 32) :
    ({ s with h := s.h.merged } : State).vthreads core (fun g => g.launch == launch) = s.vthreads core (fun g => g.launch == launch) := by
  have all : ({ s with h := s.h.merged } : State).allHarts = s.h.merged :: s.harts := if_neg placed
  rw [State.vthreads, State.vthreads, all, State.allHarts, if_neg placed]
  simp only [← List.countP_eq_length_filter, List.countP_cons]
  rfl

/-- T of a core that the launch has alone, after the merge. -/
theorem State.mergeOver_split {s : State} (placed : s.h.launch ≠ 0) (seat : s.h.core = s.c.id)
    (alone : ∀ g ∈ s.harts, g.core = s.h.core → g.seated = true → g.launch = s.h.launch) :
    s.mergeOver.c.split = splitFor (s.vthreads s.h.core fun g => g.launch == s.h.launch) := by
  have all : ({ s with h := s.h.merged } : State).allHarts = s.h.merged :: s.harts := if_neg placed
  rw [← State.vthreads_merged placed]
  refine State.mergedT_split seat.symm fun g mem => ?_
  rw [all] at mem
  obtain rfl | mem := List.mem_cons.mp mem
  · exact fun _ _ => rfl
  · exact alone g mem

theorem exec_lmerge_illegal {s : State} (window : s.h.rlx = 0) (whole : fldN s.h.csr.splitst 2 2 = 0) :
    exec .lmerge s = .next (s.raise (s.trapWord causeIllegal)) := by
  show finish s.closeWindow.lmerge = _
  rw [State.closeWindow_of window, State.lmerge, if_pos whole]
  rfl

/-- Two harts of one split, one of which is known to be in one (06_execution.md R168). -/
theorem sameSplit_iff {g h : Hart} (split : fldN h.csr.splitst 2 2 ≠ 0) : sameSplit g h = true ↔
    g.core = h.core ∧ g.launch = h.launch ∧ fldN g.csr.splitst 2 2 ≠ 0 ∧ fldN g.csr.splitst 4 3 = fldN h.csr.splitst 4 3 := by
  simp only [sameSplit, Bool.and_eq_true, beq_iff_eq, bne_iff_ne, split, ne_eq, not_false_eq_true, and_true, and_assoc]

/-- The merge of the hart in focus is complete once the other participants have retired. -/
theorem State.splitDone_iff {s : State} (placed : s.h.launch ≠ 0) : s.splitDone s.h = true ↔
    ∀ g ∈ s.harts, g.slot ≠ s.h.slot → sameSplit g s.h = true → g.run = .retired := by
  simp only [State.splitDone, State.allHarts, if_neg placed, List.all_cons, beq_self_eq_true, Bool.or_true, Bool.true_or, Bool.true_and,
    List.all_eq_true, Bool.or_eq_true, beq_iff_eq, Bool.not_eq_true']
  refine forall₂_congr fun g _ => ?_
  rw [← Bool.not_eq_true, or_assoc, or_iff_not_imp_right, not_or, not_not, and_imp]

/-- What LMERGE does in a split, with nothing of the hart outstanding. -/
theorem exec_lmerge {s : State} (quiet : Quiet s) (empty : s.h.vec.vq = []) (running : s.h.vec.pump.state ≠ 2) (drained : Drained s 5)
    (placed : s.h.launch ≠ 0) (split : fldN s.h.csr.splitst 2 2 ≠ 0) :
    exec .lmerge s = finish (if fldN s.h.csr.splitst 0 2 ≠ 0 then
        (if s.postedOpen 5 then .wait s.dropPump else .ok s.withdrawn)
      else if s.splitDone s.h then .ok s.mergeOver
      else .wait { s with h := { s.dropPump.h with run := .parkedBar, mergeWait := true } }) := by
  show finish s.closeWindow.lmerge = _
  rw [State.closeWindow_of quiet.1, State.lmerge, if_neg split]
  show finish (if s.dropPump.vecBusy then _ else _) = _
  have idle : (if s.h.vec.pump.state = 3 then Pump.reset else s.h.vec.pump).state ≠ 2 := by
    split
    · decide
    · exact running
  rw [State.dropPump_eq]
  generalize (if s.h.vec.pump.state = 3 then Pump.reset else s.h.vec.pump) = p at idle ⊢
  let u : State := { s with h := { s.h with vec := { s.h.vec with pump := p } } }
  have busy : u.vecBusy = false := by
    have queue : u.h.vec.vq = [] := empty
    rw [State.vecBusy, queue]
    simpa using idle
  have engines : u.enginesOpen 5 = false := by
    obtain ⟨copies, weir, pushes, strips, queued, -⟩ := drained
    exact State.enginesOpen_of_drained ⟨copies, weir, pushes, strips, queued, fun _ replays => absurd replays idle⟩
  have done : u.splitDone u.h = s.splitDone s.h :=
    Bool.eq_iff_iff.mpr ((State.splitDone_iff (s := u) placed).trans (State.splitDone_iff placed).symm)
  show finish (if u.vecBusy then _ else u.unmarked fun v => _) = _
  rw [busy, if_neg Bool.false_ne_true, State.unmarked_of (s := u) _ quiet.2, engines, if_neg Bool.false_ne_true, done]
  rfl

/-- Settles O20: LSPLIT by what `State.maySplit` asks and the harts that it starts, LMERGE by what is left of the hart and what its retirement does for the
hart that waits. The MTVEC and the injection gaps of the new harts are log entry 65, choices of the model that the statement leaves open. -/
theorem splitResults : Obligations.SplitResults := by
  unfold Obligations.SplitResults
  refine ⟨?split, ?merge⟩
  case split =>
    intro s d a k l window marked remote free running placed seat fits _ n own slots threads alone allowed st
    have id : l.id = s.h.launch := by simpa using List.find?_some placed
    have slots_eq : slots = s.freeSlots l := by simp only [slots, State.freeSlots, id, seat]
    have alone_eq : alone = s.seatedAlone l.id := by simp only [alone, State.seatedAlone, id, seat]
    have may : s.maySplit l n = true ↔ allowed := by
      simp only [State.maySplit_iff, allowed, slots_eq, alone_eq, threads, State.vthreads, id, seat, beq_true, beq_false]
      rfl
    refine ⟨fun one two => exec_lsplit_illegal window (not_or.mpr ⟨one, two⟩), fun code => ⟨exec_lsplit_misaligned window code running free,
      fun even refused => computes_alu (exec_lsplit_refused window code running free marked remote placed even (by simpa using mt may.mp refused)),
      fun even may_ => ?_⟩⟩
    have two : n = 2 ∨ n = 4 := by rcases code with rfl | rfl <;> simp [n]
    have after := s.splitInto_eq l d (s.x a) n
    refine ⟨_, exec_lsplit_split window code running free marked remote placed even (may.mpr may_), ⟨?pc, ?instret⟩, State.splitInto_result .., ?mem,
      ?index, fun r => State.vreg_discarded ?vec r, ?vl, ?vdirty, ?alone, ?shared, fun i q lt slot => ?_⟩
    case pc | mem | vec | vl | vdirty => rw [after]; rfl
    case instret =>
      rw [after]
      exact congrArg (· + 1) s.h.discardVector_instret
    case index =>
      rw [after]
      have zero := splitst_toNat (idx := 0) (by decide) s.h.slot two
      rw [Nat.zero_add, Nat.zero_add] at zero
      exact zero
    case alone =>
      intro is
      rw [after]
      exact (if_pos (alone_eq ▸ is)).trans (by rcases two with e | e <;> rw [e] <;> rfl)
    case shared =>
      intro is
      rw [after]
      exact if_neg (by rw [← alone_eq, is]; decide)
    obtain ⟨h, mem, m, rfl⟩ := State.splitInto_harts fits lt (slots_eq ▸ slot) d (s.x a)
    refine ⟨_, mem, rfl, rfl, rfl, rfl, rfl, rfl, rfl, ?_, show (BitVec.ofNat 7 (1 * 2 ^ 5)).toNat / 32 = 1 by decide, rfl, fun j => ?_⟩
    · exact (splitst_toNat (by omega) s.h.slot two).trans (by omega)
    · exact Vector.getElem_ofFn _
  case merge =>
    intro s quiet empty running drained placed apart idx partner done
    refine ⟨exec_lmerge_illegal quiet.1, fun split => ?_⟩
    have index : fldN s.h.csr.splitst 0 2 = idx := congrArg (· % 4) (Nat.div_one _)
    have done_iff : s.splitDone s.h = true ↔ done := (State.splitDone_iff placed).trans
      (forall₂_congr fun g _ => imp_congr Iff.rfl (imp_congr (sameSplit_iff split) Iff.rfl))
    rw [exec_lmerge quiet empty running drained placed split, index]
    refine ⟨fun other posted => ?retire, fun zero waits => ?park, fun zero finished => ?merge⟩
    case retire =>
      have keeps := State.withdrawn_keeps apart
      have serves {g : Hart} := State.withdrawn_serves (g := g) placed
      rw [if_pos other, State.postedOpen_of posted, if_neg Bool.false_ne_true]
      generalize s.withdrawn = t at keeps serves ⊢
      obtain ⟨retired, vec, spad, hbm⟩ := keeps
      exact ⟨t.retire, rfl, retired, State.vreg_discarded vec, BytesKept.of_cells spad hbm, fun g only waits mine bar slot =>
        ⟨g.goesOn, serves only waits ((sameSplit_iff split).mpr mine) bar slot, rfl, rfl, rfl, rfl⟩⟩
    case park =>
      rw [if_neg (not_not.mpr zero), if_neg (mt done_iff.mp waits), State.dropPump_eq]
      rfl
    case merge =>
      have focus := s.mergeOver_h
      have mem := s.mergeOver_mem
      have others := s.mergeOver_harts
      have threads := State.mergeOver_split (s := s) placed
      rw [if_neg (not_not.mpr zero), if_pos (done_iff.mpr finished)]
      generalize s.mergeOver = t at focus mem others threads ⊢
      refine ⟨t.retire, rfl, ⟨?pc, ?instret⟩, ?index, ?vl, State.vreg_discarded ?vec, mem, others, threads⟩
      case pc | index | vl | vec => rw [State.retire, State.retireTo, focus]; rfl
      case instret =>
        rw [State.retire, State.retireTo_instret, focus]
        exact congrArg (· + 1) s.h.discardVector_instret

end Sys2Proof.Machine
end

section
/-! Proofs about a visit that issues an instruction (07_core.md R173, R174; 08_memory.md R219; 12_encoding.md R314) and about the Pump's instructions and
its capture (07_core.md R188, R190, R192; 14_isa_vector.md R373 to R375): the word at the issue first, then the Pump, then the step. -/

namespace Sys2Proof.Machine

open Sys2Proof.Safety

/-! ## The word at the issue -/

@[simp] theorem State.joins_h (s : State) : s.joins.h = s.h := by
  unfold State.joins
  split <;> rfl

theorem State.joins_eq (s : State) : s.joins = { s with c := { s.c with charge := s.joins.c.charge } } := by
  unfold State.joins
  split <;> rfl

@[simp] theorem State.clearFm_pump (s : State) (i : Instr) : (s.clearFm i).h.vec.pump = s.h.vec.pump := by
  unfold State.clearFm
  split <;> rfl

/-- FM that no batch fault has armed stays. -/
theorem State.clearFm_of {s : State} (i : Instr) (unarmed : s.h.vec.fmArmed = false) : s.clearFm i = s := by
  unfold State.clearFm
  rw [unarmed]
  rfl

/-- The state in which a word that waits for no register is captured or carried out: a strip joins the sequencer's ready threads. -/
def State.issued (s : State) (w : IWord) : State :=
  let t := ({ s with h := { s.h with word := w } } : State).clearFm (decode w)
  if stripMajor w = true ∧ decode w ≠ .illegalWord w then t.joins else t

theorem State.issued_ite (s : State) (w : IWord) : s.issued w =
    let t := ({ s with h := { s.h with word := w } } : State).clearFm (decode w)
    if stripMajor w && decode w != .illegalWord w then t.joins else t := by
  unfold State.issued
  simp only [Bool.and_eq_true, bne_iff_ne]

@[simp] theorem State.issued_pump (s : State) (w : IWord) : (s.issued w).h.vec.pump = s.h.vec.pump := by
  unfold State.issued
  dsimp only
  split <;> simp

/-- With FM unarmed, the issue keeps the word and may change the charges of the core's queues, and nothing else. -/
theorem State.issued_eq {s : State} (w : IWord) (unarmed : s.h.vec.fmArmed = false) :
    ∃ charge, s.issued w = { s with h := { s.h with word := w }, c := { s.c with charge := charge } } := by
  have kept := State.clearFm_of (s := { s with h := { s.h with word := w } }) (decode w) unarmed
  unfold State.issued
  rw [kept]
  split
  · exact ⟨_, State.joins_eq _⟩
  · exact ⟨_, rfl⟩

theorem State.awaitsLocal_of {s : State} (rs : List Reg) (marked : s.h.marked = []) : s.awaitsLocal rs = false := by
  unfold State.awaitsLocal
  rw [marked, List.any_nil]

theorem State.awaitsRemote_of {s : State} (rs : List Reg) (remote : s.remoteMarked = 0) : s.awaitsRemote rs = false := by
  unfold State.remoteMarked at remote
  rw [List.length_eq_zero_iff, List.filter_eq_nil_iff] at remote
  unfold State.awaitsRemote
  rw [List.any_eq_false]
  exact fun r mem waits => remote r mem (Bool.and_eq_true_iff.mp waits).1

theorem State.remoteMarked_of {s : State} (plain : ∀ r ∈ s.c.reqs, r.marked = false) : s.remoteMarked = 0 := by
  unfold State.remoteMarked
  rw [List.length_eq_zero_iff, List.filter_eq_nil_iff]
  exact fun r mem => by simp [plain r mem]

/-- The hart after its Pump has taken or refused a word. -/
def Res.captured : Res → State
  | .ok u => u.retire
  | .trap t u => u.raise t
  | .wait u => u

/-- With no marked access outstanding, a Pump that captures takes the word, and otherwise it is carried out at once. -/
theorem State.issueWord_unmarked {s : State} (w : IWord) (marked : s.h.marked = []) (remote : s.remoteMarked = 0) : s.issueWord w =
    if s.h.vec.pump.state = 1 then .over ((s.issued w).capture w).captured else .run (decode w) (s.issued w) := by
  have here := State.awaitsLocal_of (s := { s with h := { s.h with word := w } }) (readFields w) marked
  have away := State.awaitsRemote_of (s := { s with h := { s.h with word := w } }) (readFields w) remote
  rw [← s.issued_pump w, State.issued_ite]
  unfold State.issueWord
  dsimp only
  rw [here, away, if_neg Bool.false_ne_true, if_neg Bool.false_ne_true]
  rfl

/-! ## PUMP and PUMPSTOP (14_isa_vector.md R373, R375) -/

/-- A vector thread with vector state passes the checks of a legal word. -/
theorem State.vecGate_of {s : State} (k : Res) (thread : s.h.vthread = true) (vs : s.h.csr.sstatus.toNat / 32 ≠ 0) : s.vecGate true k = k := by
  have on : s.h.csr.vs ≠ 0 := by
    have small : s.h.csr.sstatus.toNat / 32 < 4 := Nat.div_lt_of_lt_mul s.h.csr.sstatus.isLt
    show s.h.csr.sstatus.toNat / 32 % 4 ≠ 0
    rwa [Nat.mod_eq_of_lt small]
  unfold State.vecGate
  simp [thread, on]

section
variable {s : State} (thread : s.h.vthread = true) (vs : s.h.csr.sstatus.toNat / 32 ≠ 0)
include thread vs

theorem exec_pump (n : BitVec 4) (m : BitVec 3) (a : Reg) (st w : BitVec 2) (idle : s.vecBusy = false) :
    exec (.pump n m a st w) s = finish (s.pumpStart n m (s.x a) st w) := by
  show finish (s.vecHold true _) = _
  unfold State.vecHold
  rw [State.vecGate_of _ thread vs, idle, if_neg Bool.false_ne_true]

theorem exec_pumpstop : exec .pumpstop s = finish (.ok s.pumpstop) := by
  show finish (s.vecGate true _) = _
  rw [State.vecGate_of _ thread vs]

end

/-! ## Capture (07_core.md R188, 14_isa_vector.md R374) -/

/-- Whether a word may be captured does not depend on the word at issue, nor on the charges. -/
theorem State.mayCapture_issued {s : State} (w x : IWord) (unarmed : s.h.vec.fmArmed = false) : (s.issued w).mayCapture x = s.mayCapture x := by
  obtain ⟨charge, same⟩ := State.issued_eq w unarmed
  rw [same]
  rfl

/-- The Pump that has taken one more entry: after the last one it replays, or is IDLE when there is nothing to repeat. -/
def Pump.taking (p : Pump) (e : VqEntry) : Pump :=
  if p.words.length < p.len.toNat then { p with words := p.words ++ [e] }
  else if p.rem = 0 then Pump.reset
  else { p with words := p.words ++ [e], state := 2 }

/-- The entry that a capture of the word being issued keeps: the word with VTYPE, VL and its scalar operands. -/
def State.captureEntry (s : State) (x : IWord) : VqEntry := .plain x s.h.csr.vtype s.h.csr.vl (s.x (fld x 15 5)) (s.x (fld x 20 5))

section
variable {p : Pump} (e : VqEntry)

theorem Pump.taking_more (more : p.words.length < p.len.toNat) : p.taking e = { p with words := (p.taking e).words } ∧
    (p.taking e).words.map VqEntry.word = p.words.map VqEntry.word ++ [e.word] := by
  have same : p.taking e = { p with words := p.words ++ [e] } := if_pos more
  rw [same]
  exact ⟨rfl, List.map_append⟩

theorem Pump.taking_last (last : p.words.length = p.len.toNat) (repeats : p.rem ≠ 0) :
    p.taking e = { p with words := (p.taking e).words, state := 2 } ∧
    (p.taking e).words.map VqEntry.word = p.words.map VqEntry.word ++ [e.word] := by
  have same : p.taking e = { p with words := p.words ++ [e], state := 2 } := (if_neg (Nat.not_lt.mpr last.ge)).trans (if_neg repeats)
  rw [same]
  exact ⟨rfl, List.map_append⟩

theorem Pump.taking_none (last : p.words.length = p.len.toNat) (none_ : p.rem = 0) : p.taking e = Pump.reset :=
  (if_neg (Nat.not_lt.mpr last.ge)).trans (if_pos none_)

end

theorem State.capture_taking {s : State} {x : IWord} (may : s.mayCapture x = true) :
    s.capture x = .ok (s.setPump (s.h.vec.pump.taking (s.captureEntry x))) := by
  have count : (s.h.vec.pump.words ++ [s.captureEntry x]).length ≤ s.h.vec.pump.len.toNat ↔ s.h.vec.pump.words.length < s.h.vec.pump.len.toNat := by
    rw [List.length_append]
    exact Nat.succ_le_iff
  unfold State.capture
  rw [may]
  refine (if_neg Bool.false_ne_true).trans ?_
  unfold Pump.taking
  by_cases more : s.h.vec.pump.words.length < s.h.vec.pump.len.toNat
  · rw [if_pos more]
    exact if_pos (count.mpr more)
  · rw [if_neg more]
    refine (if_neg (mt count.mp more)).trans ?_
    split <;> rfl

theorem State.capture_refused {s : State} {x : IWord} (may : s.mayCapture x = false) :
    s.capture x = .trap (s.trapWord causeIllegal) (s.setPump Pump.reset) := by
  unfold State.capture
  rw [may]
  rfl

/-- Settles O21: PUMP and PUMPSTOP pass the vector checks, and the word issued while the Pump captures is taken by `Pump.taking`, or refused. -/
theorem pumpResults : Obligations.PumpResults := by
  unfold Obligations.PumpResults
  intro s n m a st w thread vs
  refine ⟨fun quiet running small => ?start, fun quiet stop => ?illegal, fun replay => ?last, fun suspended => ?drop, fun idle => ?none,
    fun x capturing unmarked unarmed => ?capture⟩
  case start =>
    rw [exec_pump thread vs n m a st w quiet]
    exact congrArg finish (if_neg (by simpa using ⟨running, small⟩))
  case illegal =>
    rw [exec_pump thread vs n m a st w quiet]
    exact congrArg finish (if_pos (by simpa using stop))
  case last =>
    rw [exec_pumpstop thread vs]
    exact congrArg (finish ∘ Res.ok) (if_pos replay)
  case drop =>
    rw [exec_pumpstop thread vs]
    exact congrArg (finish ∘ Res.ok) ((if_neg (by simp [suspended])).trans (if_pos suspended))
  case none =>
    rw [exec_pumpstop thread vs]
    exact congrArg (finish ∘ Res.ok) ((if_neg (by simp [idle])).trans (if_neg (by simp [idle])))
  case capture =>
    obtain ⟨marked, remote, -⟩ := unmarked
    rw [← State.mayCapture_issued x x unarmed, State.issueWord_unmarked x marked remote, if_pos capturing]
    obtain ⟨charge, same⟩ := State.issued_eq x unarmed
    rw [same]
    refine ⟨fun may => ?_, fun may => ?_⟩
    · rw [State.capture_taking may]
      exact ⟨_, rfl, ⟨rfl, rfl⟩, rfl, rfl, rfl, Pump.taking_more _, Pump.taking_last _, Pump.taking_none _⟩
    · rw [State.capture_refused may]
      exact ⟨_, rfl, rfl, rfl, rfl, rfl⟩

/-! ## A visit that issues (07_core.md R173, 08_memory.md R219) -/

/-- The fetch of a word that the cache holds, that may be executed, and that holds no poison. -/
theorem State.fetchIssue_of {s : State} {hit : Hit} {w : Nat} (cached : s.missNow = false) (checked : s.check s.h.pc 4 4 .fetch = .ok hit)
    (word : (s.fill hit.fill).readLoc hit.loc 4 = some w) :
    s.fetchIssue = ((s.fill hit.fill).countAccess 0x09).issueWord (BitVec.ofNat 32 w) := by
  have word' : ((s.fill hit.fill).countAccess 0x09).readLoc hit.loc 4 = some w := word
  unfold State.fetchIssue
  rw [cached, if_neg Bool.false_ne_true, checked]
  dsimp only
  rw [word']

/-- The fetch fills the translation buffers and counts; no request is made or ends. -/
theorem State.fetch_reqs (s : State) (e : Option TlbEntry) : ((s.fill e).countAccess 0x09).c.reqs = s.c.reqs := by
  show (s.fill e).c.reqs = s.c.reqs
  unfold State.fill
  cases e with
  | none => rfl
  | some t =>
    dsimp only
    split <;> rfl

theorem State.focusSlot_sched {s u : State} {n : Nat} {x : BitVec 3} (focus : s.focusSlot n x = some u) : u.sched = s.sched := by
  obtain ⟨h, -, rfl⟩ := Option.map_eq_some_iff.mp focus
  simp

theorem State.missNow_of {s : State} (sched : s.sched = []) : s.missNow = false := by
  unfold State.missNow
  rw [sched]

section
variable {s u : State} (due : Due s u)
include due

/-- The hart that is due is the one that the core's visit finds. -/
theorem State.startVisit_due : s.startVisit s.c.id = u.visitHart u.dueSlot := by
  obtain ⟨well, focus, -⟩ := due
  have cycle : s.atCycle s.c.id = { s with c := s.c.settle } := by
    unfold State.atCycle
    rw [State.focusCore_focus]
  unfold State.startVisit
  rw [well, if_neg Bool.false_ne_true, cycle]
  dsimp only
  rw [focus]

theorem State.sched_due : u.sched = s.sched := by
  obtain ⟨-, focus, -⟩ := due
  rw [State.focusSlot_sched focus]

/-- Nothing comes before the fetch of the hart that is due. -/
theorem State.visitHart_due (x : BitVec 3) {i : Instr} {t : State} (issues : u.fetchIssue = .run i t) : u.visitHart x = .run i t := by
  obtain ⟨-, -, free, goes, ready, paced, clear, open_⟩ := due
  unfold State.visitHart
  simp [free, goes, ready, clear, open_, issues, BitVec.not_lt.mpr paced]

end

/-- What a visit comes to, after the instruction that it issues. -/
def Visit.outcome : Visit → Host.Outcome State Fault Refusal
  | .over t => .next t.tick
  | .run i t => match exec i t with
    | .next u => .next (t.endVisit (t.drained u))
    | .fault f => .fault f
    | .refused r => .refused r

theorem visit_eq (n : Nat) (s : State) : visit n s = (s.startVisit n).outcome := by
  unfold visit Visit.outcome
  rfl

theorem step_visits {s : State} (sched : s.sched = []) : step s = visit s.c.id s := by
  unfold step
  rw [sched]

theorem State.bubble_eq (s : State) (x : BitVec 3) : s.bubble x = { s with c := { s.c with evc := (s.bubble x).c.evc } } := by
  unfold State.bubble
  split <;> rfl

/-- The end of a visit counts, and the cycle of its core passes. -/
theorem State.endVisit_eq (t z : State) : t.endVisit z = { z.focusCore t.c.id with
    c := { (z.focusCore t.c.id).c with evc := (t.endVisit z).c.evc, cycle := (z.focusCore t.c.id).c.cycle + 1 } } := by
  unfold State.endVisit
  dsimp only
  split
  · rfl
  · split
    · unfold State.lost
      rw [State.bubble_eq]
      rfl
    · rw [State.bubble_eq]
      rfl

/-- The visit of the core issues the word that the hart that is due has fetched. -/
theorem State.startVisit_issues {s u : State} {hit : Hit} {w : Nat} (sched : s.sched = []) (due : Due s u)
    (checked : u.check u.h.pc 4 4 .fetch = .ok hit) (word : (u.fill hit.fill).readLoc hit.loc 4 = some w) (running : u.h.vec.pump.state ≠ 1)
    (marked : u.h.marked = []) (plain : ∀ r ∈ u.c.reqs, r.marked = false) :
    s.startVisit s.c.id = .run (decode (BitVec.ofNat 32 w)) (((u.fill hit.fill).countAccess 0x09).issued (BitVec.ofNat 32 w)) := by
  have cached : u.missNow = false := State.missNow_of ((State.sched_due due).trans sched)
  have same : ((u.fill hit.fill).countAccess 0x09).h = u.h := State.fill_h ..
  have issues := State.fetchIssue_of cached checked word
  rw [State.issueWord_unmarked _ (by rwa [same]) (State.remoteMarked_of (by rwa [State.fetch_reqs])), same, if_neg running] at issues
  rw [State.startVisit_due due, State.visitHart_due due _ issues]

/-- Settles O55: a visit is followed to the instruction that it issues, and a turn of the schedule is a branch of `step`. That turns choose which agent acts
is log entry 5, the model's choice. -/
theorem stepRunsDecoded : Obligations.StepRunsDecoded := by
  unfold Obligations.StepRunsDecoded
  intro s
  refine ⟨?issue, fun t z => ?ends, fun t z => ?drained, step_visits, fun n r sched => ?visit, fun i r sched event admits => ?event,
    fun i r sched barred => ?barred, fun i => ?admits, fun m r sched idle => ?idle, fun x k r sched => ?perform⟩
  case issue =>
    intro u hit w sched due checked word _ running marked plain
    have issues := State.startVisit_issues sched due checked word running marked plain
    exact (step_visits sched).trans ((visit_eq _ s).trans (congrArg Visit.outcome issues))
  case ends =>
    rw [State.endVisit_eq]
    simp
  case drained =>
    unfold State.drained
    refine ⟨fun empty => ?_, fun waits trap => ?_, fun none_ => ?_⟩ <;> simp [*]
  case visit =>
    unfold step
    rw [sched]
  case event =>
    simp [step, sched, event, admits]
  case barred =>
    rcases barred with word | shut <;> simp [step, *]
  case admits =>
    simp [State.admits]
  case idle =>
    rcases idle with rfl | rfl | ⟨n, rfl⟩ | ⟨n, rfl⟩ <;> simp [step, sched, State.ask]
  case perform =>
    unfold step
    rw [sched]

end Sys2Proof.Machine
end
